-- ==== Sys2Proof/Word.lean ====
section
/-! DEFINITION. The word types of the Mbadin and their plainest arithmetic (01 R9, R12; 03 R5). -/

namespace Sys2Proof

/-- A memory byte. -/
abbrev Byte := BitVec 8

/-- A vector, scalar or special register (R9). -/
abbrev Word := BitVec 32

/-- A 64-bit value: a register pair under R12, a literal, a pointer. -/
abbrev DWord := BitVec 64

/-- A pointer (R17): [63:44] segment number, [43:0] offset. -/
abbrev Ptr := BitVec 64

/-- The high word of a 64-bit value: what the even register of a pair holds (R12). -/
def hiWord (d : DWord) : Word := d.extractLsb' 32 32

/-- The low word of a 64-bit value: what the odd register of a pair holds (R12). -/
def loWord (d : DWord) : Word := d.extractLsb' 0 32

/-- A 64-bit value from its high and its low word (R12). -/
def ofWords (hi lo : Word) : DWord := hi ++ lo

/-- `Seg(ptr)`: ptr[63:44] (R6, R17). -/
def segOf (p : Ptr) : Nat := (p >>> 44).toNat

/-- `Off(ptr)`: ptr[43:0] (R6, R17). -/
def offOf (p : Ptr) : Nat := p.toNat % 2 ^ 44

/-- The pointer Seg : (off mod 2^44), the carry out of bit 43 discarded (R17). -/
def mkPtr (seg off : Nat) : Ptr := BitVec.ofNat 64 (seg % 2 ^ 20 * 2 ^ 44 + off % 2 ^ 44)

end Sys2Proof
end

