-- ==== Sys2Proof/Syntax.lean ====
section
/-! DEFINITION. The steps of the Mbadin as syntax: one constructor per row of the table of operations. An encoded
instruction keeps the FIELDS of its words (04 R64 to R74), because a field that breaks a rule is still an instruction:
it raises RESERVED_FIELD in the threads whose guard is true (R85), and nothing in the others. A row that is no encoded
instruction acts on the Subject that State.subject holds. -/

namespace Sys2Proof

/-- The fields of the OP layout (R65), the minor number being the constructor. -/
structure OpF where
  d : BitVec 6
  a : BitVec 6
  b : BitVec 6
  g : BitVec 3
  deriving DecidableEq, Repr

/-- The fields of the M layout (R66). -/
structure MemF where
  d : BitVec 6
  a : BitVec 6
  size : BitVec 3
  s : Bool
  ofs : BitVec 5
  deriving DecidableEq, Repr

/-- The fields of the BR layout (R64). -/
structure BrF where
  g : BitVec 3
  n : Bool
  ofs : BitVec 20
  deriving DecidableEq, Repr

/-- The fields of the extended format (R70, R71), MAJ and minor [2:0] being the constructor. `ca`, `cb` and `cd` are the
class bits [12], [11] and [10] of word 1, `xb` and `cs` bits [5] and [3] of the minor field. -/
structure ExtF where
  d : BitVec 8
  a : BitVec 8
  b : BitVec 8
  c : BitVec 8
  n : Bool
  g : BitVec 4
  xb : Bool
  cs : Bool
  ca : Bool
  cb : Bool
  cd : Bool
  route : BitVec 3
  mod : BitVec 7
  x : BitVec 32
  deriving DecidableEq, Repr

/-- The forms of a row of more than one word (R62): base with literal (LEN 01, the layout's fields `β`), extended (LEN 10),
extended with literal (LEN 11). -/
inductive XForm (β : Type) where
  | lit (f : β) (l : DWord)
  | ext (f : ExtF)
  | extLit (f : ExtF) (l : DWord)
  deriving DecidableEq, Repr

/-- The forms of a row that has no base layout (R67). -/
abbrev EForm := XForm Empty

/-- The words of an instruction as they stand: one, three or five (R62). -/
inductive RawWords where
  | one (w0 : Word)
  | three (w0 w1 w2 : Word)
  | five (w0 w1 w2 w3 w4 : Word)
  deriving DecidableEq, Repr

/-- Every form of an OP-layout row: the rows CLK_LO_READ and THND_WRITE have words of both SRD and SRD_X (SWR and SWR_X). -/
inductive AnyForm where
  | base (f : OpF)
  | more (f : XForm OpF)
  deriving DecidableEq, Repr

/-- What the runtime sets for one group when its team starts (R13 REPLY and SAVEP 'runtime', R360, R371), and where the private slices of
its home lanes lie in the private segment, one after another (R19, R235). -/
structure RuntimeArea where
  reply : Ptr
  savep : Ptr
  slice : Nat
  deriving DecidableEq, Repr

/-- What the boot ROM finds in module flash and firmware builds from it (R417, R418): whether digest and signature hold,
the image's version and the minimum recorded, the carrier kind and DEV (R3), REBAL (R334), the silicon revision, the stacks' sizes and the
erratum records of the capability table, and the host window (R404). -/
structure FirmwareImage where
  signatureGood : Bool
  version : Nat
  minimum : Nat
  carrier : Nat
  rebal : Nat
  revision : Nat
  stackSizes : List Nat
  errata : List (List Byte)
  dev : BitVec 6
  windowHostBase : Nat
  windowDeviceBase : Nat
  windowSize : Nat
  deriving DecidableEq, Repr

/-- The header of a Joeth flit (R394), field by field. -/
structure FlitHead where
  type : BitVec 4
  vc : BitVec 2
  crd : BitVec 6
  cvc : BitVec 2
  seq : BitVec 12
  ack : BitVec 12
  src : BitVec 6
  dst : BitVec 6
  ctx : BitVec 6
  len : BitVec 8
  tag : BitVec 16
  epoch : BitVec 16
  crc : BitVec 32
  deriving DecidableEq, Repr

/-- The access kinds of FAUX (R26). -/
inductive Kind where
  | read | write | fetch | atomic
  deriving DecidableEq, Repr

/-- The operations of ATOM (R270). -/
inductive AtomOp where
  | add | min | max | and | or | xor | exch | cas | fadd
  deriving DecidableEq, Repr

/-- What a PANEL request carries (R398): context, target segment, offset, kind, size code and length in bytes (R225: a ray spans more than
its size), byte mask, data, and for an atomic its operation. -/
structure PanelRequest where
  ctx : Nat
  seg : Nat
  off : Nat
  kind : Kind
  size : BitVec 3
  len : Nat
  mask : Nat
  data : List Byte
  op : AtomOp
  signed : Bool
  compare : DWord
  operand : DWord
  deriving DecidableEq, Repr

/-- What comes back for a remote access (R351, R398, R411, R412): its bytes, a target's fault code with whether the page was
absent, Unsupported Request, Completer Abort, a completion timeout, or poisoned data. -/
inductive RemoteReply where
  | data (bytes : List Byte)
  | refused (code : Byte) (absent : Bool)
  | unsupported
  | aborted
  | timeout
  | poisoned
  deriving DecidableEq, Repr

/-- What the switching layer broadcasts for a panel domain (R401, R402). -/
inductive PanelOutcome where
  | resolved (value : Bool)
  | dissolved
  | mismatch (reason : BitVec 4)
  deriving DecidableEq, Repr

/-- An access of firmware through the management interface (R379, R404, R405, R420). -/
inductive MgmtAccess where
  | readStray
  | readSealedWrites
  | readErrors (die : Nat)
  | readPortMask
  | enableVectors (one two : Bool)
  | registerRegion (ctx seg off len : Nat)
  | readSensors
  deriving DecidableEq, Repr

/-- What firmware and the runtime write when they create a context (R229, R235, R237, R309, R369). -/
structure ContextSetup where
  segBase : Nat
  stl : Nat
  tableBase : Nat
  pkr : DWord
  queues : List DWord
  deriving DecidableEq, Repr

/-- What a step that is no encoded instruction acts on: which thread, group, team, barrier, line, access, command, context,
die, port or host address, with what the outside world brings. An encoded instruction acts on the bundle of State.issue. -/
inductive Subject where
  | nothing
  | thread (tid : Nat)
  | group (gid : Nat)
  | stores (gid count : Nat)
  | team (team : Nat)
  | barrier (team bar : Nat)
  | line (dom line : Nat)
  | bytes (dom addr count : Nat)
  | access (acc : Nat) (reply : RemoteReply)
  | command (cmd : Nat)
  | block (cmd block : Nat)
  | part (cmd block mask : Nat)
  | collective (key : Nat)
  | outcome (port : Nat) (head : FlitHead) (payload : List Byte) (key : Nat) (outcome : PanelOutcome)
  | share (ctx dom number : Nat)
  | launchOn (launch core : Nat)
  | placing (die : Nat) (areas : List RuntimeArea)
  | context (ctx : Nat)
  | creating (ctx : Nat) (record : ContextSetup)
  | queueEntry (ctx handle : Nat) (entry : DWord)
  | queue (ctx handle : Nat)
  | page (ctx page : Nat)
  | region (ctx seg off len : Nat)
  | firmware (image : FirmwareImage)
  | port (port : Nat)
  | request (port : Nat) (head : FlitHead) (payload : List Byte) (req : PanelRequest)
  | response (port : Nat) (head : FlitHead) (payload : List Byte) (reply : RemoteReply)
  | flit (port : Nat) (head : FlitHead) (payload : List Byte)
  | management (port : Nat) (head : FlitHead) (payload : List Byte) (access : MgmtAccess)
  | firmwareAccess (access : MgmtAccess)
  | host (hpa : Nat) (data : List Byte)
  | window (ofs : Nat) (value : Word)
  deriving DecidableEq, Repr

/-- One step of the Mbadin: an instruction or an event, one constructor per row of the table of operations, the
encoded instructions first. -/
inductive Instr where
  /-- NOP (R113): Base no-operation that takes one issue slot and has no other effect. -/
  | nop (f : OpF)
  /-- NOP_X (R113): Extended-form no-operation with guard and route free and every other field zero. -/
  | nopX (f : XForm OpF)
  /-- HINT (R84): Hint-space word of major 0x01 that executes as a no-op of its length whatever its other fields hold. -/
  | hint (fields : BitVec 24)
  /-- HINT_LONG (R84): Hint-space instruction of 12 or 20 bytes that executes as a no-op of its length. -/
  | hintLong (words : RawWords)
  /-- IADD (R91): Base integer add of A and B with wrap or saturation. -/
  | iadd (f : OpF)
  /-- IADD_X (R91): Extended-form integer add of A and B with wrap or saturation. -/
  | iaddX (f : XForm OpF)
  /-- ISUB (R91): Base integer subtract of B from A. -/
  | isub (f : OpF)
  /-- ISUB_X (R91): Extended-form integer subtract of B from A. -/
  | isubX (f : XForm OpF)
  /-- IMUL (R91): Base integer multiply, low half of the product. -/
  | imul (f : OpF)
  /-- IMUL_X (R91): Extended-form integer multiply, low half of the product. -/
  | imulX (f : XForm OpF)
  /-- IMULH (R91): Base integer multiply returning the upper half of the 2t-bit product. -/
  | imulh (f : OpF)
  /-- IMULH_X (R91): Extended-form integer multiply returning the upper half of the product. -/
  | imulhX (f : XForm OpF)
  /-- IMIN (R91): Base integer minimum of A and B. -/
  | imin (f : OpF)
  /-- IMIN_X (R91): Extended-form integer minimum of A and B. -/
  | iminX (f : XForm OpF)
  /-- IMAX (R91): Base integer maximum of A and B. -/
  | imax (f : OpF)
  /-- IMAX_X (R91): Extended-form integer maximum of A and B. -/
  | imaxX (f : XForm OpF)
  /-- IDIV (R91): Base truncating integer division giving all ones on a zero divisor. -/
  | idiv (f : OpF)
  /-- IDIV_X (R91): Extended-form truncating integer division. -/
  | idivX (f : XForm OpF)
  /-- IREM (R91): Base integer remainder with the dividend's sign, returning the dividend on a zero divisor. -/
  | irem (f : OpF)
  /-- IREM_X (R91): Extended-form integer remainder. -/
  | iremX (f : XForm OpF)
  /-- AND (R93): Base bitwise AND of A and B. -/
  | and (f : OpF)
  /-- AND_X (R93): Extended-form bitwise AND. -/
  | andX (f : XForm OpF)
  /-- OR (R93): Base bitwise OR of A and B. -/
  | or (f : OpF)
  /-- OR_X (R93): Extended-form bitwise OR. -/
  | orX (f : XForm OpF)
  /-- XOR (R93): Base bitwise XOR of A and B. -/
  | xor (f : OpF)
  /-- XOR_X (R93): Extended-form bitwise XOR. -/
  | xorX (f : XForm OpF)
  /-- ANDN (R93): Base A AND NOT B. -/
  | andn (f : OpF)
  /-- ANDN_X (R93): Extended-form A AND NOT B. -/
  | andnX (f : XForm OpF)
  /-- SHL (R93): Base logical left shift of A by B. -/
  | shl (f : OpF)
  /-- SHL_X (R93): Extended-form logical left shift. -/
  | shlX (f : XForm OpF)
  /-- SHR (R93): Base logical right shift of A by B. -/
  | shr (f : OpF)
  /-- SHR_X (R93): Extended-form logical right shift. -/
  | shrX (f : XForm OpF)
  /-- ASR (R93): Base arithmetic right shift of A by B. -/
  | asr (f : OpF)
  /-- ASR_X (R93): Extended-form arithmetic right shift. -/
  | asrX (f : XForm OpF)
  /-- ROT (R93): Base left rotation of A by B mod t. -/
  | rot (f : OpF)
  /-- ROT_X (R93): Extended-form left rotation. -/
  | rotX (f : XForm OpF)
  /-- CLZ (R95): Base count of leading zero bits of A. -/
  | clz (f : OpF)
  /-- CLZ_X (R95): Extended-form count of leading zeros. -/
  | clzX (f : XForm OpF)
  /-- POPC (R95): Base population count of A. -/
  | popc (f : OpF)
  /-- POPC_X (R95): Extended-form population count. -/
  | popcX (f : XForm OpF)
  /-- BREV (R95): Base bit reversal of A. -/
  | brev (f : OpF)
  /-- BREV_X (R95): Extended-form bit reversal. -/
  | brevX (f : XForm OpF)
  /-- BFX (R95): Base bit-field extract of A at the position and length in B. -/
  | bfx (f : OpF)
  /-- BFX_X (R95): Extended-form bit-field extract. -/
  | bfxX (f : XForm OpF)
  /-- BFI (R95): Bit-field insert of A into C at the position and length in B, extended form only. -/
  | bfi (f : EForm)
  /-- IABS (R95): Base integer absolute value with optional saturation. -/
  | iabs (f : OpF)
  /-- IABS_X (R95): Extended-form integer absolute value. -/
  | iabsX (f : XForm OpF)
  /-- IMAD (R95): Integer multiply-add a×b+c, extended form only. -/
  | imad (f : EForm)
  /-- LEA (R95): Base pointer arithmetic adding B to the 44-bit offset with the carry discarded. -/
  | lea (f : OpF)
  /-- LEA_X (R95): Extended-form pointer offset addition. -/
  | leaX (f : XForm OpF)
  /-- ICMP (R96): Base integer comparison writing the condition outcome to a predicate. -/
  | icmp (cond : BitVec 3) (f : OpF)
  /-- ICMP_X (R96): Extended-form integer comparison to a predicate. -/
  | icmpX (cond : BitVec 3) (f : XForm OpF)
  /-- PAND (R97): Base predicate AND. -/
  | pand (f : OpF)
  /-- PAND_X (R97): Extended-form predicate AND. -/
  | pandX (f : XForm OpF)
  /-- POR (R97): Base predicate OR. -/
  | por (f : OpF)
  /-- POR_X (R97): Extended-form predicate OR. -/
  | porX (f : XForm OpF)
  /-- PXOR (R97): Base predicate XOR. -/
  | pxor (f : OpF)
  /-- PXOR_X (R97): Extended-form predicate XOR. -/
  | pxorX (f : XForm OpF)
  /-- PNOT (R97): Base predicate NOT. -/
  | pnot (f : OpF)
  /-- PNOT_X (R97): Extended-form predicate NOT. -/
  | pnotX (f : XForm OpF)
  /-- PMOV (R97): Base predicate copy. -/
  | pmov (f : OpF)
  /-- PMOV_X (R97): Extended-form predicate copy. -/
  | pmovX (f : XForm OpF)
  /-- PPACK (R97): Base pack of p0–p15 under a mask into a vector word. -/
  | ppack (f : OpF)
  /-- PPACK_X (R97): Extended-form predicate pack. -/
  | ppackX (f : XForm OpF)
  /-- PUNPK (R97): Base unpack of a word into p0–p14 under a mask. -/
  | punpk (f : OpF)
  /-- PUNPK_X (R97): Extended-form predicate unpack. -/
  | punpkX (f : XForm OpF)
  /-- MOV (R99): Base copy of the bit pattern of B into D. -/
  | mov (f : OpF)
  /-- MOV_X (R99): Extended-form register or literal move. -/
  | movX (f : XForm OpF)
  /-- MOVI (R100): Base indexed read of vector register A+B chosen at run time. -/
  | movi (f : OpF)
  /-- MOVI_X (R100): Extended-form indexed vector register read. -/
  | moviX (f : XForm OpF)
  /-- SEL (R99): Select A or B into D by predicate C, extended form only. -/
  | sel (f : EForm)
  /-- MOVS (R99): Base sign or zero extension of the low bits of B. -/
  | movs (f : OpF)
  /-- MOVS_X (R99): Extended-form sign or zero extension. -/
  | movsX (f : XForm OpF)
  /-- SRD (R101): Base read of special register index B into D. -/
  | srd (f : OpF)
  /-- SRD_X (R101): Extended-form read of any special register index. -/
  | srdX (f : XForm OpF)
  /-- SWR (R101): Base write of A to a special register that has no row of its own. -/
  | swr (f : OpF)
  /-- SWR_X (R101): Extended-form special register write. -/
  | swrX (f : XForm OpF)
  /-- CLK_LO_READ (R15): Reading CLK.LO latches the concurrent high word, which the next CLK.HI read returns and clears. -/
  | clkLoRead (f : AnyForm)
  /-- THND_WRITE (R346): Writing THND sets the handler offset and sets the handler segment to the writer's code segment. -/
  | thndWrite (f : AnyForm)
  /-- FADD (R116): Base floating-point add rounded once. -/
  | fadd (f : OpF)
  /-- FADD_X (R116): Extended-form floating-point add. -/
  | faddX (f : XForm OpF)
  /-- FSUB (R116): Base floating-point subtract. -/
  | fsub (f : OpF)
  /-- FSUB_X (R116): Extended-form floating-point subtract. -/
  | fsubX (f : XForm OpF)
  /-- FMUL (R116): Base floating-point multiply. -/
  | fmul (f : OpF)
  /-- FMUL_X (R116): Extended-form floating-point multiply. -/
  | fmulX (f : XForm OpF)
  /-- FFMA (R116): Fused multiply-add with one rounding, extended form only. -/
  | ffma (f : EForm)
  /-- FMIN (R117): Base floating-point minimum without rounding. -/
  | fmin (f : OpF)
  /-- FMIN_X (R117): Extended-form floating-point minimum. -/
  | fminX (f : XForm OpF)
  /-- FMAX (R117): Base floating-point maximum without rounding. -/
  | fmax (f : OpF)
  /-- FMAX_X (R117): Extended-form floating-point maximum. -/
  | fmaxX (f : XForm OpF)
  /-- FCPYS (R117): Base copy of A with the sign bit of B. -/
  | fcpys (f : OpF)
  /-- FCPYS_X (R117): Extended-form copy-sign. -/
  | fcpysX (f : XForm OpF)
  /-- FDIV (R116): Base floating-point divide. -/
  | fdiv (f : OpF)
  /-- FDIV_X (R116): Extended-form floating-point divide. -/
  | fdivX (f : XForm OpF)
  /-- FRCP (R119): Base correctly rounded reciprocal. -/
  | frcp (f : OpF)
  /-- FRCP_X (R119): Extended-form reciprocal. -/
  | frcpX (f : XForm OpF)
  /-- FRSQ (R119): Base correctly rounded reciprocal square root. -/
  | frsq (f : OpF)
  /-- FRSQ_X (R119): Extended-form reciprocal square root. -/
  | frsqX (f : XForm OpF)
  /-- FSQRT (R119): Base correctly rounded square root. -/
  | fsqrt (f : OpF)
  /-- FSQRT_X (R119): Extended-form square root. -/
  | fsqrtX (f : XForm OpF)
  /-- FEXP2 (R119): Base correctly rounded 2^a. -/
  | fexp2 (f : OpF)
  /-- FEXP2_X (R119): Extended-form 2^a. -/
  | fexp2X (f : XForm OpF)
  /-- FLOG2 (R119): Base correctly rounded log2 a. -/
  | flog2 (f : OpF)
  /-- FLOG2_X (R119): Extended-form log2. -/
  | flog2X (f : XForm OpF)
  /-- FSIN (R119): Base correctly rounded sine in radians. -/
  | fsin (f : OpF)
  /-- FSIN_X (R119): Extended-form sine. -/
  | fsinX (f : XForm OpF)
  /-- FCOS (R119): Base correctly rounded cosine in radians. -/
  | fcos (f : OpF)
  /-- FCOS_X (R119): Extended-form cosine. -/
  | fcosX (f : XForm OpF)
  /-- FTANH (R119): Base correctly rounded hyperbolic tangent. -/
  | ftanh (f : OpF)
  /-- FTANH_X (R119): Extended-form hyperbolic tangent. -/
  | ftanhX (f : XForm OpF)
  /-- FRND (R121): Base rounding of A to an integral value in the same format. -/
  | frnd (f : OpF)
  /-- FRND_X (R121): Extended-form round to integral. -/
  | frndX (f : XForm OpF)
  /-- FCLASS (R122): Base classification of A into a one-hot class word. -/
  | fclass (f : OpF)
  /-- FCLASS_X (R122): Extended-form classification. -/
  | fclassX (f : XForm OpF)
  /-- FCMP (R123): Floating-point comparison to a predicate under the condition in C, extended form only. -/
  | fcmp (f : EForm)
  /-- FLDEXP (R124): Base scaling of A by 2^B with one rounding. -/
  | fldexp (f : OpF)
  /-- FLDEXP_X (R124): Extended-form scale by a power of two. -/
  | fldexpX (f : XForm OpF)
  /-- FGETEXP (R124): Base extraction of the true exponent of A as an integer. -/
  | fgetexp (f : OpF)
  /-- FGETEXP_X (R124): Extended-form exponent extraction. -/
  | fgetexpX (f : XForm OpF)
  /-- FGETMAN (R124): Base extraction of the significand of A in [1, 2). -/
  | fgetman (f : OpF)
  /-- FGETMAN_X (R124): Extended-form significand extraction. -/
  | fgetmanX (f : XForm OpF)
  /-- CVT (R126): Conversion of one value between formats with one rounding. -/
  | cvt (f : EForm)
  /-- CVTPK (R127): Conversion of f32 sources into one packed word, with block scale for tapered types. -/
  | cvtpk (f : EForm)
  /-- CVTXP (R128): Expansion of one packed word into f32 registers. -/
  | cvtxp (f : EForm)
  /-- BRA (R102): Base relative branch with a 20-bit word offset and optionally negated guard. -/
  | bra (f : BrF)
  /-- BRA_X (R102): Extended-form relative branch with a 32-bit word offset. -/
  | braX (f : XForm BrF)
  /-- CALL (R103): Base call that writes v29, raises the call depth and branches. -/
  | call (f : BrF)
  /-- CALL_X (R103): Extended-form call. -/
  | callX (f : XForm BrF)
  /-- RET (R105): Base return to the offset in A, lowering the depth and popping a crossing record at its depth. -/
  | ret (f : OpF)
  /-- RET_X (R105): Extended-form return. -/
  | retX (f : XForm OpF)
  /-- JMPI (R105): Base indirect jump to the code offset in A. -/
  | jmpi (f : OpF)
  /-- JMPI_X (R105): Extended-form indirect jump. -/
  | jmpiX (f : XForm OpF)
  /-- CALLI (R105): Base indirect call to the code offset in A. -/
  | calli (f : OpF)
  /-- CALLI_X (R105): Extended-form indirect call. -/
  | calliX (f : XForm OpF)
  /-- ENTER (R106): Base stack frame entry lowering v31 by n after the STKLIM check. -/
  | enter (f : OpF)
  /-- ENTER_X (R106): Literal or extended-form stack frame entry with frame size in X. -/
  | enterX (f : XForm OpF)
  /-- LEAVE (R106): Base stack frame release raising v31 by n. -/
  | leave (f : OpF)
  /-- LEAVE_X (R106): Literal or extended-form stack frame release. -/
  | leaveX (f : XForm OpF)
  /-- REP (R111): Base repeat prefix executing the next instruction n times with register fields advanced by the stride. -/
  | rep (f : OpF)
  /-- REP_X (R111): Literal or extended-form repeat prefix with count in X. -/
  | repX (f : XForm OpF)
  /-- TRAP (R107): Base software trap raising SW_TRAP with the code in X. -/
  | trap (f : OpF)
  /-- TRAP_X (R107): Literal or extended-form software trap. -/
  | trapX (f : XForm OpF)
  /-- EXIT (R108): Base thread end after earlier effects and the matrix queue drain. -/
  | exit (f : OpF)
  /-- EXIT_X (R108): Extended-form thread end. -/
  | exitX (f : XForm OpF)
  /-- LD (R130): Base global load of the size code through a pointer pair with an element offset. -/
  | ld (f : MemF)
  /-- LD_X (R269): Extended-form global load with scope, order, vol and spl. -/
  | ldX (f : XForm MemF)
  /-- ST (R130): Base global store of the size code through a pointer pair. -/
  | st (f : MemF)
  /-- ST_X (R269): Extended-form global store with scope, order, spl and byte mask. -/
  | stX (f : XForm MemF)
  /-- LDS (R135): Base scratchpad load. -/
  | lds (f : MemF)
  /-- LDS_X (R265): Extended-form scratchpad load with scope and order. -/
  | ldsX (f : XForm MemF)
  /-- STS (R135): Base scratchpad store. -/
  | sts (f : MemF)
  /-- STS_X (R265): Extended-form scratchpad store with scope, order and byte mask. -/
  | stsX (f : XForm MemF)
  /-- PREF (R134): Base prefetch into the die cache without checks or faults. -/
  | pref (f : MemF)
  /-- PREF_X (R134): Extended-form prefetch. -/
  | prefX (f : XForm MemF)
  /-- SHFL (R159): Cross-lane shuffle of register A within segments by index, up, down or xor. -/
  | shfl (f : EForm)
  /-- VOTE (R160): Any, all, uniform or ballot vote on a predicate across participants. -/
  | vote (f : EForm)
  /-- MATCH (R161): Mask of participants holding the same bit pattern as each lane. -/
  | matchLanes (f : EForm)
  /-- REDUX (R162): Reduction of the participants' values in ascending lane order. -/
  | redux (f : EForm)
  /-- SCAN (R162): Inclusive or exclusive prefix scan in ascending lane order. -/
  | scan (f : EForm)
  /-- ELECT (R163): Sets the predicate true in the lowest-lane participant only. -/
  | elect (f : EForm)
  /-- VTOS (R164): Copies register A of lane B mod W into a scalar. -/
  | vtos (f : EForm)
  /-- BAR (R166): Barrier arrival as a team release followed by a wait for phase completion. -/
  | bar (f : EForm)
  /-- BARA (R166): Barrier arrival with a vote input and no wait. -/
  | bara (f : EForm)
  /-- BARW (R166): Barrier arrival and wait that returns the any or all vote. -/
  | barw (f : EForm)
  /-- BARI (R167): Sets a barrier's expected count now or from the next phase. -/
  | bari (f : EForm)
  /-- MEET (R168): Pushes the current meeting value and sets a new meeting pointer and depth. -/
  | meet (f : EForm)
  /-- MEET_POP (R168): Pops the meet stack into the current meeting value. -/
  | meetPop (f : EForm)
  /-- NAP (R169): Makes the thread ineligible for up to 2^24 cycles. -/
  | nap (f : EForm)
  /-- BKOFF (R170): Restores the group's level on success or raises it and sleeps on failure. -/
  | bkoff (f : EForm)
  /-- CBR (R186): Contributes the group's predicate to a domain instance and speculates along the predicted path. -/
  | cbr (f : EForm)
  /-- CBSYNC (R187): Enters a sync instance of a domain and waits for it without speculating. -/
  | cbsync (f : EForm)
  /-- CMEMB (R188): Declares the group's membership counts for a collective domain. -/
  | cmemb (f : EForm)
  /-- CMQ (R189): Writes the group's state in a domain to a scalar. -/
  | cmq (f : EForm)
  /-- GEN (R200): Enters a generator region once every home lane waits at the same GEN. -/
  | gen (f : EForm)
  /-- YIELD (R201): Appends one compaction-buffer entry per active producer thread, then decides the next step. -/
  | yield (f : EForm)
  /-- GEND (R202): Ends production for the lanes of the active threads. -/
  | gend (f : EForm)
  /-- GNEXT (R203): Ends a consumer pass once all its threads have executed it. -/
  | gnext (f : EForm)
  /-- GDRAIN (R204): Forces passes until the compaction buffer is empty. -/
  | gdrain (f : EForm)
  /-- GSTAT (R205): Writes the group's generator state to a scalar. -/
  | gstat (f : EForm)
  /-- HNRM (R216): Turns a vector into a renormalised ray. -/
  | hnrm (f : EForm)
  /-- HEXP (R217): Expands a ray into f32 components scaled by its norm. -/
  | hexp (f : EForm)
  /-- HDOT (R218): Dot product of two ray directions, optionally scaled by their norms. -/
  | hdot (f : EForm)
  /-- HSCL (R219): Adds a fixed-point delta to a ray's log norm. -/
  | hscl (f : EForm)
  /-- HADD (R220): Adds two rays and renormalises. -/
  | hadd (f : EForm)
  /-- HNEG (R221): Negates a ray's direction with saturation. -/
  | hneg (f : EForm)
  /-- HPROJ (R222): Removes from A its component along B and renormalises. -/
  | hproj (f : EForm)
  /-- HLN (R223): Writes a ray's log norm or whole norm entry. -/
  | hln (f : EForm)
  /-- HSLN (R219): Sets a ray's log norm from a value. -/
  | hsln (f : EForm)
  /-- HMOV (R224): Copies a ray's direction and norm, or the direction only with .d. -/
  | hmov (f : EForm)
  /-- HCLS (R223): Writes a one-hot class word for a ray. -/
  | hcls (f : EForm)
  /-- HLD (R225): Loads a ray and its norm entry from global memory. -/
  | hld (f : EForm)
  /-- HST (R225): Stores a ray and its norm entry to global memory. -/
  | hst (f : EForm)
  /-- CALLN (R251): Calls the target of a BOUND linkage entry, pushing a crossing record across segments. -/
  | calln (f : EForm)
  /-- LDN (R251): Loads the target pointer of a BOUND linkage entry. -/
  | ldn (f : EForm)
  /-- JMPN (R251): Jumps to the target of a BOUND linkage entry. -/
  | jmpn (f : EForm)
  /-- LNKQ (R251): Reads a linkage entry whole in any state. -/
  | lnkq (f : EForm)
  /-- SEGQ (R253): Reads a segment descriptor into four scalars. -/
  | segq (f : EForm)
  /-- PKRW (R254): Atomically updates the context's protection key rights under a mask. -/
  | pkrw (f : EForm)
  /-- PKRR (R254): Reads the core's copy of PKR into a scalar pair. -/
  | pkrr (f : EForm)
  /-- LEASEQ (R255): Tests whether a range lies inside the launch's leases for given rights. -/
  | leaseq (f : EForm)
  /-- ATOM (R271): Atomic read-modify-write at the performing point its scope selects. -/
  | atom (f : EForm)
  /-- PHASE (R272): Release and/or acquire boundary of the domain with no access. -/
  | phase (f : EForm)
  /-- SEAL (R273): Records a seal entry over a DATA range and shoots down every domain's copies. -/
  | sealRange (f : EForm)
  /-- UNSEAL (R273): Removes a seal entry and drops its mirrors. -/
  | unsealRange (f : EForm)
  /-- TRSV (R295): Reserves a tile with format, role and block scales and queues its zeroing. -/
  | trsv (f : EForm)
  /-- TREL (R295): Releases a tile's reservation. -/
  | trel (f : EForm)
  /-- TLD (R296): Fills a tile from scratchpad through a descriptor. -/
  | tld (f : EForm)
  /-- TLDV (R296): Writes tile rows from a vector register. -/
  | tldv (f : EForm)
  /-- TXV (R296): Reads tile rows into a vector register. -/
  | txv (f : EForm)
  /-- MMA (R297): Queues a += A × B with the fixed order of grouped sums. -/
  | mma (f : EForm)
  /-- MMAK (R298): Queues a product of a tile with a generated constant matrix. -/
  | mmak (f : EForm)
  /-- ACCZ (R299): Zeroes an accumulator tile. -/
  | accz (f : EForm)
  /-- ACCLD (R300): Loads two accumulator rows from vector registers. -/
  | accld (f : EForm)
  /-- ACCST (R300): Stores two accumulator rows to vector registers. -/
  | accst (f : EForm)
  /-- ACCSP (R301): Writes an accumulator to scratchpad with conversion and block scaling. -/
  | accsp (f : EForm)
  /-- ACCMV (R299): Copies one accumulator tile into another. -/
  | accmv (f : EForm)
  /-- PUSH (R337): Publishes the domain and accepts or refuses a 64-byte command to a queue. -/
  | push (f : EForm)
  /-- WAITC (R340): Waits until the group's load, store, copy and tile counters reach their limits. -/
  | waitc (f : EForm)
  /-- QSTAT (R339): Writes the handle and refusal reason of the group's last PUSH. -/
  | qstat (f : EForm)
  /-- TRIGGER (R341): Publishes the domain and marks the group as triggered. -/
  | trigger (f : EForm)
  /-- GNODE_Q (R342): Reads a node record's state and count. -/
  | gnodeQ (f : EForm)
  /-- GNODE_SIG (R342): Publishes the domain and decrements a node record's count. -/
  | gnodeSig (f : EForm)
  /-- SVC (R371): Hands one batch per group to the die's service teams, class h sleeping or class d continuing. -/
  | svc (f : EForm)
  /-- THSET (R373): Installs a handler relative to the PC, or removes it with .off. -/
  | thset (f : EForm)
  /-- RTT (R374): Returns the thread from its innermost active trap slot. -/
  | rtt (f : EForm)
  /-- PARK (R375): Waits at PARK with a resume label until the group parks. -/
  | park (f : EForm)
  /-- PRIO (R376): Sets the group's issue level to at least the launch priority. -/
  | prio (f : EForm)
  /-- PSRD (R377): Privileged read of special registers 0x80–0x8F. -/
  | psrd (f : EForm)
  /-- PSWR (R377): Privileged write of special registers 0x80–0x8F with no row of their own. -/
  | pswr (f : EForm)
  /-- FLKCTL_WRITE (R386): Writing FLKCTL arms or disarms one injected error on a physical line. -/
  | flkctlWrite (f : EForm)
  /-- TLBINV (R378): Drops a context's cached translations for a page, segment or whole context and waits for all users. -/
  | tlbinv (f : EForm)
  /-- ILLEGAL_OPCODE (R86): A thread executes an encoding that is not an instruction and faults with ILLEGAL_OPCODE, whatever its predicates hold. -/
  | illegalOpcode (words : RawWords)
  /-- SNAPSHOT_DROP (R260): A domain drops snapshot lines of its own accord. -/
  | snapshotDrop
  /-- STORE_PATH_DRAIN (R259): A group's stores enter its domain overlay in issue order before a release requires it. -/
  | storePathDrain
  /-- OVERLAY_WRITEBACK (R261): A domain writes overlay bytes home earlier than any release requires. -/
  | overlayWriteback
  /-- LOAD_REPLY (R351): The reply of an outstanding load or ATOM arrives and writes its destination or a deferred fault. -/
  | loadReply
  /-- REMOTE_TIMEOUT (R351): A remote access with no reply 20 µs after issue raises FABRIC_TIMEOUT as a deferred fault. -/
  | remoteTimeout
  /-- BARRIER_STALL (R154): A barrier timer reaching BARTO discards the phase's arrivals and faults every waiting thread. -/
  | barrierStall
  /-- MEETING_ARRIVAL (R151): A thread about to execute its meeting address at its meeting depth arrives and waits. -/
  | meetingArrival
  /-- NAP_WAKE (R169): A NAP interval ends and the thread becomes eligible at the next tick. -/
  | napWake
  /-- BKOFF_WAKE (R170): A BKOFF sleep of 16 × 2^level cycles ends and the thread becomes eligible at the next tick. -/
  | bkoffWake
  /-- REGROUPING_TICK (R148): Every 8 cycles each partition reforms its bundles from the eligible threads of its active groups. -/
  | regroupingTick
  /-- CBR_RESOLVE (R181): A collective instance resolves and each member drains or rolls back its speculation. -/
  | cbrResolve
  /-- CBR_TIMEOUT (R182): An instance timer reaching CBRTO dissolves the instance and faults its waiting members. -/
  | cbrTimeout
  /-- MATRIX_OP_COMPLETE (R283): A queued matrix operation completes, frees its slot and adds its flags to the pending matrix flags. -/
  | matrixOpComplete
  /-- WAITC_COMPLETE (R340): The counters reach their limits, with a dev acquire and the merge of matrix flags where selected. -/
  | waitcComplete
  /-- SVC_WAKE (R365): Class h sleepers wake with a dev acquire once their reply word leaves pending. -/
  | svcWake
  /-- PARK_COMPLETE (R355): All affected groups are parked, their small state is written and their teams leave the cores. -/
  | parkComplete
  /-- LAUNCH (R325): Command that checks its body and hands its teams to the distributors. -/
  | launch
  /-- COPY (R315): Engine command copying R rows of L bytes. -/
  | copy
  /-- FILL (R315): Engine command filling rows with a 4-byte pattern. -/
  | fill
  /-- GATHER (R315): Engine command gathering indexed source rows. -/
  | gather
  /-- REDADD (R315): Engine command adding source elements into the destination indivisibly at home. -/
  | redadd
  /-- LIT_BUILD (R324): Lamplighter command building the lit set of a bitmap into the spare half and flipping SEL. -/
  | litBuild
  /-- LIT_DELTA (R324): Lamplighter command updating the lit set from a change mask into the spare half and flipping SEL. -/
  | litDelta
  /-- NOTE (R332): Command with no body that joins predecessors and completes at release. -/
  | note
  /-- TRANSLATE (R333): Command translating a Swedan function into a new CODE segment. -/
  | translate
  /-- COMMAND_DISPATCH (R308): The command unit dispatches the ready command of the highest-priority queue once residency and serial order allow. -/
  | commandDispatch
  /-- COMMAND_COMPLETE (R310): A command writes its completion record with release and its successors are decremented. -/
  | commandComplete
  /-- TEAM_PLACE (R155): A die distributor places the head pending team on the fitting core, pair or quad of least score. -/
  | teamPlace
  /-- REBALANCE (R334): Every microsecond, pending teams move from the most loaded to the least loaded die when the gap reaches REBAL. -/
  | rebalance
  /-- PREEMPT_REQUEST (R353): Firmware policy pre-empts a launch on a core and PREEMPT is delivered to its threads. -/
  | preemptRequest
  /-- PARKED_TEAM_RETURN (R357): A parked team returns to the core it left no sooner than 16 µs later and restores its state. -/
  | parkedTeamReturn
  /-- BUDGET_PERIOD (R368): Every 11,200 cycles each activity's budget counts restart. -/
  | budgetPeriod
  /-- CONTEXT_RESET (R363): A context reset ends its teams, cancels its commands, clears its records and reclaims its pages. -/
  | contextReset
  /-- PAGE_RECLAIM (R241): Firmware reclaims a leased or locked page after ending teams and cancelling engine commands. -/
  | pageReclaim
  /-- AFTERGLOW_REGISTER (R387): The runtime registers an Afterglow region through a kernel-mode service. -/
  | afterglowRegister
  /-- AFTERGLOW_POWER_FAIL (R388): Supply loss stops issue, publishes overlays, copies registered regions to flash and writes a manifest. -/
  | afterglowPowerFail
  /-- MODULE_POWER_UP (R418): The boot ROM verifies the firmware image, trains links and builds the capability table before releasing cores. -/
  | modulePowerUp
  /-- THERMAL_THROTTLE (R419): At 95 °C junction the module halves its arithmetic clock. -/
  | thermalThrottle
  /-- THERMAL_STOP (R419): At 105 °C junction the module stops issue and raises a management alert. -/
  | thermalStop
  /-- LINK_TRAINING (R395): A Joeth link trains and each receiver advertises its slots per channel. -/
  | linkTraining
  /-- JOETH_REQUEST (R399): A received request flit is checked and performed at the target home. -/
  | joethRequest
  /-- JOETH_RESPONSE (R398): A received response flit completes a remote access or returns its fault. -/
  | joethResponse
  /-- JOETH_COLLECTIVE (R401): A collective flit reports a module's reduced contribution to the switching layer. -/
  | joethCollective
  /-- COLLECTIVE_DISSOLVE (R402): A dissolve request from an expired module timer dissolves the instance unless it has already resolved. -/
  | collectiveDissolve
  /-- COLLECTIVE_OUTCOME (R401): The switching layer broadcasts an instance outcome or dissolution to every reporting module. -/
  | collectiveOutcome
  /-- JOETH_MANAGEMENT (R420): A management flit carries the management interface between modules. -/
  | joethManagement
  /-- JOETH_IDLE (R395): An idle flit carries only sequence, acknowledgement and slot returns. -/
  | joethIdle
  /-- LINK_REPLAY (R396): A sender replays from ACK + 1 when ACK stops advancing for 2 µs or a discard is signalled. -/
  | linkReplay
  /-- CXL_MEM_READ (R404): A host CXL.mem read of the memory window is served at the byte's home. -/
  | cxlMemRead
  /-- CXL_MEM_WRITE (R404): A host CXL.mem write to the window is performed at home, or discarded in a sealed range. -/
  | cxlMemWrite
  /-- COMMAND_WINDOW_WRITE (R407): A host write into a command window slot of an enabled queue. -/
  | commandWindowWrite
  /-- COMMAND_SLOT_TAKE (R408): The command unit takes a valid slot in ring order, handles it as a host PUSH and writes its control word. -/
  | commandSlotTake
  /-- HOST_READ_COMPLETION (R411): A CXL.io read completion for a HOST-segment load arrives, with data or an error. -/
  | hostReadCompletion
  /-- HOST_ATOMIC_COMPLETION (R412): A PCIe AtomicOp completion arrives, with old value, UR or CA. -/
  | hostAtomicCompletion
  /-- HOST_LINK_DOWN (R411): The host link goes down, making pending HOST stores undeliverable. -/
  | hostLinkDown
  /-- HOST_LINK_UP (R411): The host link comes back up, so HOST traffic can again be sent. -/
  | hostLinkUp
  /-- PORT_LANE_LOSS (R397): A Joeth port loses its lanes and is marked down in the port mask, with its traffic moved to another port. -/
  | portLaneLoss
  /-- MANAGEMENT_INTERFACE_ACCESS (R405): An access through function 1's management interface, such as a read of the stray-access counter that re-arms management vector 2. -/
  | managementInterfaceAccess
  /-- CONTEXT_CREATION (R369): Firmware creates a context under a number, taking the stored SVCTHR and CTXLIM and the runtime's initial tables and PKR. -/
  | contextCreation
  /-- QUEUE_TABLE_WRITE (R309): A write of a context's queue-table entry through the firmware management service that enables or disables a queue or sets its PRI and MSI-X vector. -/
  | queueTableWrite
  deriving DecidableEq, Repr

end Sys2Proof
end

