-- ==== Sys2Proof/Machine/Fields.lean ====
section
/-! DEFINITION. The two readings of an instruction's fields: the View (which layout, major and minor; one for every
constructor of Instr and back), and Fields, in which a base form reads as the extended form it stands for (04 R68). -/

namespace Sys2Proof

/-- An encoded instruction by layout, major and minor number (R62, R83). -/
inductive View where
  | op (maj mn : Nat) (f : OpF)
  | opX (maj mn : Nat) (f : XForm OpF)
  | mem (mn : Nat) (f : MemF)
  | memX (mn : Nat) (f : XForm MemF)
  | br (maj : Nat) (f : BrF)
  | brX (maj : Nat) (f : XForm BrF)
  | wide (maj mn : Nat) (f : EForm)
  | hint (fields : BitVec 24)
  | hintLong (words : RawWords)
  | illegal (words : RawWords)
  | event
  deriving DecidableEq, Repr

/-- The View of each constructor, from the opcode map of R83. -/
def Instr.view : Instr → View
  | .nop f => .op 0x00 0 f
  | .nopX f => .opX 0x00 0 f
  | .hint x => .hint x
  | .hintLong w => .hintLong w
  | .iadd f => .op 0x02 0 f
  | .iaddX f => .opX 0x02 0 f
  | .isub f => .op 0x02 1 f
  | .isubX f => .opX 0x02 1 f
  | .imul f => .op 0x02 2 f
  | .imulX f => .opX 0x02 2 f
  | .imulh f => .op 0x02 3 f
  | .imulhX f => .opX 0x02 3 f
  | .imin f => .op 0x02 4 f
  | .iminX f => .opX 0x02 4 f
  | .imax f => .op 0x02 5 f
  | .imaxX f => .opX 0x02 5 f
  | .idiv f => .op 0x02 6 f
  | .idivX f => .opX 0x02 6 f
  | .irem f => .op 0x02 7 f
  | .iremX f => .opX 0x02 7 f
  | .and f => .op 0x03 0 f
  | .andX f => .opX 0x03 0 f
  | .or f => .op 0x03 1 f
  | .orX f => .opX 0x03 1 f
  | .xor f => .op 0x03 2 f
  | .xorX f => .opX 0x03 2 f
  | .andn f => .op 0x03 3 f
  | .andnX f => .opX 0x03 3 f
  | .shl f => .op 0x03 4 f
  | .shlX f => .opX 0x03 4 f
  | .shr f => .op 0x03 5 f
  | .shrX f => .opX 0x03 5 f
  | .asr f => .op 0x03 6 f
  | .asrX f => .opX 0x03 6 f
  | .rot f => .op 0x03 7 f
  | .rotX f => .opX 0x03 7 f
  | .clz f => .op 0x04 0 f
  | .clzX f => .opX 0x04 0 f
  | .popc f => .op 0x04 1 f
  | .popcX f => .opX 0x04 1 f
  | .brev f => .op 0x04 2 f
  | .brevX f => .opX 0x04 2 f
  | .bfx f => .op 0x04 3 f
  | .bfxX f => .opX 0x04 3 f
  | .bfi f => .wide 0x04 4 f
  | .iabs f => .op 0x04 5 f
  | .iabsX f => .opX 0x04 5 f
  | .imad f => .wide 0x04 6 f
  | .lea f => .op 0x04 7 f
  | .leaX f => .opX 0x04 7 f
  | .icmp c f => .op 0x05 c.toNat f
  | .icmpX c f => .opX 0x05 c.toNat f
  | .pand f => .op 0x06 0 f
  | .pandX f => .opX 0x06 0 f
  | .por f => .op 0x06 1 f
  | .porX f => .opX 0x06 1 f
  | .pxor f => .op 0x06 2 f
  | .pxorX f => .opX 0x06 2 f
  | .pnot f => .op 0x06 3 f
  | .pnotX f => .opX 0x06 3 f
  | .pmov f => .op 0x06 4 f
  | .pmovX f => .opX 0x06 4 f
  | .ppack f => .op 0x06 5 f
  | .ppackX f => .opX 0x06 5 f
  | .punpk f => .op 0x06 6 f
  | .punpkX f => .opX 0x06 6 f
  | .mov f => .op 0x07 0 f
  | .movX f => .opX 0x07 0 f
  | .movi f => .op 0x07 1 f
  | .moviX f => .opX 0x07 1 f
  | .sel f => .wide 0x07 2 f
  | .movs f => .op 0x07 3 f
  | .movsX f => .opX 0x07 3 f
  | .srd f => .op 0x07 4 f
  | .srdX f => .opX 0x07 4 f
  | .swr f => .op 0x07 5 f
  | .swrX f => .opX 0x07 5 f
  | .clkLoRead (.base f) => .op 0x07 4 f
  | .clkLoRead (.more f) => .opX 0x07 4 f
  | .thndWrite (.base f) => .op 0x07 5 f
  | .thndWrite (.more f) => .opX 0x07 5 f
  | .fadd f => .op 0x08 0 f
  | .faddX f => .opX 0x08 0 f
  | .fsub f => .op 0x08 1 f
  | .fsubX f => .opX 0x08 1 f
  | .fmul f => .op 0x08 2 f
  | .fmulX f => .opX 0x08 2 f
  | .ffma f => .wide 0x08 3 f
  | .fmin f => .op 0x08 4 f
  | .fminX f => .opX 0x08 4 f
  | .fmax f => .op 0x08 5 f
  | .fmaxX f => .opX 0x08 5 f
  | .fcpys f => .op 0x08 6 f
  | .fcpysX f => .opX 0x08 6 f
  | .fdiv f => .op 0x08 7 f
  | .fdivX f => .opX 0x08 7 f
  | .frcp f => .op 0x09 0 f
  | .frcpX f => .opX 0x09 0 f
  | .frsq f => .op 0x09 1 f
  | .frsqX f => .opX 0x09 1 f
  | .fsqrt f => .op 0x09 2 f
  | .fsqrtX f => .opX 0x09 2 f
  | .fexp2 f => .op 0x09 3 f
  | .fexp2X f => .opX 0x09 3 f
  | .flog2 f => .op 0x09 4 f
  | .flog2X f => .opX 0x09 4 f
  | .fsin f => .op 0x09 5 f
  | .fsinX f => .opX 0x09 5 f
  | .fcos f => .op 0x09 6 f
  | .fcosX f => .opX 0x09 6 f
  | .ftanh f => .op 0x09 7 f
  | .ftanhX f => .opX 0x09 7 f
  | .frnd f => .op 0x0A 0 f
  | .frndX f => .opX 0x0A 0 f
  | .fclass f => .op 0x0A 1 f
  | .fclassX f => .opX 0x0A 1 f
  | .fcmp f => .wide 0x0A 2 f
  | .fldexp f => .op 0x0A 3 f
  | .fldexpX f => .opX 0x0A 3 f
  | .fgetexp f => .op 0x0A 4 f
  | .fgetexpX f => .opX 0x0A 4 f
  | .fgetman f => .op 0x0A 5 f
  | .fgetmanX f => .opX 0x0A 5 f
  | .cvt f => .wide 0x0B 0 f
  | .cvtpk f => .wide 0x0B 1 f
  | .cvtxp f => .wide 0x0B 2 f
  | .bra f => .br 0x0C f
  | .braX f => .brX 0x0C f
  | .call f => .br 0x0D f
  | .callX f => .brX 0x0D f
  | .ret f => .op 0x0E 0 f
  | .retX f => .opX 0x0E 0 f
  | .jmpi f => .op 0x0E 1 f
  | .jmpiX f => .opX 0x0E 1 f
  | .calli f => .op 0x0E 2 f
  | .calliX f => .opX 0x0E 2 f
  | .enter f => .op 0x0E 3 f
  | .enterX f => .opX 0x0E 3 f
  | .leave f => .op 0x0E 4 f
  | .leaveX f => .opX 0x0E 4 f
  | .rep f => .op 0x0E 5 f
  | .repX f => .opX 0x0E 5 f
  | .trap f => .op 0x0E 6 f
  | .trapX f => .opX 0x0E 6 f
  | .exit f => .op 0x0E 7 f
  | .exitX f => .opX 0x0E 7 f
  | .ld f => .mem 0 f
  | .ldX f => .memX 0 f
  | .st f => .mem 1 f
  | .stX f => .memX 1 f
  | .lds f => .mem 2 f
  | .ldsX f => .memX 2 f
  | .sts f => .mem 3 f
  | .stsX f => .memX 3 f
  | .pref f => .mem 4 f
  | .prefX f => .memX 4 f
  | .shfl f => .wide 0x14 0 f
  | .vote f => .wide 0x14 1 f
  | .matchLanes f => .wide 0x14 2 f
  | .redux f => .wide 0x14 3 f
  | .scan f => .wide 0x14 4 f
  | .elect f => .wide 0x14 5 f
  | .vtos f => .wide 0x14 6 f
  | .bar f => .wide 0x15 0 f
  | .bara f => .wide 0x15 1 f
  | .barw f => .wide 0x15 2 f
  | .bari f => .wide 0x15 3 f
  | .meet f => .wide 0x15 4 f
  | .meetPop f => .wide 0x15 4 f
  | .nap f => .wide 0x15 5 f
  | .bkoff f => .wide 0x15 6 f
  | .cbr f => .wide 0x16 0 f
  | .cbsync f => .wide 0x16 1 f
  | .cmemb f => .wide 0x16 2 f
  | .cmq f => .wide 0x16 3 f
  | .gen f => .wide 0x17 0 f
  | .yield f => .wide 0x17 1 f
  | .gend f => .wide 0x17 2 f
  | .gnext f => .wide 0x17 3 f
  | .gdrain f => .wide 0x17 4 f
  | .gstat f => .wide 0x17 5 f
  | .hnrm f => .wide 0x18 0 f
  | .hexp f => .wide 0x18 1 f
  | .hdot f => .wide 0x18 2 f
  | .hscl f => .wide 0x18 3 f
  | .hadd f => .wide 0x18 4 f
  | .hneg f => .wide 0x18 5 f
  | .hproj f => .wide 0x18 6 f
  | .hln f => .wide 0x19 0 f
  | .hsln f => .wide 0x19 1 f
  | .hmov f => .wide 0x19 2 f
  | .hcls f => .wide 0x19 3 f
  | .hld f => .wide 0x19 4 f
  | .hst f => .wide 0x19 5 f
  | .calln f => .wide 0x22 0 f
  | .ldn f => .wide 0x22 1 f
  | .jmpn f => .wide 0x22 2 f
  | .lnkq f => .wide 0x22 3 f
  | .segq f => .wide 0x21 3 f
  | .pkrw f => .wide 0x21 4 f
  | .pkrr f => .wide 0x21 5 f
  | .leaseq f => .wide 0x21 6 f
  | .atom f => .wide 0x20 0 f
  | .phase f => .wide 0x21 0 f
  | .sealRange f => .wide 0x21 1 f
  | .unsealRange f => .wide 0x21 2 f
  | .trsv f => .wide 0x23 0 f
  | .trel f => .wide 0x23 1 f
  | .tld f => .wide 0x23 2 f
  | .tldv f => .wide 0x23 3 f
  | .txv f => .wide 0x23 4 f
  | .mma f => .wide 0x24 0 f
  | .mmak f => .wide 0x24 1 f
  | .accz f => .wide 0x25 0 f
  | .accld f => .wide 0x25 1 f
  | .accst f => .wide 0x25 2 f
  | .accsp f => .wide 0x25 3 f
  | .accmv f => .wide 0x25 4 f
  | .push f => .wide 0x30 0 f
  | .waitc f => .wide 0x30 1 f
  | .qstat f => .wide 0x30 2 f
  | .trigger f => .wide 0x30 3 f
  | .gnodeQ f => .wide 0x30 4 f
  | .gnodeSig f => .wide 0x30 4 f
  | .svc f => .wide 0x38 0 f
  | .thset f => .wide 0x38 1 f
  | .rtt f => .wide 0x38 2 f
  | .park f => .wide 0x38 3 f
  | .prio f => .wide 0x38 4 f
  | .psrd f => .wide 0x39 0 f
  | .pswr f => .wide 0x39 1 f
  | .flkctlWrite f => .wide 0x39 1 f
  | .tlbinv f => .wide 0x39 2 f
  | .illegalOpcode w => .illegal w
  | .snapshotDrop => .event
  | .storePathDrain => .event
  | .overlayWriteback => .event
  | .loadReply => .event
  | .remoteTimeout => .event
  | .barrierStall => .event
  | .meetingArrival => .event
  | .napWake => .event
  | .bkoffWake => .event
  | .regroupingTick => .event
  | .cbrResolve => .event
  | .cbrTimeout => .event
  | .matrixOpComplete => .event
  | .waitcComplete => .event
  | .svcWake => .event
  | .parkComplete => .event
  | .launch => .event
  | .copy => .event
  | .fill => .event
  | .gather => .event
  | .redadd => .event
  | .litBuild => .event
  | .litDelta => .event
  | .note => .event
  | .translate => .event
  | .commandDispatch => .event
  | .commandComplete => .event
  | .teamPlace => .event
  | .rebalance => .event
  | .preemptRequest => .event
  | .parkedTeamReturn => .event
  | .budgetPeriod => .event
  | .contextReset => .event
  | .pageReclaim => .event
  | .afterglowRegister => .event
  | .afterglowPowerFail => .event
  | .modulePowerUp => .event
  | .thermalThrottle => .event
  | .thermalStop => .event
  | .linkTraining => .event
  | .joethRequest => .event
  | .joethResponse => .event
  | .joethCollective => .event
  | .collectiveDissolve => .event
  | .collectiveOutcome => .event
  | .joethManagement => .event
  | .joethIdle => .event
  | .linkReplay => .event
  | .cxlMemRead => .event
  | .cxlMemWrite => .event
  | .commandWindowWrite => .event
  | .commandSlotTake => .event
  | .hostReadCompletion => .event
  | .hostAtomicCompletion => .event
  | .hostLinkDown => .event
  | .hostLinkUp => .event
  | .portLaneLoss => .event
  | .managementInterfaceAccess => .event
  | .contextCreation => .event
  | .queueTableWrite => .event

/-- The special-register index of an OP-layout form (R83: field B of SRD and SWR). -/
def XForm.bIndex : XForm OpF → Nat
  | .lit f _ => f.b.toNat
  | .ext f => f.b.toNat
  | .extLit f _ => f.b.toNat

/-- The extended fields of a form without a base layout. -/
def EForm.fields : EForm → ExtF
  | .lit e _ => e.elim
  | .ext f => f
  | .extLit f _ => f

/-- The one-word OP-layout instruction of a major and minor number (R67, R83). SRD of CLK.LO and SWR of THND are rows of
their own. -/
def opInstr (maj mn : Nat) (f : OpF) : Option Instr :=
  match maj, mn with
  | 0x07, 4 => some (if f.b.toNat = 0x08 then .clkLoRead (.base f) else .srd f)
  | 0x07, 5 => some (if f.b.toNat = 0x18 then .thndWrite (.base f) else .swr f)
  | 0x00, 0 => some (.nop f)
  | 0x02, 0 => some (.iadd f)
  | 0x02, 1 => some (.isub f)
  | 0x02, 2 => some (.imul f)
  | 0x02, 3 => some (.imulh f)
  | 0x02, 4 => some (.imin f)
  | 0x02, 5 => some (.imax f)
  | 0x02, 6 => some (.idiv f)
  | 0x02, 7 => some (.irem f)
  | 0x03, 0 => some (.and f)
  | 0x03, 1 => some (.or f)
  | 0x03, 2 => some (.xor f)
  | 0x03, 3 => some (.andn f)
  | 0x03, 4 => some (.shl f)
  | 0x03, 5 => some (.shr f)
  | 0x03, 6 => some (.asr f)
  | 0x03, 7 => some (.rot f)
  | 0x04, 0 => some (.clz f)
  | 0x04, 1 => some (.popc f)
  | 0x04, 2 => some (.brev f)
  | 0x04, 3 => some (.bfx f)
  | 0x04, 5 => some (.iabs f)
  | 0x04, 7 => some (.lea f)
  | 0x06, 0 => some (.pand f)
  | 0x06, 1 => some (.por f)
  | 0x06, 2 => some (.pxor f)
  | 0x06, 3 => some (.pnot f)
  | 0x06, 4 => some (.pmov f)
  | 0x06, 5 => some (.ppack f)
  | 0x06, 6 => some (.punpk f)
  | 0x07, 0 => some (.mov f)
  | 0x07, 1 => some (.movi f)
  | 0x07, 3 => some (.movs f)
  | 0x08, 0 => some (.fadd f)
  | 0x08, 1 => some (.fsub f)
  | 0x08, 2 => some (.fmul f)
  | 0x08, 4 => some (.fmin f)
  | 0x08, 5 => some (.fmax f)
  | 0x08, 6 => some (.fcpys f)
  | 0x08, 7 => some (.fdiv f)
  | 0x09, 0 => some (.frcp f)
  | 0x09, 1 => some (.frsq f)
  | 0x09, 2 => some (.fsqrt f)
  | 0x09, 3 => some (.fexp2 f)
  | 0x09, 4 => some (.flog2 f)
  | 0x09, 5 => some (.fsin f)
  | 0x09, 6 => some (.fcos f)
  | 0x09, 7 => some (.ftanh f)
  | 0x0A, 0 => some (.frnd f)
  | 0x0A, 1 => some (.fclass f)
  | 0x0A, 3 => some (.fldexp f)
  | 0x0A, 4 => some (.fgetexp f)
  | 0x0A, 5 => some (.fgetman f)
  | 0x0E, 0 => some (.ret f)
  | 0x0E, 1 => some (.jmpi f)
  | 0x0E, 2 => some (.calli f)
  | 0x0E, 3 => some (.enter f)
  | 0x0E, 4 => some (.leave f)
  | 0x0E, 5 => some (.rep f)
  | 0x0E, 6 => some (.trap f)
  | 0x0E, 7 => some (.exit f)
  | 0x05, mn => if mn < 8 then some (.icmp (BitVec.ofNat 3 mn) f) else none
  | _, _ => none

/-- The longer form of an OP-layout row (R83). -/
def opInstrX (maj mn : Nat) (f : XForm OpF) : Option Instr :=
  match maj, mn with
  | 0x07, 4 => some (if f.bIndex = 0x08 then .clkLoRead (.more f) else .srdX f)
  | 0x07, 5 => some (if f.bIndex = 0x18 then .thndWrite (.more f) else .swrX f)
  | 0x00, 0 => some (.nopX f)
  | 0x02, 0 => some (.iaddX f)
  | 0x02, 1 => some (.isubX f)
  | 0x02, 2 => some (.imulX f)
  | 0x02, 3 => some (.imulhX f)
  | 0x02, 4 => some (.iminX f)
  | 0x02, 5 => some (.imaxX f)
  | 0x02, 6 => some (.idivX f)
  | 0x02, 7 => some (.iremX f)
  | 0x03, 0 => some (.andX f)
  | 0x03, 1 => some (.orX f)
  | 0x03, 2 => some (.xorX f)
  | 0x03, 3 => some (.andnX f)
  | 0x03, 4 => some (.shlX f)
  | 0x03, 5 => some (.shrX f)
  | 0x03, 6 => some (.asrX f)
  | 0x03, 7 => some (.rotX f)
  | 0x04, 0 => some (.clzX f)
  | 0x04, 1 => some (.popcX f)
  | 0x04, 2 => some (.brevX f)
  | 0x04, 3 => some (.bfxX f)
  | 0x04, 5 => some (.iabsX f)
  | 0x04, 7 => some (.leaX f)
  | 0x06, 0 => some (.pandX f)
  | 0x06, 1 => some (.porX f)
  | 0x06, 2 => some (.pxorX f)
  | 0x06, 3 => some (.pnotX f)
  | 0x06, 4 => some (.pmovX f)
  | 0x06, 5 => some (.ppackX f)
  | 0x06, 6 => some (.punpkX f)
  | 0x07, 0 => some (.movX f)
  | 0x07, 1 => some (.moviX f)
  | 0x07, 3 => some (.movsX f)
  | 0x08, 0 => some (.faddX f)
  | 0x08, 1 => some (.fsubX f)
  | 0x08, 2 => some (.fmulX f)
  | 0x08, 4 => some (.fminX f)
  | 0x08, 5 => some (.fmaxX f)
  | 0x08, 6 => some (.fcpysX f)
  | 0x08, 7 => some (.fdivX f)
  | 0x09, 0 => some (.frcpX f)
  | 0x09, 1 => some (.frsqX f)
  | 0x09, 2 => some (.fsqrtX f)
  | 0x09, 3 => some (.fexp2X f)
  | 0x09, 4 => some (.flog2X f)
  | 0x09, 5 => some (.fsinX f)
  | 0x09, 6 => some (.fcosX f)
  | 0x09, 7 => some (.ftanhX f)
  | 0x0A, 0 => some (.frndX f)
  | 0x0A, 1 => some (.fclassX f)
  | 0x0A, 3 => some (.fldexpX f)
  | 0x0A, 4 => some (.fgetexpX f)
  | 0x0A, 5 => some (.fgetmanX f)
  | 0x0E, 0 => some (.retX f)
  | 0x0E, 1 => some (.jmpiX f)
  | 0x0E, 2 => some (.calliX f)
  | 0x0E, 3 => some (.enterX f)
  | 0x0E, 4 => some (.leaveX f)
  | 0x0E, 5 => some (.repX f)
  | 0x0E, 6 => some (.trapX f)
  | 0x0E, 7 => some (.exitX f)
  | 0x05, mn => if mn < 8 then some (.icmpX (BitVec.ofNat 3 mn) f) else none
  | _, _ => none

/-- The one-word M-layout instruction (R66). -/
def memInstr (mn : Nat) (f : MemF) : Option Instr :=
  match mn with
  | 0 => some (.ld f)
  | 1 => some (.st f)
  | 2 => some (.lds f)
  | 3 => some (.sts f)
  | 4 => some (.pref f)
  | _ => none

/-- The longer form of an M-layout row. -/
def memInstrX (mn : Nat) (f : XForm MemF) : Option Instr :=
  match mn with
  | 0 => some (.ldX f)
  | 1 => some (.stX f)
  | 2 => some (.ldsX f)
  | 3 => some (.stsX f)
  | 4 => some (.prefX f)
  | _ => none

/-- The instruction of a row that exists only in extended form (R83). MEET and MEET_POP, GNODE_Q and GNODE_SIG are told
apart by MOD [0] (R165, R336), PSWR and FLKCTL_WRITE by the index in field B (R369, R386). -/
def wideInstr (maj mn : Nat) (f : EForm) : Option Instr :=
  match maj, mn with
  | 0x15, 4 => some (if f.fields.mod.getLsbD 0 then .meetPop f else .meet f)
  | 0x30, 4 => some (if f.fields.mod.getLsbD 0 then .gnodeSig f else .gnodeQ f)
  | 0x39, 1 => some (if f.fields.b.toNat = 0x82 then .flkctlWrite f else .pswr f)
  | 0x04, 4 => some (.bfi f)
  | 0x04, 6 => some (.imad f)
  | 0x07, 2 => some (.sel f)
  | 0x08, 3 => some (.ffma f)
  | 0x0A, 2 => some (.fcmp f)
  | 0x0B, 0 => some (.cvt f)
  | 0x0B, 1 => some (.cvtpk f)
  | 0x0B, 2 => some (.cvtxp f)
  | 0x14, 0 => some (.shfl f)
  | 0x14, 1 => some (.vote f)
  | 0x14, 2 => some (.matchLanes f)
  | 0x14, 3 => some (.redux f)
  | 0x14, 4 => some (.scan f)
  | 0x14, 5 => some (.elect f)
  | 0x14, 6 => some (.vtos f)
  | 0x15, 0 => some (.bar f)
  | 0x15, 1 => some (.bara f)
  | 0x15, 2 => some (.barw f)
  | 0x15, 3 => some (.bari f)
  | 0x15, 5 => some (.nap f)
  | 0x15, 6 => some (.bkoff f)
  | 0x16, 0 => some (.cbr f)
  | 0x16, 1 => some (.cbsync f)
  | 0x16, 2 => some (.cmemb f)
  | 0x16, 3 => some (.cmq f)
  | 0x17, 0 => some (.gen f)
  | 0x17, 1 => some (.yield f)
  | 0x17, 2 => some (.gend f)
  | 0x17, 3 => some (.gnext f)
  | 0x17, 4 => some (.gdrain f)
  | 0x17, 5 => some (.gstat f)
  | 0x18, 0 => some (.hnrm f)
  | 0x18, 1 => some (.hexp f)
  | 0x18, 2 => some (.hdot f)
  | 0x18, 3 => some (.hscl f)
  | 0x18, 4 => some (.hadd f)
  | 0x18, 5 => some (.hneg f)
  | 0x18, 6 => some (.hproj f)
  | 0x19, 0 => some (.hln f)
  | 0x19, 1 => some (.hsln f)
  | 0x19, 2 => some (.hmov f)
  | 0x19, 3 => some (.hcls f)
  | 0x19, 4 => some (.hld f)
  | 0x19, 5 => some (.hst f)
  | 0x20, 0 => some (.atom f)
  | 0x21, 0 => some (.phase f)
  | 0x21, 1 => some (.sealRange f)
  | 0x21, 2 => some (.unsealRange f)
  | 0x21, 3 => some (.segq f)
  | 0x21, 4 => some (.pkrw f)
  | 0x21, 5 => some (.pkrr f)
  | 0x21, 6 => some (.leaseq f)
  | 0x22, 0 => some (.calln f)
  | 0x22, 1 => some (.ldn f)
  | 0x22, 2 => some (.jmpn f)
  | 0x22, 3 => some (.lnkq f)
  | 0x23, 0 => some (.trsv f)
  | 0x23, 1 => some (.trel f)
  | 0x23, 2 => some (.tld f)
  | 0x23, 3 => some (.tldv f)
  | 0x23, 4 => some (.txv f)
  | 0x24, 0 => some (.mma f)
  | 0x24, 1 => some (.mmak f)
  | 0x25, 0 => some (.accz f)
  | 0x25, 1 => some (.accld f)
  | 0x25, 2 => some (.accst f)
  | 0x25, 3 => some (.accsp f)
  | 0x25, 4 => some (.accmv f)
  | 0x30, 0 => some (.push f)
  | 0x30, 1 => some (.waitc f)
  | 0x30, 2 => some (.qstat f)
  | 0x30, 3 => some (.trigger f)
  | 0x38, 0 => some (.svc f)
  | 0x38, 1 => some (.thset f)
  | 0x38, 2 => some (.rtt f)
  | 0x38, 3 => some (.park f)
  | 0x38, 4 => some (.prio f)
  | 0x39, 0 => some (.psrd f)
  | 0x39, 2 => some (.tlbinv f)
  | _, _ => none

/-- The instruction of a View; none for numbers the opcode map does not assign. -/
def View.instr? : View → Option Instr
  | .op maj mn f => opInstr maj mn f
  | .opX maj mn f => opInstrX maj mn f
  | .mem mn f => memInstr mn f
  | .memX mn f => memInstrX mn f
  | .br 0x0C f => some (.bra f)
  | .br 0x0D f => some (.call f)
  | .br _ _ => none
  | .brX 0x0C f => some (.braX f)
  | .brX 0x0D f => some (.callX f)
  | .brX _ _ => none
  | .wide maj mn f => wideInstr maj mn f
  | .hint x => some (.hint x)
  | .hintLong w => some (.hintLong w)
  | .illegal w => some (.illegalOpcode w)
  | .event => none

/-- The form of an encoding (R62). -/
inductive LenForm where
  | base | lit | ext | extLit
  deriving DecidableEq, Repr

/-- Bytes of an instruction of this form (R62). -/
def LenForm.bytes : LenForm → Nat
  | .base => 4
  | .lit => 12
  | .ext => 12
  | .extLit => 20

/-- The fields every rule of the manual reads, of whatever form: a base form reads as the extended form of R68. `lit` is the
literal of LEN 01 or 11. -/
structure Fields where
  form : LenForm
  maj : Nat
  mn : Nat
  d : Nat
  a : Nat
  b : Nat
  c : Nat
  n : Bool
  g : Nat
  xb : Bool
  cs : Bool
  ca : Bool
  cb : Bool
  cd : Bool
  mod : BitVec 7
  x : Word
  lit : Option DWord
  w0 : Word
  deriving DecidableEq, Repr

/-- The guard of a base OP or BR encoding: 0 is "always", which is p15 (R68, R75). -/
def baseGuard (g : BitVec 3) : Nat := if g = 0 then 15 else g.toNat

/-- Does the opcode map give the major the FLT layout (R76, R83)? -/
def isFltMajor (maj : Nat) : Bool := maj == 0x08 || maj == 0x09 || maj == 0x0A

/-- MOD of a base OP encoding (R68): b32 and .s for the integer majors, f32 and dyn for the float majors. -/
def baseMod (maj : Nat) : BitVec 7 := if isFltMajor maj then 0x20 else 0

/-- Word 0 of an OP-layout encoding (R65). -/
def opWord (len : BitVec 2) (maj mn : Nat) (f : OpF) : Word :=
  len ++ BitVec.ofNat 6 maj ++ f.d ++ f.a ++ f.b ++ BitVec.ofNat 3 mn ++ f.g

/-- Word 0 of an M-layout encoding (R66). -/
def memWord (len : BitVec 2) (mn : Nat) (f : MemF) : Word :=
  len ++ BitVec.ofNat 6 0x0F ++ f.d ++ f.a ++ BitVec.ofNat 3 mn ++ f.size ++ BitVec.ofBool f.s ++ f.ofs

/-- Word 0 of a BR-layout encoding (R64). -/
def brWord (len : BitVec 2) (maj : Nat) (f : BrF) : Word :=
  len ++ BitVec.ofNat 6 maj ++ f.g ++ BitVec.ofBool f.n ++ f.ofs

/-- Word 0 of an extended encoding (R70). -/
def extWord0 (len : BitVec 2) (maj : Nat) (f : ExtF) : Word :=
  len ++ BitVec.ofNat 6 maj ++ f.d ++ f.a ++ f.b

/-- Word 1 of an extended encoding (R70, R71): bit [4] of the minor field is zero. -/
def extWord1 (mn : Nat) (f : ExtF) : Word :=
  f.c ++ BitVec.ofBool f.n ++ f.g ++ BitVec.ofBool f.xb ++ (0 : BitVec 1) ++ BitVec.ofBool f.cs ++ BitVec.ofNat 3 mn
    ++ BitVec.ofBool f.ca ++ BitVec.ofBool f.cb ++ BitVec.ofBool f.cd ++ f.route ++ f.mod

/-- The first word of a long raw encoding. -/
def RawWords.first : RawWords → Word
  | .one w => w
  | .three w _ _ => w
  | .five w _ _ _ _ => w

/-- The fields of an OP-layout encoding, base or base with literal (R68, R69): in FLOW the literal supplies X. -/
def opFields (form : LenForm) (lit : Option DWord) (maj mn : Nat) (f : OpF) : Fields :=
  let w := opWord (match form with | .lit => 1 | _ => 0) maj mn f
  ⟨form, maj, mn, f.d.toNat, f.a.toNat, f.b.toNat, 0, false, baseGuard f.g, false, false, false, false, false,
    baseMod maj, (match lit with | some l => if maj = 0x0E then loWord l else 0 | none => 0), lit, w⟩

/-- The fields of an M-layout encoding (R66, R68): LD, ST and PREF at scope dev, LDS and STS at scope team. -/
def memFields (form : LenForm) (lit : Option DWord) (mn : Nat) (f : MemF) : Fields :=
  let w := memWord (match form with | .lit => 1 | _ => 0) mn f
  let c := if mn = 2 ∨ mn = 3 then 0x20 else 0x60
  ⟨form, 0x0F, mn, f.d.toNat, f.a.toNat, 0, c, false, 15, false, false, false, false, false,
    f.size ++ BitVec.ofBool f.s ++ (0 : BitVec 3), BitVec.ofNat 32 (f.ofs.toNat * 2 ^ f.size.toNat), lit, w⟩

/-- The fields of a BR-layout encoding (R64, R68): with G = 0 the guard is "always" whatever bit 20 holds. -/
def brFields (form : LenForm) (lit : Option DWord) (maj : Nat) (f : BrF) : Fields :=
  let w := brWord (match form with | .lit => 1 | _ => 0) maj f
  ⟨form, maj, 0, 0, 0, 0, 0, f.n && f.g != 0, baseGuard f.g, false, false, false, false, false, 0, f.ofs.signExtend 32, lit, w⟩

/-- The fields of an extended encoding (R70). -/
def extFields (form : LenForm) (lit : Option DWord) (maj mn : Nat) (f : ExtF) : Fields :=
  ⟨form, maj, mn, f.d.toNat, f.a.toNat, f.b.toNat, f.c.toNat, f.n, f.g.toNat, f.xb, f.cs, f.ca, f.cb, f.cd, f.mod, f.x, lit,
    extWord0 (match form with | .extLit => 3 | _ => 2) maj f⟩

/-- The fields of an OP-layout form of more than one word. -/
def opXFields (maj mn : Nat) : XForm OpF → Fields
  | .lit f l => opFields .lit (some l) maj mn f
  | .ext f => extFields .ext none maj mn f
  | .extLit f l => extFields .extLit (some l) maj mn f

/-- The fields of an M-layout form of more than one word. -/
def memXFields (mn : Nat) : XForm MemF → Fields
  | .lit f l => memFields .lit (some l) mn f
  | .ext f => extFields .ext none 0x0F mn f
  | .extLit f l => extFields .extLit (some l) 0x0F mn f

/-- The fields of a BR-layout form of more than one word. -/
def brXFields (maj : Nat) : XForm BrF → Fields
  | .lit f l => brFields .lit (some l) maj f
  | .ext f => extFields .ext none maj 0 f
  | .extLit f l => extFields .extLit (some l) maj 0 f

/-- The fields of a form without a base layout. -/
def wideFields (maj mn : Nat) : EForm → Fields
  | .lit e _ => e.elim
  | .ext f => extFields .ext none maj mn f
  | .extLit f l => extFields .extLit (some l) maj mn f

/-- The fields of an SRD or SWR form. -/
def anyFields (mn : Nat) : AnyForm → Fields
  | .base f => opFields .base none 0x07 mn f
  | .more f => opXFields 0x07 mn f

/-- The fields of an encoded instruction; none for the hint space, an illegal encoding and an event. -/
def View.fields? : View → Option Fields
  | .op maj mn f => some (opFields .base none maj mn f)
  | .opX maj mn f => some (opXFields maj mn f)
  | .mem mn f => some (memFields .base none mn f)
  | .memX mn f => some (memXFields mn f)
  | .br maj f => some (brFields .base none maj f)
  | .brX maj f => some (brXFields maj f)
  | .wide maj mn f => some (wideFields maj mn f)
  | .hint _ => none
  | .hintLong _ => none
  | .illegal _ => none
  | .event => none

/-- The fields of an instruction. -/
def Instr.fields? (i : Instr) : Option Fields := i.view.fields?

end Sys2Proof
end

