-- ==== Sys2Proof/Machine/Entries.lean ====
section
/-! DEFINITION. The entry tables of the manual as functions of an instruction's fields: what each operand field names, which
types and modifiers an entry accepts (R65 to R81 and each entry's own table), hence which encodings raise RESERVED_FIELD and
which registers an instruction names. -/

namespace Sys2Proof

/-- What a register field names (R71, R72). `reg v s span align`: a vector (if `v`) or scalar (if `s`) register group of
`span` registers whose first is a multiple of `align`. `own`: bits the entry defines. -/
inductive Slot where
  | zero
  | own
  | reg (v s : Bool) (span align : Nat)
  | pred
  | tile
  | acc
  | ray
  deriving DecidableEq, Repr

/-- The operand fields of an entry; `imm`: operand B may come from X or a literal (R69, R73). -/
structure Opnds where
  d : Slot
  a : Slot
  b : Slot
  c : Slot
  imm : Bool
  deriving DecidableEq, Repr

namespace Slot
def vs : Slot := .reg true true 1 1
def vsPair : Slot := .reg true true 2 2
def v1 : Slot := .reg true false 1 1
def s1 : Slot := .reg false true 1 1
def sPair : Slot := .reg false true 2 2
def sQuad : Slot := .reg false true 4 4
end Slot

namespace Fields

/-- The type code of the INT, FLT and CVT layouts, and of the OWN layouts that put a type there: MOD [6:3]. -/
def ty (f : Fields) : Nat := (f.mod.extractLsb' 3 4).toNat
/-- MOD [2:0]: the rounding code or the OWN sub-operation. -/
def low3 (f : Fields) : Nat := (f.mod.extractLsb' 0 3).toNat
/-- Bit k of MOD. -/
def modBit (f : Fields) (k : Nat) : Bool := f.mod.getLsbD k
/-- .z of the INT layout (R76). -/
def z (f : Fields) : Bool := f.mod.getLsbD 2
/-- .sat of the INT layout (R76). -/
def sat (f : Fields) : Bool := f.mod.getLsbD 1
/-- Size code of the MSZ layout (R66, R76). -/
def size (f : Fields) : Nat := (f.mod.extractLsb' 4 3).toNat
/-- S of the MSZ layout (R78). -/
def sx (f : Fields) : Bool := f.mod.getLsbD 3
/-- Bytes of a size code: 1, 2, 4, 8, 16. -/
def sizeBytes (f : Fields) : Nat := 2 ^ f.size
/-- The scope of the memory control byte (R81). -/
def scope (f : Fields) : Nat := f.c / 32 % 8
/-- The order of the memory control byte: 0 rlx, 1 acq, 2 rel, 3 ar (R80). -/
def order (f : Fields) : Nat := f.c / 8 % 4
def vol (f : Fields) : Bool := f.c / 4 % 2 == 1
def spl (f : Fields) : Bool := f.c / 2 % 2 == 1
def bm (f : Fields) : Bool := f.c % 2 == 1
/-- Does the order include an acquire, a release (R80)? -/
def acquires (f : Fields) : Bool := f.order == 1 || f.order == 3
def releases (f : Fields) : Bool := f.order == 2 || f.order == 3
/-- The source type of CVT, CVTPK and CVTXP, and their ZS, ZD and SAT (R77). -/
def srcTy (f : Fields) : Nat := f.c % 16
def zs (f : Fields) : Bool := f.c / 16 % 2 == 1
def zd (f : Fields) : Bool := f.c / 32 % 2 == 1
def cvtSat (f : Fields) : Bool := f.c / 64 % 2 == 1
/-- Is operand B taken from X or from a literal (R69, R73)? -/
def hasImm (f : Fields) : Bool := f.xb || (f.form == .lit && f.maj != 0x0E)
/-- Operand B as a 32-bit immediate (R69, R73). -/
def imm32 (f : Fields) : Word := match f.lit with | some l => loWord l | none => f.x
/-- Operand B as a 64-bit immediate: the literal whole, or X sign-extended (R69, R73). -/
def imm64 (f : Fields) : DWord := match f.lit with | some l => l | none => f.x.signExtend 64
/-- The byte offset of LD, ST, PREF, ATOM: X sign-extended or the literal of LEN 11 (R74, R130). -/
def ofs64 (f : Fields) : DWord := match f.lit with | some l => l | none => f.x.signExtend 64
/-- The instruction's length in bytes (R62). -/
def len (f : Fields) : Nat := f.form.bytes

end Fields

/-- Registers of an operand whose type code is `t`: a pair for b64 (R12, R48). -/
def typed (t : Nat) : Slot := if t = 1 then .vsPair else .vs

/-- The vector-only form of `typed`. -/
def typedV (t : Nat) : Slot := if t = 1 then .reg true false 2 2 else .v1

/-- The register group a memory size code takes: a pair for b64, four for b128 (R78). -/
def sized (size : Nat) : Slot :=
  match size with
  | 3 => .vsPair
  | 4 => .reg true true 4 4
  | _ => .vs

/-- A mask of W bits: a pair when W = 64 (R158). -/
def maskV (w : Nat) (s : Bool) : Slot := if w = 64 then .reg true s 2 2 else .reg true s 1 1

/-- Vector registers of one ACCLD or ACCST: 128 / W (R300). -/
def accRegs (w : Nat) : Nat := 128 / w

/-- The operand fields of each entry, for a group of width `w`. -/
def opnds (w : Nat) (f : Fields) : Opnds :=
  let t := typed f.ty
  match f.maj, f.mn with
  | 0x02, _ => ⟨t, t, t, .zero, true⟩                                   -- R90
  | 0x03, mn => if mn < 4 then ⟨t, t, t, .zero, true⟩ else ⟨t, t, .vs, .zero, true⟩   -- R92
  | 0x04, 0 => ⟨.vs, t, .zero, .zero, false⟩                             -- R94
  | 0x04, 1 => ⟨.vs, t, .zero, .zero, false⟩
  | 0x04, 2 => ⟨t, t, .zero, .zero, false⟩
  | 0x04, 3 => ⟨t, t, .vs, .zero, true⟩
  | 0x04, 4 => ⟨t, t, .vs, t, true⟩
  | 0x04, 5 => ⟨t, t, .zero, .zero, false⟩
  | 0x04, 6 => ⟨t, t, t, t, true⟩
  | 0x04, 7 => ⟨.vsPair, .vsPair, .vsPair, .zero, true⟩
  | 0x05, _ => ⟨.pred, t, t, .zero, true⟩                                -- R96
  | 0x06, 5 => ⟨.v1, .zero, .vs, .zero, true⟩                            -- R97
  | 0x06, 6 => ⟨.zero, .vs, .vs, .zero, true⟩
  | 0x06, mn => if mn < 3 then ⟨.pred, .pred, .pred, .zero, false⟩ else ⟨.pred, .pred, .zero, .zero, false⟩
  | 0x07, 0 => ⟨t, .zero, t, .zero, true⟩                                -- R98
  | 0x07, 1 => ⟨.v1, .v1, .vs, .zero, true⟩
  | 0x07, 2 => ⟨t, t, t, .pred, true⟩
  | 0x07, 3 => ⟨if f.ty = 0 then .vsPair else .vs, .zero, .vs, .zero, false⟩
  | 0x07, 4 => ⟨.vs, .zero, .own, .zero, false⟩
  | 0x07, _ => ⟨.zero, .vs, .own, .zero, false⟩
  | 0x08, 3 => ⟨.vs, .vs, .vs, .vs, true⟩                                -- R115
  | 0x08, _ => ⟨.vs, .vs, .vs, .zero, true⟩
  | 0x09, _ => ⟨.vs, .vs, .zero, .zero, false⟩                           -- R118
  | 0x0A, 2 => ⟨.pred, .vs, .vs, .own, true⟩                             -- R120
  | 0x0A, 3 => ⟨.vs, .vs, .vs, .zero, true⟩
  | 0x0A, _ => ⟨.vs, .vs, .zero, .zero, false⟩
  | 0x0B, 0 => ⟨typed f.ty, typed f.srcTy, .zero, .own, false⟩           -- R125
  | 0x0B, 1 => ⟨.vs, if f.ty = 9 ∨ f.ty = 10 then .reg true true 4 4 else .vs, .vs, .own, true⟩
  | 0x0B, _ => if f.srcTy = 9 ∨ f.srcTy = 10 then ⟨.reg true true 4 4, .vs, .vs, .own, true⟩
      else ⟨.vsPair, .vs, .zero, .own, false⟩
  | 0x0E, 0 => ⟨.zero, .vs, .zero, .zero, false⟩                         -- R104
  | 0x0E, 1 => ⟨.zero, .vs, .zero, .zero, false⟩
  | 0x0E, 2 => ⟨.zero, .vs, .zero, .zero, false⟩
  | 0x0E, 5 => ⟨.own, .zero, .zero, .zero, false⟩
  | 0x0E, _ => ⟨.zero, .zero, .zero, .zero, false⟩
  | 0x0F, 0 => ⟨sized f.size, .vsPair, .zero, .own, false⟩               -- R129
  | 0x0F, 1 => ⟨sized f.size, .vsPair, if f.bm then .v1 else .zero, .own, false⟩
  | 0x0F, 2 => ⟨sized f.size, .vs, .zero, .own, false⟩
  | 0x0F, 3 => ⟨sized f.size, .vs, if f.bm then .v1 else .zero, .own, false⟩
  | 0x0F, _ => ⟨.zero, .vsPair, .zero, .own, false⟩
  | 0x14, 0 => ⟨typedV f.ty, typedV f.ty, .vs, .own, true⟩               -- R158
  | 0x14, 1 => ⟨if f.low3 = 3 then maskV w true else .pred, .pred, .zero, .zero, false⟩
  | 0x14, 2 => ⟨maskV w false, typedV f.ty, .zero, .pred, false⟩
  | 0x14, 3 => ⟨t, t, .zero, .own, false⟩
  | 0x14, 4 => ⟨typedV f.ty, t, .zero, .own, false⟩
  | 0x14, 5 => ⟨.pred, .zero, .zero, .zero, false⟩
  | 0x14, _ => ⟨if f.ty = 1 then .sPair else .s1, typedV f.ty, .s1, .zero, true⟩
  | 0x15, 0 => ⟨.zero, .zero, .zero, .own, false⟩                        -- R165
  | 0x15, 1 => ⟨.zero, .pred, .zero, .own, false⟩
  | 0x15, 2 => ⟨.pred, .pred, .zero, .own, false⟩
  | 0x15, 3 => ⟨.zero, .zero, .vs, .own, true⟩
  | 0x15, 4 => ⟨.zero, .zero, .zero, if f.modBit 0 then .zero else .own, false⟩
  | 0x15, 5 => ⟨.zero, .zero, .vs, .zero, true⟩
  | 0x15, _ => ⟨.zero, .pred, .zero, .zero, false⟩
  | 0x16, 0 => ⟨.zero, .pred, .zero, .own, false⟩                        -- R185
  | 0x16, 1 => ⟨.zero, .zero, .zero, .own, false⟩
  | 0x16, 2 => ⟨.zero, .sQuad, .zero, .own, false⟩
  | 0x16, _ => ⟨.s1, .zero, .zero, .own, false⟩
  | 0x17, 0 => ⟨.zero, .sQuad, .zero, .zero, false⟩                      -- R199
  | 0x17, 1 => ⟨.zero, .v1, .zero, .zero, false⟩
  | 0x17, 5 => ⟨.s1, .zero, .zero, .zero, false⟩
  | 0x17, _ => ⟨.zero, .zero, .zero, .zero, false⟩
  | 0x18, 0 => ⟨.ray, if f.ty = 4 then .reg true false 2 2 else .v1, .zero, .zero, false⟩   -- R215
  | 0x18, 1 => ⟨.reg true false 2 2, .ray, .zero, .zero, false⟩
  | 0x18, 2 => ⟨.vs, .ray, .ray, .zero, false⟩
  | 0x18, 3 => ⟨.ray, .ray, .s1, .zero, true⟩
  | 0x18, 5 => ⟨.ray, .ray, .zero, .zero, false⟩
  | 0x18, _ => ⟨.ray, .ray, .ray, .zero, false⟩
  | 0x19, 0 => ⟨.vs, .ray, .zero, .zero, false⟩
  | 0x19, 1 => ⟨.ray, .zero, .s1, .zero, true⟩
  | 0x19, 2 => ⟨.ray, .ray, .zero, .zero, false⟩
  | 0x19, 3 => ⟨.vs, .ray, .zero, .zero, false⟩
  | 0x19, _ => ⟨.ray, .sPair, .zero, .zero, false⟩
  | 0x20, _ => let q := if f.mod.getLsbD 0 then Slot.vsPair else Slot.vs
      ⟨q, .vsPair, q, .own, false⟩                                        -- R270
  | 0x21, 0 => ⟨.zero, .zero, .zero, .own, false⟩                        -- R272, R273, R250
  | 0x21, 1 => ⟨.pred, .vsPair, .vs, .own, true⟩
  | 0x21, 2 => ⟨.pred, .vsPair, .vs, .own, true⟩
  | 0x21, 3 => ⟨.sQuad, .zero, .s1, .zero, true⟩
  | 0x21, 4 => ⟨.zero, .sPair, .sPair, .zero, false⟩
  | 0x21, 5 => ⟨.sPair, .zero, .zero, .zero, false⟩
  | 0x21, _ => ⟨.pred, .vsPair, .vs, .zero, true⟩
  | 0x22, 1 => ⟨.vsPair, .zero, .zero, .zero, false⟩
  | 0x22, 3 => ⟨.vsPair, .zero, .zero, .zero, false⟩
  | 0x22, _ => ⟨.zero, .zero, .zero, .zero, false⟩
  | 0x23, 0 => ⟨.tile, .sPair, .zero, .zero, false⟩                      -- R293
  | 0x23, 1 => ⟨.tile, .zero, .zero, .zero, false⟩
  | 0x23, 2 => ⟨.tile, .sPair, .zero, .zero, false⟩
  | 0x23, 3 => ⟨.tile, .v1, .s1, .zero, true⟩
  | 0x23, _ => ⟨.v1, .tile, .s1, .zero, true⟩
  | 0x24, 0 => ⟨.acc, .tile, .tile, .zero, false⟩
  | 0x24, _ => ⟨.acc, .tile, if f.mod.extractLsb' 0 2 = 1 then .v1 else .zero, .zero, false⟩
  | 0x25, 0 => ⟨.acc, .zero, .zero, .zero, false⟩
  | 0x25, 1 => ⟨.acc, .reg true false (accRegs w) 1, .s1, .zero, true⟩
  | 0x25, 2 => ⟨.reg true false (accRegs w) 1, .acc, .s1, .zero, true⟩
  | 0x25, 3 => ⟨.zero, .acc, .sPair, .own, false⟩
  | 0x25, _ => ⟨.acc, .acc, .zero, .zero, false⟩
  | 0x30, 0 => ⟨.pred, .reg false true 16 16, .s1, .zero, true⟩          -- R336
  | 0x30, 2 => ⟨.s1, .zero, .zero, .zero, false⟩
  | 0x30, 4 => ⟨if f.modBit 0 then .zero else .s1, .zero, .s1, .zero, true⟩
  | 0x30, _ => ⟨.zero, .zero, .zero, .zero, false⟩
  | 0x38, 0 => let n := (f.mod.extractLsb' 1 3).toNat                    -- R370
      ⟨.zero, if n = 0 then .zero else .reg true false n 1, .zero, .zero, false⟩
  | 0x38, 4 => ⟨.zero, .zero, .s1, .zero, true⟩
  | 0x38, _ => ⟨.zero, .zero, .zero, .zero, false⟩
  | 0x39, 0 => ⟨.vs, .zero, .own, .zero, false⟩
  | 0x39, 1 => ⟨.zero, .vs, .own, .zero, false⟩
  | 0x39, _ => ⟨.zero, .vsPair, .vs, .zero, true⟩
  | _, _ => ⟨.zero, .zero, .zero, .zero, false⟩

/-- Is field D a destination of the entry (it is data or a source in ST, STS and HST)? -/
def dIsDest (maj mn : Nat) : Bool := !((maj == 0x0F && (mn == 1 || mn == 3)) || (maj == 0x19 && mn == 5))

/-- Is a field value inside its class's range and aligned (R11, R12, R72, R78)? A pair stops at v252; a longer or an unaligned group that
passes v254 is beyond the cap (R10, R300, R371). The two registers of a CVTXP are a pair. DEDUCED: log entry 113. DEDUCED: log entry 144. -/
def regOk (scalar : Bool) (num span align : Nat) : Bool :=
  if scalar then num == 127 || (num < 96 && num % align == 0)
  else num == 255 || (num < 255 && num % align == 0 && !(span == 2 && align == 2 && num == 254))

/-- A field and its class bit against its slot (R72). -/
def slotOk (sl : Slot) (num : Nat) (scalar : Bool) : Bool :=
  match sl with
  | .zero => num == 0 && !scalar
  | .own => !scalar
  | .reg v s span align => (if scalar then s else v) && regOk scalar num span align
  | .pred => num < 16 && !scalar
  | .tile => num < 16 && !scalar
  | .acc => num < 32 && !scalar
  | .ray => num < 32 && !scalar

/-- Does the entry name a vector register as a source in this slot (R72)? -/
def vectorSource (sl : Slot) (scalar : Bool) : Bool :=
  match sl with
  | .reg _ _ _ _ => !scalar
  | _ => false

/-- Is operand D scalar while some source operand is a vector register, outside the exceptions VTOS, REDUX and SRD (R72)? -/
def scalarDestBroken (w : Nat) (f : Fields) : Bool :=
  let o := opnds w f
  dIsDest f.maj f.mn && f.cd && !(f.maj == 0x14 && (f.mn == 3 || f.mn == 6))
    && (vectorSource o.a f.ca || (!f.hasImm && vectorSource o.b f.cb) || vectorSource o.c f.cs)

/-- Is the guard required to be "always" (R185, R199, R212, R281)? -/
def guardAlways (maj mn : Nat) : Bool :=
  match maj with
  | 0x16 => mn < 2
  | 0x17 => mn == 0 || mn == 3
  | 0x18 => mn == 0 || (3 ≤ mn && mn ≤ 6)
  | 0x19 => mn == 1 || mn == 2 || mn == 4 || mn == 5
  | 0x23 => true
  | 0x24 => true
  | 0x25 => true
  | _ => false

/-- The type codes an INT-layout entry accepts (R90, R92, R94, R96, R98). -/
def intTypes (maj mn : Nat) : List Nat :=
  match maj, mn with
  | 0x02, _ => [0, 1, 2, 3]
  | 0x03, _ => [0, 1]
  | 0x04, 5 => [0, 1, 2, 3]
  | 0x04, 6 => [0, 1, 2, 3]
  | 0x04, 7 => [0]
  | 0x04, _ => [0, 1]
  | 0x05, _ => [0, 1, 2, 3]
  | 0x07, 0 => [0, 1]
  | 0x07, 2 => [0, 1]
  | 0x07, 3 => [0, 2, 3]
  | _, _ => [0]

/-- Does the INT-layout entry accept .z (R89)? -/
def zAccepted (maj mn : Nat) : Bool :=
  maj == 0x02 || maj == 0x05 || (maj == 0x04 && (mn == 3 || mn == 6)) || (maj == 0x07 && mn == 3)

/-- Does the INT-layout entry accept .sat (R89)? -/
def satAccepted (maj mn : Nat) : Bool :=
  (maj == 0x02 && mn < 3) || (maj == 0x04 && (mn == 5 || mn == 6))

/-- The type codes an FLT-layout entry accepts (R114, R120). -/
def fltTypes (maj mn : Nat) : List Nat :=
  if maj == 0x0A && (mn == 1 || mn == 2 || mn == 4) then [4, 5, 6] else [4, 5, 6, 7, 8]

/-- Is the FLT-layout minor "exact" (R114, R115, R120)? -/
def exactMinor (maj mn : Nat) : Bool :=
  (maj == 0x08 && (mn == 4 || mn == 5 || mn == 6)) || (maj == 0x0A && (mn == 1 || mn == 2 || mn == 4 || mn == 5))

/-- The value types CVT converts (R125). -/
def cvtTypes : List Nat := [0, 1, 2, 3, 4, 5, 6, 9, 10, 11]

/-- MOD and, for the conversions, the C byte, against R76, R77, R125 and the entry's own table. -/
def modOk (f : Fields) : Bool :=
  let intZ (t : Nat) (z : Bool) : Bool := !z || t < 4
  match f.maj, f.mn with
  | 0x08, mn => (fltTypes 0x08 mn).contains f.ty && (if exactMinor 0x08 mn then f.low3 == 0 else f.low3 < 5)
  | 0x09, _ => (fltTypes 0x09 0).contains f.ty && f.low3 < 5
  | 0x0A, mn => (fltTypes 0x0A mn).contains f.ty && (if exactMinor 0x0A mn then f.low3 == 0 else f.low3 < 5)
  | 0x0B, mn =>
    let packed := [7, 8, 9, 10, 11]
    let tys := match mn with
      | 0 => cvtTypes.contains f.ty && cvtTypes.contains f.srcTy && intZ f.ty f.zd && intZ f.srcTy f.zs
      | 1 => packed.contains f.ty && f.srcTy == 4 && !f.zd && !f.zs
      | _ => f.ty == 4 && packed.contains f.srcTy && !f.zd && !f.zs && !f.cvtSat
    tys && f.c < 128 && f.low3 < 5 && (!(f.ty == 9 || f.ty == 10) || f.low3 < 2)
  | 0x0F, mn =>
    let s := f.sx
    f.size < 5 && f.low3 == 0 && (!s || ((mn == 0 || mn == 2) && f.size < 2))
  | 0x14, 0 => f.ty < 2 && f.low3 < 4
  | 0x14, 1 => f.ty == 0 && f.low3 < 4
  | 0x14, 2 => f.ty < 2 && f.low3 == 0
  | 0x14, 3 => (f.ty < 2 || (f.ty == 4 && f.low3 < 3)) && f.low3 < 6
  | 0x14, 4 => (f.ty < 2 || (f.ty == 4 && f.low3 < 3)) && f.low3 < 6
  | 0x14, 6 => f.ty < 2 && f.low3 == 0
  | 0x15, 2 => f.mod.toNat < 2
  | 0x15, 4 => f.mod.toNat < 2
  | 0x18, 0 => [4, 7, 8, 11].contains f.ty && f.low3 == 0
  | 0x18, 1 => f.mod.toNat == 0x20
  | 0x18, 2 => f.mod.toNat < 2
  | 0x19, 0 => (f.ty == 4 || f.ty == 0) && f.low3 == 0
  | 0x19, 1 => (f.ty == 4 || f.ty == 0) && f.low3 == 0
  | 0x19, 2 => f.mod.toNat < 2
  | 0x20, _ =>
    let t := (f.mod.extractLsb' 0 2).toNat
    f.ty < 9 && t < 3 && ((t == 2) == (f.ty == 8)) && (!f.z || f.ty == 1 || f.ty == 2)
  | 0x21, 6 => f.mod.toNat < 4 && f.mod.toNat != 0
  | 0x23, 0 => [4, 5, 6, 9, 10].contains f.ty && (f.ty == 9 || f.ty == 10 || f.mod.extractLsb' 0 2 == 0)
  | 0x24, 0 => f.mod.toNat < 4
  | 0x24, _ => f.mod.toNat < 16
  | 0x25, 3 => [4, 6, 9].contains f.ty && f.low3 < 2
  | 0x30, 4 => f.mod.toNat < 2
  | 0x38, 0 => f.mod.toNat < 10
  | 0x38, 1 => f.mod.toNat < 2
  | 0x39, 2 => f.mod.toNat < 3
  | maj, mn =>
    if maj == 0x02 || maj == 0x03 || maj == 0x04 || maj == 0x05 || maj == 0x07 then
      (intTypes maj mn).contains f.ty && (!f.z || zAccepted maj mn) && (!f.sat || satAccepted maj mn) && !f.modBit 0
    else f.mod.toNat == 0

/-- The control byte C and the entry's other data fields (R81, R123, R129, R158, R165, R185, R270, R272, R273, R301). -/
def ctrlOk (w : Nat) (f : Fields) : Bool :=
  match f.maj, f.mn with
  | 0x0A, 2 => f.c < 8
  | 0x0F, 0 => f.scope < 6 && f.order < 2 && !f.bm
  | 0x0F, 1 => f.scope < 6 && (f.order == 0 || f.order == 2) && !f.vol
  | 0x0F, 2 => f.scope < 3 && f.order < 2 && !f.vol && !f.spl && !f.bm
  | 0x0F, 3 => f.scope < 3 && (f.order == 0 || f.order == 2) && !f.vol && !f.spl
  | 0x0F, _ => f.c == 0x60
  | 0x14, 0 => f.c < 7 && (f.c == 0 || 2 ^ f.c ≤ w)
  | 0x14, 3 => f.c < 2 && !(f.ty == 4 && f.c == 1)
  | 0x14, 4 => f.c < 4 && !(f.ty == 4 && f.c % 2 == 1)
  | 0x15, 0 => f.c < 16
  | 0x15, 1 => f.c < 16
  | 0x15, 2 => f.c < 16
  | 0x15, 3 => f.c < 16
  | 0x16, 0 => f.c < 64
  | 0x16, _ => f.c < 16
  | 0x20, _ => f.scope < 6 && !f.vol && !f.bm
  | 0x21, 0 => f.scope < 6 && f.order != 0 && f.c % 8 == 0
  | 0x21, 1 => f.c == 0x70
  | 0x21, 2 => f.c == 0x70
  | 0x25, 3 => if f.ty == 9 then f.c == 127 || f.c < 96 else f.c == 0
  | _, _ => true

/-- Is a descriptor byte of MMA's X a scalar pair 0 to 94 (R279, R293)? -/
def descOk (n : Nat) : Bool := n % 2 == 0 && n ≤ 94

/-- The rules on X, on indices and on register fields that an entry's own text gives. -/
def ownOk (f : Fields) : Bool :=
  let x := f.x.toNat
  let xi := f.x.toInt
  match f.maj, f.mn with
  | 0x07, 4 => x == 0 && (f.b < 0x27 || (0x80 ≤ f.b && f.b ≤ 0x8F))       -- R14, R98
  | 0x07, 5 => x == 0 && (f.b < 0x27 || (0x80 ≤ f.b && f.b ≤ 0x8F)) &&
      (0x80 ≤ f.b || [0x0A, 0x0B, 0x0D, 0x12, 0x13, 0x14, 0x15, 0x16, 0x17, 0x18, 0x19, 0x1A, 0x22, 0x23].contains f.b)
  | 0x0C, _ => true
  | 0x0D, _ => true
  | 0x0E, 3 => x % 16 == 0                                               -- R106
  | 0x0E, 4 => x % 16 == 0
  | 0x0E, 5 => f.d < 64                                                  -- R109
  | 0x0E, 6 => x < 65536                                                 -- R104
  | 0x0E, _ => x == 0
  | 0x0F, _ => true
  | 0x15, 4 => !f.modBit 0 || x == 0                                     -- R165
  | 0x16, 0 => true
  | 0x16, 2 => f.a ≤ 92 && x == 0
  | 0x17, 0 => f.a ≤ 92
  | 0x19, 4 => true
  | 0x19, 5 => true
  | 0x20, _ => true
  | 0x21, 3 => f.d ≤ 92 && (f.xb || x == 0)
  | 0x22, _ => x < 65536                                                 -- R250
  | 0x23, 2 => f.a ≤ 94 && x < 256                                       -- R293
  | 0x24, 0 =>
    (if f.modBit 0 then descOk (x % 256) else x % 256 == 0 && x / 65536 % 256 == 0)
      && (if f.modBit 1 then descOk (x / 256 % 256) else x / 256 % 256 == 0 && x / 16777216 == 0)
  | 0x24, _ => if f.mod.extractLsb' 0 2 = 3 then -63 ≤ xi && xi ≤ 63 else x == 0
  | 0x25, 3 => f.b ≤ 94 && x < 1024 && (if f.ty == 9 then x / 256 != 0 else x / 256 == 0)
  | 0x30, 0 => f.a ≤ 80 && (if f.xb then x < 64 else x == 0)
  | 0x30, 1 => x < 16777216
  | 0x30, 4 => if f.xb then x < 65536 else x == 0
  | 0x38, 0 => x < 65536
  | 0x38, 1 => !f.modBit 0 || x == 0
  | 0x38, 3 => true
  | 0x38, 4 => if f.xb then x < 8 else x == 0
  | 0x39, 0 => 0x80 ≤ f.b && f.b ≤ 0x8F && x == 0
  | 0x39, 1 => 0x80 ≤ f.b && f.b ≤ 0x8F && x == 0
  | 0x39, 2 => if f.xb then x < 64 else x == 0
  | _, _ => f.xb || x == 0

/-- Does the major have the OP layout (R83)? -/
def opLayout (maj : Nat) : Bool := maj < 0x0B || maj == 0x0E

/-- The rules on the form: R69 for LEN 01, R74 for LEN 11, R73 for XB. DEDUCED: log entry 24. -/
def formOk (w : Nat) (f : Fields) : Bool :=
  let o := opnds w f
  match f.form with
  | .base => true
  | .lit => opLayout f.maj &&
      ((o.imm && f.b == 0) ||
       (f.maj == 0x0E && 3 ≤ f.mn && f.mn ≤ 6 &&
        (match f.lit with | some l => l == (loWord l).signExtend 64 | none => false)))
  | .ext => true
  | .extLit => f.x == 0 &&
      ((f.maj < 0x0C && o.imm && f.xb) || (f.maj == 0x0F && (f.mn == 0 || f.mn == 1 || f.mn == 4)) || f.maj == 0x20)

/-- Operand B: a register under its slot, or an immediate whose B field and class bit are zero (R73). DEDUCED: log entry 22. -/
def bOk (w : Nat) (f : Fields) : Bool :=
  let o := opnds w f
  if f.hasImm then o.imm && f.b == 0 && !f.cb else slotOk o.b f.b f.cb

/-- Does the encoding keep every rule of R65 to R81 and of its entry? A false answer is RESERVED_FIELD (R85, R86). -/
def fieldsOk (w : Nat) (f : Fields) : Bool :=
  let o := opnds w f
  formOk w f && slotOk o.d f.d f.cd && slotOk o.a f.a f.ca && bOk w f && slotOk o.c f.c f.cs
    && !scalarDestBroken w f && modOk f && ctrlOk w f && ownOk f && (!guardAlways f.maj f.mn || (f.g == 15 && !f.n))

/-- The kernel's declared counts a register field is held against (R10, R72, R206, R274). -/
structure Counts where
  regs : Nat
  tiles : Nat
  accs : Nat
  rays : Nat
  deriving DecidableEq, Repr

/-- Is a field beyond its declared count: the class code of FAUX and the field value (R26, R72)? -/
def slotBeyond (k : Counts) (sl : Slot) (num : Nat) (scalar : Bool) : List (Nat × Nat) :=
  match sl with
  | .reg _ _ span _ => if !scalar && num != 255 && k.regs < num + span then [(0, num)] else []
  | .tile => if k.tiles ≤ num then [(3, num)] else []
  | .acc => if k.accs ≤ num then [(3, num)] else []
  | .ray => if k.rays ≤ num then [(3, num)] else []
  | _ => []

/-- The implicit vector registers an instruction names (R103, R105, R106, R251). -/
def implicitRegs (maj mn : Nat) : List Nat :=
  match maj, mn with
  | 0x0D, _ => [29]
  | 0x0E, 2 => [29]
  | 0x0E, 3 => [31]
  | 0x0E, 4 => [31]
  | 0x22, 0 => [29]
  | _, _ => []

/-- The registers of an instruction beyond their declared count, first operand first (R72, R103). DEDUCED: log entry 23. -/
def beyond (w : Nat) (k : Counts) (f : Fields) : List (Nat × Nat) :=
  let o := opnds w f
  slotBeyond k o.d f.d f.cd ++ slotBeyond k o.a f.a f.ca
    ++ (if f.hasImm then [] else slotBeyond k o.b f.b f.cb) ++ slotBeyond k o.c f.c f.cs
    ++ ((implicitRegs f.maj f.mn).filter (fun n => k.regs ≤ n)).map (fun n => (0, n))

/-- The vector registers a slot covers; vz covers none. -/
def slotVecs (sl : Slot) (num : Nat) (scalar : Bool) : List Nat :=
  match sl with
  | .reg _ _ span _ => if scalar || num == 255 then [] else (List.range span).map (num + ·)
  | _ => []

/-- The scalar registers a slot covers; sz covers none. -/
def slotScals (sl : Slot) (num : Nat) (scalar : Bool) : List Nat :=
  match sl with
  | .reg _ _ span _ => if !scalar || num == 127 then [] else (List.range span).map (num + ·)
  | _ => []

/-- Every vector register an instruction's fields name or it names implicitly. -/
def vecsNamed (w : Nat) (f : Fields) : List Nat :=
  let o := opnds w f
  slotVecs o.d f.d f.cd ++ slotVecs o.a f.a f.ca ++ (if f.hasImm then [] else slotVecs o.b f.b f.cb)
    ++ slotVecs o.c f.c f.cs ++ implicitRegs f.maj f.mn

/-- Every scalar register an instruction reads or writes. -/
def scalsNamed (w : Nat) (f : Fields) : List Nat :=
  let o := opnds w f
  slotScals o.d f.d f.cd ++ slotScals o.a f.a f.ca ++ (if f.hasImm then [] else slotScals o.b f.b f.cb)
    ++ slotScals o.c f.c f.cs

/-- The vector registers an instruction writes (R177, R197). -/
def vecsWritten (w : Nat) (f : Fields) : List Nat :=
  (if dIsDest f.maj f.mn then slotVecs (opnds w f).d f.d f.cd else []) ++ implicitRegs f.maj f.mn

/-- The scalar registers an instruction writes (R177). -/
def scalsWritten (w : Nat) (f : Fields) : List Nat :=
  if dIsDest f.maj f.mn then slotScals (opnds w f).d f.d f.cd else []

/-- The predicates an instruction's fields name as written (R177): field D, and C of MATCH. -/
def predsWritten (w : Nat) (f : Fields) : List Nat :=
  let d := match (opnds w f).d with | .pred => [f.d] | _ => []
  let c := if f.maj == 0x14 && f.mn == 2 then [f.c] else []
  (d ++ c).filter (· != 15)

end Sys2Proof
end

