-- ==== Sys2Proof/Turn.lean ====
section
/-! DEFINITION. What can happen next on the module: a step of the table of operations, a partition's issue, the passing of one
core cycle, and what the parties outside the modelled programs do (firmware, service teams, the page walker, the panel). -/

namespace Sys2Proof

/-- One turn of the machine (log entry 1). -/
inductive Turn where
  /-- An event of the table, or a bundle's instruction, performed on a subject. -/
  | event (i : Instr) (on : Subject)
  /-- Partition `part` of `core` issues one bundle; `ready` are the numbers of its bundles whose operands and pipe are
  available (R152). -/
  | issue (core part : Nat) (ready : List Nat)
  /-- One core cycle passes: CLK advances and every timer that comes due fires (R13, R15, R154, R169, R170, R182, R351). -/
  | clock
  /-- A core caches the translation of one device-virtual page (R232, R236). -/
  | cachePage (core ctx page : Nat)
  /-- A core caches a segment descriptor (R232). -/
  | cacheDesc (core ctx seg : Nat)
  /-- A thread's oldest relaxed scratchpad store to a member of its gang is performed (R265). -/
  | spadStore (tid team : Nat)
  /-- A later relaxed scratchpad load of a thread is performed ahead of its issue (R265). -/
  | spadAhead (tid : Nat) (sa : Word) (size : Nat)
  /-- A domain fills a snapshot line from home of its own accord (R260). -/
  | fillLine (dom line : Nat)
  /-- Firmware, a kernel-mode runtime team or a loader writes bytes of HBM at their home (R229, R235, R242, R244). -/
  | homeWrite (addr : Nat) (data : List Byte)
  /-- Host software writes host memory (R257). -/
  | hostWrite (addr : Nat) (data : List Byte)
  /-- A service team answers the oldest batch of a die: STATUS, DETAIL and the results it writes (R364, R371). -/
  | answer (die : Nat) (status : BitVec 8) (detail : BitVec 16) (results : List Byte)
  /-- A lease extension granted to a launch by the runtime (R240). -/
  | lease (launch : Nat) (seg off len : Nat) (rights : BitVec 2)
  /-- An error arises in stored data (R379, R380): a 64-byte line of HBM, correctable or not. -/
  | upset (line : Nat) (correctable : Bool)
  /-- A thread's gang meets an uncorrectable error in a core SRAM as it reads the word: its source, kind and size (R380). -/
  | sramUpset (tid : Nat) (source : BitVec 4) (kind : BitVec 2) (size : BitVec 3)
  /-- A corrected error in a core SRAM or a die cache of a die (R379). -/
  | sramCorrected (die : Nat)
  /-- A soft error in a register of a shadow group (R385): a vector register of a thread, or from 256 on a scalar, and the bits that change. -/
  | softError (tid reg : Nat) (bits : Word)
  /-- The shadow of a group issues the next instruction of its leader's stream (R383). -/
  | shadowStep (gid : Nat)
  /-- A die cache makes a mirror of a sealed line (R267, R380). -/
  | mirror (die line : Nat)
  /-- Firmware sets REBAL (R334). -/
  | setRebal (n : Nat)
  /-- Firmware copies the capability table into segment 1 of a context (R417). -/
  | copyTable (ctx : Nat)
  /-- The module has cooled: it issues again at its full clock (R419). -/
  | coolDown
  /-- The host performs the oldest posted write in flight (R411). -/
  | hostPerform
  /-- The host performs a read or an atomic in flight, by its number (R411, R412). -/
  | hostDo (access : Nat)
  /-- Firmware pushes a command to a queue of a context for a kernel-mode launch, pinned to the service core of a die or not (R362). -/
  | firmwarePush (ctx handle : Nat) (pin : Option Nat) (words : List Word)
  deriving DecidableEq, Repr, Inhabited

end Sys2Proof
end

