-- ==== Sys2Proof/Config.lean ====
section
/-! DEFINITION. What one part fixes (00 R1, R2) and the values the manual leaves free. An opaque constant here has no body: nothing can be proved about its value, so a claim holds whatever it is. -/

namespace Sys2Proof

/-- What the translator makes of one function (R333): the number it would give the new CODE segment, where its pages lie, the linkage
fields and the read right of its descriptor, and the code. -/
structure Translation where
  seg : Nat
  base : BitVec 32
  ltbf : Word
  impn : Word
  readable : Bool
  code : List Byte
  deriving DecidableEq, Repr, Inhabited

end Sys2Proof

namespace Sys2Proof.Config

/-- Core cycles in 20 microseconds at the rated 700 MHz (R351: the limit of a remote access). -/
def remoteLimit : Nat := 14000
/-- Core cycles in 16 microseconds at the rated clock (R357, R367, R368). -/
def parkLimit : Nat := 11200
/-- Core cycles in one microsecond at the rated clock (R182: CBRTO counts microseconds). -/
def cyclesPerMicro : Nat := 700
/-- Core cycles in 2 microseconds at the rated clock (R396: an ACK that stops advancing). -/
def replayLimit : Nat := 1400
/-- Capacities of one core (R155): group slots, 8-register granules of 32 bytes in the 1,024 KiB backing file, scratchpad
bytes, tiles, accumulator tiles, bytes of the ray file. -/
def slotCap : Nat := 192
def regByteCap : Nat := 1048576
def spadCap : Nat := 327680
def tileCap : Nat := 64
def accCap : Nat := 32
def rayByteCap : Nat := 131072
/-- The launch pool of a context (R328). -/
def poolCap : Nat := 4096
/-- Commands with NODE = 0 a queue holds undispatched (R308). -/
def queueCap : Nat := 32
/-- Entries of a die's umbra table (R318). -/
def umbraCap : Nat := 256
/-- Entries of a die's denial cache (R413). -/
def denialCap : Nat := 16
/-- Seal entries of a context (R267). -/
def sealCap : Nat := 64
/-- Afterglow regions of a module (R387). -/
def glowCap : Nat := 64

/-- DESIGN CHOICE (log entry 5): whether a die's service queue is full. The manual gives no capacity (R371 reason 3), so it is
a free value of the die and of how many batches it holds; a queue that holds none is not full. -/
opaque serviceFull : Nat → Nat → Bool

/-- DESIGN CHOICE (log entry 89): does a service of a die offer a function, other than those the manual describes (R371)? -/
opaque offers : Nat → Nat → Bool

/-- DESIGN CHOICE (log entry 1): what happens next where nothing is due: one turn for each value of State.turn. The manual
gives no rule for which agent moves next where no chain of 24 R421 orders them, and what the outside world does is free. -/
opaque nextTurn : Nat → Turn

/-- DESIGN CHOICE (log entry 9): the byte of a segment of another module at the moment an engine reads it, for a module, a
segment, an offset and a turn. What the other module holds is not part of this module's state. -/
opaque peerByte : Nat → Nat → Nat → Nat → Byte

/-- DESIGN CHOICE (log entry 10): which acting thread governs a scalar result that depends on a thread (SEL's predicate, a
dynamic rounding), by turn. The manual names none. -/
opaque pick : Nat → Nat

/-- DESIGN CHOICE (log entry 6): the partition, as 4 × core + partition, whose count of issue slots BUSE0 and BSTAT read: they are counted
per partition, and the manual gives one register (R368, R369); by turn. -/
opaque slotPart : Nat → Nat

/-- DESIGN CHOICE (log entry 7): what the translator makes of a function of a container (R333), by container, function and turn: the new
CODE segment with its native code, or the DETAIL of its failure. The container's format is not given (R248). -/
opaque translated : Nat → Nat → Nat → Except Byte Translation

/-- DESIGN CHOICE (log entry 11): the stride S of a lit list, in units of 64 bytes, that a LAUNCH with LIT goes by (R323, R330), by
header and command: neither the command nor the list holds it. -/
opaque litStride : Nat → Nat → Nat

/-- DESIGN CHOICE (log entry 13): whether the runtime's residency service refuses a page of a context that is absent (R316), by turn,
context and page. -/
opaque refusesPage : Nat → Nat → Nat → Bool

/-- DESIGN CHOICE (log entry 14): the payload of a flit sent, by turn and tag (R394; its layout is not given), and the port that
carries traffic to a module from a pair (R397: a fixed function the manual does not give). -/
opaque flitPayload : Nat → Nat → List Byte
opaque portFor : Nat → Nat → Nat

/-- DESIGN CHOICE (log entry 15): a byte of a save area whose layout R360 and R361 leave open, by group, offset and turn. -/
opaque savedByte : Nat → Nat → Nat → Byte

/-- DESIGN CHOICE (log entry 16): has the host performed a posted write that was in flight when the link went down (R411), by turn and
place? -/
opaque hostDid : Nat → Nat → Bool

/-- DESIGN CHOICE (log entry 17): the code with which a reclaim of a page under a lease ends a team (R241 gives CONTEXT_RESET under a
context reset and none otherwise), by turn. -/
opaque reclaimCode : Nat → Option Byte

/-- DESIGN CHOICE (log entry 128): the bytes of the value of a capability record, by type and by the numbers it states (R417 gives their
names and no layout), and the signature of a table. -/
opaque capValue : Nat → List Nat → List Byte
opaque signature : List Byte → List Byte

/-- DESIGN CHOICE (log entry 129): the SHA3-512 digest of some bytes (R388 names the function of a standard outside the manual), and
whether the manifest is written whole before the hold-up bank is spent, by turn. -/
opaque sha3 : List Byte → List Byte
opaque manifestWhole : Nat → Bool

/-- DESIGN CHOICE (log entry 132): is an error of a line found in the die cache and not in HBM (R380), by turn and line? -/
opaque dieCache : Nat → Nat → Bool

/-- DESIGN CHOICE (log entry 133): does a fetch, a table walk or a read of a descriptor read a line at its home, which no cache between
serves (R232, R386), by turn and line? -/
opaque readsHome : Nat → Nat → Bool

/-- DESIGN CHOICE (log entry 140): what a consumer pass reads of a compaction buffer in the scratchpad of a gang member whose team has ended
(R144, R195), by turn and byte. -/
opaque goneByte : Nat → Nat → Byte

/-- DESIGN CHOICE (log entry 18): what firmware reads of temperatures and rail currents (R420), by turn. -/
opaque sensors : Nat → Nat

/-- DESIGN CHOICE (log entry 19): the order in which parked teams give up storage in place to an incoming team (R356), by turn and
team. -/
opaque victimRank : Nat → Nat → Nat

end Sys2Proof.Config
end

