-- ==== Sys2Proof/Machine/Tab.lean ====
section
/-! DEFINITION. Numbered tables: a list of (number, entry) pairs, the plain data that the machine's state is made of. A table
in canonical form is sorted by number; a table with a default entry lists nothing equal to it. -/

namespace Sys2Proof

/-- A table of numbered entries. -/
abbrev Tab (α : Type) := List (Nat × α)

/-- The entry of a number, if the table lists one. -/
def Tab.get? {α : Type} : Tab α → Nat → Option α
  | [], _ => none
  | (j, v) :: t, k => if k = j then some v else Tab.get? t k

/-- The entry of a number, `d` where the table lists none. -/
def Tab.getD {α : Type} (t : Tab α) (k : Nat) (d : α) : α := (Tab.get? t k).getD d

/-- The table with the entry of number `k` made `v`. -/
def Tab.put {α : Type} : Tab α → Nat → α → Tab α
  | [], k, v => [(k, v)]
  | (j, w) :: t, k, v =>
    if k < j then (k, v) :: (j, w) :: t else if k = j then (k, v) :: t else (j, w) :: Tab.put t k v

/-- The table without an entry of number `k`. -/
def Tab.erase {α : Type} (t : Tab α) (k : Nat) : Tab α := t.filter (fun e => e.1 != k)

/-- The table with the entry of `k` made `v`, where an entry equal to the default `d` is not listed. -/
def Tab.putD {α : Type} [DecidableEq α] (t : Tab α) (k : Nat) (v d : α) : Tab α :=
  if v = d then Tab.erase t k else Tab.put t k v

/-- Every entry changed by `f`, which sees its number. -/
def Tab.mapKV {α : Type} (t : Tab α) (f : Nat → α → α) : Tab α := t.map (fun e => (e.1, f e.1 e.2))

/-- The entry of number `k` changed by `f`; a table without that number is unchanged. -/
def Tab.modify {α : Type} (t : Tab α) (k : Nat) (f : α → α) : Tab α :=
  Tab.mapKV t (fun j v => if j = k then f v else v)

/-- The numbers a table lists. -/
def Tab.keys {α : Type} (t : Tab α) : List Nat := t.map (·.1)

/-- Are the numbers strictly rising and is no entry equal to the default? -/
def Tab.wf {α : Type} [DecidableEq α] (d : α) : Tab α → Bool
  | [] => true
  | [(_, v)] => decide (v ≠ d)
  | (j, v) :: (k, w) :: t => decide (j < k) && decide (v ≠ d) && Tab.wf d ((k, w) :: t)

/-- Several bytes written to a table whose unlisted bytes are 0, the first at `a`. -/
def Tab.putBytes (t : Tab Byte) (a : Nat) : List Byte → Tab Byte
  | [] => t
  | b :: bs => Tab.putBytes (Tab.putD t a b 0) (a + 1) bs

/-- The entries of `n` numbers from `a` on made `v 0`, `v 1`, …, an entry equal to the default not listed. -/
def Tab.putRange {α : Type} [DecidableEq α] (t : Tab α) (a n : Nat) (v : Nat → α) (d : α) : Tab α :=
  t.filter (fun e => decide (e.1 < a))
    ++ (List.range n).filterMap (fun k => if v k = d then none else some (a + k, v k))
    ++ t.filter (fun e => decide (a + n ≤ e.1))

/-- The entries of `n` numbers from `a` on, in order. -/
def Tab.getRange {α : Type} (t : Tab α) (a n : Nat) (d : α) : List α :=
  let mine := t.filter (fun e => decide (a ≤ e.1) && decide (e.1 < a + n))
  (List.range n).map (fun k => Tab.getD mine (a + k) d)

/-- `n` bytes from `a` of a table whose unlisted bytes are 0. -/
def Tab.bytes (t : Tab Byte) (a n : Nat) : List Byte := (List.range n).map (fun k => Tab.getD t (a + k) 0)

/-- The number whose little-endian bytes are given (R5). -/
def leNat : List Byte → Nat
  | [] => 0
  | b :: bs => b.toNat + 256 * leNat bs

/-- The `n` little-endian bytes of a number (R5). -/
def leBytes : Nat → Nat → List Byte
  | 0, _ => []
  | n + 1, x => BitVec.ofNat 8 x :: leBytes n (x / 256)

end Sys2Proof
end

