-- ==== Sys2Proof/Machine/State.lean ====
section
/-! DEFINITION. The state of the whole module as plain data, its faults and refusals, and the machine right after reset. -/

namespace Sys2Proof.Machine

/-- Why the model stops with a fault. Whatever the manual calls a fault is an exception that a thread takes, the end of a team, a wait or
a completion status (20 R346 to R350), and each of them is a next state. -/
inductive Fault where
  /-- Raised by `step` alone, in a state that no run from reset reaches: a turn is due in a module without a supply or without verified
  firmware, where no core runs (R388, R418). Safe: nothing is claimed of what would follow. -/
  | powerless
  deriving DecidableEq, Repr

/-- Why the model refuses an instruction. -/
inductive Refusal where
  /-- Raised by an arm of `exec` whose instruction has no meaning yet; no arm is left so. Safe: nothing is claimed of it. -/
  | notModelled (mnemonic : String)
  deriving DecidableEq, Repr

/-- A meeting value: code pointer and call depth (R151). -/
structure Meeting where
  at_ : Ptr
  depth : BitVec 16
  deriving DecidableEq, Repr

/-- A crossing record: call depth and code segment (R252). -/
structure Crossing where
  depth : BitVec 16
  seg : Nat
  deriving DecidableEq, Repr

/-- What a thread waits for (R348, R361 and the waits of WAITC, PARK, the generator and the collective branch; `held` is a
fault held while its group speculates, R179; `reply` a thread that a split left behind until its reply comes, R400). `dest`
16 of a barrier wait is BAR's, which writes no predicate. -/
inductive Wait where
  | none
  | meeting
  | barrier (bar phase dest : Nat) (all : Bool)
  | nap (until_ : Nat)
  | bkoff (until_ : Nat)
  | svc
  | gen
  | gend
  | gnext
  | idle
  | waitc (limits : Word)
  | park (resume : Ptr)
  | sync
  | held
  | acquire (access : Nat)
  | reply
  deriving DecidableEq, Repr

/-- A trap slot (R347, R348): `ended` and `vote` record a wait that ended while the slot was active, `fault` a fault that ended it, its
code and FAUX, raised at the return. The wait of a sleep holds what was left of its interval; `self` is where the thread stood. -/
structure TrapSlot where
  resume : Ptr
  depth : BitVec 16
  crossings : Nat
  rpc : Word
  wait : Wait
  after : Ptr
  inRep : Bool
  ended : Bool
  vote : Bool
  order : Nat
  self : Ptr
  fault : Option (Byte × Word)
  deriving DecidableEq, Repr

/-- Is a thread running, stopped by a fault of its team, or exited (R24, R108, R145)? -/
inductive Life where
  | running | stopped | exited
  deriving DecidableEq, Repr

/-- What a register-targeted access writes (R131, R225, R271): vector registers from `r`, scalar registers, a ray's lane, or
nothing, of an HST for its whole group. `size` is the size code, `sx` the sign extension of R78. -/
inductive Dest where
  | vec (r size : Nat) (sx : Bool)
  | scal (r size : Nat) (sx : Bool)
  | ray (r : Nat)
  | nothing
  | nobody
  deriving DecidableEq, Repr

/-- A deferred fault that awaits delivery (R351, R398, R411): what raised it, and at which points it is taken; `now` for a fault of
an acquiring ATOM, which comes before the thread's next instruction (R271). -/
structure Deferred where
  code : Byte
  pc : Ptr
  addr : DWord
  aux : Word
  dest : Dest
  store : Bool
  now : Bool
  deriving DecidableEq, Repr

/-- Scratchpad bytes that a thread's later relaxed load has already read (R265): a team's bytes from an offset on. -/
structure SpadRead where
  tid : Nat
  team : Nat
  off : Nat
  bytes : List Byte
  deriving DecidableEq, Repr

/-- A REP pair as fetched, in whole before its first guard is read (R111): the words of the REP and of its target. -/
structure Pair where
  rep : List Word
  target : List Word
  deriving DecidableEq, Repr

/-- One thread (R8 to R27, R151, R252, R347); `pair` while a REP pair is under way, none once RTT has
returned the thread to it (R111); `defPark` while the default handler has parked it (R358). -/
structure Thread where
  regs : Tab Word
  preds : BitVec 15
  pc : Ptr
  depth : BitVec 16
  meet : Option Meeting
  meets : List Meeting
  released : Bool
  cross : List Crossing
  fpsr : Word
  fpcr : Word
  stklim : Word
  rpc : Word
  ylane : Word
  fcode : Word
  fpc : Word
  faddrLo : Word
  faddrHi : Word
  fmask : Word
  faux : Word
  clkLatch : Option Word
  slotS : Option TrapSlot
  slotF : Option TrapSlot
  slotP : Option TrapSlot
  wait : Wait
  after : Ptr
  inRep : Bool
  pair : Option Pair
  life : Life
  defPark : Bool
  psel : Word
  deferred : List Deferred
  idleTicks : Nat
  issued : Bool
  deriving DecidableEq, Repr

/-- The state a thread starts in, but for its entry point and slice length (R13, R20, R23). -/
def Thread.start (entry : Ptr) (slice : Nat) : Thread where
  regs := Tab.putD (Tab.putD [] 30 0x3000 0) 31 (BitVec.ofNat 32 slice) 0
  preds := 0
  pc := entry
  depth := 0
  meet := none
  meets := []
  released := false
  cross := []
  fpsr := 0
  fpcr := 0
  stklim := 0
  rpc := 0
  ylane := 0
  fcode := 0
  fpc := 0
  faddrLo := 0
  faddrHi := 0
  fmask := 0
  faux := 0
  clkLatch := none
  slotS := none
  slotF := none
  slotP := none
  wait := .none
  after := 0
  inRep := false
  pair := none
  life := .running
  defPark := false
  psel := 0
  deferred := []
  idleTicks := 0
  issued := false

/-- A fault as raised, before it is recorded (R24, R25). -/
structure Raised where
  tid : Nat
  code : Byte
  addr : DWord
  aux : Word
  deriving DecidableEq, Repr

/-- One store on a group's store path (R259): enabled bytes by numbered home address, none for a store with no bytes, and its issue; 0 for
an HST, which is the whole group's (R225). -/
structure PathStore where
  tid : Nat
  bytes : List Host.Cell
  tag : Nat
  deriving DecidableEq, Repr

/-- One relaxed scratchpad store not yet performed (R265): the member team, its bytes, and the issue it belongs to, by the turn counter
(R133); 0 for what goes to a compaction buffer, which is the whole group's (R193). -/
structure SpadStore where
  tid : Nat
  team : Nat
  bytes : List Host.Cell
  tag : Nat
  deriving DecidableEq, Repr

/-- One thread's store as it is issued, and as a speculating group holds it (R178): global bytes by home address, or scratchpad bytes of
a team, the scope of its release if it has one, its issue by the turn counter, its address and its instruction's, its data and byte mask;
`matched` unless it still has to be compared with a shadow's (R385); `shared` once a branch has resolved over it, when every thread of its
group may have read it (R178, R264). -/
structure HeldStore where
  tid : Nat
  spad : Option Nat
  bytes : List Host.Cell
  rel : Option Nat
  tag : Nat
  addr : DWord
  pc : Ptr
  data : List Byte
  mask : Nat
  matched : Bool
  shared : Bool
  deriving DecidableEq, Repr

/-- A fault held while a group speculates (R179), with the record it would have had at issue and where the thread resumes. -/
structure HeldFault where
  r : Raised
  pc : Ptr
  resume : Ptr
  mask : Word
  deriving DecidableEq, Repr

/-- The speculation state of a group (R176 to R181): instructions and store instructions issued, and the registers R177 counts. -/
structure Spec where
  key : Nat
  dom : Nat
  participants : List Nat
  target : Ptr
  next : Ptr
  cbr : Ptr
  taken : Bool
  issues : Nat
  held : Nat
  regs : List Nat
  savedThreads : Tab Thread
  savedScalars : Tab Word
  stores : List HeldStore
  faults : List HeldFault
  deriving DecidableEq, Repr

/-- A declaration of a collective domain (R172): G, T, M and the level. -/
structure Decl where
  g : Nat
  t : Nat
  m : Nat
  level : Nat
  deriving DecidableEq, Repr

/-- A group's state in a collective domain (R173, R188, R189). -/
structure DomainUse where
  decl : Option Decl
  count : Nat
  inFlight : Bool
  out : Bool
  deriving DecidableEq, Repr

/-- The use of a domain nothing has declared. -/
def DomainUse.none : DomainUse := ⟨Option.none, 0, false, false⟩

/-- A thread's producer or entry state in a generator region (R190), with the wait or the REP pair in which a consumer pass found it
(R195: a producer is between instructions or iterations, or waits). -/
structure Saved where
  pc : Ptr
  depth : BitVec 16
  meet : Option Meeting
  meets : List Meeting
  preds : BitVec 15
  wait : Wait
  after : Ptr
  inRep : Bool
  pair : Option Pair
  rpc : Word
  deriving DecidableEq, Repr

/-- The generator state of a group inside a region (R190, R191). -/
structure Gen where
  buf : Word
  t : Nat
  e : Nat
  c : Nat
  f : Nat
  qb : Nat
  pb : Nat
  head : Nat
  cnt : Nat
  frc : Bool
  prd : List Nat
  tags : Tab Nat
  saved : Tab Saved
  entry : Tab Saved
  consumer : Bool
  n : Nat
  arrived : List Nat
  cons : Ptr
  done : Ptr
  deriving DecidableEq, Repr

/-- A queued matrix operation (R282, R283): its issue by the turn counter, the instruction, the scalars and vector lanes it read, and the
reservation records it was checked against (R295). -/
structure MatOp where
  turn : Nat
  f : Fields
  scal : List Word
  vec : Tab Word
  recs : List DWord
  deriving DecidableEq, Repr

/-- The working record of the bundle whose instruction is being performed: the threads, the address faults record (a REP's for
its target, R111), the instruction's own address, where the threads go on, and by how much a REP has advanced the vector fields. -/
structure Issue where
  core : Nat
  part : Nat
  team : Nat
  threads : List Nat
  pc : Ptr
  self : Ptr
  next : Ptr
  rep : Bool
  shift : Nat
  deriving DecidableEq, Repr

/-- No bundle. -/
def Issue.none : Issue := ⟨0, 0, 0, [], 0, 0, 0, false, 0⟩

/-- A shadow's copy of a thread's registers (R383). -/
structure Lane where
  regs : Tab Word
  preds : BitVec 15
  fpsr : Word
  fpcr : Word
  deriving DecidableEq, Repr

/-- The registers of a group that its shadow has a copy of (R383): vector registers, predicates, FPSR and FPCR by thread, scalars, matrix
flags, tiles with their records, accumulators and rays with their norm entries. -/
structure Twin where
  lanes : Tab Lane
  sregs : Tab Word
  mflags : BitVec 5
  tiles : Tab Byte
  tileRecs : Tab DWord
  accs : Tab Word
  rays : Tab Word
  norms : Tab Word
  deriving DecidableEq, Repr

/-- Values a thread's leader has obtained from outside its group's registers, for its shadow to take (R384), by register number: vectors,
scalars from 256, predicates from 512, ray words from 1024, norm entries from 4096, FPSR 8191. -/
structure Take where
  tid : Nat
  vals : List (Nat × Word)
  deriving DecidableEq, Repr

/-- An issue of the leader that its shadow has still to make (R383, R384): by the turn counter, its instruction, the fields that act, where it
issued, the group's threads as it found them but for their registers, the values obtained, and the scratchpad bytes that a queued
operation has read, by team. -/
structure Beat where
  turn : Nat
  instr : Instr
  act : Option Fields
  issue : Issue
  own : Tab Thread
  takes : List Take
  rows : List (Nat × Host.Cell)
  deriving DecidableEq, Repr

/-- The shadow of a group (R383 to R385): the leader's issues it has not made yet, oldest first, with the load-value queue; the last branch
or sync whose outcome it has to take; the compare buffer; the threads whose wait has still to end, with the registers it gives them; its own
registers. -/
structure Shadow where
  lag : List Beat
  branch : Option Nat
  buffer : List HeldStore
  owed : List (Nat × List Nat)
  twin : Twin
  deriving DecidableEq, Repr

/-- A shadow that has nothing left to issue or to match. -/
def Shadow.clear (sh : Shadow) : Shadow := { sh with lag := [], branch := none, buffer := [], owed := [] }

/-- One group (`preempt` holds a PREEMPT until its branch resolves, R184; `called` once it has made a service call, R371; R140, R11, R13,
R173, R190, R206, R274, R283, R340). `slice` is where its lanes' private slices begin in the private
segment (R19, R235). Norm entries are listed where they differ from 0x4000_0000. `ready` is the tick at which the group last became ready
outside the active set. -/
structure Group where
  core : Nat
  part : Nat
  sregs : Tab Word
  level : Nat
  thnd : Word
  thndSeg : Nat
  cbrto : Word
  barto : Word
  phs : Word
  reply : Ptr
  savep : Ptr
  slice : Nat
  seq : Byte
  called : Bool
  mflags : BitVec 5
  mqueue : List MatOp
  tiles : Tab Byte
  tileRecs : Tab DWord
  accs : Tab Word
  rays : Tab Word
  norms : Tab Word
  gen : Option Gen
  doms : Tab DomainUse
  spec : Option Spec
  path : List PathStore
  spadPath : List SpadStore
  triggered : Bool
  qr : Word
  copies : Nat
  active : Bool
  ready : Nat
  lastIssue : Nat
  parked : Bool
  preempt : Bool
  shadow : Option Shadow
  deriving DecidableEq, Repr

/-- One barrier of a team (R153, R154): `e` governs the phase, `pendingE` the next one; `arrived` are thread numbers, `votes`
the vote inputs of the phase, `nextDrop` how many exits count only from the next phase, `bari` one more than the cycle of the last BARI
of an odd core (R167). -/
structure Barrier where
  phase : Nat
  e : Nat
  pendingE : Option Nat
  nextDrop : Nat
  arrived : List Nat
  votes : Tab Bool
  start : Nat
  limit : Nat
  bari : Nat
  deriving DecidableEq, Repr

/-- Where a team is (R155, R354). -/
inductive Place where
  | pending | resident | parked | ended
  deriving DecidableEq, Repr

/-- One team (R140 to R145, R153, R357, R360). `lazyOut` marks that its lazy regions were written to the save area; `ending` holds the end of
a team that a running COPY or FILL still names (R316): its code, and whether its launch counts it. -/
structure Team where
  launch : Nat
  index : Nat
  die : Nat
  cores : List Nat
  age : Nat
  place : Place
  gang : List Nat
  member : Nat
  tsize : Nat
  kernel : Bool
  spad : Tab Byte
  bars : Tab Barrier
  endCode : Option Byte
  parkedAt : Nat
  returnedAt : Nat
  preempting : Bool
  lazyOut : Bool
  ending : Option (Option Byte × Bool)
  tileId : Option Word
  params : List Word
  deriving DecidableEq, Repr

/-- A lease record (R239). -/
structure Lease where
  seg : Nat
  off : Nat
  len : Nat
  rights : BitVec 2
  deriving DecidableEq, Repr

/-- One launch (R140, R325, R328, R331): `signalled` are the successor fields of its command decremented at the trigger, `pin` the die whose
service core its teams are pinned to (R362). -/
structure Launch where
  ctx : Nat
  id : Word
  depth : Nat
  cmd : Nat
  width : Nat
  tsize : Nat
  regs : Nat
  tiles : Nat
  accs : Nat
  rays : Nat
  spad : Nat
  gang : Nat
  prio : Nat
  restart : Bool
  shadow : Bool
  entry : Ptr
  leases : List Lease
  teams : Nat
  ended : Nat
  handed : Nat
  fault : Option (Nat × Byte)
  kills : Tab Nat
  triggered : Bool
  signalled : List Nat
  kernel : Bool
  pin : Option Nat
  deriving DecidableEq, Repr

/-- Where a command stands (R305, R308, R313): `moved` once its work is done, `recording` while its record in another module is on its way
(R310, R410), `written` unless that module has refused it. -/
inductive CmdState where
  | waiting
  | ready (order : Nat)
  | running
  | moved (status detail : Byte)
  | recording (status detail : Byte) (written : Bool)
  deriving DecidableEq, Repr

/-- How far the transfer of a copy-class command has come (R315 to R317): whether its checks are done, the index list of a GATHER or the
bytes saved for another command (R315, R324), the 64-byte blocks of the destination that are written, by number, of a block partly written
the rows and offsets that are, the flags of REDADD and the first code met. -/
structure Progress where
  begun : Bool
  index : List Nat
  blocks : List Nat
  parts : List (Nat × Nat × Nat)
  flags : BitVec 5
  met : Option Byte
  deriving DecidableEq, Repr

/-- A transfer that has not begun. -/
def Progress.none : Progress := ⟨false, [], [], [], 0, Option.none⟩

/-- One accepted command (R306): its sixteen words, its queue, who pushed it, the queue-table entry that governs it (R309), and where it
stands; `since` is the number of the next remote access at its dispatch (R320). -/
structure Command where
  words : List Word
  ctx : Nat
  queue : Nat
  pusher : Option Nat
  depth : Nat
  die : Nat
  kernel : Bool
  pin : Option Nat
  activity : Nat
  resets : Nat
  entry : DWord
  since : Nat
  run : Progress
  state : CmdState
  deriving DecidableEq, Repr

/-- One umbra entry (R318, R319). -/
structure Umbra where
  cmd : Nat
  ctx : Nat
  seg : Nat
  off : Nat
  len : Nat
  write : Bool
  armed : Bool
  deriving DecidableEq, Repr

/-- A page of host physical space denied to AtomicOps (R413), most recently used first; `via` are the segments and device-virtual pages
through which ATOMs met it. -/
structure Denial where
  ctx : Nat
  page : Nat
  via : List (Nat × Nat)
  deriving DecidableEq, Repr

/-- A service batch handed to a die (R364, R371); `entry` is the linkage entry an UNLINK has read (R389). -/
structure Batch where
  ctx : Nat
  gid : Nat
  block : Ptr
  fn : Nat
  n : Nat
  sleeps : Bool
  lanes : Nat
  args : List Word
  resets : Nat
  entry : Option DWord
  deriving DecidableEq, Repr

/-- One die (R155, R318, R371, R379, R413). -/
structure Die where
  pending : List Nat
  umbra : List Umbra
  denial : List Denial
  queue : List Batch
  corrected : Word
  uncorrected : Word
  deriving DecidableEq, Repr

/-- A die with nothing in it. -/
def Die.empty : Die := ⟨[], [], [], [], 0, 0⟩

/-- A node record of the dependence graph (R313); `cancel` when a predecessor's HALT cancels its command (R312). -/
structure Node where
  count : Int
  cmd : Option Nat
  cancel : Bool
  deriving DecidableEq, Repr

/-- A node record that is free. -/
def Node.free : Node := ⟨0, none, false⟩

/-- A seal entry (R267). -/
structure SealEntry where
  seg : Nat
  off : Nat
  len : Nat
  deriving DecidableEq, Repr

/-- An instance of a collective domain (R173, R174, R182, R401): contributions by group with their kinds, values and
declarations, and the timer. Kind 0 any, 1 all, 2 sync. -/
structure Contribution where
  gid : Nat
  kind : Nat
  value : Bool
  decl : Decl
  deriving DecidableEq, Repr

/-- One open instance of a collective domain, by the declaration of its first contribution; `countAt` is what was recorded at its expiry
(R183). -/
structure Instance_ where
  ctx : Nat
  dom : Nat
  set : Nat
  number : Nat
  given : List Contribution
  countAt : Nat
  start : Option Nat
  limit : Nat
  reported : Bool
  expired : Bool
  decl : Decl
  deriving DecidableEq, Repr

/-- One context (R362): its tables, keys (`pkr` the home copy, `pkr0` its value at creation, R237), queues, node records, seals, pool use
and reset count. `holder` is the launch that holds a collective domain (R172); `gone` lists, for a set of instances, how many instances
each lost member had entered (R174); `resolved` lists the resolved instances of a set (R183). -/
structure Context where
  segBase : Nat
  stl : Nat
  tableBase : Nat
  pkr : DWord
  pkr0 : DWord
  queues : Tab DWord
  nodes : Tab Node
  seals : List SealEntry
  pool : Nat
  holder : Tab Nat
  gone : List (Nat × Nat)
  resolved : List (Nat × Nat)
  resets : Nat
  stopped : Bool
  deriving DecidableEq, Repr

/-- A segment descriptor as a core caches it: its four words (R230). -/
structure DescWords where
  w0 : DWord
  w1 : DWord
  w2 : DWord
  w3 : DWord
  deriving DecidableEq, Repr

/-- One phase domain (R256, R258): the overlay's bytes by home address, and the snapshot's lines of 64 bytes. -/
structure PhaseDom where
  overlay : Tab Byte
  lines : Tab (List Byte)
  deriving DecidableEq, Repr

/-- A domain that holds nothing. -/
def PhaseDom.empty : PhaseDom := ⟨[], []⟩

/-- Where a byte of another home lives (R257): host memory, or a segment of another module. -/
inductive Far where
  | host (hpa : Nat)
  | panel (module seg off : Nat)
  deriving DecidableEq, Repr

/-- A remote access in flight (R351, R398, R411, R412), of `len` bytes, or a write of the command `cmd` where that is not 0 (R310); a read
of size code 5 is the zero-length read of a sys release (R411). `next` is the host page that an access which crosses its page goes on in
(R225), `turn` the issue it belongs to (R271), `sent` that its request left the module, `done` the old bytes once the host has performed
it. -/
structure Access where
  tid : Nat
  cmd : Nat
  ctx : Nat
  resets : Nat
  pc : Ptr
  addr : Ptr
  far : Far
  kind : Kind
  size : Nat
  len : Nat
  next : Nat
  dest : Dest
  acquire : Option Nat
  spl : Bool
  issuedAt : Nat
  turn : Nat
  op : AtomOp
  signed : Bool
  compare : DWord
  operand : DWord
  data : List Byte
  mask : Nat
  sent : Bool
  done : Option (List Byte)
  deriving DecidableEq, Repr

/-- One partition's bundles (R148, R150, R152): members in formation order, the split bundles that issue next, the bundle that issued
last, and one more than the cycle of that issue. -/
structure Partition where
  bundles : List (List Nat)
  forced : List (List Nat)
  last : List Nat
  lastAt : Nat
  deriving DecidableEq, Repr

/-- A partition before its first tick. -/
def Partition.empty : Partition := ⟨[], [], [], 0⟩

/-- One Joeth port (R394 to R397): the SEQ of the next flit sent and the one expected, the ACK received and when it last advanced,
free slots and slots owed by channel, the flits kept for a replay, those that wait for a slot, and replays in a row. -/
structure Port where
  up : Bool
  trained : Bool
  seq : BitVec 12
  expect : BitVec 12
  acked : BitVec 12
  ackAt : Nat
  credits : Tab Nat
  owed : Tab Nat
  kept : List FlitHead
  waiting : List FlitHead
  replays : Nat
  deriving DecidableEq, Repr

/-- A port as it stands before training. -/
def Port.reset : Port := ⟨true, false, 0, 0, 0, 0, [], [], [], [], 0⟩

/-- A message the module has sent to a party outside it (R394, R410, R411, R405, R419). -/
inductive Message where
  | msix (function vector : Nat)
  | panelRequest (module access : Nat)
  | panelResponse (port tag : Nat) (reply : RemoteReply)
  | panelCollective (ctx dom number kind : Nat) (value : Bool) (decl : Decl)
  | panelDissolve (ctx dom number : Nat)
  | hostRead (access : Nat)
  | hostWrite (hpa : Nat) (data : List Byte) (mask : Nat)
  | hostAtomic (access : Nat)
  | hostReadData (hpa : Nat) (data : List Byte) (poison : Bool)
  | management (value : Nat)
  | alert
  | flit (port : Nat) (head : FlitHead)
  | retrain (port : Nat)
  deriving DecidableEq, Repr

/-- A posted write sent to the host (R259, R411); `order` is its number among the remote accesses, `dest` is `nobody` for an HST, `done` that
the host has performed it, which the module does not see before a flush. -/
structure Posted where
  order : Nat
  tid : Nat
  gid : Nat
  pc : Ptr
  addr : Ptr
  far : Far
  size : Nat
  next : Nat
  data : List Byte
  mask : Nat
  dest : Dest
  done : Bool
  deriving DecidableEq, Repr

/-- A registered Afterglow region (R387). -/
structure Region where
  ctx : Nat
  seg : Nat
  off : Nat
  len : Nat
  deriving DecidableEq, Repr

/-- One region as a power-fail writes it to flash (R388): its bytes, the lines written with a poison flag, and the digest of the
manifest. -/
structure GlowRegion where
  region : Region
  bytes : List Byte
  poison : List Nat
  digest : List Byte
  deriving DecidableEq, Repr

/-- What a power-fail leaves in flash (R388): the regions, and whether the manifest was written whole. -/
structure GlowImage where
  regions : List GlowRegion
  complete : Bool
  deriving DecidableEq, Repr

/-- The module's supply and firmware (R388, R418, R419). -/
inductive Power where
  | off | recovery | on
  deriving DecidableEq, Repr

/-- The whole module. Keys: a group is 1024 × team + GIDX, a thread 64 × group + home lane, a partition 4 × core + partition, a cached
page 2^32 × (64 × core + context) + page, a cached descriptor 2^20 × (64 × core + context) + segment, a budget 4 × activity + unit, an
activity 65536 × class + index, the issue slots an activity has used in a partition 2048 × activity + partition, a mirror 4 × line + die.
-/
structure State where
  threads : Tab Thread
  groups : Tab Group
  teams : Tab Team
  launches : Tab Launch
  commands : Tab Command
  contexts : Tab Context
  svcthr : Tab Word
  ctxlim : Tab Word
  capTable : List Byte
  insts : Tab Instance_
  dies : Tab Die
  parts : Tab Partition
  pkrCopies : Tab DWord
  pages : Tab DWord
  descs : Tab DescWords
  domains : Tab PhaseDom
  hbm : Tab Byte
  poison : List Nat
  badLines : Tab Bool
  mirrors : Tab (List Byte)
  ahead : List SpadRead
  hostMem : Tab Byte
  accesses : Tab Access
  posted : List Posted
  cycle : Nat
  dev : BitVec 6
  flkLo : Word
  flkHi : Word
  flkCtl : Word
  budgets : Tab Word
  used : Tab Nat
  slotUse : Tab Nat
  rebal : Nat
  regions : List Region
  flash : Option GlowImage
  minimum : Nat
  ports : Tab Port
  hostUp : Bool
  slots : Tab Word
  rings : Tab Nat
  windowHost : Nat
  windowDevice : Nat
  windowSize : Nat
  stray : Nat
  strayArmed : Bool
  sealedWrites : Nat
  vector1 : Bool
  vector2 : Bool
  outbox : List Message
  halved : Bool
  stopped : Bool
  power : Power
  agenda : List Turn
  turn : Nat
  issue : Issue
  subject : Subject
  nextTeam : Nat
  nextLaunch : Nat
  nextCommand : Nat
  nextAccess : Nat
  nextInst : Nat
  nextReady : Nat
  deriving DecidableEq, Repr

/-- The unlisted value of a norm entry (R207). -/
def normDefault : Word := 0x40000000

/-- The machine right after a module reset (R369, R380, R386, R388, R394, R405, R407, R418). The module has its supply and no
verified firmware yet: no core runs until MODULE_POWER_UP. Values the manual does not give: log entry 2. -/
def State.reset : State where
  threads := []
  groups := []
  teams := []
  launches := []
  commands := []
  contexts := []
  svcthr := []
  ctxlim := []
  capTable := []
  insts := []
  dies := []
  parts := []
  pkrCopies := []
  pages := []
  descs := []
  domains := []
  hbm := []
  poison := []
  badLines := []
  mirrors := []
  ahead := []
  hostMem := []
  accesses := []
  posted := []
  cycle := 0
  dev := 0
  flkLo := 0
  flkHi := 0
  flkCtl := 0
  budgets := []
  used := []
  slotUse := []
  rebal := 64
  regions := []
  flash := none
  minimum := 0
  ports := []
  hostUp := false
  slots := []
  rings := []
  windowHost := 0
  windowDevice := 0
  windowSize := 0
  stray := 0
  strayArmed := true
  sealedWrites := 0
  vector1 := false
  vector2 := false
  outbox := []
  halved := false
  stopped := false
  power := .off
  agenda := []
  turn := 0
  issue := Issue.none
  subject := .nothing
  nextTeam := 1
  nextLaunch := 1
  nextCommand := 1
  nextAccess := 1
  nextInst := 1
  nextReady := 1

end Sys2Proof.Machine
end

