-- ==== Sys2Proof/Machine/Access.lean ====
section
/-! DEFINITION. Reading and changing the parts of the state: threads, groups, teams, launches, contexts, registers and
predicates (R9, R11, R12, R140, R143), each in one place. -/

namespace Sys2Proof.Machine

/-- The group of a thread, the home lane of a thread (R140). -/
def gidOf (tid : Nat) : Nat := tid / 64
def laneOf (tid : Nat) : Nat := tid % 64
/-- The team of a group, its GIDX (R140). -/
def teamOf (gid : Nat) : Nat := gid / 1024
def gidxOf (gid : Nat) : Nat := gid % 1024
/-- The thread at a home lane of a group. -/
def tidAt (gid lane : Nat) : Nat := gid * 64 + lane
/-- The group of a GIDX of a team. -/
def gidAt (team gidx : Nat) : Nat := team * 1024 + gidx

/-- What a number that names no group reads as. -/
def Group.blank : Group where
  core := 0
  part := 0
  sregs := []
  level := 0
  thnd := 0
  thndSeg := 0
  cbrto := 1000
  barto := 0x01000000
  phs := 0
  reply := 0
  savep := 0
  slice := 0
  seq := 0
  called := false
  mflags := 0
  mqueue := []
  tiles := []
  tileRecs := []
  accs := []
  rays := []
  norms := []
  gen := none
  doms := []
  spec := none
  path := []
  spadPath := []
  triggered := false
  qr := 0
  copies := 0
  active := false
  ready := 0
  lastIssue := 0
  parked := false
  preempt := false
  shadow := none

/-- What a number that names no team reads as. -/
def Team.blank : Team where
  launch := 0
  index := 0
  die := 0
  cores := []
  age := 0
  place := .ended
  gang := []
  member := 0
  tsize := 0
  kernel := false
  spad := []
  bars := []
  endCode := none
  parkedAt := 0
  returnedAt := 0
  preempting := false
  lazyOut := false
  ending := none
  tileId := none
  params := []

/-- What a number that names no launch reads as. -/
def Launch.blank : Launch where
  ctx := 0
  id := 0
  depth := 0
  cmd := 0
  width := 16
  tsize := 0
  regs := 255
  tiles := 0
  accs := 0
  rays := 0
  spad := 0
  gang := 1
  prio := 0
  restart := false
  shadow := false
  entry := 0
  leases := []
  teams := 0
  ended := 0
  handed := 0
  fault := none
  kills := []
  triggered := false
  signalled := []
  kernel := false
  pin := none

/-- What a number that names no context reads as. -/
def Context.blank : Context := ⟨0, 0, 0, 0, 0, [], [], [], 0, [], [], [], 0, false⟩

/-- A barrier at a team's start (R153). -/
def Barrier.fresh (tsize : Nat) : Barrier := ⟨0, tsize, none, 0, [], [], 0, 0, 0⟩

namespace Thread

/-- Vector register n; vz reads as zero (R9). -/
def reg (t : Thread) (n : Nat) : Word := if n = 255 then 0 else t.regs.getD n 0
/-- Vector register n written; a write to vz is discarded (R9). -/
def setReg (t : Thread) (n : Nat) (x : Word) : Thread := if n = 255 then t else { t with regs := t.regs.putD n x 0 }
/-- A vector pair (R12). -/
def reg64 (t : Thread) (n : Nat) : DWord := if n = 255 then 0 else ofWords (t.reg n) (t.reg (n + 1))
/-- A vector pair written (R12). -/
def setReg64 (t : Thread) (n : Nat) (x : DWord) : Thread :=
  if n = 255 then t else (t.setReg n (hiWord x)).setReg (n + 1) (loWord x)
/-- Predicate n; p15 reads true (R9). -/
def pred (t : Thread) (n : Nat) : Bool := if n < 15 then t.preds.getLsbD n else true
/-- Predicate n written; a write to p15 is discarded (R9). -/
def setPred (t : Thread) (n : Nat) (b : Bool) : Thread :=
  if n < 15 then { t with preds := BitVec.ofNat 15 ((t.preds.toNat / 2 ^ (n + 1) * 2 + b.toNat) * 2 ^ n + t.preds.toNat % 2 ^ n) }
  else t
/-- Is the guard of an instruction true (R75)? -/
def guard (t : Thread) (f : Fields) : Bool := t.pred f.g != f.n
/-- Is any trap slot active (R347)? -/
def inHandler (t : Thread) : Bool := t.slotS.isSome || t.slotF.isSome || t.slotP.isSome
/-- Is the thread eligible by its own state (R148)? -/
def ready (t : Thread) : Bool := decide (t.life = .running) && decide (t.wait = .none) && !t.defPark

/-- The instruction is done: the thread goes on at `next`; in a REP pair the iteration is done, and the pair goes on until no
iteration is left (R111). -/
def advance (t : Thread) (next : Ptr) : Thread :=
  if t.inRep then
    if t.rpc.toNat ≤ 1 then { t with rpc := 0, inRep := false, pair := none, pc := next } else { t with rpc := t.rpc - 1 }
  else { t with pc := next }

/-- A wait that ended: the instruction is done. -/
def finish (t : Thread) : Thread := { t.advance t.after with wait := .none }

end Thread

namespace Group

/-- Scalar register n; sz reads as zero (R9). -/
def sreg (g : Group) (n : Nat) : Word := if n = 127 then 0 else g.sregs.getD n 0
/-- Scalar register n written; a write to sz is discarded (R9). -/
def setSreg (g : Group) (n : Nat) (x : Word) : Group := if n = 127 then g else { g with sregs := g.sregs.putD n x 0 }
/-- A scalar pair (R12). -/
def sreg64 (g : Group) (n : Nat) : DWord := if n = 127 then 0 else ofWords (g.sreg n) (g.sreg (n + 1))
/-- Several scalars written in order. -/
def setSregs (g : Group) : List (Nat × Word) → Group
  | [] => g
  | (n, x) :: r => (g.setSreg n x).setSregs r
/-- The group's state in a collective domain. -/
def domain (g : Group) (d : Nat) : DomainUse := g.doms.getD d DomainUse.none
def setDomain (g : Group) (d : Nat) (u : DomainUse) : Group := { g with doms := g.doms.putD d u DomainUse.none }

end Group

namespace State

def thread (s : State) (tid : Nat) : Thread := s.threads.getD tid (Thread.start 0 0)
def group (s : State) (gid : Nat) : Group := s.groups.getD gid Group.blank
def team (s : State) (k : Nat) : Team := s.teams.getD k Team.blank
def launch (s : State) (k : Nat) : Launch := s.launches.getD k Launch.blank
def context (s : State) (c : Nat) : Context := s.contexts.getD c Context.blank
def die (s : State) (d : Nat) : Die := s.dies.getD d Die.empty
def domain (s : State) (d : Nat) : PhaseDom := s.domains.getD d PhaseDom.empty
def partition (s : State) (core part : Nat) : Partition := s.parts.getD (4 * core + part) Partition.empty

def launchOf (s : State) (gid : Nat) : Launch := s.launch (s.team (teamOf gid)).launch
def teamAt (s : State) (gid : Nat) : Team := s.team (teamOf gid)
def ctxOf (s : State) (gid : Nat) : Nat := (s.launchOf gid).ctx
def widthOf (s : State) (gid : Nat) : Nat := (s.launchOf gid).width
/-- The declared counts of a group's launch (R72, R325). -/
def countsOf (s : State) (gid : Nat) : Counts :=
  let l := s.launchOf gid
  ⟨l.regs, l.tiles, l.accs, l.rays⟩

def mapThreads (s : State) (f : Nat → Thread → Thread) : State := { s with threads := s.threads.mapKV f }
def modThread (s : State) (tid : Nat) (f : Thread → Thread) : State := { s with threads := s.threads.modify tid f }
def modGroup (s : State) (gid : Nat) (f : Group → Group) : State := { s with groups := s.groups.modify gid f }
def modTeam (s : State) (k : Nat) (f : Team → Team) : State := { s with teams := s.teams.modify k f }
def modLaunch (s : State) (k : Nat) (f : Launch → Launch) : State := { s with launches := s.launches.modify k f }
def modContext (s : State) (c : Nat) (f : Context → Context) : State := { s with contexts := s.contexts.modify c f }
def modDie (s : State) (d : Nat) (f : Die → Die) : State := { s with dies := s.dies.putD d (f (s.die d)) Die.empty }
def modDomain (s : State) (d : Nat) (f : PhaseDom → PhaseDom) : State :=
  { s with domains := s.domains.putD d (f (s.domain d)) PhaseDom.empty }
def setPartition (s : State) (core part : Nat) (p : Partition) : State :=
  { s with parts := s.parts.putD (4 * core + part) p Partition.empty }

/-- A change to a thread that belongs to an access or a matrix operation issued before its group's branch: the checkpoint takes it too
(R177). DEDUCED: log entry 90. -/
def modBoth (s : State) (tid : Nat) (f : Thread → Thread) : State :=
  (s.modThread tid f).modGroup (gidOf tid) (fun g => { g with
    spec := g.spec.map (fun sp => { sp with savedThreads := sp.savedThreads.modify tid f }) })

/-- Threads that become eligible between two ticks are in no bundle until the next (R148). -/
def unbundle (s : State) (ts : List Nat) : State :=
  { s with parts := s.parts.mapKV (fun _ p => { p with
      bundles := (p.bundles.map (fun b => b.filter (fun t => !ts.contains t))).filter (fun b => b != []) }) }

/-- The groups of a team, ascending GIDX. -/
def groupsOf (s : State) (team : Nat) : List Nat := s.groups.keys.filter (fun g => teamOf g == team)
/-- The home lanes of a group that hold a thread, exited or not, ascending. -/
def threadsOf (s : State) (gid : Nat) : List Nat := s.threads.keys.filter (fun t => gidOf t == gid)
/-- The threads of a group that have not exited (R151, R153). -/
def presentOf (s : State) (gid : Nat) : List Nat := (s.threadsOf gid).filter (fun t => decide ((s.thread t).life ≠ .exited))
def threadsOfTeam (s : State) (team : Nat) : List Nat := s.threads.keys.filter (fun t => teamOf (gidOf t) == team)
/-- The groups that have a thread in a list, in order. -/
def groupsIn (tids : List Nat) : List Nat := (tids.map gidOf).eraseDups
/-- TIDX of a thread (R140). -/
def tidx (s : State) (tid : Nat) : Nat := gidxOf (gidOf tid) * s.widthOf (gidOf tid) + laneOf tid

/-- The phase domain of a core: pair k, or a service core's own (R258). -/
def domOfCore (core : Nat) : Nat := if core < 384 then core / 2 else 192 + (core - 384)
def domOf (s : State) (gid : Nat) : Nat := domOfCore (s.group gid).core
/-- The die of a core (R2). -/
def dieOfCore (core : Nat) : Nat := if core < 384 then core / 96 else core - 384
/-- The groups that belong to a phase domain (R258). -/
def groupsOfDom (s : State) (d : Nat) : List Nat := s.groups.keys.filter (fun g => s.domOf g == d)

/-- The core's copy of a context's PKR (R238); a core that never refreshed it holds the value of context creation. -/
def pkrCopy (s : State) (core ctx : Nat) : DWord := s.pkrCopies.getD (64 * core + ctx) (s.context ctx).pkr0

/-- The activity in which a group's work is counted: its launch's queue, or the service teams of the die it is pinned to (R362, R368). -/
def activityOfGroup (s : State) (gid : Nat) : Nat :=
  let l := s.launchOf gid
  match l.pin with
  | some d => 4 * 65536 + d
  | none => match s.commands.get? l.cmd with | some c => c.activity | none => 0

/-- Use of a budget counted: unit 1 HBM, in 64-byte units, 2 fabric flits, 3 engine bytes, in 64-byte units (R368). -/
def countUse (s : State) (act unit_ n : Nat) : State :=
  if n = 0 then s else { s with used := s.used.put (4 * act + unit_) (s.used.getD (4 * act + unit_) 0 + n) }

/-- Has an activity spent a budget (R368)? A budget of 0 is unlimited. -/
def spent (s : State) (act unit_ : Nat) : Bool :=
  let b := (s.budgets.getD (4 * act + unit_) 0).toNat
  b != 0 && decide (b ≤ s.used.getD (4 * act + unit_) 0)

/-- The issue slots an activity has used in a partition, and whether its budget there is spent (R368). -/
def slotsUsed (s : State) (act core part : Nat) : Nat := s.slotUse.getD (2048 * act + 4 * core + part) 0
def slotsGone (s : State) (act core part : Nat) : Bool :=
  let b := (s.budgets.getD (4 * act) 0).toNat
  b != 0 && decide (b ≤ s.slotsUsed act core part)
def countSlot (s : State) (act core part : Nat) : State :=
  { s with slotUse := s.slotUse.put (2048 * act + 4 * core + part) (s.slotsUsed act core part + 1) }

/-- Scalar results written to each group of a list (R143). -/
def writeScalars (s : State) (gids : List Nat) (v : Nat → List (Nat × Word)) : State :=
  { s with groups := s.groups.mapKV (fun k g => if gids.contains k then g.setSregs (v k) else g) }

end State

end Sys2Proof.Machine
end

