-- ==== Sys2Proof/Machine/Flags.lean ====
section
/-! DEFINITION. The five floating-point flags (01 R13 FPSR, 02 R34): NX, UF, OF, DZ and NV, sticky in FPSR. -/

namespace Sys2Proof.Machine

/-- Flags in the layout of FPSR: [4] NX, [3] UF, [2] OF, [1] DZ, [0] NV. -/
abbrev Flags := BitVec 5

def flagNV : Flags := 0x01
def flagDZ : Flags := 0x02
def flagOF : Flags := 0x04
def flagUF : Flags := 0x08
def flagNX : Flags := 0x10

/-- `WriteFlags`: flags ORed into the sticky bits (R6, R34). -/
def Thread.orFlags (t : Thread) (fl : Flags) : Thread := { t with fpsr := t.fpsr ||| fl.setWidth 32 }

/-- The rounding modes of FPCR[1:0] (R13): nearest-even, toward zero, up, down. -/
inductive Rnd where
  | rn | rz | rp | rm
  deriving DecidableEq, Repr

/-- The mode FPCR[1:0] holds. -/
def Thread.dynRnd (t : Thread) : Rnd :=
  match (t.fpcr.extractLsb' 0 2).toNat with
  | 0 => .rn
  | 1 => .rz
  | 2 => .rp
  | _ => .rm

/-- The mode a rounding code selects: 0 takes FPCR's, 1 to 4 name one (R33). -/
def Thread.rnd (t : Thread) (code : Nat) : Rnd :=
  match code with
  | 0 => t.dynRnd
  | 1 => .rn
  | 2 => .rz
  | 3 => .rp
  | _ => .rm

/-- FPCR.FTZ (R13, R32). -/
def Thread.ftz (t : Thread) : Bool := t.fpcr.getLsbD 2

end Sys2Proof.Machine
end

