-- ==== Sys2Proof/Machine/Memory.lean ====
section
/-! DEFINITION. Segments, translation and the access checks (14 R229 to R240, R267, R320), the homes of bytes and the errors
found there (R257, R379, R380, R386), and the phase consistency model: store paths, overlays, snapshots, release and acquire
(15 R259 to R265). -/

namespace Sys2Proof.Machine

/-- The fault codes (R350). -/
def codeIllegal : Byte := 0x01
def codeReserved : Byte := 0x02
def codeRegBounds : Byte := 0x03
def codePartialMask : Byte := 0x04
def codePrivileged : Byte := 0x05
def codeStackLimit : Byte := 0x06
def codeMisaligned : Byte := 0x07
def codeSegInvalid : Byte := 0x08
def codeSegBounds : Byte := 0x09
def codeSegRights : Byte := 0x0A
def codePkey : Byte := 0x0B
def codeLease : Byte := 0x0C
def codeSealed : Byte := 0x0D
def codeRange : Byte := 0x0E
def codeSpad : Byte := 0x0F
def codeLinkUnbound : Byte := 0x10
def codeLinkFailed : Byte := 0x11
def codeTrap : Byte := 0x12
def codeBarrierStall : Byte := 0x13
def codeMeetDepth : Byte := 0x14
def codeCbrTimeout : Byte := 0x15
def codeCbrMember : Byte := 0x16
def codeGen : Byte := 0x17
def codeTile : Byte := 0x18
def codeQueue : Byte := 0x19
def codeAtomUr : Byte := 0x1A
def codeAtomCa : Byte := 0x1B
def codeFabric : Byte := 0x1C
def codePoison : Byte := 0x1D
def codeUncorrectable : Byte := 0x1E
def codeSdc : Byte := 0x1F
def codePreempt : Byte := 0x20
def codeSvc : Byte := 0x21
def codeRepTarget : Byte := 0x22
def codeContextReset : Byte := 0x23

/-- A fault of one thread before it is recorded: code, FADDR and FAUX. -/
structure Flt where
  code : Byte
  addr : DWord
  aux : Word
  deriving DecidableEq, Repr

/-- A segment descriptor's fields (R230). -/
structure Desc where
  valid : Bool
  type : Nat
  read : Bool
  write : Bool
  exec : Bool
  sl : Bool
  stub : Bool
  home : Nat
  base : Nat
  len : Nat
  impn : Nat
  ltbf : Word
  deriving DecidableEq, Repr

/-- A descriptor that names no segment. -/
def Desc.none : Desc := ⟨false, 0, false, false, false, false, false, 0, 0, 0, 0, 0⟩

/-- The descriptor of four words; a nonzero zero field, HOME 3, or a HOME that disagrees with TYPE counts as V = 0 (R230).
DEDUCED: log entry 26. -/
def Desc.ofWords (w : DescWords) : Desc :=
  let ty := (w.w0.extractLsb' 60 3).toNat
  let home := (w.w0.extractLsb' 53 2).toNat
  let good := w.w0.getLsbD 63 && w.w0.extractLsb' 32 21 == 0 && w.w1.extractLsb' 44 20 == 0 && w.w3 == 0
    && home == (if ty = 5 then 1 else if ty = 6 then 2 else 0)
  ⟨good, ty, w.w0.getLsbD 59, w.w0.getLsbD 58, w.w0.getLsbD 57, w.w0.getLsbD 56, w.w0.getLsbD 55, home,
    (w.w0.extractLsb' 0 32).toNat * 65536, (w.w1.extractLsb' 0 44).toNat, (w.w2.extractLsb' 32 32).toNat, w.w2.extractLsb' 0 32⟩

namespace State

/-- The byte at a home address (R256, R257). -/
def homeByte (s : State) (a : Nat) : Byte := s.hbm.getD a 0

/-- `n` bytes from a home address. -/
def homeBytes (s : State) (a n : Nat) : List Byte := (List.range n).map (fun k => s.homeByte (a + k))

/-- A little-endian 64-bit word at a home address (R5). -/
def homeWord (s : State) (a : Nat) : DWord := BitVec.ofNat 64 (leNat (s.homeBytes a 8))

/-- One byte written at its home. -/
def putHome (s : State) (a : Nat) (b : Byte) : State := { s with hbm := s.hbm.putD a b 0 }

/-- Bytes written at their homes in order; a line written whole loses its poison mark (R380), and a written line has no mirror. -/
def putCells (s : State) (cells : List Host.Cell) : State :=
  let s1 := cells.foldl (fun s c => s.putHome c.1 c.2) s
  { s1 with
    poison := s1.poison.filter (fun l => !((List.range 64).all (fun k => cells.any (fun c => c.1 == 64 * l + k))))
    mirrors := s1.mirrors.filter (fun m => !cells.any (fun c => c.1 / 64 == m.1 / 4)) }

/-- The descriptor as memory holds it (R229). -/
def descHome (s : State) (ctx seg : Nat) : Desc :=
  let c := s.context ctx
  if seg = 0 ∨ c.stl ≤ seg then Desc.none
  else
    let a := c.segBase + 32 * seg
    Desc.ofWords ⟨s.homeWord a, s.homeWord (a + 8), s.homeWord (a + 16), s.homeWord (a + 24)⟩

/-- The descriptor a core uses: its cached copy where it holds one (R232). -/
def descOn (s : State) (core ctx seg : Nat) : Desc :=
  match s.descs.get? ((64 * core + ctx) * 2 ^ 20 + seg) with
  | some w => if seg = 0 ∨ (s.context ctx).stl ≤ seg then Desc.none else Desc.ofWords w
  | none => s.descHome ctx seg

/-- One entry of a table of levels 0 to 2: the next table, if the entry is present and its zero fields are zero (R235). -/
def nextTable (e : DWord) : Option Nat :=
  if e.getLsbD 63 && e.extractLsb' 52 11 == 0 && e.extractLsb' 0 11 == 0 then some (e.toNat % 2 ^ 52) else none

/-- A level-3 entry, if it is present and its zero fields are zero (R235). -/
def leafEntry (e : DWord) : Option DWord :=
  if e.getLsbD 63 && e.extractLsb' 52 3 == 0 && e.extractLsb' 0 16 == 0 then some e else none

/-- The page entry of a device-virtual address by a walk of the four levels (R235). -/
def walk (s : State) (ctx dva : Nat) : Option DWord :=
  let idx (k : Nat) : Nat := dva / 2 ^ k % 256 * 8
  match nextTable (s.homeWord ((s.context ctx).tableBase + idx 40)) with
  | none => none
  | some t1 =>
    match nextTable (s.homeWord (t1 + idx 32)) with
    | none => none
    | some t2 =>
      match nextTable (s.homeWord (t2 + idx 24)) with
      | none => none
      | some t3 => leafEntry (s.homeWord (t3 + idx 16))

/-- The number under which a core caches a page: a device-virtual address has 48 bits (R232, R235). -/
def pageNo (core ctx dva : Nat) : Nat := (64 * core + ctx) * 2 ^ 32 + dva / 65536 % 2 ^ 32

/-- The page entry a core uses: its cached one where it holds one (R232, R236). -/
def pageOn (s : State) (core : Option Nat) (ctx dva : Nat) : Option DWord :=
  match core with
  | some c =>
    match s.pages.get? (pageNo c ctx dva) with
    | some e => some e
    | none => s.walk ctx dva
  | none => s.walk ctx dva

end State

/-- The frame address of a level-3 entry, its key and its rights (R235). DESIGN CHOICE: log entry 97. -/
def pageFrame (e : DWord) : Nat := (e.extractLsb' 16 36).toNat * 65536
def pageKey (e : DWord) : Nat := (e.extractLsb' 58 5).toNat
def pageAllows (e : DWord) (kind : Kind) : Bool :=
  match kind with
  | .read => e.getLsbD 57
  | .write => e.getLsbD 56
  | .atomic => e.getLsbD 57 && e.getLsbD 56
  | .fetch => e.getLsbD 55

/-- Does a descriptor grant the rights an access needs (R233)? -/
def Desc.allows (d : Desc) (kind : Kind) : Bool :=
  match kind with
  | .read => d.read
  | .write => d.write
  | .atomic => d.read && d.write
  | .fetch => d.exec

/-- Does a PKR value allow an access to a page of key k (R237)? -/
def pkrAllows (pkr : DWord) (k : Nat) (kind : Kind) : Bool :=
  match kind with
  | .write => pkr.getLsbD (2 * k + 1)
  | .atomic => pkr.getLsbD (2 * k) && pkr.getLsbD (2 * k + 1)
  | _ => pkr.getLsbD (2 * k)

/-- The kind code of FAUX (R26). -/
def kindCode : Kind → Nat
  | .read => 0
  | .write => 1
  | .fetch => 2
  | .atomic => 3

/-- FAUX of an access fault: [4:3] kind, [2:0] size (R26). -/
def accessAux (kind : Kind) (size : Nat) : Word := BitVec.ofNat 32 (kindCode kind * 8 + size)

/-- Does a lease record grant what an access needs (R239, R240)? -/
def Lease.grants (l : Lease) (kind : Kind) : Bool :=
  match kind with
  | .write => l.rights.getLsbD 1
  | .atomic => l.rights.getLsbD 0 && l.rights.getLsbD 1
  | _ => l.rights.getLsbD 0

/-- Do the records cover every byte from `off` to `stop`, possibly several together (R240)? Each turn passes one record. -/
def covers (ls : List Lease) : Nat → Nat → Nat → Bool
  | 0, off, stop => decide (stop ≤ off)
  | k + 1, off, stop =>
    decide (stop ≤ off) ||
      (let best := (ls.filter (fun l => decide (l.off ≤ off))).foldl (fun m l => max m (l.off + l.len)) 0
       decide (off < best) && covers ls k best stop)

/-- `Lease(ea, n)` for a need (R240). DEDUCED: log entry 40. -/
def leased (ls : List Lease) (kind : Kind) (seg off n : Nat) : Bool :=
  let mine := ls.filter (fun l => l.seg == seg && l.grants kind)
  covers mine mine.length off (off + n)

/-- Who makes an access: the context, the core whose cached translations and PKR copy it uses (an engine: none), the leases it
is held to (an engine: none, R316), the thread whose private slice segment 3 is, and whether seals are checked (R273). -/
structure Agent where
  ctx : Nat
  core : Option Nat
  leases : Option (List Lease)
  tid : Option Nat
  seals : Bool
  deriving DecidableEq, Repr

/-- Where a checked access goes: a home address of this module, or another home (R257). -/
inductive Loc where
  | home (a : Nat)
  | far (f : Far)
  deriving DecidableEq, Repr

/-- The answer of an access check. -/
inductive Checked where
  | ok (d : Desc) (l : Loc)
  | bad (code : Byte) (aux : Word)
  deriving DecidableEq, Repr

/-- Do two byte ranges share a byte? -/
def overlap (a n b m : Nat) : Bool := decide (a < b + m) && decide (b < a + n) && decide (0 < n) && decide (0 < m)

/-- The lines of a byte range. -/
def linesOf (a n : Nat) : List Nat := if n = 0 then [] else (List.range ((a + n - 1) / 64 - a / 64 + 1)).map (a / 64 + ·)

namespace State

/-- Do the bytes lie in a sealed range of the context (R267)? DEDUCED: log entry 32. -/
def sealed (s : State) (ctx seg off n : Nat) : Bool :=
  (s.context ctx).seals.any (fun e => e.seg == seg && overlap e.off e.len off n)

/-- Does an armed umbra entry of any die lock the bytes against the access (R318, R320)? -/
def locked (s : State) (ctx seg off n : Nat) (kind : Kind) : Bool :=
  s.dies.any (fun e => e.2.umbra.any (fun u =>
    u.armed && u.ctx == ctx && u.seg == seg && overlap u.off u.len off n && (u.write || decide (kind ≠ .read))))

/-- Where a segment's offset 0 lies in its context's device-virtual space for a thread: of a PRIVATE segment, whatever its number, the
thread's own slice (R19, R235). DEDUCED: log entry 136. -/
def dvaBase (s : State) (tid : Option Nat) (d : Desc) : Nat :=
  d.base + (match tid with
    | some t => if d.type = 2 then (s.group (gidOf t)).slice + laneOf t * d.len else 0
    | none => 0)

/-- The home address of an offset of a segment that is not HOST or PANEL, by its page entry. -/
def local_ (pg : DWord) (dva : Nat) : Loc := .home (pageFrame pg + dva % 65536)

/-- `CheckAccess(ea, n, kind)` (R233), `size` being what FAUX records; a page that is absent under a segment of a
context-resident type ends like any absent page (R235, R240). `mis` is what the alignment step finds (R225, R273). An engine has
no private slice (R325) and is not checked against locks (R320). DEDUCED: log entry 136. -/
def checkAl (s : State) (a : Agent) (ea : Ptr) (n : Nat) (mis : Bool) (size : Nat) (kind : Kind) : Checked :=
  let seg := segOf ea
  let off := offOf ea
  let aux := accessAux kind size
  let d := match a.core with | some c => s.descOn c a.ctx seg | none => s.descHome a.ctx seg
  if !d.valid then .bad codeSegInvalid aux
  else
    let inb := decide (off + n ≤ d.len)
    let paged := (d.type == 0 || d.type == 5 || d.type == 6) && decide (kind ≠ .fetch)
    let dva := s.dvaBase a.tid d + off
    let pg := if inb then s.pageOn a.core a.ctx dva else none
    let pkr := match a.core with | some c => s.pkrCopy c a.ctx | none => (s.context a.ctx).pkr
    if !d.allows kind || (decide (kind = .fetch) && d.type != 1) || (d.type == 2 && a.tid.isNone) then .bad codeSegRights aux
    else if paged && (match pg with | some e => !pageAllows e kind | none => false) then .bad codeSegRights (aux ||| 0x100)
    else if !inb then .bad codeSegBounds aux
    else if decide (kind ≠ .fetch) && mis then .bad codeMisaligned aux
    else
      match pg with
      | none => .bad codeLease (aux ||| 0x20)
      | some e =>
        let loc := if d.type = 5 then Loc.far (.host (pageFrame e + dva % 65536))
          else if d.type = 6 then
            Loc.far (.panel (d.ltbf.extractLsb' 20 6).toNat (d.ltbf.extractLsb' 0 20).toNat off)
          else local_ e dva
        if !paged then .ok d loc
        else if !pkrAllows pkr (pageKey e) kind then
          .bad codePkey (aux ||| BitVec.ofNat 32 (pageKey e * 512))
        else if (match a.leases with | some ls => !leased ls kind seg off n | none => false) then .bad codeLease aux
        else if decide (kind ≠ .read) && a.seals && (d.sl || s.sealed a.ctx seg off n) then .bad codeSealed aux
        else if a.core.isSome && s.locked a.ctx seg off n kind then .bad codeRange aux
        else .ok d loc

/-- `CheckAccess(ea, n, kind)` with natural alignment (R130, R233). -/
def check (s : State) (a : Agent) (ea : Ptr) (n size : Nat) (kind : Kind) : Checked := s.checkAl a ea n (offOf ea % n != 0) size kind

/-- The agent of a thread (R233, R240). -/
def agent (s : State) (tid : Nat) : Agent :=
  let g := gidOf tid
  ⟨s.ctxOf g, some (s.group g).core, some (s.launchOf g).leases, some tid, true⟩

/-- The agent of the hardware acting in a thread's context with the lease step left out (R355, R371). -/
def agentNoLease (s : State) (tid : Nat) : Agent := { s.agent tid with leases := none }

/-- The agent of an engine (R305, R316). -/
def engine (ctx : Nat) : Agent := ⟨ctx, none, none, none, true⟩

/-- What a read of a line at its home meets (R379, R380, R386). -/
inductive Met where
  | sound
  | uncorrectable
  | poisoned
  deriving DecidableEq, Repr

end State

/-- The die whose stacks hold a home address (R3; the order of addresses over the stacks is log entry 8). -/
def dieOfHome (a : Nat) : Nat := a / (192 * 2 ^ 30) % 4

/-- A count that saturates at 0xFFFF_FFFF (R379). -/
def bump (w : Word) : Word := if w = 0xFFFFFFFF then w else w + 1

namespace State

/-- An error counted on the die of a line (R379). -/
def countError (s : State) (line : Nat) (corrected : Bool) : State :=
  s.modDie (dieOfHome (64 * line)) (fun d =>
    if corrected then { d with corrected := bump d.corrected } else { d with uncorrected := bump d.uncorrected })

/-- The poison mark written on a line, with the count of R380. -/
def markPoison (s : State) (line : Nat) : State :=
  let s := s.countError line false
  { s with poison := if s.poison.contains line then s.poison else line :: s.poison }

/-- What a read of a line meets of what is stored there (R379, R380): a poison mark, or an error. -/
def meetStored (s : State) (line : Nat) : State × Met :=
  if s.poison.contains line then (s.markPoison line, .poisoned)
  else
    match s.badLines.get? line with
    | none => (s, .sound)
    | some true => ({ s.countError line true with badLines := s.badLines.erase line }, .sound)
    | some false => ({ s.markPoison line with badLines := s.badLines.erase line }, .uncorrectable)

/-- A read of one line at its home: the armed Flicker error fires, which a correctable one leaves as it was stored (R380, R386). -/
def meetLine (s : State) (line : Nat) : State × Met :=
  let target := (s.flkHi.toNat % 2 ^ 20) * 2 ^ 26 + s.flkLo.toNat / 64
  let kind := s.flkCtl.extractLsb' 0 2
  if s.flkCtl.getLsbD 31 && target == line then
    let s := { s with flkCtl := (s.flkCtl &&& 0x7FFFFFFF) ||| 0x40000000 }
    if kind = 0 then (s.countError line true).meetStored line
    else if kind = 1 then (s.markPoison line, .uncorrectable)
    else (s.markPoison line, .poisoned)
  else s.meetStored line

/-- A line read by an instruction fetch, which may meet its home: an armed Flicker error fires, a stored error is counted and marked (R380,
R386). DESIGN CHOICE: log entry 133. -/
def touchLine (s : State) (line : Nat) : State := if Config.readsHome s.turn line then (s.meetLine line).1 else s

/-- Is there an error, armed or stored, that a read could meet? -/
def anyError (s : State) : Bool := s.flkCtl.getLsbD 31 || !s.poison.isEmpty || !s.badLines.isEmpty

/-- Lines so read by a fetch, which a cache may serve. -/
def touchLines (s : State) (lines : List Nat) : State := if s.anyError then lines.foldl touchLine s else s

/-- Lines read at their home by a lookup, of whose value nothing more is said (R386). DESIGN CHOICE: log entry 133. -/
def readLines (s : State) (lines : List Nat) : State := if s.anyError then lines.foldl (fun s l => (s.meetLine l).1) s else s

/-- The lines a walk of a page reads, level by level as far as it gets (R235); none where a core holds the page's translation. -/
def walkLines (s : State) (core : Option Nat) (ctx dva : Nat) : List Nat :=
  let at_ (base k : Nat) : Nat := base + dva / 2 ^ k % 256 * 8
  let held := match core with | some c => (s.pages.get? (pageNo c ctx dva)).isSome | none => false
  if held then []
  else
    let a0 := at_ (s.context ctx).tableBase 40
    a0 / 64 :: (match nextTable (s.homeWord a0) with
      | none => []
      | some t1 =>
        at_ t1 32 / 64 :: (match nextTable (s.homeWord (at_ t1 32)) with
          | none => []
          | some t2 =>
            at_ t2 24 / 64 :: (match nextTable (s.homeWord (at_ t2 24)) with
              | none => []
              | some t3 => [at_ t3 16 / 64])))

/-- The lines that the lookups of a pointer's check read, for a thread or none: its descriptor's and its page's (R229, R233). -/
def lookupLines (s : State) (core : Option Nat) (ctx : Nat) (tid : Option Nat) (p : Ptr) : List Nat :=
  let seg := segOf p
  let a := (s.context ctx).segBase + 32 * seg
  let held := match core with | some c => (s.descs.get? ((64 * c + ctx) * 2 ^ 20 + seg)).isSome | none => false
  let d := match core with | some c => s.descOn c ctx seg | none => s.descHome ctx seg
  (if held || decide (seg = 0) || decide ((s.context ctx).stl ≤ seg) then [] else linesOf a 32) ++
    (if d.valid && decide (offOf p < d.len) then s.walkLines core ctx (s.dvaBase tid d + offOf p) else [])

/-- The newest byte a list of stores holds for an address. -/
def newest (stores : List (List Host.Cell)) (a : Nat) : Option Byte :=
  stores.foldl (fun r cells => cells.foldl (fun r c => if c.1 = a then some c.2 else r) r) none

/-- The entries of a group's compare buffer (R385). -/
def unmatched (s : State) (gid : Nat) : List HeldStore := match (s.group gid).shadow with | some sh => sh.buffer | none => []

/-- The stores that a speculating group holds (R178), and with them those that await their match: what has passed its checks and is not on
its way. -/
def storesHeld (s : State) (gid : Nat) : List HeldStore := match (s.group gid).spec with | some sp => sp.stores | none => []
def storesOpen (s : State) (gid : Nat) : List HeldStore := s.storesHeld gid ++ s.unmatched gid

/-- What a thread has stored to a byte that its domain's overlay does not hold yet: the group's held stores first (R178), then
the thread's own stores, and the group's HSTs, that await their match (R385) or are on the path (R137, R225, R260). -/
def forwarded (s : State) (tid a : Nat) : Option Byte :=
  let g := s.group (gidOf tid)
  let held := match g.spec with
    | some sp => newest ((sp.stores.filter (fun h : HeldStore => h.spad.isNone)).map HeldStore.bytes) a
    | none => none
  match held with
  | some b => some b
  | none => newest ((g.path.filter (fun p : PathStore => p.tid == tid || p.tag == 0)).map PathStore.bytes ++
      ((s.unmatched (gidOf tid)).filter (fun h : HeldStore => (h.tid == tid || h.shared) && h.spad.isNone)).map HeldStore.bytes) a

/-- The byte a thread reads without its home (R260): its group's held stores and its own stores, the overlay, the snapshot. A home read
is not served by the snapshot; a sealed byte is served by neither, but by the mirror of the reading die (R267). -/
def served (s : State) (tid a : Nat) (home sealed : Bool) : Option Byte :=
  let d := s.domain (s.domOf (gidOf tid))
  match s.forwarded tid a with
  | some b => some b
  | none =>
    if sealed then
      (if home then none
        else (s.mirrors.get? (4 * (a / 64) + dieOfCore (s.group (gidOf tid)).core)).map (fun bs => bs.getD (a % 64) 0))
    else
      match d.overlay.get? a with
      | some b => some b
      | none => if home then none else (d.lines.get? (a / 64)).map (fun bs => bs.getD (a % 64) 0)

/-- Bytes of one line loaded by a thread: the line is met once where some byte comes from its home (R260, R380). A snapshot line filled
so stays; one that a home read passes is dropped, so that no later load returns an older byte (R264). -/
def loadLine (s : State) (tid line : Nat) (as : List Nat) (home sealed : Bool) : State × List Byte × Met :=
  let got := as.map (fun a => s.served tid a home sealed)
  if got.all Option.isSome then (s, got.map (fun b => b.getD 0), .sound)
  else
    let r := (s.countUse (s.activityOfGroup (gidOf tid)) 1 1).meetLine line
    (match r.2 with
      | .sound => r.1.modDomain (s.domOf (gidOf tid)) (fun p => { p with
          lines := if home || sealed then p.lines.erase line else p.lines.put line (s.homeBytes (64 * line) 64) })
      | _ => r.1,
      as.map (fun a => (s.served tid a home sealed).getD (s.homeByte a)), r.2)

/-- The worse of two findings: the one met first counts (R27: the lowest-addressed element). -/
def firstMet (m m' : Met) : Met := match m with | .sound => m' | _ => m

/-- `n` bytes loaded by a thread from a home address, line by line (R260). -/
def loadBytes (s : State) (tid a n : Nat) (home sealed : Bool) : State × List Byte × Met :=
  (linesOf a n).foldl (fun r l =>
    let q := r.1.loadLine tid l (((List.range n).map (a + ·)).filter (fun b => b / 64 == l)) home sealed
    (q.1, r.2.1 ++ q.2.1, firstMet r.2.2 q.2.2)) (s, [], .sound)

/-- Bytes written at their homes by a domain: its snapshot holds no older byte afterwards (R260). -/
def domainHome (s : State) (d : Nat) (cells : List Host.Cell) : State :=
  (s.putCells cells).modDomain d (fun p =>
    { p with lines := p.lines.filter (fun l => !cells.any (fun c => c.1 / 64 == l.1)) })

/-- Bytes put into a domain's overlay in order (R259). -/
def overlayCells (s : State) (d : Nat) (cells : List Host.Cell) : State :=
  s.modDomain d (fun p => { p with overlay := cells.foldl (fun o c => o.put c.1 c.2) p.overlay })

/-- The first `n` stores of a group's path enter its domain's overlay (R259). -/
def drainPath (s : State) (gid n : Nat) : State :=
  let g := s.group gid
  (s.overlayCells (s.domOf gid) ((g.path.take n).flatMap (·.bytes))).modGroup gid (fun g => { g with path := g.path.drop n })

/-- The stores of a group's path up to the last that writes one of some bytes enter its domain's overlay (R259). -/
def drainTo (s : State) (gid a n : Nat) : State :=
  let hit (p : PathStore) : Bool := p.bytes.any (fun c => decide (a ≤ c.1) && decide (c.1 < a + n))
  let path := (s.group gid).path
  s.drainPath gid (path.length - (path.reverse.takeWhile (fun p => !hit p)).length)

/-- Bytes of a team's scratchpad written (R135). -/
def spadCells (s : State) (team : Nat) (cells : List Host.Cell) : State :=
  s.modTeam team (fun t => { t with spad := cells.foldl (fun m c => m.putD c.1 c.2 0) t.spad })

end State

/-- Do two lists of bytes share an address? -/
def shareByte (a b : List Host.Cell) : Bool := a.any (fun c => b.any (fun d => c.1 == d.1))

/-- What of a list in issue order is performed when those picked are, and the rest, each in order: before an item comes each earlier one
that `first` says precedes it. -/
def splitBefore {α : Type} (first : α → α → Bool) (pick : α → Bool) : List α → List α × List α
  | [] => ([], [])
  | p :: r =>
    let q := splitBefore first pick r
    if pick p || q.1.any (fun n => first p n) then (p :: q.1, q.2) else (q.1, p :: q.2)

/-- Before a relaxed scratchpad store come the same thread's earlier ones to the same member (R265), and of those that share a byte with it
the ones of its issue (R133) and any to or from a compaction buffer (R193). -/
def SpadStore.before (p n : SpadStore) : Bool :=
  n.team == p.team && (n.tid == p.tid || ((n.tag == p.tag || p.tag == 0 || n.tag == 0) && shareByte n.bytes p.bytes))

namespace State

/-- Relaxed scratchpad stores of a group performed: those picked, and what goes before them (R265). -/
def performSpad (s : State) (gid : Nat) (pick : SpadStore → Bool) : State :=
  let q := splitBefore SpadStore.before pick (s.group gid).spadPath
  (q.1.foldl (fun s p => s.spadCells p.team p.bytes) s).modGroup gid (fun g => { g with spadPath := q.2 })

/-- The relaxed scratchpad stores of a group performed in order (R265). -/
def drainSpad (s : State) (gid : Nat) : State :=
  let g := s.group gid
  (g.spadPath.foldl (fun s p => s.spadCells p.team p.bytes) s).modGroup gid (fun g => { g with spadPath := [] })

/-- Home lines that a group's instruction writes, counted (R368). DEDUCED: log entry 130. -/
def countLines (s : State) (gid : Nat) (cells : List Host.Cell) : State :=
  s.countUse (s.activityOfGroup gid) 1 ((cells.map (fun c => c.1 / 64)).eraseDups.length)

/-- The team a scratchpad address names: its own, or the member of its gang (R135, R142). -/
def spadTeam (s : State) (gid mem : Nat) : Option Nat :=
  let k := teamOf gid
  let t := s.team k
  if t.gang.length ≤ 1 then (if mem = 0 then some k else none) else t.gang[mem]?

/-- The named team, unless it has ended and its allocation has ceased to exist (R144). -/
def spadTeamNow (s : State) (gid mem : Nat) : Option Nat :=
  (s.spadTeam gid mem).filter (fun k => decide ((s.team k).place ≠ .ended))

/-- Do scratchpad bytes of a team meet the compaction buffer of a group's generator region (R191, R193)? -/
def inBuffer (s : State) (gid team : Nat) (cells : List Host.Cell) : Bool :=
  match (s.group gid).gen with
  | none => false
  | some g =>
    let o := (g.buf.extractLsb' 0 19).toNat
    decide (s.spadTeam gid (g.buf.extractLsb' 19 2).toNat = some team) &&
      cells.any (fun c => decide (o ≤ c.1) && decide (c.1 < o + 4 * g.c * g.e))

/-- What threads of a group have read ahead of some bytes goes: a store of the group comes between (R178, R193). -/
def dropAhead (s : State) (gid team : Nat) (cells : List Host.Cell) : State :=
  { s with ahead := s.ahead.filter (fun e =>
      !(gidOf e.tid == gid && e.team == team && cells.any (fun c => decide (e.off ≤ c.1) && decide (c.1 < e.off + e.bytes.length)))) }

/-- What some threads have read ahead is gone: they acquire (R166, R265). -/
def forgetOf (s : State) (ts : List Nat) : State := { s with ahead := s.ahead.filter (fun e => !ts.contains e.tid) }

/-- What threads of a group have read ahead is gone. -/
def forgetAhead (s : State) (gid : Nat) : State := { s with ahead := s.ahead.filter (fun e => gidOf e.tid != gid) }

/-- A relaxed store on its way: on its group's path, or among its scratchpad stores, to its compaction buffer in the group's order (R193,
R259, R265). -/
def onPath (s : State) (h : HeldStore) : State :=
  match h.spad with
  | some k =>
    let own := h.shared || s.inBuffer (gidOf h.tid) k h.bytes
    let s := if own then s.dropAhead (gidOf h.tid) k h.bytes else s
    s.modGroup (gidOf h.tid) (fun g => { g with spadPath := g.spadPath ++ [⟨h.tid, k, h.bytes, if own then 0 else h.tag⟩] })
  | none => s.modGroup (gidOf h.tid) (fun g => { g with path := g.path ++ [⟨h.tid, h.bytes, if h.shared then 0 else h.tag⟩] })

/-- A group's end: what its shadow has not matched is not performed (R385). -/
def endShadow (s : State) (gid : Nat) : State := s.modGroup gid (fun g => { g with shadow := g.shadow.map Shadow.clear })

/-- Every byte of a domain's overlay written home and dropped (R261 step 2). -/
def writeBack (s : State) (d : Nat) : State :=
  let cells := (s.domain d).overlay
  (s.domainHome d cells).modDomain d (fun p => { p with overlay := [] })

/-- `Publish(domain, scope)` by a group: its path and its scratchpad stores, then at gang or wider the whole overlay (R261). The
waits of steps 3 and 4 are made before the instruction issues. -/
def publish (s : State) (gid scope : Nat) : State :=
  let s := (s.drainPath gid (s.group gid).path.length).drainSpad gid
  if 2 ≤ scope then (s.countLines gid (s.domain (s.domOf gid)).overlay).writeBack (s.domOf gid) else s

/-- `Acquire(domain, scope)` by a group: at gang or wider the snapshot is dropped, at dev or wider the core's PKR copies take
the home values (R238, R262). -/
def acquire (s : State) (gid scope : Nat) : State :=
  let s := if 2 ≤ scope then s.modDomain (s.domOf gid) (fun p => { p with lines := [] }) else s
  if 3 ≤ scope then
    let core := (s.group gid).core
    { s with pkrCopies := s.contexts.foldl (fun t c => t.put (64 * core + c.1) c.2.pkr) s.pkrCopies }
  else s

/-- A list of groups publishes, then acquires, one after another. -/
def publishAll (s : State) (gids : List Nat) (scope : Nat) : State := gids.foldl (fun s g => s.publish g scope) s
def acquireAll (s : State) (gids : List Nat) (scope : Nat) : State := gids.foldl (fun s g => s.acquire g scope) s

/-- The check of a scratchpad access (R135): the named team's number and the offset in its allocation; that of an ended team has ceased to
exist (R144). -/
def checkSpad (s : State) (gid : Nat) (sa : Word) (n size : Nat) (kind : Kind) : Except Flt (Nat × Nat) :=
  let mem := (sa.extractLsb' 19 2).toNat
  let o := (sa.extractLsb' 0 19).toNat
  let aux := accessAux kind size
  if o % n != 0 then .error ⟨codeMisaligned, sa.setWidth 64, aux⟩
  else
    match s.spadTeamNow gid mem with
    | none => .error ⟨codeSpad, sa.setWidth 64, aux⟩
    | some k =>
      if sa.extractLsb' 21 11 != 0 || decide ((s.launch (s.team k).launch).spad < o + n) then
        .error ⟨codeSpad, sa.setWidth 64, aux⟩
      else .ok (k, o)

/-- One scratchpad byte as a thread reads it: the group's held stores, its own stores not yet performed and the group's to its compaction
buffer, then the scratchpad (R137, R178, R193, R265). -/
def spadByte (s : State) (tid team o : Nat) : Byte :=
  let g := s.group (gidOf tid)
  let held := match g.spec with
    | some sp => newest ((sp.stores.filter (fun h : HeldStore => decide (h.spad = some team))).map HeldStore.bytes) o
    | none => none
  match held with
  | some b => b
  | none =>
    match newest ((g.spadPath.filter (fun p : SpadStore => (p.tid == tid || p.tag == 0) && p.team == team)).map SpadStore.bytes ++
        ((s.unmatched (gidOf tid)).filter (fun h : HeldStore => (h.tid == tid || h.shared) && decide (h.spad = some team))).map HeldStore.bytes) o with
    | some b => b
    | none => (s.team team).spad.getD o 0

/-- The scratchpad bytes a thread's load returns: those a read ahead of it has returned, else as the thread reads them now (R265). -/
def spadRead (s : State) (tid team o n : Nat) : List Byte :=
  match s.ahead.find? (fun e => e.tid == tid && e.team == team && e.off == o && e.bytes.length == n) with
  | some e => e.bytes
  | none => (List.range n).map (fun j => s.spadByte tid team (o + j))

/-- A load of a thread passes some bytes: what was read ahead of them is gone, so that loads of one address keep their order (R265). -/
def passAhead (s : State) (tid team o n : Nat) : State :=
  { s with ahead := s.ahead.filter (fun e => !(e.tid == tid && e.team == team && overlap e.off e.bytes.length o n)) }

/-- The canonical form of a memory: numbers strictly rising, no byte listed that reads as an unlisted one does. -/
def memoryWf (s : State) : Bool := s.hbm.wf 0 && s.hostMem.wf 0

end State

/-- The canonical form of one memory (R256; unlisted bytes read 0, log entry 4). -/
def Memory.wf (m : List Host.Cell) : Bool := Tab.wf (0 : Byte) m

end Sys2Proof.Machine
end

