-- ==== Sys2Proof/Machine/Sync.lean ====
section
/-! DEFINITION. What several threads, groups and commands share: barriers (08 R153, R154, 09 R166, R167), meetings (08 R151),
the node records of the dependence graph (18 R312, R313, R331), and the hand-over of teams to dies (08 R155). -/

namespace Sys2Proof.Machine

namespace State

/-- A team's barrier (R153). -/
def barrier (s : State) (k bar : Nat) : Barrier := let t := s.team k; t.bars.getD bar (Barrier.fresh t.tsize)

def setBarrier (s : State) (k bar : Nat) (b : Barrier) : State := s.modTeam k (fun t => { t with bars := t.bars.put bar b })

/-- The vote of a completed phase: any or all of the inputs recorded (R166). -/
def voteOf (b : Barrier) (all : Bool) : Bool := if all then b.votes.all (·.2) else b.votes.any (·.2)

end State

/-- A change to each active trap slot. -/
def Thread.mapSlots (t : Thread) (f : TrapSlot → TrapSlot) : Thread :=
  { t with slotS := t.slotS.map f, slotF := t.slotF.map f, slotP := t.slotP.map f }

/-- The trap slot that holds a wait of a kind which has not ended: the thread counts as waiting (R348). -/
def Thread.heldWait (t : Thread) (p : Wait → Bool) : Option TrapSlot :=
  [t.slotS, t.slotF, t.slotP].findSome? (fun sl => sl.bind (fun k => if p k.wait && !k.ended then some k else none))

/-- Does a thread wait so, itself or in a trap slot (R348)? -/
def Thread.waitsAs (t : Thread) (p : Wait → Bool) : Bool := p t.wait || (t.heldWait p).isSome

/-- A wait held in a trap slot ends with a fault, which is raised at the return (R348). -/
def Thread.failHeld (t : Thread) (p : Wait → Bool) (code : Byte) (aux : Word) : Thread :=
  t.mapSlots (fun k => if p k.wait && !k.ended then { k with wait := .none, fault := some (code, aux) } else k)

/-- A wait at a barrier, and at a GEN. -/
def Wait.atBarrier (bar : Nat) : Wait → Bool
  | .barrier b _ _ _ => b == bar
  | _ => false
def Wait.barrierWait : Wait → Bool
  | .barrier _ _ _ _ => true
  | _ => false
def Wait.atGen : Wait → Bool
  | .gen => true
  | _ => false

/-- A thread released from a barrier (R153, R166): BARW writes its vote; a wait held in a trap slot is marked ended (R348). -/
def releaseBarrier (b : Barrier) (bar : Nat) (t : Thread) : Thread :=
  let mark (sl : Option TrapSlot) : Option TrapSlot :=
    match sl with
    | some k =>
      match k.wait with
      | .barrier b' ph _ all =>
        if b' = bar ∧ ph = b.phase then some { k with ended := true, vote := State.voteOf b all } else some k
      | _ => some k
    | none => none
  let t := { t with slotS := mark t.slotS, slotF := mark t.slotF, slotP := mark t.slotP }
  match t.wait with
  | .barrier b' ph dest all =>
    if b' = bar ∧ ph = b.phase then (if dest < 16 then t.setPred dest (State.voteOf b all) else t).finish else t
  | _ => t

namespace State

/-- The threads of a team that wait themselves for the phase of a barrier. -/
def waitersAt (s : State) (k bar phase : Nat) : List Nat :=
  (s.threadsOfTeam k).filter (fun t => match (s.thread t).wait with
    | .barrier b ph _ _ => b == bar && ph == phase
    | _ => false)

/-- A barrier whose arrivals reach E completes its phase: the waiters are released together at the next tick, the phase number
rises, and the pending E or the exits of the phase take effect (R153, R167).
DEDUCED: log entry 30. DEDUCED: log entry 114. -/
def settleBarrier (s : State) (k bar : Nat) : State :=
  let b := s.barrier k bar
  if b.arrived ≠ [] ∧ b.e ≤ b.arrived.length then
    let s := (s.unbundle (s.waitersAt k bar b.phase)).forgetOf (s.waitersAt k bar b.phase)
    let s := s.mapThreads (fun tid t => if teamOf (gidOf tid) = k then releaseBarrier b bar t else t)
    s.setBarrier k bar
      { phase := b.phase + 1, e := (b.pendingE.getD (b.e - b.nextDrop)), pendingE := none, nextDrop := 0, arrived := [],
        votes := [], start := 0, limit := 0, bari := b.bari }
  else s

/-- A thread arrives at a barrier with a vote input, or none (R153, R154, R166). -/
def arrive (s : State) (tid bar : Nat) (vote : Option Bool) : State :=
  let k := teamOf (gidOf tid)
  let b := s.barrier k bar
  if b.arrived.contains tid then s
  else
    let b1 := if b.arrived = [] then { b with start := s.cycle, limit := (s.group (gidOf tid)).barto.toNat } else b
    s.setBarrier k bar { b1 with
      arrived := b.arrived ++ [tid]
      votes := match vote with | some v => b.votes ++ [(tid, v)] | none => b.votes }

/-- One barrier deducts an exited thread, whose vote input is discarded (R153, R166, R167). DEDUCED: log entry 29. -/
def deductBarrier (s : State) (tid bar : Nat) : State :=
  let k := teamOf (gidOf tid)
  let b := s.barrier k bar
  let b := { b with votes := b.votes.filter (fun v => v.1 != tid) }
  let b := { b with pendingE := b.pendingE.map (· - 1) }
  let b := if b.arrived.contains tid then (if b.pendingE.isSome then b else { b with nextDrop := b.nextDrop + 1 })
    else { b with e := b.e - 1 }
  (s.setBarrier k bar b).settleBarrier k bar

end State

/-- Does a thread wait at a meeting, itself or in a trap slot whose wait has not ended (R151, R348)? -/
def Thread.atMeeting (t : Thread) : Bool :=
  let inSlot (sl : Option TrapSlot) : Bool := match sl with | some k => decide (k.wait = .meeting) && !k.ended | none => false
  decide (t.wait = .meeting) || inSlot t.slotS || inSlot t.slotF || inSlot t.slotP

/-- Has a meeting wait of one of the thread's slots ended, so that it no longer belongs to the set (R348)? -/
def Thread.metInSlot (t : Thread) : Bool :=
  let inSlot (sl : Option TrapSlot) : Bool := match sl with | some k => decide (k.wait = .meeting) && k.ended | none => false
  inSlot t.slotS || inSlot t.slotF || inSlot t.slotP

/-- The current meeting value popped (R151, R168). -/
def Thread.popMeet (t : Thread) : Thread :=
  match t.meets with
  | [] => { t with meet := none }
  | m :: r => { t with meet := some m, meets := r }

/-- A thread released from its meeting pops and goes on; a wait held in a trap slot is marked ended (R151, R348). -/
def releaseMeeting (t : Thread) : Thread :=
  let mark (sl : Option TrapSlot) : Option TrapSlot :=
    sl.map (fun k => if k.wait = .meeting then { k with ended := true } else k)
  if t.wait = .meeting then { t.popMeet with wait := .none, released := true }
  else { t with slotS := mark t.slotS, slotF := mark t.slotF, slotP := mark t.slotP }

namespace State

/-- The threads of a group's set of a meeting value (R151). -/
def meetingSet (s : State) (gid : Nat) (m : Meeting) : List Nat :=
  (s.presentOf gid).filter (fun tid => let t := s.thread tid; decide (t.meet = some m) && !t.metInSlot)

/-- One set of a group released if all of it waits; its threads are eligible at the next tick (R151). -/
def settleMeeting (s : State) (gid : Nat) (m : Meeting) : State :=
  let set := s.meetingSet gid m
  if set ≠ [] ∧ set.all (fun tid => (s.thread tid).atMeeting) then
    (s.unbundle (set.filter (fun tid => decide ((s.thread tid).wait = .meeting)))).mapThreads (fun tid t =>
      if set.contains tid then releaseMeeting t else t)
  else s

/-- Every meeting of a group re-checked (R151). -/
def settleMeetings (s : State) (gid : Nat) : State :=
  ((s.presentOf gid).filterMap (fun tid => (s.thread tid).meet)).eraseDups.foldl (fun s m => s.settleMeeting gid m) s

/-- A context's node record (R313). -/
def node (s : State) (ctx n : Nat) : Node := (s.context ctx).nodes.getD n Node.free

def setNode (s : State) (ctx n : Nat) (v : Node) : State :=
  s.modContext ctx (fun c => { c with nodes := c.nodes.putD n v Node.free })

def command (s : State) (c : Nat) : Option Command := s.commands.get? c
def modCommand (s : State) (c : Nat) (f : Command → Command) : State := { s with commands := s.commands.modify c f }

/-- A command becomes ready, last of those that are (R308). -/
def makeReady (s : State) (c : Nat) : State :=
  { s.modCommand c (fun k => { k with state := .ready s.nextReady }) with nextReady := s.nextReady + 1 }

/-- A record whose count is 0 or below releases its waiting command; one that a HALT cancels completes at once (R312, R313). -/
def releaseNode (s : State) (ctx n : Nat) : State :=
  let v := s.node ctx n
  match v.cmd with
  | none => s
  | some c =>
    match s.command c with
    | none => s
    | some k =>
      if v.count ≤ 0 ∧ k.state = .waiting then
        if v.cancel then s.modCommand c (fun k => { k with state := .moved 3 0 }) else s.makeReady c
      else s

/-- 1 subtracted from a record's count, `cancel` by a completion with HALT that was not DONE (R312, R313). Node 0 names none. -/
def signal (s : State) (ctx n : Nat) (cancel : Bool) : State :=
  if n = 0 then s
  else
    let v := s.node ctx n
    (s.setNode ctx n { v with count := v.count - 1, cancel := v.cancel || cancel }).releaseNode ctx n

/-- A completed command leaves its record, whose count returns to 0 (R313). -/
def clearNode (s : State) (ctx n : Nat) : State := if n = 0 then s else s.setNode ctx n Node.free

end State

/-- A word of a command (R306). -/
def Command.word (c : Command) (k : Nat) : Word := c.words.getD k 0
/-- Two words of a command as a 64-bit value: a command is sixteen scalars, and the even one of a pair holds the high word (R12,
R337; 19 R343's table copies pointer pairs so). -/
def Command.pair (c : Command) (k : Nat) : DWord := ofWords (c.word k) (c.word (k + 1))
def Command.type (c : Command) : Nat := ((c.word 0).extractLsb' 24 8).toNat
def Command.flags (c : Command) : BitVec 8 := (c.word 0).extractLsb' 16 8
def Command.nodeId (c : Command) : Nat := ((c.word 0).extractLsb' 0 16).toNat
def Command.counted (c : Command) : Bool := (c.word 1).getLsbD 20
def Command.halt (c : Command) : Bool := (c.word 1).getLsbD 19
def Command.scope (c : Command) : Nat := ((c.word 1).extractLsb' 16 3).toNat
def Command.preds (c : Command) : Nat := ((c.word 1).extractLsb' 0 16).toNat
/-- SUCC0 to SUCC3 (R306). -/
def Command.succs (c : Command) : List Nat :=
  [((c.word 12).extractLsb' 0 16).toNat, ((c.word 12).extractLsb' 16 16).toNat,
    ((c.word 13).extractLsb' 0 16).toNat, ((c.word 13).extractLsb' 16 16).toNat]
def Command.record (c : Command) : Ptr := c.pair 14
/-- SSP and DSP (R315). -/
def Command.ssp (c : Command) : Bool := c.type == 2 && c.flags.getLsbD 1
def Command.dsp (c : Command) : Bool := (c.type == 2 || c.type == 3) && c.flags.getLsbD 2

namespace State

/-- Does a group count as triggered or ended (R331)? -/
def groupDone (s : State) (gid : Nat) : Bool :=
  (s.group gid).triggered || (s.threadsOf gid).all (fun t => decide ((s.thread t).life ≠ .running))

/-- The teams of a launch. -/
def teamsOf (s : State) (l : Nat) : List Nat := (s.teams.filter (fun e => e.2.launch == l)).map (·.1)

/-- At the moment a launch triggers, each successor whose record holds an accepted TRIGGERABLE LAUNCH is decremented (R331). -/
def settleTrigger (s : State) (l : Nat) : State :=
  let la := s.launch l
  let teams := s.teamsOf l
  if la.triggered || teams.length < la.teams || teams.any (fun k => decide ((s.team k).place = .pending))
      || !(teams.all (fun k => (s.groupsOf k).all (s.groupDone ·))) then s
  else
    match s.command la.cmd with
    | none => s.modLaunch l (fun la => { la with triggered := true })
    | some c =>
      let hit := (List.range 4).filter (fun j =>
        match (s.node c.ctx (c.succs.getD j 0)).cmd with
        | some d => match s.command d with
          | some e => e.type == 1 && e.flags.getLsbD 2 && c.succs.getD j 0 != 0
          | none => false
        | none => false)
      let s := s.modLaunch l (fun la => { la with triggered := true, signalled := hit })
      hit.foldl (fun s j => s.signal c.ctx (c.succs.getD j 0) false) s

/-- The die with the fewest pending teams, the lowest on a tie (R155). -/
def leastDie (s : State) : Nat :=
  (List.range 4).foldl (fun b d => if (s.die d).pending.length < (s.die b).pending.length then d else b) 0

/-- A unit of teams handed to a die: one team, or the teams of a gang (R155); a pinned team to the die of its service core (R362). -/
def handOver (s : State) (unit_ : List Nat) : State :=
  let d := (s.launch (s.team (unit_.headD 0)).launch).pin.getD s.leastDie
  let s := s.modDie d (fun x => { x with pending := x.pending ++ unit_ })
  unit_.foldl (fun s k => s.modTeam k (fun t => { t with die := d })) s

end State

/-- The page-sized pieces of a range of a segment (R273, R316): offset and length of each. -/
def pagePieces (off n : Nat) : List (Nat × Nat) :=
  if n = 0 then []
  else
    let first := off / 65536
    let last := (off + n - 1) / 65536
    (List.range (last - first + 1)).map (fun k =>
      let a := max off ((first + k) * 65536)
      (a, min (off + n) ((first + k + 1) * 65536) - a))

namespace State

/-- A range checked page by page (R233, R273): the first failing step's code and FAUX, with the offset it was met at. -/
def checkRange (s : State) (a : Agent) (p : Ptr) (n : Nat) (mis : Bool) (kind : Kind) : Option (Byte × Word × Nat) :=
  let off := offOf p
  let d := match a.core with | some c => s.descOn c a.ctx (segOf p) | none => s.descHome a.ctx (segOf p)
  if d.len < off + n ∨ mis then
    match s.checkAl a p n mis 0 kind with
    | .bad c x => some (c, x, off)
    | .ok _ _ => none
  else
    (pagePieces off n).findSome? (fun q =>
      match s.checkAl a (mkPtr (segOf p) q.1) q.2 false 0 kind with
      | .bad c x => some (c, x, q.1)
      | .ok _ _ => none)

/-- One access that may cross a page (R225, R233): every step is made for the whole access, and the steps of a page for each of its pages
before a later step; what it answers, and where the bytes of each page lie. -/
def checkSpan (s : State) (a : Agent) (ea : Ptr) (n : Nat) (mis : Bool) (size : Nat) (kind : Kind) : Checked × List (Loc × Nat) :=
  let ps := pagePieces (offOf ea) n
  let at_ (q : Nat × Nat) : Checked := s.checkAl a (mkPtr (segOf ea) q.1) q.2 mis size kind
  let rank (c : Byte) : Nat := if c = codeSegRights then 0 else c.toNat
  let worse (r q : Checked) : Checked :=
    match r, q with
    | .bad c _, .bad e _ => if rank e < rank c then q else r
    | .ok _ _, .bad _ _ => q
    | _, _ => r
  let whole := s.checkAl a ea n mis size kind
  (match whole with
    | .bad c _ => if c = codeSegInvalid ∨ c = codeSegBounds then whole else (ps.map at_).foldl worse whole
    | .ok _ _ => (ps.map at_).foldl worse whole,
   ps.filterMap (fun q => match at_ q with | .ok _ l => some (l, q.2) | .bad _ _ => none))

/-- A range of a segment as pieces of one page each, with where each lies (R257). -/
def pieces (s : State) (ctx : Nat) (p : Ptr) (n : Nat) : List (Loc × Nat) :=
  let d := s.descHome ctx (segOf p)
  (pagePieces (offOf p) n).filterMap (fun q =>
    (s.walk ctx (d.base + q.1)).map (fun e =>
      let a := pageFrame e + (d.base + q.1) % 65536
      (if d.type = 5 then Loc.far (.host a)
        else if d.type = 6 then .far (.panel (d.ltbf.extractLsb' 20 6).toNat (d.ltbf.extractLsb' 0 20).toNat q.1)
        else .home a, q.2)))

/-- What was read for a command, or for none: the bytes, for each byte whether its line was bad, and the code of the first bad line
(R380). -/
structure Fetched where
  cmd : Nat
  st : State
  bytes : List Byte
  bad : List Bool
  code : Option Byte

/-- The request by which an engine reads bytes of another module for a command (R398). -/
def peerAccess (s : State) (k : Nat) (p : Ptr) (m g o n : Nat) : Access where
  tid := 0
  cmd := k
  ctx := match s.command k with | some c => c.ctx | none => 0
  resets := match s.command k with | some c => c.resets | none => 0
  pc := 0
  addr := p
  far := .panel m g o
  kind := .read
  size := 0
  len := n
  next := 0
  dest := .nothing
  acquire := none
  spl := false
  issuedAt := s.cycle
  turn := s.turn
  op := .add
  signed := false
  compare := 0
  operand := 0
  data := []
  mask := 0
  sent := false
  done := none

/-- Up to 64 bytes of another module as command `k` reads them (R398): those its reply brought, none of a line in error there; until then a
request is asked for. -/
def fetchPeer (m g : Nat) (r : Fetched) (q : Nat × Nat) : Fetched :=
  match r.st.accesses.find? (fun e => e.2.cmd == r.cmd && decide (e.2.kind = .read) && decide (e.2.far = .panel m g q.1) && e.2.len == q.2) with
  | none =>
    let k := r.st.nextAccess
    { r with
      st := { r.st with accesses := r.st.accesses.put k (peerAccess r.st r.cmd 0 m g q.1 q.2), nextAccess := k + 1 }
      bytes := r.bytes ++ List.replicate q.2 0
      bad := r.bad ++ List.replicate q.2 false }
  | some e =>
    match e.2.done with
    | none => { r with bytes := r.bytes ++ List.replicate q.2 0, bad := r.bad ++ List.replicate q.2 false }
    | some bs =>
      { r with
        st := { r.st with accesses := r.st.accesses.erase e.1 }
        bytes := r.bytes ++ (List.range q.2).map (fun j => bs.getD j 0)
        bad := r.bad ++ List.replicate q.2 bs.isEmpty
        code := if bs.isEmpty then r.code.orElse (fun _ => some codePoison) else r.code }

/-- A range cut where 64-byte units end. -/
def lineCuts (a n : Nat) : List (Nat × Nat) :=
  (List.range (if n = 0 then 0 else (a + n - 1) / 64 - a / 64 + 1)).map (fun k =>
    let b := max a ((a / 64 + k) * 64)
    (b, min (a + n) ((a / 64 + k + 1) * 64) - b))

/-- One piece read at its home (R317, R380); of another module by requests for a command (R398), else a free value.
DESIGN CHOICE: log entry 9. -/
def fetchPiece (r : Fetched) (q : Loc × Nat) : Fetched :=
  match q.1 with
  | .home a =>
    let m := (linesOf a q.2).foldl (fun (b : State × List Nat × Option Byte) l =>
      let x := b.1.meetLine l
      match x.2 with
      | .sound => (x.1, b.2.1, b.2.2)
      | .uncorrectable => (x.1, l :: b.2.1, b.2.2.orElse (fun _ => some codeUncorrectable))
      | .poisoned => (x.1, l :: b.2.1, b.2.2.orElse (fun _ => some codePoison))) (r.st, [], r.code)
    ⟨r.cmd, m.1, r.bytes ++ m.1.homeBytes a q.2, r.bad ++ (List.range q.2).map (fun k => m.2.1.contains ((a + k) / 64)), m.2.2⟩
  | .far (.host h) => { r with bytes := r.bytes ++ r.st.hostMem.bytes h q.2, bad := r.bad ++ List.replicate q.2 false }
  | .far (.panel m g o) =>
    if r.cmd ≠ 0 then (lineCuts o q.2).foldl (fetchPeer m g) r
    else { r with
      bytes := r.bytes ++ (List.range q.2).map (fun k => Config.peerByte m g (o + k) r.st.turn)
      bad := r.bad ++ List.replicate q.2 false }

/-- The lines that an engine's lookups of a range read, page by page. -/
def spanLines (s : State) (ctx : Nat) (p : Ptr) (n : Nat) : List Nat :=
  (pagePieces (offOf p) n).flatMap (fun q => s.lookupLines none ctx none (mkPtr (segOf p) q.1))

/-- A checked range read for command `k`, or for none. -/
def fetch (s : State) (k ctx : Nat) (p : Ptr) (n : Nat) : Fetched :=
  (s.pieces ctx p n).foldl fetchPiece ⟨k, s.readLines (s.spanLines ctx p n), [], [], none⟩

/-- A range as an engine checks it: the whole span, any alignment unless `mis` (R316). -/
def engineCheck (s : State) (ctx : Nat) (p : Ptr) (n : Nat) (mis : Bool) (kind : Kind) : Option Byte :=
  (s.checkRange (engine ctx) p n mis kind).map (·.1)

/-- A range read for a command after its checks, page by page (R316, R380): the bytes, or the code of what fails.
DEDUCED: log entry 108. -/
def readRange (s : State) (k ctx : Nat) (p : Ptr) (n : Nat) : State × Except Byte (List Byte) :=
  if n = 0 then (s, .ok [])
  else
    match s.engineCheck ctx p n false .read with
    | some x => (s, .error x)
    | none => let r := s.fetch k ctx p n; (r.st, match r.code with | some x => .error x | none => .ok r.bytes)

/-- The sixteen words of a launch's parameter block; a pointer of 0 reads as zeros (R325). -/
def readParams (s : State) (k ctx : Nat) (p : Ptr) : State × Except Byte (List Word) :=
  if p = 0 then (s, .ok (List.replicate 16 0))
  else
    let r := s.readRange k ctx p 64
    (r.1, match r.2 with
      | .error e => .error e
      | .ok bs => .ok ((List.range 16).map (fun k => BitVec.ofNat 32 (leNat ((bs.drop (4 * k)).take 4)))))

end State

end Sys2Proof.Machine
end

