-- ==== Sys2Proof/Machine/Ops.lean ====
section
/-! DEFINITION. The shared operations of the instructions: how a team ends (08 R144, R145, 21 R381, R382), how an exception is
taken and returned from (20 R346 to R349, R353, R358, R374), and how an instruction runs over the threads of its bundle
(04 R75, R85, 08 R143, R149, R150). -/

namespace Sys2Proof.Machine

namespace State

/-- The number of a set of instances of a collective domain (R172): by team, by launch, or by context. -/
def setKey (team launch d level : Nat) : Nat :=
  if level = 0 then (16 * team + d) * 4 else if level = 1 then (16 * launch + d) * 4 + 1 else d * 4 + 2

/-- A member group that has ended is deducted from every instance it has not entered (R174). -/
def deductGroup (s : State) (gid : Nat) : State :=
  let ctx := s.ctxOf gid
  let k := teamOf gid
  let lost := (s.group gid).doms.filterMap (fun e =>
    e.2.decl.map (fun x => (setKey k (s.team k).launch e.1 x.level, e.2.count)))
  s.modContext ctx (fun c => { c with gone := c.gone ++ lost })

/-- The groups of a member team that never declared, up to the G of the declaration, are deducted at the team's end (R174). -/
def deductRest (s : State) (k : Nat) : State :=
  let gids := s.groupsOf k
  let lost := (List.range 16).flatMap (fun d =>
    match gids.findSome? (fun g => ((s.group g).domain d).decl) with
    | none => []
    | some x =>
      List.replicate (x.g - (gids.filter (fun g => ((s.group g).domain d).decl.isSome)).length)
        (setKey k (s.team k).launch d x.level, 0))
  s.modContext (s.launch (s.team k).launch).ctx (fun c => { c with gone := c.gone ++ lost })

/-- A launch all of whose teams have ended completes: its command waits for its completion record (R144, R327, R352), unless a context reset
has given it its status (R363).
DEDUCED: log entry 39. -/
def settleLaunch (s : State) (l : Nat) : State :=
  let la := s.launch l
  if la.teams ≤ la.ended then
    s.modCommand la.cmd (fun c => { c with
      state := match c.state, la.fault with
        | .running, some f => .moved 2 f.2
        | .running, none => .moved 1 0
        | st, _ => st })
  else s

/-- A running COPY or FILL that names a team's scratchpad (R316). -/
def copying (s : State) (team : Nat) : Bool :=
  s.commands.any (fun e =>
    let c := e.2
    let names (k : Nat) : Bool :=
      match c.pusher with
      | some g => decide (s.spadTeam g ((loWord (c.pair k)).extractLsb' 19 2).toNat = some team)
      | none => false
    decide (c.state = .running) && ((c.ssp && names 2) || (c.dsp && names 4)))

/-- Has a team ended, but for a copy of its scratchpad (R316)? -/
def teamOver (s : State) (k : Nat) : Bool := decide ((s.team k).place = .ended) || (s.team k).ending.isSome

/-- The threads of a team that ends stop without a record, and nothing they hold back takes place (R145). -/
def stopTeam (s : State) (k : Nat) : State :=
  let gids := s.groupsOf k
  let live := gids.filter (fun g => !(s.threadsOf g).all (fun t => decide ((s.thread t).life = .exited)))
  let s := live.foldl (fun s g => s.deductGroup g) s
  let s := s.deductRest k
  let s := s.mapThreads (fun tid t =>
    if teamOf (gidOf tid) = k ∧ t.life = .running then { t with life := .stopped, wait := .none, defPark := false } else t)
  gids.foldl (fun s g => (s.modGroup g (fun x => { x with spec := none, preempt := false, mqueue := [] })).endShadow g) s

/-- A team whose threads have stopped ends: its domain performs a dev release, its launch counts it and takes its fault code (R144, R266,
R352). -/
def closeTeam (s : State) (k : Nat) (code : Option Byte) (counted : Bool) : State :=
    let s := s.publishAll (s.groupsOf k) 3
    let t := s.team k
    let s := s.modTeam k (fun t => { t with place := .ended, endCode := code, ending := none })
    if counted then
      let s := s.modLaunch t.launch (fun l => { l with
        ended := l.ended + 1
        fault := match code, l.fault with
          | some c, none => some (t.index, c)
          | _, f => f })
      (s.settleLaunch t.launch).settleTrigger t.launch
    else s

/-- A team ends (R144, R145): at once, or, while a COPY or FILL that names its scratchpad runs, when that is over (R316). `counted` is
false for a gang that is relaunched (R382). DEDUCED: log entry 125. -/
def endTeam (s : State) (k : Nat) (code : Option Byte) (counted : Bool) : State :=
  if (s.team k).place = .ended then s
  else if (s.team k).ending.isSome then
    s.modTeam k (fun t => { t with ending := t.ending.map (fun e => (e.1, e.2 && counted)) })
  else
    let s := s.stopTeam k
    if s.copying k then s.modTeam k (fun t => { t with ending := some (code, counted) }) else s.closeTeam k code counted

/-- The teams that only waited for a copy of their scratchpad end (R316). -/
def settleEndings (s : State) : State :=
  s.teams.foldl (fun s e =>
    match (s.team e.1).ending with
    | some x => if s.copying e.1 then s else s.closeTeam e.1 x.1 x.2
    | none => s) s

/-- A new team record of a launch, pending at a die (R140, R155). -/
def newTeam (l index member : Nat) (gang : List Nat) (la : Launch) (params : List Word) (tile : Option Word) : Team :=
  { Team.blank with
    launch := l, index := index, place := .pending, gang := gang, member := member, tsize := la.tsize, kernel := la.kernel,
    params := params, tileId := tile }

/-- The killed gang of a RESTART launch starts again from its retained record, with its TEAM numbers and a parameter block read
afresh (R382). -/
def relaunch (s : State) (old : List Nat) (code : Byte) : State :=
  match old with
  | [] => s
  | k :: _ =>
    let l := (s.team k).launch
    let la := s.launch l
    match s.command la.cmd with
    | none => s
    | some c =>
      let r := s.readParams 0 c.ctx (c.pair 8)
      let s := r.1
      match r.2 with
      | .error e =>
        (s.modLaunch l (fun x => { x with ended := x.ended + old.length, fault := some ((s.team k).index, e) })).settleLaunch l
      | .ok ps =>
        let keys := (List.range old.length).map (s.nextTeam + ·)
        let gang := if 1 < old.length then keys else []
        let add := (List.range old.length).map (fun j =>
          let t := s.team (old.getD j 0)
          (s.nextTeam + j, newTeam l t.index t.member gang la ps t.tileId))
        let s := { s with teams := add.foldl (fun (m : Tab Team) (e : Nat × Team) => m.put e.1 e.2) s.teams, nextTeam := s.nextTeam + old.length }
        let _ := code
        s.handOver keys

/-- UNCORRECTABLE and SDC_MISMATCH end every team of the gang at once; a RESTART launch relaunches it at most three times
(R381, R382): the gang whole, so that a member counted as ended counts no more. DEDUCED: log entry 126. -/
def killGang (s : State) (k : Nat) (code : Byte) : State :=
  let t := s.team k
  let la := s.launch t.launch
  let all := if t.gang.length ≤ 1 then [k] else t.gang
  let unit_ := t.index / la.gang
  let again := la.restart && decide (la.kills.getD unit_ 0 < 3)
  let back := (all.filter (fun j => decide ((s.team j).place = .ended))).length
  let s := all.foldl (fun s j => s.endTeam j (some code) (!again)) s
  if again then
    (s.modLaunch t.launch (fun l => { l with
      kills := l.kills.put unit_ (l.kills.getD unit_ 0 + 1), ended := l.ended - back })).relaunch all code
  else s

end State

/-- The fault record written whole (R24, R25): V and the code, the offset of the instruction, the address, the lanes. -/
def Thread.record (t : Thread) (r : Raised) (pc : Ptr) (mask : Word) : Thread :=
  { t with
    fcode := BitVec.ofNat 32 (0x100 + r.code.toNat), fpc := BitVec.ofNat 32 (offOf pc), faddrLo := loWord r.addr,
    faddrHi := hiWord r.addr, fmask := mask, faux := r.aux }

/-- The number a slot entered now takes in the order of entry (R361). -/
def Thread.nextOrder (t : Thread) : Nat :=
  let o (sl : Option TrapSlot) : Nat := match sl with | some k => k.order | none => 0
  max (o t.slotS) (max (o t.slotF) (o t.slotP)) + 1

/-- A wait as a slot records it (R348): of a sleep what is left of its interval; a WAITC that has not ended, and a wait for the reply of a
split, are taken up again by the instruction itself. -/
def Wait.inSlot (now : Nat) : Wait → Wait
  | .nap u => .nap (u - now)
  | .bkoff u => .bkoff (u - now)
  | .waitc _ => .none
  | .reply => .none
  | w => w

/-- What a slot records of a thread (R347). -/
def Thread.toSlot (t : Thread) (now : Nat) (resume : Ptr) : TrapSlot :=
  ⟨resume, t.depth, t.cross.length, t.rpc, t.wait.inSlot now, t.after, t.inRep, false, false, t.nextOrder, t.pc, none⟩

/-- The trap slots (R347): stub, fault, pre-emption. -/
inductive SlotName where
  | stub | fault | preempt
  deriving DecidableEq, Repr

def Thread.slot (t : Thread) : SlotName → Option TrapSlot
  | .stub => t.slotS
  | .fault => t.slotF
  | .preempt => t.slotP

def Thread.setSlot (t : Thread) (n : SlotName) (v : Option TrapSlot) : Thread :=
  match n with
  | .stub => { t with slotS := v }
  | .fault => { t with slotF := v }
  | .preempt => { t with slotP := v }

/-- The thread redirected to a slot's entry: RPC 0, no wait, the PC at the entry (R347), whose turn to issue counts afresh (R152). -/
def Thread.enter (t : Thread) (now : Nat) (n : SlotName) (resume entry : Ptr) : Thread :=
  { t.setSlot n (some (t.toSlot now resume)) with
    rpc := 0, wait := .none, inRep := false, pair := none, released := false, pc := entry, idleTicks := 0 }

/-- The resume point of a waiting thread (R348), or of an interrupted one (R353). -/
def Thread.waitResume (t : Thread) : Ptr :=
  match t.wait with
  | .barrier _ _ _ _ => if t.inRep then t.pc else t.after
  | .nap _ => if t.inRep then t.pc else t.after
  | .bkoff _ => if t.inRep then t.pc else t.after
  | .svc => t.after
  | _ => t.pc

/-- A WAITC that has not ended, and an instruction that awaits a split's reply, are issued again afterwards: their waits are not of
R348's. -/
def Thread.dropWaitc (t : Thread) : Thread :=
  match t.wait with
  | .waitc _ => { t with wait := .none }
  | .reply => { t with wait := .none }
  | _ => t

namespace State

/-- A group's handler pointer (R346). DEDUCED: log entry 110. -/
def handler (s : State) (gid : Nat) : Ptr := let g := s.group gid; mkPtr g.thndSeg g.thnd.toNat

/-- The stub pointer, if it is usable for a fault of an instruction at `pc`: it names a CODE segment with STUB = 1 and the
instruction does not lie in one (R245). -/
def stub (s : State) (gid : Nat) (pc : Ptr) : Option Ptr :=
  let core := (s.group gid).core
  let ctx := s.ctxOf gid
  let d := s.descOn core ctx 4
  let own := s.descOn core ctx (segOf pc)
  if !d.valid || (own.valid && own.type == 1 && own.stub) then none
  else
    match s.pageOn (some core) ctx d.base with
    | none => none
    | some e =>
      let p : Ptr := s.homeWord (pageFrame e + d.base % 65536)
      let t := s.descOn core ctx (segOf p)
      if t.valid && t.type == 1 && t.stub then some p else none

/-- The home lines that hold the stub pointer (R245). -/
def stubLines (s : State) (gid : Nat) : List Nat :=
  let core := (s.group gid).core
  let d := s.descOn core (s.ctxOf gid) 4
  match s.pageOn (some core) (s.ctxOf gid) d.base with
  | none => []
  | some e => linesOf (pageFrame e + d.base % 65536) 8

/-- Does a group speculate with this thread among its participants (R176)? -/
def speculates (s : State) (tid : Nat) : Bool :=
  match (s.group (gidOf tid)).spec with
  | some sp => sp.participants.contains tid
  | none => false

/-- TAKING AN EXCEPTION (R347): the record is written, then the thread enters its slot at the resolver stub or the handler, or its team or
gang ends (R145, R349, R350, R381), unless a fault of the same moment has ended it. `pc` is what FPC records, `resume` the slot's resume
pointer. -/
def take (s : State) (r : Raised) (pc resume : Ptr) (mask : Word) : State :=
  let gid := gidOf r.tid
  let s := s.modThread r.tid (fun t => t.record r pc mask)
  if s.teamOver (teamOf gid) then s
  else if r.code = codeUncorrectable ∨ r.code = codeSdc then s.killGang (teamOf gid) r.code
  else if r.code = codeLease ∨ r.code = codeContextReset then s.endTeam (teamOf gid) (some r.code) true
  else
    match (if r.code = codeLinkUnbound then s.stub gid pc else none) with
    | some p =>
      if (s.thread r.tid).slotS.isSome then s.endTeam (teamOf gid) (some r.code) true
      else (s.readLines (s.stubLines gid)).modThread r.tid (fun t => t.enter s.cycle .stub resume p)
    | none =>
      if (s.group gid).thnd = 0 ∨ (s.thread r.tid).slotF.isSome then s.endTeam (teamOf gid) (some r.code) true
      else s.modThread r.tid (fun t => t.enter s.cycle .fault resume (s.handler gid))

/-- A fault of a speculating thread is held and the thread stops; every other is taken at once (R179), and so are the two that are
asynchronous and kill the gang (R381). DEDUCED: log entry 123. -/
def deliver (s : State) (r : Raised) (pc resume : Ptr) (mask : Word) : State :=
  if s.speculates r.tid && r.code != codeUncorrectable && r.code != codeSdc then
    (s.modGroup (gidOf r.tid) (fun g => { g with spec := g.spec.map (fun sp =>
      { sp with faults := sp.faults ++ [⟨r, pc, resume, mask⟩] }) })).modThread r.tid (fun t => { t with wait := .held })
  else s.take r pc resume mask

/-- FMASK of a thread's fault: the home lanes of its half of its group that faulted on the same issue (R25, R149).
DEDUCED: log entry 103. -/
def faultMask (rs : List Raised) (tid : Nat) : Word :=
  BitVec.ofNat 32 (((rs.map (·.tid)).filter (fun t => gidOf t == gidOf tid && laneOf t / 32 == laneOf tid / 32)).eraseDups.foldl
    (fun m t => m + 2 ^ (laneOf t % 32)) 0)

/-- Where a thread resumes after a precise fault: SW_TRAP after the TRAP, every other at the instruction, of a REP pair at the
REP (R347). -/
def resumeOf (s : State) (r : Raised) : Ptr := if r.code = codeTrap then s.issue.next else s.issue.pc

/-- The faults of one issue, each thread's taken in turn (R149). DEDUCED: log entry 93. -/
def deliverAll (s : State) (rs : List Raised) : State :=
  rs.foldl (fun s r => s.deliver r s.issue.pc (s.resumeOf r) (faultMask rs r.tid)) s

/-- PREEMPT reaches one thread (R347, R348, R353, R358): it enters slot P at the handler plus 16, or with THND = 0 the default
handler parks it; a thread whose slot P is active receives none. UNVERIFIED: log entry 65. -/
def preemptThread (s : State) (tid : Nat) : State :=
  let t := s.thread tid
  let gid := gidOf tid
  if t.life ≠ .running ∨ t.slotP.isSome then s
  else if (s.group gid).thnd = 0 then s.modThread tid (fun t => { t.dropWaitc with defPark := true })
  else
    s.modThread tid (fun t => let t := t.dropWaitc; t.enter s.cycle .preempt t.waitResume (mkPtr (segOf (s.handler gid)) (offOf (s.handler gid) + 16)))

/-- PREEMPT for a group: held while its branch or sync instance is unresolved (R184, R353), and while an acquiring ATOM or load of
it is no instruction boundary yet (R271). DEDUCED: log entry 31. -/
def preemptGroup (s : State) (gid : Nat) : State :=
  let g := s.group gid
  let busy := g.spec.isSome || g.doms.any (fun e => e.2.inFlight)
    || (s.presentOf gid).any (fun t => match (s.thread t).wait with | .acquire _ => true | _ => false)
  if busy then s.modGroup gid (fun g => { g with preempt := true })
  else (s.presentOf gid).foldl (fun s t => s.preemptThread t) (s.modGroup gid (fun g => { g with preempt := false }))

/-- Pre-emption of a launch on a core: every resident team of it there, a team on a pair on both of its cores (R353). -/
def preemptLaunch (s : State) (l core : Nat) : State :=
  let ks := (s.teamsOf l).filter (fun k => decide ((s.team k).place = .resident) && !s.teamOver k && (s.team k).cores.contains core)
  ks.foldl (fun s k =>
    (s.groupsOf k).foldl (fun s g => s.preemptGroup g) (s.modTeam k (fun t => { t with preempting := true }))) s

end State

/-- The innermost active slot (R374). -/
def Thread.innermost (t : Thread) : Option (SlotName × TrapSlot) :=
  let all := ([SlotName.stub, .fault, .preempt].filterMap (fun n => (t.slot n).map (fun k => (n, k))))
  all.foldl (fun b e => match b with
    | none => some e
    | some x => if x.2.order < e.2.order then some e else some x) none

/-- THE RETURN FROM AN EXCEPTION (R374, R348): the depth, crossing count and RPC come back, the slot is inactive, and the thread
resumes, or its wait goes on, for a sleep the rest of its interval, or the effects of a wait that ended meanwhile take place; one that a
fault ended stands at its own instruction, where the fault is raised. `now` is the cycle. DEDUCED: log entry 142. -/
def Thread.returnFrom (t : Thread) (now : Nat) (n : SlotName) (k : TrapSlot) : Thread :=
  let t := { t.setSlot n none with
    depth := k.depth, cross := t.cross.drop (t.cross.length - k.crossings), rpc := k.rpc, pc := if k.fault.isSome then k.self else k.resume, after := k.after,
    inRep := k.inRep && decide (k.rpc ≠ 0), pair := none, wait := .none }
  match k.wait with
  | .none => t
  | .meeting => if k.ended then { t.popMeet with released := true } else { t with wait := .meeting }
  | .barrier b ph dest all =>
    if k.ended then (if dest < 16 then t.setPred dest k.vote else t).finish else { t with wait := .barrier b ph dest all }
  | .nap left => { t with wait := .nap (now + left) }
  | .bkoff left => { t with wait := .bkoff (now + left) }
  | .gen => if k.ended then { t with pc := k.after } else { t with wait := .gen }
  | w => { t with wait := w }

namespace State

/-- The lanes of a group that hold a non-exited thread of the bundle's issue, and whether that is all of the group's (R150). -/
def converged (s : State) (gid : Nat) : Bool :=
  (s.presentOf gid).all (fun t => s.issue.threads.contains t)

/-- The present home lanes as a lane mask in the FMASK layout of a thread's half (R150). -/
def presentMask (s : State) (tid : Nat) : Word :=
  BitVec.ofNat 32 ((s.issue.threads.filter (fun t => gidOf t == gidOf tid && laneOf t / 32 == laneOf tid / 32)).foldl
    (fun m t => m + 2 ^ (laneOf t % 32)) 0)

end State

/-- The majors whose instructions need a converged group (R150). -/
def needsConverged (maj : Nat) : Bool := [0x18, 0x19, 0x23, 0x24, 0x25].contains maj

/-- The home-group majors (R150). -/
def homeGroup (maj : Nat) : Bool := [0x14, 0x16, 0x17].contains maj || needsConverged maj

/-- FAUX of GEN_CONFIG (R198). -/
def genAux (reason detail : Nat) : Word := BitVec.ofNat 32 (reason * 2 ^ 28 + detail)

/-- Instructions a generator region forbids (R197): the reason, if the group's mode does not allow the instruction. -/
def genForbids (gen : Option Gen) (w : Nat) (f : Fields) : Option Word :=
  let sync := (f.maj == 0x15 && f.mn < 4) || (f.maj == 0x16 && f.mn < 3) || (f.maj == 0x0E && f.mn == 7)
  match gen with
  | none => if f.maj = 0x17 ∧ (f.mn = 1 ∨ f.mn = 2 ∨ f.mn = 3 ∨ f.mn = 4) then some (genAux 8 f.maj) else none
  | some g =>
    if f.maj = 0x17 ∧ f.mn = 0 then some (genAux 5 f.maj)
    else if sync then some (genAux 6 f.maj)
    else if f.maj = 0x17 ∧ (if g.consumer then f.mn = 1 ∨ f.mn = 2 ∨ f.mn = 4 else f.mn = 3) then some (genAux 6 f.maj)
    else if g.consumer then
      match (vecsWritten w f).filter (fun n => g.pb ≤ n && n < g.pb + g.f) with
      | [] => none
      | n :: r => some (genAux 7 (r.foldl min n))
    else none

namespace State

/-- The decoding faults (PRIVILEGED also for SRD and SWR of the indices 0x80 to 0x8F, R14) of an encoded instruction in a thread whose
guard is true, in the order of R85 and R150, then GEN_CONFIG (R198): RESERVED_FIELD, REG_BOUNDS, PRIVILEGED, PARTIAL_MASK. -/
def decodeFault (s : State) (f : Fields) (tid : Nat) : Option Flt :=
  let gid := gidOf tid
  let w := s.widthOf gid
  if !fieldsOk w f then some ⟨codeReserved, 0, f.w0⟩
  else
    match beyond w (s.countsOf gid) f with
    | (cls, n) :: _ => some ⟨codeRegBounds, 0, BitVec.ofNat 32 (cls * 256 + n)⟩
    | [] =>
      if (f.maj = 0x39 ∧ !(s.teamAt gid).kernel) ∨ (f.maj = 0x07 ∧ (f.mn = 4 ∨ f.mn = 5) ∧ 0x80 ≤ f.b) then
        some ⟨codePrivileged, 0, f.w0⟩
      else if needsConverged f.maj && !s.converged gid then some ⟨codePartialMask, 0, s.presentMask tid⟩
      else (genForbids (s.group gid).gen w f).map (fun a => ⟨codeGen, 0, a⟩)

/-- The threads of the bundle whose guard is true (R75). -/
def guarded (s : State) (f : Fields) : List Nat := s.issue.threads.filter (fun t => (s.thread t).guard f)

/-- The fault of one guarded thread: decoding first, then the instruction's own check; GEN_CONFIG comes after a REG_BOUNDS of the
instruction's own (R27, R85, R198). -/
def faultOf (s : State) (f : Fields) (own : Nat → Option Flt) (tid : Nat) : Option Flt :=
  match s.decodeFault f tid with
  | none => own tid
  | some e => some (if e.code = codeGen then ((own tid).filter (fun x => x.code == codeRegBounds)).getD e else e)

/-- The faults of the guarded threads. -/
def raisedBy (s : State) (f : Fields) (own : Nat → Option Flt) : List Raised :=
  (s.guarded f).filterMap (fun tid => (s.faultOf f own tid).map (fun x => ⟨tid, x.code, x.addr, x.aux⟩))

/-- The guarded threads that take the instruction's effect (R149). -/
def acting (s : State) (f : Fields) (own : Nat → Option Flt) : List Nat :=
  let rs := (s.raisedBy f own).map (·.tid)
  (s.guarded f).filter (fun t => !rs.contains t)

/-- The instruction's completion for the threads of a list: they go on behind it (R62, R111). -/
def advanceAll (s : State) (tids : List Nat) : State :=
  s.mapThreads (fun tid t => if tids.contains tid then { t.advance s.issue.next with issued := true } else t)

/-- The threads of the bundle whose guard is false continue at the next instruction (R75). -/
def unguarded (s : State) (f : Fields) : List Nat := s.issue.threads.filter (fun t => !(s.thread t).guard f)

/-- AN INSTRUCTION OVER ITS BUNDLE (R75, R85, R143, R149): each guarded thread that meets no fault takes `act`, computed from
the state before the instruction, and goes on; threads whose guard is false go on; the scalar results reach every group with a
thread that acts; then the faults are delivered. -/
def runPlain (s : State) (f : Fields) (own : Nat → Option Flt) (act : Nat → Thread → Thread)
    (scal : Nat → List (Nat × Word)) : State :=
  let ok := s.acting f own
  let s1 := s.mapThreads (fun tid t => if ok.contains tid then act tid t else t)
  let s2 := s1.writeScalars (groupsIn ok) scal
  let s3 := s2.advanceAll (s.unguarded f ++ ok)
  s3.deliverAll (s.raisedBy f own)

/-- The same for an instruction whose effect is on the whole state: `eff` receives the threads that act. -/
def runState (s : State) (f : Fields) (own : Nat → Option Flt) (eff : List Nat → State → State) : State :=
  let ok := s.acting f own
  let s1 := if ok = [] then s else eff ok s
  let s2 := s1.advanceAll (s.unguarded f ++ ok)
  s2.deliverAll (s.raisedBy f own)

/-- The same for an instruction that itself says where its acting threads go on (a branch, a wait). -/
def runFlow (s : State) (f : Fields) (own : Nat → Option Flt) (eff : List Nat → State → State) : State :=
  let ok := s.acting f own
  let s1 := if ok = [] then s else eff ok s
  let s2 := s1.advanceAll (s.unguarded f)
  s2.deliverAll (s.raisedBy f own)

/-- No fault of an instruction's own. -/
def noFault : Nat → Option Flt := fun _ => none

end State

end Sys2Proof.Machine
end

