-- ==== Sys2Proof/Machine/Operands.lean ====
section
/-! DEFINITION. Reading operands and writing results through an instruction's fields (04 R68 to R73, 05 R88): vector or scalar by
the class bits, pairs for 64-bit types, literals and X; and the two shapes of instruction that compute one register result. -/

namespace Sys2Proof

open Machine

/-- The width of an integer type code: b32, b64, b16, b8 (R48). -/
def typeBits (ty : Nat) : Nat :=
  match ty with
  | 0 => 32
  | 1 => 64
  | 2 => 16
  | _ => 8

/-- A register operand of 32 bits, or a pair for b64, vector or scalar (R12, R72). -/
def readOp (wide scalar : Bool) (num : Nat) (g : Group) (t : Thread) : DWord :=
  match scalar, wide with
  | true, true => g.sreg64 num
  | true, false => (g.sreg num).setWidth 64
  | false, true => t.reg64 num
  | false, false => (t.reg num).setWidth 64

/-- Operand A. -/
def Fields.opA (f : Fields) (wide : Bool) (g : Group) (t : Thread) : DWord := readOp wide f.ca f.a g t

/-- Operand B: a register, or X or the literal (R69, R73). -/
def Fields.opB (f : Fields) (wide : Bool) (g : Group) (t : Thread) : DWord :=
  if f.hasImm then (if wide then f.imm64 else f.imm32.setWidth 64) else readOp wide f.cb f.b g t

/-- Operand C. -/
def Fields.opC (f : Fields) (wide : Bool) (g : Group) (t : Thread) : DWord := readOp wide f.cs f.c g t

/-- Operand D where it is read (ATOM.cas). -/
def Fields.opD (f : Fields) (wide : Bool) (g : Group) (t : Thread) : DWord := readOp wide f.cd f.d g t

/-- Is the instruction's type code b64? -/
def Fields.is64 (f : Fields) : Bool := f.ty == 1

/-- A result written to a vector D; a scalar D leaves the thread unchanged (R72, R88). -/
def Fields.toVec (f : Fields) (wide : Bool) (x : DWord) (t : Thread) : Thread :=
  if f.cd then t else if wide then t.setReg64 f.d x else t.setReg f.d (loWord x)

/-- A result as the scalars it writes: none for a vector D and for sz (R9, R12, R143). -/
def Fields.toScal (f : Fields) (wide : Bool) (x : DWord) : List (Nat × Word) :=
  if !f.cd || f.d == 127 then [] else if wide then [(f.d, hiWord x), (f.d + 1, loWord x)] else [(f.d, loWord x)]

end Sys2Proof

namespace Sys2Proof.Machine

/-- The threads of a group in a list. -/
def ofGroup (tids : List Nat) (gid : Nat) : List Nat := tids.filter (fun t => gidOf t == gid)

namespace State

/-- The acting thread whose predicates and FPCR govern a scalar result that depends on the thread: the manual names none, so it
is a free choice among the acting threads of the group (log entry 10). -/
def pick (s : State) (tids : List Nat) : Nat := tids.getD (Config.pick s.turn % tids.length) 0

/-- An instruction with one register result and no flags (R8, R88, R143). -/
def runValue (s : State) (f : Fields) (own : Nat → Option Flt) (wide : Bool) (val : Group → Thread → DWord) : State :=
  let ok := s.acting f own
  s.runPlain f own (fun tid t => f.toVec wide (val (s.group (gidOf tid)) t) t)
    (fun gid => f.toScal wide (val (s.group gid) (s.thread (s.pick (ofGroup ok gid)))))

/-- An instruction with one register result and flags: every acting thread ORs the flags it computes (R34, R143). -/
def runFloat (s : State) (f : Fields) (wide : Bool) (val : Group → Thread → DWord × Flags) : State :=
  let ok := s.acting f noFault
  s.runPlain f noFault
    (fun tid t => let r := val (s.group (gidOf tid)) t; (f.toVec wide r.1 t).orFlags r.2)
    (fun gid => f.toScal wide (val (s.group gid) (s.thread (s.pick (ofGroup ok gid)))).1)

/-- An instruction that writes predicate D of each acting thread. -/
def runPred (s : State) (f : Fields) (own : Nat → Option Flt) (val : Group → Thread → Bool) : State :=
  s.runPlain f own (fun tid t => t.setPred f.d (val (s.group (gidOf tid)) t)) (fun _ => [])

end State

end Sys2Proof.Machine
end

