-- ==== Sys2Proof/Machine/Barrier.lean ====
section
/-! DEFINITION. SYNC (09 R165 to R171) and its events: barrier arrival and the barrier timer (08 R153, R154), meetings (08 R151),
NAP, BKOFF and their wakes. -/

namespace Sys2Proof.Machine

/-- The barrier an instruction names. -/
def barId (f : Fields) : Nat := f.c % 16

namespace State

/-- One thread arrives at a barrier (R166): the arrival is a team-scope release. -/
def arriveOne (s : State) (tid bar : Nat) (vote : Option Bool) : State :=
  if (s.barrier (teamOf (gidOf tid)) bar).arrived.contains tid then s
  else (s.arrive tid bar vote).publish (gidOf tid) 1

/-- One thread waits for the phase in progress (R153, R166). -/
def waitBarrier (s : State) (tid bar dest : Nat) (all : Bool) : State :=
  let ph := (s.barrier (teamOf (gidOf tid)) bar).phase
  s.modThread tid (fun t => { t with wait := .barrier bar ph dest all, after := s.issue.next, issued := true })

end State

/-- BAR: arrives and waits (R166). DEDUCED: log entry 114. -/
def xBar (f : Fields) (s : State) : State :=
  s.runFlow f State.noFault (fun ok s1 =>
    let s2 := ok.foldl (fun s t => (s.arriveOne t (barId f) none).waitBarrier t (barId f) 16 false) s1
    s2.settleBarrier s.issue.team (barId f))

/-- BARA: arrives with a vote input and goes on (R166). -/
def xBara (f : Fields) (s : State) : State :=
  s.runState f State.noFault (fun ok s1 =>
    let s2 := ok.foldl (fun s' t => s'.arriveOne t (barId f) (some ((s.thread t).pred f.a))) s1
    s2.settleBarrier s.issue.team (barId f))

/-- BARW: arrives with a vote input, waits, and takes the vote (R166). -/
def xBarw (f : Fields) (s : State) : State :=
  s.runFlow f State.noFault (fun ok s1 =>
    let s2 := ok.foldl (fun s' t =>
      (s'.arriveOne t (barId f) (some ((s.thread t).pred f.a))).waitBarrier t (barId f) f.d (f.modBit 0)) s1
    s2.settleBarrier s.issue.team (barId f))

/-- BARI: the expected count, now if the phase has no arrivals, otherwise from the next phase; the highest TIDX supplies it, and
0 counts the threads that have not exited (R167). -/
def xBari (f : Fields) (s : State) : State :=
  s.runState f State.noFault (fun ok s1 =>
    let k := s.issue.team
    let tid := lastOf ok
    let v := (f.opB false (s.group (gidOf tid)) (s.thread tid)).toNat
    let e := if v = 0 then ((s.threadsOfTeam k).filter (fun t => decide ((s.thread t).life ≠ .exited))).length else v
    let b := s1.barrier k (barId f)
    let b : Barrier := { b with bari := if s.issue.core % 2 = 1 then s.cycle + 1 else b.bari }
    s1.setBarrier k (barId f)
      (if b.arrived = [] then { b with e := e, pendingE := none, nextDrop := 0 } else { b with pendingE := some e }))
where
  /-- The highest TIDX of a list of threads. -/
  lastOf (tids : List Nat) : Nat := tids.foldl max 0

/-- The meeting value MEET sets (R168). -/
def meetValue (f : Fields) (self : Ptr) (t : Thread) : Meeting :=
  ⟨mkPtr (segOf self) (((offOf self : Int) + 4 * f.x.toInt) % 2 ^ 32).toNat,
    t.depth + (BitVec.ofNat 8 f.c).signExtend 16⟩

/-- MEET: the current value is pushed and a new one set; with 8 stacked, MEET_DEPTH (R168). -/
def xMeet (f : Fields) (s : State) : State :=
  s.runState f
    (fun tid =>
      let t := s.thread tid
      if t.meet.isSome && decide (8 ≤ t.meets.length) then
        some ⟨codeMeetDepth, 0, BitVec.ofNat 32 (offOf (meetValue f s.issue.self t).at_)⟩
      else none)
    (fun ok s1 =>
      let s2 := s1.mapThreads (fun tid t => if ok.contains tid then
        { t with meet := some (meetValue f s.issue.self t),
                 meets := match t.meet with | some m => m :: t.meets | none => t.meets } else t)
      (State.groupsIn ok).foldl (fun s g => s.settleMeetings g) s2)

/-- MEET.pop (R168). -/
def xMeetPop (f : Fields) (s : State) : State :=
  s.runState f State.noFault (fun ok s1 =>
    let s2 := s1.mapThreads (fun tid t => if ok.contains tid then t.popMeet else t)
    (State.groupsIn ok).foldl (fun s g => s.settleMeetings g) s2)

/-- NAP: ineligible for up to 2^24 cycles (R169). -/
def xNap (f : Fields) (s : State) : State :=
  s.runFlow f State.noFault (fun ok s1 =>
    s1.mapThreads (fun tid t => if ok.contains tid then
      { t with wait := .nap (s.cycle + min (f.opB false (s.group (gidOf tid)) t).toNat (2 ^ 24)), after := s.issue.next,
               issued := true } else t))

/-- BKOFF (R170): a successful poll returns the group to its launch's level; a failed one raises the level and its participants
sleep. -/
def xBkoff (f : Fields) (s : State) : State :=
  let won (ok : List Nat) (gid : Nat) : Bool := (ofGroup ok gid).any (fun t => (s.thread t).pred f.a)
  let level (ok : List Nat) (gid : Nat) : Nat :=
    if won ok gid then (s.launchOf gid).prio else min ((s.group gid).level + 1) 7
  s.runFlow f State.noFault (fun ok s1 =>
    let s2 := { s1 with groups := s1.groups.mapKV (fun gid g =>
      if (State.groupsIn ok).contains gid then { g with level := level ok gid } else g) }
    s2.mapThreads (fun tid t =>
      if ok.contains tid then
        if won ok (gidOf tid) then { t.advance s.issue.next with issued := true }
        else { t with wait := .bkoff (s.cycle + 16 * 2 ^ level ok (gidOf tid)), after := s.issue.next, issued := true }
      else t))

/-- MEETING_ARRIVAL (R151): a thread about to execute its meeting address at its meeting depth waits; the set may be complete.
While a trap slot is active a thread never arrives (R348). -/
def arrives (t : Thread) : Bool :=
  t.ready && !t.inHandler && !t.released && decide (t.meet = some ⟨t.pc, t.depth⟩)

def evMeetingArrival (s : State) : State :=
  match s.subject with
  | .thread tid =>
    if arrives (s.thread tid) then
      (s.modThread tid (fun t => { t with wait := .meeting })).settleMeeting (gidOf tid) ⟨(s.thread tid).pc, (s.thread tid).depth⟩
    else s
  | _ => s

/-- Has a barrier's timer reached its limit (R154)? A limit of 0 disables it, and it pauses while the team is parked (R357). -/
def stalled (s : State) (k bar : Nat) : Bool :=
  let b := s.barrier k bar
  b.limit != 0 && b.arrived != [] && decide (b.start + b.limit ≤ s.cycle) && decide ((s.team k).place = .resident)

/-- BARRIER_STALL (R154): the arrivals of the phase are discarded and every waiting thread faults on its BAR or BARW; one whose wait stands
in a trap slot at its return (R348). DEDUCED: log entry 28. -/
def evBarrierStall (s : State) : State :=
  match s.subject with
  | .barrier k bar =>
    if stalled s k bar then
      let b := s.barrier k bar
      let aux : Word := BitVec.ofNat 32 (b.arrived.length * 65536 + bar)
      let waits := (s.threadsOfTeam k).filter (fun t => Wait.atBarrier bar (s.thread t).wait)
      let rs := waits.map (fun t => (⟨t, codeBarrierStall, 0, aux⟩ : Raised))
      let s := s.setBarrier k bar { b with arrived := [], votes := [], start := 0, limit := 0 }
      let s := s.mapThreads (fun tid t =>
        if teamOf (gidOf tid) = k then t.failHeld (Wait.atBarrier bar) codeBarrierStall aux else t)
      rs.foldl (fun s r =>
        let pc := (s.thread r.tid).pc
        (s.modThread r.tid (fun t => { t with wait := .none })).deliver r pc pc (State.faultMask rs r.tid)) s
    else s
  | _ => s

/-- NAP_WAKE (R169): an interval that has passed ends, unless the team is parked; the thread joins a bundle at the next tick. -/
def evNapWake (s : State) : State :=
  match s.subject with
  | .thread tid =>
    match (s.thread tid).wait with
    | .nap u => if u ≤ s.cycle ∧ (s.teamAt (gidOf tid)).place = .resident then s.modThread tid Thread.finish else s
    | _ => s
  | _ => s

/-- BKOFF_WAKE (R170). -/
def evBkoffWake (s : State) : State :=
  match s.subject with
  | .thread tid =>
    match (s.thread tid).wait with
    | .bkoff u => if u ≤ s.cycle ∧ (s.teamAt (gidOf tid)).place = .resident then s.modThread tid Thread.finish else s
    | _ => s
  | _ => s

/-! The meaning of each row of the table of operations. -/

/-- BAR (R166). -/
def execBar (f : EForm) (s : State) : Host.Outcome State Fault Refusal := .next (xBar (wideFields 0x15 0 f) s)

/-- BARA (R166). -/
def execBara (f : EForm) (s : State) : Host.Outcome State Fault Refusal := .next (xBara (wideFields 0x15 1 f) s)

/-- BARW (R166). -/
def execBarw (f : EForm) (s : State) : Host.Outcome State Fault Refusal := .next (xBarw (wideFields 0x15 2 f) s)

/-- BARI (R167). -/
def execBari (f : EForm) (s : State) : Host.Outcome State Fault Refusal := .next (xBari (wideFields 0x15 3 f) s)

/-- BARRIER_STALL (R154). -/
def execBarrierStall (s : State) : Host.Outcome State Fault Refusal := .next (evBarrierStall s)

/-- MEET (R168). -/
def execMeet (f : EForm) (s : State) : Host.Outcome State Fault Refusal := .next (xMeet (wideFields 0x15 4 f) s)

/-- MEET_POP (R168). -/
def execMeetPop (f : EForm) (s : State) : Host.Outcome State Fault Refusal := .next (xMeetPop (wideFields 0x15 4 f) s)

/-- MEETING_ARRIVAL (R151). -/
def execMeetingArrival (s : State) : Host.Outcome State Fault Refusal := .next (evMeetingArrival s)

/-- NAP (R169). -/
def execNap (f : EForm) (s : State) : Host.Outcome State Fault Refusal := .next (xNap (wideFields 0x15 5 f) s)

/-- NAP_WAKE (R169). -/
def execNapWake (s : State) : Host.Outcome State Fault Refusal := .next (evNapWake s)

/-- BKOFF (R170). -/
def execBkoff (f : EForm) (s : State) : Host.Outcome State Fault Refusal := .next (xBkoff (wideFields 0x15 6 f) s)

/-- BKOFF_WAKE (R170). -/
def execBkoffWake (s : State) : Host.Outcome State Fault Refusal := .next (evBkoffWake s)

end Sys2Proof.Machine
end

