-- ==== Sys2Proof/Machine/Flow.lean ====
section
/-! DEFINITION. BRA, CALL and FLOW but for REP (05 R102 to R108, 14 R252): branches, calls, returns, frames, TRAP and EXIT. -/

namespace Sys2Proof.Machine

/-- The code pointer a signed word offset from an instruction's own address names: the current segment, the offset modulo 2^32
(R102). -/
def codeTarget (self : Ptr) (x : Int) : Ptr := mkPtr (segOf self) (((offOf self : Int) + 4 * x) % 2 ^ 32).toNat

/-- The threads of a list continue at `tgt`. -/
def jumpTo (ok : List Nat) (tgt : Nat → Thread → Ptr) (s : State) : State :=
  s.mapThreads (fun tid t => if ok.contains tid then { t with pc := tgt tid t, issued := true } else t)

/-- BRA (R102). -/
def xBra (f : Fields) (s : State) : State :=
  s.runFlow f State.noFault (fun ok s1 => jumpTo ok (fun _ _ => codeTarget s.issue.self f.x.toInt) s1)

/-- The link register written and the call depth raised (R103). -/
def Thread.link (t : Thread) (next : Ptr) : Thread :=
  { t.setReg 29 (BitVec.ofNat 32 (offOf next)) with depth := t.depth + 1 }

/-- CALL (R103). -/
def xCall (f : Fields) (s : State) : State :=
  s.runFlow f State.noFault (fun ok s1 =>
    s1.mapThreads (fun tid t => if ok.contains tid then
      { t.link s.issue.next with pc := codeTarget s.issue.self f.x.toInt, issued := true } else t))

/-- The 32-bit target of RET, JMPI and CALLI, read before any write (R105). -/
def flowTarget (f : Fields) (s : State) (tid : Nat) : Word := loWord (f.opA false (s.group (gidOf tid)) (s.thread tid))

/-- A target that is not a multiple of 4: MISALIGNED of kind fetch, size b32 (R105). -/
def flowFault (f : Fields) (s : State) (tid : Nat) : Option Flt :=
  let t := flowTarget f s tid
  if t.extractLsb' 0 2 != 0 then some ⟨codeMisaligned, mkPtr (segOf s.issue.self) t.toNat, accessAux .fetch 2⟩ else none

/-- RET: the depth falls; a crossing record at the old depth is popped and names the segment (R105, R252). -/
def retOn (seg : Nat) (tgt : Word) (t : Thread) : Thread :=
  match t.cross with
  | c :: r =>
    if c.depth = t.depth then { t with depth := t.depth - 1, cross := r, pc := mkPtr c.seg tgt.toNat, issued := true }
    else { t with depth := t.depth - 1, pc := mkPtr seg tgt.toNat, issued := true }
  | [] => { t with depth := t.depth - 1, pc := mkPtr seg tgt.toNat, issued := true }

def xRet (f : Fields) (s : State) : State :=
  s.runFlow f (flowFault f s) (fun ok s1 =>
    s1.mapThreads (fun tid t => if ok.contains tid then retOn (segOf s.issue.self) (flowTarget f s tid) t else t))

/-- JMPI (R105). -/
def xJmpi (f : Fields) (s : State) : State :=
  s.runFlow f (flowFault f s) (fun ok s1 =>
    jumpTo ok (fun tid _ => mkPtr (segOf s.issue.self) (flowTarget f s tid).toNat) s1)

/-- CALLI (R105). -/
def xCalli (f : Fields) (s : State) : State :=
  s.runFlow f (flowFault f s) (fun ok s1 =>
    s1.mapThreads (fun tid t => if ok.contains tid then
      { t.link s.issue.next with pc := mkPtr (segOf s.issue.self) (flowTarget f s tid).toNat, issued := true } else t))

/-- The check of ENTER against STKLIM (R106). -/
def enterFault (f : Fields) (s : State) (tid : Nat) : Option Flt :=
  let t := s.thread tid
  let new := t.reg 31 - f.x
  if (t.reg 31).toNat < f.x.toNat ∨ new.toNat < t.stklim.toNat then some ⟨codeStackLimit, 0, new⟩ else none

/-- ENTER: v31 lowered by n after the check against STKLIM (R106). -/
def xEnter (f : Fields) (s : State) : State :=
  s.runPlain f (enterFault f s)
    (fun _ t => t.setReg 31 (t.reg 31 - f.x)) (fun _ => [])

/-- LEAVE: v31 raised by n modulo 2^32 (R106). -/
def xLeave (f : Fields) (s : State) : State :=
  s.runPlain f State.noFault (fun _ t => t.setReg 31 (t.reg 31 + f.x)) (fun _ => [])

/-- TRAP: SW_TRAP with the code (R107). -/
def xTrap (f : Fields) (s : State) : State :=
  s.runPlain f (fun _ => some ⟨codeTrap, 0, f.x⟩) (fun _ t => t) (fun _ => [])

namespace State

/-- Every thread of a group that waits at GEN raises GEN_CONFIG with a reason, at the GEN where it waits (R198, R200).
DEDUCED: log entry 66. -/
def failGen (s : State) (gid reason : Nat) : State :=
  let ws := (s.presentOf gid).filter (fun t => decide ((s.thread t).wait = .gen))
  let aux := genAux reason (if reason = 5 then 0x17 else 0)
  let rs := ws.map (fun t => (⟨t, codeGen, 0, aux⟩ : Raised))
  let s := s.mapThreads (fun tid t => if gidOf tid = gid then t.failHeld Wait.atGen codeGen aux else t)
  rs.foldl (fun s r =>
    let pc := (s.thread r.tid).pc
    (s.modThread r.tid (fun t => { t with wait := .none })).deliver r pc pc (faultMask rs r.tid)) (s.unbundle ws)

/-- Has every home lane's thread of a group exited (R144)? -/
def groupEnded (s : State) (gid : Nat) : Bool := (s.threadsOf gid).all (fun t => decide ((s.thread t).life = .exited))

/-- One thread ends (R108): its registers cease to exist, its barriers and meetings deduct it, its siblings at a GEN fail, and
its group and team end with their last thread (R144, R151, R153, R174, R200). -/
def exitThread (s : State) (tid : Nat) : State :=
  let gid := gidOf tid
  let k := teamOf gid
  let s := s.modThread tid (fun t => { t with life := .exited, regs := [], wait := .none, meet := none, meets := [], issued := true })
  let s := (List.range 16).foldl (fun s b => s.deductBarrier tid b) s
  let s := s.settleMeetings gid
  let s := s.failGen gid 4
  if s.groupEnded gid then
    let s := s.deductGroup gid
    if (s.groupsOf k).all (s.groupEnded ·) then s.endTeam k none true else s.settleTrigger (s.team k).launch
  else s

end State

/-- EXIT (R108). -/
def xExit (f : Fields) (s : State) : State := s.runFlow f State.noFault (fun ok s1 => ok.foldl (fun s t => s.exitThread t) s1)

/-! The meaning of each row of the table of operations. -/

/-- BRA (R102). -/
def execBra (f : BrF) (s : State) : Host.Outcome State Fault Refusal := .next (xBra (brFields .base none 0x0C f) s)

/-- BRA_X (R102). -/
def execBraX (f : XForm BrF) (s : State) : Host.Outcome State Fault Refusal := .next (xBra (brXFields 0x0C f) s)

/-- CALL (R103). -/
def execCall (f : BrF) (s : State) : Host.Outcome State Fault Refusal := .next (xCall (brFields .base none 0x0D f) s)

/-- CALL_X (R103). -/
def execCallX (f : XForm BrF) (s : State) : Host.Outcome State Fault Refusal := .next (xCall (brXFields 0x0D f) s)

/-- RET (R105). -/
def execRet (f : OpF) (s : State) : Host.Outcome State Fault Refusal := .next (xRet (opFields .base none 0x0E 0 f) s)

/-- RET_X (R105). -/
def execRetX (f : XForm OpF) (s : State) : Host.Outcome State Fault Refusal := .next (xRet (opXFields 0x0E 0 f) s)

/-- JMPI (R105). -/
def execJmpi (f : OpF) (s : State) : Host.Outcome State Fault Refusal := .next (xJmpi (opFields .base none 0x0E 1 f) s)

/-- JMPI_X (R105). -/
def execJmpiX (f : XForm OpF) (s : State) : Host.Outcome State Fault Refusal := .next (xJmpi (opXFields 0x0E 1 f) s)

/-- CALLI (R105). -/
def execCalli (f : OpF) (s : State) : Host.Outcome State Fault Refusal := .next (xCalli (opFields .base none 0x0E 2 f) s)

/-- CALLI_X (R105). -/
def execCalliX (f : XForm OpF) (s : State) : Host.Outcome State Fault Refusal := .next (xCalli (opXFields 0x0E 2 f) s)

/-- ENTER (R106). -/
def execEnter (f : OpF) (s : State) : Host.Outcome State Fault Refusal := .next (xEnter (opFields .base none 0x0E 3 f) s)

/-- ENTER_X (R106). -/
def execEnterX (f : XForm OpF) (s : State) : Host.Outcome State Fault Refusal := .next (xEnter (opXFields 0x0E 3 f) s)

/-- LEAVE (R106). -/
def execLeave (f : OpF) (s : State) : Host.Outcome State Fault Refusal := .next (xLeave (opFields .base none 0x0E 4 f) s)

/-- LEAVE_X (R106). -/
def execLeaveX (f : XForm OpF) (s : State) : Host.Outcome State Fault Refusal := .next (xLeave (opXFields 0x0E 4 f) s)

/-- TRAP (R107). -/
def execTrap (f : OpF) (s : State) : Host.Outcome State Fault Refusal := .next (xTrap (opFields .base none 0x0E 6 f) s)

/-- TRAP_X (R107). -/
def execTrapX (f : XForm OpF) (s : State) : Host.Outcome State Fault Refusal := .next (xTrap (opXFields 0x0E 6 f) s)

/-- EXIT (R108). -/
def execExit (f : OpF) (s : State) : Host.Outcome State Fault Refusal := .next (xExit (opFields .base none 0x0E 7 f) s)

/-- EXIT_X (R108). -/
def execExitX (f : XForm OpF) (s : State) : Host.Outcome State Fault Refusal := .next (xExit (opXFields 0x0E 7 f) s)

end Sys2Proof.Machine
end

