-- ==== Sys2Proof/Machine/Num.lean ====
section
/-! DEFINITION. Exact numbers, the number formats and the one rounding step (02 R28 to R51): binary32, binary16 and bfloat16, the
tapered formats T8 and T6, integers, Q1.15 and Q8.16. -/

namespace Sys2Proof.Machine

/-- The value of an operand: a NaN (signalling or not; NaR counts as quiet), an infinity, or (−1)^neg × m × 2^e (R30, R37). -/
inductive Num where
  | nan (sig : Bool)
  | inf (neg : Bool)
  | fin (neg : Bool) (m : Nat) (e : Int)
  deriving DecidableEq, Repr

/-- A binary format: significand bits with the hidden one, exponent bits (R30). -/
structure Fmt where
  p : Nat
  eb : Nat
  deriving DecidableEq, Repr

namespace Fmt
def f32 : Fmt := ⟨24, 8⟩
def f16 : Fmt := ⟨11, 5⟩
def bf16 : Fmt := ⟨8, 8⟩
/-- The largest exponent, which is the bias (R30). -/
def emax (k : Fmt) : Int := 2 ^ (k.eb - 1) - 1
/-- The exponent of the smallest normal. -/
def emin (k : Fmt) : Int := 1 - k.emax
/-- The exponent of one step of the subnormals. -/
def low (k : Fmt) : Int := k.emin - (k.p - 1)
/-- The code of +∞, the sign bit, the canonical NaN (R31). -/
def infCode (k : Fmt) : Nat := (2 ^ k.eb - 1) * 2 ^ (k.p - 1)
def signBit (k : Fmt) : Nat := 2 ^ (k.p + k.eb - 1)
def nanCode (k : Fmt) : Nat := k.infCode + 2 ^ (k.p - 2)
/-- A code with a sign. -/
def signed (k : Fmt) (neg : Bool) (c : Nat) : Nat := if neg then k.signBit + c else c

/-- The value of a code (R30, R31); `ftz` reads a subnormal as zero of its sign (R32). -/
def decode (k : Fmt) (ftz : Bool) (x : Nat) : Num :=
  let f := x % 2 ^ (k.p - 1)
  let e := x / 2 ^ (k.p - 1) % 2 ^ k.eb
  let neg := x / k.signBit % 2 == 1
  if e = 2 ^ k.eb - 1 then (if f = 0 then .inf neg else .nan (decide (f < 2 ^ (k.p - 2))))
  else if e = 0 then .fin neg (if ftz then 0 else f) k.low
  else .fin neg (f + 2 ^ (k.p - 1)) (k.low + (e - 1))

/-- An operand's bits after FTZ input handling (R32, R117). -/
def flushed (k : Fmt) (ftz : Bool) (x : Nat) : Nat :=
  let y := x % (2 * k.signBit)
  if ftz && y / 2 ^ (k.p - 1) % 2 ^ k.eb == 0 then y / k.signBit * k.signBit else y
end Fmt

/-- The magnitude of an exact result: in [q × 2^e, (q + 1) × 2^e), equal to q × 2^e unless `more`. With `more`, q has at least 40
bits, more than any rounding position needs. -/
structure Mag where
  q : Nat
  e : Int
  more : Bool
  deriving DecidableEq, Repr

/-- A magnitude rounded to a multiple of 2^lsb under a mode and a sign, and whether that is inexact (R33). -/
def Mag.at (x : Mag) (lsb : Int) (rnd : Rnd) (neg : Bool) : Nat × Bool :=
  if lsb ≤ x.e then (x.q * 2 ^ (x.e - lsb).toNat, x.more)
  else
    let k := (lsb - x.e).toNat
    let t := x.q / 2 ^ k
    let r := x.q % 2 ^ k
    let inexact := r != 0 || x.more
    let up := match rnd with
      | .rn => decide (2 ^ k < 2 * r) || (decide (2 * r = 2 ^ k) && (x.more || t % 2 == 1))
      | .rz => false
      | .rp => inexact && !neg
      | .rm => inexact && neg
    (if up then t + 1 else t, inexact)

/-- Does an overflow in this mode deliver an infinity (R33)? -/
def overflowsToInf (rnd : Rnd) (neg : Bool) : Bool :=
  match rnd with
  | .rn => true
  | .rz => false
  | .rp => !neg
  | .rm => neg

/-- How a result is rounded: its mode, FTZ, and .sat of a conversion (R32, R33, R77). -/
structure How where
  rnd : Rnd
  ftz : Bool
  sat : Bool
  deriving DecidableEq, Repr

/-- THE ROUNDING STEP into a binary format, with OF, UF and NX (R33, R34, R32). Tininess and overflow are judged on the result
rounded as though the exponent range were unbounded. -/
def Mag.round (x : Mag) (k : Fmt) (h : How) (neg : Bool) : Nat × Flags :=
  if x.q = 0 then (k.signed neg 0, 0)
  else
    let e0 : Int := x.e + Nat.log2 x.q
    let t0 := (x.at (e0 - (k.p - 1)) h.rnd neg).1
    let e1 := if t0 = 2 ^ k.p then e0 + 1 else e0
    if k.emax < e1 then
      (k.signed neg (if overflowsToInf h.rnd neg && !h.sat then k.infCode else k.infCode - 1), flagOF ||| flagNX)
    else
      let lsb := if e0 - (k.p - 1) < k.low then k.low else e0 - (k.p - 1)
      let r := x.at lsb h.rnd neg
      let tiny := decide (e1 < k.emin)
      if tiny && h.ftz then (k.signed neg 0, flagUF ||| flagNX)
      else (k.signed neg ((lsb - k.low).toNat * 2 ^ (k.p - 1) + r.1),
        (if r.2 then flagNX else 0) ||| (if tiny && r.2 then flagUF else 0))

/-- An exact dyadic value rounded into a binary format, and the special values of R31 and R49. -/
def Num.round (x : Num) (k : Fmt) (h : How) : Nat × Flags :=
  match x with
  | .nan sig => (k.nanCode, if sig then flagNV else 0)
  | .inf neg => (k.signed neg k.infCode, 0)
  | .fin neg m e => (Mag.mk m e false).round k h neg

/-- The magnitude of a tapered magnitude code of w − 1 bits, in units of 2^−12 (R37). -/
def tapMag (w m : Nat) : Nat :=
  let k := w - 1
  let top := m / 2 ^ (k - 1) % 2
  let run := ((List.range k).takeWhile (fun j => m / 2 ^ (k - 1 - j) % 2 == top)).length
  let rg : Int := if top = 1 then (run : Int) - 1 else -(run : Int)
  let used := if run < k then run + 1 else run
  let e := if used < k then m / 2 ^ (k - 1 - used) % 2 else 0
  let used := if used < k then used + 1 else used
  let fb := k - used
  let f := m % 2 ^ fb
  if m = 0 then 0 else (2 ^ fb + f) * 2 ^ (2 * rg + e + 12).toNat / 2 ^ fb

/-- The value of a tapered code (R37): sign 1 with magnitude 0 is NaR. -/
def tapValue (w c : Nat) : Num :=
  let m := c % 2 ^ (w - 1)
  let neg := c / 2 ^ (w - 1) % 2 == 1
  if m = 0 then (if neg then .nan false else .fin false 0 0) else .fin neg (tapMag w m) (-12)

/-- A value times 2^s (R44). -/
def Num.scale (x : Num) (s : Int) : Num :=
  match x with
  | .fin neg m e => .fin neg m (e + s)
  | y => y

/-- m × 2^e against n × 2^f. -/
def cmpPow (m : Nat) (e : Int) (n : Nat) (f : Int) : Ordering :=
  let b := min e f
  compare (m * 2 ^ (e - b).toNat) (n * 2 ^ (f - b).toNat)

/-- Rounding into T8 or T6 (R43). -/
def Num.roundTap (x : Num) (w : Nat) : Nat × Flags :=
  let top := 2 ^ (w - 1) - 1
  let sign (neg : Bool) (m : Nat) : Nat := if m = 0 then 0 else if neg then 2 ^ (w - 1) + m else m
  match x with
  | .nan sig => (2 ^ (w - 1), if sig then flagNV else 0)
  | .inf neg => (sign neg top, flagOF ||| flagNX)
  | .fin neg m e =>
    if m = 0 then (0, 0)
    else if cmpPow m e (tapMag w top) (-12) = .gt then (sign neg top, flagOF ||| flagNX)
    else
      let below := ((List.range (top + 1)).filter (fun c => cmpPow (tapMag w c) (-12) m e != .gt)).length - 1
      if cmpPow (tapMag w below) (-12) m e = .eq then (sign neg below, 0)
      else
        let code := match cmpPow (2 * m) e (tapMag w below + tapMag w (below + 1)) (-12) with
          | .lt => below
          | .gt => below + 1
          | .eq => if below % 2 = 0 then below else below + 1
        (sign neg code, flagNX ||| (if below = 0 then flagUF else 0))

/-- The exact value rounded to an integer under a mode. -/
def Num.toInt (x : Num) (rnd : Rnd) : Int × Bool :=
  match x with
  | .fin neg m e =>
    let r := (Mag.mk m e false).at 0 rnd neg
    (if neg then -(r.1 : Int) else r.1, r.2)
  | _ => (0, false)

/-- A conversion into an integer range, with the clamp and its NV (R49, R50). -/
def Num.clampInt (x : Num) (rnd : Rnd) (lo hi : Int) : Int × Flags :=
  match x with
  | .nan _ => (0, flagNV)
  | .inf neg => (if neg then lo else hi, flagNV)
  | .fin _ _ _ =>
    let r := x.toInt rnd
    if r.1 < lo then (lo, flagNV) else if hi < r.1 then (hi, flagNV) else (r.1, if r.2 then flagNX else 0)

/-- `RNE_Q15` as a raw integer before the saturation (R46). -/
def rneScaled (x : Num) (bits : Nat) : Int := ((x.scale bits).toInt .rn).1

/-- A two's complement number of `w` bits. -/
def sint (w x : Nat) : Int :=
  let n := x % 2 ^ w
  if n < 2 ^ (w - 1) then (n : Int) else (n : Int) - 2 ^ w

/-- An integer as an exact value. -/
def Num.ofInt (x : Int) (e : Int) : Num := .fin (decide (x < 0)) x.natAbs e

/-- A sum of exact values with the zero-sum sign of R116. -/
def addFin (rnd : Rnd) (s1 : Bool) (m1 : Nat) (e1 : Int) (s2 : Bool) (m2 : Nat) (e2 : Int) : Num :=
  let e := min e1 e2
  let v (s : Bool) (m : Nat) (x : Int) : Int := let n : Int := (m * 2 ^ (x - e).toNat : Nat); if s then -n else n
  let x := v s1 m1 e1 + v s2 m2 e2
  if x = 0 then .fin (if s1 = s2 then s1 else decide (rnd = .rm)) 0 e else .fin (decide (x < 0)) x.natAbs e

/-- The largest n with n × n ≤ x, by its bits from `k` down. -/
def isqrt (x : Nat) : Nat → Nat → Nat
  | 0, r => r
  | k + 1, r => let c := r + 2 ^ k; isqrt x k (if c * c ≤ x then c else r)

end Sys2Proof.Machine
end

