-- ==== Sys2Proof/Machine/Elementary.lean ====
section
/-! DEFINITION. The functions of FUNARY (06 R118, R119) as exact magnitudes: quotients and roots by integer arithmetic, 2^x,
log2, sin, cos and tanh by enclosures in fixed point that are refined until they settle 48 significant bits. Their values at
the operands treated here are irrational, so a settled enclosure rounds as the exact value does. -/

namespace Sys2Proof.Machine

/-- The sum of a series in fixed point: `term k` gives the k-th term. -/
def seriesSum (term : Nat → Int) : Nat → Int
  | 0 => 0
  | n + 1 => seriesSum term n + term n

/-- atanh(1/n) and atan(1/n) with `b` fraction bits, each term rounded down. -/
def atanhInv (b n : Nat) : Int := seriesSum (fun k => ((2 ^ b / (n ^ (2 * k + 1) * (2 * k + 1)) : Nat) : Int)) (b / 2)
def atanInv (b n : Nat) : Int :=
  seriesSum (fun k => let t : Int := (2 ^ b / (n ^ (2 * k + 1) * (2 * k + 1)) : Nat); if k % 2 = 0 then t else -t) (b / 2)

/-- ln 2 and π with `b` fraction bits: 2 atanh(1/3), and 16 atan(1/5) − 4 atan(1/239). -/
def ln2At (b : Nat) : Int := 2 * atanhInv b 3
def piAt (b : Nat) : Int := 16 * atanInv b 5 - 4 * atanInv b 239

/-- e^y for y in [0, 1) in fixed point, by its Taylor series; `t` is the current term. -/
def expSeries (b : Nat) (y : Int) : Nat → Nat → Int → Int
  | 0, _, _ => 0
  | n + 1, k, t => t + expSeries b y n (k + 1) (t * y / (2 ^ b * (k + 1 : Nat)))

def expAt (b : Nat) (y : Int) : Int := expSeries b y (b / 3 + 16) 0 (2 ^ b)

/-- sin y or cos y for y in [0, 2) in fixed point: the terms from order `k` on, of alternating sign. -/
def sinSeries (b : Nat) (y : Int) : Nat → Nat → Int → Int
  | 0, _, _ => 0
  | n + 1, k, t => t + sinSeries b y n (k + 2) (-(t * y / 2 ^ b * y / (2 ^ b * ((k + 1) * (k + 2) : Nat))))

def sinAt (b : Nat) (y : Int) : Int := sinSeries b y (b / 4 + 16) 1 y
def cosAt (b : Nat) (y : Int) : Int := sinSeries b y (b / 4 + 16) 0 (2 ^ b)

/-- An approximation a × 2^−b off by less than 2^20 of its units: its leading 48 bits, if they are certain. -/
def settle (a b : Nat) : Option Mag :=
  let lo := a - 2 ^ 20
  let k := Nat.log2 lo - 47
  if 2 ^ 48 ≤ lo ∧ lo / 2 ^ k = (a + 2 ^ 20) / 2 ^ k then some ⟨lo / 2 ^ k, (k : Int) - b, true⟩ else none

/-- The first precision that settles an approximation, from 192 fraction bits on. The last one stands in any case. -/
def refine (approx : Nat → Nat) : Mag :=
  match [192, 384, 768, 1536].findSome? (fun b => settle (approx b) b) with
  | some x => x
  | none => ⟨approx 1536, -1536, true⟩

/-- x = m × 2^e in fixed point, where no bit is lost. -/
def fixed (b m : Nat) (e : Int) : Int := if 0 ≤ e + b then (m : Int) * 2 ^ (e + b).toNat else (m : Int) / 2 ^ (-(e + b)).toNat

/-- Is m × 2^e below 2^t? -/
def below (m : Nat) (e t : Int) : Bool := cmpPow m e 1 t == .lt

/-- A magnitude just below m × 2^e, or just above it. -/
def justBelow (m : Nat) (e : Int) : Mag := ⟨m * 2 ^ 80 - 1, e - 80, true⟩
def justAbove (m : Nat) (e : Int) : Mag := ⟨m * 2 ^ 80, e - 80, true⟩

/-- 2^x for a finite x. -/
def exp2Mag (neg : Bool) (m : Nat) (e : Int) : Mag :=
  if m = 0 then ⟨1, 0, false⟩
  else if below m e (-81) then (if neg then justBelow 1 0 else justAbove 1 0)
  else if !below m e 11 then ⟨2 ^ 48, if neg then -3000 else 3000, true⟩
  else
    let f0 := fixed 192 m e
    let x := if neg then -f0 else f0
    let n := x / 2 ^ 192
    if x = n * 2 ^ 192 then ⟨1, n, false⟩
    else
      let r := refine (fun b => (expAt b ((x - n * 2 ^ 192) * 2 ^ (b - 192) * ln2At b / 2 ^ b)).toNat)
      ⟨r.q, r.e + n, true⟩

/-- log2 of m × 2^e > 0: the sign and the magnitude. -/
def log2Mag (m : Nat) (e : Int) : Bool × Mag :=
  let l := Nat.log2 m
  let n : Int := e + l
  if m = 2 ^ l then (decide (n < 0), ⟨n.natAbs, 0, false⟩)
  else
    let a (b : Nat) : Int :=
      let y : Int := (m : Int) * 2 ^ b / 2 ^ l
      let z := (y - 2 ^ b) * 2 ^ b / (y + 2 ^ b)
      let z2 := z * z / 2 ^ b
      let s := (List.range (b / 3 + 8)).foldl (fun (st : Int × Int) k => (st.1 + st.2 / (2 * k + 1 : Nat), st.2 * z2 / 2 ^ b)) (0, z)
      n * 2 ^ b + 2 * s.1 * 2 ^ b / ln2At b
    (decide (n < 0), refine (fun b => (a b).natAbs))

/-- sin or cos of |x|: the sign and the magnitude. -/
def sinCosMag (cos : Bool) (m : Nat) (e : Int) : Bool × Mag :=
  if below m e (-44) then (false, if cos then justBelow 1 0 else ⟨m * 2 ^ 64 - 1, e - 64, true⟩)
  else
    let quarter (b : Nat) : Int := piAt (b + 192) / 2
    let x (b : Nat) : Int := fixed (b + 192) m e
    let n (b : Nat) : Int := x b / quarter b + (if cos then 1 else 0)
    let r (b : Nat) : Int := (x b % quarter b) / 2 ^ 192
    (decide (2 ≤ n 192 % 4),
      refine (fun b => ((if n b % 2 = 0 then sinAt b (r b) else cosAt b (r b))).natAbs))

/-- tanh of |x|. -/
def tanhMag (m : Nat) (e : Int) : Mag :=
  if below m e (-44) then ⟨m * 2 ^ 64 - 1, e - 64, true⟩
  else if !below m e 6 then justBelow 1 0
  else
    refine (fun b =>
      let l := ln2At b
      let x := 2 * fixed b m e
      let n := x / l + 1
      let d := expAt b (n * l - x) / 2 ^ n.toNat
      ((2 ^ b - d) * 2 ^ b / (2 ^ b + d)).toNat)

/-- a / b for nonzero magnitudes. -/
def divMag (m1 : Nat) (e1 : Int) (m2 : Nat) (e2 : Int) : Mag :=
  ⟨m1 * 2 ^ 64 / m2, e1 - e2 - 64, m1 * 2 ^ 64 % m2 != 0⟩

/-- √(m × 2^e). -/
def sqrtMag (m : Nat) (e : Int) : Mag :=
  let m' := if e % 2 = 0 then m else 2 * m
  let e' := if e % 2 = 0 then e else e - 1
  let x := m' * 2 ^ 96
  let q := isqrt x 64 0
  ⟨q, e' / 2 - 48, decide (q * q ≠ x)⟩

/-- 1 / √(m × 2^e). -/
def rsqMag (m : Nat) (e : Int) : Mag :=
  let m' := if e % 2 = 0 then m else 2 * m
  let e' := if e % 2 = 0 then e else e - 1
  let q := isqrt (2 ^ 160 / m') 82 0
  ⟨q, -(e' / 2) - 80, decide (q * q * m' ≠ 2 ^ 160)⟩

end Sys2Proof.Machine
end

