-- ==== Sys2Proof/Machine/Float.lean ====
section
/-! DEFINITION. Floating point and conversion: FARITH, FUNARY, FMISC and CVT (06 R114 to R128). -/

namespace Sys2Proof.Machine

/-- The element format of a float type code (R48). -/
def elemFmt (ty : Nat) : Fmt :=
  match ty with
  | 4 => Fmt.f32
  | 5 => Fmt.f16
  | 7 => Fmt.f16
  | _ => Fmt.bf16

/-- Is the type a packed pair (R48)? -/
def isPacked (ty : Nat) : Bool := ty == 7 || ty == 8

/-- An operation on one element, over the one or two elements of a type (R48, R114): flags of both halves are ORed. -/
def overElems (ty : Nat) (op : Nat → Nat × Flags) : Nat × Flags :=
  if isPacked ty then
    let lo := op 0
    let hi := op 1
    (lo.1 % 65536 + hi.1 % 65536 * 65536, lo.2 ||| hi.2)
  else op 0

/-- Element `k` of an operand of a type. -/
def elem (ty : Nat) (k : Nat) (x : DWord) : Nat :=
  if ty = 4 then x.toNat % 2 ^ 32 else x.toNat / 65536 ^ k % 65536

/-- Is the value a NaN, a signalling NaN, an infinity, a zero? -/
def Num.isNan : Num → Bool
  | .nan _ => true
  | _ => false
def Num.isSig : Num → Bool
  | .nan s => s
  | _ => false
def Num.isInf : Num → Bool
  | .inf _ => true
  | _ => false
def Num.isZero : Num → Bool
  | .fin _ m _ => m == 0
  | _ => false
def Num.neg : Num → Bool
  | .nan _ => false
  | .inf n => n
  | .fin n _ _ => n

/-- The value with its sign reversed. -/
def Num.negate : Num → Num
  | .nan s => .nan s
  | .inf n => .inf !n
  | .fin n m e => .fin (!n) m e

/-- NV when any operand is signalling (R31, R116). -/
def sigFlag (xs : List Num) : Flags := if xs.any Num.isSig then flagNV else 0

/-- The exact sum of two values that are no NaN, or none when it is ∞ − ∞ (R116). -/
def addNum (rnd : Rnd) (a b : Num) : Option Num :=
  match a, b with
  | .inf s, .inf t => if s = t then some (.inf s) else none
  | .inf s, _ => some (.inf s)
  | _, .inf t => some (.inf t)
  | .fin s m e, .fin t n f => some (addFin rnd s m e t n f)
  | _, _ => none

/-- The exact product of two values that are no NaN, or none when it is 0 × ∞ (R116). -/
def mulNum (a b : Num) : Option Num :=
  match a, b with
  | .fin s m e, .fin t n f => some (.fin (s != t) (m * n) (e + f))
  | a, b => if a.isZero || b.isZero then none else some (.inf (a.neg != b.neg))

/-- A result that may be invalid, rounded once (R116). -/
def finish (k : Fmt) (h : How) (fl : Flags) (x : Option Num) : Nat × Flags :=
  match x with
  | none => (k.nanCode, fl ||| flagNV)
  | some x => let r := x.round k h; (r.1, fl ||| r.2)

/-- FDIV (R116): a divisor 0 sets DZ, under an infinite dividend too. DEDUCED: log entry 33. -/
def divNum (k : Fmt) (h : How) (a b : Num) : Nat × Flags :=
  let s := a.neg != b.neg
  match a, b with
  | .fin _ m e, .fin _ n f =>
    if n = 0 then (if m = 0 then (k.nanCode, flagNV) else (k.signed s k.infCode, flagDZ))
    else if m = 0 then (k.signed s 0, 0)
    else (divMag m e n f).round k h s
  | .inf _, .inf _ => (k.nanCode, flagNV)
  | .inf _, .fin _ n _ => (k.signed s k.infCode, if n = 0 then flagDZ else 0)
  | _, _ => (k.signed s 0, 0)

/-- `FArith` (R116) by minor: FADD, FSUB, FMUL, FFMA, FDIV. -/
def fArith (k : Fmt) (h : How) (mn : Nat) (a b c : Num) : Nat × Flags :=
  let ops := if mn = 3 then [a, b, c] else [a, b]
  let fl := sigFlag ops
  if mn = 3 ∧ ((a.isZero ∧ b.isInf) ∨ (a.isInf ∧ b.isZero)) then (k.nanCode, fl ||| flagNV)
  else if ops.any Num.isNan then (k.nanCode, fl)
  else
    match mn with
    | 0 => finish k h fl (addNum h.rnd a b)
    | 1 => finish k h fl (addNum h.rnd a b.negate)
    | 2 => finish k h fl (mulNum a b)
    | 3 => finish k h fl ((mulNum a b).bind (fun p => addNum h.rnd p c))
    | _ => divNum k h a b

/-- The order of the codes of a format, −0 below +0 (R117). -/
def codeKey (k : Fmt) (x : Nat) : Int :=
  let y := x % (2 * k.signBit)
  if k.signBit ≤ y then -((y - k.signBit : Nat) : Int) - 1 else y

/-- FMIN and FMAX (R117). -/
def fMinMax (k : Fmt) (ftz max : Bool) (x y : Nat) : Nat × Flags :=
  let a := k.decode ftz x
  let b := k.decode ftz y
  let xf := k.flushed ftz x
  let yf := k.flushed ftz y
  let fl := sigFlag [a, b]
  if a.isNan && b.isNan then (k.nanCode, fl)
  else if a.isNan then (yf, fl)
  else if b.isNan then (xf, fl)
  else if max then (if codeKey k xf < codeKey k yf then yf else xf, fl)
  else (if codeKey k yf < codeKey k xf then yf else xf, fl)

/-- FCPYS (R117). -/
def fCopySign (k : Fmt) (x y : Nat) : Nat × Flags :=
  (x % k.signBit + (if y / k.signBit % 2 = 1 then k.signBit else 0), 0)

/-- FARITH (R115 to R117). -/
def farithVal (f : Fields) (g : Group) (t : Thread) : DWord × Flags :=
  let k := elemFmt f.ty
  let h : How := ⟨t.rnd f.low3, t.ftz, false⟩
  let r := overElems f.ty (fun j =>
    let x := elem f.ty j (f.opA false g t)
    let y := elem f.ty j (f.opB false g t)
    let z := elem f.ty j (f.opC false g t)
    match f.mn with
    | 4 => fMinMax k t.ftz false x y
    | 5 => fMinMax k t.ftz true x y
    | 6 => fCopySign k x y
    | mn => fArith k h mn (k.decode t.ftz x) (k.decode t.ftz y) (k.decode t.ftz z))
  (BitVec.ofNat 64 r.1, r.2)

/-- FUNARY at the special operands and its exact results rounded once (R118, R119). -/
def fUnary (k : Fmt) (h : How) (mn : Nat) (x : Num) : Nat × Flags :=
  let one (neg : Bool) : Nat × Flags := (k.signed neg (k.emax.toNat * 2 ^ (k.p - 1)), 0)
  let invalid : Nat × Flags := (k.nanCode, flagNV)
  let pole (neg : Bool) : Nat × Flags := (k.signed neg k.infCode, flagDZ)
  match x with
  | .nan sig => (k.nanCode, if sig then flagNV else 0)
  | .inf neg =>
    match mn with
    | 0 => (k.signed neg 0, 0)
    | 1 => if neg then invalid else (0, 0)
    | 2 => if neg then invalid else (k.infCode, 0)
    | 3 => if neg then (0, 0) else (k.infCode, 0)
    | 4 => if neg then invalid else (k.infCode, 0)
    | 7 => one neg
    | _ => invalid
  | .fin neg m e =>
    if m = 0 then
      match mn with
      | 0 => pole neg
      | 1 => pole neg
      | 3 => one false
      | 4 => pole true
      | 6 => one false
      | _ => (k.signed neg 0, 0)
    else
      match mn with
      | 0 => (divMag 1 0 m e).round k h neg
      | 1 => if neg then invalid else (rsqMag m e).round k h false
      | 2 => if neg then invalid else (sqrtMag m e).round k h false
      | 3 => (exp2Mag neg m e).round k h false
      | 4 => if neg then invalid else let r := log2Mag m e; r.2.round k h r.1
      | 5 => let r := sinCosMag false m e; r.2.round k h (neg != r.1)
      | 6 => let r := sinCosMag true m e; r.2.round k h r.1
      | _ => (tanhMag m e).round k h neg

def funaryVal (f : Fields) (g : Group) (t : Thread) : DWord × Flags :=
  let k := elemFmt f.ty
  let r := overElems f.ty (fun j => fUnary k ⟨t.rnd f.low3, t.ftz, false⟩ f.mn (k.decode t.ftz (elem f.ty j (f.opA false g t))))
  (BitVec.ofNat 64 r.1, r.2)

/-- FRND (R121): the result keeps A's sign and sets no flag but a signalling NaN's. -/
def fRound (k : Fmt) (rnd : Rnd) (x : Num) : Nat × Flags :=
  match x with
  | .fin neg m e => ((Mag.mk ((Mag.mk m e false).at 0 rnd neg).1 0 false).round k ⟨.rn, false, false⟩ neg |>.1, 0)
  | y => y.round k ⟨.rn, false, false⟩

/-- FCLASS (R122). -/
def fClass (k : Fmt) (x : Nat) : Nat :=
  let neg := x / k.signBit % 2 == 1
  let e := x / 2 ^ (k.p - 1) % 2 ^ k.eb
  let f := x % 2 ^ (k.p - 1)
  if e = 2 ^ k.eb - 1 then
    (if f = 0 then (if neg then 4 else 512) else if f < 2 ^ (k.p - 2) then 1 else 2)
  else if e = 0 then
    (if f = 0 then (if neg then 32 else 64) else if neg then 16 else 128)
  else if neg then 8 else 256

/-- FLDEXP (R124). An exponent beyond ±1000 over- or underflows as ±1000 does. -/
def fLdexp (k : Fmt) (h : How) (x : Num) (b : Int) : Nat × Flags := (x.scale (max (-1000) (min 1000 b))).round k h

/-- FGETEXP (R124). -/
def fGetExp (x : Num) : Nat × Flags :=
  match x with
  | .nan _ => (0x80000000, flagNV)
  | .inf _ => (0x7FFFFFFF, flagNV)
  | .fin _ m e => if m = 0 then (0x80000000, flagDZ) else ((BitVec.ofInt 32 (e + Nat.log2 m)).toNat, 0)

/-- FGETMAN (R124). -/
def fGetMan (k : Fmt) (x : Num) : Nat × Flags :=
  match x with
  | .nan sig => (k.nanCode, if sig then flagNV else 0)
  | .inf _ => (k.nanCode, flagNV)
  | .fin neg m _ =>
    if m = 0 then (k.signed neg 0, 0) else (Num.fin neg m (-(Nat.log2 m : Int))).round k ⟨.rn, false, false⟩

/-- FMISC but for FCMP (R120 to R124). -/
def fmiscVal (f : Fields) (g : Group) (t : Thread) : DWord × Flags :=
  let k := elemFmt f.ty
  let a := f.opA false g t
  let r : Nat × Flags := match f.mn with
    | 0 => overElems f.ty (fun j => fRound k (t.rnd f.low3) (k.decode t.ftz (elem f.ty j a)))
    | 1 => (fClass k (elem f.ty 0 a), 0)
    | 3 => overElems f.ty (fun j => fLdexp k ⟨t.rnd f.low3, t.ftz, false⟩ (k.decode t.ftz (elem f.ty j a))
        (sint 32 (f.opB false g t).toNat))
    | 4 => fGetExp (k.decode t.ftz (elem f.ty 0 a))
    | _ => overElems f.ty (fun j => fGetMan k (k.decode t.ftz (elem f.ty j a)))
  (BitVec.ofNat 64 r.1, r.2)

/-- A value that is no NaN as a key of its order, −0 equal to +0 (R123). -/
def valueKey (k : Fmt) (x : Nat) : Int :=
  let y := x % (2 * k.signBit)
  if k.signBit ≤ y then -((y - k.signBit : Nat) : Int) else y

/-- FCMP's outcome and its flag (R123). -/
def fcmpVal (f : Fields) (g : Group) (t : Thread) : Bool × Flags :=
  let k := elemFmt f.ty
  let x := k.flushed t.ftz (elem f.ty 0 (f.opA false g t))
  let y := k.flushed t.ftz (elem f.ty 0 (f.opB false g t))
  let a := k.decode false x
  let b := k.decode false y
  let un := a.isNan || b.isNan
  let u := valueKey k x
  let v := valueKey k y
  let r := match f.c with
    | 0 => !un && decide (u = v)
    | 1 => un || decide (u ≠ v)
    | 2 => !un && decide (u < v)
    | 3 => !un && decide (u ≤ v)
    | 4 => !un && decide (v < u)
    | 5 => !un && decide (v ≤ u)
    | 6 => un
    | _ => !un
  let loud := a.isSig || b.isSig || (un && decide (2 ≤ f.c) && decide (f.c ≤ 5))
  (r, if loud then flagNV else 0)

/-- The exact value of a source of a conversion (R49, R126): unscaled tapered codes, integers under .s or .z. -/
def sourceNum (ty : Nat) (z ftz : Bool) (x : DWord) : Num :=
  let n := x.toNat
  let int (w : Nat) : Num := Num.ofInt (if z then ((n % 2 ^ w : Nat) : Int) else sint w n) 0
  match ty with
  | 0 => int 32
  | 1 => int 64
  | 2 => int 16
  | 3 => int 8
  | 4 => Fmt.f32.decode ftz (n % 2 ^ 32)
  | 5 => Fmt.f16.decode ftz (n % 2 ^ 16)
  | 6 => Fmt.bf16.decode ftz (n % 2 ^ 16)
  | 9 => tapValue 8 (n % 256)
  | 10 => tapValue 6 (n % 64)
  | _ => Num.ofInt (sint 16 n) (-15)

/-- A value converted into a destination type (R49, R50), as the register holds it (R48, R88, R126). -/
def convertTo (ty : Nat) (z : Bool) (h : How) (x : Num) : DWord × Flags :=
  let int (w : Nat) : DWord × Flags :=
    let r := x.clampInt h.rnd (if z then 0 else -(2 ^ (w - 1))) (if z then 2 ^ w - 1 else 2 ^ (w - 1) - 1)
    (if w = 64 then BitVec.ofInt 64 r.1 else (BitVec.ofInt 32 r.1).setWidth 64, r.2)
  let nat (r : Nat × Flags) : DWord × Flags := (BitVec.ofNat 64 r.1, r.2)
  match ty with
  | 0 => int 32
  | 1 => int 64
  | 2 => int 16
  | 3 => int 8
  | 4 => nat (x.round Fmt.f32 h)
  | 5 => nat (x.round Fmt.f16 h)
  | 6 => nat (x.round Fmt.bf16 h)
  | 9 => nat (x.roundTap 8)
  | 10 => nat (x.roundTap 6)
  | _ =>
    let r := (x.scale 15).clampInt h.rnd (-(2 ^ 15)) (2 ^ 15 - 1)
    ((BitVec.ofInt 16 r.1).setWidth 64, r.2)

/-- Does FTZ reach a conversion into this type (R32, R49)? -/
def ftzApplies (ty : Nat) : Bool := ty == 4 || ty == 5 || ty == 6 || ty == 7 || ty == 8

/-- CVT (R126). -/
def cvtVal (f : Fields) (g : Group) (t : Thread) : DWord × Flags :=
  let ftz := t.ftz && ftzApplies f.ty
  convertTo f.ty f.zd ⟨t.rnd f.low3, ftz, f.cvtSat⟩ (sourceNum f.srcTy f.zs ftz (f.opA (f.srcTy == 1) g t))

/-- Register `k` of the group that operand A names; vz and sz read as zero (R9, R125). -/
def operandWord (f : Fields) (g : Group) (t : Thread) (k : Nat) : Word :=
  if f.ca then (if f.a = 127 then 0 else g.sreg (f.a + k)) else if f.a = 255 then 0 else t.reg (f.a + k)

/-- CVTPK (R127); a block scale of −128 gives NaR, and NV for a signalling NaN (R43). -/
def cvtpkVal (f : Fields) (g : Group) (t : Thread) : DWord × Flags :=
  let ftz := t.ftz && ftzApplies f.ty
  let h : How := ⟨t.rnd f.low3, ftz, f.cvtSat⟩
  let src (x : Nat) : Num := Fmt.f32.decode ftz (x % 2 ^ 32)
  let b := (f.opB false g t).toNat
  if f.ty = 9 ∨ f.ty = 10 then
    let w := if f.ty = 9 then 8 else 6
    let s := sint 8 b
    let one (k : Nat) : Nat × Flags :=
      let x := Fmt.f32.decode false (operandWord f g t k).toNat
      if s = -128 then (2 ^ (w - 1), match x with | .nan sig => (if sig then flagNV else 0) | _ => 0)
      else (x.scale (-s)).roundTap w
    let rs := (List.range 4).map one
    (BitVec.ofNat 64 ((List.range 4).foldl (fun x k => x + (rs.getD k (0, 0)).1 * 2 ^ (w * k)) 0),
      rs.foldl (fun fl r => fl ||| r.2) 0)
  else
    let ety := match f.ty with | 7 => 5 | 8 => 6 | _ => 11
    let lo := convertTo ety false h (src (f.opA false g t).toNat)
    let hi := convertTo ety false h (src b)
    (BitVec.ofNat 64 (lo.1.toNat % 65536 + hi.1.toNat % 65536 * 65536), lo.2 ||| hi.2)

/-- CVTXP's results, element by element (R128). -/
def cvtxpVals (f : Fields) (g : Group) (t : Thread) : List (Word × Flags) :=
  let h : How := ⟨t.rnd f.low3, t.ftz, false⟩
  let a := (f.opA false g t).toNat
  if f.srcTy = 9 ∨ f.srcTy = 10 then
    let w := if f.srcTy = 9 then 8 else 6
    let s := sint 8 (f.opB false g t).toNat
    (List.range 4).map (fun k =>
      if s = -128 then (BitVec.ofNat 32 Fmt.f32.nanCode, 0)
      else let r := ((tapValue w (a / 2 ^ (w * k) % 2 ^ w)).scale s).round Fmt.f32 h; (BitVec.ofNat 32 r.1, r.2))
  else
    let ety := match f.srcTy with | 7 => 5 | 8 => 6 | _ => 11
    (List.range 2).map (fun k =>
      let r := convertTo 4 false h (sourceNum ety false t.ftz (BitVec.ofNat 64 (a / 65536 ^ k % 65536)))
      (loWord r.1, r.2))

def xFarith (f : Fields) (s : State) : State := s.runFloat f false (farithVal f)
def xFunary (f : Fields) (s : State) : State := s.runFloat f false (funaryVal f)
def xFmisc (f : Fields) (s : State) : State := s.runFloat f false (fmiscVal f)

/-- FCMP (R123). -/
def xFcmp (f : Fields) (s : State) : State :=
  s.runPlain f State.noFault (fun tid t => let r := fcmpVal f (s.group (gidOf tid)) t; (t.setPred f.d r.1).orFlags r.2)
    (fun _ => [])

def xCvt (f : Fields) (s : State) : State := s.runFloat f (f.ty == 1) (cvtVal f)
def xCvtpk (f : Fields) (s : State) : State := s.runFloat f false (cvtpkVal f)

/-- Vector registers from D on written in order; vz discards all (R9, R78). -/
def Thread.setFrom (t : Thread) (d : Nat) (ws : List Word) : Thread :=
  if d = 255 then t else (List.range ws.length).foldl (fun t k => t.setReg (d + k) (ws.getD k 0)) t

/-- Scalars from D on; sz discards all. -/
def scalFrom (d : Nat) (ws : List Word) : List (Nat × Word) :=
  if d = 127 then [] else (List.range ws.length).map (fun k => (d + k, ws.getD k 0))

/-- CVTXP (R128): D and D + 1, or D to D + 3. -/
def xCvtxp (f : Fields) (s : State) : State :=
  let ok := s.acting f State.noFault
  s.runPlain f State.noFault
    (fun tid t =>
      let rs := cvtxpVals f (s.group (gidOf tid)) t
      (if f.cd then t else t.setFrom f.d (rs.map (·.1))).orFlags (rs.foldl (fun fl r => fl ||| r.2) 0))
    (fun gid => if f.cd then
        scalFrom f.d ((cvtxpVals f (s.group gid) (s.thread (s.pick (ofGroup ok gid)))).map (·.1)) else [])

/-! The meaning of each row of the table of operations. -/

/-- FADD (R116). -/
def execFadd (f : OpF) (s : State) : Host.Outcome State Fault Refusal := .next (xFarith (opFields .base none 0x08 0 f) s)

/-- FADD_X (R116). -/
def execFaddX (f : XForm OpF) (s : State) : Host.Outcome State Fault Refusal := .next (xFarith (opXFields 0x08 0 f) s)

/-- FSUB (R116). -/
def execFsub (f : OpF) (s : State) : Host.Outcome State Fault Refusal := .next (xFarith (opFields .base none 0x08 1 f) s)

/-- FSUB_X (R116). -/
def execFsubX (f : XForm OpF) (s : State) : Host.Outcome State Fault Refusal := .next (xFarith (opXFields 0x08 1 f) s)

/-- FMUL (R116). -/
def execFmul (f : OpF) (s : State) : Host.Outcome State Fault Refusal := .next (xFarith (opFields .base none 0x08 2 f) s)

/-- FMUL_X (R116). -/
def execFmulX (f : XForm OpF) (s : State) : Host.Outcome State Fault Refusal := .next (xFarith (opXFields 0x08 2 f) s)

/-- FFMA (R116). -/
def execFfma (f : EForm) (s : State) : Host.Outcome State Fault Refusal := .next (xFarith (wideFields 0x08 3 f) s)

/-- FMIN (R117). -/
def execFmin (f : OpF) (s : State) : Host.Outcome State Fault Refusal := .next (xFarith (opFields .base none 0x08 4 f) s)

/-- FMIN_X (R117). -/
def execFminX (f : XForm OpF) (s : State) : Host.Outcome State Fault Refusal := .next (xFarith (opXFields 0x08 4 f) s)

/-- FMAX (R117). -/
def execFmax (f : OpF) (s : State) : Host.Outcome State Fault Refusal := .next (xFarith (opFields .base none 0x08 5 f) s)

/-- FMAX_X (R117). -/
def execFmaxX (f : XForm OpF) (s : State) : Host.Outcome State Fault Refusal := .next (xFarith (opXFields 0x08 5 f) s)

/-- FCPYS (R117). -/
def execFcpys (f : OpF) (s : State) : Host.Outcome State Fault Refusal := .next (xFarith (opFields .base none 0x08 6 f) s)

/-- FCPYS_X (R117). -/
def execFcpysX (f : XForm OpF) (s : State) : Host.Outcome State Fault Refusal := .next (xFarith (opXFields 0x08 6 f) s)

/-- FDIV (R116). -/
def execFdiv (f : OpF) (s : State) : Host.Outcome State Fault Refusal := .next (xFarith (opFields .base none 0x08 7 f) s)

/-- FDIV_X (R116). -/
def execFdivX (f : XForm OpF) (s : State) : Host.Outcome State Fault Refusal := .next (xFarith (opXFields 0x08 7 f) s)

/-- FRCP (R119). -/
def execFrcp (f : OpF) (s : State) : Host.Outcome State Fault Refusal := .next (xFunary (opFields .base none 0x09 0 f) s)

/-- FRCP_X (R119). -/
def execFrcpX (f : XForm OpF) (s : State) : Host.Outcome State Fault Refusal := .next (xFunary (opXFields 0x09 0 f) s)

/-- FRSQ (R119). -/
def execFrsq (f : OpF) (s : State) : Host.Outcome State Fault Refusal := .next (xFunary (opFields .base none 0x09 1 f) s)

/-- FRSQ_X (R119). -/
def execFrsqX (f : XForm OpF) (s : State) : Host.Outcome State Fault Refusal := .next (xFunary (opXFields 0x09 1 f) s)

/-- FSQRT (R119). -/
def execFsqrt (f : OpF) (s : State) : Host.Outcome State Fault Refusal := .next (xFunary (opFields .base none 0x09 2 f) s)

/-- FSQRT_X (R119). -/
def execFsqrtX (f : XForm OpF) (s : State) : Host.Outcome State Fault Refusal := .next (xFunary (opXFields 0x09 2 f) s)

/-- FEXP2 (R119). -/
def execFexp2 (f : OpF) (s : State) : Host.Outcome State Fault Refusal := .next (xFunary (opFields .base none 0x09 3 f) s)

/-- FEXP2_X (R119). -/
def execFexp2X (f : XForm OpF) (s : State) : Host.Outcome State Fault Refusal := .next (xFunary (opXFields 0x09 3 f) s)

/-- FLOG2 (R119). -/
def execFlog2 (f : OpF) (s : State) : Host.Outcome State Fault Refusal := .next (xFunary (opFields .base none 0x09 4 f) s)

/-- FLOG2_X (R119). -/
def execFlog2X (f : XForm OpF) (s : State) : Host.Outcome State Fault Refusal := .next (xFunary (opXFields 0x09 4 f) s)

/-- FSIN (R119). -/
def execFsin (f : OpF) (s : State) : Host.Outcome State Fault Refusal := .next (xFunary (opFields .base none 0x09 5 f) s)

/-- FSIN_X (R119). -/
def execFsinX (f : XForm OpF) (s : State) : Host.Outcome State Fault Refusal := .next (xFunary (opXFields 0x09 5 f) s)

/-- FCOS (R119). -/
def execFcos (f : OpF) (s : State) : Host.Outcome State Fault Refusal := .next (xFunary (opFields .base none 0x09 6 f) s)

/-- FCOS_X (R119). -/
def execFcosX (f : XForm OpF) (s : State) : Host.Outcome State Fault Refusal := .next (xFunary (opXFields 0x09 6 f) s)

/-- FTANH (R119). -/
def execFtanh (f : OpF) (s : State) : Host.Outcome State Fault Refusal := .next (xFunary (opFields .base none 0x09 7 f) s)

/-- FTANH_X (R119). -/
def execFtanhX (f : XForm OpF) (s : State) : Host.Outcome State Fault Refusal := .next (xFunary (opXFields 0x09 7 f) s)

/-- FRND (R121). -/
def execFrnd (f : OpF) (s : State) : Host.Outcome State Fault Refusal := .next (xFmisc (opFields .base none 0x0A 0 f) s)

/-- FRND_X (R121). -/
def execFrndX (f : XForm OpF) (s : State) : Host.Outcome State Fault Refusal := .next (xFmisc (opXFields 0x0A 0 f) s)

/-- FCLASS (R122). -/
def execFclass (f : OpF) (s : State) : Host.Outcome State Fault Refusal := .next (xFmisc (opFields .base none 0x0A 1 f) s)

/-- FCLASS_X (R122). -/
def execFclassX (f : XForm OpF) (s : State) : Host.Outcome State Fault Refusal := .next (xFmisc (opXFields 0x0A 1 f) s)

/-- FCMP (R123). -/
def execFcmp (f : EForm) (s : State) : Host.Outcome State Fault Refusal := .next (xFcmp (wideFields 0x0A 2 f) s)

/-- FLDEXP (R124). -/
def execFldexp (f : OpF) (s : State) : Host.Outcome State Fault Refusal := .next (xFmisc (opFields .base none 0x0A 3 f) s)

/-- FLDEXP_X (R124). -/
def execFldexpX (f : XForm OpF) (s : State) : Host.Outcome State Fault Refusal := .next (xFmisc (opXFields 0x0A 3 f) s)

/-- FGETEXP (R124). -/
def execFgetexp (f : OpF) (s : State) : Host.Outcome State Fault Refusal := .next (xFmisc (opFields .base none 0x0A 4 f) s)

/-- FGETEXP_X (R124). -/
def execFgetexpX (f : XForm OpF) (s : State) : Host.Outcome State Fault Refusal := .next (xFmisc (opXFields 0x0A 4 f) s)

/-- FGETMAN (R124). -/
def execFgetman (f : OpF) (s : State) : Host.Outcome State Fault Refusal := .next (xFmisc (opFields .base none 0x0A 5 f) s)

/-- FGETMAN_X (R124). -/
def execFgetmanX (f : XForm OpF) (s : State) : Host.Outcome State Fault Refusal := .next (xFmisc (opXFields 0x0A 5 f) s)

/-- CVT (R126). -/
def execCvt (f : EForm) (s : State) : Host.Outcome State Fault Refusal := .next (xCvt (wideFields 0x0B 0 f) s)

/-- CVTPK (R127). -/
def execCvtpk (f : EForm) (s : State) : Host.Outcome State Fault Refusal := .next (xCvtpk (wideFields 0x0B 1 f) s)

/-- CVTXP (R128). -/
def execCvtxp (f : EForm) (s : State) : Host.Outcome State Fault Refusal := .next (xCvtxp (wideFields 0x0B 2 f) s)

end Sys2Proof.Machine
end

