-- ==== Sys2Proof/Machine/Link.lean ====
section
/-! DEFINITION. The Joeth link layer (23 R394 to R397): the flit header and its CRC, slots, sequence numbers, acceptance, replay, and
the ports. -/

namespace Sys2Proof.Machine

/-- One bit, one byte and a list of bytes of the CRC-32 of IEEE 802.3 (R394). -/
def crcBit (c : Nat) : Nat := if c % 2 = 1 then (c / 2) ^^^ 0xEDB88320 else c / 2
def crcByte (c : Nat) (b : Byte) : Nat := (List.range 8).foldl (fun c _ => crcBit c) (c ^^^ b.toNat)
def crc32 (bs : List Byte) : Nat := bs.foldl crcByte 0xFFFFFFFF ^^^ 0xFFFFFFFF

/-- The header as a 128-bit value, its CRC field zero (R394). -/
def flitValue (h : FlitHead) : BitVec 128 :=
  h.type ++ h.vc ++ h.crd ++ h.cvc ++ h.seq ++ h.ack ++ h.src ++ h.dst ++ h.ctx ++ h.len ++ h.tag ++ h.epoch ++ (0 : BitVec 32)

/-- The CRC of a flit: over its 128 bytes, those of the CRC field taken as zero. -/
def flitCrc (h : FlitHead) (payload : List Byte) : BitVec 32 :=
  BitVec.ofNat 32 (crc32 (leBytes 16 (flitValue h).toNat ++ (List.range 112).map (fun k => payload.getD k 0)))

/-- Slots advertised at training by channel (R395). -/
def slotsOf (vc : Nat) : Nat := match vc with | 0 => 64 | 1 => 64 | 2 => 16 | _ => 8

/-- The channel a TYPE uses; none for an idle flit and the reserved types (R394). -/
def channelOf (type : Nat) : Option Nat := if 1 ≤ type ∧ type ≤ 4 then some (type - 1) else none

namespace State

def port (s : State) (p : Nat) : Port := s.ports.getD p Port.reset
def setPort (s : State) (p : Nat) (v : Port) : State := { s with ports := s.ports.put p v }
def portUp (s : State) (p : Nat) : Bool := (s.port p).up && (s.port p).trained

/-- A channel to which slots are owed, the lowest first: the CRD and CVC of the next flit sent (R395). -/
def owing (p : Port) : Nat × Nat :=
  match (List.range 4).find? (fun c => decide (0 < p.owed.getD c 0)) with
  | some c => (c, min 63 (p.owed.getD c 0))
  | none => (0, 0)

/-- A flit leaves a port now: its SEQ, ACK and slot returns are filled in, and it is kept for a replay (R395, R396). -/
def transmit (s : State) (p : Nat) (h : FlitHead) : State :=
  let v := s.port p
  let o := owing v
  let h := { h with seq := v.seq, ack := v.expect - 1, crd := BitVec.ofNat 6 o.2, cvc := BitVec.ofNat 2 o.1 }
  let h := { h with crc := flitCrc h (Config.flitPayload s.turn h.tag.toNat) }
  let v := { v with
    seq := v.seq + 1
    ackAt := if v.kept = [] then s.cycle else v.ackAt
    kept := (v.kept ++ [h]).drop (v.kept.length + 1 - 256)
    owed := v.owed.putD o.1 (v.owed.getD o.1 0 - o.2) 0
    credits := match channelOf h.type.toNat with
      | some c => v.credits.putD c (v.credits.getD c 0 - 1) 0
      | none => v.credits }
  { s.setPort p v with outbox := s.outbox ++ [.flit p h] }

/-- May a flit of a TYPE leave a port now (R395)? None does before the link is trained. -/
def mayTransmit (s : State) (p type : Nat) : Bool :=
  (s.port p).trained && (match channelOf type with
    | some c => decide (0 < (s.port p).credits.getD c 0)
    | none => true)

/-- The flits that wait at a port leave while their channels have slots, each channel in order (R395). -/
def pumpList (p : Nat) : List FlitHead → State → State
  | [], s => s
  | h :: r, s =>
    let v := s.port p
    let first := !(v.waiting.takeWhile (fun x => x != h)).any (fun x => x.type == h.type)
    if s.mayTransmit p h.type.toNat && first then
      pumpList p r ((s.setPort p { v with waiting := v.waiting.erase h }).transmit p h)
    else pumpList p r s

def pump (s : State) (p : Nat) : State := pumpList p (s.port p).waiting s

/-- A flit handed to a port: sent at once where no earlier flit of its channel waits, else in its turn. -/
def sendOn (s : State) (p : Nat) (h : FlitHead) : State :=
  let v := s.port p
  (s.setPort p { v with waiting := v.waiting ++ [h] }).pump p

/-- The first port that is not marked down, which takes the traffic of those that are (R397). DESIGN CHOICE: log entry 14. -/
def firstUp (s : State) : Option Nat := (List.range 32).find? (fun q => (s.port q).up)

/-- The port toward a module for a pair (R397): its own, at which a flit waits until the link is trained, unless it is marked down; none where
no port works. DESIGN CHOICE: log entry 14. -/
def portTo (s : State) (dst pair : Nat) : Option Nat :=
  let p := Config.portFor dst pair % 32
  if (s.port p).up then some p else s.firstUp

/-- A flit's header before its link fields (R394). -/
def flitHead (s : State) (type dst ctx tag epoch : Nat) : FlitHead where
  type := BitVec.ofNat 4 type
  vc := BitVec.ofNat 2 (type - 1)
  crd := 0
  cvc := 0
  seq := 0
  ack := 0
  src := s.dev
  dst := BitVec.ofNat 6 dst
  ctx := BitVec.ofNat 6 ctx
  len := BitVec.ofNat 8 (min 112 (Config.flitPayload s.turn (tag % 65536)).length)
  tag := BitVec.ofNat 16 tag
  epoch := BitVec.ofNat 16 epoch
  crc := 0

/-- The request of a remote access sent to another module; nothing where no port works (R397, R398). -/
def sendRequest (s : State) (module gid ctx access : Nat) : State :=
  match s.portTo module (s.domOf gid) with
  | some p =>
    let s1 : State := { s with outbox := s.outbox ++ [Message.panelRequest module access] }
    s1.sendOn p (s.flitHead 1 module ctx access (s.context ctx).resets)
  | none => s

/-- The link is trained: each channel has the slots its receiver advertises, but for the flits kept, which are sent again as they were (R395,
R396). DEDUCED: log entry 139. -/
def trainPort (s : State) (p : Nat) : State :=
  let v := s.port p
  let kept (c : Nat) : Nat := (v.kept.filter (fun h => channelOf h.type.toNat == some c)).length
  { s.setPort p { v with
      trained := true, ackAt := s.cycle, owed := [], replays := 0, credits := (List.range 4).map (fun c => (c, slotsOf c - kept c)) } with
    outbox := s.outbox ++ v.kept.map (fun h => .flit p h) }

/-- A link error: the link retrains (R394, R395). -/
def retrainPort (s : State) (p : Nat) : State := { s.trainPort p with outbox := s.outbox ++ [.retrain p] }

/-- The sender's side of an accepted flit: its ACK lets flits go and its slot return is applied (R395, R396). -/
def acknowledge (s : State) (p : Nat) (h : FlitHead) : State :=
  let v := s.port p
  let left := match v.kept.findIdx? (fun k => k.seq == h.ack) with
    | some i => v.kept.drop (i + 1)
    | none => v.kept
  let moved := decide (left.length < v.kept.length)
  let v := { v with
    kept := left, acked := h.ack, ackAt := if moved then s.cycle else v.ackAt, replays := if moved then 0 else v.replays }
  let c := h.cvc.toNat
  let n := v.credits.getD c 0 + h.crd.toNat
  if h.crd ≠ 0 ∧ slotsOf c < n then s.retrainPort p
  else (s.setPort p (if h.crd = 0 then v else { v with credits := v.credits.putD c n 0 })).pump p

/-- A received flit (R394, R396): discarded with a reserved TYPE or a VC that does not match (the link retrains), with a bad CRC, or
out of sequence; otherwise accepted, its slot owed back. -/
def receive (s : State) (p : Nat) (h : FlitHead) (payload : List Byte) : State × Bool :=
  if !s.portUp p then (s, false)
  else if 4 < h.type.toNat ∨ (h.type ≠ 0 ∧ h.vc.toNat + 1 ≠ h.type.toNat) then (s.retrainPort p, false)
  else if h.crc ≠ flitCrc { h with crc := 0 } payload ∨ h.seq ≠ (s.port p).expect then (s, false)
  else
    let v := s.port p
    let s := s.setPort p { v with
      expect := v.expect + 1
      owed := match channelOf h.type.toNat with
        | some c => v.owed.put c (v.owed.getD c 0 + 1)
        | none => v.owed }
    (s.acknowledge p h, true)

/-- A replay from ACK + 1 (R396): the kept flits are sent again as they were. -/
def replay (s : State) (p : Nat) : State :=
  let v := s.port p
  { s.setPort p { v with ackAt := s.cycle, replays := v.replays + 1 } with outbox := s.outbox ++ v.kept.map (fun h => .flit p h) }

/-- A port marked down (R397): what it kept and what waits goes to another port, in order, ahead of its later traffic. -/
def dropPort (s : State) (p : Nat) : State :=
  let v := s.port p
  let s := s.setPort p { v with up := false, kept := [], waiting := [] }
  match s.firstUp with
  | some q => (v.kept.filter (fun h => h.type != 0) ++ v.waiting).foldl (fun s h => s.sendOn q h) s
  | none => s

/-- The working-port mask (R397, R417 type 0x0005). -/
def portMask (s : State) : Nat := ((List.range 32).filter (fun p => (s.port p).up)).foldl (fun m p => m + 2 ^ p) 0

end State

end Sys2Proof.Machine
end

