-- ==== Sys2Proof/Machine/Mem.lean ====
section
/-! DEFINITION. The thread's memory accesses (06 R129 to R135, 15 R265, R268, R269, 23 R398, R411): LD, ST, LDS, STS and PREF,
global and scratchpad, local and remote. -/

namespace Sys2Proof.Machine

/-- The effective address of a global access: the offset added modulo 2^44 (R17, R74, R130). -/
def globalEa (f : Fields) (g : Group) (t : Thread) : Ptr :=
  let p := f.opA true g t
  mkPtr (segOf p) (p.toNat + f.ofs64.toNat)

/-- The address of a scratchpad access (R135). -/
def spadEa (f : Fields) (g : Group) (t : Thread) : Word := loWord (f.opA false g t) + f.x

/-- A loaded value of a size code from its bytes, extended under S (R78, R131): up to 32 bits in the low word. -/
def loadWord (size : Nat) (sx : Bool) (bs : List Byte) : Word :=
  let n := leNat bs
  match size with
  | 0 => if sx && 128 ≤ n then BitVec.ofNat 32 (n + 2 ^ 32 - 2 ^ 8) else BitVec.ofNat 32 n
  | 1 => if sx && 32768 ≤ n then BitVec.ofNat 32 (n + 2 ^ 32 - 2 ^ 16) else BitVec.ofNat 32 n
  | _ => BitVec.ofNat 32 n

/-- The registers a load of a size code fills, from the first register `r` on (R131): a pair holds the lower-addressed word in
the odd register. -/
def loadRegs (r size : Nat) (sx : Bool) (bs : List Byte) : List (Nat × Word) :=
  let w (k : Nat) : Word := BitVec.ofNat 32 (leNat ((bs.drop (4 * k)).take 4))
  match size with
  | 3 => [(r + 1, w 0), (r, w 1)]
  | 4 => [(r + 1, w 0), (r, w 1), (r + 3, w 2), (r + 2, w 3)]
  | _ => [(r, loadWord size sx bs)]

/-- Several vector registers written in order. -/
def Thread.setRegs (t : Thread) : List (Nat × Word) → Thread
  | [] => t
  | (n, x) :: r => (t.setReg n x).setRegs r

/-- The bytes a store of a size code takes from registers read by `rd` (R131). -/
def storeBytes (size : Nat) (rd : Nat → Word) (r : Nat) : List Byte :=
  match size with
  | 0 => leBytes 1 (rd r).toNat
  | 1 => leBytes 2 (rd r).toNat
  | 2 => leBytes 4 (rd r).toNat
  | 3 => leBytes 4 (rd (r + 1)).toNat ++ leBytes 4 (rd r).toNat
  | _ => leBytes 4 (rd (r + 1)).toNat ++ leBytes 4 (rd r).toNat ++ leBytes 4 (rd (r + 3)).toNat ++ leBytes 4 (rd (r + 2)).toNat

/-- The data of a store: D in its class; vz and sz give zeros (R131). -/
def storeData (f : Fields) (g : Group) (t : Thread) : List Byte :=
  let zero := if f.cd then f.d == 127 else f.d == 255
  storeBytes f.size (fun n => if zero then 0 else if f.cd then g.sreg n else t.reg n) f.d

/-- The byte mask of a store, bit k for byte k (R132). -/
def storeMask (f : Fields) (t : Thread) : Nat :=
  if f.bm then (t.reg f.b).toNat % 2 ^ f.sizeBytes else 2 ^ f.sizeBytes - 1

/-- Is byte k enabled? -/
def maskBit (m k : Nat) : Bool := m / 2 ^ k % 2 == 1

/-- The enabled bytes of a store at an address. -/
def maskedCells (a m : Nat) (bs : List Byte) : List Host.Cell :=
  (List.range bs.length).filterMap (fun k => if maskBit m k then some (a + k, bs.getD k 0) else none)

/-- Threads in ascending home lane order (R133, R271). -/
def insertLane (tid : Nat) : List Nat → List Nat
  | [] => [tid]
  | t :: r => if laneOf tid < laneOf t then tid :: t :: r else t :: insertLane tid r
def byLane (tids : List Nat) : List Nat := tids.foldl (fun l t => insertLane t l) []

/-- An output as a leader and its shadow produce it (R385): address, data, byte mask, and the words of a command. -/
structure Output where
  addr : DWord
  data : List Byte
  mask : Nat
  cmd : List Word
  deriving DecidableEq, Repr

/-- How two outputs differ: 1 address, 2 data, 3 mask, 4 command; in several ways, the lowest (R385). DEDUCED: log entry 131. -/
def Output.differs (a b : Output) : Option Nat :=
  if a.addr ≠ b.addr then some 1
  else if (List.range (max a.data.length b.data.length)).any (fun k => maskBit a.mask k && maskBit b.mask k && a.data.getD k 0 != b.data.getD k 0) then
    some 2
  else if a.mask ≠ b.mask then some 3
  else if a.cmd ≠ b.cmd then some 4
  else none

/-- An output without a mask: all its bytes count. -/
def Output.plain (addr : DWord) (data : List Byte) : Output := ⟨addr, data, 2 ^ data.length - 1, []⟩

/-- The registers of a thread that its shadow has too, and a thread with its shadow's. -/
def Lane.of (t : Thread) : Lane := ⟨t.regs, t.preds, t.fpsr, t.fpcr⟩
def Thread.asLane (t : Thread) (l : Lane) : Thread := { t with regs := l.regs, preds := l.preds, fpsr := l.fpsr, fpcr := l.fpcr }

/-- The registers of a group as its shadow has them, and a group with its shadow's. -/
def Twin.of (g : Group) (ts : List (Nat × Thread)) : Twin :=
  ⟨ts.map (fun e => (e.1, Lane.of e.2)), g.sregs, g.mflags, g.tiles, g.tileRecs, g.accs, g.rays, g.norms⟩
def Group.asTwin (g : Group) (w : Twin) : Group :=
  { g with sregs := w.sregs, mflags := w.mflags, tiles := w.tiles, tileRecs := w.tileRecs, accs := w.accs, rays := w.rays, norms := w.norms, shadow := none }

/-- A register of a group by its number (`Take`), for a thread. -/
def Twin.value (w : Twin) (tid n : Nat) : Word :=
  if n < 256 then (match w.lanes.get? tid with | some l => l.regs.getD n 0 | none => 0)
  else if n < 512 then w.sregs.getD (n - 256) 0
  else if n < 1024 then (match w.lanes.get? tid with | some l => if l.preds.getLsbD (n - 512) then 1 else 0 | none => 0)
  else if n < 4096 then w.rays.getD (n - 1024) 0
  else if n < 8191 then w.norms.getD (n - 4096) normDefault
  else match w.lanes.get? tid with | some l => l.fpsr | none => 0

def Lane.setValue (l : Lane) (n : Nat) (v : Word) : Lane :=
  if n < 256 then { l with regs := l.regs.putD n v 0 }
  else if n < 1024 then { l with preds := ((Thread.start 0 0).asLane l |>.setPred (n - 512) (v != 0)).preds }
  else { l with fpsr := v }

def Twin.setValue (w : Twin) (tid n : Nat) (v : Word) : Twin :=
  if 256 ≤ n ∧ n < 512 then { w with sregs := w.sregs.putD (n - 256) v 0 }
  else if 1024 ≤ n ∧ n < 4096 then { w with rays := w.rays.putD (n - 1024) v 0 }
  else if 4096 ≤ n ∧ n < 8191 then { w with norms := w.norms.putD (n - 4096) v normDefault }
  else match w.lanes.get? tid with | some l => { w with lanes := w.lanes.put tid (l.setValue n v) } | none => w

/-- The values of a load-value queue entry taken. -/
def Twin.take (w : Twin) (t : Take) : Twin := t.vals.foldl (fun w e => w.setValue t.tid e.1 e.2) w

/-- Where a load's destination stands. -/
def loadDest (f : Fields) : Dest :=
  if f.cd then (if f.d = 127 then .nothing else .scal f.d f.size f.sx)
  else if f.d = 255 then .nothing else .vec f.d f.size f.sx

/-- The word of ray `r` at lane `i`, and a ray written whole: W direction words, then the norm entry with bits [29:24] zero (R206,
R207, R225). -/
def Group.rayWord (g : Group) (r i : Nat) : Word := g.rays.getD (64 * r + i) 0
def Group.normEntry (g : Group) (r : Nat) : Word := g.norms.getD r normDefault
def Group.setRay (g : Group) (r : Nat) (ws : List Word) (norm : Word) : Group :=
  { g with
    rays := (List.range ws.length).foldl (fun m i => m.putD (64 * r + i) (ws.getD i 0) 0) g.rays
    norms := g.norms.putD r norm normDefault }
def Group.setRayBytes (g : Group) (w r : Nat) (bs : List Byte) : Group :=
  let word (k : Nat) : Word := BitVec.ofNat 32 (leNat ((bs.drop (4 * k)).take 4))
  g.setRay r ((List.range w).map word) (word w &&& 0xC0FFFFFF)

namespace State

/-- The check of a thread's global access, as a fault (R130, R233). DEDUCED: log entry 42. -/
def globalFault (s : State) (tid : Nat) (ea : Ptr) (n size : Nat) (kind : Kind) : Option Flt :=
  match s.check (s.agent tid) ea n size kind with
  | .bad c aux => some ⟨c, ea, aux⟩
  | .ok _ _ => none

/-- A group's own registers as its shadow has a copy of them. -/
def twinOf (s : State) (gid : Nat) : Twin := Twin.of (s.group gid) (s.threads.filter (fun e => gidOf e.1 == gid))

/-- A state in which a group's registers are its shadow's (R383). -/
def twinView (s : State) (gid : Nat) : State :=
  match (s.group gid).shadow with
  | none => s
  | some sh => { s.modGroup gid (·.asTwin sh.twin) with
      threads := s.threads.mapKV (fun tid t =>
        if gidOf tid = gid then (match sh.twin.lanes.get? tid with | some l => t.asLane l | none => t) else t) }

/-- A leader's output that differs from its shadow's (R385): `out` says what an output is in a state. -/
def shadowFault (s : State) (tid : Nat) (out : State → Output) : Option Flt :=
  if (s.group (gidOf tid)).shadow.isNone then none
  else ((out s).differs (out (s.twinView (gidOf tid)))).map (fun w => ⟨codeSdc, (out s).addr, BitVec.ofNat 32 w⟩)

/-- Bytes that arrived for a destination (R131): registers of the thread, scalars of its group, or a ray's lane and norm
(R225). -/
def fill (s : State) (tid : Nat) (d : Dest) (bs : List Byte) : State :=
  match d with
  | .vec r size sx => s.modThread tid (fun t => t.setRegs (loadRegs r size sx bs))
  | .scal r size sx => s.modGroup (gidOf tid) (fun g => g.setSregs (loadRegs r size sx bs))
  | .ray r => s.modGroup (gidOf tid) (fun g => g.setRayBytes (s.widthOf (gidOf tid)) r bs)
  | .nothing => s
  | .nobody => s

/-- A fault deferred to the next use of a destination (R351). -/
def defer (s : State) (tid : Nat) (d : Deferred) : State := s.modThread tid (fun t => { t with deferred := t.deferred ++ [d] })

/-- The threads that take a fault of a destination: every non-exited thread of the group for a ray and for an HST (R225), else the thread
itself. -/
def sharers (s : State) (tid : Nat) (d : Dest) : List Nat :=
  match d with
  | .ray _ => s.presentOf (gidOf tid)
  | .nobody => s.presentOf (gidOf tid)
  | _ => [tid]

/-- A thread that cannot deliver a HOST store takes ONE fault, of the earliest store affected (R411): a later one adds none.
DEDUCED: log entry 101. -/
def oweHostStore (t : Thread) (d : Deferred) : Thread :=
  if t.deferred.any (fun e => e.store && e.code == codeFabric && e.aux.getLsbD 8 && !e.aux.getLsbD 25) then t
  else { t with deferred := t.deferred ++ [d] }

/-- A posted write that cannot be delivered is owed to the thread, of an HST to every thread of its group (R225, R411); `ends` is FAUX
[7:5]. -/
def oweStore (s : State) (p : Posted) (ends : Nat) : State :=
  (s.sharers p.tid p.dest).foldl (fun s t => s.modThread t (fun x => oweHostStore x
    ⟨codeFabric, p.pc, p.addr, accessAux .write p.size ||| BitVec.ofNat 32 (0x100 + 32 * ends), .nothing, true, false⟩)) s

/-- FAUX of an error met in HBM or a die cache: source 0 or 1, kind and size (R380). -/
def errorAux (s : State) (ea : Ptr) (kind : Kind) (size : Nat) : Word :=
  accessAux kind size ||| (if Config.dieCache s.turn ea.toNat then 0x100 else 0)

/-- What a home read met is dealt with (R380): UNCORRECTABLE kills the gang, poison is deferred. -/
def consume (s : State) (tid : Nat) (ea : Ptr) (kind : Kind) (size : Nat) (d : Dest) (m : Met) (k : State → State) : State :=
  match m with
  | .sound => k s
  | .uncorrectable => s.take ⟨tid, codeUncorrectable, ea, s.errorAux ea kind size⟩ s.issue.pc s.issue.pc (BitVec.ofNat 32 (2 ^ (laneOf tid % 32)))
  | .poisoned => (s.sharers tid d).foldl (fun s t => s.defer t ⟨codePoison, s.issue.pc, ea, s.errorAux ea kind size, d, false, false⟩) s

/-- A remote access of a thread, without what only some kinds have. -/
def accessOf (s : State) (tid : Nat) (pc ea : Ptr) (far : Far) (kind : Kind) (size len : Nat) (dest : Dest) : Access where
  tid := tid
  cmd := 0
  ctx := s.ctxOf (gidOf tid)
  resets := (s.context (s.ctxOf (gidOf tid))).resets
  pc := pc
  addr := ea
  far := far
  kind := kind
  size := size
  len := len
  next := 0
  dest := dest
  acquire := none
  spl := false
  issuedAt := s.cycle
  turn := s.turn
  op := .add
  signed := false
  compare := 0
  operand := 0
  data := []
  mask := 0
  sent := false
  done := none

/-- The activity a remote access is counted in: its command's or its group's (R368). -/
def accessActivity (s : State) (a : Access) : Nat :=
  if a.cmd = 0 then s.activityOfGroup (gidOf a.tid) else match s.commands.get? a.cmd with | some c => c.activity | none => 0

/-- A remote access begins (R351, R398, R411): its request leaves, and a thread that acquires waits for its reply (R271). -/
def startAccess (s : State) (a : Access) : State :=
  let n := s.nextAccess
  let out := match a.far with
    | .host _ => s.hostUp
    | .panel md _ _ => (s.portTo md (s.domOf (gidOf a.tid))).isSome
  let s := { s with accesses := s.accesses.put n { a with sent := out }, nextAccess := n + 1 }
  let s := match a.far with
    | .host _ =>
      if s.hostUp then
        { s with outbox := s.outbox ++ [if a.kind = .atomic then Message.hostAtomic n else .hostRead n] }
      else s
    | .panel md _ _ => (if out then s.countUse (s.accessActivity a) 2 1 else s).sendRequest md (gidOf a.tid) a.ctx n
  if a.acquire.isSome then s.modThread a.tid (fun t => { t with wait := .acquire n }) else s

/-- One thread's load (R130, R260, R263, R269); `old` is the state before the instruction, in which the access was checked. -/
def loadOne (s : State) (f : Fields) (old : State) (tid : Nat) : State :=
  let gid := gidOf tid
  let ea := globalEa f (old.group gid) (old.thread tid)
  let d := loadDest f
  match old.check (old.agent tid) ea f.sizeBytes f.size .read with
  | .bad _ _ => s
  | .ok dd (.home a) =>
    let sl := dd.sl || s.sealed (s.ctxOf gid) (segOf ea) (offOf ea) f.sizeBytes
    let r := s.loadBytes tid a f.sizeBytes f.vol sl
    r.1.consume tid ea .read f.size d r.2.2 (fun s => s.fill tid d r.2.1)
  | .ok _ (.far fr) =>
    s.startAccess { s.accessOf tid s.issue.pc ea fr .read f.size f.sizeBytes d with
      acquire := if f.acquires then some f.scope else none, spl := f.spl }

end State

/-- The threads that make a register-targeted access: all that act, or one for each group when D is scalar (R143). -/
def accessors (s : State) (f : Fields) (ok : List Nat) : List Nat :=
  if f.cd then (State.groupsIn ok).map (fun g => s.pick (ofGroup ok g)) else ok

/-- LD (R130, R269): the acquire comes first. -/
def xLd (f : Fields) (s : State) : State :=
  s.runState f (fun tid => s.globalFault tid (globalEa f (s.group (gidOf tid)) (s.thread tid)) f.sizeBytes f.size .read)
    (fun ok s1 =>
      let s2 := if f.acquires then s1.acquireAll (State.groupsIn ok) f.scope else s1
      (accessors s f ok).foldl (fun s' t => s'.loadOne f s t) s2)

/-- One thread's store as its group's path would take it: home bytes, or a posted write to another home. -/
inductive StoreTo where
  | here (cells : List Host.Cell)
  | there (p : Posted)
  deriving DecidableEq, Repr

/-- The scope of a store's release. -/
def relScope (f : Fields) : Option Nat := if f.releases then some f.scope else none

/-- Do stores of two groups of one issue write a byte in common (R133)? -/
def HeldStore.clashes (a b : HeldStore) : Bool := a.tag == b.tag && a.spad == b.spad && gidOf a.tid != gidOf b.tid && shareByte a.bytes b.bytes
/-- A store without the bytes at some addresses. -/
def HeldStore.without (h : HeldStore) (gone : List Nat) : HeldStore := { h with bytes := h.bytes.filter (fun c => !gone.contains c.1) }
/-- The addresses at which a store gives way to one of a higher home lane of its issue (R133). -/
def HeldStore.loses (o h : HeldStore) : List Nat :=
  if h.clashes o && decide (laneOf o.tid < laneOf h.tid) then
    (o.bytes.map (·.1)).filter (fun a => h.bytes.any (fun c => c.1 == a))
  else []
/-- The held stores of a group beside a store of another that takes effect: what one of them gives way at, those held before it give up too, so
that none drains over it (R133); with the addresses. -/
def overruled (h : HeldStore) : List HeldStore → List HeldStore × List Nat
  | [] => ([], [])
  | o :: r =>
    let q := overruled h r
    let gone := o.loses h ++ q.2
    ((if o.spad = h.spad then o.without gone else o) :: q.1, gone)

namespace State

/-- What one thread stores. -/
def storeOf (s : State) (f : Fields) (tid : Nat) : StoreTo :=
  let gid := gidOf tid
  let t := s.thread tid
  let g := s.group gid
  let ea := globalEa f g t
  let m := storeMask f t
  match s.check (s.agent tid) ea (if m = 0 then 1 else f.sizeBytes) f.size .write with
  | .ok _ (.home a) => .here (maskedCells a m (storeData f g t))
  | .ok _ (.far fr) => .there ⟨0, tid, gid, s.issue.pc, ea, fr, if m = 0 then 0 else f.size, 0, storeData f g t, m, .nothing, false⟩
  | .bad _ _ => .here []

/-- What one thread stores to a scratchpad. -/
def spadStoreOf (s : State) (f : Fields) (tid : Nat) : Option HeldStore :=
  let g := s.group (gidOf tid)
  let t := s.thread tid
  match s.checkSpad (gidOf tid) (spadEa f g t) (if storeMask f t = 0 then 1 else f.sizeBytes) f.size .write with
  | .error _ => none
  | .ok (k, o) => some ⟨tid, some k, maskedCells o (storeMask f t) (storeData f g t), relScope f, s.turn,
      (spadEa f g t).setWidth 64, s.issue.pc, storeData f g t, storeMask f t, g.shadow.isNone, false⟩

/-- The stores of an instruction that stay in this module, in home lane order; those of a shadowed group are still to be matched. -/
def storesOf (s : State) (f : Fields) (tids : List Nat) : List HeldStore :=
  (byLane tids).filterMap (fun t =>
    if f.mn = 3 then s.spadStoreOf f t
    else
      match s.storeOf f t with
      | .here c => some ⟨t, none, c, relScope f, s.turn, globalEa f (s.group (gidOf t)) (s.thread t), s.issue.pc,
          storeData f (s.group (gidOf t)) (s.thread t), storeMask f (s.thread t), (s.group (gidOf t)).shadow.isNone, false⟩
      | .there _ => none)

/-- Is a store instruction compared with the shadow's as it issues, and not in the compare buffer (R385)? One with a release, one to another
home, and one whose groups clash. DEDUCED: log entry 131. -/
def matchesNow (s : State) (f : Fields) (tids : List Nat) : Bool :=
  let hs := s.storesOf f tids
  f.releases || hs.any (fun h => hs.any h.clashes) ||
    (f.mn == 1 && tids.any (fun t => match s.storeOf f t with | .there _ => true | .here _ => false))

/-- A store as an output (R385). -/
def storeOut (f : Fields) (tid : Nat) (s : State) : Output :=
  let g := s.group (gidOf tid)
  let t := s.thread tid
  ⟨if f.mn = 3 then (spadEa f g t).setWidth 64 else globalEa f g t, storeData f g t, storeMask f t, []⟩

/-- The comparison of a store that is compared as it issues. -/
def storeShadow (s : State) (f : Fields) (tid : Nat) : Option Flt :=
  if (s.group (gidOf tid)).shadow.isSome && s.matchesNow f (s.guarded f) then s.shadowFault tid (storeOut f tid) else none

/-- The check of a store: a store with no bytes is checked as a one-byte write (R132, R268). DEDUCED: log entry 47. -/
def storeFault (s : State) (f : Fields) (tid : Nat) : Option Flt :=
  let t := s.thread tid
  let ea := globalEa f (s.group (gidOf tid)) t
  let c := if storeMask f t = 0 then s.globalFault tid ea 1 0 .write else s.globalFault tid ea f.sizeBytes f.size .write
  c.orElse (fun _ => s.storeShadow f tid)

/-- The stores of an instruction as they take effect: those compared as they issue are matched. -/
def matchedStores (s : State) (f : Fields) (tids : List Nat) : List HeldStore :=
  let hs := s.storesOf f tids
  if s.matchesNow f tids then hs.map (fun h => { h with matched := true }) else hs

/-- A store that awaits its match joins its group's compare buffer (R385). -/
def awaitMatch (s : State) (h : HeldStore) : State :=
  s.modGroup (gidOf h.tid) (fun g => { g with shadow := g.shadow.map (fun sh => { sh with buffer := sh.buffer ++ [h] }) })

/-- One thread's store takes effect (R259, R265, R269): with a release at gang or wider at its home, relaxed on its group's path, once it
is matched (R385); a scratchpad store likewise. One that clashes with another group's of its issue follows its group's earlier ones at
once, so that the highest home lane's byte stands (R133). -/
def performStore (s : State) (h : HeldStore) (clash : Bool) : State :=
  let gid := gidOf h.tid
  if !h.matched then s.awaitMatch h
  else
    match h.spad with
    | some k =>
      if h.rel.isSome then s.spadCells k h.bytes
      else if clash then (s.drainSpad gid).spadCells k h.bytes
      else s.onPath h
    | none =>
      if (match h.rel with | some sc => decide (2 ≤ sc) | none => false) then
        (s.countLines gid h.bytes).domainHome (s.domOf gid) h.bytes
      else if clash then (s.drainPath gid (s.group gid).path.length).overlayCells (s.domOf gid) h.bytes
      else s.onPath h

/-- Does a thread's group speculate? -/
def specs (s : State) (tid : Nat) : Bool := (s.group (gidOf tid)).spec.isSome

/-- A speculating group holds a store; what its threads have read ahead of the bytes is gone (R178). -/
def holdStore (s : State) (h : HeldStore) : State :=
  let s := s.modGroup (gidOf h.tid) (fun g => { g with spec := g.spec.map (fun sp => { sp with stores := sp.stores ++ [h] }) })
  match h.spad with
  | some k => s.dropAhead (gidOf h.tid) k h.bytes
  | none => s

/-- Of some speculating groups of an issue, those whose held stores give way to a store that takes effect: their earlier stores are performed
first (R133). -/
def overrule (s : State) (gids : List Nat) (h : HeldStore) : State :=
  (gids.filter (fun g => (s.storesHeld g).any (fun o => decide (o.loses h ≠ [])))).foldl (fun s g =>
    ((s.drainPath g (s.group g).path.length).drainSpad g).modGroup g (fun x => { x with
      spec := x.spec.map (fun sp => { sp with stores := (overruled h sp.stores).1 }) })) s

/-- The stores of one issue (R133, R178): a speculating group holds its own; then the others take effect in home lane order. -/
def storeAll (s : State) (all : List HeldStore) : State :=
  let held := all.filter (fun h => s.specs h.tid)
  (all.filter (fun h => !s.specs h.tid)).foldl (fun s h =>
    (s.overrule (groupsIn (held.map (·.tid))) h).performStore h (all.any h.clashes)) (held.foldl holdStore s)

/-- A store to another home leaves (R259, R398, R411): a host write is sent as a posted write, without a byte as a zero-length one, or, with
the link down, is undeliverable; a panel store waits for its acknowledgement. -/
def postStore (s : State) (p : Posted) : State :=
  match p.far with
  | .host h =>
    if s.hostUp then
      { s with
        outbox := s.outbox ++ [if p.mask = 0 then .hostWrite (h / 4 * 4) [] 0 else .hostWrite h p.data p.mask]
        posted := s.posted ++ [{ p with order := s.nextAccess }]
        nextAccess := s.nextAccess + 1 }
    else s.oweStore p 0
  | .panel _ _ _ =>
    s.startAccess { s.accessOf p.tid p.pc p.addr p.far .write p.size p.data.length p.dest with data := p.data, mask := p.mask }

end State

/-- The release of a store's order, by the groups that do not speculate; a speculating group makes it as the store drains (R178). -/
def State.releaseFor (s : State) (f : Fields) (ok : List Nat) : State :=
  if f.releases then s.publishAll ((State.groupsIn ok).filter (fun g => (s.group g).spec.isNone)) f.scope else s

/-- ST (R130, R133, R268, R269): the release comes first; at gang or wider the store itself is then written to its home. -/
def xSt (f : Fields) (s : State) : State :=
  s.runState f (s.storeFault f) (fun ok s1 =>
    let there := (byLane ok).filterMap (fun t => match s.storeOf f t with | .there p => some p | .here _ => none)
    there.foldl (fun s p => s.postStore p) ((s1.releaseFor f ok).storeAll (s.matchedStores f ok)))

/-- One thread's scratchpad load (R135, R265): its own earlier stores to the member are performed first. -/
def spadLoad (f : Fields) (tid : Nat) (s : State) : State :=
  let gid := gidOf tid
  match s.checkSpad gid (spadEa f (s.group gid) (s.thread tid)) f.sizeBytes f.size .read with
  | .error _ => s
  | .ok (k, o) =>
    let s := s.performSpad gid (fun p => p.tid == tid && p.team == k)
    (s.passAhead tid k o f.sizeBytes).fill tid (loadDest f) (s.spadRead tid k o f.sizeBytes)

/-- The check of a scratchpad access (R135). -/
def spadFault (f : Fields) (s : State) (tid : Nat) (none_ : Bool) (kind : Kind) : Option Flt :=
  let gid := gidOf tid
  let g := s.group gid
  let n := if none_ then 1 else f.sizeBytes
  match s.checkSpad gid (spadEa f g (s.thread tid)) n (if none_ then 0 else f.size) kind with
  | .error e => some e
  | .ok _ => none

/-- LDS (R135, R265): with acq at gang the snapshot is dropped. -/
def xLds (f : Fields) (s : State) : State :=
  s.runState f (fun tid => spadFault f s tid false .read) (fun ok s1 =>
    let s2 := if f.acquires then s1.acquireAll (State.groupsIn ok) f.scope else s1
    (accessors s f ok).foldl (fun s t => spadLoad f t s) s2)

/-- STS (R133, R135, R265, R268): relaxed it may be performed later; with rel it follows the release. -/
def xSts (f : Fields) (s : State) : State :=
  s.runState f
    (fun tid => (spadFault f s tid (storeMask f (s.thread tid) == 0) .write).orElse (fun _ => s.storeShadow f tid))
    (fun ok s1 => (s1.releaseFor f ok).storeAll (s.matchedStores f ok))

/-- PREF asks for a line and changes nothing a load returns (R134). -/
def xPref (f : Fields) (s : State) : State := s.runPlain f State.noFault (fun _ t => t) (fun _ => [])

/-! The meaning of each row of the table of operations. -/

/-- LD (R130). -/
def execLd (f : MemF) (s : State) : Host.Outcome State Fault Refusal := .next (xLd (memFields .base none 0 f) s)

/-- LD_X (R269). -/
def execLdX (f : XForm MemF) (s : State) : Host.Outcome State Fault Refusal := .next (xLd (memXFields 0 f) s)

/-- ST (R130). -/
def execSt (f : MemF) (s : State) : Host.Outcome State Fault Refusal := .next (xSt (memFields .base none 1 f) s)

/-- ST_X (R269). -/
def execStX (f : XForm MemF) (s : State) : Host.Outcome State Fault Refusal := .next (xSt (memXFields 1 f) s)

/-- LDS (R135). -/
def execLds (f : MemF) (s : State) : Host.Outcome State Fault Refusal := .next (xLds (memFields .base none 2 f) s)

/-- LDS_X (R265). -/
def execLdsX (f : XForm MemF) (s : State) : Host.Outcome State Fault Refusal := .next (xLds (memXFields 2 f) s)

/-- STS (R135). -/
def execSts (f : MemF) (s : State) : Host.Outcome State Fault Refusal := .next (xSts (memFields .base none 3 f) s)

/-- STS_X (R265). -/
def execStsX (f : XForm MemF) (s : State) : Host.Outcome State Fault Refusal := .next (xSts (memXFields 3 f) s)

/-- PREF (R134). -/
def execPref (f : MemF) (s : State) : Host.Outcome State Fault Refusal := .next (xPref (memFields .base none 4 f) s)

/-- PREF_X (R134). -/
def execPrefX (f : XForm MemF) (s : State) : Host.Outcome State Fault Refusal := .next (xPref (memXFields 4 f) s)

end Sys2Proof.Machine
end

