-- ==== Sys2Proof/Machine/Atomic.lean ====
section
/-! DEFINITION. ATOM, PHASE, SEAL and UNSEAL (15 R270 to R273, 23 R399, R412 to R414). -/

namespace Sys2Proof.Machine

/-- The operation code of ATOM (R270). -/
def atomOp (f : Fields) : AtomOp :=
  match f.ty with
  | 0 => .add | 1 => .min | 2 => .max | 3 => .and | 4 => .or | 5 => .xor | 6 => .exch | 7 => .cas | _ => .fadd

/-- Is the type b64 (R270)? -/
def atomWide (f : Fields) : Bool := f.mod.getLsbD 0
def atomBytes (f : Fields) : Nat := if atomWide f then 8 else 4
/-- The size code FAUX records. -/
def atomSize (f : Fields) : Nat := if atomWide f then 3 else 2

/-- `new` of ATOM for t-bit operands, with the flags of fadd (R271). -/
def atomNew (op : AtomOp) (signed : Bool) (t : Nat) (old d b : DWord) : DWord × Flags :=
  let m := 2 ^ t
  let o := old.toNat % m
  let n := b.toNat % m
  let lt (x y : Nat) : Bool := if signed then decide (sint t x < sint t y) else decide (x < y)
  match op with
  | .add => (BitVec.ofNat 64 ((o + n) % m), 0)
  | .min => (BitVec.ofNat 64 (if lt n o then n else o), 0)
  | .max => (BitVec.ofNat 64 (if lt o n then n else o), 0)
  | .and => (BitVec.ofNat 64 (o &&& n), 0)
  | .or => (BitVec.ofNat 64 (o ||| n), 0)
  | .xor => (BitVec.ofNat 64 (o ^^^ n), 0)
  | .exch => (BitVec.ofNat 64 n, 0)
  | .cas => (BitVec.ofNat 64 (if o = d.toNat % m then n else o), 0)
  | .fadd =>
    let r := fArith Fmt.f32 ⟨.rn, false, false⟩ 0 (Fmt.f32.decode false o) (Fmt.f32.decode false n) (.fin false 0 0)
    (BitVec.ofNat 64 r.1, r.2)

/-- Is nothing written: a failed compare (R271)? -/
def atomFails (op : AtomOp) (t : Nat) (old d : DWord) : Bool :=
  decide (op = .cas) && decide (old.toNat % 2 ^ t ≠ d.toNat % 2 ^ t)

/-- The destination of ATOM's result (R270). -/
def atomDest (f : Fields) : Dest :=
  if f.cd then (if f.d = 127 then .nothing else .scal f.d (atomSize f) false)
  else if f.d = 255 then .nothing else .vec f.d (atomSize f) false

namespace State

/-- The domain's own overlay bytes of a location are written home first, so that an atomic at home follows the thread's earlier
stores (R137, R261). -/
def flushBytes (s : State) (d a n : Nat) : State :=
  let mine := (s.domain d).overlay.filter (fun e => decide (a ≤ e.1) && decide (e.1 < a + n))
  if mine = [] then s
  else (s.domainHome d mine).modDomain d (fun p =>
    { p with overlay := p.overlay.filter (fun e => !(decide (a ≤ e.1) && decide (e.1 < a + n))) })

/-- A refused host atomic (R412 to R414): ATOM_UR with a reason, deferred; at once for an acquiring ATOM. -/
def atomRefused (s : State) (f : Fields) (tid : Nat) (ea : Ptr) (reason : Nat) : State :=
  s.defer tid ⟨codeAtomUr, s.issue.pc, ea, accessAux .atomic (atomSize f) ||| BitVec.ofNat 32 (reason * 2 ^ 28), atomDest f, false,
    f.acquires⟩

/-- Has the die of a core cached a denial of the page (R413)? -/
def deniedPage (s : State) (die ctx page : Nat) : Bool := (s.die die).denial.any (fun e => e.ctx == ctx && e.page == page)

/-- A denial entered, or hit by an ATOM at `ea`, is the most recently used (R413). -/
def touchDenial (s : State) (die ctx page : Nat) (ea : Ptr) : State :=
  let at_ : Nat × Nat := (segOf ea, ((s.descHome ctx (segOf ea)).base + offOf ea) / 65536)
  s.modDie die (fun d =>
    let old := (d.denial.filter (fun e => e.ctx == ctx && e.page == page)).flatMap (·.via)
    { d with denial :=
      (⟨ctx, page, at_ :: old.filter (· != at_)⟩ :: d.denial.filter (fun e => !(e.ctx == ctx && e.page == page))).take Config.denialCap })

/-- One thread's atomic (R271); `old` is the state before the instruction, in which the access was checked and the operands stand. Before one
at home come the group's earlier stores of the bytes (R264); one of the domain is a store in the group's order (R259).
DEDUCED: log entry 27. -/
def atomOne (s : State) (f : Fields) (old : State) (tid : Nat) : State :=
  let gid := gidOf tid
  let g := old.group gid
  let t := old.thread tid
  let ea := globalEa f g t
  let n := atomBytes f
  let w := 8 * n
  let b := f.opB (atomWide f) g t
  let d := f.opD (atomWide f) g t
  let op := atomOp f
  match old.check (old.agent tid) ea n (atomSize f) .atomic with
  | .bad _ _ => s
  | .ok _ (.far fr) =>
    let go (s : State) : State :=
      s.startAccess { s.accessOf tid s.issue.pc ea fr .atomic (atomSize f) n (atomDest f) with
        acquire := if f.acquires then some f.scope else none, spl := f.spl, op := op, signed := !f.z, compare := d, operand := b
        mask := 2 ^ n - 1 }
    match fr with
    | .panel _ _ _ => go s
    | .host h =>
      let die := dieOfCore g.core
      let page := h / 65536
      if !(op == .add || op == .exch || op == .cas) then s.atomRefused f tid ea 2
      else if s.deniedPage die (s.ctxOf gid) page then (s.touchDenial die (s.ctxOf gid) page ea).atomRefused f tid ea 1
      else go s
  | .ok dd (.home a) =>
    let home := decide (2 ≤ f.scope)
    let s := if home then (s.drainTo gid a n).flushBytes (s.domOf gid) a n else s.drainPath gid (s.group gid).path.length
    let r := s.loadBytes tid a n home dd.sl
    r.1.consume tid ea .atomic (atomSize f) (atomDest f) r.2.2 (fun s =>
      let was : DWord := BitVec.ofNat 64 (leNat r.2.1)
      let y := atomNew op (!f.z) w was d b
      let bs := leBytes n y.1.toNat
      let cells := if atomFails op w was d then [] else (List.range n).map (fun k => (a + k, bs.getD k 0))
      let s := if home then (s.countLines gid cells).domainHome (s.domOf gid) cells else s.overlayCells (s.domOf gid) cells
      (s.fill tid (atomDest f) r.2.1).modThread tid (fun t => t.orFlags y.2))

end State

/-- Is a thread's ATOM performed at a home of this module, so that its old value reaches the thread with the instruction? -/
def State.atomHere (s : State) (f : Fields) (tid : Nat) : Bool :=
  match s.check (s.agent tid) (globalEa f (s.group (gidOf tid)) (s.thread tid)) (atomBytes f) (atomSize f) .atomic with
  | .ok _ (.home _) => true
  | _ => false

/-- An ATOM as an output (R385): its address and operands. -/
def atomOut (f : Fields) (tid : Nat) (s : State) : Output :=
  let g := s.group (gidOf tid)
  let t := s.thread tid
  Output.plain (globalEa f g t) (leBytes 8 (f.opB (atomWide f) g t).toNat ++ leBytes 8 (f.opD (atomWide f) g t).toNat)

/-- ATOM (R271): the release, the atomics in ascending home lane order, the acquire of those performed here; one at a distant home takes
its acquire when its old value has come. -/
def xAtom (f : Fields) (s : State) : State :=
  s.runState f
    (fun tid =>
      let ea := globalEa f (s.group (gidOf tid)) (s.thread tid)
      (s.globalFault tid ea (atomBytes f) (atomSize f) .atomic).orElse (fun _ => s.shadowFault tid (atomOut f tid)))
    (fun ok s1 =>
      let gids := State.groupsIn ok
      let s2 := if f.releases then s1.publishAll gids f.scope else s1
      let s3 := (byLane (accessors s f ok)).foldl (fun s' t => s'.atomOne f s t) s2
      if f.acquires then s3.acquireAll (State.groupsIn ((accessors s f ok).filter (s.atomHere f))) f.scope else s3)

/-- PHASE (R272). -/
def xPhase (f : Fields) (s : State) : State :=
  s.runState f State.noFault (fun ok s1 =>
    (State.groupsIn ok).foldl (fun s' g =>
      let s' := if f.releases then s'.publish g f.scope else s'
      let s' := if f.acquires then s'.acquire g f.scope else s'
      s'.modGroup g (fun x => { x with phs := x.phs + 1 })) s1)

namespace State

/-- The home addresses of a range of a segment by its page entries: first address and length of each piece. -/
def homeRanges (s : State) (core : Option Nat) (ctx seg off n : Nat) : List (Nat × Nat) :=
  let d := match core with | some c => s.descOn c ctx seg | none => s.descHome ctx seg
  (pagePieces off n).filterMap (fun q =>
    (s.pageOn core ctx (d.base + q.1)).map (fun e => (pageFrame e + (d.base + q.1) % 65536, q.2)))

/-- Does an address lie in one of the pieces? -/
def inRanges (rs : List (Nat × Nat)) (a : Nat) : Bool := rs.any (fun r => decide (r.1 ≤ a) && decide (a < r.1 + r.2))

/-- The shoot-down of SEAL (R273): store paths into overlays, overlay bytes of the range home, snapshot lines of the range
dropped, in every domain. -/
def shootDown (s : State) (rs : List (Nat × Nat)) : State :=
  let s := s.groups.keys.foldl (fun s g => s.drainPath g (s.group g).path.length) s
  s.domains.keys.foldl (fun s d =>
    let mine := (s.domain d).overlay.filter (fun e => inRanges rs e.1)
    let s := s.domainHome d mine
    s.modDomain d (fun p => { p with
      overlay := p.overlay.filter (fun e => !inRanges rs e.1)
      lines := p.lines.filter (fun l => !rs.any (fun r => overlap r.1 r.2 (64 * l.1) 64)) })) s

/-- The pointer and the length of SEAL and UNSEAL in a thread. -/
def sealRange (s : State) (f : Fields) (tid : Nat) : Ptr × Nat :=
  let g := s.group (gidOf tid)
  let t := s.thread tid
  (f.opA true g t, (f.opB false g t).toNat % 2 ^ 32)

/-- The check of SEAL and UNSEAL (R273): FADDR = p, FAUX kind write, size 0. -/
def sealFault (s : State) (f : Fields) (tid : Nat) : Option Flt :=
  let r := s.sealRange f tid
  let mis := r.2 == 0 || r.2 % 256 != 0 || offOf r.1 % 256 != 0
  (s.checkRange { s.agent tid with seals := false } r.1 r.2 mis .write).map (fun e => ⟨e.1, r.1, e.2.1⟩)

/-- SEAL of one thread (R273). -/
def sealOne (s : State) (f : Fields) (tid : Nat) : State :=
  let r := s.sealRange f tid
  let gid := gidOf tid
  let ctx := s.ctxOf gid
  let core := (s.group gid).core
  let seg := segOf r.1
  let off := offOf r.1
  let d := s.descOn core ctx seg
  let s := s.publish gid 3
  if d.type != 0 || d.sl || s.sealed ctx seg off r.2 || decide (Config.sealCap ≤ (s.context ctx).seals.length) then
    s.modThread tid (fun t => t.setPred f.d false)
  else
    let s := s.modContext ctx (fun c => { c with seals := c.seals ++ [⟨seg, off, r.2⟩] })
    (s.shootDown (s.homeRanges (some core) ctx seg off r.2)).modThread tid (fun t => t.setPred f.d true)

/-- UNSEAL of one thread (R273): the mirrors of the range are dropped. -/
def unsealOne (s : State) (f : Fields) (tid : Nat) : State :=
  let r := s.sealRange f tid
  let gid := gidOf tid
  let ctx := s.ctxOf gid
  let e : SealEntry := ⟨segOf r.1, offOf r.1, r.2⟩
  let s := s.publish gid 3
  if (s.context ctx).seals.contains e then
    let rs := s.homeRanges (some (s.group gid).core) ctx (segOf r.1) (offOf r.1) r.2
    ({ s.modContext ctx (fun c => { c with seals := c.seals.erase e }) with
      mirrors := s.mirrors.filter (fun m => !rs.any (fun q => overlap q.1 q.2 (64 * (m.1 / 4)) 64)) }).modThread tid (fun t => t.setPred f.d true)
  else s.modThread tid (fun t => t.setPred f.d false)

end State

def xSeal (f : Fields) (s : State) : State :=
  s.runState f (s.sealFault f) (fun ok s1 => (byLane ok).foldl (fun s t => s.sealOne f t) s1)
def xUnseal (f : Fields) (s : State) : State :=
  s.runState f (s.sealFault f) (fun ok s1 => (byLane ok).foldl (fun s t => s.unsealOne f t) s1)

/-! The meaning of each row of the table of operations. -/

/-- ATOM (R271). -/
def execAtom (f : EForm) (s : State) : Host.Outcome State Fault Refusal := .next (xAtom (wideFields 0x20 0 f) s)

/-- PHASE (R272). -/
def execPhase (f : EForm) (s : State) : Host.Outcome State Fault Refusal := .next (xPhase (wideFields 0x21 0 f) s)

/-- SEAL (R273). -/
def execSealRange (f : EForm) (s : State) : Host.Outcome State Fault Refusal := .next (xSeal (wideFields 0x21 1 f) s)

/-- UNSEAL (R273). -/
def execUnsealRange (f : EForm) (s : State) : Host.Outcome State Fault Refusal := .next (xUnseal (wideFields 0x21 2 f) s)

end Sys2Proof.Machine
end

