-- ==== Sys2Proof/Machine/HostMem.lean ====
section
/-! DEFINITION. Host memory as the host performs what the module has sent it (23 R411, R412), and the writes an engine makes at their homes
(18 R310, R317). -/

namespace Sys2Proof.Machine

/-- Where byte `k` of an access to host memory lies: a host page follows another at `next` (R225). -/
def hostAt (h next k : Nat) : Nat := if (h + k) / 65536 = h / 65536 then h + k else next + (h + k) % 65536

/-- Is an access one of host memory, and do two of them share a byte? -/
def Access.host (a : Access) : Option Nat := match a.far with | .host h => some h | .panel _ _ _ => none
def Access.meets (a : Access) (h next n : Nat) : Bool :=
  match a.host with
  | some g => (List.range a.len).any (fun j => (List.range n).any (fun k => hostAt g a.next j == hostAt h next k))
  | none => false

/-- Is an access its whole group's: one with a scalar or a ray for its destination (R143, R225)? -/
def Access.ofGroup (a : Access) : Bool := match a.dest with | .scal _ _ _ => true | .ray _ => true | _ => false

/-- Which accesses of host memory the host performs before another: a thread's loads of one byte in order, and its group's (R264), the
atomics of one issue in lane order (R271). -/
def Access.before (p n : Access) : Bool :=
  ((p.tid == n.tid || (gidOf p.tid == gidOf n.tid && (p.ofGroup || n.ofGroup))) && (match n.host with | some h => p.meets h n.next n.len | none => false)) ||
    (p.turn == n.turn && decide (p.kind = .atomic) && decide (n.kind = .atomic))

namespace State

/-- One posted write performed at the host: its enabled bytes in host memory (R132, R411); it stays listed until a flush confirms it. -/
def performPosted (s : State) (p : Posted) : State :=
  match p.far with
  | .host h =>
    { s with
      hostMem := (maskedCells 0 p.mask p.data).foldl (fun m c => m.putD (hostAt h p.next c.1) c.2 0) s.hostMem
      posted := s.posted.map (fun q => if q = p then { q with done := true } else q) }
  | .panel _ _ _ => s

/-- A read or an atomic performed at the host (R411, R412): its old bytes are kept for the reply. -/
def performHost (s : State) (k : Nat) : State :=
  match s.accesses.get? k with
  | none => s
  | some a =>
    match a.far with
    | .panel _ _ _ => s
    | .host h =>
      let old := (List.range a.len).map (fun j => s.hostMem.getD (hostAt h a.next j) 0)
      let s := { s with accesses := s.accesses.put k { a with done := some old } }
      let o : DWord := BitVec.ofNat 64 (leNat old)
      if a.kind = .atomic ∧ !atomFails a.op (8 * a.len) o a.compare then
        { s with hostMem := s.hostMem.putBytes h (leBytes a.len (atomNew a.op a.signed (8 * a.len) o a.compare a.operand).1.toNat) }
      else s

/-- The reads and atomics of host memory picked are performed, if they were not, after those that come before them. -/
def hostReads (s : State) (pick : Nat → Access → Bool) : State :=
  let open_ := s.accesses.filter (fun e => e.2.host.isSome && e.2.sent && e.2.done.isNone && e.2.size != 5)
  (splitBefore (fun p n => Access.before p.2 n.2) (fun e => pick e.1 e.2) open_).1.foldl (fun s e => s.performHost e.1) s

/-- A posted write performed after the reads its thread had sent of the bytes it writes (R137, R411). -/
def hostWrite (s : State) (p : Posted) : State :=
  let h := match p.far with | .host h => h | .panel _ _ _ => 0
  (s.hostReads (fun j a => decide (j < p.order) && a.tid == p.tid && a.meets h p.next p.data.length)).performPosted p

/-- Every posted write sent before remote access `k` is performed: a read does not pass it (R411). -/
def performBefore (s : State) (k : Nat) : State :=
  (s.posted.filter (fun p => decide (p.order ≤ k) && !p.done)).foldl (fun s p => s.hostWrite p) s

/-- The oldest posted write not yet performed is performed (R411). -/
def hostPerform (s : State) : State :=
  match s.posted.find? (fun p => !p.done) with
  | none => s
  | some p => s.hostWrite p

/-- Whatever a group has sent to the host is performed (R181). -/
def hostSettle (s : State) (gid : Nat) : State :=
  if s.hostUp then
    ((s.posted.filter (fun p => p.gid == gid && !p.done)).foldl (fun s p => s.hostWrite p) s).hostReads (fun _ a => gidOf a.tid == gid)
  else s

/-- The host performs remote access `k`: a read or an atomic that has reached it (R411, R412). -/
def hostDo (s : State) (k : Nat) : State := (s.performBefore k).hostReads (fun j _ => j == k)

/-- Bytes written by an engine in another module: requests of up to 64 bytes, counted with command `k` (R310, R398). DEDUCED: log entry
127. -/
def panelStore (s : State) (ctx k : Nat) (p : Ptr) (m g o : Nat) (bs : List Byte) : State :=
  (List.range ((bs.length + 63) / 64)).foldl (fun s j =>
    let c := (bs.drop (64 * j)).take 64
    s.startAccess { s.accessOf 0 0 (mkPtr (segOf p) (offOf p + 64 * j)) (.panel m g (o + 64 * j)) .write 0 c.length .nothing with
      cmd := k, ctx := ctx, resets := (s.context ctx).resets, data := c, mask := 2 ^ c.length - 1 }) s

/-- Bytes written by an engine for command `k`, or for none, at their homes; a bad source byte marks its line poison (R317, R380). -/
def store (s : State) (ctx k : Nat) (p : Ptr) (bytes : List Byte) (bad : List Bool) : State :=
  ((s.pieces ctx p bytes.length).foldl (fun (r : State × Nat) q =>
    let bs := (bytes.drop r.2).take q.2
    let bad := (bad.drop r.2).take q.2
    let s := r.1
    (match q.1 with
      | .home a =>
        let s := s.putCells ((List.range q.2).map (fun k => (a + k, bs.getD k 0)))
        let lines := ((List.range q.2).filterMap (fun k => if bad.getD k false then some ((a + k) / 64) else none)).eraseDups
        { s with poison := lines.foldl (fun l x => if l.contains x then l else x :: l) s.poison }
      | .far (.host h) => { s with hostMem := s.hostMem.putBytes h bs }
      | .far (.panel m g o) => s.panelStore ctx k (mkPtr (segOf p) (offOf p + r.2)) m g o bs, r.2 + q.2)) (s, 0)).1

end State

end Sys2Proof.Machine
end

