-- ==== Sys2Proof/Machine/Collective.lean ====
section
/-! DEFINITION. The collective branch (10 R172 to R189, 23 R401, R402): CBR, CBSYNC, CMEMB and CMQ, the speculation state of a
group, and the resolution, dissolution and timing out of an instance. -/

namespace Sys2Proof.Machine

/-- The domain an instruction of major 0x16 names (R185). -/
def cbDom (f : Fields) : Nat := f.c % 16

/-- FAUX of the two collective faults (R183). DEDUCED: log entry 35. -/
def cbAux (reason count inst dom : Nat) : Word :=
  BitVec.ofNat 32 (reason * 2 ^ 28 + min count 4095 * 2 ^ 16 + inst % 4096 * 16 + dom)

namespace State

/-- The counts in sN to sN+3 (R172). -/
def readDecl (g : Group) (n : Nat) : Decl :=
  ⟨(g.sreg n).toNat, (g.sreg (n + 1)).toNat, (g.sreg (n + 2)).toNat, (g.sreg (n + 3)).toNat⟩

/-- Do the counts keep the limits of R172? -/
def declOk (x : Decl) : Bool :=
  decide (1 ≤ x.g) && decide (x.g ≤ 384) && decide (1 ≤ x.t) && decide (x.t ≤ 65536) && decide (1 ≤ x.m) && decide (x.m ≤ 64)
    && decide (x.level ≤ 2) && (x.level != 0 || (x.t == 1 && x.m == 1)) && (x.level != 1 || x.m == 1)

/-- The launch that holds a domain at level 1 or 2: one that has a member group that has not ended (R172). -/
def domHolder (s : State) (ctx d : Nat) : Option Nat :=
  (s.groups.keys.find? (fun g =>
    s.ctxOf g == ctx && !s.teamOver (teamOf g) && !s.groupEnded g &&
      (match ((s.group g).domain d).decl with | some x => x.level != 0 | none => false))).map
    (fun g => (s.teamAt g).launch)

/-- The reason for which a CMEMB faults in a group, if any (R183, R188). DEDUCED: log entry 116. -/
def declReason (s : State) (gid d : Nat) (x : Decl) : Option Nat :=
  let u := (s.group gid).domain d
  if u.decl = some x then none
  else if !declOk x then some 1
  else if u.decl.isSome && u.count != 0 then some 3
  else if x.level = 0 then none
  else
    match s.domHolder (s.ctxOf gid) d with
    | some l => if l = (s.teamAt gid).launch then none else some 7
    | none => none

/-- A declaration recorded (R188). A domain that no launch held starts with no instance (R172). -/
def declareGroup (s : State) (gid d : Nat) (x : Decl) : State :=
  let u := (s.group gid).domain d
  if u.decl = some x then s
  else
    let ctx := s.ctxOf gid
    let l := (s.teamAt gid).launch
    let fresh := x.level != 0 && (s.domHolder ctx d).isNone
    let s := s.modGroup gid (fun g => g.setDomain d { u with decl := some x })
    if fresh then
      let key := d * 4 + 2
      let s := s.modContext ctx (fun c => { c with
        holder := c.holder.put d l
        gone := c.gone.filter (fun e => e.1 != key)
        resolved := c.resolved.filter (fun e => e.1 != key) })
      { s with insts := s.insts.filter (fun e => !(e.2.ctx == ctx && e.2.set == key)) }
    else s

/-- The set of instances a group's entries in a domain go to (R172). -/
def setOf (s : State) (gid d : Nat) (x : Decl) : Nat := setKey (teamOf gid) (s.teamAt gid).launch d x.level

/-- The open instance of a set with a number. -/
def openInst (s : State) (ctx set number : Nat) : Option (Nat × Instance_) :=
  s.insts.find? (fun e => e.2.ctx == ctx && e.2.set == set && e.2.number == number)

/-- The deductions from instance `number` of a set: the lost members that had not entered it (R174). -/
def deductions (s : State) (ctx set number : Nat) : Nat :=
  ((s.context ctx).gone.filter (fun e => e.1 == set && decide (e.2 ≤ number))).length

/-- The contributions and deductions an instance awaits on this module: E, at level 2 the module's G × T (R172, R401). -/
def awaited (x : Decl) : Nat := if x.level = 2 then x.g * x.t else x.g * x.t * x.m

/-- The reason for which a CBR or CBSYNC faults before it contributes, with the instance number (R183).
DEDUCED: log entry 38. DEDUCED: log entry 117. -/
def entryReason (s : State) (gid d : Nat) : Option Nat :=
  let u := (s.group gid).domain d
  match u.decl with
  | none => some 2
  | some x =>
    let ctx := s.ctxOf gid
    let set := s.setOf gid d x
    if (s.context ctx).resolved.contains (set, u.count) then some 6
    else
      match s.openInst ctx set u.count with
      | some e =>
        if e.2.reported || decide (awaited x ≤ e.2.given.length + s.deductions ctx set u.count) then some 6 else none
      | none => if awaited x ≤ s.deductions ctx set u.count then some 6 else none

/-- CBR_MEMBERSHIP of a thread, if its group may not enter (R183). -/
def entryFault (s : State) (f : Fields) (tid : Nat) : Option Flt :=
  let gid := gidOf tid
  (s.entryReason gid (cbDom f)).map (fun r =>
    ⟨codeCbrMember, 0, cbAux r 0 ((s.group gid).domain (cbDom f)).count (cbDom f)⟩)

/-- `Contribute`: the group enters instance Count(g, d), whose timer starts with its first contribution (R173, R182). -/
def contribute (s : State) (gid d kind : Nat) (value : Bool) : State :=
  let u := (s.group gid).domain d
  match u.decl with
  | none => s
  | some x =>
    let ctx := s.ctxOf gid
    let set := s.setOf gid d x
    let c : Contribution := ⟨gid, kind, value, x⟩
    let s := match s.openInst ctx set u.count with
      | some e => { s with insts := s.insts.modify e.1 (fun i => { i with given := i.given ++ [c] }) }
      | none =>
        let i : Instance_ := ⟨ctx, d, set, u.count, [c], 0, some s.cycle,
          (s.group gid).cbrto.toNat * Config.cyclesPerMicro, false, false, x⟩
        { s with insts := s.insts.put s.nextInst i, nextInst := s.nextInst + 1 }
    s.modGroup gid (fun g => g.setDomain d { u with count := u.count + 1, inFlight := true })

/-- The group's contribution: the OR or the AND of the predicate over its participants (R175). -/
def reducePred (s : State) (ps : List Nat) (p : Nat) (all : Bool) : Bool :=
  if all then ps.all (fun t => (s.thread t).pred p) else ps.any (fun t => (s.thread t).pred p)

/-- One group's CBR (R186): it contributes and speculates from the predicted PC. The checkpoint keeps what R177 names; a copy of
the whole is kept, and R177's count is kept beside it. -/
def cbrOne (s : State) (f : Fields) (gid : Nat) (ps : List Nat) (tgt : Ptr) : State :=
  let d := cbDom f
  let all := f.c / 16 % 2 == 1
  let taken := f.c / 32 % 2 == 1
  let old := s
  let s := s.contribute gid d (if all then 1 else 0) (s.reducePred ps f.a all)
  let go := if taken then tgt else s.issue.next
  let sp : Spec := ⟨d, s.domOf gid, ps, tgt, s.issue.next, s.issue.self, taken, 0, 0, [],
    ps.map (fun t => (t, old.thread t)), (old.group gid).sregs, [], []⟩
  let s := s.modGroup gid (fun g => { g with spec := some sp })
  s.mapThreads (fun tid t => if ps.contains tid then { t with pc := go, issued := true } else t)

end State

/-- CBR (R175, R186). -/
def xCbr (f : Fields) (s : State) : State :=
  s.runFlow f (s.entryFault f) (fun ok s1 =>
    (State.groupsIn ok).foldl (fun s' g => s'.cbrOne f g (ofGroup ok g) (codeTarget s.issue.self f.x.toInt)) s1)

/-- The scope of a CBSYNC at a level: team, dev, pnl (R187). -/
def syncScope (level : Nat) : Nat := if level = 0 then 1 else if level = 1 then 3 else 4

/-- CBSYNC: a release, an entry, and a wait (R187). -/
def xCbsync (f : Fields) (s : State) : State :=
  s.runFlow f (s.entryFault f) (fun ok s1 =>
    (State.groupsIn ok).foldl (fun s' g =>
      let mine := ofGroup ok g
      let level := match ((s'.group g).domain (cbDom f)).decl with | some x => x.level | none => 0
      let s' := (s'.publish g (syncScope level)).contribute g (cbDom f) 2 false
      s'.mapThreads (fun tid t => if mine.contains tid then { t with wait := .sync, after := s.issue.next, issued := true } else t)) s1)

/-- CMEMB (R188). -/
def xCmemb (f : Fields) (s : State) : State :=
  s.runState f
    (fun tid =>
      let gid := gidOf tid
      (s.declReason gid (cbDom f) (State.readDecl (s.group gid) f.a)).map (fun r =>
        ⟨codeCbrMember, 0, cbAux r 0 ((s.group gid).domain (cbDom f)).count (cbDom f)⟩))
    (fun ok s1 => (State.groupsIn ok).foldl (fun s' g => s'.declareGroup g (cbDom f) (State.readDecl (s.group g) f.a)) s1)

/-- The word CMQ reads (R189). -/
def cmqWord (u : DomainUse) : Word :=
  BitVec.ofNat 32 (u.count % 65536 * 2 ^ 16 + u.decl.isSome.toNat * 2 ^ 15 + u.inFlight.toNat * 2 ^ 14
    + (match u.decl with | some x => x.level % 4 | none => 0) * 2 ^ 12 + u.out.toNat * 2 ^ 11)

/-- CMQ (R189). -/
def xCmq (f : Fields) (s : State) : State :=
  s.runPlain f State.noFault (fun _ t => t)
    (fun gid => f.toScal false ((cmqWord ((s.group gid).domain (cbDom f))).setWidth 64))

/-- A participant rolled back to its checkpoint and sent on at `pc` (R177, R181). -/
def Thread.rollback (t old : Thread) (pc : Ptr) : Thread :=
  { t with
    regs := old.regs, preds := old.preds, fpsr := old.fpsr, depth := old.depth, cross := old.cross, clkLatch := old.clkLatch,
    rpc := old.rpc, inRep := old.inRep, pair := old.pair, deferred := old.deferred, wait := .none, pc := pc, idleTicks := 0 }

namespace State

/-- One held store drains: with its release first, then at once, before every later access of its group, or into the compare buffer (R178,
R181, R265, R269, R385). Where it
clashes with another group's of its issue, one of a lower home lane gives way (R133). -/
def drainHeld (s : State) (gid : Nat) (h : HeldStore) : State :=
  let s := match h.rel with | some sc => s.publish gid sc | none => s
  if h.matched then (s.overrule s.groups.keys h).performStore h true else s.awaitMatch { h with shared := true }

/-- The held stores of a group drain in order, after every access the group issued before its branch (R181). -/
def drainAll (s : State) (gid : Nat) (hs : List HeldStore) : State :=
  if hs = [] then s
  else
    let s := s.hostSettle gid
    hs.foldl (fun s h => s.drainHeld gid h) ((s.drainPath gid (s.group gid).path.length).drainSpad gid)

/-- What a shadow has not issued beyond the branch of its leader is not issued any more: it takes the outcome (R384). -/
def outcome (sh : Shadow) : Shadow :=
  match sh.branch with
  | some b => { sh with lag := sh.lag.filter (fun e => decide (e.turn ≤ b)) }
  | none => sh

/-- Every participant back at its checkpoint, at `pc`; what was read ahead, maybe of a discarded store, is gone; the group no longer
speculates (R181). -/
def rollbackGroup (s : State) (gid : Nat) (sp : Spec) (pc : Ptr) : State :=
  let s := (s.forgetAhead gid).modGroup gid (fun g => { g with spec := none, sregs := sp.savedScalars, shadow := g.shadow.map outcome })
  s.mapThreads (fun tid t =>
    if sp.participants.contains tid then
      match sp.savedThreads.get? tid with
      | some old => t.rollback old pc
      | none => t
    else t)

/-- `Resolve(o)` (R181), the domain's last outcome recorded (R189); then a held PREEMPT is delivered (R184). -/
def resolveGroup (s : State) (gid : Nat) (o : Bool) : State :=
  match (s.group gid).spec with
  | none => s
  | some sp =>
    let d := sp.key
    let s := s.modGroup gid (fun g => g.setDomain d { g.domain d with inFlight := false, out := o })
    let s :=
      if o = sp.taken then
        let s := s.modGroup gid (fun g => { g with spec := none })
        let s := s.drainAll gid sp.stores
        let s := s.mapThreads (fun tid t => if sp.participants.contains tid ∧ t.wait = .held then { t with wait := .none } else t)
        sp.faults.foldl (fun s h => s.take h.r h.pc h.resume h.mask) s
      else s.rollbackGroup gid sp (if o then sp.target else sp.next)
    if (s.group gid).preempt then s.preemptGroup gid else s

/-- The threads of a group that wait at a CBSYNC go on, after an acquire (R187). -/
def resolveSync (s : State) (gid d : Nat) : State :=
  let u := (s.group gid).domain d
  let level := match u.decl with | some x => x.level | none => 0
  let s := s.modGroup gid (fun g => g.setDomain d { u with inFlight := false, out := false })
  let s := s.acquire gid (syncScope level)
  let s := s.mapThreads (fun tid t => if gidOf tid = gid ∧ t.wait = .sync then t.finish else t)
  if (s.group gid).preempt then s.preemptGroup gid else s

/-- A member that fails is rolled back to its CBR or CBSYNC and its count returns (R182, R183); with each participant comes the
pointer at which it takes the fault. -/
def returnMember (s : State) (gid d : Nat) : State × List (Nat × Ptr) :=
  let s0 := s.modGroup gid (fun g =>
    let u := g.domain d
    g.setDomain d { u with inFlight := false, count := u.count - 1 })
  match (s.group gid).spec with
  | some sp =>
    (s0.rollbackGroup gid sp sp.cbr, (sp.participants.filter (fun t => decide ((s.thread t).life = .running))).map (fun t => (t, sp.cbr)))
  | none =>
    let ws := (s.presentOf gid).filter (fun t => decide ((s.thread t).wait = .sync))
    (s0.mapThreads (fun tid t => if ws.contains tid then { t with wait := .none } else t), ws.map (fun t => (t, (s.thread t).pc)))

/-- A group's held PREEMPT is delivered (R184). -/
def duePreempt (s : State) (gid : Nat) : State := if (s.group gid).preempt then s.preemptGroup gid else s

/-- The reason for which an instance may not resolve: contributions whose counts (4) or kinds (5) differ from the first's
(R183). DEDUCED: log entry 36. -/
def mismatch (i : Instance_) : Option Nat :=
  match i.given with
  | [] => none
  | c :: r =>
    if r.any (fun x => decide (x.decl ≠ c.decl)) then some 4 else if r.any (fun x => x.kind != c.kind) then some 5 else none

/-- The members of an instance that contributed and whose groups still run. -/
def members (s : State) (i : Instance_) : List Nat :=
  (i.given.map (·.gid)).filter (fun g => ((s.group g).domain i.dom).inFlight && !s.teamOver (teamOf g))

/-- Every member of an instance fails: each is rolled back, then every participant of all of them takes the fault, whatever team one
of the faults ends; the number is open again, empty (R182, R183). DEDUCED: log entry 37. -/
def failInst (s : State) (k : Nat) (i : Instance_) (code : Byte) (reason count : Nat) : State :=
  let ms := s.members i
  let r := ms.foldl (fun (a : State × List (Nat × Ptr)) g =>
    let x := a.1.returnMember g i.dom
    (x.1, a.2 ++ x.2)) ({ s with insts := s.insts.erase k }, [])
  let rs := r.2.map (fun e => (⟨e.1, code, 0, cbAux reason count i.number i.dom⟩ : Raised))
  let s1 := (rs.zip r.2).foldl (fun s e => s.take e.1 e.2.2 e.2.2 (faultMask rs e.1.tid)) r.1
  ms.foldl (fun s g => s.duePreempt g) s1

/-- The outcome delivered to every member (R175, R181, R187). -/
def resolveInst (s : State) (k : Nat) (i : Instance_) (o : Bool) : State :=
  match mismatch i with
  | some r => s.failInst k i codeCbrMember r 0
  | none =>
    let s1 := { s with insts := s.insts.erase k }
    let s1 := s1.modContext i.ctx (fun c => { c with resolved := c.resolved ++ [(i.set, i.number)] })
    (s.members i).foldl (fun s g =>
      if s.teamOver (teamOf g) then s
      else if (s.group g).spec.isSome then s.resolveGroup g o else s.resolveSync g i.dom) s1

/-- The reduced value of the contributions (R175, R401). -/
def reduced (i : Instance_) : Bool :=
  match i.given with
  | [] => false
  | c :: _ => if c.kind = 1 then i.given.all (·.value) else i.given.any (·.value)

/-- Contributions and deductions recorded on this module (R174, R183). -/
def recorded (s : State) (i : Instance_) : Nat := i.given.length + s.deductions i.ctx i.set i.number

/-- COUNT of a CBR_TIMEOUT: what was recorded on this module at its expiry (R183). -/
def countOf (s : State) (i : Instance_) : Nat := if i.expired then i.countAt else s.recorded i

/-- What an instance that no member here contributed to reads as (R401): the declaration of a group of the context that has declared the
domain at level 2, for a number that has neither resolved nor stands open and whose members here are all deducted. -/
def shareOf (s : State) (ctx dom number : Nat) : Option Instance_ :=
  let set := setKey 0 0 dom 2
  match (s.groups.filterMap (fun e => if s.ctxOf e.1 = ctx then (e.2.domain dom).decl else none)).find? (fun x => x.level == 2) with
  | none => none
  | some x =>
    if (s.openInst ctx set number).isSome || (s.context ctx).resolved.contains (set, number) ||
        (decide (s.deductions ctx set number < awaited x) && (s.domHolder ctx dom).isSome) then none
    else some ⟨ctx, dom, set, number, [], 0, none, 0, false, false, x⟩

/-- The kind a node reports (R401); 3 where no member of its module contributed. DESIGN CHOICE: log entry 124. -/
def kindOf (i : Instance_) : Nat := match i.given with | c :: _ => c.kind | [] => 3

/-- A message of the module's collective node leaves on the collective channel (R394, R395, R401); with no working port nothing is sent.
DESIGN CHOICE: log entry 124. -/
def sendNode (s : State) (i : Instance_) (m : Message) (k : State → State) : State :=
  match s.portTo s.dev.toNat i.dom with
  | none => s
  | some p =>
    let s1 := k { s with outbox := s.outbox ++ [m] }
    s1.sendOn p (s1.flitHead 3 s.dev.toNat i.ctx i.number (s.context i.ctx).resets)

/-- The report of an instance (R401). -/
def reportOf (i : Instance_) : Message := .panelCollective i.ctx i.dom i.number (kindOf i) (reduced i) i.decl

end State

/-- CBR_RESOLVE (R174, R181): an instance within the module that has reached E. -/
def evCbrResolve (s : State) : State :=
  match s.subject with
  | .collective k =>
    match s.insts.get? k with
    | some i =>
      if i.decl.level < 2 ∧ State.awaited i.decl ≤ s.recorded i then s.resolveInst k i (State.reduced i) else s
    | none => s
  | _ => s

/-- Has an instance's timer on this module reached its limit (R182)? A limit of 0 disables it. -/
def State.instExpired (s : State) (i : Instance_) : Bool :=
  match i.start with
  | some b => i.limit != 0 && decide (b + i.limit ≤ s.cycle)
  | none => false

/-- CBR_TIMEOUT (R182): within the module the instance is dissolved; at level 2 the node asks the switching layer (R402). -/
def evCbrTimeout (s : State) : State :=
  match s.subject with
  | .collective k =>
    match s.insts.get? k with
    | some i =>
      if s.instExpired i then
        if i.decl.level < 2 then s.failInst k i codeCbrTimeout 0 (s.recorded i)
        else if i.expired then s
        else s.sendNode i (.panelDissolve i.ctx i.dom i.number) (fun s =>
          { s with insts := s.insts.modify k (fun i => { i with expired := true, countAt := s.recorded i }) })
      else s
    | none => s
  | _ => s

/-- JOETH_COLLECTIVE (R401): the node reports its module's share once it is complete, or once its members' launch has ended, be it a share
of deductions alone. -/
def evJoethCollective (s : State) : State :=
  match s.subject with
  | .collective k =>
    match s.insts.get? k with
    | some i =>
      if i.decl.level = 2 ∧ !i.reported ∧ (State.awaited i.decl ≤ s.recorded i ∨ (s.domHolder i.ctx i.dom).isNone) then
        s.sendNode i (State.reportOf i) (fun s => { s with insts := s.insts.modify k (fun i => { i with reported := true }) })
      else s
    | none => s
  | .share ctx dom number =>
    match s.shareOf ctx dom number with
    | some i =>
      s.sendNode i (State.reportOf i) (fun s =>
        { s with insts := s.insts.put s.nextInst { i with reported := true }, nextInst := s.nextInst + 1 })
    | none => s
  | _ => s

namespace State

/-- A collective flit received (R394 to R396, R401): the module as it stands then, and, where it is accepted, the instance of level 2 whose
context and number it carries, with its outcome. -/
def outcomeIn (s : State) : State × Option (Nat × Instance_ × PanelOutcome) :=
  match s.subject with
  | .outcome p h payload k o =>
    let r := s.receive p h payload
    (r.1, (r.1.insts.get? k).bind (fun i =>
      if r.2 && h.type == 3 && i.ctx == h.ctx.toNat && i.number % 65536 == h.tag.toNat &&
          (s.context i.ctx).resets % 65536 == h.epoch.toNat && decide (i.decl.level = 2) then some (k, i, o) else none))
  | _ => (s, none)

end State

/-- COLLECTIVE_OUTCOME (R401, R402): what the switching layer broadcasts for an instance of level 2. -/
def evCollectiveOutcome (s : State) : State :=
  match s.outcomeIn with
  | (s, none) => s
  | (s, some (k, i, o)) =>
    match o with
    | .resolved v => if i.reported then s.resolveInst k i v else s
    | .dissolved => s.failInst k i codeCbrTimeout 0 (s.countOf i)
    | .mismatch r => s.failInst k i codeCbrMember r.toNat 0

/-- COLLECTIVE_DISSOLVE (R402): an expired module's request dissolves the instance unless it has already resolved. -/
def evCollectiveDissolve (s : State) : State :=
  match s.outcomeIn with
  | (s, none) => s
  | (s, some (k, i, o)) => if i.expired && o == .dissolved then s.failInst k i codeCbrTimeout 0 (s.countOf i) else s

/-! The meaning of each row of the table of operations. -/

/-- CBR (R186). -/
def execCbr (f : EForm) (s : State) : Host.Outcome State Fault Refusal := .next (xCbr (wideFields 0x16 0 f) s)

/-- CBSYNC (R187). -/
def execCbsync (f : EForm) (s : State) : Host.Outcome State Fault Refusal := .next (xCbsync (wideFields 0x16 1 f) s)

/-- CMEMB (R188). -/
def execCmemb (f : EForm) (s : State) : Host.Outcome State Fault Refusal := .next (xCmemb (wideFields 0x16 2 f) s)

/-- CMQ (R189). -/
def execCmq (f : EForm) (s : State) : Host.Outcome State Fault Refusal := .next (xCmq (wideFields 0x16 3 f) s)

/-- CBR_RESOLVE (R181). -/
def execCbrResolve (s : State) : Host.Outcome State Fault Refusal := .next (evCbrResolve s)

/-- CBR_TIMEOUT (R182). -/
def execCbrTimeout (s : State) : Host.Outcome State Fault Refusal := .next (evCbrTimeout s)

/-- JOETH_COLLECTIVE (R401). -/
def execJoethCollective (s : State) : Host.Outcome State Fault Refusal := .next (evJoethCollective s)

/-- COLLECTIVE_DISSOLVE (R402). -/
def execCollectiveDissolve (s : State) : Host.Outcome State Fault Refusal := .next (evCollectiveDissolve s)

/-- COLLECTIVE_OUTCOME (R401). -/
def execCollectiveOutcome (s : State) : Host.Outcome State Fault Refusal := .next (evCollectiveOutcome s)

end Sys2Proof.Machine
end

