-- ==== Sys2Proof/Machine/Caps.lean ====
section
/-! DEFINITION. The capability table (23 R417): its records, what firmware builds it from, and its copies in segment 1 of every context
(14 R231); the management interface's registration of Afterglow regions (21 R387). -/

namespace Sys2Proof.Machine

/-- A record of the table: type, length, value padded to 4 bytes (R417). -/
def capRecord (type : Nat) (v : List Byte) : List Byte :=
  let v := v.take 65535
  leBytes 2 type ++ leBytes 2 v.length ++ v ++ List.replicate ((4 - v.length % 4) % 4) 0

/-- The signature record over every earlier byte (R417): its 4,627 bytes are a free value.
DESIGN CHOICE: log entry 128. -/
def capSignature (earlier : List Byte) : List Byte :=
  capRecord 0xFFFF ((List.range 4627).map (fun k => (Config.signature earlier).getD k 0))

/-- The header: version 1, the total length, two zero words (R417). -/
def capHeader (total : Nat) : List Byte := leBytes 4 0x10000 ++ leBytes 4 total ++ List.replicate 8 0

/-- A table closed by its signature, its erratum records, each signed, and the end record (R417). The header with the total length is among
the bytes that are signed. -/
def capClose (body : List Byte) (errata : List (List Byte)) : List Byte :=
  let size := 16 + body.length + 4632 + (errata.map (fun e => (capRecord 9 e).length + 4632)).sum + 4
  let first := capHeader size ++ body
  (errata.foldl (fun t e => let t := t ++ capRecord 9 e; t ++ capSignature t) (first ++ capSignature first)) ++ leBytes 4 0

/-- A table with the value of one record replaced by one of the same length; the fuel is the table's length. -/
def patchRecord (type : Nat) (v : List Byte) : Nat → List Byte → List Byte
  | 0, bs => bs
  | n + 1, bs =>
    if bs.length < 4 then bs
    else
      let t := leNat (bs.take 2)
      let l := leNat ((bs.drop 2).take 2)
      let size := 4 + (l + 3) / 4 * 4
      if t = 0 then bs
      else if t = type then bs.take 4 ++ v.take l ++ bs.drop (4 + min l v.length)
      else bs.take size ++ patchRecord type v n (bs.drop size)

namespace State

/-- The Afterglow image status the table reports (R388): 1 a complete image whose digests hold, else 0, absent. -/
def glowStatus (s : State) : Nat :=
  match s.flash with
  | none => 0
  | some g => if g.complete && g.regions.all (fun r => r.digest == Config.sha3 r.bytes) then 1 else 0

/-- What the records of the table state, type by type (R417). The layout of a value is a free function of these numbers, but for the
working-port mask, which is 32 bits (log entry 128). -/
def capFields (s : State) (im : FirmwareImage) : List (Nat × List Nat) :=
  [(1, [768, im.revision]), (2, [s.dev.toNat, im.carrier]), (3, [4, 384, 4, 8] ++ im.stackSizes), (4, [700, s.rebal, 24])]

/-- The table firmware builds at power-up (R417, R418). DESIGN CHOICE: log entry 128. -/
def buildTable (s : State) (im : FirmwareImage) : List Byte :=
  let rec_ (t : Nat) (fs : List Nat) : List Byte := capRecord t (Config.capValue t fs)
  capClose ((s.capFields im).flatMap (fun e => rec_ e.1 e.2) ++ capRecord 5 (leBytes 4 s.portMask)
    ++ rec_ 6 [s.windowHost, s.windowDevice, s.windowSize] ++ rec_ 7 [s.glowStatus] ++ rec_ 8 [im.version, s.minimum]) im.errata

/-- Firmware copies the table into segment 1 of a context, as far as its pages are present (R231, R417). -/
def tableTo (s : State) (ctx : Nat) : State :=
  let d := s.descHome ctx 1
  if d.valid && d.type == 7 then
    (pagePieces 0 s.capTable.length).foldl (fun s q => s.store ctx 0 (mkPtr 1 q.1) ((s.capTable.drop q.1).take q.2) []) s
  else s

/-- The table changes, and with it the copy of every context. -/
def newTable (s : State) (t : List Byte) : State := s.contexts.keys.foldl (fun s c => s.tableTo c) { s with capTable := t }

/-- A record of the table replaced. -/
def patchTable (s : State) (type : Nat) (v : List Byte) : State :=
  s.newTable (s.capTable.take 16 ++ patchRecord type v s.capTable.length (s.capTable.drop 16))

/-- The working-port mask after a port has gone down (R397, R417). -/
def patchPorts (s : State) : State := s.patchTable 5 (leBytes 4 s.portMask)

/-- Firmware sets REBAL, 0 to disable the moves (R334); the table states it. -/
def setRebal (s : State) (n : Nat) : State :=
  if n ≤ 65535 then ({ s with rebal := n } : State).patchTable 4 (Config.capValue 4 [700, n, 24]) else s

/-- An Afterglow region registered (R387): a 64 KiB-aligned range of a DATA segment, unless a limit would be broken. -/
def registerRegion (s : State) (ctx seg off len : Nat) : Option State :=
  let d := s.descHome ctx seg
  let total := s.regions.foldl (fun n r => n + r.len) len
  if s.regions.length < Config.glowCap ∧ total ≤ 8 * 2 ^ 30 ∧ off % 65536 = 0 ∧ len % 65536 = 0 ∧ 0 < len ∧ d.valid ∧ d.type = 0
      ∧ off + len ≤ d.len then
    some { s with regions := s.regions ++ [⟨ctx, seg, off, len⟩] }
  else none

end State

end Sys2Proof.Machine
end

