-- ==== Sys2Proof/Machine/Engine.lean ====
section
/-! DEFINITION. PUSH, QSTAT, TRIGGER, GNODE and WAITC (18 R336 to R342), and the acceptance of a command from a group, from the
host's window or from firmware (18 R305 to R313, R318, R328, 23 R408, R409). -/

namespace Sys2Proof.Machine

/-- The queues that take a command type (R307). -/
def takes (type h : Nat) : Bool :=
  match type with
  | 1 => h < 32
  | 2 => 32 ≤ h && h < 48
  | 3 => 32 ≤ h && h < 48
  | 4 => 32 ≤ h && h < 48
  | 5 => 32 ≤ h && h < 48
  | 6 => 48 ≤ h && h < 56
  | 7 => 48 ≤ h && h < 56
  | 8 => h < 64
  | 9 => 56 ≤ h && h < 64
  | _ => false

/-- The FLAGS bits a command type defines (R315, R323, R325, R332, R333). -/
def flagsDefined (type : Nat) : BitVec 8 :=
  match type with
  | 1 => 0xFF
  | 2 => 0x06
  | 3 => 0x04
  | _ => 0

/-- The umbra entries a command reserves (R307, R319): a scratchpad range takes none. -/
def Command.umbraNeed (c : Command) : Nat :=
  match c.type with
  | 2 => 2 - c.ssp.toNat - c.dsp.toNat
  | 3 => 1 - c.dsp.toNat
  | 4 => 2
  | 5 => 2
  | 6 => 2
  | 7 => 3
  | _ => 0

/-- The activity a command's work is counted in (R368): its queue, its die's engines, or its context's translator. -/
def activityOf (type ctx h die : Nat) : Nat :=
  if 2 ≤ type ∧ type ≤ 5 then 65536 + die
  else if type = 6 ∨ type = 7 then 2 * 65536 + die
  else if type = 9 then 3 * 65536 + ctx
  else 64 * ctx + h

/-- A command as it is accepted. -/
def newCommand (ws : List Word) (ctx h die depth : Nat) (pusher : Option Nat) (kernel : Bool) (pin : Option Nat) : Command :=
  let c : Command := ⟨ws, ctx, h, pusher, depth, die, kernel, pin, 0, 0, 0, 0, .none, .waiting⟩
  { c with activity := activityOf c.type ctx h die }

namespace State

/-- A queue-table entry (R309): EN, MV, VEC, PRI. A context that has been reset accepts nothing (R363). -/
def queueEntry (s : State) (ctx h : Nat) : DWord := (s.context ctx).queues.getD h 0
def queueOn (s : State) (ctx h : Nat) : Bool := !(s.context ctx).stopped && (s.queueEntry ctx h).getLsbD 63

/-- The reason of QUEUE_INVALID (R338). `stub`: does the pushing code segment have STUB = 1; `host`: the command has no pushing group
(R409). -/
def pushReason (s : State) (c : Command) (stub host : Bool) : Option Nat :=
  let w1 := c.word 1
  if !s.queueOn c.ctx c.queue then some 1
  else if c.type = 0 ∨ 9 < c.type ∨ !takes c.type c.queue then some 2
  else if w1.extractLsb' 21 11 != 0 || c.flags &&& ~~~flagsDefined c.type != 0 || !(3 ≤ c.scope && c.scope ≤ 5)
      || (c.preds != 0 && c.nodeId == 0) || (c.counted && (c.type == 1 || c.type == 8 || c.type == 9 || host)) then some 3
  else if c.nodeId != 0 && (s.node c.ctx c.nodeId).cmd.isSome then some 4
  else if c.type = 9 ∧ !stub then some 5
  else none

/-- Commands with NODE = 0 a queue holds undispatched (R308). -/
def waitingIn (s : State) (ctx h : Nat) : Nat :=
  (s.commands.filter (fun e => e.2.ctx == ctx && e.2.queue == h && e.2.nodeId == 0 &&
    (match e.2.state with | .waiting => true | .ready _ => true | _ => false))).length

/-- CTXLIM and SVCTHR of a context number (R369). -/
def ctxlimOf (s : State) (ctx : Nat) : Nat := (s.ctxlim.getD ctx 24).toNat
def svcthrOf (s : State) (ctx : Nat) : Nat := (s.svcthr.getD ctx 128).toNat

/-- QR: 0 accepted, or why the command is refused (R337). -/
def pushRefused (s : State) (c : Command) : Nat :=
  if c.nodeId = 0 ∧ Config.queueCap ≤ s.waitingIn c.ctx c.queue then 1
  else if c.type = 1 ∧ Config.poolCap ≤ (s.context c.ctx).pool then 2
  else if c.type = 1 ∧ c.pusher.isSome ∧ s.ctxlimOf c.ctx < c.depth then 3
  else if Config.umbraCap < (s.die c.die).umbra.length + c.umbraNeed then 4
  else 0

/-- A command accepted (R309, R313, R318, R328): the queue-table entry of this moment, a record of the pool, its umbra entries, its node
record. -/
def accept (s : State) (c : Command) : State :=
  let k := s.nextCommand
  let c := { c with entry := s.queueEntry c.ctx c.queue, resets := (s.context c.ctx).resets }
  let s := { s with commands := s.commands.put k c, nextCommand := k + 1 }
  let s := if c.type = 1 then s.modContext c.ctx (fun x => { x with pool := x.pool + 1 }) else s
  let s := s.modDie c.die (fun d => { d with
    umbra := d.umbra ++ List.replicate c.umbraNeed ⟨k, c.ctx, 0, 0, 0, false, false⟩ })
  let s := match c.pusher with
    | some g => if c.counted then s.modGroup g (fun x => { x with copies := x.copies + 1 }) else s
    | none => s
  if c.nodeId = 0 then s.makeReady k
  else
    let v := s.node c.ctx c.nodeId
    (s.setNode c.ctx c.nodeId { v with count := v.count + c.preds, cmd := some k }).releaseNode c.ctx c.nodeId

/-- AN INSTRUCTION THAT ACTS ONCE FOR EACH GROUP WITH A TRUE GUARD (R336, R370), in ascending GIDX order: a later group's checks see
what an earlier one did. -/
def groupsRun (s : State) (f : Fields) (own : State → Nat → Option Flt) (eff : Nat → List Nat → State → State) :
    State × List Raised × List Nat :=
  (groupsIn (s.guarded f)).foldl (fun (a : State × List Raised × List Nat) g =>
    let mine := ofGroup (s.guarded f) g
    let rs := mine.filterMap (fun tid =>
      ((s.decodeFault f tid).orElse (fun _ => own a.1 tid)).map (fun x => (⟨tid, x.code, x.addr, x.aux⟩ : Raised)))
    let ok := mine.filter (fun t => !(rs.map (·.tid)).contains t)
    (if ok = [] then a.1 else eff g ok a.1, a.2.1 ++ rs, a.2.2 ++ ok)) (s, [], [])

/-- The same, and its threads go on behind it. -/
def runGroups (s : State) (f : Fields) (own : State → Nat → Option Flt) (eff : Nat → List Nat → State → State) : State :=
  let r := s.groupsRun f own eff
  (r.1.advanceAll (s.unguarded f ++ r.2.2)).deliverAll r.2.1

/-- The handle and the command of a PUSH in a group (R337). -/
def pushHandle (f : Fields) (g : Group) : Nat := if f.xb then f.x.toNat else (g.sreg f.b).toNat
def pushed (s : State) (f : Fields) (gid : Nat) : Command :=
  let g := s.group gid
  newCommand ((List.range 16).map (fun k => g.sreg (f.a + k))) (s.ctxOf gid) (pushHandle f g) (dieOfCore g.core)
    ((s.launchOf gid).depth + 1) (some gid) false none

/-- The faults of PUSH (R336, R337, R338, R385). -/
def pushFault (s : State) (f : Fields) (tid : Nat) : Option Flt :=
  let gid := gidOf tid
  let g := s.group gid
  let c := s.pushed f gid
  let stub := (s.descOn g.core c.ctx (segOf s.issue.self)).stub
  if 63 < c.queue then some ⟨codeReserved, 0, f.w0⟩
  else
    match s.pushReason c stub false with
    | some r => some ⟨codeQueue, 0, BitVec.ofNat 32 (r * 2 ^ 28 + c.queue * 256 + c.type)⟩
    | none =>
      let rec_ := if c.record = 0 then none else s.globalFault tid c.record 8 3 .write
      rec_.orElse (fun _ => s.shadowFault tid (fun v => ⟨0, [], 0, (v.pushed f gid).words⟩))

/-- The counters WAITC waits on (R340). -/
def loadCount (s : State) (gid : Nat) : Nat :=
  (s.accesses.filter (fun e => gidOf e.2.tid == gid && e.2.size != 5 &&
    (decide (e.2.kind = .read) || (decide (e.2.kind = .atomic) && decide (e.2.dest ≠ .nothing))))).length
def storeCount (s : State) (gid : Nat) : Nat :=
  let g := s.group gid
  g.path.length + g.spadPath.length + (s.unmatched gid).length + (match g.spec with | some sp => sp.stores.length | none => 0)
    + (s.accesses.filter (fun e => gidOf e.2.tid == gid && (decide (e.2.kind = .write) || decide (e.2.kind = .atomic)))).length
    + (s.posted.filter (fun p => p.gid == gid && !p.done)).length
def waitCount (s : State) (gid k : Nat) : Nat :=
  match k with
  | 0 => s.loadCount gid
  | 1 => s.storeCount gid
  | 2 => (s.group gid).copies
  | _ => (s.group gid).mqueue.length

end State

/-- A limit of WAITC: 0 loads, 1 stores, 2 copies, 3 tile (R336). -/
def limitOf (x : Word) (k : Nat) : Nat := (x.extractLsb' (18 - 6 * k) 6).toNat

namespace State

/-- Are all counters at or below their limits (R340)? -/
def waitDone (s : State) (gid : Nat) (x : Word) : Bool :=
  (List.range 4).all (fun k => limitOf x k == 63 || decide (s.waitCount gid k ≤ limitOf x k))

/-- A WAITC that ends for threads of a group (R287, R340): the acquire, then the pending matrix flags. -/
def endWaitc (s : State) (gid : Nat) (x : Word) (ts : List Nat) : State :=
  let s := if limitOf x 2 = 63 then s else s.acquire gid 3
  if limitOf x 3 = 63 then s
  else
    let fl := (s.group gid).mflags
    (s.mapThreads (fun tid t => if ts.contains tid then t.orFlags fl else t)).modGroup gid (fun g => { g with mflags := 0 })

/-- Is a deferred fault taken at a WAITC with these limits (R351, R398, R411)? -/
def dueAtWaitc (x : Word) (d : Deferred) : Bool := if d.store then limitOf x 1 != 63 else limitOf x 0 != 63

/-- One deferred fault of a thread taken at the instruction it has reached (R351): `k` is its place among the thread's. -/
def takeDeferred (s : State) (tid k : Nat) : State :=
  match (s.thread tid).deferred[k]? with
  | none => s
  | some d =>
    let s := s.modThread tid (fun t => { t with deferred := t.deferred.eraseIdx k, wait := .none })
    s.deliver ⟨tid, d.code, d.addr, d.aux⟩ d.pc (s.thread tid).pc (BitVec.ofNat 32 (2 ^ (laneOf tid % 32)))

end State

/-- PUSH (R337). -/
def xPush (f : Fields) (s : State) : State :=
  s.runGroups f (fun s' tid => s'.pushFault f tid) (fun gid ok s' =>
    let c := s'.pushed f gid
    let s1 := s'.publish gid 3
    let r := s1.pushRefused c
    let s2 := s1.modGroup gid (fun g => { g with qr := BitVec.ofNat 32 (c.queue * 256 + r) })
    let s3 := s2.mapThreads (fun tid t => if ok.contains tid then t.setPred f.d (r == 0) else t)
    if r = 0 then s3.accept c else s3)

/-- QSTAT (R339). -/
def xQstat (f : Fields) (s : State) : State :=
  s.runPlain f State.noFault (fun _ t => t) (fun gid => f.toScal false ((s.group gid).qr.setWidth 64))

/-- TRIGGER (R331, R341). -/
def xTrigger (f : Fields) (s : State) : State :=
  s.runGroups f (fun _ _ => none) (fun gid _ s' =>
    ((s'.publish gid 3).modGroup gid (fun g => { g with triggered := true })).settleTrigger (s'.teamAt gid).launch)

/-- The node id of GNODE (R336). -/
def nodeNumber (f : Fields) (g : Group) : Nat := if f.xb then f.x.toNat else (g.sreg f.b).toNat
def nodeFault (f : Fields) (s : State) (tid : Nat) : Option Flt :=
  if 65535 < nodeNumber f (s.group (gidOf tid)) then some ⟨codeReserved, 0, f.w0⟩ else none

/-- The word GNODE.q reads (R342). -/
def State.nodeWord (s : State) (ctx n : Nat) : Word :=
  if n = 0 then 0
  else
    let v := s.node ctx n
    let st := match v.cmd with
      | none => if v.count = 0 then 0 else 1
      | some k =>
        match s.command k with
        | some c => (match c.state with | .waiting => 2 | .ready _ => 3 | _ => 4)
        | none => 2
    BitVec.ofNat 32 (st * 2 ^ 29 + (v.count % 65536).toNat)

/-- GNODE.q (R342). -/
def xGnodeQ (f : Fields) (s : State) : State :=
  s.runGroups f (nodeFault f) (fun gid _ s' =>
    s'.modGroup gid (fun g => g.setSregs (f.toScal false ((s'.nodeWord (s'.ctxOf gid) (nodeNumber f g)).setWidth 64))))

/-- GNODE.sig (R342). -/
def xGnodeSig (f : Fields) (s : State) : State :=
  s.runGroups f (nodeFault f) (fun gid _ s' =>
    (s'.publish gid 3).signal (s'.ctxOf gid) (nodeNumber f (s'.group gid)) false)

/-- WAITC (R340): a group whose counters are within the limits goes on; the threads of another wait. -/
def xWaitc (f : Fields) (s : State) : State :=
  s.runFlow f State.noFault (fun ok s1 =>
    (State.groupsIn ok).foldl (fun s' gid =>
      let mine := ofGroup ok gid
      if s'.waitDone gid f.x then (s'.endWaitc gid f.x mine).advanceAll mine
      else s'.mapThreads (fun tid t =>
        if mine.contains tid then { t with wait := .waitc f.x, after := s.issue.next, issued := true } else t)) s1)

/-- The limits a waiting thread's WAITC has. -/
def Thread.waitcLimits (t : Thread) : Option Word := match t.wait with | .waitc x => some x | _ => none

/-- WAITC_COMPLETE (R340, R351): a group's waiting threads whose limits are met go on; one that a deferred fault awaits takes it. -/
def evWaitcComplete (s : State) : State :=
  match s.subject with
  | .group gid =>
    let ws := (s.presentOf gid).filterMap (fun tid => ((s.thread tid).waitcLimits).map (fun x => (tid, x)))
    let due (e : Nat × Word) : Option Nat := (s.thread e.1).deferred.findIdx? (State.dueAtWaitc e.2)
    let s1 := ws.foldl (fun s e => match due e with | some k => s.takeDeferred e.1 k | none => s) s
    let go := ws.filter (fun e => (due e).isNone && s1.waitDone gid e.2)
    ((go.map (·.2)).eraseDups).foldl (fun s x =>
      let mine := (go.filter (fun e => e.2 == x)).map (·.1)
      (s.endWaitc gid x mine).mapThreads (fun tid t => if mine.contains tid then t.finish else t)) s1
  | _ => s

/-! The meaning of each row of the table of operations. -/

/-- PUSH (R337). -/
def execPush (f : EForm) (s : State) : Host.Outcome State Fault Refusal := .next (xPush (wideFields 0x30 0 f) s)

/-- WAITC (R340). -/
def execWaitc (f : EForm) (s : State) : Host.Outcome State Fault Refusal := .next (xWaitc (wideFields 0x30 1 f) s)

/-- WAITC_COMPLETE (R340). -/
def execWaitcComplete (s : State) : Host.Outcome State Fault Refusal := .next (evWaitcComplete s)

/-- QSTAT (R339). -/
def execQstat (f : EForm) (s : State) : Host.Outcome State Fault Refusal := .next (xQstat (wideFields 0x30 2 f) s)

/-- TRIGGER (R341). -/
def execTrigger (f : EForm) (s : State) : Host.Outcome State Fault Refusal := .next (xTrigger (wideFields 0x30 3 f) s)

/-- GNODE_Q (R342). -/
def execGnodeQ (f : EForm) (s : State) : Host.Outcome State Fault Refusal := .next (xGnodeQ (wideFields 0x30 4 f) s)

/-- GNODE_SIG (R342). -/
def execGnodeSig (f : EForm) (s : State) : Host.Outcome State Fault Refusal := .next (xGnodeSig (wideFields 0x30 4 f) s)

end Sys2Proof.Machine
end

