-- ==== Sys2Proof/Machine/Command.lean ====
section
/-! DEFINITION. The engines (18 R305 to R333): dispatch, the copy-class and lit commands, NOTE, TRANSLATE, completion records and the
decrement of successors, cancellation, and LAUNCH with its checks (18 R325). -/

namespace Sys2Proof.Machine

/-- A status and DETAIL (R311). -/
abbrev Verdict := Byte × Byte
def done : Verdict := (1, 0)
def refused (detail : Byte) : Verdict := (4, detail)
def noAccess (code : Byte) : Verdict := (5, code)

namespace State

/-- A command's work is over; COMMAND_COMPLETE reports it, and a team that only waited for it ends (R316). -/
def finishCommand (s : State) (k : Nat) (v : Verdict) : State :=
  (s.modCommand k (fun c => { c with state := .moved v.1 v.2 })).settleEndings

/-- A scratchpad range of a command: the pushing group's team or a member of its gang (R135, R315); any alignment. -/
def spadRange (s : State) (c : Command) (a : Word) (n : Nat) : Option (Nat × Nat) :=
  match c.pusher with
  | none => none
  | some g =>
    match s.checkSpad g a 1 0 .read with
    | .error _ => none
    | .ok (k, o) => if o + n ≤ (s.launch (s.team k).launch).spad ∧ (s.team k).place ≠ .ended then some (k, o) else none

/-- A command's rows as the byte offsets of their starts, and the span of all of them (R315, R316). -/
def rowsOf (c : Command) (pitch : Nat) : List Nat := (List.range (c.word 7).toNat).map (· * (c.word pitch).toNat)
def spanOf (c : Command) (pitch : Nat) : Nat := ((c.word 7).toNat - 1) * (c.word pitch).toNat + (c.word 6).toNat

/-- Bytes of engine work counted, in units of 64 (R368). DEDUCED: log entry 59. -/
def countBytes (s : State) (c : Command) (n : Nat) : State := s.countUse c.activity 3 ((n + 63) / 64)

/-- The body fields of a copy-class command against R315, R409 and R311: a REFUSED detail. DEDUCED: log entry 55. -/
def bodyBad (c : Command) : Bool :=
  let z (l : List Nat) : Bool := l.any (fun k => c.word k != 0)
  let rows := (c.word 7).toNat
  match c.type with
  | 2 => rows == 0 || 65536 < rows || z [10, 11] || (c.ssp && c.word 2 != 0) || (c.dsp && c.word 4 != 0)
      || ((c.ssp || c.dsp) && c.pusher.isNone)
  | 3 => rows == 0 || 65536 < rows || z [3, 8, 10, 11] || (c.dsp && c.word 4 != 0) || (c.dsp && c.pusher.isNone)
  | 4 => rows == 0 || 65536 < rows
  | 5 => z [8, 9, 10, 11] || !((c.word 7) == 4 || (c.word 7) == 6)
  | 8 => z [2, 3, 4, 5, 6, 7, 8, 9, 10, 11]
  | 9 => z [5, 6, 7, 10, 11]
  | _ => false

/-- A row length of zero writes nothing (R315). DEDUCED: log entry 54. -/
def emptyRow (c : Command) : Bool := c.word 6 == 0

/-- Elements of REDADD: their size and whether they are f32 (R315). -/
def redSize (c : Command) : Nat := if c.word 7 = 4 then 4 else 2

/-- The result of one REDADD addition (R315): nearest-even, subnormals kept. DEDUCED: log entry 52. -/
def redAdd (n : Nat) (a b : List Byte) : List Byte × Flags :=
  let k := if n = 4 then Fmt.f32 else Fmt.bf16
  let r := fArith k ⟨.rn, false, false⟩ 0 (k.decode false (leNat a)) (k.decode false (leNat b)) (.fin false 0 0)
  (leBytes n r.1, r.2)

/-- The lit-list fields (R323): X, Y, H, S, the header, the bitmap and the change mask. -/
def gridX (c : Command) : Nat := ((c.word 6).extractLsb' 0 16).toNat
def gridY (c : Command) : Nat := ((c.word 6).extractLsb' 16 16).toNat
def litH (c : Command) : Nat := ((c.word 7).extractLsb' 0 2).toNat
def litS (c : Command) : Nat := (c.word 9).toNat
def litHead (c : Command) : Ptr := c.pair 4
def litBytes (c : Command) : Nat := (gridX c * gridY c + 7) / 8
def halfAt (c : Command) (h : Nat) : Ptr := mkPtr (segOf (litHead c)) (offOf (litHead c) + 64 + h * litS c)

/-- A lit command's field out of range (R323). -/
def litBad (c : Command) : Bool :=
  let x := gridX c
  let y := gridY c
  x == 0 || 4096 < x || y == 0 || 4096 < y || 2 ^ 24 < x * y || 2 < litH c || (c.word 7).extractLsb' 2 30 != 0 || c.word 8 != 0
    || litS c % 64 != 0 || litS c < 4 + 4 * x * y || offOf (litHead c) % 64 != 0
    || (c.type == 6 && (c.word 10 != 0 || c.word 11 != 0))

/-- Is bit `id` of a bitmap set (R323)? -/
def mapBit (bs : List Byte) (id : Nat) : Bool := (bs.getD (id / 8) 0).getLsbD (id % 8)

/-- Does some set bit lie within Chebyshev distance H of a tile (R323)? -/
def near (c : Command) (bs : List Byte) (id : Nat) : Bool :=
  let w := gridX c
  let x := id % w
  let y := id / w
  let h := litH c
  let span (v top : Nat) : List Nat := (List.range (2 * h + 1)).filterMap (fun d =>
    if h ≤ v + d ∧ v + d - h < top then some (v + d - h) else none)
  (span y (gridY c)).any (fun v => (span x w).any (fun u => mapBit bs (v * w + u)))

/-- A 32-bit little-endian word of bytes. -/
def wordAt (bs : List Byte) (k : Nat) : Nat := leNat ((bs.drop (4 * k)).take 4)

/-- The bytes of a half: the count, then the ids (R323). -/
def halfBytes (ids : List Nat) : List Byte := leBytes 4 ids.length ++ ids.flatMap (leBytes 4)

/-- The half a lit command writes, once its locks are armed (R319, R324). -/
def litHalf (s : State) (k : Nat) (c : Command) : Nat :=
  match (s.die c.die).umbra.find? (fun u => u.cmd == k && u.armed && u.write) with
  | some u => if u.off = offOf (halfAt c 0) then 0 else 1
  | none => 0

/-- SEL as it stands in the header of a lit list, 0 where it cannot be read. -/
def selNow (s : State) (c : Command) : Nat :=
  match (s.readRange 0 c.ctx (litHead c) 4).2 with
  | .ok bs => min (leNat bs) 1
  | .error _ => 0

/-- The ranges a command locks (R319), as (pointer, length, write); of a lit command for a value of SEL (R324). -/
def ranges (c : Command) (sel : Nat) : List (Ptr × Nat × Bool) :=
  match c.type with
  | 2 => (if c.ssp then [] else [(c.pair 2, spanOf c 8, false)]) ++ (if c.dsp then [] else [(c.pair 4, spanOf c 9, true)])
  | 3 => if c.dsp then [] else [(c.pair 4, spanOf c 9, true)]
  | 4 => [(c.pair 10, 4 * (c.word 7).toNat, false), (c.pair 4, spanOf c 9, true)]
  | 5 => let n := (c.word 6).toNat * redSize c; [(c.pair 2, n, false), (c.pair 4, n, true)]
  | 6 => [(c.pair 2, litBytes c, false), (halfAt c (1 - sel), litS c, true)]
  | 7 => [(c.pair 2, litBytes c, false), (c.pair 10, litBytes c, false), (halfAt c (1 - sel), litS c, true)]
  | _ => []

/-- The ranges of command `k`: a lit command that is dispatched keeps the half it locked then (R324). -/
def lockRanges (s : State) (k : Nat) (c : Command) : List (Ptr × Nat × Bool) :=
  ranges c (if decide (c.type = 6) || decide (c.type = 7) then (match c.state with | .running => 1 - s.litHalf k c | _ => s.selNow c) else 0)

/-- The half a lit command will write (R324). -/
def litNext (s : State) (k : Nat) (c : Command) : Ptr := ((s.lockRanges k c).filter (fun r => r.2.2)).headD (0, 0, true) |>.1

/-- The ranges that make a lit list, as far as they can be read (R323, R325 step 6): the header's selector, the count of the half, its ids.
The stride of the halves is a free value (log entry 11). -/
def litRanges (s : State) (k ctx : Nat) (head : Ptr) : List (Ptr × Nat) :=
  (head, 4) :: (match (s.readRange 0 ctx head 4).2 with
    | .error _ => []
    | .ok w =>
      let half := mkPtr (segOf head) (offOf head + 64 + leNat w * (64 * Config.litStride head.toNat k))
      (half, 4) :: (match (s.readRange 0 ctx half 4).2 with
        | .error _ => []
        | .ok n => [(mkPtr (segOf half) (offOf half + 4), 4 * leNat n)]))

end State

/-- The shape fields of a LAUNCH (R325). -/
def launchWidth (c : Command) : Nat := 16 * 2 ^ (c.flags.extractLsb' 4 2).toNat
def launchTsize (c : Command) : Nat := ((c.word 5).extractLsb' 0 16).toNat
def launchRegs (c : Command) : Nat := ((c.word 5).extractLsb' 16 8).toNat
def launchTiles (c : Command) : Nat := ((c.word 5).extractLsb' 24 4).toNat
def launchRays (c : Command) : Nat := 4 * ((c.word 5).extractLsb' 28 4).toNat
def launchSpad (c : Command) : Nat := 64 * ((c.word 6).extractLsb' 0 13).toNat
def launchAccs (c : Command) : Nat := ((c.word 6).extractLsb' 13 5).toNat
def launchPrio (c : Command) : Nat := ((c.word 6).extractLsb' 18 3).toNat
def launchGangField (c : Command) : Nat := ((c.word 6).extractLsb' 21 2).toNat
/-- RESTART, SHADOW, TRIGGERABLE, GANG, LINKIDX, LIT (R325). -/
def launchFlag (c : Command) (k : Nat) : Bool := c.flags.getLsbD k
/-- Groups of a team (R140), and the most of them on one core (R141). -/
def launchGroups (c : Command) : Nat := (launchTsize c + launchWidth c - 1) / launchWidth c
def groupsOnCore (g : Nat) : Nat := if 192 < g then (g + 1) / 2 else g
/-- Bytes of a group's register allocation (R147). -/
def regBytes (regs w : Nat) : Nat := (regs + 7) / 8 * 8 * w * 4

/-- Steps 1 to 5 of R325: a REFUSED detail. SHADOW counts every resource twice (R383). DEDUCED: log entry 57. -/
def launchShape (c : Command) : Option Byte :=
  let g := launchGroups c
  let w := launchWidth c
  let per := groupsOnCore g * (if launchFlag c 1 then 2 else 1)
  if c.flags.extractLsb' 4 2 = 3 then some 6
  else if launchRegs c = 0 ∨ 32 < launchRays c ∨ (c.word 6).extractLsb' 23 9 ≠ 0 ∨ c.word 7 ≠ 0 ∨ (launchFlag c 6 ∧ c.word 3 ≠ 0) then some 7
  else if (launchFlag c 3 ∧ (launchGangField c = 0 ∨ (c.word 4).toNat % (launchGangField c + 1) ≠ 0 ∨ 192 < g ∨ launchFlag c 7))
      ∨ (!launchFlag c 3 ∧ launchGangField c ≠ 0) then some 2
  else if launchTsize c = 0 ∨ 12288 < launchTsize c ∨ 384 < g then some 1
  else if Config.slotCap < per ∨ Config.regByteCap < regBytes (launchRegs c) w * per ∨ Config.spadCap < launchSpad c
      ∨ Config.tileCap < launchTiles c * per ∨ Config.accCap < launchAccs c * per
      ∨ Config.rayByteCap < 4 * w * launchRays c * per then some 4
  else none

namespace State

/-- The list a LAUNCH with LIT goes by: s14 and s15 of its parameter block (R330), where that can be read. -/
def launchList (s : State) (c : Command) : Option Ptr :=
  match (s.readParams 0 c.ctx (c.pair 8)).2 with
  | .ok ps => some (ofWords (ps.getD 14 0) (ps.getD 15 0))
  | .error _ => none

/-- The ranges of command `k` that must be present before it is dispatched (R316, R325), as (pointer, length): of a LAUNCH those it reads,
once its shape is sound. -/
def residentRanges (s : State) (k : Nat) (c : Command) : List (Ptr × Nat) :=
  match c.type with
  | 1 =>
    if (launchShape c).isSome then []
    else (if c.pair 10 = 0 then [] else [(c.pair 10, 128)]) ++ (if c.pair 8 = 0 then [] else [(c.pair 8, 64)])
      ++ (if launchFlag c 6 then [(mkPtr 2 (8 * (c.word 2).toNat), 8)] else [])
      ++ (if launchFlag c 7 then (match s.launchList c with | some head => s.litRanges k c.ctx head | none => []) else [])
  | 6 => (litHead c, 4) :: (s.lockRanges k c).map (fun r => (r.1, r.2.1))
  | 7 =>
    let old := mkPtr (segOf (litHead c)) (2 * offOf (litHead c) + 128 + litS c - offOf (s.litNext k c))
    (litHead c, 4) :: (old, litS c) :: (s.lockRanges k c).map (fun r => (r.1, r.2.1))
  | 9 => [(c.pair 8, 8)]
  | _ => (s.lockRanges k c).map (fun r => (r.1, r.2.1))

/-- The absent pages of those ranges, where the descriptor allows them to be named (R316). DESIGN CHOICE: log entry 13. -/
def absentPages (s : State) (k : Nat) (c : Command) : List Nat :=
  (s.residentRanges k c).flatMap (fun r =>
    let d := s.descHome c.ctx (segOf r.1)
    if !d.valid || d.type == 2 || decide (d.len < offOf r.1 + r.2) then []
    else (pagePieces (offOf r.1) r.2).filterMap (fun q =>
      match s.walk c.ctx (d.base + q.1) with
      | some _ => none
      | none => some ((d.base + q.1) / 65536)))

/-- Is a serial queue's earlier command unfinished, or a launch queue's launch not handed over (R308)? -/
def queueBusy (s : State) (ctx h : Nat) : Bool :=
  s.commands.any (fun e => e.2.ctx == ctx && e.2.queue == h &&
    (match e.2.state with
      | .running => (decide (32 ≤ h) && decide (h < 56)) || (decide (e.2.type = 1) && !s.launches.any (fun l => l.2.cmd == e.1))
      | .moved _ _ => decide (32 ≤ h) && decide (h < 56)
      | .recording _ _ _ => decide (32 ≤ h) && decide (h < 56)
      | _ => false))

/-- Has an engine's activity spent one of its budgets (R368)? -/
def spentEngine (s : State) (act : Nat) : Bool := s.spent act 1 || s.spent act 2 || s.spent act 3

/-- The order in which a command became ready, if it is ready. -/
def readyOrder (c : Command) : Option Nat := match c.state with | .ready n => some n | _ => none

/-- The command a queue would dispatch: its ready command that became ready first (R308). DEDUCED: log entry 56. -/
def headOf (s : State) (ctx h : Nat) : Option (Nat × Command) :=
  (s.commands.filter (fun e => e.2.ctx == ctx && e.2.queue == h)).foldl (fun b e =>
    match readyOrder e.2, b with
    | none, _ => b
    | some _, none => some e
    | some n, some x => (match readyOrder x.2 with | some m => if n < m then some e else b | none => some e)) none

/-- May a queue's head be dispatched now: serial order, budget, and residency, present or refused (R308, R316, R368)? -/
def mayDispatch (s : State) (e : Nat × Command) : Bool :=
  !s.queueBusy e.2.ctx e.2.queue && !s.spentEngine e.2.activity &&
    (let a := s.absentPages e.1 e.2
     a.isEmpty || a.any (fun p => Config.refusesPage s.turn e.2.ctx p))

/-- The command the command unit dispatches next: the lowest PRI of the entry it was accepted under, then handle, then context (R308,
R309). -/
def nextDispatch (s : State) : Option (Nat × Command) :=
  let qs := (s.commands.map (fun e => (e.2.ctx, e.2.queue))).eraseDups
  let key (e : Nat × Command) : Nat := ((e.2.entry.extractLsb' 0 3).toNat * 64 + e.2.queue) * 64 + e.2.ctx
  ((qs.filterMap (fun q => s.headOf q.1 q.2)).filter s.mayDispatch).foldl (fun b e =>
    match b with
    | none => some e
    | some x => if key e < key x then some e else b) none

/-- Has a store on a group's path bytes in some ranges at home? -/
def pathIn (rs : List (Nat × Nat)) (p : PathStore) : Bool :=
  p.bytes.any (fun c => rs.any (fun r => decide (r.1 ≤ c.1) && decide (c.1 < r.1 + r.2)))

/-- The home ranges of what a command locks. -/
def lockedHomes (s : State) (k : Nat) (c : Command) : List (Nat × Nat) :=
  (s.lockRanges k c).flatMap (fun r => s.homeRanges none c.ctx (segOf r.1) (offOf r.1) r.2.1)

/-- The stores that groups have sent into some ranges are performed, with those before them (R259, R320). -/
def drainInto (s : State) (rs : List (Nat × Nat)) : State :=
  s.groups.keys.foldl (fun s g =>
    let p := (s.group g).path
    let n := (List.range p.length).foldl (fun n i => if (match p[i]? with | some x => pathIn rs x | none => false) then i + 1 else n) 0
    if n = 0 then s else s.drainPath g n) s

/-- Locks armed (R318), of a lit command as SEL was read (R324): the stores checked before are performed first (R320). -/
def armLocks (s : State) (k : Nat) (c : Command) (sel : Nat) : State :=
  let rs := ranges c sel
  let s := s.drainInto (rs.flatMap (fun r => s.homeRanges none c.ctx (segOf r.1) (offOf r.1) r.2.1))
  let us : List Umbra := rs.map (fun r => ⟨k, c.ctx, segOf r.1, offOf r.1, r.2.1, r.2.2, true⟩)
  s.modDie c.die (fun d => { d with umbra := d.umbra.filter (fun u => u.cmd != k) ++ us })

/-- Does a remote access touch a piece of a range? -/
def touches (a : Access) (q : Loc × Nat) : Bool :=
  match a.far, q.1 with
  | .host _, .far (.host h) => a.meets h 0 q.2
  | .panel m g o, .far (.panel m' g' o') => m == m' && g == g' && overlap o a.len o' q.2
  | _, _ => false

/-- Does an access checked before a command's locks were armed, and not yet performed, keep its first transfer waiting (R320)? An access of
host memory, one of another module until its reply, or a store that its group holds. -/
def transferWaits (s : State) (k : Nat) (c : Command) : Bool :=
  let qs := (s.lockRanges k c).flatMap (fun r => s.pieces c.ctx r.1 r.2.1)
  let rs := s.lockedHomes k c
  !c.run.begun &&
    (s.accesses.any (fun e => decide (e.1 < c.since) && e.2.cmd != k && e.2.done.isNone && qs.any (touches e.2)) ||
      s.posted.any (fun p => decide (p.order < c.since) && !p.done && qs.any (fun q =>
        match p.far, q.1 with
        | .host g, .far (.host h) => (List.range p.data.length).any (fun j => decide (h ≤ hostAt g p.next j) && decide (hostAt g p.next j < h + q.2))
        | _, _ => false)) ||
      s.groups.keys.any (fun g => (s.storesOpen g).any (fun h => h.spad.isNone && pathIn rs ⟨0, h.bytes, 0⟩)))

/-- A command's umbra entries released (R318). -/
def freeLocks (s : State) (k die : Nat) : State := s.modDie die (fun d => { d with umbra := d.umbra.filter (fun u => u.cmd != k) })

/-- The event that performs a command of a type. -/
def workOf (type : Nat) : Instr :=
  match type with
  | 1 => .launch
  | 2 => .copy
  | 3 => .fill
  | 4 => .gather
  | 5 => .redadd
  | 6 => .litBuild
  | 7 => .litDelta
  | 8 => .note
  | _ => .translate

/-- Do two pieces of ranges lie over a byte in common? -/
def sharesPiece (p q : Loc × Nat) : Bool :=
  match p.1, q.1 with
  | .home a, .home b => overlap a p.2 b q.2
  | .far (.host a), .far (.host b) => overlap a p.2 b q.2
  | .far (.panel m g a), .far (.panel n h b) => m == n && g == h && overlap a p.2 b q.2
  | _, _ => false

/-- A COPY whose source and destination share bytes, be it through two segments (R315). -/
def overlaps (s : State) (c : Command) : Bool :=
  c.type == 2 && c.ssp == c.dsp &&
    (if c.ssp then overlap (c.word 3).toNat (spanOf c 8) (c.word 5).toNat (spanOf c 9)
     else
      let to_ := s.pieces c.ctx (c.pair 4) (spanOf c 9)
      (s.pieces c.ctx (c.pair 2) (spanOf c 8)).any (fun p => to_.any (sharesPiece p)))

/-- What a command's turn gives: where a read of another module has no reply yet, only the requests leave (R398), and the turn is made again
later. -/
def settleReads (s : State) (k : Nat) (s' : State) : State :=
  let wants := s'.accesses.filter (fun e => e.2.cmd == k && decide (e.2.kind = .read) && e.2.done.isNone)
  if wants = [] then s' else (wants.filter (fun e => (s.accesses.get? e.1).isNone)).foldl (fun s e => s.startAccess e.2) s

end State

/-- The running command of a type that an event acts on. -/
def State.runningOf (s : State) (type : Nat) : Option (Nat × Command) :=
  let named := match s.subject with | .command k => some k | .block k _ => some k | .part k _ _ => some k | _ => none
  match named with
  | none => none
  | some k =>
    match s.command k with
    | some c => if c.type = type ∧ c.state = .running then some (k, c) else none
    | none => none

namespace State

/-- Where a command's destination begins, for the cut into blocks. -/
def destStart (c : Command) : Nat :=
  match c.type with
  | 6 => 0
  | 7 => 0
  | _ => if c.dsp then (c.word 5).toNat else offOf (c.pair 4)

/-- A piece of a destination: its row, its offset in the row, its length. -/
structure Piece where
  row : Nat
  off : Nat
  len : Nat
  deriving DecidableEq, Repr

/-- Where a piece lies, counted like the destination's start. -/
def pieceAt (c : Command) (q : Piece) : Nat := destStart c + q.row * (c.word 9).toNat + q.off

/-- The rows of a command's destination, each cut where aligned 64-byte blocks end. -/
def piecesOf (c : Command) : List Piece :=
  let cut (r n : Nat) : List Piece :=
    let base := pieceAt c ⟨r, 0, 0⟩
    (lineCuts base n).map (fun q => ⟨r, q.1 - base, q.2⟩)
  match c.type with
  | 5 => cut 0 ((c.word 6).toNat * redSize c)
  | 6 => cut 0 c.run.index.length
  | 7 => cut 0 c.run.index.length
  | _ => (List.range (c.word 7).toNat).flatMap (fun r => cut r (c.word 6).toNat)

/-- The aligned 64-byte blocks of a command's destination (R315, R321, R322): of each the pieces of its rows there. -/
def blocksOf (c : Command) : List (List Piece) :=
  let ps := (piecesOf c).map (fun q => (pieceAt c q / 64, q))
  ((ps.map (·.1)).eraseDups).map (fun l => (ps.filter (fun e => e.1 == l)).map (·.2))

/-- The scratchpad ranges of a COPY or FILL (R315). -/
def sourceSpad (s : State) (c : Command) : Option (Nat × Nat) := if c.ssp then s.spadRange c (c.word 3) (spanOf c 8) else none
def destSpad (s : State) (c : Command) : Option (Nat × Nat) := if c.dsp then s.spadRange c (c.word 5) (spanOf c 9) else none

/-- What a command checks before its first transfer (R315, R316, R323): the code of the first range that fails. -/
def rangesFail (s : State) (k : Nat) (c : Command) : Option Byte :=
  let dest (kind : Kind) : Option Byte :=
    if c.dsp then (if (s.destSpad c).isNone then some codeSpad else none) else s.engineCheck c.ctx (c.pair 4) (spanOf c 9) false kind
  let first (xs : List (Option Byte)) : Option Byte := xs.findSome? id
  match c.type with
  | 2 => first [if c.ssp then (if (s.sourceSpad c).isNone then some codeSpad else none)
      else s.engineCheck c.ctx (c.pair 2) (spanOf c 8) false .read, dest .write]
  | 3 => dest .write
  | 4 => first [dest .write, s.engineCheck c.ctx (c.pair 10) (4 * (c.word 7).toNat) false .read]
  | 5 =>
    let z := redSize c
    let n := (c.word 6).toNat * z
    first [s.engineCheck c.ctx (c.pair 2) n (offOf (c.pair 2) % z != 0) .read,
      s.engineCheck c.ctx (c.pair 4) n (offOf (c.pair 4) % z != 0) .atomic]
  | _ =>
    let half := s.litHalf k c
    let more : List (Ptr × Nat × Kind) :=
      if c.type = 7 then [(c.pair 10, litBytes c, .read), (halfAt c (1 - half), litS c, .read)] else []
    ([(c.pair 2, litBytes c, Kind.read), (litHead c, 4, .read), (litHead c, 4, .write), (halfAt c half, litS c, .write)] ++ more).findSome?
      (fun x => s.engineCheck c.ctx x.1 x.2.1 false x.2.2)

/-- The bytes of the half a lit command writes (R324), or the code its reads meet. -/
def litNew (s : State) (k : Nat) (c : Command) : State × Except Byte (List Nat) :=
  let map := s.fetch k c.ctx (c.pair 2) (litBytes c)
  let mask := if c.type = 7 then map.st.fetch k c.ctx (c.pair 10) (litBytes c) else ⟨k, map.st, [], [], none⟩
  let prev := if c.type = 7 then mask.st.fetch k c.ctx (halfAt c (1 - s.litHalf k c)) (4 + 4 * (gridX c * gridY c)) else ⟨k, mask.st, [], [], none⟩
  match (map.code.orElse (fun _ => mask.code)).orElse (fun _ => prev.code) with
  | some x => (prev.st, .error x)
  | none =>
    let was := (List.range (min (wordAt prev.bytes 0) (gridX c * gridY c))).map (fun j => wordAt prev.bytes (j + 1))
    let lit (id : Nat) : Bool := if c.type = 6 ∨ near c mask.bytes id then near c map.bytes id else was.contains id
    (prev.st, .ok ((halfBytes ((List.range (gridX c * gridY c)).filter lit)).map (·.toNat)))

/-- The lines of HBM that a range lies in. -/
def homeLines (s : State) (ctx : Nat) (p : Ptr) (n : Nat) : Nat :=
  ((s.pieces ctx p n).map (fun q => match q.1 with | .home a => (linesOf a q.2).length | .far _ => 0)).sum

/-- A byte offset from a pointer. -/
def ptrAt (p : Ptr) (o : Nat) : Ptr := mkPtr (segOf p) (offOf p + o)

/-- Bytes of the source of a COPY, from an offset of its first row on (R315). -/
def copySource (s : State) (k : Nat) (c : Command) (o n : Nat) : Fetched :=
  match s.sourceSpad c with
  | some (t, b) => ⟨k, s, (s.team t).spad.bytes (b + o) n, List.replicate n false, none⟩
  | none => s.fetch k c.ctx (ptrAt (c.pair 2) o) n

/-- The source of a COPY that overlaps itself, as it stands now (R315): its rows one after another, 256 more for a byte of a bad line. -/
def copyImage (s : State) (k : Nat) (c : Command) : Fetched × List Nat :=
  (rowsOf c 8).foldl (fun (r : Fetched × List Nat) o =>
    let q := r.1.st.copySource k c o (c.word 6).toNat
    ({ q with code := r.1.code.orElse (fun _ => q.code) },
      r.2 ++ (q.bytes.zip q.bad).map (fun e => e.1.toNat + 256 * e.2.toNat))) (⟨k, s, [], [], none⟩, [])

/-- What a command reads before its first transfer: the index list of a GATHER, the half of a lit command, where an error ends it; the source
of a COPY that overlaps itself, with the code met there. DEDUCED: log entry 53. -/
def beginReads (s : State) (k : Nat) (c : Command) : State × Except Byte (List Nat × Option Byte) :=
  match c.type with
  | 2 =>
    if s.overlaps c then let r := s.copyImage k c; (r.1.st, .ok (r.2, r.1.code)) else (s, .ok ([], none))
  | 4 =>
    let n := (c.word 7).toNat
    let ix := s.fetch k c.ctx (c.pair 10) (4 * n)
    (ix.st, match ix.code with | some x => .error x | none => .ok ((List.range n).map (wordAt ix.bytes), none))
  | 6 => let r := s.litNew k c; (r.1, r.2.map (fun x => (x, none)))
  | 7 => let r := s.litNew k c; (r.1, r.2.map (fun x => (x, none)))
  | _ => (s, .ok ([], none))

/-- The lines of HBM those reads take (R368). -/
def beginLines (s : State) (k : Nat) (c : Command) : Nat :=
  match c.type with
  | 2 => if s.overlaps c && !c.ssp then s.homeLines c.ctx (c.pair 2) (spanOf c 8) else 0
  | 4 => s.homeLines c.ctx (c.pair 10) (4 * (c.word 7).toNat)
  | 6 => s.homeLines c.ctx (c.pair 2) (litBytes c)
  | 7 => s.homeLines c.ctx (c.pair 2) (litBytes c) + s.homeLines c.ctx (c.pair 10) (litBytes c) +
      s.homeLines c.ctx (halfAt c (1 - s.litHalf k c)) (4 + 4 * (gridX c * gridY c))
  | _ => 0

/-- A transfer begins (R315, R316), while no budget of its activity is spent (R368): one that does not, or has nothing to move, is over. -/
def beginTransfer (s : State) (k : Nat) (c : Command) : State :=
  if c.run.begun || s.spentEngine c.activity then s
  else
  let s0 := s
  let s := s.readLines ((s.lockRanges k c).flatMap (fun r => s.spanLines c.ctx r.1 r.2.1))
  if (if c.type = 6 ∨ c.type = 7 then litBad c else bodyBad c) then s.finishCommand k (refused 7)
  else if c.type < 6 && emptyRow c then s.finishCommand k done
  else
    match s.rangesFail k c with
    | some x => s.finishCommand k (noAccess x)
    | none =>
      let r := (s.countUse c.activity 1 (s.beginLines k c)).beginReads k c
      s0.settleReads k (match r.2 with
        | .error x => r.1.finishCommand k (noAccess x)
        | .ok ix => r.1.modCommand k (fun c => { c with run := { c.run with begun := true, index := ix.1, met := ix.2 } }))

/-- The bytes of a piece as a command reads them for its destination (R315): a FILL's pattern, the source of a COPY or GATHER, the sums of
a REDADD with their flags, the half of a lit command. -/
def pieceData (s : State) (k : Nat) (c : Command) (q : Piece) : Fetched × Flags :=
  let own (bs : List Byte) : Fetched := ⟨k, s, bs, List.replicate q.len false, none⟩
  match c.type with
  | 2 =>
    if c.run.index = [] then (s.copySource k c (q.row * (c.word 8).toNat + q.off) q.len, 0)
    else
      let xs := (c.run.index.drop (q.row * (c.word 6).toNat + q.off)).take q.len
      (⟨k, s, xs.map (BitVec.ofNat 8), xs.map (fun x => decide (256 ≤ x)), none⟩, 0)
  | 3 =>
    let pat := leBytes 4 (c.word 2).toNat
    (own ((List.range q.len).map (fun j => pat.getD ((q.row * (c.word 9).toNat + q.off + j) % 4) 0)), 0)
  | 4 => (s.fetch k c.ctx (ptrAt (c.pair 2) (c.run.index.getD q.row 0 * (c.word 8).toNat + q.off)) q.len, 0)
  | 5 =>
    let z := redSize c
    let a := s.fetch k c.ctx (ptrAt (c.pair 2) q.off) q.len
    let b := a.st.fetch k c.ctx (ptrAt (c.pair 4) q.off) q.len
    let rs := (List.range (q.len / z)).map (fun e => redAdd z ((b.bytes.drop (z * e)).take z) ((a.bytes.drop (z * e)).take z))
    (⟨k, b.st, rs.flatMap (·.1), (a.bad.zip b.bad).map (fun x => x.1 || x.2), a.code.orElse (fun _ => b.code)⟩,
      rs.foldl (fun (f : Flags) x => f ||| x.2) 0)
  | _ => (own (((c.run.index.drop q.off).take q.len).map (BitVec.ofNat 8)), 0)

/-- A piece's bytes written at their home (R315, R317, R380). -/
def pieceStore (s : State) (k : Nat) (c : Command) (q : Piece) (r : Fetched) : State :=
  match s.destSpad c with
  | some (t, b) => r.st.spadCells t ((List.range q.len).map (fun j => (b + q.row * (c.word 9).toNat + q.off + j, r.bytes.getD j 0)))
  | none =>
    let p := if c.type = 6 ∨ c.type = 7 then halfAt c (s.litHalf k c) else c.pair 4
    r.st.store c.ctx k (ptrAt p (q.row * (c.word 9).toNat * (if c.type < 5 then 1 else 0) + q.off)) r.bytes r.bad

/-- The lines of HBM that the move of a piece reads (R368): those of its source, and of a destination that REDADD also reads. -/
def pieceLines (s : State) (c : Command) (q : Piece) : Nat :=
  match c.type with
  | 2 => if c.ssp || c.run.index != [] then 0 else s.homeLines c.ctx (ptrAt (c.pair 2) (q.row * (c.word 8).toNat + q.off)) q.len
  | 4 => s.homeLines c.ctx (ptrAt (c.pair 2) (c.run.index.getD q.row 0 * (c.word 8).toNat + q.off)) q.len
  | 5 => s.homeLines c.ctx (ptrAt (c.pair 2) q.off) q.len + s.homeLines c.ctx (ptrAt (c.pair 4) q.off) q.len
  | _ => 0

/-- A row of a GATHER is checked as it is read; one that fails stops the command, and the rows already written stay (R316). -/
def rowFails (s : State) (c : Command) (r : Nat) : Option Byte :=
  if c.type = 4 then s.engineCheck c.ctx (ptrAt (c.pair 2) (c.run.index.getD r 0 * (c.word 8).toNat)) (c.word 6).toNat false .read else none

/-- One piece moved (R315, R317). -/
def movePiece (s : State) (k : Nat) (q : Piece) : State :=
  match s.command k with
  | none => s
  | some c =>
    if c.state ≠ .running then s
    else
      match s.rowFails c q.row with
      | some x => s.finishCommand k (noAccess (c.run.met.getD x))
      | none =>
        let r := (s.countUse c.activity 1 (s.pieceLines c q)).pieceData k c q
        (r.1.st.pieceStore k c q r.1).modCommand k (fun c => { c with run := { c.run with
          flags := c.run.flags ||| r.2, met := c.run.met.orElse (fun _ => r.1.code) } })

/-- A piece cut into the units that move indivisibly (R315): bytes, of a REDADD elements. -/
def unitsOf (c : Command) (q : Piece) : List Piece :=
  let z := if c.type = 5 then redSize c else 1
  (List.range (q.len / z)).map (fun j => ⟨q.row, q.off + z * j, z⟩)

/-- Where a piece of a command's destination lies: a line of HBM, of a scratchpad, of host memory or of another module. -/
def placesOf (s : State) (k : Nat) (c : Command) (q : Piece) : List (Nat × Nat × Nat) :=
  match s.destSpad c with
  | some (t, b) => [(0, t, (b + q.row * (c.word 9).toNat + q.off) / 64)]
  | none =>
    let p := if c.type = 6 ∨ c.type = 7 then halfAt c (s.litHalf k c) else c.pair 4
    (s.pieces c.ctx (ptrAt p (q.row * (c.word 9).toNat * (if c.type < 5 then 1 else 0) + q.off)) q.len).map (fun x =>
      match x.1 with
      | .home a => (1, 0, a / 64)
      | .far (.host h) => (2, 0, h / 64)
      | .far (.panel m g o) => (3 + m, g, o / 64))

/-- Has another command moved a part of a block that lies where these pieces do, and not yet the rest (R321)? -/
def sharedBlock (s : State) (k : Nat) (c : Command) (ps : List Piece) : Bool :=
  let mine := ps.flatMap (s.placesOf k c)
  s.commands.any (fun e => e.1 != k && decide (e.2.state = .running) && !(decide (e.2.type = 5) && decide (c.type = 5)) &&
    e.2.run.parts.any (fun x => (s.placesOf e.1 e.2 ⟨x.2.1, x.2.2, 1⟩).any mine.contains))

/-- Block `i` of a transfer moved, or of it the bytes whose place in the block a mask names (R315): what is left of it, at one moment. -/
def moveSome (s : State) (k i : Nat) (mask : Option Nat) (c : Command) (ps : List Piece) : State :=
  let moved := (c.run.parts.filter (fun x => x.1 == i)).map (fun x => (x.2.1, x.2.2))
  if mask = none ∧ moved = [] then
    (((ps.foldl (fun s q => s.movePiece k q) s).countUse c.activity 1 (if c.dsp then 0 else 1)).countUse c.activity 3 1).modCommand k (fun c =>
      { c with run := { c.run with blocks := c.run.blocks ++ [i] } })
  else
    let left := (ps.flatMap (unitsOf c)).filter (fun q => !moved.contains (q.row, q.off))
    let hit := left.filter (fun q => match mask with
      | none => true
      | some m => (List.range q.len).any (fun j => maskBit m ((pieceAt c q + j) % 64)))
    let s := hit.foldl (fun s q => s.movePiece k q) s
    if hit = [] then s
    else if hit.length = left.length then
      ((s.countUse c.activity 1 (if c.dsp then 0 else 1)).countUse c.activity 3 1).modCommand k (fun c =>
        { c with run := { c.run with blocks := c.run.blocks ++ [i], parts := c.run.parts.filter (fun x => x.1 != i) } })
    else s.modCommand k (fun c => { c with run := { c.run with parts := c.run.parts ++ hit.map (fun q => (i, q.row, q.off)) } })

/-- A MOVE OF A TRANSFER (R315, R317, R321): bytes of the `i`th block, at some moment, once, while no budget of its activity is spent
(R368) and no other command is halfway through the block. -/
def moveBlock (s : State) (k i : Nat) (mask : Option Nat) : State :=
  match s.command k with
  | none => s
  | some c =>
    match (blocksOf c)[i]? with
    | none => s
    | some ps =>
      if c.state ≠ .running || !c.run.begun || c.run.blocks.contains i || s.spentEngine c.activity || s.sharedBlock k c ps then s
      else s.settleReads k (s.moveSome k i mask c ps)

/-- The blocks that a command is halfway through are moved whole (R322). -/
def wholeBlocks (s : State) (k : Nat) (c : Command) : State :=
  ((c.run.parts.map (·.1)).eraseDups).foldl (fun s i =>
    match s.command k, (blocksOf c)[i]? with
    | some c, some ps => s.moveSome k i none c ps
    | _, _ => s) s

/-- A transfer all of whose blocks are written is over (R311, R324): a lit command writes SEL last. -/
def endTransfer (s : State) (k : Nat) : State :=
  match s.command k with
  | none => s
  | some c =>
    if c.state ≠ .running || !c.run.begun || c.run.blocks.length < (blocksOf c).length then s
    else
      let s1 := if c.type = 6 ∨ c.type = 7 then (s.store c.ctx k (litHead c) (leBytes 4 (s.litHalf k c)) []).countBytes c 4 else s
      s1.finishCommand k (match c.run.met with | some x => noAccess x | none => if c.type = 5 then (1, c.run.flags.setWidth 8) else done)

/-- NOTE (R332). -/
def noteWork (c : Command) : Verdict := if bodyBad c then refused 7 else done

/-- The number of a segment that the context's table has room for (R229): the one named, if it is free, else the lowest. -/
def freeSeg (s : State) (ctx g : Nat) : Option Nat :=
  let ok (g : Nat) : Bool := decide (5 ≤ g) && decide (g < (s.context ctx).stl) && !(s.descHome ctx g).valid
  if ok g then some g else (List.range (s.context ctx).stl).find? ok

/-- The descriptor of a new CODE segment (R230). -/
def codeDesc (t : Translation) : List Byte :=
  leBytes 8 ((2 ^ 63 + 2 ^ 60 + (if t.readable then 2 ^ 59 else 0) + 2 ^ 57) + t.base.toNat) ++ leBytes 8 t.code.length
    ++ leBytes 8 (t.impn.toNat * 2 ^ 32 + t.ltbf.toNat) ++ leBytes 8 0

/-- TRANSLATE (R333): a new CODE segment with the native code, then its offset-0 pointer in the result slot. What the translator makes is a
free value. DESIGN CHOICE: log entry 7. -/
def translateWork (s : State) (k : Nat) (c : Command) : State × Verdict :=
  if bodyBad c then (s, refused 7)
  else
    match s.engineCheck c.ctx (c.pair 8) 8 false .write with
    | some x => (s, noAccess x)
    | none =>
      match Config.translated (c.pair 2).toNat (c.word 4).toNat s.turn with
      | .error x => (s, (2, x))
      | .ok t =>
        match s.freeSeg c.ctx t.seg with
        | none => (s, (2, 0xFF))
        | some g =>
          let a := (s.context c.ctx).segBase + 32 * g
          let s1 := s.putCells ((List.range 32).map (fun j => (a + j, (codeDesc t).getD j 0)))
          let room := ((s1.pieces c.ctx (mkPtr g 0) t.code.length).map (·.2)).sum
          if room < t.code.length then (s, (2, codeLease))
          else
            let s2 := (s1.store c.ctx k (mkPtr g 0) t.code []).store c.ctx k (c.pair 8) (leBytes 8 (mkPtr g 0).toNat) []
            ((s2.countUse c.activity 1 (2 + s.homeLines c.ctx (mkPtr g 0) t.code.length)).countBytes c t.code.length, done)

/-- The ranges a command in flight reads or writes (R241, R316): of a GATHER also its source rows. -/
def spansOf (s : State) (k : Nat) (c : Command) : List (Ptr × Nat) :=
  match c.type with
  | 4 =>
    let ix := if c.run.begun then c.run.index
      else match (s.readRange 0 c.ctx (c.pair 10) (4 * (c.word 7).toNat)).2 with
        | .ok bs => (List.range (c.word 7).toNat).map (wordAt bs)
        | .error _ => []
    [(c.pair 10, 4 * (c.word 7).toNat), (c.pair 4, spanOf c 9)] ++ ix.map (fun i => (ptrAt (c.pair 2) (i * (c.word 8).toNat), (c.word 6).toNat))
  | 6 => [(c.pair 2, litBytes c), (litHead c, 64 + 2 * litS c)]
  | 7 => [(c.pair 2, litBytes c), (c.pair 10, litBytes c), (litHead c, 64 + 2 * litS c)]
  | 9 => [(c.pair 2, 1), (c.pair 8, 8)]
  | _ => (s.lockRanges k c).map (fun r => (r.1, r.2.1))

/-- Does a pointer name a HOST segment? -/
def hostSeg (s : State) (ctx : Nat) (p : Ptr) : Bool := let d := s.descHome ctx (segOf p); d.valid && d.type == 5

/-- Does a command wait for the host's link (R411)? DESIGN CHOICE: log entry 127. -/
def linkWaits (s : State) (k : Nat) (c : Command) : Bool := !s.hostUp && (s.spansOf k c).any (fun r => s.hostSeg c.ctx r.1)

/-- What the module has sent to the host comes before an engine's accesses there (R411). -/
def hostFirst (s : State) (k : Nat) (c : Command) : State :=
  if (s.spansOf k c).any (fun r => s.hostSeg c.ctx r.1) then s.performBefore s.nextAccess else s

/-- A copy-class or lit command's remaining transfer (R315, R324), as far as its budgets go. DEDUCED: log entry 51. -/
def transfer (s : State) (k : Nat) (c : Command) : State :=
  let s := (s.hostFirst k c).beginTransfer k c
  match s.command k with
  | none => s
  | some c => ((List.range (blocksOf c).length).foldl (fun s i => s.moveBlock k i none) s).endTransfer k

/-- The event of a command type on a running command: its work is done, as far as its budget goes, and the command awaits its
completion; on one block of it, or on bytes of a block: that alone is moved (R315, R317). DEDUCED: log entry 51. -/
def workEvent (s : State) (type : Nat) : State :=
  match s.runningOf type with
  | none => s
  | some (k, c) =>
    if s.transferWaits k c || s.linkWaits k c then s
    else if type = 8 then s.finishCommand k (noteWork c)
    else if type = 9 then (if s.spentEngine c.activity then s else let r := s.translateWork k c; r.1.finishCommand k r.2)
    else
      match s.subject with
      | .block _ i => ((s.hostFirst k c).beginTransfer k c).moveBlock k i none
      | .part _ i m => ((s.hostFirst k c).beginTransfer k c).moveBlock k i (some m)
      | _ => s.transfer k c

/-- A dispatched command's locks armed, after a lit command has read SEL (R318, R324), which may fail (R380). -/
def startLocks (s : State) (k : Nat) (c : Command) : State :=
  if (c.type = 6 ∨ c.type = 7) ∧ (s.engineCheck c.ctx (litHead c) 4 false .read).isNone then
    let r := s.readRange k c.ctx (litHead c) 4
    match r.2 with
    | .ok bs => r.1.armLocks k c (min (leNat bs) 1)
    | .error x => r.1.finishCommand k (noAccess x)
  else s.armLocks k c 0

end State

/-- COMMAND_DISPATCH (R308, R316, R318). A COPY that overlaps itself reads its source at dispatch (R315); a command with a page refused arms no
lock and is over, but a LAUNCH finds the failing read in the order of its checks (R325). -/
def evCommandDispatch (s : State) : State :=
  match s.nextDispatch with
  | none => s
  | some (k, c) =>
    let s1 := s.modCommand k (fun c => { c with state := .running, since := s.nextAccess })
    if s.absentPages k c = [] then
      let s2 := s.settleReads k (s1.startLocks k c)
      match s2.command k with
      | some d => if d.state = .running ∧ s2.overlaps d ∧ !s2.transferWaits k d ∧ !s2.linkWaits k d then (s2.hostFirst k d).beginTransfer k d else s2
      | none => s2
    else if c.type = 1 then s1
    else s1.finishCommand k (noAccess codeLease)

def evCopy (s : State) : State := s.workEvent 2
def evFill (s : State) : State := s.workEvent 3
def evGather (s : State) : State := s.workEvent 4
def evRedadd (s : State) : State := s.workEvent 5
def evLitBuild (s : State) : State := s.workEvent 6
def evLitDelta (s : State) : State := s.workEvent 7
def evNote (s : State) : State := s.workEvent 8
def evTranslate (s : State) : State := s.workEvent 9

namespace State

/-- The completion record written at its home (R310, R410): COUNT raised, DETAIL and STATUS; one of the host after what the module has
sent. DEDUCED: log entry 79. -/
def writeRecord (s : State) (k : Nat) (c : Command) (status detail : Byte) : State :=
  let s := if s.hostSeg c.ctx c.record then s.performBefore s.nextAccess else s
  let r := s.fetch k c.ctx c.record 8
  let count := (leNat (r.bytes.drop 4) + 1) % 2 ^ 32
  r.st.store c.ctx k c.record (leBytes 8 (count * 2 ^ 32 + detail.toNat * 256 + status.toNat)) []

/-- A command completes (R310 to R314, R328, R340, R410): its message, if its record was written, its entries, its counter and its node
record, then its successors in order, but for those the trigger signalled (R331); a context reset since has cleared the graph and the
pool (R363). -/
def closeCommand (s : State) (k : Nat) (c : Command) (status : Byte) (written : Bool) : State :=
  let s := if written && c.entry.getLsbD 62 then { s with outbox := s.outbox ++ [.msix 0 (c.entry.extractLsb' 32 11).toNat] } else s
  let s := s.freeLocks k c.die
  let s := match c.pusher with
    | some g => if c.counted then s.modGroup g (fun x => { x with copies := x.copies - 1 }) else s
    | none => s
  let early := match s.launches.find? (fun l => l.2.cmd == k) with | some l => l.2.signalled | none => []
  let s := { s with commands := s.commands.erase k, accesses := s.accesses.filter (fun e => e.2.cmd != k) }
  if (s.context c.ctx).resets ≠ c.resets then s
  else
    let s := if c.type = 1 then s.modContext c.ctx (fun x => { x with pool := x.pool - 1 }) else s
    let s := s.clearNode c.ctx c.nodeId
    (List.range 4).foldl (fun s j =>
      if early.contains j then s else s.signal c.ctx (c.succs.getD j 0) (c.halt && status != 1)) s

/-- Are writes of a command to another module still on their way (R310)? -/
def writesOut (s : State) (k : Nat) : Bool := s.accesses.any (fun e => e.2.cmd == k && decide (e.2.kind = .write))

/-- Does a read for a command await its reply (R398)? -/
def readsOut (s : State) (k : Nat) : Bool :=
  s.accesses.any (fun e => e.2.cmd == k && decide (e.2.kind = .read) && e.2.done.isNone)

/-- The completion of a command (R310, R410): its writes have all reached their homes; then its record is written, which in another module
takes until it is acknowledged; then the rest. -/
def completeCommand (s : State) (k : Nat) : State :=
  match s.command k with
  | none => s
  | some c =>
    if s.writesOut k then s
    else
      match c.state with
      | .moved st d =>
        if c.record = 0 then s.closeCommand k c st false
        else if !s.hostUp && s.hostSeg c.ctx c.record then s
        else
          let s1 := s.writeRecord k c st d
          if s1.readsOut k then s.settleReads k s1
          else if s1.writesOut k then s1.modCommand k (fun c => { c with state := .recording st d true })
          else s1.closeCommand k c st (s.pieces c.ctx c.record 8 != [])
      | .recording st _ w => s.closeCommand k c st w
      | _ => s

end State

/-- COMMAND_COMPLETE (R310). -/
def evCommandComplete (s : State) : State :=
  match s.subject with
  | .command k => s.completeCommand k
  | _ => s

namespace State

/-- A command cancelled (R312, R322): its entries are released; of its destination the blocks moved so far hold new values, one that it
was halfway through among them.
DEDUCED: log entry 12. -/
def cancelCommand (s : State) (k : Nat) : State :=
  match s.command k with
  | none => s
  | some c => ((s.wholeBlocks k c).freeLocks k c.die).finishCommand k (3, 0)

/-- One lease record of a table (R239), or none when it is unused; an error when it breaks the table. -/
def leaseRecord (s : State) (ctx : Nat) (bs : List Byte) : Except Unit (Option Lease) :=
  let w0 : DWord := BitVec.ofNat 64 (leNat (bs.take 8))
  let w1 : DWord := BitVec.ofNat 64 (leNat ((bs.drop 8).take 8))
  let d := s.descHome ctx (segOf w0)
  let r := w1.extractLsb' 62 2
  if r = 0 then .ok none
  else if w1.extractLsb' 44 18 != 0 || offOf w1 == 0 || !d.valid || !(d.type == 0 || d.type == 5 || d.type == 6) then .error ()
  else .ok (some ⟨segOf w0, offOf w0, offOf w1, r⟩)

/-- The eight records of a table (R239). -/
def leaseTable (s : State) (ctx : Nat) (bs : List Byte) : Except Unit (List Lease) :=
  (List.range 8).foldl (fun r k =>
    match r with
    | .error e => .error e
    | .ok ls =>
      match s.leaseRecord ctx ((bs.drop (16 * k)).take 16) with
      | .error e => .error e
      | .ok none => .ok ls
      | .ok (some l) => .ok (ls ++ [l])) (.ok [])

end State

namespace State

/-- The ids of a lit list (R323, R330); the stride of its halves is a free value (log entry 11). -/
def litIds (s : State) (k ctx : Nat) (head : Ptr) : State × Except Byte (List Nat) :=
  let a := s.readRange k ctx head 4
  match a.2 with
  | .error e => (a.1, .error e)
  | .ok w =>
    let half := mkPtr (segOf head) (offOf head + 64 + leNat w * (64 * Config.litStride head.toNat k))
    let b := a.1.readRange k ctx half 4
    match b.2 with
    | .error e => (b.1, .error e)
    | .ok n =>
      let c := b.1.readRange k ctx (mkPtr (segOf half) (offOf half + 4)) (4 * leNat n)
      (c.1, match c.2 with
        | .error e => .error e
        | .ok bs => .ok ((List.range (leNat n)).map (wordAt bs)))

/-- The entry of a LAUNCH, if it is executable (R325 step 8, R243). -/
def launchEntry (s : State) (c : Command) (link : List Byte) : Option Ptr :=
  let w : DWord := BitVec.ofNat 64 (leNat link)
  let p : Option Ptr :=
    if launchFlag c 6 then
      (if w.extractLsb' 62 2 = 2 then some (mkPtr (w.extractLsb' 42 20).toNat (4 * (w.extractLsb' 0 42).toNat)) else none)
    else some (c.pair 2)
  match p with
  | none => none
  | some p =>
    let d := s.descHome c.ctx (segOf p)
    if d.valid && d.type == 1 && d.exec && offOf p % 4 == 0 && decide (offOf p + 4 ≤ d.len) then some p else none

/-- A launch's record and its teams made, and the teams handed over in TEAM order (R155, R327, R328, R330).
DESIGN CHOICE: log entry 58. -/
def makeLaunch (s : State) (k : Nat) (c : Command) (entry : Ptr) (ps : List Word) (leases : List Lease) (ids : List Nat) : State :=
  let n := if launchFlag c 7 then ids.length else (c.word 4).toNat
  if n = 0 then s.finishCommand k done
  else
    let l := s.nextLaunch
    let gang := launchGangField c + 1
    let la : Launch := { Launch.blank with
      ctx := c.ctx, id := BitVec.ofNat 32 l, depth := c.depth, cmd := k, width := launchWidth c, tsize := launchTsize c,
      regs := launchRegs c, tiles := launchTiles c, accs := launchAccs c, rays := launchRays c, spad := launchSpad c,
      gang := gang, prio := launchPrio c, restart := launchFlag c 0, shadow := launchFlag c 1, entry := entry,
      leases := leases, teams := n, handed := n, kernel := c.kernel, pin := c.pin }
    let t0 := s.nextTeam
    let unitOf (t : Nat) : List Nat := (List.range gang).map (fun m => t0 + t / gang * gang + m)
    let add := (List.range n).map (fun t =>
      (t0 + t, newTeam l t (t % gang) (if gang = 1 then [] else unitOf t) la ps
        (if launchFlag c 7 then some (BitVec.ofNat 32 (ids.getD t 0)) else none)))
    let s := { s with
      launches := s.launches.put l la, nextLaunch := l + 1, nextTeam := t0 + n,
      teams := add.foldl (fun (m : Tab Team) (e : Nat × Team) => m.put e.1 e.2) s.teams }
    (List.range (n / gang)).foldl (fun s u => s.handOver (unitOf (u * gang))) s

/-- Steps 6 to 8 of R325 for a LAUNCH whose shape is sound: the reads in order, the lease records, the entry. -/
def startLaunch (s : State) (k : Nat) (c : Command) : State :=
  let lease := if c.pair 10 = 0 then (s, .ok (List.replicate 128 0)) else s.readRange k c.ctx (c.pair 10) 128
  match lease.2 with
  | .error e => lease.1.finishCommand k (noAccess e)
  | .ok lb =>
    let params := lease.1.readParams k c.ctx (c.pair 8)
    match params.2 with
    | .error e => params.1.finishCommand k (noAccess e)
    | .ok ps =>
      let link := params.1.readRange k c.ctx (mkPtr 2 (8 * (c.word 2).toNat)) (if launchFlag c 6 then 8 else 0)
      match link.2 with
      | .error e => link.1.finishCommand k (noAccess e)
      | .ok nb =>
        let lit := if launchFlag c 7 then link.1.litIds k c.ctx (ofWords (ps.getD 14 0) (ps.getD 15 0)) else (link.1, .ok [])
        match lit.2 with
        | .error e => lit.1.finishCommand k (noAccess e)
        | .ok ids =>
          match lit.1.leaseTable c.ctx lb, lit.1.launchEntry c nb with
          | .error _, _ => lit.1.finishCommand k (refused 3)
          | _, none => lit.1.finishCommand k (refused 5)
          | .ok leases, some entry => lit.1.makeLaunch k c entry ps leases ids

end State

/-- LAUNCH (R325). -/
def evLaunch (s : State) : State :=
  match s.runningOf 1 with
  | some (k, c) =>
    match launchShape c with
    | some d => s.finishCommand k (refused d)
    | none => s.settleReads k (s.startLaunch k c)
  | none => s

/-! The meaning of each row of the table of operations. -/

/-- LAUNCH (R325). -/
def execLaunch (s : State) : Host.Outcome State Fault Refusal := .next (evLaunch s)

/-- COPY (R315). -/
def execCopy (s : State) : Host.Outcome State Fault Refusal := .next (evCopy s)

/-- FILL (R315). -/
def execFill (s : State) : Host.Outcome State Fault Refusal := .next (evFill s)

/-- GATHER (R315). -/
def execGather (s : State) : Host.Outcome State Fault Refusal := .next (evGather s)

/-- REDADD (R315). -/
def execRedadd (s : State) : Host.Outcome State Fault Refusal := .next (evRedadd s)

/-- LIT_BUILD (R324). -/
def execLitBuild (s : State) : Host.Outcome State Fault Refusal := .next (evLitBuild s)

/-- LIT_DELTA (R324). -/
def execLitDelta (s : State) : Host.Outcome State Fault Refusal := .next (evLitDelta s)

/-- NOTE (R332). -/
def execNote (s : State) : Host.Outcome State Fault Refusal := .next (evNote s)

/-- TRANSLATE (R333). -/
def execTranslate (s : State) : Host.Outcome State Fault Refusal := .next (evTranslate s)

/-- COMMAND_DISPATCH (R308). -/
def execCommandDispatch (s : State) : Host.Outcome State Fault Refusal := .next (evCommandDispatch s)

/-- COMMAND_COMPLETE (R310). -/
def execCommandComplete (s : State) : Host.Outcome State Fault Refusal := .next (evCommandComplete s)

end Sys2Proof.Machine
end

