-- ==== Sys2Proof/Machine/Integer.lean ====
section
/-! DEFINITION. IARITH, LOGIC, BITS, ICMP, PRED, NOP and the hint space (04 R84, 05 R87 to R97, R113): the exact integer results,
and one meaning for each row. -/

namespace Sys2Proof.Machine

/-- The low `t` bits of a 64-bit operand as an exact integer, unsigned under .z (R88). -/
def readInt (t : Nat) (z : Bool) (x : DWord) : Int :=
  let n := x.toNat % 2 ^ t
  if z || n < 2 ^ (t - 1) then (n : Int) else (n : Int) - 2 ^ t

/-- `Sat` to an integer type (R29). -/
def satInt (t : Nat) (z : Bool) (x : Int) : Int :=
  let lo : Int := if z then 0 else -(2 ^ (t - 1))
  let hi : Int := if z then 2 ^ t - 1 else 2 ^ (t - 1) - 1
  if x < lo then lo else if hi < x then hi else x

/-- A result of `t` bits as the register holds it: b8 and b16 extended under .s or .z (R88). -/
def writeInt (t : Nat) (z : Bool) (x : Int) : DWord :=
  let r := BitVec.ofInt 64 (readInt t z (BitVec.ofInt 64 x))
  if t = 64 then r else (loWord r).setWidth 64

/-- The exact results of IARITH by minor, before saturation (R91). -/
def intArith (mn t : Nat) (a b : Int) : Int :=
  match mn with
  | 0 => a + b
  | 1 => a - b
  | 2 => a * b
  | 3 => (a * b).fdiv (2 ^ t)
  | 4 => if a ≤ b then a else b
  | 5 => if a ≤ b then b else a
  | 6 => if b = 0 then -1 else a.tdiv b
  | _ => if b = 0 then a else a - b * a.tdiv b

/-- IARITH (R91). -/
def iarithVal (f : Fields) (g : Group) (t : Thread) : DWord :=
  let w := typeBits f.ty
  let x := intArith f.mn w (readInt w f.z (f.opA f.is64 g t)) (readInt w f.z (f.opB f.is64 g t))
  writeInt w f.z (if f.sat then satInt w f.z x else x)

/-- The results of LOGIC on t-bit patterns (R93). -/
def logicVal (f : Fields) (g : Group) (t : Thread) : DWord :=
  let w := typeBits f.ty
  let a := (f.opA f.is64 g t).toNat
  let b := (f.opB (f.is64 && decide (f.mn < 4)) g t).toNat
  let m := 2 ^ w
  let r : Nat := match f.mn with
    | 0 => a &&& b
    | 1 => a ||| b
    | 2 => a ^^^ b
    | 3 => a &&& (m - 1 - b)
    | 4 => if w ≤ b then 0 else a * 2 ^ b % m
    | 5 => if w ≤ b then 0 else a / 2 ^ b
    | 6 => let k := if w ≤ b then w else b
        if a < m / 2 then a / 2 ^ k else m - 1 - (m - 1 - a) / 2 ^ k
    | _ => let k := b % w; (a * 2 ^ k % m) + a / 2 ^ (w - k)
  BitVec.ofNat 64 r

/-- The number of one bits among the low `n` bits. -/
def popcount (x : DWord) : Nat → Nat
  | 0 => 0
  | n + 1 => popcount x n + (x.getLsbD n).toNat

/-- The number of leading zero bits among the low `n` bits. -/
def leadZeros (x : DWord) : Nat → Nat
  | 0 => 0
  | n + 1 => if x.getLsbD n then 0 else leadZeros x n + 1

/-- The low n bits of x in reverse order: bit i moves to n−1−i (R95). -/
def brev (x : DWord) (n : Nat) : Nat := (List.range n).foldl (fun r i => 2 * r + (x.getLsbD i).toNat) 0

/-- BFX and BFI's position and length: B[7:0] and B[15:8], the length cut at the top of the type; none when the field is empty
(R95). -/
def bitField (t : Nat) (b : DWord) : Option (Nat × Nat) :=
  let pos := b.toNat % 256
  let len := b.toNat / 256 % 256
  if len = 0 ∨ t ≤ pos then none else some (pos, min len (t - pos))

/-- BITS (R95), but for LEA. -/
def bitsVal (f : Fields) (g : Group) (t : Thread) : DWord :=
  let w := typeBits f.ty
  let a := f.opA f.is64 g t
  match f.mn with
  | 0 => BitVec.ofNat 64 (leadZeros a w)
  | 1 => BitVec.ofNat 64 (popcount a w)
  | 2 => BitVec.ofNat 64 (brev a w)
  | 3 =>
    match bitField w (f.opB false g t) with
    | none => 0
    | some (pos, len) =>
      let x := BitVec.ofNat 64 (a.toNat / 2 ^ pos % 2 ^ len)
      writeInt w f.z (if f.z then (x.toNat : Int) else readInt len false x)
  | 4 =>
    let c := (f.opC f.is64 g t).toNat
    match bitField w (f.opB false g t) with
    | none => BitVec.ofNat 64 c
    | some (pos, len) =>
      BitVec.ofNat 64 (c / 2 ^ (pos + len) * 2 ^ (pos + len) + a.toNat % 2 ^ len * 2 ^ pos + c % 2 ^ pos)
  | 5 =>
    let x : Int := (readInt w false a).natAbs
    writeInt w false (if f.sat then satInt w false x else x)
  | _ =>
    let x := readInt w f.z a * readInt w f.z (f.opB f.is64 g t) + readInt w f.z (f.opC f.is64 g t)
    writeInt w f.z (if f.sat then satInt w f.z x else x)

/-- Are CLZ and POPC's results one register whatever the type (R94)? -/
def bitsWide (f : Fields) : Bool := f.is64 && !(f.mn == 0 || f.mn == 1)

/-- LEA: B added to the offset, the carry out of bit 43 discarded (R17, R95). -/
def leaVal (f : Fields) (g : Group) (t : Thread) : DWord :=
  let a := f.opA true g t
  mkPtr (segOf a) (a.toNat + (f.opB true g t).toNat)

/-- ICMP's outcome under a condition (R96). -/
def icmpVal (f : Fields) (g : Group) (t : Thread) : Bool :=
  let w := typeBits f.ty
  let a := f.opA f.is64 g t
  let b := f.opB f.is64 g t
  let x := readInt w f.z a
  let y := readInt w f.z b
  let both := (a.toNat % 2 ^ w) &&& (b.toNat % 2 ^ w)
  match f.mn with
  | 0 => decide (x = y)
  | 1 => decide (x ≠ y)
  | 2 => decide (x < y)
  | 3 => decide (x ≤ y)
  | 4 => decide (y < x)
  | 5 => decide (y ≤ x)
  | 6 => decide (both ≠ 0)
  | _ => decide (both = 0)

/-- PAND, POR, PXOR, PNOT and PMOV (R97). -/
def predVal (f : Fields) (_ : Group) (t : Thread) : Bool :=
  match f.mn with
  | 0 => t.pred f.a && t.pred f.b
  | 1 => t.pred f.a || t.pred f.b
  | 2 => t.pred f.a != t.pred f.b
  | 3 => !t.pred f.a
  | _ => t.pred f.a

/-- PPACK: p0 to p15 under the mask (R97). -/
def ppackVal (f : Fields) (g : Group) (t : Thread) : DWord :=
  let m := (f.opB false g t).toNat % 65536
  BitVec.ofNat 64 ((t.preds.toNat + 2 ^ 15) &&& m)

/-- PUNPK: p0 to p14 where the mask is 1 (R97). -/
def punpkOn (f : Fields) (g : Group) (t : Thread) : Thread :=
  let a : BitVec 15 := (f.opA false g t).extractLsb' 0 15
  let m : BitVec 15 := (f.opB false g t).extractLsb' 0 15
  { t with preds := (a &&& m) ||| (t.preds &&& ~~~m) }

/-- One instruction of IARITH over its bundle. -/
def xIarith (f : Fields) (s : State) : State := s.runValue f State.noFault f.is64 (iarithVal f)
def xLogic (f : Fields) (s : State) : State := s.runValue f State.noFault f.is64 (logicVal f)
def xBits (f : Fields) (s : State) : State := s.runValue f State.noFault (bitsWide f) (bitsVal f)
def xLea (f : Fields) (s : State) : State := s.runValue f State.noFault true (leaVal f)
def xIcmp (f : Fields) (s : State) : State := s.runPred f State.noFault (icmpVal f)
def xPred (f : Fields) (s : State) : State := s.runPred f State.noFault (predVal f)
def xPpack (f : Fields) (s : State) : State := s.runValue f State.noFault false (ppackVal f)
def xPunpk (f : Fields) (s : State) : State :=
  s.runPlain f State.noFault (fun tid t => punpkOn f (s.group (gidOf tid)) t) (fun _ => [])
/-- NOP takes an issue slot and has no other effect (R113). -/
def xNop (f : Fields) (s : State) : State := s.runPlain f State.noFault (fun _ t => t) (fun _ => [])
/-- A hint evaluates no guard and has no effect (R84). -/
def xHint (s : State) : State := s.advanceAll s.issue.threads
/-- An encoding that is no instruction faults in every thread (R85, R86). -/
def xIllegal (w0 : Word) (s : State) : State :=
  s.deliverAll (s.issue.threads.map (fun t => ⟨t, codeIllegal, 0, w0⟩))

/-! The meaning of each row of the table of operations. -/

/-- NOP (R113). -/
def execNop (f : OpF) (s : State) : Host.Outcome State Fault Refusal := .next (xNop (opFields .base none 0x00 0 f) s)

/-- NOP_X (R113). -/
def execNopX (f : XForm OpF) (s : State) : Host.Outcome State Fault Refusal := .next (xNop (opXFields 0x00 0 f) s)

/-- HINT (R84). -/
def execHint (_ : BitVec 24) (s : State) : Host.Outcome State Fault Refusal := .next (xHint s)

/-- HINT_LONG (R84). -/
def execHintLong (_ : RawWords) (s : State) : Host.Outcome State Fault Refusal := .next (xHint s)

/-- IADD (R91). -/
def execIadd (f : OpF) (s : State) : Host.Outcome State Fault Refusal := .next (xIarith (opFields .base none 0x02 0 f) s)

/-- IADD_X (R91). -/
def execIaddX (f : XForm OpF) (s : State) : Host.Outcome State Fault Refusal := .next (xIarith (opXFields 0x02 0 f) s)

/-- ISUB (R91). -/
def execIsub (f : OpF) (s : State) : Host.Outcome State Fault Refusal := .next (xIarith (opFields .base none 0x02 1 f) s)

/-- ISUB_X (R91). -/
def execIsubX (f : XForm OpF) (s : State) : Host.Outcome State Fault Refusal := .next (xIarith (opXFields 0x02 1 f) s)

/-- IMUL (R91). -/
def execImul (f : OpF) (s : State) : Host.Outcome State Fault Refusal := .next (xIarith (opFields .base none 0x02 2 f) s)

/-- IMUL_X (R91). -/
def execImulX (f : XForm OpF) (s : State) : Host.Outcome State Fault Refusal := .next (xIarith (opXFields 0x02 2 f) s)

/-- IMULH (R91). -/
def execImulh (f : OpF) (s : State) : Host.Outcome State Fault Refusal := .next (xIarith (opFields .base none 0x02 3 f) s)

/-- IMULH_X (R91). -/
def execImulhX (f : XForm OpF) (s : State) : Host.Outcome State Fault Refusal := .next (xIarith (opXFields 0x02 3 f) s)

/-- IMIN (R91). -/
def execImin (f : OpF) (s : State) : Host.Outcome State Fault Refusal := .next (xIarith (opFields .base none 0x02 4 f) s)

/-- IMIN_X (R91). -/
def execIminX (f : XForm OpF) (s : State) : Host.Outcome State Fault Refusal := .next (xIarith (opXFields 0x02 4 f) s)

/-- IMAX (R91). -/
def execImax (f : OpF) (s : State) : Host.Outcome State Fault Refusal := .next (xIarith (opFields .base none 0x02 5 f) s)

/-- IMAX_X (R91). -/
def execImaxX (f : XForm OpF) (s : State) : Host.Outcome State Fault Refusal := .next (xIarith (opXFields 0x02 5 f) s)

/-- IDIV (R91). -/
def execIdiv (f : OpF) (s : State) : Host.Outcome State Fault Refusal := .next (xIarith (opFields .base none 0x02 6 f) s)

/-- IDIV_X (R91). -/
def execIdivX (f : XForm OpF) (s : State) : Host.Outcome State Fault Refusal := .next (xIarith (opXFields 0x02 6 f) s)

/-- IREM (R91). -/
def execIrem (f : OpF) (s : State) : Host.Outcome State Fault Refusal := .next (xIarith (opFields .base none 0x02 7 f) s)

/-- IREM_X (R91). -/
def execIremX (f : XForm OpF) (s : State) : Host.Outcome State Fault Refusal := .next (xIarith (opXFields 0x02 7 f) s)

/-- AND (R93). -/
def execAnd (f : OpF) (s : State) : Host.Outcome State Fault Refusal := .next (xLogic (opFields .base none 0x03 0 f) s)

/-- AND_X (R93). -/
def execAndX (f : XForm OpF) (s : State) : Host.Outcome State Fault Refusal := .next (xLogic (opXFields 0x03 0 f) s)

/-- OR (R93). -/
def execOr (f : OpF) (s : State) : Host.Outcome State Fault Refusal := .next (xLogic (opFields .base none 0x03 1 f) s)

/-- OR_X (R93). -/
def execOrX (f : XForm OpF) (s : State) : Host.Outcome State Fault Refusal := .next (xLogic (opXFields 0x03 1 f) s)

/-- XOR (R93). -/
def execXor (f : OpF) (s : State) : Host.Outcome State Fault Refusal := .next (xLogic (opFields .base none 0x03 2 f) s)

/-- XOR_X (R93). -/
def execXorX (f : XForm OpF) (s : State) : Host.Outcome State Fault Refusal := .next (xLogic (opXFields 0x03 2 f) s)

/-- ANDN (R93). -/
def execAndn (f : OpF) (s : State) : Host.Outcome State Fault Refusal := .next (xLogic (opFields .base none 0x03 3 f) s)

/-- ANDN_X (R93). -/
def execAndnX (f : XForm OpF) (s : State) : Host.Outcome State Fault Refusal := .next (xLogic (opXFields 0x03 3 f) s)

/-- SHL (R93). -/
def execShl (f : OpF) (s : State) : Host.Outcome State Fault Refusal := .next (xLogic (opFields .base none 0x03 4 f) s)

/-- SHL_X (R93). -/
def execShlX (f : XForm OpF) (s : State) : Host.Outcome State Fault Refusal := .next (xLogic (opXFields 0x03 4 f) s)

/-- SHR (R93). -/
def execShr (f : OpF) (s : State) : Host.Outcome State Fault Refusal := .next (xLogic (opFields .base none 0x03 5 f) s)

/-- SHR_X (R93). -/
def execShrX (f : XForm OpF) (s : State) : Host.Outcome State Fault Refusal := .next (xLogic (opXFields 0x03 5 f) s)

/-- ASR (R93). -/
def execAsr (f : OpF) (s : State) : Host.Outcome State Fault Refusal := .next (xLogic (opFields .base none 0x03 6 f) s)

/-- ASR_X (R93). -/
def execAsrX (f : XForm OpF) (s : State) : Host.Outcome State Fault Refusal := .next (xLogic (opXFields 0x03 6 f) s)

/-- ROT (R93). -/
def execRot (f : OpF) (s : State) : Host.Outcome State Fault Refusal := .next (xLogic (opFields .base none 0x03 7 f) s)

/-- ROT_X (R93). -/
def execRotX (f : XForm OpF) (s : State) : Host.Outcome State Fault Refusal := .next (xLogic (opXFields 0x03 7 f) s)

/-- CLZ (R95). -/
def execClz (f : OpF) (s : State) : Host.Outcome State Fault Refusal := .next (xBits (opFields .base none 0x04 0 f) s)

/-- CLZ_X (R95). -/
def execClzX (f : XForm OpF) (s : State) : Host.Outcome State Fault Refusal := .next (xBits (opXFields 0x04 0 f) s)

/-- POPC (R95). -/
def execPopc (f : OpF) (s : State) : Host.Outcome State Fault Refusal := .next (xBits (opFields .base none 0x04 1 f) s)

/-- POPC_X (R95). -/
def execPopcX (f : XForm OpF) (s : State) : Host.Outcome State Fault Refusal := .next (xBits (opXFields 0x04 1 f) s)

/-- BREV (R95). -/
def execBrev (f : OpF) (s : State) : Host.Outcome State Fault Refusal := .next (xBits (opFields .base none 0x04 2 f) s)

/-- BREV_X (R95). -/
def execBrevX (f : XForm OpF) (s : State) : Host.Outcome State Fault Refusal := .next (xBits (opXFields 0x04 2 f) s)

/-- BFX (R95). -/
def execBfx (f : OpF) (s : State) : Host.Outcome State Fault Refusal := .next (xBits (opFields .base none 0x04 3 f) s)

/-- BFX_X (R95). -/
def execBfxX (f : XForm OpF) (s : State) : Host.Outcome State Fault Refusal := .next (xBits (opXFields 0x04 3 f) s)

/-- BFI (R95). -/
def execBfi (f : EForm) (s : State) : Host.Outcome State Fault Refusal := .next (xBits (wideFields 0x04 4 f) s)

/-- IABS (R95). -/
def execIabs (f : OpF) (s : State) : Host.Outcome State Fault Refusal := .next (xBits (opFields .base none 0x04 5 f) s)

/-- IABS_X (R95). -/
def execIabsX (f : XForm OpF) (s : State) : Host.Outcome State Fault Refusal := .next (xBits (opXFields 0x04 5 f) s)

/-- IMAD (R95). -/
def execImad (f : EForm) (s : State) : Host.Outcome State Fault Refusal := .next (xBits (wideFields 0x04 6 f) s)

/-- LEA (R95). -/
def execLea (f : OpF) (s : State) : Host.Outcome State Fault Refusal := .next (xLea (opFields .base none 0x04 7 f) s)

/-- LEA_X (R95). -/
def execLeaX (f : XForm OpF) (s : State) : Host.Outcome State Fault Refusal := .next (xLea (opXFields 0x04 7 f) s)

/-- ICMP (R96). -/
def execIcmp (c : BitVec 3) (f : OpF) (s : State) : Host.Outcome State Fault Refusal := .next (xIcmp (opFields .base none 0x05 c.toNat f) s)

/-- ICMP_X (R96). -/
def execIcmpX (c : BitVec 3) (f : XForm OpF) (s : State) : Host.Outcome State Fault Refusal := .next (xIcmp (opXFields 0x05 c.toNat f) s)

/-- PAND (R97). -/
def execPand (f : OpF) (s : State) : Host.Outcome State Fault Refusal := .next (xPred (opFields .base none 0x06 0 f) s)

/-- PAND_X (R97). -/
def execPandX (f : XForm OpF) (s : State) : Host.Outcome State Fault Refusal := .next (xPred (opXFields 0x06 0 f) s)

/-- POR (R97). -/
def execPor (f : OpF) (s : State) : Host.Outcome State Fault Refusal := .next (xPred (opFields .base none 0x06 1 f) s)

/-- POR_X (R97). -/
def execPorX (f : XForm OpF) (s : State) : Host.Outcome State Fault Refusal := .next (xPred (opXFields 0x06 1 f) s)

/-- PXOR (R97). -/
def execPxor (f : OpF) (s : State) : Host.Outcome State Fault Refusal := .next (xPred (opFields .base none 0x06 2 f) s)

/-- PXOR_X (R97). -/
def execPxorX (f : XForm OpF) (s : State) : Host.Outcome State Fault Refusal := .next (xPred (opXFields 0x06 2 f) s)

/-- PNOT (R97). -/
def execPnot (f : OpF) (s : State) : Host.Outcome State Fault Refusal := .next (xPred (opFields .base none 0x06 3 f) s)

/-- PNOT_X (R97). -/
def execPnotX (f : XForm OpF) (s : State) : Host.Outcome State Fault Refusal := .next (xPred (opXFields 0x06 3 f) s)

/-- PMOV (R97). -/
def execPmov (f : OpF) (s : State) : Host.Outcome State Fault Refusal := .next (xPred (opFields .base none 0x06 4 f) s)

/-- PMOV_X (R97). -/
def execPmovX (f : XForm OpF) (s : State) : Host.Outcome State Fault Refusal := .next (xPred (opXFields 0x06 4 f) s)

/-- PPACK (R97). -/
def execPpack (f : OpF) (s : State) : Host.Outcome State Fault Refusal := .next (xPpack (opFields .base none 0x06 5 f) s)

/-- PPACK_X (R97). -/
def execPpackX (f : XForm OpF) (s : State) : Host.Outcome State Fault Refusal := .next (xPpack (opXFields 0x06 5 f) s)

/-- PUNPK (R97). -/
def execPunpk (f : OpF) (s : State) : Host.Outcome State Fault Refusal := .next (xPunpk (opFields .base none 0x06 6 f) s)

/-- PUNPK_X (R97). -/
def execPunpkX (f : XForm OpF) (s : State) : Host.Outcome State Fault Refusal := .next (xPunpk (opXFields 0x06 6 f) s)

/-- ILLEGAL_OPCODE (R86). -/
def execIllegalOpcode (w : RawWords) (s : State) : Host.Outcome State Fault Refusal := .next (xIllegal w.first s)

end Sys2Proof.Machine
end

