-- ==== Sys2Proof/Machine/Move.lean ====
section
/-! DEFINITION. MOVE (05 R98 to R101) and the special registers (01 R13 to R16, R22, 20 R346): moves, indexed reads, selection,
extension, SRD and SWR. -/

namespace Sys2Proof.Machine

/-- MOV: the bits of B (R99). -/
def xMov (f : Fields) (s : State) : State := s.runValue f State.noFault f.is64 (fun g t => f.opB f.is64 g t)

/-- MOVI's register number (R100). -/
def moviIndex (f : Fields) (g : Group) (t : Thread) : Nat := f.a + (f.opB false g t).toNat

/-- The check of the register MOVI computes (R100). -/
def moviFault (f : Fields) (s : State) (tid : Nat) : Option Flt :=
  let gid := gidOf tid
  let k := moviIndex f (s.group gid) (s.thread tid)
  if 254 < k ∨ (s.launchOf gid).regs ≤ k then some ⟨codeRegBounds, 0, BitVec.ofNat 32 (if f.a = 255 then 255 else f.a - s.issue.shift)⟩ else none

/-- MOVI (R100): REG_BOUNDS at execution when the register lies beyond v254 or the cap, with the field A as it is encoded (R111). -/
def xMovi (f : Fields) (s : State) : State :=
  s.runValue f (moviFault f s)
    false (fun g t => (t.reg (moviIndex f g t)).setWidth 64)

/-- SEL: A where predicate C is true, else B (R99). -/
def xSel (f : Fields) (s : State) : State :=
  s.runValue f State.noFault f.is64 (fun g t => if t.pred f.c then f.opA f.is64 g t else f.opB f.is64 g t)

/-- MOVS: the low bits of B extended under .s or .z; a b32 source fills the pair (R99). -/
def movsVal (f : Fields) (g : Group) (t : Thread) : DWord :=
  let w := typeBits f.ty
  let b := f.opB false g t
  let x := BitVec.ofInt 64 (readInt w f.z b)
  if f.ty = 0 then x else (loWord x).setWidth 64

def xMovs (f : Fields) (s : State) : State := s.runValue f State.noFault (f.ty == 0) (movsVal f)

/-- The SRD value of MEET: depth in [31:16], values held in [3:0] (R151). -/
def meetWord (t : Thread) : Word :=
  match t.meet with
  | none => 0
  | some m => (m.depth ++ (0 : BitVec 12)) ++ BitVec.ofNat 4 (t.meets.length + 1)

namespace State

/-- What SRD reads from the special register of an index (R13), for a thread; CLK.LO and CLK.HI by R15. DESIGN CHOICE: log entry 107. -/
def special (s : State) (tid idx : Nat) : Word :=
  let gid := gidOf tid
  let t := s.thread tid
  let g := s.group gid
  let la := s.launchOf gid
  match idx with
  | 0x00 => BitVec.ofNat 32 (laneOf tid)
  | 0x01 => BitVec.ofNat 32 (s.tidx tid)
  | 0x02 => BitVec.ofNat 32 (gidxOf gid)
  | 0x03 => BitVec.ofNat 32 (s.teamAt gid).index
  | 0x04 => BitVec.ofNat 32 la.width
  | 0x05 => BitVec.ofNat 32 la.tsize
  | 0x06 => BitVec.ofNat 32 g.core
  | 0x07 => s.dev.setWidth 32
  | 0x08 => BitVec.ofNat 32 s.cycle
  | 0x09 => t.clkLatch.getD (BitVec.ofNat 32 (s.cycle / 2 ^ 32))
  | 0x0A => t.fpsr
  | 0x0B => t.fpcr
  | 0x0C => meetWord t
  | 0x0D => t.stklim
  | 0x0E => t.rpc
  | 0x0F => (s.descOn g.core la.ctx (segOf t.pc)).ltbf
  | 0x10 => loWord (s.pkrCopy g.core la.ctx)
  | 0x11 => hiWord (s.pkrCopy g.core la.ctx)
  | 0x12 => t.fcode
  | 0x13 => t.fpc
  | 0x14 => t.faddrLo
  | 0x15 => t.faddrHi
  | 0x16 => t.fmask
  | 0x17 => t.faux
  | 0x18 => g.thnd
  | 0x19 => g.cbrto
  | 0x1A => g.barto
  | 0x1B => BitVec.ofNat 32 g.level
  | 0x1C => g.phs
  | 0x1D => 0x00000000
  | 0x1E => 0x00001000
  | 0x1F => BitVec.ofNat 32 la.ctx
  | 0x20 => loWord g.reply
  | 0x21 => hiWord g.reply
  | 0x22 => loWord g.savep
  | 0x23 => hiWord g.savep
  | 0x24 => t.ylane
  | 0x25 => BitVec.ofNat 32 la.depth
  | 0x26 => la.id
  | _ => 0

/-- The lowest-numbered home lane of a list of threads (R101). -/
def lowest (tids : List Nat) : Nat := tids.foldl min (tids.headD 0)

/-- The highest home lane of a list of threads (R101). -/
def highest (tids : List Nat) : Nat := tids.foldl max 0

end State

/-- The latch after an SRD: CLK.HI clears it (R15). -/
def afterSrd (idx : Nat) (t : Thread) : Thread := if idx = 0x09 then { t with clkLatch := none } else t

/-- SRD (R101): a scalar D takes the value of the lowest active home lane. -/
def xSrd (f : Fields) (s : State) : State :=
  let ok := s.acting f State.noFault
  s.runPlain f State.noFault (fun tid t => afterSrd f.b (f.toVec false ((s.special tid f.b).setWidth 64) t))
    (fun gid => f.toScal false ((s.special (State.lowest (ofGroup ok gid)) f.b).setWidth 64))

/-- SRD of CLK.LO latches the high word of the same count (R15). -/
def xClkLo (f : Fields) (s : State) : State :=
  s.runPlain f State.noFault
    (fun _ t => { f.toVec false (BitVec.ofNat 64 (s.cycle % 2 ^ 32)) t with clkLatch := some (BitVec.ofNat 32 (s.cycle / 2 ^ 32)) })
    (fun _ => f.toScal false (BitVec.ofNat 64 (s.cycle % 2 ^ 32)))

/-- SWR's own faults: a nonzero value in the zero bits of FPSR, FPCR or FCODE (R14). -/
def swrFault (f : Fields) (x : Word) : Option Flt :=
  let bad := match f.b with
    | 0x0A => x.extractLsb' 5 27 != 0
    | 0x0B => x.extractLsb' 3 29 != 0
    | 0x12 => x.extractLsb' 9 23 != 0
    | _ => false
  if bad then some ⟨codeReserved, 0, f.w0⟩ else none

/-- SWR of a thread-scope register (R13, R16, R101). -/
def swrThread (idx : Nat) (x : Word) (t : Thread) : Thread :=
  match idx with
  | 0x0A => { t with fpsr := x }
  | 0x0B => { t with fpcr := x }
  | 0x0D => { t with stklim := x }
  | 0x12 => { t with fcode := x }
  | 0x13 => { t with fpc := x }
  | 0x14 => { t with faddrLo := x }
  | 0x15 => { t with faddrHi := x }
  | 0x16 => { t with fmask := x }
  | 0x17 => { t with faux := x }
  | _ => t

/-- SWR of a group-scope register (R13, R101). -/
def swrGroup (idx : Nat) (x : Word) (g : Group) : Group :=
  match idx with
  | 0x19 => { g with cbrto := x }
  | 0x1A => { g with barto := x }
  | 0x22 => { g with savep := ofWords (hiWord g.savep) x }
  | 0x23 => { g with savep := ofWords x (loWord g.savep) }
  | _ => g

/-- The value SWR writes in a thread. -/
def swrVal (f : Fields) (s : State) (tid : Nat) : Word := loWord (f.opA false (s.group (gidOf tid)) (s.thread tid))

/-- SWR (R101): a thread-scope register of each acting thread; a group-scope one takes the highest active home lane's value. -/
def xSwr (f : Fields) (s : State) : State :=
  let own := fun tid => swrFault f (swrVal f s tid)
  s.runState f own (fun ok s1 =>
    let s2 := s1.mapThreads (fun tid t => if ok.contains tid then swrThread f.b (swrVal f s tid) t else t)
    { s2 with groups := s2.groups.mapKV (fun gid g =>
        if (State.groupsIn ok).contains gid then swrGroup f.b (swrVal f s (State.highest (ofGroup ok gid))) g else g) })

/-- SWR of THND also makes the writer's code segment the handler segment (R346). -/
def xThnd (f : Fields) (s : State) : State :=
  s.runState f State.noFault (fun ok s1 =>
    { s1 with groups := s1.groups.mapKV (fun gid g =>
        if (State.groupsIn ok).contains gid then
          { g with thnd := swrVal f s (State.highest (ofGroup ok gid)), thndSeg := segOf s.issue.self }
        else g) })

/-! The meaning of each row of the table of operations. -/

/-- MOV (R99). -/
def execMov (f : OpF) (s : State) : Host.Outcome State Fault Refusal := .next (xMov (opFields .base none 0x07 0 f) s)

/-- MOV_X (R99). -/
def execMovX (f : XForm OpF) (s : State) : Host.Outcome State Fault Refusal := .next (xMov (opXFields 0x07 0 f) s)

/-- MOVI (R100). -/
def execMovi (f : OpF) (s : State) : Host.Outcome State Fault Refusal := .next (xMovi (opFields .base none 0x07 1 f) s)

/-- MOVI_X (R100). -/
def execMoviX (f : XForm OpF) (s : State) : Host.Outcome State Fault Refusal := .next (xMovi (opXFields 0x07 1 f) s)

/-- SEL (R99). -/
def execSel (f : EForm) (s : State) : Host.Outcome State Fault Refusal := .next (xSel (wideFields 0x07 2 f) s)

/-- MOVS (R99). -/
def execMovs (f : OpF) (s : State) : Host.Outcome State Fault Refusal := .next (xMovs (opFields .base none 0x07 3 f) s)

/-- MOVS_X (R99). -/
def execMovsX (f : XForm OpF) (s : State) : Host.Outcome State Fault Refusal := .next (xMovs (opXFields 0x07 3 f) s)

/-- SRD (R101). -/
def execSrd (f : OpF) (s : State) : Host.Outcome State Fault Refusal := .next (xSrd (opFields .base none 0x07 4 f) s)

/-- SRD_X (R101). -/
def execSrdX (f : XForm OpF) (s : State) : Host.Outcome State Fault Refusal := .next (xSrd (opXFields 0x07 4 f) s)

/-- SWR (R101). -/
def execSwr (f : OpF) (s : State) : Host.Outcome State Fault Refusal := .next (xSwr (opFields .base none 0x07 5 f) s)

/-- SWR_X (R101). -/
def execSwrX (f : XForm OpF) (s : State) : Host.Outcome State Fault Refusal := .next (xSwr (opXFields 0x07 5 f) s)

/-- CLK_LO_READ (R15). -/
def execClkLoRead (f : AnyForm) (s : State) : Host.Outcome State Fault Refusal := .next (xClkLo (anyFields 4 f) s)

/-- THND_WRITE (R346). -/
def execThndWrite (f : AnyForm) (s : State) : Host.Outcome State Fault Refusal := .next (xThnd (anyFields 5 f) s)

end Sys2Proof.Machine
end

