-- ==== Sys2Proof/Machine/System.lean ====
section
/-! DEFINITION. Layer five's instructions (20 R364 to R378, 21 R386): SVC and its reply block, THSET, RTT, PARK, PRIO, PSRD, PSWR and
TLBINV, the wake of SVC.h, and the service teams' answer (20 R364, 23 R428). -/

namespace Sys2Proof.Machine

/-- The four argument-word counts and the class of SVC (R370). -/
def svcN (f : Fields) : Nat := (f.mod.extractLsb' 1 3).toNat
def svcSleeps (f : Fields) : Bool := f.modBit 0

/-- FAUX of SVC_REJECT (R372). -/
def svcAux (reason detail : Nat) : Word := BitVec.ofNat 32 (reason * 2 ^ 28 + detail)

namespace State

/-- The length of a reply block (R364). -/
def replyLen (s : State) (gid : Nat) : Nat := 64 + 16 * s.widthOf gid

/-- A group's reply word as its home holds it (R364): STATUS, SEQ, DETAIL. DEDUCED: log entry 62. -/
def replyWord (s : State) (gid : Nat) : Word :=
  let r := (s.pieces (s.ctxOf gid) (s.group gid).reply 4).foldl fetchPiece ⟨0, s, [], [], none⟩
  BitVec.ofNat 32 (leNat r.bytes)
/-- The lines of a reply word are read at their home (R386). -/
def touchReply (s : State) (gid : Nat) : State :=
  s.readLines ((s.pieces (s.ctxOf gid) (s.group gid).reply 4).flatMap (fun q =>
    match q.1 with | .home a => linesOf a q.2 | .far _ => []))
def replyStatus (s : State) (gid : Nat) : Nat := ((s.replyWord gid).extractLsb' 24 8).toNat

/-- The arguments of a participant (R371). -/
def svcArgs (s : State) (f : Fields) (tid : Nat) : List Word := (List.range (svcN f)).map (fun k => (s.thread tid).reg (f.a + k))

/-- A group's batch as an output (R385). -/
def svcOut (f : Fields) (gid : Nat) (s : State) : Output := ⟨0, [], 0, f.x :: (ofGroup (s.guarded f) gid).flatMap (s.svcArgs f)⟩

/-- The faults of SVC: reasons 1 to 3 (R371), then the shadow's comparison (R385). DESIGN CHOICE: log entry 5. -/
def svcFault (s : State) (f : Fields) (tid : Nat) : Option Flt :=
  let gid := gidOf tid
  let g := s.group gid
  let bad := g.reply = 0 ∨
    (s.checkRange (s.agentNoLease tid) g.reply (s.replyLen gid) (offOf g.reply % 64 != 0) .write).isSome
  let d := dieOfCore g.core
  if bad then some ⟨codeSvc, g.reply, svcAux 1 0⟩
  else if g.called && s.replyStatus gid == 0 then some ⟨codeSvc, g.reply, svcAux 2 0⟩
  else if !(s.die d).queue.isEmpty && Config.serviceFull d (s.die d).queue.length then some ⟨codeSvc, g.reply, svcAux 3 0⟩
  else s.shadowFault tid (svcOut f gid)

/-- The header of a reply block (R364). -/
def replyHead (f : Fields) (ctx : Nat) (seq : Byte) (lanes : Nat) : List Byte :=
  leBytes 4 (seq.toNat * 65536) ++ leBytes 4 0
    ++ leBytes 4 (svcN f * 2 ^ 17 + (svcSleeps f).toNat * 65536 + f.x.toNat % 65536)
    ++ leBytes 4 (ctx * 256 + seq.toNat) ++ leBytes 8 lanes ++ List.replicate 40 0

/-- Bytes of a reply block as its group writes them (R371): into the overlay of its domain, behind the group's earlier stores, so that the
publication that follows takes them home; a block of another home is written there, as by a store of thread `tid`.
DEDUCED: log entry 63. -/
def writeBlock (s : State) (gid tid : Nat) (p : Ptr) (bytes : List Byte) : State :=
  ((s.pieces (s.ctxOf gid) p bytes.length).foldl (fun (r : State × Nat) q =>
    let bs := (bytes.drop r.2).take q.2
    let s := r.1
    (match q.1 with
      | .home a => s.overlayCells (s.domOf gid) ((List.range q.2).map (fun k => (a + k, bs.getD k 0)))
      | .far fr => s.postStore
          ⟨0, tid, gid, s.issue.pc, mkPtr (segOf p) (offOf p + r.2), fr, 0, 0, bs, 2 ^ bs.length - 1, .nothing, false⟩, r.2 + q.2)) (s, 0)).1

/-- One group's SVC (R371): the block is written, the domain published, and the batch handed to the die's service queue.
DEDUCED: log entry 43. -/
def svcOne (s : State) (f : Fields) (gid : Nat) (ok : List Nat) : State :=
  let g := s.group gid
  let ctx := s.ctxOf gid
  let seq := g.seq + 1
  let lanes := ok.foldl (fun m t => m + 2 ^ laneOf t) 0
  let s := (s.touchReply gid).modGroup gid (fun g => { g with seq := seq, called := true })
  let s := s.drainPath gid (s.group gid).path.length
  let s := s.writeBlock gid (ok.headD 0) g.reply (replyHead f ctx seq lanes)
  let s := ok.foldl (fun s t =>
    s.writeBlock gid t (mkPtr (segOf g.reply) (offOf g.reply + 64 + 16 * laneOf t)) ((s.svcArgs f t).flatMap (fun w => leBytes 4 w.toNat))) s
  let s := s.publish gid 3
  let b : Batch := ⟨ctx, gid, g.reply, f.x.toNat % 65536, svcN f, svcSleeps f, lanes, (byLane ok).flatMap (s.svcArgs f),
    (s.context ctx).resets, none⟩
  s.modDie (dieOfCore g.core) (fun d => { d with queue := d.queue ++ [b] })

/-- Does every thread of a group that has not exited sleep in SVC.h (R365), be it with a trap slot active (R348)? -/
def asleep (s : State) (gid : Nat) : Bool :=
  (s.presentOf gid) != [] && (s.presentOf gid).all (fun t => (s.thread t).waitsAs (fun w => decide (w = .svc)))

/-- The resident groups of a launch on a core. -/
def residentOn (s : State) (l core : Nat) : List Nat :=
  s.groups.keys.filter (fun g => (s.group g).core == core && (s.teamAt g).launch == l
    && decide ((s.teamAt g).place = .resident) && !s.teamOver (teamOf g) && !(s.threadsOf g).all (fun t => decide ((s.thread t).life = .exited)))

/-- Has every thread of some groups its PREEMPT already, or is it on its way (R184, R353)? -/
def preempting (s : State) (gids : List Nat) : Bool :=
  gids.all (fun g => (s.group g).preempt || (s.presentOf g).all (fun t => (s.thread t).slotP.isSome || (s.thread t).defPark))

/-- The rule of R365 for a launch on a core. -/
def sleepersFull (s : State) (l core : Nat) : Bool :=
  let r := s.residentOn l core
  let z := (r.filter s.asleep).length
  let thr := s.svcthrOf (s.launch l).ctx
  thr != 0 && r != [] && decide (thr * r.length ≤ 256 * z) && !s.preempting r

/-- Every launch and core that a list of groups touches. -/
def launchCores (s : State) (gids : List Nat) : List (Nat × Nat) :=
  (gids.map (fun g => ((s.teamAt g).launch, (s.group g).core))).eraseDups

/-- The pre-emptions due by R365, put on the agenda. -/
def askPreempt (s : State) (gids : List Nat) : State :=
  let hit := (s.launchCores gids).filter (fun e => s.sleepersFull e.1 e.2)
  { s with agenda := hit.map (fun e => Turn.event .preemptRequest (.launchOn e.1 e.2)) ++ s.agenda }

end State

/-- SVC (R371): a participant of class h sleeps, and the launch is pre-empted at once when enough groups sleep (R365). -/
def xSvc (f : Fields) (s : State) : State :=
  let own (s' : State) (tid : Nat) : Option Flt :=
    if svcN f = 0 ∧ f.a ≠ 0 then some ⟨codeReserved, 0, f.w0⟩ else s'.svcFault f tid
  let r := s.groupsRun f own (fun gid ok s' => s'.svcOne f gid ok)
  if svcSleeps f then
    let s1 := (r.1.advanceAll (s.unguarded f)).mapThreads (fun tid t =>
      if r.2.2.contains tid then { t with wait := .svc, after := s.issue.next, issued := true } else t)
    (s1.deliverAll r.2.1).askPreempt (State.groupsIn r.2.2)
  else (r.1.advanceAll (s.unguarded f ++ r.2.2)).deliverAll r.2.1

namespace State

/-- Where the SVC of a sleeper stands: 12 bytes before the instruction behind it (R370). DEDUCED: log entry 64. -/
def svcAt (t : Thread) : Ptr := mkPtr (segOf t.after) (offOf t.after + 2 ^ 44 - 12)

end State

/-- SVC_WAKE (R365, R372): once a group's reply word leaves pending, its sleepers acquire at dev and go on, or take SVC_REJECT and
resume behind the SVC (R347, R348). -/
def evSvcWake (s : State) : State :=
  match s.subject with
  | .group gid =>
    let st := s.replyStatus gid
    let ws := (s.presentOf gid).filter (fun t => decide ((s.thread t).wait = .svc) && !(s.thread t).defPark)
    if st = 0 ∨ ws = [] ∨ (s.teamAt gid).place ≠ .resident then s
    else
      let detail := (s.replyWord gid).toNat % 65536
      let s1 := (s.touchReply gid).acquire gid 3
      if st = 2 then
        let rs := ws.map (fun t => (⟨t, codeSvc, (s.group gid).reply, svcAux 4 detail⟩ : Raised))
        rs.foldl (fun s r =>
          let t := s.thread r.tid
          (s.modThread r.tid (fun t => { t with wait := .none })).deliver r (State.svcAt t) t.after (State.faultMask rs r.tid)) s1
      else s1.mapThreads (fun tid t => if ws.contains tid then t.finish else t)
  | _ => s

namespace State

/-- The participating lanes of a batch. -/
def batchLanes (b : Batch) : List Nat := (List.range 64).filter (fun i => b.lanes / 2 ^ i % 2 == 1)

/-- Bytes written into a lane's slots of a reply block. -/
def replyLane (s : State) (b : Batch) (lane : Nat) (bs : List Byte) : State :=
  s.store b.ctx 0 (mkPtr (segOf b.block) (offOf b.block + 64 + 16 * lane)) (bs.take (4 * b.n)) []

/-- The reply word: STATUS, the call's SEQ, DETAIL (R364). -/
def replyDone (s : State) (b : Batch) (status : BitVec 8) (detail : BitVec 16) : State :=
  let seq := (((s.pieces b.ctx (mkPtr (segOf b.block) (offOf b.block + 2)) 1).foldl fetchPiece ⟨0, s, [], [], none⟩).bytes.getD 0 0)
  s.store b.ctx 0 b.block (leBytes 2 detail.toNat ++ [seq, status]) []

/-- The lane pointer and addend of the atomic proxy (23 R415, R428). -/
def proxyArgs (b : Batch) (j : Nat) : Ptr × DWord :=
  let w (k : Nat) : Word := b.args.getD (4 * j + k) 0
  (ofWords (w 0) (w 1), ofWords (w 2) (w 3))

/-- The host address of a lane's pointer, if it is one the proxy may add to (R428): the checks of R233 as an atomic of the calling launch,
its leases and the locks included. -/
def proxyHost (s : State) (b : Batch) (p : Ptr) : Option Nat :=
  match s.check { engine b.ctx with leases := some (s.launchOf b.gid).leases } p 8 3 .atomic with
  | .ok _ (.far (.host h)) => if s.locked b.ctx (segOf p) (offOf p) 8 .atomic then none else some h
  | _ => none

/-- The atomic proxy, function 0x20 (R428). -/
def proxy (s : State) (b : Batch) : State :=
  let lanes := batchLanes b
  if b.n ≠ 4 then s.replyDone b 2 1
  else if (List.range lanes.length).any (fun j => (s.proxyHost b (proxyArgs b j).1).isNone) then s.replyDone b 2 2
  else
    ((lanes.zip (List.range lanes.length)).foldl (fun s e =>
      let a := proxyArgs b e.2
      match s.proxyHost b a.1 with
      | none => s
      | some h =>
        let old := leNat (s.hostMem.bytes h 8)
        let s := { s with hostMem := s.hostMem.putBytes h (leBytes 8 ((old + a.2.toNat) % 2 ^ 64)) }
        s.store b.ctx 0 (mkPtr (segOf b.block) (offOf b.block + 64 + 16 * e.1)) (leBytes 8 old) []) s).replyDone b 1 0

/-- The linkage entry a call of UNLINK names (R389): its index, and its home address where segment 2 holds it. -/
def unlinkIndex (b : Batch) : Nat := (b.args.getD 0 0).toNat
def entryHome (s : State) (ctx n : Nat) : Option Nat :=
  if (s.descHome ctx 2).len < 8 * n + 8 then none else (s.homeRanges none ctx 2 (8 * n) 8).head?.map (·.1)

/-- LTB of the CODE segment whose linkage range holds entry n (R230, R389). -/
def linkBase (s : State) (ctx n : Nat) : Option Nat :=
  ((List.range (s.context ctx).stl).find? (fun g =>
    let d := s.descHome ctx g
    d.valid && d.type == 1 && decide (d.ltbf.toNat ≤ n) && decide (n < d.ltbf.toNat + d.impn))).map (fun g => (s.descHome ctx g).ltbf.toNat)

/-- UNLINK, function 0x31 (R389): its steps 1 and 2 at one moment, steps 3 and 4 at a later one. DESIGN CHOICE: log entry 89. -/
def unlink (s : State) (die : Nat) (b : Batch) (rest : List Batch) : State :=
  let n := unlinkIndex b
  let lane0 := mkPtr (segOf b.block) (offOf b.block + 64)
  match s.entryHome b.ctx n, b.entry with
  | none, _ => s.replyDone b 2 1
  | some a, none =>
    let s := s.readLines (linesOf a 8)
    let w := s.homeWord a
    if w.extractLsb' 62 2 ≠ 2 then s.replyDone b 2 1
    else if (s.linkBase b.ctx n).isNone then s.replyDone b 2 3
    else
      let rec_ : Ptr := match (s.homeRanges none b.ctx 4 (0x10000 + 8 * n) 8).head? with | some r => s.homeWord r.1 | none => 0
      let s := s.store b.ctx 0 rec_ (List.replicate 8 0) []
      s.modDie die (fun d => { d with queue := { b with entry := some w } :: rest })
  | some a, some w =>
    if s.homeWord a ≠ w then s.replyDone b 2 2
    else
      let k := n - (s.linkBase b.ctx n).getD 0
      let s := s.putCells ((List.range 8).map (fun j => (a + j, (leBytes 8 k).getD j 0)))
      (s.store b.ctx 0 lane0 (List.replicate 4 0) []).replyDone b 1 0

/-- The lines of a reply block that an answer writes: the first, and those of the lanes' slots (R364, R368). DEDUCED: log entry 130. -/
def answerLines (b : Batch) : Nat := 1 + (((batchLanes b).map (fun i => i / 4)).eraseDups).length

/-- The answer of a die's service teams to a batch that has left its queue: a function that no service of the die offers is rejected (R371).
What another service answers is free. DESIGN CHOICE: log entry 89. -/
def answerWith (s : State) (die : Nat) (b : Batch) (rest : List Batch) (status : BitVec 8) (detail : BitVec 16) (results : List Byte) : State :=
  if b.fn = 0x20 then s.proxy b
  else if b.fn = 0x31 ∧ b.n = 1 then s.unlink die b rest
  else if !Config.offers die b.fn then s.replyDone b 2 0xFFFF
  else
    let lanes := batchLanes b
    ((lanes.zip (List.range lanes.length)).foldl (fun s e =>
      s.replyLane b e.1 ((results.drop (4 * b.n * e.2)).take (4 * b.n))) s).replyDone b status detail

/-- Has a batch an answer: one the spec gives, or a status that ends a call (R364)? -/
def answers (die : Nat) (b : Batch) (status : BitVec 8) : Bool :=
  decide (b.fn = 0x20) || (decide (b.fn = 0x31) && decide (b.n = 1)) || !Config.offers die b.fn || decide (status = 1) || decide (status = 2)

/-- The service teams of a die act on their oldest batch (R359, R364, R371), while their HBM budget lasts (R368): a reply of an old reset
count is discarded. DESIGN CHOICE: log entry 89. -/
def answerBatch (s : State) (die : Nat) (status : BitVec 8) (detail : BitVec 16) (results : List Byte) : State :=
  match (s.die die).queue with
  | [] => s
  | b :: r =>
    let act := 4 * 65536 + die
    let t := s.modDie die (fun d => { d with queue := r })
    if (s.context b.ctx).resets ≠ b.resets then t
    else if s.spent act 1 || !answers die b status then s
    else (t.countUse act 1 (answerLines b)).answerWith die b r status detail results

end State

/-- THSET (R373). -/
def xThset (f : Fields) (s : State) : State :=
  s.runGroups f (fun _ _ => none) (fun gid _ s' => s'.modGroup gid (fun g =>
    if f.modBit 0 then { g with thnd := 0 }
    else
      let o := (((offOf s.issue.self : Int) + 4 * f.x.toInt) % 2 ^ 32).toNat
      { g with thnd := BitVec.ofNat 32 o, thndSeg := segOf s.issue.self }))

/-- RTT (R374): the return from an exception; a fault that ended the wait held in the slot is raised (R348). -/
def xRtt (f : Fields) (s : State) : State :=
  s.runFlow f
    (fun tid => if (s.thread tid).innermost.isNone then some ⟨codeReserved, 0, f.w0⟩ else none)
    (fun ok s1 =>
      let s2 := s1.mapThreads (fun tid t =>
        if ok.contains tid then
          match t.innermost with
          | some e => { t.returnFrom s.cycle e.1 e.2 with issued := true }
          | none => t
        else t)
      let s2 := s2.forgetOf (ok.filter (fun tid => match (s.thread tid).innermost with
        | some (_, k) => k.ended && k.wait.barrierWait
        | none => false))
      let s3 := (State.groupsIn ok).foldl (fun s g => s.settleMeetings g) s2
      ok.foldl (fun s' tid =>
        match (s.thread tid).innermost with
        | some (_, k) =>
          match k.fault with
          | some e => s'.deliver ⟨tid, e.1, 0, e.2⟩ k.self k.self (State.faultMask [⟨tid, e.1, 0, e.2⟩] tid)
          | none => s'
        | none => s') s3)

/-- PARK (R375): the thread waits with its resume label. -/
def xPark (f : Fields) (s : State) : State :=
  s.runFlow f
    (fun tid => if (s.thread tid).slotP.isNone then some ⟨codeReserved, 0, f.w0⟩ else none)
    (fun ok s1 =>
      let o := (((offOf s.issue.self : Int) + 4 * f.x.toInt) % 2 ^ 32).toNat
      s1.mapThreads (fun tid t =>
        if ok.contains tid then { t with wait := .park (mkPtr (segOf s.issue.self) o), after := s.issue.next, issued := true } else t))

/-- PRIO (R376). -/
def xPrio (f : Fields) (s : State) : State :=
  s.runGroups f (fun _ _ => none) (fun gid _ s' =>
    s'.modGroup gid (fun g =>
      let v := if f.xb then f.x.toNat else min (g.sreg f.b).toNat 7
      { g with level := max v (s'.launchOf gid).prio }))

/-- The fields of PSEL (R369): its context, and the activity it selects. -/
def pselCtx (p : Word) : Nat := (p.extractLsb' 24 6).toNat
def pselActivity (p : Word) : Nat := 65536 * (p.extractLsb' 16 8).toNat + (p.extractLsb' 0 16).toNat

namespace State

/-- The use of a budget in the current period (R369). Issue slots are counted per partition: which partition's count is read is a free
value. DESIGN CHOICE: log entry 6. -/
def budgetUsed (s : State) (act unit_ : Nat) : Word :=
  BitVec.ofNat 32 (if unit_ = 0 then let p := Config.slotPart s.turn; s.slotsUsed act (p / 4) (p % 4) else s.used.getD (4 * act + unit_) 0)

/-- BSTAT (R369): which budgets are spent. A budget of 0 is unlimited. DESIGN CHOICE: log entry 6. -/
def budgetStat (s : State) (act : Nat) : Word :=
  let p := Config.slotPart s.turn
  (List.range 4).foldl (fun w k =>
    if (if k = 0 then s.slotsGone act (p / 4) (p % 4) else s.spent act k) then w ||| BitVec.ofNat 32 (2 ^ k) else w) 0

/-- What PSRD reads (R369, R386). -/
def privileged (s : State) (tid idx : Nat) : Word :=
  let p := (s.thread tid).psel
  let act := pselActivity p
  match idx with
  | 0x80 => s.flkLo
  | 0x81 => s.flkHi
  | 0x82 => s.flkCtl
  | 0x83 => s.svcthr.getD (pselCtx p) 128
  | 0x84 => s.ctxlim.getD (pselCtx p) 24
  | 0x85 => p
  | 0x86 => s.budgets.getD (4 * act) 0
  | 0x87 => s.budgets.getD (4 * act + 1) 0
  | 0x88 => s.budgets.getD (4 * act + 2) 0
  | 0x89 => s.budgets.getD (4 * act + 3) 0
  | 0x8A => s.budgetUsed act 0
  | 0x8B => s.budgetUsed act 1
  | 0x8C => s.budgetUsed act 2
  | 0x8D => s.budgetUsed act 3
  | 0x8E => s.budgetStat act
  | _ => 11200

/-- PSWR of one thread (R369, R377). -/
def setPrivileged (s : State) (tid idx : Nat) (x : Word) : State :=
  let p := (s.thread tid).psel
  let act := pselActivity p
  match idx with
  | 0x80 => { s with flkLo := x }
  | 0x81 => { s with flkHi := x }
  | 0x83 => { s with svcthr := s.svcthr.putD (pselCtx p) x 128 }
  | 0x84 => { s with ctxlim := s.ctxlim.putD (pselCtx p) x 24 }
  | 0x85 => s.modThread tid (fun t => { t with psel := x })
  | 0x86 => { s with budgets := s.budgets.putD (4 * act) x 0 }
  | 0x87 => { s with budgets := s.budgets.putD (4 * act + 1) x 0 }
  | 0x88 => { s with budgets := s.budgets.putD (4 * act + 2) x 0 }
  | 0x89 => { s with budgets := s.budgets.putD (4 * act + 3) x 0 }
  | _ => s

/-- A write of FLKCTL (R386): ARM and KIND as written; FIRED is cleared by writing 0. DEDUCED: log entry 60. -/
def writeFlkctl (s : State) (x : Word) : State :=
  { s with flkCtl := (x &&& 0x80000003) ||| (x &&& s.flkCtl &&& 0x40000000) }

end State

/-- Is a PSEL value in range (R369)? -/
def pselOk (x : Word) : Bool :=
  let i := (x.extractLsb' 0 16).toNat
  x.extractLsb' 30 2 == 0 &&
  (match (x.extractLsb' 16 8).toNat with
    | 0 => i < 4096
    | 1 => i < 4
    | 2 => i < 4
    | 3 => i < 64
    | 4 => i < 4
    | _ => false)

/-- PSWR's own faults (R369, R386). -/
def pswrFault (f : Fields) (x : Word) : Option Flt :=
  let ok := match f.b with
    | 0x80 => x.extractLsb' 0 6 == 0
    | 0x81 => x.extractLsb' 20 12 == 0
    | 0x82 => x.extractLsb' 2 28 == 0 && x.extractLsb' 0 2 != 3
    | 0x83 => x.toNat ≤ 256
    | 0x84 => 1 ≤ x.toNat && x.toNat ≤ 24
    | 0x85 => pselOk x
    | 0x86 => x.toNat ≤ 11200
    | 0x87 => true
    | 0x88 => true
    | 0x89 => true
    | _ => false
  if ok then none else some ⟨codeReserved, 0, f.w0⟩

/-- PSRD (R377): as SRD. -/
def xPsrd (f : Fields) (s : State) : State :=
  let ok := s.acting f State.noFault
  s.runPlain f State.noFault (fun tid t => f.toVec false ((s.privileged tid f.b).setWidth 64) t)
    (fun gid => f.toScal false ((s.privileged (State.lowest (ofGroup ok gid)) f.b).setWidth 64))

/-- PSWR (R377): as SWR; of several threads the highest home lane's value stands. DEDUCED: log entry 61. -/
def xPswr (f : Fields) (s : State) : State :=
  s.runState f (fun tid => pswrFault f (swrVal f s tid)) (fun ok s1 =>
    (byLane ok).foldl (fun s' t => s'.setPrivileged t f.b (swrVal f s t)) s1)

/-- PSWR of FLKCTL (R386). -/
def xFlkctl (f : Fields) (s : State) : State :=
  s.runState f (fun tid => pswrFault f (swrVal f s tid)) (fun ok s1 =>
    (byLane ok).foldl (fun s' t => s'.writeFlkctl (swrVal f s t)) s1)

namespace State

/-- The device-virtual pages TLBINV drops (R378): the page of the pointer, or every page of the segment. -/
def invPages (s : State) (core ctx kind : Nat) (p : Ptr) (page : Nat) : Bool :=
  let d := s.descOn core ctx (segOf p)
  let e := s.descHome ctx (segOf p)
  let hit (x : Desc) : Bool :=
    if kind = 0 then page == (x.base + offOf p) / 65536
    else decide (x.base / 65536 ≤ page) && decide (page * 65536 < x.base + x.len)
  kind == 2 || hit d || hit e

/-- Does TLBINV remove a denial entry: of the page, the segment or the context it names (R413)? An entry belongs to the HOST pages that map
its host page now, and to those through which an ATOM met it. -/
def dropsDenial (s : State) (core ctx kind : Nat) (p : Ptr) (x : Denial) : Bool :=
  let d := s.descHome ctx (segOf p)
  let maps (page : Nat) : Bool := d.type == 5 && (s.walk ctx (page * 65536)).map (fun e => pageFrame e / 65536) == some x.page
  x.ctx == ctx && (kind == 2 ||
    (if kind = 0 then maps ((d.base + offOf p) / 65536) || x.via.any (fun v => s.invPages core ctx 0 p v.2)
     else x.via.any (fun v => v.1 == segOf p) || (pagePieces 0 d.len).any (fun q => maps ((d.base + q.1) / 65536))))

/-- TLBINV of one thread (R232, R378, R413). -/
def tlbinvOne (s : State) (f : Fields) (tid : Nat) : State :=
  let gid := gidOf tid
  let g := s.group gid
  let t := s.thread tid
  let p := f.opA true g t
  let ctx := (f.opB false g t).toNat % 2 ^ 32
  let kind := f.mod.toNat
  let s := s.publish gid 3
  let drop (e : Nat × DWord) : Bool := e.1 / 2 ^ 32 % 64 == ctx && s.invPages g.core ctx kind p (e.1 % 2 ^ 32)
  let pages := s.pages.filter (fun e => !drop e)
  let descs := if kind = 0 then s.descs else s.descs.filter (fun e => !(e.1 / 2 ^ 20 % 64 == ctx && (kind == 2 || e.1 % 2 ^ 20 == segOf p)))
  { s with
    pages := pages
    descs := descs
    dies := s.dies.mapKV (fun _ d => { d with denial := d.denial.filter (fun x => !s.dropsDenial g.core ctx kind p x) }) }

end State

/-- TLBINV (R378). -/
def xTlbinv (f : Fields) (s : State) : State :=
  s.runState f
    (fun tid =>
      if 63 < (f.opB false (s.group (gidOf tid)) (s.thread tid)).toNat % 2 ^ 32 then some ⟨codeReserved, 0, f.w0⟩ else none)
    (fun ok s1 => (byLane ok).foldl (fun s t => s.tlbinvOne f t) s1)

/-! The meaning of each row of the table of operations. -/

/-- SVC (R371). -/
def execSvc (f : EForm) (s : State) : Host.Outcome State Fault Refusal := .next (xSvc (wideFields 0x38 0 f) s)

/-- SVC_WAKE (R365). -/
def execSvcWake (s : State) : Host.Outcome State Fault Refusal := .next (evSvcWake s)

/-- THSET (R373). -/
def execThset (f : EForm) (s : State) : Host.Outcome State Fault Refusal := .next (xThset (wideFields 0x38 1 f) s)

/-- RTT (R374). -/
def execRtt (f : EForm) (s : State) : Host.Outcome State Fault Refusal := .next (xRtt (wideFields 0x38 2 f) s)

/-- PARK (R375). -/
def execPark (f : EForm) (s : State) : Host.Outcome State Fault Refusal := .next (xPark (wideFields 0x38 3 f) s)

/-- PRIO (R376). -/
def execPrio (f : EForm) (s : State) : Host.Outcome State Fault Refusal := .next (xPrio (wideFields 0x38 4 f) s)

/-- PSRD (R377). -/
def execPsrd (f : EForm) (s : State) : Host.Outcome State Fault Refusal := .next (xPsrd (wideFields 0x39 0 f) s)

/-- PSWR (R377). -/
def execPswr (f : EForm) (s : State) : Host.Outcome State Fault Refusal := .next (xPswr (wideFields 0x39 1 f) s)

/-- FLKCTL_WRITE (R386). -/
def execFlkctlWrite (f : EForm) (s : State) : Host.Outcome State Fault Refusal := .next (xFlkctl (wideFields 0x39 1 f) s)

/-- TLBINV (R378). -/
def execTlbinv (f : EForm) (s : State) : Host.Outcome State Fault Refusal := .next (xTlbinv (wideFields 0x39 2 f) s)

end Sys2Proof.Machine
end

