-- ==== Sys2Proof/Machine/Remote.lean ====
section
/-! DEFINITION. Remote accesses once they have left (20 R351, R359; 23 R394 to R399, R411 to R414): the reply of a load, a store or an
atomic of a HOST or PANEL segment, its time limit, the flits of the panel received, and the requests of other modules performed. -/

namespace Sys2Proof.Machine

/-- The fault codes a target module answers with (R398), and the two of an error met at its home (R380). -/
def targetCodes : List Byte :=
  [codeSegInvalid, codeSegRights, codeSegBounds, codeMisaligned, codeLease, codeSealed, codeRange, codeUncorrectable]

/-- FAUX of a fault raised at a target: the code's layout, [5] for an absent page, [25] = 1 and the module in [31:26] (R234, R398). -/
def targetAux (a : Access) (module : Nat) (absent : Bool) : Word :=
  accessAux a.kind a.size ||| (if absent then 0x20 else 0) ||| 0x2000000 ||| BitVec.ofNat 32 (module * 2 ^ 26)

/-- The fault a reply carries: its code and FAUX; none where the reply brings the access's result (R351, R398, R411, R412, R414). -/
def replyFault (a : Access) (r : RemoteReply) : Option (Byte × Word) :=
  let plain := accessAux a.kind a.size
  match a.far, r with
  | _, .data _ => none
  | _, .poisoned => some (codePoison, plain)
  | _, .timeout => some (codeFabric, plain)
  | .panel m _ _, .refused c absent => some (c, targetAux a m absent)
  | .host _, .unsupported => if a.kind = .atomic then some (codeAtomUr, plain) else some (codeFabric, plain ||| 0x20)
  | .host _, .aborted => if a.kind = .atomic then some (codeAtomCa, plain) else some (codeFabric, plain ||| 0x80)
  | _, _ => none

/-- Can a reply answer an access at all? Codes and statuses belong to the side they come from (R398, R411), a refusal to an access that
was not performed (R412). DEDUCED: log entry 88. -/
def replyFits (a : Access) (r : RemoteReply) : Bool :=
  match a.far, r with
  | _, .timeout => true
  | .panel _ _ _, .data bs => a.sent && (decide (a.kind = .write) || decide (a.len ≤ bs.length))
  | .host _, .data _ => a.sent
  | _, .poisoned => a.sent && decide (a.kind ≠ .write) && a.size != 5
  | .panel _ _ _, .refused c _ => a.sent && targetCodes.contains c
  | .host _, .unsupported => a.sent && a.done.isNone
  | .host _, .aborted => a.sent && a.done.isNone
  | _, _ => false

namespace State

/-- A late reply's bytes at their destination, and in the checkpoint of a speculating group (R131, R177). -/
def fillBoth (s : State) (tid : Nat) (d : Dest) (bs : List Byte) : State :=
  match d with
  | .vec r size sx => s.modBoth tid (fun t => t.setRegs (loadRegs r size sx bs))
  | .scal r size sx => s.modGroup (gidOf tid) (fun g =>
      let g := g.setSregs (loadRegs r size sx bs)
      { g with spec := g.spec.map (fun sp => { sp with
        savedScalars := (({ g with sregs := sp.savedScalars } : Group).setSregs (loadRegs r size sx bs)).sregs }) })
  | d => s.fill tid d bs

/-- Stores that cannot be delivered: each thread takes one FABRIC_TIMEOUT for its earliest, of an HST every thread of the group, with the
reason in [7:5] and [8] = 1 (R225, R411). -/
def undeliverable (s : State) (ps : List Posted) (reason : Nat) : State :=
  ((ps.flatMap (fun p => s.sharers p.tid p.dest)).eraseDups).foldl (fun s t =>
    match ps.find? (fun p => (s.sharers p.tid p.dest).contains t) with
    | some p => s.modBoth t (fun x => oweHostStore x
        ⟨codeFabric, p.pc, p.addr, accessAux .write p.size ||| 0x100 ||| BitVec.ofNat 32 (reason * 32), .nothing, true, false⟩)
    | none => s) s

/-- Posted writes that no flush has confirmed are lost to the module (R411): whether the host performed one is unknown (log entry 16). -/
def losePosted (s : State) (ps : List Posted) (reason : Nat) : State :=
  let s1 := ((List.range ps.length).zip ps).foldl (fun s e =>
    if !e.2.done && Config.hostDid s.turn e.1 then s.performPosted e.2 else s) s
  { s1 with posted := s.posted.filter (fun p => !ps.contains p) }.undeliverable ps reason

/-- The zero-length read of a sys release has come back (R411): the group's posted writes are confirmed, or undeliverable. -/
def flushDone (s : State) (k : Nat) (a : Access) (r : RemoteReply) : State :=
  let mine := s.posted.filter (fun p => decide (p.order ≤ k) && p.gid == gidOf a.tid)
  match r with
  | .unsupported => s.losePosted mine 1
  | .aborted => s.losePosted mine 4
  | .timeout => s.losePosted mine 0
  | _ => { s.performBefore k with posted := (s.performBefore k).posted.filter (fun p => !(decide (p.order ≤ k) && p.gid == gidOf a.tid)) }

/-- The flags an fadd at another module raises (R271, R399). -/
def remoteFlags (a : Access) (old : List Byte) : Flags :=
  if a.kind = .atomic then
    (atomNew a.op a.signed (8 * 2 ^ a.size) (BitVec.ofNat 64 (leNat old)) a.compare a.operand).2
  else 0

/-- An access's result arrives (R131, R271, R399, R411). -/
def resultArrives (s : State) (a : Access) (bytes : List Byte) : State :=
  if a.kind = .write then s
  else (s.fillBoth a.tid a.dest bytes).modBoth a.tid (fun t => t.orFlags (remoteFlags a bytes))

/-- A page enters the denial cache (R413). -/
def enterDenial (s : State) (a : Access) : State :=
  match a.far with
  | .host h => s.touchDenial (dieOfCore (s.group (gidOf a.tid)).core) a.ctx (h / 65536) a.addr
  | .panel _ _ _ => s

/-- A thread that acquires no longer waits for its access; a PREEMPT that its wait held back is delivered (R271, R353). -/
def endAcquire (s : State) (a : Access) (acquired : Bool) : State :=
  match a.acquire with
  | none => s
  | some sc =>
    let gid := gidOf a.tid
    let s := if acquired then s.acquire gid sc else s
    let s := s.modThread a.tid (fun t => match t.wait with | .acquire _ => { t with wait := .none } | _ => t)
    if (s.group gid).preempt then s.preemptGroup gid else s

/-- The threads that a split left behind for a reply are ready again at the next tick (R400): the thread of the access, its group's where the
destination is the group's. -/
def splitReady (s : State) (a : Access) : State :=
  let hit (tid : Nat) : Bool := tid == a.tid || (gidOf tid == gidOf a.tid && (match a.dest with | .vec _ _ _ => false | _ => true))
  (s.threadsOf (gidOf a.tid)).foldl (fun s t =>
    if hit t then s.modBoth t (fun x => match x.wait with | .reply => { x with wait := .none } | _ => x) else s) s

/-- The reply of a read for a command (R398): its bytes are kept for the turn that waits for them, none of a line in error (R380); one that is
refused or not answered ends the command, or leaves its record unwritten (R410). DESIGN CHOICE: log entry 127. -/
def readReply (s : State) (k : Nat) (a : Access) (r : RemoteReply) (fault : Option (Byte × Word)) : State :=
  let keep (bs : List Byte) : State := { s with accesses := s.accesses.put k { a with done := some bs } }
  match s.command a.cmd with
  | none => s
  | some c =>
    match r, fault with
    | .data bs, _ => keep (bs.take a.len)
    | .poisoned, _ => keep []
    | _, some (x, _) =>
      (match c.state with
        | .running => s.finishCommand a.cmd (noAccess x)
        | .moved st _ => s.closeCommand a.cmd c st false
        | _ => s)
    | _, none => s

/-- The acknowledgement of a write of a command (R310): one that another module refuses, or that is not answered, fails the command as its own
checks do, or leaves its record unwritten (R410). DESIGN CHOICE: log entry 127. -/
def engineReply (s : State) (k : Nat) (fault : Option (Byte × Word)) : State :=
  match fault with
  | none => s
  | some (x, _) => s.modCommand k (fun c => match c.state with
    | .running => { c with run := { c.run with met := c.run.met.orElse (fun _ => some x) } }
    | .moved 1 _ => { c with state := .moved 5 x }
    | .recording st d _ => { c with state := .recording st d false }
    | _ => c)

/-- THE REPLY OF A REMOTE ACCESS (R351, R359, R398, R411 to R413): the result, or a deferred fault, which every non-exited thread of the
group takes for a ray (R225). The host has performed what it answers. A reply of an old reset count and one for a thread that has
stopped are discarded. -/
def replyTo (s : State) (k : Nat) (r : RemoteReply) : State :=
  match s.accesses.get? k with
  | none => s
  | some a0 =>
    if !replyFits a0 r then s
    else
      let s := match r with | .data _ => if a0.host.isSome && a0.done.isNone && a0.size != 5 then s.hostDo k else s | _ => s
      let a := (s.accesses.get? k).getD a0
      let s := { s with accesses := s.accesses.erase k }.splitReady a
      if a.cmd ≠ 0 ∧ a.kind = .read then s.readReply k a r (replyFault a r)
      else if a.cmd ≠ 0 then s.engineReply a.cmd (replyFault a r)
      else if a.size = 5 then s.flushDone k a r
      else if (s.context a.ctx).resets ≠ a.resets ∨ (s.thread a.tid).life ≠ .running then s
      else
        match replyFault a r with
        | none => (s.resultArrives a (match a.done, r with | some bs, _ => bs | none, .data bs => bs.take a.len | _, _ => [])).endAcquire a true
        | some (c, aux) =>
          if c = codeUncorrectable then s.take ⟨a.tid, c, a.addr, accessAux a.kind a.size⟩ a.pc a.pc (BitVec.ofNat 32 (2 ^ (laneOf a.tid % 32)))
          else
            let s := if c = codeAtomUr then s.enterDenial a else s
            ((s.sharers a.tid a.dest).foldl (fun s t => s.modBoth t (fun t => { t with deferred := t.deferred ++
              [⟨c, a.pc, a.addr, aux, a.dest, decide (a.kind = .write), a.acquire.isSome && decide (a.kind = .atomic)⟩] })) s).endAcquire a false

/-- Is an access a read, or an atomic, of host memory? -/
def isHost (s : State) (k : Nat) (kind : Kind) : Bool :=
  match s.accesses.get? k with
  | some a => decide (a.kind = kind) && (match a.far with | .host _ => true | .panel _ _ _ => false)
  | none => false

end State

/-- LOAD_REPLY (R351): the reply of an outstanding load or ATOM of host memory; another module's comes in a flit (R394 to R396). -/
def evLoadReply (s : State) : State :=
  match s.subject with
  | .access k r =>
    match s.accesses.get? k with
    | some a => if a.kind = .write ∨ a.host = none then s else s.replyTo k r
    | none => s
  | _ => s

/-- HOST_READ_COMPLETION (R411). -/
def evHostReadCompletion (s : State) : State :=
  match s.subject with
  | .access k r => if s.isHost k .read && s.hostUp then s.replyTo k r else s
  | _ => s

/-- HOST_ATOMIC_COMPLETION (R412). -/
def evHostAtomicCompletion (s : State) : State :=
  match s.subject with
  | .access k r => if s.isHost k .atomic && s.hostUp then s.replyTo k r else s
  | _ => s

/-- REMOTE_TIMEOUT (R351): 20 microseconds after its issue an access is answered no more. -/
def evRemoteTimeout (s : State) : State :=
  match s.subject with
  | .access k _ =>
    match s.accesses.get? k with
    | some a => if a.issuedAt + Config.remoteLimit ≤ s.cycle then s.replyTo k .timeout else s
    | none => s
  | _ => s

namespace State

/-- The check of a request at its target (R398, R399), page by page: the home address of each byte, or the code and whether a page was
absent. A store with no bytes is checked as a one-byte write, a ray's access as one of its length that is 4-byte aligned (R225).
DEDUCED: log entry 76. -/
def targetCheck (s : State) (q : PanelRequest) : Except (Byte × Bool) (List Nat) :=
  let d := s.descHome q.ctx q.seg
  let bare := decide (q.kind = .write) && q.mask == 0
  let n := if bare then 1 else q.len
  if !d.valid then .error (codeSegInvalid, false)
  else if d.type != 0 || !d.allows q.kind then .error (codeSegRights, false)
  else if d.len < q.off + n then .error (codeSegBounds, false)
  else if q.off % (if bare then 1 else 2 ^ q.size.toNat) ≠ 0 then .error (codeMisaligned, false)
  else
    let ps := (pagePieces q.off n).map (fun p => (s.walk q.ctx (d.base + p.1)).map (fun e =>
      (List.range p.2).map (fun j => pageFrame e + (d.base + p.1) % 65536 + j)))
    if ps.any Option.isNone then .error (codeLease, true)
    else if decide (q.kind ≠ .read) && (d.sl || s.sealed q.ctx q.seg q.off n) then .error (codeSealed, false)
    else if s.locked q.ctx q.seg q.off n q.kind then .error (codeRange, false)
    else .ok (ps.flatMap (fun p => p.getD []))

/-- Each of some lines read once at its home: what is met first counts (R380). -/
def meetLines (s : State) (ls : List Nat) : State × Met :=
  ls.foldl (fun r l => let q := r.1.meetLine l; (q.1, firstMet r.2 q.2)) (s, .sound)

/-- A request performed at its home here, as a party of no phase domain (R399). DEDUCED: log entry 77. -/
def serve (s : State) (q : PanelRequest) : State × RemoteReply :=
  match s.targetCheck q with
  | .error (c, absent) => (s, .refused c absent)
  | .ok as =>
    if q.kind = .write then
      (s.putCells ((maskedCells 0 q.mask (q.data.take q.len)).map (fun c => (as.getD c.1 0, c.2))), .data [])
    else
      let m := s.meetLines ((as.map (· / 64)).eraseDups)
      match m.2 with
      | .uncorrectable => (m.1, .refused codeUncorrectable false)
      | .poisoned => (m.1, .poisoned)
      | .sound =>
        let old := as.map m.1.homeByte
        if q.kind = .atomic then
          let o : DWord := BitVec.ofNat 64 (leNat old)
          let bs := leBytes q.len (atomNew q.op q.signed (8 * q.len) o q.compare q.operand).1.toNat
          (if atomFails q.op (8 * q.len) o q.compare then m.1 else m.1.putCells (as.zip bs), .data old)
        else (m.1, .data old)

/-- Does a request have a shape the flit can carry (R78, R225, R270, R398), an engine's of up to 64 bytes among them (log entry 127)? -/
def requestOk (q : PanelRequest) : Bool :=
  decide (q.kind ≠ .fetch) && decide (q.size.toNat ≤ 4) &&
    (q.len == 2 ^ q.size.toNat || (decide (q.kind ≠ .atomic) && q.size == 0 && decide (1 ≤ q.len) && decide (q.len ≤ 64)) ||
      (decide (q.kind ≠ .atomic) && q.size == 2 && [68, 132, 260].contains q.len)) &&
    (decide (q.kind ≠ .atomic) || q.size.toNat == 2 || q.size.toNat == 3)

/-- The number of the remote access a response's TAG names (R394): the outstanding one of this context and epoch. -/
def tagged (s : State) (h : FlitHead) : Option Nat :=
  (s.accesses.find? (fun e => e.1 % 65536 == h.tag.toNat && e.2.ctx == h.ctx.toNat && e.2.resets % 65536 == h.epoch.toNat &&
    (match e.2.far with | .panel m _ _ => m == h.src.toNat | .host _ => false))).map (·.1)

end State

/-- JOETH_REQUEST (R398, R399): an accepted request is checked and performed at home, and its response leaves. -/
def evJoethRequest (s : State) : State :=
  match s.subject with
  | .request p h payload q =>
    let r := s.receive p h payload
    if r.2 && h.type == 1 && State.requestOk q && q.ctx == h.ctx.toNat then
      let w := r.1.serve q
      let s := { w.1 with outbox := w.1.outbox ++ [Message.panelResponse p h.tag.toNat w.2] }
      s.sendOn p { s.flitHead 2 h.src.toNat h.ctx.toNat h.tag.toNat h.epoch.toNat with tag := h.tag }
    else r.1
  | _ => s

/-- JOETH_RESPONSE (R398): an accepted response completes the access its tag names; one of an old epoch is discarded (R359). -/
def evJoethResponse (s : State) : State :=
  match s.subject with
  | .response p h payload reply =>
    let r := s.receive p h payload
    if r.2 && h.type == 2 then
      match r.1.tagged h with
      | some k => r.1.replyTo k reply
      | none => r.1
    else r.1
  | _ => s

/-- JOETH_IDLE (R395): an idle flit received, or one sent that carries SEQ, ACK and a slot return alone. -/
def evJoethIdle (s : State) : State :=
  match s.subject with
  | .flit p h payload => if h.type = 0 then (s.receive p h payload).1 else s
  | .port p => if s.portUp p then s.transmit p { s.flitHead 0 0 0 0 0 with len := 0, vc := 0 } else s
  | _ => s

/-- LINK_TRAINING (R395): 64 slots each for request and response, 16 for collective, 8 for management. -/
def evLinkTraining (s : State) : State :=
  match s.subject with
  | .port p => if p < 32 ∧ (s.port p).up then (s.trainPort p).pump p else s
  | _ => s

/-- The next replay of a port's flits, or, where eight in a row have failed, the end of the port (R397). -/
def State.replayOrDrop (s : State) (p : Nat) : State :=
  if 8 ≤ (s.port p).replays then (s.dropPort p).patchPorts else s.replay p

/-- LINK_REPLAY (R396, R397): from ACK + 1, when ACK has stood still for 2 microseconds or the receiver signals a discard; a port that has
failed eight replays in a row is marked down. -/
def evLinkReplay (s : State) : State :=
  match s.subject with
  | .port p =>
    let v := s.port p
    if s.portUp p ∧ v.kept ≠ [] ∧ v.ackAt + Config.replayLimit ≤ s.cycle then s.replayOrDrop p else s
  | .flit p h payload =>
    let r := s.receive p h payload
    if r.2 && (r.1.port p).kept != [] then r.1.replayOrDrop p else r.1
  | _ => s

/-- PORT_LANE_LOSS (R397): the port is down in the mask, its traffic on another. -/
def evPortLaneLoss (s : State) : State :=
  match s.subject with
  | .port p => if p < 32 ∧ (s.port p).up then (s.dropPort p).patchPorts else s
  | _ => s

/-- HOST_LINK_DOWN (R411): the posted writes no flush has confirmed are undeliverable; no read that is out is answered any more. -/
def evHostLinkDown (s : State) : State :=
  if !s.hostUp then s
  else
    { s.losePosted s.posted 0 with
      hostUp := false
      accesses := s.accesses.mapKV (fun _ a => if a.host.isSome then { a with sent := false } else a) }

/-- HOST_LINK_UP (R411). -/
def evHostLinkUp (s : State) : State := if s.power = .on then { s with hostUp := true } else s

/-! The meaning of each row of the table of operations. -/

/-- LOAD_REPLY (R351). -/
def execLoadReply (s : State) : Host.Outcome State Fault Refusal := .next (evLoadReply s)

/-- REMOTE_TIMEOUT (R351). -/
def execRemoteTimeout (s : State) : Host.Outcome State Fault Refusal := .next (evRemoteTimeout s)

/-- LINK_TRAINING (R395). -/
def execLinkTraining (s : State) : Host.Outcome State Fault Refusal := .next (evLinkTraining s)

/-- JOETH_REQUEST (R399). -/
def execJoethRequest (s : State) : Host.Outcome State Fault Refusal := .next (evJoethRequest s)

/-- JOETH_RESPONSE (R398). -/
def execJoethResponse (s : State) : Host.Outcome State Fault Refusal := .next (evJoethResponse s)

/-- JOETH_IDLE (R395). -/
def execJoethIdle (s : State) : Host.Outcome State Fault Refusal := .next (evJoethIdle s)

/-- LINK_REPLAY (R396). -/
def execLinkReplay (s : State) : Host.Outcome State Fault Refusal := .next (evLinkReplay s)

/-- HOST_READ_COMPLETION (R411). -/
def execHostReadCompletion (s : State) : Host.Outcome State Fault Refusal := .next (evHostReadCompletion s)

/-- HOST_ATOMIC_COMPLETION (R412). -/
def execHostAtomicCompletion (s : State) : Host.Outcome State Fault Refusal := .next (evHostAtomicCompletion s)

/-- HOST_LINK_DOWN (R411). -/
def execHostLinkDown (s : State) : Host.Outcome State Fault Refusal := .next (evHostLinkDown s)

/-- HOST_LINK_UP (R411). -/
def execHostLinkUp (s : State) : Host.Outcome State Fault Refusal := .next (evHostLinkUp s)

/-- PORT_LANE_LOSS (R397). -/
def execPortLaneLoss (s : State) : Host.Outcome State Fault Refusal := .next (evPortLaneLoss s)

end Sys2Proof.Machine
end

