-- ==== Sys2Proof/Machine/Place.lean ====
section
/-! DEFINITION. Where teams are: placement (08 R141, R142, R146, R155, 18 R327, R334), and pre-emption's parking and return (20 R353 to
R361) with the save area. -/

namespace Sys2Proof.Machine

/-- The six resources of a core (R155): slots, backing-file bytes, scratchpad, tiles, accumulator tiles, ray-file bytes. -/
structure Need where
  slots : Nat
  regs : Nat
  spad : Nat
  tiles : Nat
  accs : Nat
  rays : Nat
  deriving DecidableEq, Repr

def Need.zero : Need := ⟨0, 0, 0, 0, 0, 0⟩
def Need.plus (a b : Need) : Need :=
  ⟨a.slots + b.slots, a.regs + b.regs, a.spad + b.spad, a.tiles + b.tiles, a.accs + b.accs, a.rays + b.rays⟩
/-- The capacities of one core (R155). -/
def Need.caps : Need := ⟨Config.slotCap, Config.regByteCap, Config.spadCap, Config.tileCap, Config.accCap, Config.rayByteCap⟩
def Need.within (a : Need) : Bool :=
  decide (a.slots ≤ Need.caps.slots) && decide (a.regs ≤ Need.caps.regs) && decide (a.spad ≤ Need.caps.spad)
    && decide (a.tiles ≤ Need.caps.tiles) && decide (a.accs ≤ Need.caps.accs) && decide (a.rays ≤ Need.caps.rays)
/-- Units of 1/256 of a capacity, rounded up. -/
def share (x cap : Nat) : Nat := (256 * x + cap - 1) / cap
def Need.score (a : Need) : Nat :=
  [share a.slots Need.caps.slots, share a.regs Need.caps.regs, share a.spad Need.caps.spad, share a.tiles Need.caps.tiles,
    share a.accs Need.caps.accs, share a.rays Need.caps.rays].foldl max 0

/-- The groups of a team of a launch (R140), and those on the core at a place of its core list (R141). -/
def Launch.groups (l : Launch) : Nat := (l.tsize + l.width - 1) / l.width
def groupsAt (l : Launch) (cores : List Nat) (i : Nat) : Nat :=
  if cores.length = 1 then l.groups else if i = 0 then (l.groups + 1) / 2 else l.groups / 2
/-- SHADOW counts a group's resources twice (R383). -/
def copiesOf (l : Launch) : Nat := if l.shadow then 2 else 1
/-- What a team needs on the core at a place of its core list: scratchpad on the even core only (R155). -/
def needAt (l : Launch) (cores : List Nat) (i : Nat) : Need :=
  let g := groupsAt l cores i * copiesOf l
  ⟨g, regBytes l.regs l.width * g, if i = 0 then l.spad else 0, l.tiles * g, l.accs * g, 4 * l.width * l.rays * g⟩

namespace State

/-- What a team holds on a core. -/
def heldBy (s : State) (k core : Nat) : Need :=
  let t := s.team k
  match t.cores.findIdx? (· == core) with
  | some i => needAt (s.launch t.launch) t.cores i
  | none => Need.zero

/-- What the resident teams hold of a core. -/
def usedOn (s : State) (core : Nat) : Need :=
  (s.teams.filter (fun e => decide (e.2.place = .resident))).foldl (fun n e => n.plus (s.heldBy e.1 core)) Need.zero

/-- Slots taken in a partition (R146). -/
def slotsIn (s : State) (core part : Nat) : Nat :=
  (s.groups.filter (fun e => e.2.core == core && e.2.part == part && decide ((s.teamAt e.1).place = .resident))).foldl
    (fun n e => n + copiesOf (s.launchOf e.1)) 0

end State

/-- Groups take slots in ascending GIDX order, each in the partition with the most free slots, the lowest on a tie (R146); none if a
group finds too few. `n` groups, `k` slots each. -/
def takeSlots (k : Nat) : Nat → List Nat → Option (List Nat)
  | 0, _ => some []
  | n + 1, used =>
    let p := (List.range 4).foldl (fun b q => if used.getD q 0 < used.getD b 0 then q else b) 0
    if 48 < used.getD p 0 + k then none
    else (takeSlots k n (used.set p (used.getD p 0 + k))).map (p :: ·)

namespace State

/-- The partitions that the groups of a team would take on the core at a place of a core list. -/
def partsAt (s : State) (l : Launch) (cores : List Nat) (i : Nat) : Option (List Nat) :=
  let core := cores.getD i 0
  takeSlots (copiesOf l) (groupsAt l cores i) ((List.range 4).map (s.slotsIn core))

/-- When a parked team is due to return (R357), and whether a core is reserved for one. -/
def due (s : State) (k : Nat) : Bool :=
  decide ((s.team k).place = .parked) && !s.teamOver k && decide ((s.team k).parkedAt + Config.parkLimit ≤ s.cycle)
def reservedCore (s : State) (core : Nat) : Bool := s.teams.any (fun e => s.due e.1 && e.2.cores.contains core)

/-- Does a team of a launch fit its cores (R155)? -/
def fits (s : State) (l : Launch) (cores : List Nat) : Bool :=
  (List.range cores.length).all (fun i =>
    let c := cores.getD i 0
    ((s.usedOn c).plus (needAt l cores i)).within && (s.partsAt l cores i).isSome && !s.reservedCore c)

/-- A place for a unit of teams: each team's cores, and every core whose load counts in the score. -/
structure Spot where
  teams : List (Nat × List Nat)
  cores : List Nat
  deriving DecidableEq, Repr

/-- The spots of a die for a unit: its cores, its pairs or its quads, ascending (R141, R142, R155); for a pinned team its service core (R2,
R362). -/
def spots (s : State) (die : Nat) (unit_ : List Nat) : List Spot :=
  let k := unit_.getD 0 0
  let la := s.launch (s.team k).launch
  if la.pin.isSome then (if unit_.length ≤ 1 then [⟨[(k, [384 + die])], [384 + die]⟩] else [])
  else if 1 < unit_.length then
    (List.range 24).map (fun q =>
      let c := 96 * die + 4 * q
      ⟨(List.range unit_.length).map (fun m => (unit_.getD m 0, [c + m])), [c, c + 1, c + 2, c + 3]⟩)
  else if 192 < la.groups then
    (List.range 48).map (fun p => let c := 96 * die + 2 * p; ⟨[(k, [c, c + 1])], [c, c + 1]⟩)
  else (List.range 96).map (fun c => ⟨[(k, [96 * die + c])], [96 * die + c]⟩)

def spotFits (s : State) (p : Spot) : Bool := p.teams.all (fun e => s.fits (s.launch (s.team e.1).launch) e.2)

/-- The score of a spot: the greatest of its cores' (R155). -/
def spotScore (s : State) (p : Spot) : Nat :=
  (p.cores.map (fun c =>
    let mine := p.teams.foldl (fun n e =>
      match e.2.findIdx? (· == c) with
      | some i => n.plus (needAt (s.launch (s.team e.1).launch) e.2 i)
      | none => n) Need.zero
    ((s.usedOn c).plus mine).score)).foldl max 0

/-- The fitting spot of least score, the lowest cores on a tie (R155). -/
def bestSpot (s : State) (die : Nat) (unit_ : List Nat) : Option Spot :=
  ((s.spots die unit_).filter s.spotFits).foldl (fun b p =>
    match b with
    | none => some p
    | some q => if s.spotScore p < s.spotScore q then some p else b) none

/-- The unit at the head of a die's pending order: a team, or a whole gang. -/
def headUnit (s : State) (die : Nat) : List Nat :=
  match (s.die die).pending with
  | [] => []
  | k :: _ => let g := (s.team k).gang; if g.length ≤ 1 then [k] else g

/-- Are the pages under a launch's lease records present (R240)? -/
def leasesPresent (s : State) (l : Launch) : Bool :=
  l.leases.all (fun e =>
    let d := s.descHome l.ctx e.seg
    (pagePieces e.off e.len).all (fun q => (s.walk l.ctx (d.base + q.1)).isSome))

/-! The save area (R360, R361). -/

/-- The length of a group's register image, and where its parts begin, from SAVEP. -/
def imageAt (w : Nat) : Nat := 0x400 + 1024 * w
/-- DEDUCED: log entry 72. -/
def tilesAt (l : Launch) : Nat := (imageAt l.width + 4 * l.regs * l.width + 4095) / 4096 * 4096
def accsAt (l : Launch) : Nat := tilesAt l + 4096 * l.tiles + 128
def normsAt (l : Launch) : Nat := accsAt l + 16384 * l.accs
def teamAt' (l : Launch) : Nat := normsAt l + 128 + 4096

/-- A byte that the layout of a save area gives no content (log entry 15). DESIGN CHOICE: log entry 15. -/
def openBytes (s : State) (gid at_ n : Nat) : List Byte := (List.range n).map (fun j => Config.savedByte gid (at_ + j) s.turn)

/-- The wait kinds of R361. -/
def waitKind : Wait → Nat
  | .meeting => 1
  | .barrier _ _ _ _ => 2
  | .nap _ => 3
  | .bkoff _ => 4
  | .svc => 5
  | .gen => 6
  | _ => 0

/-- The wait word and the remaining sleep cycles of a wait (R361). -/
def waitBytes (s : State) (w : Wait) : List Byte :=
  let bar := match w with | .barrier b _ _ _ => b | _ => 0
  let left := match w with | .nap u => u - s.cycle | .bkoff u => u - s.cycle | _ => 0
  leBytes 4 (waitKind w + 16 * bar) ++ leBytes 4 left

/-- One trap slot of a record, 32 bytes (R361); its last 12 are left open. -/
def slotBytes (s : State) (gid at_ : Nat) (k : Option TrapSlot) : List Byte :=
  match k with
  | some k => leBytes 8 k.resume.toNat ++ leBytes 4 (k.depth.toNat + k.crossings * 2 ^ 16 + waitKind k.wait * 2 ^ 21) ++ leBytes 4 k.rpc.toNat
      ++ leBytes 4 k.order ++ s.openBytes gid (at_ + 20) 12
  | none => List.replicate 20 0 ++ s.openBytes gid (at_ + 20) 12

/-- Where a parked thread goes on: the resume label of PARK, or the interrupted instruction of the default handler (R354, R358). -/
def parkLabel (t : Thread) : Ptr := match t.wait with | .park r => r | _ => t.pc

/-- Nine meeting values, current first, 16 bytes each; zeros where none is held (R361). -/
def meetBytes (ms : List Meeting) : List Byte :=
  (List.range 9).flatMap (fun j => match ms[j]? with
    | some m => leBytes 8 m.at_.toNat ++ leBytes 8 m.depth.toNat
    | none => List.replicate 16 0)
def heldMeets (m : Option Meeting) (ms : List Meeting) : List Meeting := (match m with | some x => [x] | none => []) ++ ms

/-- The generator area of a record (R361): the saved producer PC, depth and predicates, its meeting values, and the entry state's.
DESIGN CHOICE: log entry 15. -/
def genLane (g : Group) (lane : Nat) : List Byte :=
  let v := g.gen.bind (fun x => x.saved.get? lane)
  let e := g.gen.bind (fun x => x.entry.get? lane)
  (match v with
    | some v => leBytes 8 v.pc.toNat ++ leBytes 4 (v.depth.toNat + v.preds.toNat * 2 ^ 16) ++ leBytes 4 0 ++ meetBytes (heldMeets v.meet v.meets)
    | none => List.replicate 160 0) ++
  (match e with | some e => meetBytes (heldMeets e.meet e.meets) | none => List.replicate 144 0)

/-- The generator state of a group at 0x040 (R360): descriptor, HEAD, CNT, FRC, the mode (0 outside a region, 1 producer, 2 consumer) and the
PRD mask. DESIGN CHOICE: log entry 15. -/
def genBytes (g : Option Gen) : List Byte :=
  match g with
  | none => List.replicate 40 0
  | some g =>
    ([g.buf.toNat, g.t * 2 ^ 20 + g.e * 2 ^ 16 + g.c, g.f * 2 ^ 16 + g.qb * 2 ^ 8 + g.pb, 0, g.head, g.cnt, g.frc.toNat,
      g.consumer.toNat + 1].flatMap (leBytes 4)) ++ leBytes 8 (g.prd.foldl (fun m l => m + 2 ^ l) 0)

/-- The state of a collective domain at 0x080 + 16d (R360): count, G and M, T, level; G is 0 where none is declared.
DESIGN CHOICE: log entry 15. -/
def domBytes (u : DomainUse) : List Byte :=
  let x := u.decl.getD ⟨0, 0, 0, 0⟩
  [u.count, x.g + x.m * 65536, x.t, x.level].flatMap (leBytes 4)

/-- The record of a home lane (R361). DEDUCED: log entry 69. -/
def recordBytes (s : State) (gid lane : Nat) : List Byte :=
  let at_ := 0x400 + 1024 * lane
  match s.threads.get? (tidAt gid lane) with
  | none => leBytes 8 0 ++ leBytes 4 (2 ^ 28) ++ List.replicate 1012 0
  | some t =>
    let bit (b : Bool) (k : Nat) : Nat := if b then 2 ^ k else 0
    let ms := heldMeets t.meet t.meets
    let gone := decide (t.life = .exited)
    let w : List Word := [t.fpsr, t.fpcr, t.rpc, t.stklim, t.fcode, t.fpc, t.faddrLo, t.faddrHi, t.fmask, t.faux]
    leBytes 8 (parkLabel t).toNat
      ++ leBytes 4 (t.depth.toNat + ms.length * 2 ^ 16 + t.cross.length * 2 ^ 20 + bit t.slotS.isSome 25 + bit t.slotF.isSome 26
          + bit t.slotP.isSome 27 + bit gone 28)
      ++ leBytes 4 t.preds.toNat ++ w.flatMap (fun x => leBytes 4 x.toNat)
      ++ s.waitBytes t.wait
      ++ s.slotBytes gid (at_ + 0x40) t.slotS ++ s.slotBytes gid (at_ + 0x60) t.slotF ++ s.slotBytes gid (at_ + 0x80) t.slotP
      ++ meetBytes ms
      ++ (List.range 16).flatMap (fun j => match t.cross[j]? with
          | some c => leBytes 8 (c.depth.toNat * 2 ^ 48 + c.seg)
          | none => List.replicate 8 0)
      ++ genLane (s.group gid) lane ++ s.openBytes gid (at_ + 0x2E0) 16
      ++ leBytes 4 t.clkLatch.isSome.toNat ++ leBytes 4 (t.clkLatch.getD 0).toNat
      ++ List.replicate 264 0

/-- The small state of a group (R355, R360): the header, the scalars and the thread records. DEDUCED: log entry 70. -/
def smallBytes (s : State) (gid : Nat) (default_ : Bool) : List Byte :=
  let g := s.group gid
  let l := s.launchOf gid
  let t := s.teamAt gid
  leBytes 4 (2 ^ 24 + l.width * 2 ^ 16 + l.regs * 2 ^ 8 + default_.toNat * 8 + (if gidxOf gid = 0 then 4 else 0) + 2 + 1)
    ++ leBytes 4 l.id.toNat ++ leBytes 4 t.index ++ leBytes 4 (gidxOf gid + g.level * 2 ^ 16)
    ++ leBytes 8 (s.handler gid).toNat ++ leBytes 4 g.barto.toNat ++ leBytes 4 g.cbrto.toNat ++ leBytes 4 g.phs.toNat
    ++ leBytes 4 g.mflags.toNat ++ s.openBytes gid 0x28 24 ++ genBytes g.gen ++ s.openBytes gid 0x68 24
    ++ (List.range 16).flatMap (fun d => domBytes (g.domain d))
    ++ (List.range 96).flatMap (fun k => leBytes 4 (g.sreg k).toNat) ++ s.openBytes gid 0x300 256
    ++ (List.range l.width).flatMap (fun i => s.recordBytes gid i)

/-- The vector image of the default handler (R358, R360). -/
def vectorBytes (s : State) (gid : Nat) : List Byte :=
  let l := s.launchOf gid
  (List.range l.regs).flatMap (fun r => (List.range l.width).flatMap (fun i =>
    leBytes 4 ((match s.threads.get? (tidAt gid i) with | some t => t.reg r | none => 0)).toNat))

/-- The lazy regions of a group (R356, R360): tiles, their records, accumulators, norm entries, lane tags. -/
def lazyBytes (s : State) (gid : Nat) : List Byte :=
  let g := s.group gid
  let l := s.launchOf gid
  let tags := match g.gen with | some x => x.tags | none => []
  (List.range (4096 * l.tiles)).map (fun j => g.tiles.getD j 0)
    ++ (List.range 16).flatMap (fun j => leBytes 8 (g.tileRecs.getD j 0).toNat)
    ++ (List.range (4096 * l.accs)).flatMap (fun j => leBytes 4 (g.accs.getD j 0).toNat)
    ++ (List.range 32).flatMap (fun r => leBytes 4 (g.normEntry r).toNat)
    ++ (List.range 4096).map (fun j => BitVec.ofNat 8 (tags.getD j 0))

/-- The team block of a parked team, in the area of its GIDX 0 (R360): barriers 0 to 15, whose timers stand still since the team parked
(R357), then the scratchpad. -/
def teamBytes (s : State) (k : Nat) : List Byte :=
  let t := s.team k
  (List.range 16).flatMap (fun b =>
    let x := s.barrier k b
    [x.phase, x.e, x.arrived.length, if x.arrived = [] then 0 else t.parkedAt - x.start].flatMap (leBytes 4))
    ++ t.spad.bytes 0 (s.launch t.launch).spad

/-- The check of a write of `n` bytes at an offset of a group's save area (R355): code, FAUX and the first failing address.
DEDUCED: log entry 71. -/
def saveCheck (s : State) (gid at_ n : Nat) : Option (Byte × Word × Ptr) :=
  let g := s.group gid
  let p := mkPtr (segOf g.savep) (offOf g.savep + at_)
  let tid := (s.presentOf gid).getD 0 (tidAt gid 0)
  let d := s.descOn g.core (s.ctxOf gid) (segOf p)
  (s.checkRange (s.agentNoLease tid) p n (offOf g.savep % 256 != 0) .write).map (fun e =>
    (e.1, e.2.1, mkPtr (segOf p) (if e.1 = codeSegBounds then max (offOf p) d.len else e.2.2)))

/-- A failed save ends the team whatever THND holds: each non-exited thread of the group records the fault at its resume point
(R355, R356). -/
def saveFails (s : State) (gid : Nat) (e : Byte × Word × Ptr) : State :=
  let ts := s.presentOf gid
  let rs := ts.map (fun t => (⟨t, e.1, e.2.2, e.2.1⟩ : Raised))
  (rs.foldl (fun s r => s.modThread r.tid (fun t => t.record r (parkLabel t) (faultMask rs r.tid))) s).endTeam (teamOf gid) (some e.1) true

/-- Bytes written to a group's save area after their checks, unless the team has ended. -/
def saveTo (s : State) (gid at_ : Nat) (bs : List Byte) : State :=
  if s.teamOver (teamOf gid) then s
  else
    match s.saveCheck gid at_ bs.length with
    | some e => s.saveFails gid e
    | none => s.store (s.ctxOf gid) 0 (mkPtr (segOf (s.group gid).savep) (offOf (s.group gid).savep + at_)) bs []

/-- Has a group been parked by the default handler (R358)? -/
def defaultParked (s : State) (gid : Nat) : Bool := (s.presentOf gid).any (fun t => (s.thread t).defPark)

/-- A group parks: its small state and, under the default handler, its vector image are written (R355, R358). -/
def saveGroup (s : State) (gid : Nat) : State :=
  let df := s.defaultParked gid
  let bs := s.smallBytes gid df
  let img := if df then s.vectorBytes gid else []
  (s.saveTo gid 0 (bs ++ img)).modGroup gid (fun g => { g with parked := true })

/-- A group's lazy regions go to its save area: the header says that none is on chip (R356, R360). -/
def saveLazy (s : State) (gid : Nat) : State :=
  let l := s.launchOf gid
  let bs := s.lazyBytes gid
  let s1 := s.saveTo gid (tilesAt l) bs
  if s1.teamOver (teamOf gid) then s1
  else
    let p := (s1.group gid).savep
    let r := s1.fetch 0 (s1.ctxOf gid) p 4
    let w := leNat r.bytes
    r.st.store (s1.ctxOf gid) 0 p (leBytes 4 (w - w / 2 % 2 * 2)) []

/-- A parked team's storage is claimed: the regions of all its groups are written out, and its barriers and scratchpad, whether or not GIDX 0
has ended (R356). DEDUCED: log entry 68. -/
def claimTeam (s : State) (k : Nat) : State :=
  let s := ((s.groupsOf k).filter (fun g => !s.groupEnded g)).foldl (fun s g => s.saveLazy g) (s.modTeam k (fun t => { t with lazyOut := true }))
  s.saveTo (gidAt k 0) (teamAt' (s.launch (s.team k).launch)) (s.teamBytes k)

/-- What parked teams still hold in place on a core (R356). -/
def keptOn (s : State) (core : Nat) : Need :=
  (s.teams.filter (fun e => decide (e.2.place = .parked) && !e.2.lazyOut)).foldl (fun n e => n.plus (s.heldBy e.1 core)) Need.zero

/-- The parked teams that keep storage on a core, in the order in which they give it up (log entry 19). -/
def victimsOn (s : State) (core : Nat) : List Nat :=
  let vs := (s.teams.filter (fun e => decide (e.2.place = .parked) && !e.2.lazyOut && e.2.cores.contains core)).map (fun e => (Config.victimRank s.turn e.1, e.1))
  (vs.foldl (fun l v =>
    (l.takeWhile (fun x => decide (x.1 ≤ v.1))) ++ v :: l.dropWhile (fun x => decide (x.1 ≤ v.1))) []).map (·.2)

/-- Storage for an incoming need: unallocated first, then claimed from parked teams (R356); the norm file and the lane tags go with the
slots and the ray file. -/
def claimOn (s : State) (core : Nat) (n : Need) : State :=
  (s.victimsOn core).foldl (fun s k =>
    let all := ((s.usedOn core).plus n).plus (s.keptOn core)
    if all.spad ≤ Config.spadCap ∧ all.tiles ≤ Config.tileCap ∧ all.accs ≤ Config.accCap ∧ all.slots ≤ Config.slotCap ∧
        all.rays ≤ Config.rayByteCap then s else s.claimTeam k) s

/-! Starting a team. -/

/-- A group as its team starts (R11, R13, R23, R152, R360). -/
def freshGroup (la : Launch) (core part : Nat) (ps : List Word) (tile : Option Word) (a : RuntimeArea) : Group :=
  let sr : Tab Word := (List.range 16).foldl (fun t k => t.putD k (ps.getD k 0) 0) []
  let sr := match tile with | some x => sr.putD 13 x 0 | none => sr
  { Group.blank with
    core := core, part := part, sregs := sr, level := la.prio, reply := a.reply, savep := a.savep, slice := a.slice
    shadow := none }

/-- The private slices of a group's lanes, in its context's device-virtual space (R19, R235). -/
def sliceSpan (s : State) (ctx width slice : Nat) : Nat × Nat :=
  let d := s.descHome ctx 3
  (d.base + slice, width * d.len)

/-- The home ranges under a span of a context's device-virtual space, as far as its pages are present. -/
def spanHomes (s : State) (ctx : Nat) (sp : Nat × Nat) : List (Nat × Nat) :=
  (pagePieces sp.1 sp.2).filterMap (fun q => (s.walk ctx q.1).map (fun e => (pageFrame e + q.1 % 65536, q.2)))

/-- Home ranges zeroed before a team's first instruction (R136): no value of an earlier team stands there, nor in the team's domain. -/
def zeroHomes (s : State) (dom : Nat) (rs : List (Nat × Nat)) : State :=
  let hit (a : Nat) : Bool := rs.any (fun r => decide (r.1 ≤ a) && decide (a < r.1 + r.2))
  let part (l : Nat) : Bool := rs.any (fun r => overlap r.1 r.2 (64 * l) 64)
  let whole (l : Nat) : Bool := rs.any (fun r => decide (r.1 ≤ 64 * l) && decide (64 * l + 64 ≤ r.1 + r.2))
  { s.modDomain dom (fun p => { overlay := p.overlay.filter (fun c => !hit c.1), lines := p.lines.filter (fun l => !part l.1) }) with
    hbm := s.hbm.filter (fun c => !hit c.1)
    poison := s.poison.filter (fun l => !whole l)
    mirrors := s.mirrors.filter (fun m => !part (m.1 / 4)) }

/-- No two of some slices begin within a length of one another. -/
def apartAll (n : Nat) : List Nat → Bool
  | [] => true
  | a :: r => r.all (fun b => !overlap a n b n) && apartAll n r

/-- May the groups of a launch have these private slices (R19): each a multiple of 64 from the segment's start, apart from one another and
from those of every group of the context that has not ended? DEDUCED: log entry 136. -/
def slicesFit (s : State) (la : Launch) (slices : List Nat) : Bool :=
  let len := (s.descHome la.ctx 3).len
  let others := (s.groups.filter (fun e => s.ctxOf e.1 == la.ctx && !s.groupEnded e.1)).map (fun e => (e.2.slice, s.widthOf e.1 * len))
  slices.all (fun a => a % 64 == 0 && !others.any (fun o => overlap o.1 o.2 a (la.width * len))) && apartAll (la.width * len) slices

/-- A group's shadow holds what the group itself holds, as it starts and as it returns (R383, R385). -/
def renewShadow (s : State) (gid : Nat) : State :=
  s.modGroup gid (fun g => { g with shadow := g.shadow.map (fun sh => { sh with twin := s.twinOf gid }) })
def pairShadow (s : State) (gid : Nat) : State :=
  s.modGroup gid (fun g => { g with shadow := some ⟨[], none, [], [], s.twinOf gid⟩ })

/-- A team starts on its cores (R23, R136, R140, R146, R153, R327): its groups take their slots, its threads hold the state of R23 and find
their slices zero, its domain acquires at dev; in a SHADOW launch every group has its shadow (R383). -/
def startTeam (s : State) (k : Nat) (cores : List Nat) (areas : List RuntimeArea) : State :=
  let t := s.team k
  let la := s.launch t.launch
  let slots := (List.range cores.length).flatMap (fun i =>
    ((s.partsAt la cores i).getD []).map (fun p => (cores.getD i 0, p)))
  let slice := (s.descHome la.ctx 3).len
  let gs := (List.range la.groups).map (fun g =>
    (gidAt k g, freshGroup la (slots.getD g (0, 0)).1 (slots.getD g (0, 0)).2 t.params t.tileId (areas.getD g ⟨0, 0, 0⟩)))
  let ts := (List.range la.tsize).map (fun i => (tidAt (gidAt k (i / la.width)) (i % la.width), Thread.start la.entry slice))
  let s := (List.range cores.length).foldl (fun s i => s.claimOn (cores.getD i 0) (needAt la cores i)) s
  let s := { s with
    groups := gs.foldl (fun (m : Tab Group) (e : Nat × Group) => m.put e.1 e.2) s.groups
    threads := ts.foldl (fun (m : Tab Thread) (e : Nat × Thread) => m.put e.1 e.2) s.threads }
  let s := s.modTeam k (fun t => { t with place := .resident, cores := cores, age := s.cycle, spad := [], bars := [] })
  let s := gs.foldl (fun s e => s.zeroHomes (domOfCore e.2.core) (s.spanHomes la.ctx (s.sliceSpan la.ctx la.width e.2.slice))) s
  let s := if la.shadow then gs.foldl (fun s e => s.pairShadow e.1) s else s
  s.acquireAll (gs.map (·.1)) 3

end State

/-- TEAM_PLACE (R155, R240, R327): the head of a die's pending order, a team or a gang, on the fitting spot of least score; the
runtime's reply and save areas and private slices are those the subject brings, group by group. -/
def evTeamPlace (s : State) : State :=
  match s.subject with
  | .placing die areas =>
    let u := s.headUnit die
    let la := s.launch (s.team (u.headD 0)).launch
    let slices := (List.range (u.length * la.groups)).map (fun g => (areas.getD g ⟨0, 0, 0⟩).slice)
    if u = [] ∨ !u.all (fun k => s.leasesPresent (s.launch (s.team k).launch)) ∨ !s.slicesFit la slices then s
    else
      match s.bestSpot die u with
      | none => s
      | some p =>
        let s := s.modDie die (fun d => { d with pending := d.pending.filter (fun k => !u.contains k) })
        (p.teams.foldl (fun (a : State × List RuntimeArea) e =>
          let n := (a.1.launch (a.1.team e.1).launch).groups
          (a.1.startTeam e.1 e.2 (a.2.take n), a.2.drop n)) (s, areas)).1
  | _ => s

namespace State

/-- Teams in pending order, the highest TEAM number first; of equal ones the later in the order (R334). -/
def byTeamDesc (s : State) (ks : List Nat) : List Nat :=
  ks.foldl (fun l k =>
    let n := (s.team k).index
    (l.takeWhile (fun x => decide (n < (s.team x).index))) ++ k :: l.dropWhile (fun x => decide (n < (s.team x).index))) []

/-- The teams that a rebalance of `n` moves, the highest TEAM first: gangs whole or not at all, in the turn of their highest (R334).
DEDUCED: log entry 75. -/
def movers (s : State) : List Nat → Nat → List Nat
  | [], _ => []
  | k :: r, n =>
    let g := (s.team k).gang
    let u := if g.length ≤ 1 then [k] else g
    if u.getLast? = some k ∧ u.length ≤ n ∧ (s.launch (s.team k).launch).pin.isNone then u ++ movers s r (n - u.length) else movers s r n

/-- A moved unit takes its place in the order of its launch, behind every other team of the die where none of its launch has a higher
number (R155, R334). -/
def insertPending (s : State) (ps : List Nat) (k : Nat) : List Nat :=
  let t := s.team k
  let before (x : Nat) : Bool := !((s.team x).launch == t.launch && decide (t.index < (s.team x).index))
  ps.takeWhile before ++ k :: ps.dropWhile before

end State

/-- REBALANCE (R334). -/
def evRebalance (s : State) : State :=
  let p (d : Nat) : Nat := (s.die d).pending.length
  let a := (List.range 4).foldl (fun b d => if p b < p d then d else b) 0
  let b := (List.range 4).foldl (fun b d => if p d < p b then d else b) 0
  if s.rebal = 0 ∨ p a < p b + s.rebal then s
  else
    let ms := s.movers (s.byTeamDesc (s.die a).pending) ((p a - p b) / 2)
    let s1 := s.modDie a (fun d => { d with pending := d.pending.filter (fun k => !ms.contains k) })
    let s2 := ((s.byTeamDesc ms).reverse).foldl (fun s k =>
      (s.modDie b (fun d => { d with pending := s.insertPending d.pending k })).modTeam k (fun t => { t with die := b })) s1
    s2

/-- PREEMPT_REQUEST (R353). -/
def evPreemptRequest (s : State) : State :=
  match s.subject with
  | .launchOn l core => s.preemptLaunch l core
  | _ => s

namespace State

/-- The teams that a pre-emption of a launch on a core affects: those resident there that are being pre-empted (R353). -/
def affected (s : State) (l core : Nat) : List Nat :=
  (s.teamsOf l).filter (fun k => (s.team k).preempting && decide ((s.team k).place = .resident) && !s.teamOver k && (s.team k).cores.contains core)

/-- Does a thread wait at PARK, or has the default handler parked it? -/
def atPark (t : Thread) : Bool := t.defPark || (match t.wait with | .park _ => true | _ => false)

/-- Is a group parked: every non-exited thread at PARK, its load and tile counters at zero (R354), its shadow with it (R385)? -/
def groupParked (s : State) (gid : Nat) : Bool :=
  (s.presentOf gid).all (fun t => atPark (s.thread t)) && s.loadCount gid == 0 && (s.group gid).mqueue.isEmpty &&
    (match (s.group gid).shadow with | some sh => sh.lag.isEmpty | none => true)

/-- The deferred faults that threads at PARK still owe are delivered (R351, R375): the group, were it saved, is parked no longer. -/
def faultsAtPark (s : State) (gid : Nat) : State :=
  (s.presentOf gid).foldl (fun s t =>
    if atPark (s.thread t) && !(s.thread t).deferred.isEmpty then
      ((s.modThread t (fun x => { x with defPark := false })).modGroup gid (fun g => { g with parked := false })).takeDeferred t 0
    else s) s

/-- A team leaves its cores (R354, R356). -/
def leaveCores (s : State) (k : Nat) : State :=
  if (s.team k).place = .resident ∧ !s.teamOver k then
    let s := (s.groupsOf k).foldl (fun s g => s.modGroup g (fun x => { x with active := false, ready := 0 })) s
    let s := { s with ahead := s.ahead.filter (fun e => teamOf (gidOf e.tid) != k) }
    s.modTeam k (fun t => { t with place := .parked, parkedAt := s.cycle, preempting := false, lazyOut := false })
  else s

end State

/-- PARK_COMPLETE (R354, R355, R358): the small state of each affected group that has parked is written; once all have, the teams leave. Under
the default handler it is written as the group stands when they leave: a wait may have ended since. -/
def evParkComplete (s : State) : State :=
  match s.subject with
  | .launchOn l core =>
    let ks := s.affected l core
    let gs := (ks.flatMap s.groupsOf).filter (fun g => !s.groupEnded g)
    let s := gs.foldl (fun s g => s.faultsAtPark g) s
    let s1 := (gs.filter (fun g => (!(s.group g).parked || s.defaultParked g) && s.groupParked g && !(s.presentOf g).any (fun t =>
      !(s.thread t).deferred.isEmpty))).foldl (fun s g => s.saveGroup g) s
    if gs.all (fun g => (s1.group g).parked || s1.teamOver (teamOf g)) then ks.foldl (fun s k => s.leaveCores k) s1 else s1
  | _ => s

namespace State

/-- Bytes of a group's save area read at their home; of a line in error the value passes (R380). DESIGN CHOICE: log entry 67. -/
def savedBytes (s : State) (gid at_ n : Nat) : State × List Byte :=
  let r := s.fetch 0 (s.ctxOf gid) (mkPtr (segOf (s.group gid).savep) (offOf (s.group gid).savep + at_)) n
  (r.st, r.bytes)
def savedWord (bs : List Byte) (at_ : Nat) : Word := BitVec.ofNat 32 (leNat ((bs.drop at_).take 4))
def savedPtr (bs : List Byte) (at_ : Nat) : Ptr := BitVec.ofNat 64 (leNat ((bs.drop at_).take 8))

/-- A wait as its record gives it: its kind, barrier and remaining cycles; what the record does not hold stands as it was (R361).
DESIGN CHOICE: log entry 67. -/
def readWait (kind : Nat) (bar : Option Nat) (left : Option Nat) (old : Wait) : Wait :=
  if kind = waitKind old then
    match old with
    | .barrier b ph dest all => .barrier (bar.getD b) ph dest all
    | .nap u => .nap (left.getD u)
    | .bkoff u => .bkoff (left.getD u)
    | w => w
  else
    match kind with
    | 1 => .meeting
    | 3 => .nap (left.getD 0)
    | 4 => .bkoff (left.getD 0)
    | 5 => .svc
    | 6 => .gen
    | _ => .none

/-- A slot as its record gives it, if it is active there (R361). -/
def readSlot (bs : List Byte) (at_ bit : Nat) (sl : Option TrapSlot) : Option TrapSlot :=
  let w := savedWord bs (at_ + 8)
  let k : TrapSlot := sl.getD ⟨0, 0, 0, 0, .none, 0, false, false, false, 0, 0, none⟩
  if (savedWord bs 8).getLsbD bit then
    some { k with
      resume := savedPtr bs at_, depth := w.extractLsb' 0 16, crossings := (w.extractLsb' 16 5).toNat, rpc := savedWord bs (at_ + 12),
      wait := readWait ((w.extractLsb' 21 4).toNat) none none k.wait, order := (savedWord bs (at_ + 16)).toNat }
  else none

/-- `n` meeting values of a record, current first. -/
def readMeets (bs : List Byte) (at_ n : Nat) : List Meeting :=
  ((List.range n).map (fun j => (⟨savedPtr bs (at_ + 16 * j), (savedWord bs (at_ + 16 * j + 8)).extractLsb' 0 16⟩ : Meeting)))

/-- The generator state of a group restored from 0x040 and from its lanes' records (R355, R360, R361). -/
def readGen (bs : List Byte) (w : Nat) (old : Option Gen) : Option Gen :=
  let x (k : Nat) : Word := savedWord bs (0x40 + 4 * k)
  let num (k lo n : Nat) : Nat := ((x k).extractLsb' lo n).toNat
  let mode := (x 7).toNat
  if mode = 0 then none
  else
    let g := old.getD ⟨0, 0, 0, 0, 0, 0, 0, 0, 0, false, [], [], [], [], false, 0, [], 0, 0⟩
    let lane (v : Saved) (at_ : Nat) : Saved :=
      let ms := (readMeets bs at_ 9).takeWhile (fun m => m.at_ != 0)
      { v with meet := ms.head?, meets := ms.drop 1 }
    let prd := (savedPtr bs 0x60).toNat
    some { g with
      buf := x 0, t := num 1 20 12, e := num 1 16 4, c := num 1 0 16, f := num 2 16 8, qb := num 2 8 8, pb := num 2 0 8,
      head := (x 4).toNat, cnt := (x 5).toNat, frc := (x 6) != 0, consumer := mode == 2,
      prd := (List.range w).filter (fun l => prd / 2 ^ l % 2 == 1),
      saved := g.saved.mapKV (fun l v =>
        let at_ := 0x400 + 1024 * l + 0x1B0
        { lane v (at_ + 16) with
          pc := savedPtr bs at_, depth := (savedWord bs (at_ + 8)).extractLsb' 0 16, preds := (savedWord bs (at_ + 8)).extractLsb' 16 15 }),
      entry := g.entry.mapKV (fun l v => lane v (0x400 + 1024 * l + 0x1B0 + 160)) }

/-- The state of a collective domain restored from 0x080 + 16d (R355, R360). -/
def readDom (bs : List Byte) (d : Nat) (u : DomainUse) : DomainUse :=
  let x (k : Nat) : Nat := (savedWord bs (0x80 + 16 * d + 4 * k)).toNat
  { u with count := x 0, decl := if x 1 % 65536 = 0 then none else some ⟨x 1 % 65536, x 2, x 1 / 65536, x 3⟩ }

/-- A thread restored from its record (R357, R361): its vector registers are zero but under the default handler, which restores them
from the vector image; it starts at its resume label, or goes on as it was interrupted. -/
def restoreThread (now : Nat) (gidBytes : List Byte) (image : List Byte) (w regs lane : Nat) (t : Thread) : Thread :=
  let bs := (gidBytes.drop (0x400 + 1024 * lane)).take 1024
  let n := ((savedWord bs 8).extractLsb' 16 4).toNat
  let ms := readMeets bs 0xA0 n
  let wt := savedWord bs 0x38
  let cs := (List.range ((savedWord bs 8).extractLsb' 20 5).toNat).map (fun j =>
    (⟨(savedWord bs (0x134 + 8 * j)).extractLsb' 16 16, ((savedWord bs (0x130 + 8 * j)).extractLsb' 0 20).toNat⟩ : Crossing))
  let vs : Tab Word := if t.defPark then
      (List.range regs).foldl (fun m r => m.putD r (savedWord image (4 * (w * r + lane))) 0) []
    else []
  { t with
    regs := vs, pc := savedPtr bs 0, depth := (savedWord bs 8).extractLsb' 0 16, preds := (savedWord bs 12).extractLsb' 0 15,
    meet := ms.head?, meets := ms.drop 1, cross := cs, fpsr := savedWord bs 0x10, fpcr := savedWord bs 0x14, rpc := savedWord bs 0x18,
    stklim := savedWord bs 0x1C, fcode := savedWord bs 0x20, fpc := savedWord bs 0x24, faddrLo := savedWord bs 0x28,
    faddrHi := savedWord bs 0x2C, fmask := savedWord bs 0x30, faux := savedWord bs 0x34,
    clkLatch := if (savedWord bs 0x2F0).getLsbD 0 then some (savedWord bs 0x2F4) else none,
    slotS := readSlot bs 0x40 25 t.slotS, slotF := readSlot bs 0x60 26 t.slotF, slotP := readSlot bs 0x80 27 t.slotP,
    wait := readWait ((wt.extractLsb' 0 4).toNat) (some (wt.extractLsb' 4 4).toNat) (some (now + (savedWord bs 0x3C).toNat))
      (if t.defPark then t.wait else .none),
    pair := none, released := false, defPark := false, idleTicks := 0, issued := false }

/-- A group restored (R357): its small state from the save area, its lazy regions from there if they were written out, its ray
directions zero. DESIGN CHOICE: log entry 67. -/
def restoreGroup (s : State) (gid : Nat) (out : Bool) : State :=
  let l := s.launchOf gid
  let r := s.savedBytes gid 0 (imageAt l.width)
  let bs := r.2
  let v := if s.defaultParked gid then r.1.savedBytes gid (imageAt l.width) (4 * l.regs * l.width) else (r.1, [])
  let img := v.2
  let s := v.1
  let hp := savedPtr bs 0x10
  let sr : Tab Word := (List.range 96).foldl (fun t r => t.putD r (savedWord bs (0x180 + 4 * r)) 0) []
  let s1 := s.modGroup gid (fun g => { g with
    level := ((savedWord bs 0xC).extractLsb' 16 3).toNat, thnd := BitVec.ofNat 32 (offOf hp), thndSeg := segOf hp,
    barto := savedWord bs 0x18, cbrto := savedWord bs 0x1C, phs := savedWord bs 0x20, mflags := (savedWord bs 0x24).extractLsb' 0 5,
    gen := readGen bs l.width g.gen,
    doms := (List.range 16).foldl (fun t d => t.putD d (readDom bs d (g.domain d)) DomainUse.none) g.doms,
    sregs := sr, rays := [], parked := false })
  let s2 := s1.mapThreads (fun tid t =>
    if gidOf tid = gid ∧ t.life ≠ .exited then restoreThread s.cycle bs img l.width l.regs (laneOf tid) t else t)
  if out then
    let z := s2.savedBytes gid (tilesAt l) (teamAt' l - tilesAt l)
    let lz := z.2
    let s2 := z.1
    let at_ (p : Nat) : Nat := p - tilesAt l
    let nums (n : Nat) (f : Nat → Word) : Tab Word := (List.range n).foldl (fun t j => t.putD j (f j) 0) []
    s2.modGroup gid (fun g => { g with
      tiles := (List.range (4096 * l.tiles)).foldl (fun (t : Tab Byte) j => t.putD j (lz.getD j 0) 0) []
      tileRecs := (List.range 16).foldl (fun (t : Tab DWord) j => t.putD j (savedPtr lz (4096 * l.tiles + 8 * j)) 0) []
      accs := nums (4096 * l.accs) (fun j => savedWord lz (at_ (accsAt l) + 4 * j))
      norms := (List.range 32).foldl (fun (t : Tab Word) r => t.putD r (savedWord lz (at_ (normsAt l) + 4 * r)) normDefault) []
      gen := g.gen.map (fun x => { x with tags := x.tags.mapKV (fun j _ => (lz.getD (at_ (normsAt l) + 128 + j) 0).toNat) }) })
  else s2

/-- A barrier as the team block gives it (R357, R360): phase, E, arrivals and timer. DESIGN CHOICE: log entry 67. -/
def readBarrier (now : Nat) (bs : List Byte) (bar : Nat) (b : Barrier) : Barrier :=
  let x (k : Nat) : Nat := (savedWord bs (16 * bar + 4 * k)).toNat
  { b with phase := x 0, e := x 1, arrived := b.arrived.take (x 2), start := if b.arrived = [] then b.start else now - x 3 }

/-- A team's barriers and scratchpad read back from its block (R357). -/
def restoreTeam (s : State) (k : Nat) : State :=
  let l := s.launch (s.team k).launch
  let r := s.savedBytes (gidAt k 0) (teamAt' l) (256 + l.spad)
  let bs := r.2
  r.1.modTeam k (fun t => { t with
    bars := (List.range 16).foldl (fun m bar =>
      let b := s.barrier k bar
      let v := readBarrier s.cycle bs bar b
      if v = b then m else m.put bar v) t.bars
    spad := (List.range l.spad).foldl (fun (m : Tab Byte) j => m.putD j (bs.getD (256 + j) 0) 0) [] })

/-- Are the slots of a parked team's own partitions free (R146, R357)? -/
def slotsFree (s : State) (k : Nat) : Bool :=
  let c := copiesOf (s.launch (s.team k).launch)
  (s.team k).cores.all (fun core => (List.range 4).all (fun p =>
    decide (s.slotsIn core p + c * ((s.groupsOf k).filter (fun g => (s.group g).core == core && (s.group g).part == p)).length ≤ 48)))

/-- May a parked team return now (R357)? The oldest park of a core goes first. -/
def mayReturn (s : State) (k : Nat) : Bool :=
  let t := s.team k
  s.due k && s.slotsFree k &&
    (List.range t.cores.length).all (fun i =>
      let c := t.cores.getD i 0
      ((s.usedOn c).plus (needAt (s.launch t.launch) t.cores i)).within) &&
    !s.teams.any (fun e => e.1 != k && s.due e.1 && e.2.cores.any (fun c => t.cores.contains c) &&
      (decide (e.2.parkedAt < t.parkedAt) || (e.2.parkedAt == t.parkedAt && decide (e.1 < k))))

/-- BARTO timers paused while the team was parked (R357). -/
def resumeTimers (s : State) (k : Nat) : State :=
  s.modTeam k (fun t => { t with bars := t.bars.mapKV (fun _ b =>
    if b.arrived = [] then b else { b with start := b.start + (s.cycle - t.parkedAt) }) })

end State

/-- PARKED_TEAM_RETURN (R357). DEDUCED: log entry 115. -/
def evParkedTeamReturn (s : State) : State :=
  match s.subject with
  | .team k =>
    if s.mayReturn k then
      let t := s.team k
      let la := s.launch t.launch
      let out := t.lazyOut
      let s := (List.range t.cores.length).foldl (fun s i => s.claimOn (t.cores.getD i 0)
        (if out then needAt la t.cores i else Need.zero)) s
      let s := s.resumeTimers k
      let s := ((s.groupsOf k).filter (fun g => !s.groupEnded g)).foldl (fun s g => (s.restoreGroup g out).renewShadow g) s
      let s := if out then s.restoreTeam k else s
      s.modTeam k (fun t => { t with place := .resident, returnedAt := s.cycle, preempting := false, lazyOut := false })
    else s
  | _ => s

/-! The meaning of each row of the table of operations. -/

/-- PARK_COMPLETE (R355). -/
def execParkComplete (s : State) : Host.Outcome State Fault Refusal := .next (evParkComplete s)

/-- TEAM_PLACE (R155). -/
def execTeamPlace (s : State) : Host.Outcome State Fault Refusal := .next (evTeamPlace s)

/-- REBALANCE (R334). -/
def execRebalance (s : State) : Host.Outcome State Fault Refusal := .next (evRebalance s)

/-- PREEMPT_REQUEST (R353). -/
def execPreemptRequest (s : State) : Host.Outcome State Fault Refusal := .next (evPreemptRequest s)

/-- PARKED_TEAM_RETURN (R357). -/
def execParkedTeamReturn (s : State) : Host.Outcome State Fault Refusal := .next (evParkedTeamReturn s)

end Sys2Proof.Machine
end

