-- ==== Sys2Proof/Machine/Sched.lean ====
section
/-! DEFINITION. The active set and the regrouping tick (08 R147, R148, 11 R197), and the pre-emption of a launch that only polls
(20 R367). -/

namespace Sys2Proof.Machine

/-- Is one key before another, number by number? -/
def keyLt : List Nat → List Nat → Bool
  | a :: l, b :: m => decide (a < b) || (a == b && keyLt l m)
  | [], _ :: _ => true
  | _, [] => false

/-- A list in ascending order of a key; equal ones keep their order. -/
def insertBy (key : Nat → List Nat) (x : Nat) : List Nat → List Nat
  | [] => [x]
  | y :: r => if keyLt (key x) (key y) then x :: y :: r else y :: insertBy key x r
def orderBy (key : Nat → List Nat) (l : List Nat) : List Nat := l.foldl (fun r x => insertBy key x r) []

namespace State

/-- Is a thread eligible (R148)? A speculating group's other threads are not, and none of it while it stalls (R176, R180). -/
def eligible (s : State) (tid : Nat) : Bool :=
  let gid := gidOf tid
  (s.thread tid).ready && decide ((s.teamAt gid).place = .resident) &&
    (match (s.group gid).spec with
      | some sp => sp.participants.contains tid && decide (sp.issues < 512)
      | none => true)

/-- The eligible threads of a group, ascending home lane. -/
def eligibleOf (s : State) (gid : Nat) : List Nat := (s.threadsOf gid).filter s.eligible

/-- The age of a group's team on its core, with the ties of R152. -/
def ageKey (s : State) (gid : Nat) : List Nat :=
  let t := s.teamAt gid
  [t.age, (s.launch t.launch).id.toNat, t.index, teamOf gid]

/-- The groups of a partition whose team is resident and which have not ended. -/
def groupsAtPart (s : State) (core part : Nat) : List Nat :=
  (s.groups.filter (fun e => e.2.core == core && e.2.part == part && decide ((s.teamAt e.1).place = .resident)
    && !(s.threadsOf e.1).all (fun t => decide ((s.thread t).life ≠ .running)))).map (·.1)

/-- The active file bytes of a group (R10, R147). -/
def fileBytes (s : State) (gid : Nat) : Nat := let l := s.launchOf gid; regBytes l.regs l.width

/-- Do groups fit the active set together (R147)? -/
def setFits (s : State) (gids : List Nat) : Bool :=
  decide (gids.length ≤ 12) && decide ((gids.map s.fileBytes).sum ≤ 65536)

/-- The active groups that stay when `gid` is admitted: those that have waited longest without issuing go first, as many as needed; one
that issued in the tick that ends is never evicted (R147). -/
def evict (s : State) (gid : Nat) : List Nat → List Nat → Option (List Nat)
  | [], kept => if s.setFits (gid :: kept) then some kept else none
  | v :: r, kept =>
    if s.setFits (gid :: (kept ++ v :: r)) then some (kept ++ v :: r)
    else if s.cycle < (s.group v).lastIssue + 8 then evict s gid r (kept ++ [v])
    else evict s gid r kept

/-- One partition's active set at a tick: when each group became ready outside it, and one admission (R147). Groups that
have gone equally long without issuing are evicted by number. DEDUCED: log entry 92. DEDUCED: log entry 143. -/
def admitOne (s : State) (core part : Nat) : State :=
  let gs := s.groupsAtPart core part
  let tick := s.cycle / 8
  let s := { s with groups := s.groups.mapKV (fun k g =>
    if g.core = core ∧ g.part = part then
      if gs.contains k then
        { g with ready := if g.active || (s.eligibleOf k).isEmpty then 0 else if g.ready = 0 then tick + 1 else g.ready }
      else { g with active := false, ready := 0 }
    else g) }
  let waiting := gs.filter (fun g => (s.group g).ready != 0)
  match orderBy (fun g => (s.group g).ready :: s.ageKey g ++ [gidxOf g]) waiting with
  | [] => s
  | g :: _ =>
    let active := orderBy (fun v => [(s.group v).lastIssue]) (gs.filter (fun g => (s.group g).active))
    match s.evict g active [] with
    | none => s
    | some kept =>
      { s with groups := s.groups.mapKV (fun k x =>
        if k = g then { x with active := true, ready := 0 }
        else if active.contains k && !kept.contains k then { x with active := false }
        else x) }

/-- The pointers at which threads of a list stand, ascending offset. -/
def pcsOf (s : State) (tids : List Nat) : List Ptr :=
  ((orderBy (fun p => [p % 2 ^ 44, p / 2 ^ 44]) ((tids.map (fun t => (s.thread t).pc.toNat)))).eraseDups).map (BitVec.ofNat 64)

/-- A bundle joined by a later group's threads at its pointer, if no home lane is shared (R148). -/
def joinBundle (s : State) (q : Ptr) (done : List Nat) (b : List Nat) (h : Nat) : List Nat :=
  let mine := (s.eligibleOf h).filter (fun t => decide ((s.thread t).pc = q) && !done.contains t)
  if mine.any (fun t => b.any (fun u => laneOf u == laneOf t)) then b else b ++ mine

/-- `FormBundles` over groups in order (R148); a group inside a generator region stays apart (R197). -/
def formBundles (s : State) : List Nat → List Nat → List (List Nat)
  | [], _ => []
  | g :: rest, done =>
    let mine := (s.eligibleOf g).filter (fun t => !done.contains t)
    let mates := if (s.group g).gen.isSome then [] else rest.filter (fun h => teamOf h == teamOf g && (s.group h).gen.isNone)
    let bs := (s.pcsOf mine).map (fun q =>
      mates.foldl (fun b h => s.joinBundle q done b h) (mine.filter (fun t => decide ((s.thread t).pc = q))))
    bs ++ formBundles s rest (done ++ bs.flatten)

/-- One partition at the tick (R147, R148, R150). -/
def regroup (s : State) (core part : Nat) : State :=
  let s := s.admitOne core part
  let order := orderBy (fun g => s.ageKey g ++ [gidxOf g]) ((s.groupsAtPart core part).filter (fun g => (s.group g).active))
  let p := s.partition core part
  s.setPartition core part { p with bundles := s.formBundles order [], forced := [] }

/-- Has a group's activity spent its issue slots in the group's partition (R368)? -/
def slotsSpent (s : State) (gid : Nat) : Bool :=
  let g := s.group gid
  s.slotsGone (s.activityOfGroup gid) g.core g.part

/-- How many ticks each thread has been eligible without an issue (R152); a tick whose issue budget is spent does not count. -/
def countIdle (s : State) : State :=
  s.mapThreads (fun tid t =>
    let n := if !s.eligible tid then 0 else if t.issued then 0 else if s.slotsSpent (gidOf tid) then t.idleTicks else t.idleTicks + 1
    { t with idleTicks := n, issued := false })

/-- Does some team need a core (R367): one parked from it that waits to return, or a pending unit that fits no core of the die? -/
def needed (s : State) (core : Nat) : Bool :=
  s.teams.any (fun e => s.due e.1 && e.2.cores.contains core) ||
    (s.die (dieOfCore core)).pending.any (fun k =>
      let g := (s.team k).gang
      (s.bestSpot (dieOfCore core) (if g.length ≤ 1 then [k] else g)).isNone)

/-- The rule of R367 for a launch on a core: every resident group sits at level 7, and it did not return within 16 microseconds. -/
def allPoll (s : State) (l core : Nat) : Bool :=
  let r := s.residentOn l core
  r != [] && r.all (fun g => (s.group g).level == 7) && !s.preempting r &&
    r.all (fun g => let t := s.teamAt g; t.returnedAt == 0 || decide (t.returnedAt + Config.parkLimit ≤ s.cycle)) && s.needed core

/-- The cores that hold groups of resident teams, with their partitions. -/
def busyParts (s : State) : List (Nat × Nat) :=
  ((s.groups.filter (fun e => decide ((s.teamAt e.1).place = .resident))).map (fun e => (e.2.core, e.2.part))).eraseDups

end State

/-- REGROUPING_TICK (R147, R148, R152, R367): every partition of the module. -/
def evRegroupingTick (s : State) : State :=
  let s := s.countIdle
  let s := (s.busyParts.foldl (fun s p => s.regroup p.1 p.2)
    { s with parts := s.parts.mapKV (fun _ p => { p with bundles := [], forced := [] }) })
  let hit := (s.launchCores (s.groups.keys.filter (fun g => decide ((s.teamAt g).place = .resident)))).filter (fun e => s.allPoll e.1 e.2)
  { s with agenda := s.agenda ++ hit.map (fun e => Turn.event .preemptRequest (.launchOn e.1 e.2)) }

/-! The meaning of each row of the table of operations. -/

/-- REGROUPING_TICK (R148). -/
def execRegroupingTick (s : State) : Host.Outcome State Fault Refusal := .next (evRegroupingTick s)

end Sys2Proof.Machine
end

