-- ==== Sys2Proof/Machine/Clock.lean ====
section
/-! DEFINITION. One core cycle passes (01 R13): the timers that come due (08 R148, R154, 09 R169, R170, 10 R182, 18 R334, 20 R351, R357,
R365, R368) put their events on the agenda. -/

namespace Sys2Proof.Machine

namespace State

/-- The threads whose sleep has ended. DEDUCED: log entry 73. -/
def awake (s : State) : List Turn :=
  s.threads.filterMap (fun e =>
    if (s.teamAt (gidOf e.1)).place = .resident then
      match e.2.wait with
      | .nap u => if u ≤ s.cycle then some (Turn.event .napWake (.thread e.1)) else none
      | .bkoff u => if u ≤ s.cycle then some (Turn.event .bkoffWake (.thread e.1)) else none
      | _ => none
    else none)

/-- The barriers whose timer has reached its limit (R154). -/
def stalls (s : State) : List Turn :=
  s.teams.flatMap (fun e => e.2.bars.filterMap (fun b =>
    if stalled s e.1 b.1 then some (Turn.event .barrierStall (.barrier e.1 b.1)) else none))

/-- The collective instances whose timer has reached its limit (R182). -/
def expired (s : State) : List Turn :=
  s.insts.filterMap (fun e =>
    if s.instExpired e.2 && !e.2.expired then some (Turn.event .cbrTimeout (.collective e.1)) else none)

/-- The remote accesses at their time limit (R351). -/
def lateReplies (s : State) : List Turn :=
  s.accesses.filterMap (fun e =>
    if e.2.issuedAt + Config.remoteLimit ≤ s.cycle then some (Turn.event .remoteTimeout (.access e.1 .timeout)) else none)

/-- The parked teams that return now (R357), and the pre-emptions due by R365. -/
def returns (s : State) : List Turn :=
  s.teams.filterMap (fun e => if s.mayReturn e.1 then some (Turn.event .parkedTeamReturn (.team e.1)) else none)
def sleepersDue (s : State) : List Turn :=
  ((s.launchCores (s.groups.keys.filter (fun g => decide ((s.teamAt g).place = .resident)))).filter (fun e => s.sleepersFull e.1 e.2)).map
    (fun e => Turn.event .preemptRequest (.launchOn e.1 e.2))

/-- What happens every so many cycles: the regrouping tick (R148), the distributor's comparison (R334), the budget period (R368). -/
def periodic (s : State) : List Turn :=
  (if s.cycle % 8 = 0 then [Turn.event .regroupingTick .nothing] else [])
    ++ (if s.cycle % Config.cyclesPerMicro = 0 then [Turn.event .rebalance .nothing] else [])
    ++ (if s.cycle % 11200 = 0 then [Turn.event .budgetPeriod .nothing] else [])

end State

/-- The passing of one core cycle. DESIGN CHOICE: log entry 96. -/
def clock (s : State) : State :=
  let s := { s with cycle := s.cycle + 1 }
  { s with agenda := s.agenda ++ (s.awake ++ s.stalls ++ s.expired ++ s.lateReplies ++ s.returns ++ s.sleepersDue ++ s.periodic) }

/-- Does an event of the table happen by the clock alone? -/
def clocked (i : Instr) : Bool :=
  match i with
  | .regroupingTick => true
  | .rebalance => true
  | .budgetPeriod => true
  | _ => false

/-- May the outside world, or an agent of the module that no timer governs, take this turn of its own accord (log entry 1)? An encoded
instruction runs only where a partition issues it, and what the clock governs comes with it. DESIGN CHOICE: log entry 1. -/
def mayHappen (t : Turn) : Bool :=
  match t with
  | .event i _ => decide (i.view = .event) && !clocked i
  | _ => true

/-- What goes on in a module without a supply or without verified firmware (R388, R418): power-up, the management interface, the host's
own memory. -/
def unpowered (t : Turn) : Bool :=
  match t with
  | .event .modulePowerUp _ => true
  | .event .managementInterfaceAccess _ => true
  | .hostWrite _ _ => true
  | _ => false

end Sys2Proof.Machine
end

