-- ==== Sys2Proof/Machine/Generator.lean ====
section
/-! DEFINITION. Generator loops (11 R190 to R205): GEN, YIELD, GEND, GNEXT, GDRAIN and GSTAT, and the switching between the
producer and the consumer body. -/

namespace Sys2Proof.Machine

/-- The producer state saved of a thread (R190, R195). -/
def Thread.saveState (t : Thread) : Saved := ⟨t.pc, t.depth, t.meet, t.meets, t.preds, t.wait, t.after, t.inRep, t.pair, t.rpc⟩

/-- The saved state given back (R196): the thread waits again as it did, or goes on with its pair at the next iteration; one that has
executed GEND keeps its predicates and waits (R202). A wait for a reply that came meanwhile is over (`out`: is the access still out).
DEDUCED: log entry 105. -/
def Thread.restoreState (t : Thread) (v : Saved) (out : Nat → Bool) : Thread :=
  { t with
    pc := v.pc, depth := v.depth, meet := v.meet, meets := v.meets, preds := v.preds, after := v.after, inRep := v.inRep,
    pair := v.pair, rpc := if v.inRep then v.rpc else t.rpc, idleTicks := 0,
    wait := match v.wait with | .acquire k => if out k then .acquire k else .none | .reply => .none | x => x }

/-- Where a thread stands that waits at a GEN, and its state there: of a wait held in a trap slot, the slot's (R200, R348). -/
def Thread.genAt (t : Thread) : Ptr := if t.wait = .gen then t.pc else ((t.heldWait Wait.atGen).map (·.resume)).getD t.pc
def Thread.genState (t : Thread) : Saved :=
  { t.saveState with depth := if t.wait = .gen then t.depth else ((t.heldWait Wait.atGen).map (·.depth)).getD t.depth }

/-- The descriptor of a GEN from its four scalars, against the limits of R191: the region's state, or the reason (R198). -/
def genCheck (s : State) (gid : Nat) (f : Fields) (cons done : Ptr) : Except Nat Gen :=
  let g := s.group gid
  let la := s.launchOf gid
  let w := la.width
  let x0 := g.sreg f.a
  let x1 := g.sreg (f.a + 1)
  let x2 := g.sreg (f.a + 2)
  let x3 := g.sreg (f.a + 3)
  let t := (x1.extractLsb' 20 12).toNat
  let e := (x1.extractLsb' 16 4).toNat
  let c := (x1.extractLsb' 0 16).toNat
  let fr := (x2.extractLsb' 16 8).toNat
  let qb := (x2.extractLsb' 8 8).toNat
  let pb := (x2.extractLsb' 0 8).toNat
  let one := w ≤ t && t + w ≤ c && 1 ≤ e && e ≤ 4 && c % w == 0 && w ≤ c && c ≤ 4096 && x2.extractLsb' 24 8 == 0 && x3 == 0
    && fr ≤ 255
  let two := e ≤ fr && qb + fr ≤ la.regs && pb + fr ≤ la.regs && !overlap qb fr pb fr
  let mem := (x0.extractLsb' 19 2).toNat
  let o := (x0.extractLsb' 0 19).toNat
  let three := x0.toNat % 16 == 0 && x0.extractLsb' 21 11 == 0 &&
    (match s.spadTeamNow gid mem with
      | some k => decide (o + c * e * 4 ≤ (s.launch (s.team k).launch).spad)
      | none => false)
  if !one then .error 1
  else if !two then .error 2
  else if !three then .error 3
  else .ok { buf := x0, t := t, e := e, c := c, f := fr, qb := qb, pb := pb, head := 0, cnt := 0, frc := false,
             prd := List.range w, tags := [], saved := [], entry := [], consumer := false, n := 0, arrived := [],
             cons := cons, done := done }

/-- The consumer and done labels of a GEN (R199, R200). -/
def genLabels (f : Fields) (self : Ptr) : Ptr × Ptr :=
  let l (x : BitVec 16) : Ptr := mkPtr (segOf self) (((offOf self : Int) + 4 * x.toInt) % 2 ^ 32).toNat
  (l (f.x.extractLsb' 0 16), l (f.x.extractLsb' 16 16))

namespace State

/-- All home lanes of a group wait at the same GEN: it takes effect, or fails (R200). -/
def enterGen (s : State) (gid : Nat) (f : Fields) (next : Ptr) : State :=
  let w := s.widthOf gid
  if (s.group gid).gen.isSome then s.failGen gid 5
  else if (s.presentOf gid).length < w then s.failGen gid 4
  else
    let ls := genLabels f s.issue.self
    match genCheck s gid f ls.1 ls.2 with
    | .error r => s.failGen gid r
    | .ok gen =>
      let entry := (s.presentOf gid).map (fun t => (laneOf t, (s.thread t).genState))
      let s := s.modGroup gid (fun g => { g with gen := some { gen with entry := entry } })
      (s.unbundle (s.presentOf gid)).mapThreads (fun tid t =>
        if gidOf tid ≠ gid then t
        else if t.wait = .gen then { t with wait := .none, pc := next }
        else t.mapSlots (fun k => if k.wait = .gen then { k with ended := true, after := next } else k))

/-- Each thread of the issue waits at the GEN; when every home lane's thread waits, be it with a trap slot active (R348), they are at one
GEN or all fail (R200). DEDUCED: log entry 119. -/
def waitGen (s : State) (gid : Nat) (f : Fields) (ok : List Nat) : State :=
  let s := s.mapThreads (fun tid t => if ok.contains tid then { t with wait := .gen, after := s.issue.next, issued := true } else t)
  let ps := s.presentOf gid
  let lost := decide ((s.threadsOf gid).length < s.widthOf gid) || decide (ps.length < (s.threadsOf gid).length)
  if ps.all (fun t => (s.thread t).waitsAs Wait.atGen) then
    if ps.all (fun t => decide ((s.thread t).genAt = s.issue.pc)) then s.enterGen gid f s.issue.next else s.failGen gid 9
  else if lost then s.failGen gid 4 else s

/-- The words of an entry on their way to the compaction buffer for a thread (R192, R193); where the buffer's team has ended, they go nowhere
(R144). -/
def yieldWords (s : State) (tid team o : Nat) (ws : List Word) : State :=
  let bs := ws.flatMap (fun w => leBytes 4 w.toNat)
  let cells : List Host.Cell := (List.range bs.length).map (fun k => (o + k, bs.getD k 0))
  if (s.team team).place = .ended then s
  else
    (s.dropAhead (gidOf tid) team cells).modGroup (gidOf tid) (fun g => { g with spadPath := g.spadPath ++ [⟨tid, team, cells, 0⟩] })

/-- A word of the buffer as the group's own load reads it: its stores first, in issue order (R193); that of an ended team is a free value
(R144). DESIGN CHOICE: log entry 140. -/
def bufWord (s : State) (gid team o : Nat) : Word :=
  let g := s.group gid
  BitVec.ofNat 32 (leNat ((List.range 4).map (fun k =>
    if (s.team team).place = .ended then Config.goneByte s.turn (o + k)
    else match newest ((g.spadPath.filter (fun p : SpadStore => p.team == team)).map SpadStore.bytes ++
        ((s.unmatched gid).filter (fun h : HeldStore => decide (h.spad = some team))).map HeldStore.bytes) (o + k) with
    | some b => b
    | none => (s.team team).spad.getD (o + k) 0)))

/-- A consumer pass starts on the lowest `n` home lanes (R195). The meeting value of a lane that stays idle stands.
DESIGN CHOICE: log entry 141. -/
def consume_ (s : State) (gid n : Nat) : State :=
  match (s.group gid).gen with
  | none => s
  | some gen =>
    let team := (s.spadTeam gid (gen.buf.extractLsb' 19 2).toNat).getD (teamOf gid)
    let base := (gen.buf.extractLsb' 0 19).toNat
    let saved := if gen.consumer then gen.saved else
      (s.presentOf gid).map (fun t => (laneOf t, (s.thread t).saveState))
    let s1 := (s.unbundle (s.presentOf gid)).mapThreads (fun tid t =>
      if gidOf tid = gid then
        let lane := laneOf tid
        let e := (gen.entry.get? lane)
        if lane < n then
          let slot := (gen.head + lane) % gen.c
          let t := t.setRegs ((List.range gen.e).map (fun k =>
            (gen.qb + k, s.bufWord gid team (base + 4 * (gen.e * slot + k)))))
          { t with ylane := BitVec.ofNat 32 (gen.tags.getD slot 0), pc := gen.cons,
                   depth := (e.map (·.depth)).getD t.depth, meet := none, meets := [], preds := 0, wait := .none,
                   inRep := false, pair := none, released := false, idleTicks := 0 }
        else { t with wait := .idle, inRep := false, pair := none }
      else t)
    s1.modGroup gid (fun g => { g with gen := some { gen with consumer := true, n := n, saved := saved, arrived := [] } })

/-- Producers resume from their saved state; the lanes that ended production wait (R196). -/
def resumeProducers (s : State) (gid : Nat) : State :=
  match (s.group gid).gen with
  | none => s
  | some gen =>
    let s1 := (s.unbundle (s.presentOf gid)).mapThreads (fun tid t =>
      if gidOf tid = gid then
        match gen.saved.get? (laneOf tid) with
        | some v => t.restoreState v (fun k => (s.accesses.get? k).isSome)
        | none => t
      else t)
    s1.modGroup gid (fun g => { g with gen := some { gen with consumer := false, n := 0 } })

/-- The region ends (R196). -/
def genDone (s : State) (gid : Nat) : State :=
  match (s.group gid).gen with
  | none => s
  | some gen =>
    let s1 := (s.unbundle (s.presentOf gid)).mapThreads (fun tid t =>
      if gidOf tid = gid then
        let e := gen.entry.get? (laneOf tid)
        let preds := if gen.consumer then ((gen.saved.get? (laneOf tid)).map (·.preds)).getD t.preds else t.preds
        { t with pc := gen.done, depth := (e.map (·.depth)).getD t.depth, meet := (e.bind (·.meet)),
                 meets := (e.map (·.meets)).getD [], preds := preds, wait := .none, idleTicks := 0 }
      else t)
    s1.modGroup gid (fun g => { g with gen := none })

/-- Decide (R194). -/
def decideGen (s : State) (gid : Nat) : State :=
  match (s.group gid).gen with
  | none => s
  | some gen =>
    let live := gen.prd != []
    let w := s.widthOf gid
    if gen.t ≤ gen.cnt then s.consume_ gid w
    else if (!live || gen.frc) && decide (w ≤ gen.cnt) then s.consume_ gid w
    else if (!live || gen.frc) && decide (0 < gen.cnt) then s.consume_ gid gen.cnt
    else if !live then s.genDone gid
    else
      let s := s.modGroup gid (fun g => { g with gen := some { gen with frc := false } })
      if gen.consumer then s.resumeProducers gid else s

/-- The generator state of a group changed. -/
def modGen (s : State) (gid : Nat) (k : Gen → Gen) : State := s.modGroup gid (fun g => { g with gen := g.gen.map k })

/-- One thread's entry appended (R192). -/
def appendOne (s : State) (f : Fields) (tid : Nat) : State :=
  let gid := gidOf tid
  match (s.group gid).gen with
  | none => s
  | some gen =>
    let team := (s.spadTeam gid (gen.buf.extractLsb' 19 2).toNat).getD (teamOf gid)
    let slot := (gen.head + gen.cnt) % gen.c
    let t := s.thread tid
    let ws := (List.range gen.e).map (fun k => if f.a = 255 then 0 else t.reg (f.a + k))
    (s.yieldWords tid team ((gen.buf.extractLsb' 0 19).toNat + 4 * gen.e * slot) ws).modGen gid (fun x =>
      { x with cnt := x.cnt + 1, tags := x.tags.put slot (laneOf tid) })

end State

/-- GEN (R200). -/
def xGen (f : Fields) (s : State) : State :=
  s.runFlow f State.noFault (fun ok s1 => (State.groupsIn ok).foldl (fun s g => s.waitGen g f (ofGroup ok g)) s1)

/-- YIELD (R201): the entry's registers must lie below v255 and the cap. -/
def xYield (f : Fields) (s : State) : State :=
  s.runState f
    (fun tid =>
      match (s.group (gidOf tid)).gen with
      | some gen =>
        let top := f.a + gen.e - 1
        if f.a != 255 && (decide (254 < top) || decide ((s.launchOf (gidOf tid)).regs ≤ top)) then
          some ⟨codeRegBounds, 0, BitVec.ofNat 32 f.a⟩ else none
      | none => none)
    (fun ok s1 => (byLane ok).foldl (fun s t => s.appendOne f t) s1)

/-- The switch that an instruction of the producer body may cause comes after its issue (R194, R195). -/
def thenDecide (before : State) (x : Fields → State → State) (f : Fields) : State :=
  (State.groupsIn (before.acting f State.noFault)).foldl (fun s g => s.decideGen g) (x f before)

/-- YIELD, then Decide once for the issue (R201). -/
def xYieldDecide (f : Fields) (s : State) : State := thenDecide s xYield f

/-- GEND: the lanes stop producing and wait (R202). -/
def xGend (f : Fields) (s : State) : State :=
  thenDecide s (fun f s => s.runFlow f State.noFault (fun ok s1 =>
    let s2 := (State.groupsIn ok).foldl (fun s g => s.modGen g (fun x =>
      { x with prd := x.prd.filter (fun l => !(ofGroup ok g).contains (tidAt g l)) })) s1
    s2.mapThreads (fun tid t => if ok.contains tid then { t with wait := .gend, after := s.issue.next, issued := true } else t))) f

/-- GNEXT: the pass ends once all its threads have executed it (R196, R203). -/
def xGnext (f : Fields) (s : State) : State :=
  s.runFlow f State.noFault (fun ok s1 =>
    (State.groupsIn ok).foldl (fun s g =>
      let mine := ofGroup ok g
      let s := s.mapThreads (fun tid t => if mine.contains tid then { t with wait := .gnext, after := s.issue.next, issued := true } else t)
      let s := s.modGen g (fun x => { x with arrived := x.arrived ++ mine.map laneOf })
      match (s.group g).gen with
      | none => s
      | some gen =>
        if gen.n ≤ gen.arrived.length then
          let s := s.mapThreads (fun tid t => if gidOf tid = g then { t with ylane := 0 } else t)
          (s.modGen g (fun x => { x with
            head := (x.head + x.n) % x.c, cnt := x.cnt - x.n, arrived := [],
            tags := x.tags.filter (fun e => !(List.range x.n).any (fun k => (x.head + k) % x.c == e.1)) })).decideGen g
        else s) s1)

/-- GDRAIN (R204). -/
def xGdrain (f : Fields) (s : State) : State :=
  thenDecide s (fun f s => s.runState f State.noFault (fun ok s1 =>
    (State.groupsIn ok).foldl (fun s g => s.modGen g (fun x => { x with frc := x.frc || decide (0 < x.cnt) })) s1)) f

/-- The GSTAT word (R205). -/
def gstatWord (gen : Option Gen) : Word :=
  match gen with
  | none => 0
  | some g => BitVec.ofNat 32 (g.prd.length * 2 ^ 16 + g.frc.toNat * 2 ^ 15 + g.consumer.toNat * 2 ^ 14 + 2 ^ 13 + g.cnt)

/-- GSTAT (R205). -/
def xGstat (f : Fields) (s : State) : State :=
  s.runPlain f State.noFault (fun _ t => t) (fun gid => f.toScal false ((gstatWord (s.group gid).gen).setWidth 64))

/-! The meaning of each row of the table of operations. -/

/-- GEN (R200). -/
def execGen (f : EForm) (s : State) : Host.Outcome State Fault Refusal := .next (xGen (wideFields 0x17 0 f) s)

/-- YIELD (R201). -/
def execYield (f : EForm) (s : State) : Host.Outcome State Fault Refusal := .next (xYieldDecide (wideFields 0x17 1 f) s)

/-- GEND (R202). -/
def execGend (f : EForm) (s : State) : Host.Outcome State Fault Refusal := .next (xGend (wideFields 0x17 2 f) s)

/-- GNEXT (R203). -/
def execGnext (f : EForm) (s : State) : Host.Outcome State Fault Refusal := .next (xGnext (wideFields 0x17 3 f) s)

/-- GDRAIN (R204). -/
def execGdrain (f : EForm) (s : State) : Host.Outcome State Fault Refusal := .next (xGdrain (wideFields 0x17 4 f) s)

/-- GSTAT (R205). -/
def execGstat (f : EForm) (s : State) : Host.Outcome State Fault Refusal := .next (xGstat (wideFields 0x17 5 f) s)

end Sys2Proof.Machine
end

