-- ==== Sys2Proof/Machine/HostSide.lean ====
section
/-! DEFINITION. What reaches the module from outside its cores (23 R404 to R410, R420, 18 R309, 20 R362): the host's CXL.mem accesses, the
command window, the management interface, and the commands and tables of firmware. -/

namespace Sys2Proof.Machine

namespace State

/-- The home address of a host physical address of the memory window (R404, R405). -/
def windowHome (s : State) (hpa : Nat) : Option Nat :=
  if s.windowHost ≤ hpa ∧ hpa < s.windowHost + s.windowSize then some (s.windowDevice + (hpa - s.windowHost)) else none

/-- A CXL.mem request outside the window: counted, and vector 2 fires for the first since the counter was read (R405). -/
def strayAccess (s : State) : State :=
  let s1 := { s with stray := s.stray + 1, strayArmed := false }
  if s.strayArmed && s.vector2 then { s1 with outbox := s1.outbox ++ [Message.msix 1 2] } else s1

/-- Does a home line lie in a sealed range of some context: one of its seal entries, or a segment with SL = 1 (R267, R404)? The
entries of 256 bytes or more cover whole lines. -/
def sealedHome (s : State) (a n : Nat) : Bool :=
  s.contexts.any (fun c =>
    c.2.seals.any (fun e => (s.homeRanges none c.1 e.seg e.off e.len).any (fun r => overlap r.1 r.2 a n)) ||
    (List.range c.2.stl).any (fun g =>
      let d := s.descHome c.1 g
      d.valid && d.sl && d.type != 2 && d.type != 5 && d.type != 6 && (s.homeRanges none c.1 g 0 d.len).any (fun r => overlap r.1 r.2 a n)))

end State

/-- CXL_MEM_READ (R404, R405, R380): a line of 64 bytes from its home, with the poison indication for a bad line; outside the window all
bytes are 0xFF with poison. -/
def evCxlMemRead (s : State) : State :=
  match s.subject with
  | .host hpa _ =>
    let line := hpa / 64 * 64
    match s.windowHome line with
    | some a =>
      let m := s.meetLine (a / 64)
      let bad := match m.2 with | .sound => false | _ => true
      { m.1 with outbox := m.1.outbox ++ [Message.hostReadData line (m.1.homeBytes a 64) bad] }
    | none =>
      let s1 := s.strayAccess
      { s1 with outbox := s1.outbox ++ [Message.hostReadData line (List.replicate 64 0xFF) true] }
  | _ => s

/-- CXL_MEM_WRITE (R404, R405, R406): performed at the byte's home within one line, discarded in a sealed range or outside the
window. -/
def evCxlMemWrite (s : State) : State :=
  match s.subject with
  | .host hpa data =>
    let bs := data.take (64 - hpa % 64)
    match s.windowHome hpa with
    | some a =>
      if s.sealedHome a bs.length then
        let s1 := { s with sealedWrites := s.sealedWrites + 1 }
        if s1.vector1 then { s1 with outbox := s1.outbox ++ [Message.msix 1 1] } else s1
      else s.putCells ((List.range bs.length).map (fun k => (a + k, bs.getD k 0)))
    | none => s.strayAccess
  | _ => s

/-- The place of a command-window offset (R407): context, handle, slot, byte in the slot; none outside the slots. -/
def windowPlace (ofs : Nat) : Option (Nat × Nat × Nat × Nat) :=
  let o := ofs % 0x4000
  if 64 * 0x100000 ≤ ofs ∨ 0x1000 ≤ o then none
  else some (ofs / 0x100000, ofs % 0x100000 / 0x4000, o / 0x80, o % 0x80)

/-- The word number of a slot's word in State.slots. -/
def slotWord (ctx h j k : Nat) : Nat := ((ctx * 64 + h) * 32 + j) * 32 + k

namespace State

/-- A slot's control word (R407). -/
def slotControl (s : State) (ctx h j : Nat) : Word := s.slots.getD (slotWord ctx h j 31) 0

/-- A word of the window as the host reads it: the range of a disabled queue reads zero (R407). -/
def windowRead (s : State) (ofs : Nat) : Word :=
  match windowPlace ofs with
  | some (c, h, j, b) => if s.queueOn c h then s.slots.getD (slotWord c h j (b / 4)) 0 else 0
  | none => 0

end State

/-- COMMAND_WINDOW_WRITE (R407, R408): one word. The host sets V and clears ACK; between the V write and the ACK a slot takes no
write. -/
def evCommandWindowWrite (s : State) : State :=
  match s.subject with
  | .window ofs v =>
    match windowPlace ofs with
    | some (c, h, j, b) =>
      let ctl := s.slotControl c h j
      if !s.queueOn c h || ctl.getLsbD 31 then s
      else if b < 64 then { s with slots := s.slots.putD (slotWord c h j (b / 4)) v 0 }
      else if 124 ≤ b then
        let ack := if v.getLsbD 30 then ctl &&& 0x40000000 else 0
        { s with slots := s.slots.putD (slotWord c h j 31) ((v &&& 0x80000000) ||| ack ||| (ctl &&& 0x0000FFFF)) 0 }
      else s
    | none => s
  | _ => s

/-- The die that runs a command of the command window (R409); commands that are no engine's belong to none, and count on die 0.
DEDUCED: log entry 78. -/
def windowDie (h : Nat) : Nat := if 32 ≤ h ∧ h < 48 then (h - 32) % 4 else if 48 ≤ h ∧ h < 56 then (h - 48) % 4 else 0

/-- Does the record of a command without a pushing group fail its check as a write (R337)? It is made as the context, with the leases
replaced by residency. DEDUCED: log entry 79. -/
def State.recordFails (s : State) (c : Command) : Bool :=
  c.record != 0 && (match s.check (engine c.ctx) c.record 8 3 .write with | .ok _ _ => false | .bad _ _ => true)

/-- COMMAND_SLOT_TAKE (R408, R409): the next slot of the ring, once V reads 1, is handled as a PUSH from a host thread. -/
def evCommandSlotTake (s : State) : State :=
  match s.subject with
  | .queue ctx h =>
    let j := s.rings.getD (64 * ctx + h) 0
    if !s.queueOn ctx h || !(s.slotControl ctx h j).getLsbD 31 || 63 < h then s
    else
      let ws := (List.range 16).map (fun k => s.slots.getD (slotWord ctx h j k) 0)
      let c := newCommand ws ctx h (windowDie h) 0 none false none
      let qw : Nat × Nat := match s.pushReason c false true with
        | some r => (7, r)
        | none => if s.recordFails c then (7, 0) else (s.pushRefused c, 0)
      let s1 := { s with
        slots := s.slots.putD (slotWord ctx h j 31) (BitVec.ofNat 32 (0x40000000 + qw.2 * 4096 + qw.1)) 0
        rings := s.rings.putD (64 * ctx + h) ((j + 1) % 32) 0 }
      if qw.1 = 0 then s1.accept c else s1
  | _ => s

namespace State

/-- An answer of the management interface. -/
def say (s : State) (v : Nat) : State := { s with outbox := s.outbox ++ [Message.management v] }

/-- What the management interface answers (R379, R387, R404, R405, R420). A read of the stray-access counter re-arms vector 2; a
registration answers 1, or 0 where it fails. -/
def manage (s : State) (a : MgmtAccess) : State :=
  match a with
  | .readStray => ({ s with strayArmed := true } : State).say s.stray
  | .readSealedWrites => s.say s.sealedWrites
  | .readErrors d => s.say ((s.die d).uncorrected.toNat * 2 ^ 32 + (s.die d).corrected.toNat)
  | .readPortMask => s.say s.portMask
  | .enableVectors one two => { s with vector1 := one, vector2 := two }
  | .registerRegion ctx seg off len => match s.registerRegion ctx seg off len with | some s' => s'.say 1 | none => s.say 0
  | .readSensors => s.say (Config.sensors s.turn)

/-- Firmware's command for a kernel-mode launch (R362): taken as from the host, its launch in kernel mode, its teams on user cores or pinned
to the service core of a die. DESIGN CHOICE: log entry 91. -/
def firmwarePush (s : State) (ctx h : Nat) (pin : Option Nat) (ws : List Word) : State :=
  let c := newCommand ((List.range 16).map (fun k => ws.getD k 0)) ctx h (windowDie h) 0 none true (pin.map (· % 4))
  if (s.pushReason c false true).isSome || s.recordFails c || s.pushRefused c != 0 || 63 < h || c.type != 1 then s else s.accept c

end State

/-- MANAGEMENT_INTERFACE_ACCESS (R420). -/
def evManagementInterfaceAccess (s : State) : State :=
  match s.subject with
  | .firmwareAccess a => s.manage a
  | _ => s

/-- JOETH_MANAGEMENT (R394, R395, R420): the same interface carried by a management flit; the answer leaves as one. -/
def evJoethManagement (s : State) : State :=
  match s.subject with
  | .management p h payload a =>
    let r := s.receive p h payload
    if r.2 && h.type == 4 then
      let s := r.1.manage a
      s.sendOn p { s.flitHead 4 h.src.toNat h.ctx.toNat h.tag.toNat h.epoch.toNat with tag := h.tag }
    else r.1
  | _ => s

/-- QUEUE_TABLE_WRITE (R309): a word with a nonzero zero field is not written. Accepted commands dispatch as before.
DEDUCED: log entry 82. -/
def evQueueTableWrite (s : State) : State :=
  match s.subject with
  | .queueEntry ctx h e =>
    if h < 64 ∧ e.extractLsb' 43 19 = 0 ∧ e.extractLsb' 3 29 = 0 then
      s.modContext ctx (fun c => { c with queues := c.queues.putD h e 0 })
    else s
  | _ => s

/-- CONTEXT_CREATION (R229, R237, R309, R369, R417): the record under a number, and the capability table in its segment 1;
SVCTHR and CTXLIM of the number stand as they are, and the reset count of an earlier context of the number does (R359). -/
def evContextCreation (s : State) : State :=
  match s.subject with
  | .creating ctx r =>
    if ctx < 64 ∧ 5 ≤ r.stl ∧ r.stl ≤ 2 ^ 20 then
      let old := s.context ctx
      let qs : Tab DWord := (List.range 64).foldl (fun t h => t.putD h (r.queues.getD h 0) 0) []
      State.tableTo { s with
        contexts := s.contexts.put ctx { Context.blank with
          segBase := r.segBase, stl := r.stl, tableBase := r.tableBase, pkr := r.pkr, pkr0 := r.pkr, queues := qs, resets := old.resets,
          nodes := old.nodes, seals := old.seals, pool := old.pool, holder := old.holder, gone := old.gone, resolved := old.resolved }
        pkrCopies := s.pkrCopies.filter (fun e => e.1 % 64 != ctx) } ctx
    else s
  | _ => s

/-! The meaning of each row of the table of operations. -/

/-- JOETH_MANAGEMENT (R420). -/
def execJoethManagement (s : State) : Host.Outcome State Fault Refusal := .next (evJoethManagement s)

/-- CXL_MEM_READ (R404). -/
def execCxlMemRead (s : State) : Host.Outcome State Fault Refusal := .next (evCxlMemRead s)

/-- CXL_MEM_WRITE (R404). -/
def execCxlMemWrite (s : State) : Host.Outcome State Fault Refusal := .next (evCxlMemWrite s)

/-- COMMAND_WINDOW_WRITE (R407). -/
def execCommandWindowWrite (s : State) : Host.Outcome State Fault Refusal := .next (evCommandWindowWrite s)

/-- COMMAND_SLOT_TAKE (R408). -/
def execCommandSlotTake (s : State) : Host.Outcome State Fault Refusal := .next (evCommandSlotTake s)

/-- MANAGEMENT_INTERFACE_ACCESS (R405). -/
def execManagementInterfaceAccess (s : State) : Host.Outcome State Fault Refusal := .next (evManagementInterfaceAccess s)

/-- CONTEXT_CREATION (R369). -/
def execContextCreation (s : State) : Host.Outcome State Fault Refusal := .next (evContextCreation s)

/-- QUEUE_TABLE_WRITE (R309). -/
def execQueueTableWrite (s : State) : Host.Outcome State Fault Refusal := .next (evQueueTableWrite s)

end Sys2Proof.Machine
end

