-- ==== Sys2Proof/Machine/Lanes.lean ====
section
/-! DEFINITION. XLANE (09 R157 to R164): SHFL, VOTE, MATCH, REDUX, SCAN, ELECT and VTOS. -/

namespace Sys2Proof.Machine

/-- Vector register A of a home lane of a group, a pair for b64; zero for a lane without a non-exited thread (R157). -/
def laneReg (s : State) (gid : Nat) (f : Fields) (wide : Bool) (lane : Nat) : DWord :=
  match s.threads.get? (tidAt gid lane) with
  | some t => if lane < 64 ∧ t.life ≠ .exited then readOp wide false f.a (s.group gid) t else 0
  | none => 0

/-- The source lane of SHFL for lane `i` of a segment of width `sg`, with `k` from B (R159). -/
def shflSource (mode sg i k : Nat) : Nat :=
  let base := i - i % sg
  match mode with
  | 0 => base + k % sg
  | 1 => if sg ≤ k ∨ i < base + k then i else i - k
  | 2 => if sg ≤ k ∨ base + sg ≤ i + k then i else i + k
  | _ => i ^^^ (k % sg)

/-- SHFL (R159). -/
def xShfl (f : Fields) (s : State) : State :=
  s.runPlain f State.noFault
    (fun tid t =>
      let gid := gidOf tid
      let sg := if f.c = 0 then s.widthOf gid else 2 ^ f.c
      let k := (f.opB false (s.group gid) t).toNat % 2 ^ 32
      f.toVec f.is64 (laneReg s gid f f.is64 (shflSource f.low3 sg (laneOf tid) k)) t)
    (fun _ => [])

/-- A mask with the home lanes of a list of threads. -/
def laneMask (tids : List Nat) : DWord := BitVec.ofNat 64 ((tids.map (fun t => 2 ^ laneOf t)).foldl (· ||| ·) 0)

/-- VOTE (R160). -/
def xVote (f : Fields) (s : State) : State :=
  let ok := s.acting f State.noFault
  let on (gid : Nat) : List Nat := (ofGroup ok gid).filter (fun t => (s.thread t).pred f.a)
  let outcome (gid : Nat) : Bool :=
    let n := (on gid).length
    let all := (ofGroup ok gid).length
    match f.low3 with
    | 0 => decide (0 < n)
    | 1 => decide (n = all)
    | _ => decide (n = 0) || decide (n = all)
  let wide (gid : Nat) : Bool := s.widthOf gid == 64
  s.runPlain f State.noFault
    (fun tid t =>
      let gid := gidOf tid
      if f.low3 = 3 then f.toVec (wide gid) (laneMask (on gid)) t else t.setPred f.d (outcome gid))
    (fun gid => if f.low3 = 3 then f.toScal (wide gid) (laneMask (on gid)) else [])

/-- MATCH (R161). -/
def xMatch (f : Fields) (s : State) : State :=
  let ok := s.acting f State.noFault
  s.runPlain f State.noFault
    (fun tid t =>
      let gid := gidOf tid
      let val (k : Nat) : DWord := f.opA f.is64 (s.group gid) (s.thread k)
      let same := (ofGroup ok gid).filter (fun k => val k == val tid)
      (f.toVec (s.widthOf gid == 64) (laneMask same) t).setPred f.c (decide (same.length = (ofGroup ok gid).length)))
    (fun _ => [])

/-- One combination step of REDUX and SCAN (R162). -/
def combine (f : Fields) (ftz : Bool) (r x : DWord) : DWord × Flags :=
  if f.ty = 4 then
    let a := r.toNat % 2 ^ 32
    let b := x.toNat % 2 ^ 32
    let y := match f.low3 with
      | 0 => fArith Fmt.f32 ⟨.rn, ftz, false⟩ 0 (Fmt.f32.decode ftz a) (Fmt.f32.decode ftz b) (.fin false 0 0)
      | 1 => fMinMax Fmt.f32 ftz false a b
      | _ => fMinMax Fmt.f32 ftz true a b
    (BitVec.ofNat 64 y.1, y.2)
  else
    let w := typeBits f.ty
    let z := f.c % 2 == 1
    let a := readInt w z r
    let b := readInt w z x
    (match f.low3 with
      | 0 => BitVec.ofNat 64 ((r.toNat + x.toNat) % 2 ^ w)
      | 1 => if b < a then x else r
      | 2 => if a < b then x else r
      | 3 => r &&& x
      | 4 => r ||| x
      | _ => r ^^^ x, 0)

/-- The value of the first participant (R162): FTZ applies to inputs, and an f32 NaN is canonical, a signalling one with NV (R31).
DEDUCED: log entry 44. -/
def firstValue (f : Fields) (ftz : Bool) (x : DWord) : DWord × Flags :=
  if f.ty = 4 then
    let a := x.toNat % 2 ^ 32
    let v := Fmt.f32.decode ftz a
    (BitVec.ofNat 64 (if v.isNan then Fmt.f32.nanCode else Fmt.f32.flushed ftz a), sigFlag [v])
  else (x, 0)

/-- The identity of an exclusive scan (R162). -/
def scanIdentity (f : Fields) : DWord :=
  let w := typeBits f.ty
  let z := f.c % 2 == 1
  let m := 2 ^ w
  if f.ty = 4 then (match f.low3 with | 0 => 0 | 1 => 0x7F800000 | _ => 0xFF800000)
  else match f.low3 with
    | 1 => BitVec.ofNat 64 (if z then m - 1 else m / 2 - 1)
    | 2 => BitVec.ofNat 64 (if z then 0 else m / 2)
    | 3 => BitVec.ofNat 64 (m - 1)
    | _ => 0

/-- The running values of a scan: for each participant in ascending lane order the value before and after it (R162). -/
def running (f : Fields) (ftz : Bool) : List (Nat × DWord) → Option DWord → List (Nat × Option DWord × DWord × Flags)
  | [], _ => []
  | (tid, x) :: rest, none =>
    let r := firstValue f ftz x
    (tid, none, r.1, r.2) :: running f ftz rest (some r.1)
  | (tid, x) :: rest, some p =>
    let r := combine f ftz p x
    (tid, some p, r.1, r.2) :: running f ftz rest (some r.1)

/-- The running values of the participants of a group; FPCR.FTZ of the lowest-numbered one governs (R162). -/
def groupRunning (s : State) (f : Fields) (ok : List Nat) (gid : Nat) : List (Nat × Option DWord × DWord × Flags) :=
  let ps := byLane (ofGroup ok gid)
  running f (s.thread (ps.getD 0 0)).ftz (ps.map (fun t => (t, f.opA f.is64 (s.group gid) (s.thread t)))) none

/-- REDUX (R162). -/
def xRedux (f : Fields) (s : State) : State :=
  let ok := s.acting f State.noFault
  let last (gid : Nat) : DWord := match (groupRunning s f ok gid).getLast? with | some e => e.2.2.1 | none => 0
  let fl (gid : Nat) : Flags := (groupRunning s f ok gid).foldl (fun a e => a ||| e.2.2.2) 0
  s.runPlain f State.noFault (fun tid t => (f.toVec f.is64 (last (gidOf tid)) t).orFlags (fl (gidOf tid)))
    (fun gid => f.toScal f.is64 (last gid))

/-- SCAN (R162). -/
def xScan (f : Fields) (s : State) : State :=
  let ok := s.acting f State.noFault
  let excl := f.c / 2 % 2 == 1
  s.runPlain f State.noFault
    (fun tid t =>
      let es := groupRunning s f ok (gidOf tid)
      let fl := es.foldl (fun a e => a ||| e.2.2.2) 0
      match es.find? (fun e => e.1 == tid) with
      | some e => (f.toVec f.is64 (if excl then e.2.1.getD (scanIdentity f) else e.2.2.1) t).orFlags fl
      | none => t)
    (fun _ => [])

/-- ELECT (R163). -/
def xElect (f : Fields) (s : State) : State :=
  let ok := s.acting f State.noFault
  s.runPlain f State.noFault (fun tid t => t.setPred f.d (decide (State.lowest (ofGroup ok (gidOf tid)) = tid))) (fun _ => [])

/-- VTOS (R164). -/
def xVtos (f : Fields) (s : State) : State :=
  s.runPlain f State.noFault (fun _ t => t)
    (fun gid =>
      let k := (f.opB false (s.group gid) (Thread.start 0 0)).toNat % 2 ^ 32 % s.widthOf gid
      f.toScal f.is64 (laneReg s gid f f.is64 k))

/-! The meaning of each row of the table of operations. -/

/-- SHFL (R159). -/
def execShfl (f : EForm) (s : State) : Host.Outcome State Fault Refusal := .next (xShfl (wideFields 0x14 0 f) s)

/-- VOTE (R160). -/
def execVote (f : EForm) (s : State) : Host.Outcome State Fault Refusal := .next (xVote (wideFields 0x14 1 f) s)

/-- MATCH (R161). -/
def execMatchLanes (f : EForm) (s : State) : Host.Outcome State Fault Refusal := .next (xMatch (wideFields 0x14 2 f) s)

/-- REDUX (R162). -/
def execRedux (f : EForm) (s : State) : Host.Outcome State Fault Refusal := .next (xRedux (wideFields 0x14 3 f) s)

/-- SCAN (R162). -/
def execScan (f : EForm) (s : State) : Host.Outcome State Fault Refusal := .next (xScan (wideFields 0x14 4 f) s)

/-- ELECT (R163). -/
def execElect (f : EForm) (s : State) : Host.Outcome State Fault Refusal := .next (xElect (wideFields 0x14 5 f) s)

/-- VTOS (R164). -/
def execVtos (f : EForm) (s : State) : Host.Outcome State Fault Refusal := .next (xVtos (wideFields 0x14 6 f) s)

end Sys2Proof.Machine
end

