-- ==== Sys2Proof/Machine/Linkage.lean ====
section
/-! DEFINITION. Symbolic references and the memory-control instructions (14 R237 to R255): CALLN, LDN, JMPN, LNKQ, SEGQ, PKRW,
PKRR and LEASEQ. -/

namespace Sys2Proof.Machine

/-- Entry LTB + k of the current code segment: its pointer, and whether k is an import of the segment (R251). -/
def linkEntry (f : Fields) (s : State) (gid : Nat) : Ptr × Bool :=
  let d := s.descOn (s.group gid).core (s.ctxOf gid) (segOf s.issue.self)
  let k := f.x.toNat
  (mkPtr 2 (8 * (d.ltbf.toNat + k)), decide (k < d.impn))

/-- The word of a linkage entry as a home read (R251, R263); `old` is the state in which the access was checked. -/
def linkWord (old s : State) (tid : Nat) (ep : Ptr) : Option (State × DWord × State.Met) :=
  match old.check (old.agent tid) ep 8 3 .read with
  | .ok _ (.home a) => let r := s.loadBytes tid a 8 true false; some (r.1, BitVec.ofNat 64 (leNat r.2.1), r.2.2)
  | _ => none

/-- The target of a BOUND entry (R243). -/
def linkTarget (w : DWord) : Ptr := mkPtr (w.extractLsb' 42 20).toNat ((w.extractLsb' 0 42).toNat * 4)

/-- FAUX of the two link faults (R234): the reason of a POISONED entry, the state read, the import index. -/
def linkAux (f : Fields) (w : DWord) : Word :=
  let st := (w.extractLsb' 62 2).toNat
  BitVec.ofNat 32 ((if st = 3 then (w.extractLsb' 32 8).toNat * 2 ^ 18 else 0) + st * 2 ^ 16 + f.x.toNat % 65536)

/-- The faults of CALLN, LDN, JMPN and LNKQ (R245, R251). DEDUCED: log entry 41. -/
def linkFault (f : Fields) (s : State) (tid : Nat) : Option Flt :=
  let gid := gidOf tid
  let e := linkEntry f s gid
  if !e.2 then some ⟨codeSegBounds, e.1, accessAux .read 3⟩
  else
    match s.check (s.agent tid) e.1 8 3 .read with
    | .bad c aux => some ⟨c, e.1, aux⟩
    | .ok _ _ =>
      match linkWord s s tid e.1 with
      | none => none
      | some (_, w, m) =>
        let st := (w.extractLsb' 62 2).toNat
        if f.mn = 3 ∨ m ≠ .sound then none
        else if st = 3 then some ⟨codeLinkFailed, e.1, linkAux f w⟩
        else if st ≠ 2 then some ⟨codeLinkUnbound, e.1, linkAux f w⟩
        else if f.mn = 0 ∧ segOf (linkTarget w) ≠ segOf s.issue.self ∧ 16 ≤ (s.thread tid).cross.length then
          some ⟨codeStackLimit, e.1, 16⟩
        else none

/-- CALLN's transfer (R251). -/
def calln (next self tgt : Ptr) (t : Thread) : Thread :=
  let cross := if segOf tgt = segOf self then t.cross else ⟨t.depth + 1, segOf self⟩ :: t.cross
  { t.link next with cross := cross, pc := tgt, issued := true }

/-- One thread's link operation: the read met an error (R380), or its effect. A transfer has no destination: its fault is the
instruction's own. -/
def linkOne (f : Fields) (old : State) (s : State) (tid : Nat) : State :=
  let e := linkEntry f old (gidOf tid)
  match linkWord old s tid e.1 with
  | none => s
  | some (s', w, m) =>
    let go (t : Thread) : Thread := { t.advance old.issue.next with issued := true }
    match m with
    | .sound =>
      match f.mn with
      | 0 => s'.modThread tid (calln old.issue.next old.issue.self (linkTarget w))
      | 2 => s'.modThread tid (fun t => { t with pc := linkTarget w, issued := true })
      | mn =>
        let x := if mn = 3 then w else linkTarget w
        let s' := s'.modThread tid (fun t => go (f.toVec true x t))
        s'.writeScalars [gidOf tid] (fun _ => f.toScal true x)
    | m =>
      if f.mn = 1 ∨ f.mn = 3 then
        (s'.consume tid e.1 .read 3 (if f.cd then .scal f.d 3 false else .vec f.d 3 false) m id).modThread tid go
      else
        let code := if m = .poisoned then codePoison else codeUncorrectable
        s'.deliver ⟨tid, code, e.1, s'.errorAux e.1 .read 3⟩ old.issue.pc old.issue.pc (BitVec.ofNat 32 (2 ^ (laneOf tid % 32)))

/-- The threads that read their linkage entry: k names an import and the read passes its checks (R251). -/
def linkReaders (f : Fields) (s : State) : List Nat :=
  (s.guarded f).filter (fun tid =>
    let e := linkEntry f s (gidOf tid)
    (s.decodeFault f tid).isNone && e.2 && (match s.check (s.agent tid) e.1 8 3 .read with | .ok _ _ => true | .bad _ _ => false))

/-- CALLN, LDN, JMPN and LNKQ (R251): an acquire at dev, then the read, whatever it finds (R266). -/
def xLink (f : Fields) (s : State) : State :=
  (s.acquireAll (State.groupsIn (linkReaders f s)) 3).runFlow f (linkFault f s) (fun ok s1 => ok.foldl (fun s' t => linkOne f s s' t) s1)

/-- The four words SEGQ writes (R253). -/
def segqWords (d : Desc) : List Word :=
  if d.valid then
    let b (x : Bool) (k : Nat) : Nat := if x then 2 ^ k else 0
    [BitVec.ofNat 32 (2 ^ 31 + d.type * 2 ^ 28 + b d.read 27 + b d.write 26 + b d.exec 25 + b d.sl 24 + b d.stub 23
        + d.home * 2 ^ 21 + (if d.type = 1 then d.impn % 2 ^ 17 else 0)),
      d.ltbf, BitVec.ofNat 32 (d.len / 2 ^ 32), BitVec.ofNat 32 d.len]
  else [0, 0, 0, 0]

/-- SEGQ (R253). -/
def xSegq (f : Fields) (s : State) : State :=
  s.runPlain f State.noFault (fun _ t => t)
    (fun gid =>
      let g := s.group gid
      let n := (f.opB false g (Thread.start 0 0)).toNat % 2 ^ 20
      scalFour f.d (segqWords (s.descOn g.core (s.ctxOf gid) n)))
where
  scalFour (d : Nat) (ws : List Word) : List (Nat × Word) :=
    if d = 127 then [] else (List.range ws.length).map (fun k => (d + k, ws.getD k 0))

/-- PKRW (R238, R254): one update for each group with a true guard, in ascending GIDX order, of the home copy and the core's. -/
def xPkrw (f : Fields) (s : State) : State :=
  s.runState f State.noFault (fun ok s1 =>
    (s.groups.keys.filter (fun g => (State.groupsIn ok).contains g)).foldl (fun s' gid =>
      let g := s.group gid
      let v := g.sreg64 f.a
      let m := g.sreg64 f.b
      let ctx := s.ctxOf gid
      let new := ((s'.context ctx).pkr &&& ~~~m) ||| (v &&& m)
      let s' := s'.modContext ctx (fun c => { c with pkr := new })
      { s' with pkrCopies := s'.pkrCopies.put (64 * g.core + ctx) new }) s1)

/-- PKRR (R254). -/
def xPkrr (f : Fields) (s : State) : State :=
  s.runPlain f State.noFault (fun _ t => t) (fun gid => f.toScal true (s.pkrCopy (s.group gid).core (s.ctxOf gid)))

/-- LEASEQ's outcome for a thread (R255). -/
def leaseqVal (f : Fields) (s : State) (tid : Nat) : Bool :=
  let gid := gidOf tid
  let g := s.group gid
  let t := s.thread tid
  let p := f.opA true g t
  let n := (f.opB false g t).toNat % 2 ^ 32
  let kind : Kind := match f.mod.toNat with | 1 => .read | 2 => .write | _ => .atomic
  let d := s.descOn g.core (s.ctxOf gid) (segOf p)
  leased (s.launchOf gid).leases kind (segOf p) (offOf p) (max n 1)
    || (d.valid && (d.type == 1 || d.type == 2 || d.type == 3 || d.type == 4 || d.type == 7) && decide (offOf p < d.len))

def xLeaseq (f : Fields) (s : State) : State :=
  s.runPlain f State.noFault (fun tid t => t.setPred f.d (leaseqVal f s tid)) (fun _ => [])

/-! The meaning of each row of the table of operations. -/

/-- CALLN (R251). -/
def execCalln (f : EForm) (s : State) : Host.Outcome State Fault Refusal := .next (xLink (wideFields 0x22 0 f) s)

/-- LDN (R251). -/
def execLdn (f : EForm) (s : State) : Host.Outcome State Fault Refusal := .next (xLink (wideFields 0x22 1 f) s)

/-- JMPN (R251). -/
def execJmpn (f : EForm) (s : State) : Host.Outcome State Fault Refusal := .next (xLink (wideFields 0x22 2 f) s)

/-- LNKQ (R251). -/
def execLnkq (f : EForm) (s : State) : Host.Outcome State Fault Refusal := .next (xLink (wideFields 0x22 3 f) s)

/-- SEGQ (R253). -/
def execSegq (f : EForm) (s : State) : Host.Outcome State Fault Refusal := .next (xSegq (wideFields 0x21 3 f) s)

/-- PKRW (R254). -/
def execPkrw (f : EForm) (s : State) : Host.Outcome State Fault Refusal := .next (xPkrw (wideFields 0x21 4 f) s)

/-- PKRR (R254). -/
def execPkrr (f : EForm) (s : State) : Host.Outcome State Fault Refusal := .next (xPkrr (wideFields 0x21 5 f) s)

/-- LEASEQ (R255). -/
def execLeaseq (f : EForm) (s : State) : Host.Outcome State Fault Refusal := .next (xLeaseq (wideFields 0x21 6 f) s)

end Sys2Proof.Machine
end

