-- ==== Sys2Proof/Machine/Matrix.lean ====
section
/-! DEFINITION. The matrix unit (16 R274 to R301): tiles and their reservation records, scratchpad descriptors, the matrix queue,
and TRSV, TREL, TLD, TLDV, TXV, MMA, MMAK, ACCZ, ACCLD, ACCST, ACCSP and ACCMV. An instruction checks and reads its registers at
issue and enters its group's queue; MATRIX_OP_COMPLETE performs the oldest operation of the queue. -/

namespace Sys2Proof.Machine

/-- A tile format's elements of a row and words of a row (R275). -/
def tileK (ty : Nat) : Nat :=
  match ty with
  | 4 => 16
  | 5 => 32
  | 6 => 32
  | _ => 64
def tileWords (ty : Nat) : Nat := if ty = 10 then 12 else 16

/-- The fields of a reservation record (R277). -/
def recV (r : DWord) : Bool := r.getLsbD 15
def recFmt (r : DWord) : Nat := (r.extractLsb' 8 4).toNat
def recRoleB (r : DWord) : Bool := r.getLsbD 7
/-- The block length a block code names: 0 unscaled, 16, 32, 64 (R277). -/
def blockLen (code : Nat) : Nat := if code = 0 then 0 else 8 * 2 ^ code
def recBlk (r : DWord) : Nat := blockLen (r.extractLsb' 5 2).toNat

/-- The record TRSV writes (R295): SOFF, SSTR, V, FMT, ROLE and BLK. -/
def trsvRecord (soff sstr : Word) (f : Fields) : DWord :=
  soff ++ sstr.extractLsb' 0 16 ++ (1 : BitVec 1) ++ (0 : BitVec 3) ++ f.mod.extractLsb' 3 4 ++ f.mod.extractLsb' 2 1
    ++ f.mod.extractLsb' 0 2 ++ (0 : BitVec 5)

/-- A tile's record in a group (R277): the reset value is 0. -/
def Group.tileRec (g : Group) (t : Nat) : DWord := g.tileRecs.getD t 0

/-- The scratchpad address of logical word `w` of row `r` of tile `i` under a descriptor (R279). -/
def descAddr (base word : Word) (i nw r w : Nat) : Word :=
  BitVec.ofNat 32 (base.toNat + i * (word.extractLsb' 16 12).toNat * 256 + r * (word.extractLsb' 0 16).toNat
    + 4 * ((w + r * (word.extractLsb' 28 4).toNat) % nw))

/-- Every word address of a tile's 64 rows, row by row (R279). -/
def descAddrs (base word : Word) (i nw : Nat) : List Word :=
  (List.range 64).flatMap (fun r => (List.range nw).map (fun w => descAddr base word i nw r w))

/-- Every scale byte address of a scaled tile, row by row (R278). -/
def scaleAddrs (r : DWord) : List Word :=
  if recBlk r = 0 then []
  else (List.range 64).flatMap (fun i => (List.range (tileK (recFmt r) / recBlk r)).map (fun j =>
    BitVec.ofNat 32 ((r.extractLsb' 32 32).toNat + i * (r.extractLsb' 16 16).toNat + j)))

/-- Every scale byte address of an ACCSP of block length `b` (R301). -/
def spillScaleAddrs (sc : Word) (b : Nat) : List Word :=
  if b = 0 then []
  else (List.range 64).flatMap (fun r => (List.range (64 / b)).map (fun j => BitVec.ofNat 32 (sc.toNat + r * (64 / b) + j)))

namespace State

/-- The fault of the lowest failing address of a list, each checked as a scratchpad access (R279). DEDUCED: log entry 50. -/
def checkSpads (s : State) (gid n size : Nat) (kind : Kind) (as : List Word) : Option Flt :=
  as.foldl (fun b a =>
    match s.checkSpad gid a n size kind with
    | .ok _ => b
    | .error e =>
      match b with
      | none => some e
      | some x => if e.addr.toNat < x.addr.toNat then some e else some x) none

end State

/-- TILE_UNRESERVED (R294). -/
def tileFlt (reason t2 t : Nat) : Flt := ⟨codeTile, 0, BitVec.ofNat 32 (reason * 2 ^ 28 + t2 * 256 + t)⟩

/-- The tiles an instruction's record check names, field A or D before field B, with the role an operand of MMA must have: is it B (R294)?
TRSV names none. -/
def tilesNamed (f : Fields) : List (Nat × Option Bool) :=
  match f.maj, f.mn with
  | 0x23, 0 => []
  | 0x23, 4 => [(f.a, none)]
  | 0x23, _ => [(f.d, none)]
  | 0x24, 0 => [(f.a, some false), (f.b, some true)]
  | 0x24, _ => [(f.a, none)]
  | _, _ => []

/-- What keeps an instruction from one tile it names: it is not reserved, or it has not the role it is named in (R294). -/
def tileBad (g : Group) (n : Nat × Option Bool) : Option Flt :=
  if !recV (g.tileRec n.1) then some (tileFlt 1 0 n.1)
  else if n.2.any (fun b => b != recRoleB (g.tileRec n.1)) then some (tileFlt 2 0 n.1)
  else none

/-- The record check (R282, R294): each tile named in turn, then that the two of an MMA are of one K. -/
def tileFault (f : Fields) (g : Group) : Option Flt :=
  ((tilesNamed f).findSome? (tileBad g)).orElse (fun _ =>
    if f.maj = 0x24 ∧ f.mn = 0 ∧ tileK (recFmt (g.tileRec f.a)) ≠ tileK (recFmt (g.tileRec f.b)) then some (tileFlt 3 f.b f.a) else none)

/-- The scalars an operation reads at issue (R282): descriptor pairs, the row operand, ACCSP's scale address. -/
def matScal (f : Fields) (g : Group) : List Word :=
  match f.maj, f.mn with
  | 0x23, 2 => [g.sreg f.a, g.sreg (f.a + 1)]
  | 0x24, 0 =>
    let x := f.x.toNat
    [g.sreg (x % 256), g.sreg (x % 256 + 1), g.sreg (x / 256 % 256), g.sreg (x / 256 % 256 + 1)]
  | 0x25, 3 => [g.sreg f.b, g.sreg (f.b + 1), g.sreg f.c]
  | _, _ => [if f.xb then f.x else g.sreg f.b]

/-- A scalar an operation read. -/
def MatOp.s (o : MatOp) (k : Nat) : Word := o.scal.getD k 0

/-- The addresses of the data rows an operation reads or writes in scratchpad (R279, R297, R301). -/
def dataAddrs (o : MatOp) : List Word :=
  let x := o.f.x.toNat
  let nw (k : Nat) : Nat := tileWords (recFmt (o.recs.getD k 0))
  match o.f.maj, o.f.mn with
  | 0x23, 2 => descAddrs (o.s 0) (o.s 1) (x % 256) (nw 0)
  | 0x24, 0 =>
    (if o.f.modBit 0 then descAddrs (o.s 0) (o.s 1) (x / 65536 % 256) (nw 0) else [])
      ++ (if o.f.modBit 1 then descAddrs (o.s 2) (o.s 3) (x / 16777216) (nw 1) else [])
  | 0x25, 3 => descAddrs (o.s 0) (o.s 1) (x % 256) (if o.f.ty = 4 then 64 else if o.f.ty = 6 then 32 else 16)
  | _, _ => []

/-- The block length of an ACCSP (R293). -/
def spillBlk (f : Fields) : Nat := if f.ty = 9 then blockLen (f.x.toNat / 256 % 4) else 0

/-- The addresses of the scale bytes an operation reads or writes (R278, R297, R298, R301). -/
def scaleBytes (o : MatOp) : List Word :=
  match o.f.maj, o.f.mn with
  | 0x24, _ => o.recs.flatMap scaleAddrs
  | 0x25, 3 => spillScaleAddrs (o.s 2) (spillBlk o.f)
  | _, _ => []

/-- Does the operation write scratchpad? Only ACCSP does. -/
def matKind (f : Fields) : Kind := if f.maj = 0x25 ∧ f.mn = 3 then .write else .read

/-- The vector lanes an operation reads at issue (R282, R291, R296, R300): TLDV's words and the perm indices by lane, ACCLD's words
by element. Lanes of exited threads supply zero. -/
def matVec (w : Nat) (f : Fields) (lane : Nat → Nat → Word) : Tab Word :=
  match f.maj, f.mn with
  | 0x23, 3 => (List.range w).map (fun l => (l, lane l f.a))
  | 0x24, 1 => if f.mod.extractLsb' 0 2 = 1 then (List.range w).map (fun l => (l, lane l f.b)) else []
  | 0x25, 1 => (List.range 128).map (fun e => (e, if f.a = 255 then 0 else lane (e % w) (f.a + e / w)))
  | _, _ => []

namespace State

/-- A register of a home lane's thread; zero where the lane holds none that runs (R150). -/
def laneWord (s : State) (gid l n : Nat) : Word :=
  match s.threads.get? (tidAt gid l) with
  | some t => if t.life = .exited then 0 else t.reg n
  | none => 0

/-- The operation an instruction queues (R282). -/
def matOp (s : State) (gid : Nat) (f : Fields) : MatOp :=
  let g := s.group gid
  ⟨s.turn, f, matScal f g, matVec (s.widthOf gid) f (s.laneWord gid), (tilesNamed f).map (fun n => g.tileRec n.1)⟩

/-- The checks of R282 after the decoding faults: the record, then the scratchpad words and bytes, data rows before scales. -/
def matFault (s : State) (f : Fields) (tid : Nat) : Option Flt :=
  let gid := gidOf tid
  let o := s.matOp gid f
  (tileFault f (s.group gid)).orElse (fun _ =>
    (s.checkSpads gid 4 2 (matKind f) (dataAddrs o)).orElse (fun _ =>
      s.checkSpads gid 1 0 (matKind f) (scaleBytes o)))

/-- An operation enters a group's queue (R283). -/
def enqueue (s : State) (gid : Nat) (o : MatOp) : State := s.modGroup gid (fun g => { g with mqueue := g.mqueue ++ [o] })

end State

/-- TRSV: the record at issue, the zeroing of the tile queued (R295). -/
def xTrsv (f : Fields) (s : State) : State :=
  s.runState f State.noFault (fun ok s1 =>
    (State.groupsIn ok).foldl (fun s' gid =>
      let g := s.group gid
      let soff := g.sreg f.a
      let sstr := if f.a = 127 then 0 else g.sreg (f.a + 1)
      (s'.modGroup gid (fun g => { g with tileRecs := g.tileRecs.putD f.d (trsvRecord soff sstr f) 0 })).enqueue gid (s.matOp gid f)) s1)

/-- TREL: V cleared at issue (R295). -/
def xTrel (f : Fields) (s : State) : State :=
  s.runState f (s.matFault f) (fun ok s1 =>
    (State.groupsIn ok).foldl (fun s' gid =>
      (s'.modGroup gid (fun g => { g with
        tileRecs := g.tileRecs.putD f.d (g.tileRec f.d &&& ~~~(0x8000 : DWord)) 0 })).enqueue gid (s.matOp gid f)) s1)

/-- An element of a tile row held exactly (R30, R37, R41, R45, R275). -/
def tileElem (ty k : Nat) (row : List Byte) : Num :=
  match ty with
  | 4 => Fmt.f32.decode false (leNat ((row.drop (4 * k)).take 4))
  | 5 => Fmt.f16.decode false (leNat ((row.drop (2 * k)).take 2))
  | 6 => Fmt.bf16.decode false (leNat ((row.drop (2 * k)).take 2))
  | 9 => tapValue 8 (row.getD k 0).toNat
  | _ => tapValue 6 (leNat ((row.drop (3 * (k / 4))).take 3) / 2 ^ (6 * (k % 4)) % 64)

/-- An element under its block scale: −128 makes it NaR (R44). -/
def scaled (x : Num) (sc : Byte) : Num := if sc = 0x80 then .nan false else x.scale sc.toInt

/-- The flags of one group, and its sum rounded once: exact products `ps`, or none for 0 × ∞; `nan` when an element is a NaN or NaR,
`sig` when one is signalling (R288, R289). DEDUCED: log entry 106. -/
def groupSum (nan sig : Bool) (ps : List (Option Num)) : Nat × Flags :=
  let fl : Flags := if sig then flagNV else 0
  let bad := ps.any Option.isNone || (ps.any (· == some (.inf false)) && ps.any (· == some (.inf true)))
  if nan || bad then (Fmt.f32.nanCode, fl ||| (if bad then flagNV else 0))
  else if ps.any (· == some (.inf false)) then (Fmt.f32.signed false Fmt.f32.infCode, fl)
  else if ps.any (· == some (.inf true)) then (Fmt.f32.signed true Fmt.f32.infCode, fl)
  else
    let fin := ps.filterMap (fun p => match p with | some (.fin s m e) => some (s, m, e) | _ => none)
    let low := fin.foldl (fun b x => min b x.2.2) 0
    let v := fin.foldl (fun (t : Int) x =>
      let n : Int := (x.2.1 * 2 ^ (x.2.2 - low).toNat : Nat)
      if x.1 then t - n else t + n) 0
    let neg := decide (v < 0) || (v == 0 && !fin.isEmpty && fin.all (fun x => x.1 && x.2.1 == 0))
    let r := (Num.fin neg v.natAbs low).round Fmt.f32 ⟨.rn, false, false⟩
    (r.1, fl ||| r.2)

/-- One group of products of A's and B's elements (R288). A NaN element takes part in no product. -/
def productSum (as bs : List Num) : Nat × Flags :=
  groupSum (as.any Num.isNan || bs.any Num.isNan) (as.any Num.isSig || bs.any Num.isSig)
    ((as.zip bs).filterMap (fun p => if p.1.isNan || p.2.isNan then none else some (mulNum p.1 p.2)))

/-- One group of terms whose other factor is 1 (R291). -/
def termSum (xs : List Num) : Nat × Flags :=
  groupSum (xs.any Num.isNan) (xs.any Num.isSig) ((xs.filter (fun x => !x.isNan)).map some)

/-- Group results added to an accumulator element in order, each sum rounded (R288, R289), the order that R290's example shows. -/
def accumulate (a : Word) (xs : List (Nat × Flags)) : Word × Flags :=
  xs.foldl (fun r x =>
    let y := fArith Fmt.f32 ⟨.rn, false, false⟩ 0 (Fmt.f32.decode false r.1.toNat) (Fmt.f32.decode false x.1) (.fin false 0 0)
    (BitVec.ofNat 32 y.1, r.2 ||| x.2 ||| y.2)) (a, 0)

/-- The group length of a format (R275), and of an MMA of two tiles (R288, R290). -/
def groupLen (ty : Nat) : Nat :=
  match ty with
  | 4 => 4
  | 5 => 16
  | 6 => 16
  | _ => 32
def mmaLen (ra rb : DWord) : Nat :=
  if recFmt ra < 9 then groupLen (recFmt ra)
  else
    match [recBlk ra, recBlk rb].filter (· != 0) with
    | [] => 32
    | n :: r => r.foldl min n

/-- A list cut into pieces of `n`. -/
def chunks {α : Type} (n : Nat) : Nat → List α → List (List α)
  | 0, _ => []
  | k + 1, l => l.take n :: chunks n k (l.drop n)

/-- MMA over decoded rows: every element of the accumulator in row order (R288, R290). -/
def mmaAll (acc : List Word) (as bs : List (List Num)) (k len : Nat) : List (Word × Flags) :=
  let cut (rows : List (List Num)) : List (List (List Num)) := rows.map (fun r => chunks len (k / len) r)
  let bs := cut bs
  ((cut as).flatMap (fun ra => bs.map (fun rb => (ra, rb)))).zip acc |>.map (fun p =>
    accumulate p.2 ((p.1.1.zip p.1.2).map (fun q => productSum q.1 q.2)))

/-- The kind, side, transposition and shift of an MMAK, with its permutation (R291, R293). -/
structure Konst where
  kind : Nat
  right : Bool
  tr : Bool
  n : Int
  p : List Nat
  deriving DecidableEq, Repr

def konst (o : MatOp) : Konst :=
  ⟨(o.f.mod.extractLsb' 0 2).toNat, o.f.modBit 2, o.f.modBit 3, o.f.x.toInt,
    (List.range 64).map (fun i => ((o.vec.getD (i / 4) 0).toNat / 256 ^ (i % 4)) % 64)⟩

/-- The summed indices that the formula of R[i][j] names (R291). -/
def Konst.terms (c : Konst) (k i j : Nat) : List Nat :=
  let sum := if c.right then k else 64
  let mine := if c.right then j else i
  match c.kind with
  | 0 => if mine < sum then [mine] else []
  | 1 => if c.p.getD mine 0 < sum then [c.p.getD mine 0] else []
  | 2 => List.range sum
  | _ =>
    let x : Int := if c.right then (j : Int) - c.n else (i : Int) + c.n
    if 0 ≤ x ∧ x < sum then [x.toNat] else []

/-- The group results of R[i][j], in ascending order of the summed index (R291). -/
def Konst.groups (c : Konst) (rows : List (List Num)) (k len i j : Nat) : List (Nat × Flags) :=
  let ts := c.terms k i j
  (List.range ((if c.right then k else 64) / len)).map (fun g =>
    termSum ((ts.filter (fun x => x / len == g)).map (fun x =>
      if c.right then (rows.getD i []).getD x (.fin false 0 0) else (rows.getD x []).getD j (.fin false 0 0))))

/-- MMAK over a decoded tile: every element of the accumulator in row order; what R does not cover is unchanged (R291). -/
def mmakAll (acc : List Word) (c : Konst) (rows : List (List Num)) (k len : Nat) : List (Word × Flags) :=
  (acc.zip (List.range 4096)).map (fun e =>
    let i := if c.tr then e.2 % 64 else e.2 / 64
    let j := if c.tr then e.2 / 64 else e.2 % 64
    if c.right || decide (j < k) then accumulate e.1 (c.groups rows k len i j) else (e.1, 0))

/-- The scale and the codes of one block of an ACCSP to T8, with the flags (R301); a signalling NaN sets NV (R43).
DEDUCED: log entry 109. -/
def blockScale (xs : List Word) : Int × List Byte × Flags :=
  let vs := xs.map (fun x => Fmt.f32.decode false x.toNat)
  if vs.any Num.isNan then (-128, xs.map (fun _ => 0x80), sigFlag vs)
  else
    let tops := vs.filterMap (fun v => match v with
      | .fin _ m e => if m = 0 then none else some (e + Nat.log2 m)
      | _ => none)
    let sc : Int := match tops with
      | [] => 0
      | x :: r => max (-127) (min 127 (r.foldl max x))
    let rs := vs.map (fun v => (v.scale (-sc)).roundTap 8)
    (sc, rs.map (fun r => BitVec.ofNat 8 r.1), rs.foldl (fun f r => f ||| r.2) 0)

/-- The bytes ACCSP writes for one row, its scale bytes, and the flags (R301). -/
def spillRow (f : Fields) (row : List Word) : List Byte × List Byte × Flags :=
  match f.ty with
  | 4 => (row.flatMap (fun x => leBytes 4 x.toNat), [], 0)
  | 6 =>
    let rs := row.map (fun x => (Fmt.f32.decode false x.toNat).round Fmt.bf16 ⟨.rn, false, false⟩)
    (rs.flatMap (fun r => leBytes 2 r.1), [], rs.foldl (fun f r => f ||| r.2) 0)
  | _ =>
    let rs := (chunks (spillBlk f) (64 / spillBlk f) row).map blockScale
    (rs.flatMap (·.2.1), rs.map (fun r => BitVec.ofInt 8 r.1), rs.foldl (fun f r => f ||| r.2.2) 0)

namespace State

/-- Scratchpad bytes at a word address as a queued operation reads them (R285). -/
def spadAt (s : State) (gid n : Nat) (a : Word) : List Byte :=
  match s.checkSpad gid a n 0 .read with
  | .ok (k, o) => (List.range n).map (fun j => (s.team k).spad.getD (o + j) 0)
  | .error _ => []

/-- Bytes written at a scratchpad address by ACCSP. -/
def spadPut (s : State) (gid : Nat) (a : Word) (bs : List Byte) : State :=
  match s.checkSpad gid a bs.length 0 .write with
  | .ok (k, o) => s.spadCells k ((List.range bs.length).map (fun j => (o + j, bs.getD j 0)))
  | .error _ => s

/-- A tile's bytes replaced from `at_` on. -/
def putTile (s : State) (gid t at_ : Nat) (bs : List Byte) : State :=
  s.modGroup gid (fun g => { g with tiles := g.tiles.putRange (4096 * t + at_) bs.length (fun k => bs.getD k 0) 0 })

/-- A tile's rows of a format, as bytes. -/
def tileRows (s : State) (gid t nw : Nat) : List (List Byte) :=
  chunks (4 * nw) 64 ((s.group gid).tiles.getRange (4096 * t) (256 * nw) 0)

/-- An accumulator's 4,096 elements in row order. -/
def accAll (s : State) (gid a : Nat) : List Word := (s.group gid).accs.getRange (4096 * a) 4096 0
/-- Accumulator elements replaced from element `e` on. -/
def putAcc (s : State) (gid a e : Nat) (xs : List Word) : State :=
  s.modGroup gid (fun g => { g with accs := g.accs.putRange (4096 * a + e) xs.length (fun k => xs.getD k 0) 0 })

/-- Flags raised by a completed operation (R287). -/
def matFlags (s : State) (gid : Nat) (fl : Flags) : State := s.modGroup gid (fun g => { g with mflags := g.mflags ||| fl })

/-- A tile filled from scratchpad (R296, R297). -/
def loadTile (s : State) (gid t : Nat) (r : DWord) (base word : Word) (i : Nat) : State :=
  s.putTile gid t 0 ((descAddrs base word i (tileWords (recFmt r))).flatMap (s.spadAt gid 4))

/-- A tile decoded under its record: 64 rows of K elements, each under its block scale (R275, R278, R288). -/
def tileNums (s : State) (gid t : Nat) (r : DWord) : List (List Num) :=
  let ty := recFmt r
  let k := tileK ty
  let b := recBlk r
  let scs := (scaleAddrs r).map (fun a => (s.spadAt gid 1 a).getD 0 0)
  ((s.tileRows gid t (tileWords ty)).zip (List.range 64)).map (fun row =>
    let mine := if b = 0 then [] else (scs.drop (row.2 * (k / b))).take (k / b)
    (List.range k).map (fun e =>
      let x := tileElem ty e row.1
      if b = 0 then x else scaled x (mine.getD (e / b) 0)))

/-- The first row of TLDV and TXV, and of ACCLD and ACCST (R296, R300). -/
def firstRow (w : Nat) (q : Word) : Nat := q.toNat % 64 / (w / 16) * (w / 16)
def rowPair (q : Word) : Nat := q.toNat % 64 / 2 * 2

/-- Words given to a vector register of each present lane of a group (R150). -/
def toLanes (s : State) (gid n : Nat) (v : Nat → Word) : State :=
  (s.presentOf gid).foldl (fun s tid => s.modBoth tid (fun t => t.setReg n (v (laneOf tid)))) s

/-- The effect of a queued operation (R295 to R301). -/
def perform (s : State) (gid : Nat) (o : MatOp) : State :=
  let f := o.f
  let w := s.widthOf gid
  let r0 := o.recs.getD 0 0
  let x := f.x.toNat
  match f.maj, f.mn with
  | 0x23, 0 => s.putTile gid f.d 0 (List.replicate 4096 0)
  | 0x23, 1 => s
  | 0x23, 2 => s.loadTile gid f.d r0 (o.s 0) (o.s 1) (x % 256)
  | 0x23, 3 =>
    let nw := tileWords (recFmt r0)
    (List.range (w / 16)).foldl (fun s j =>
      s.putTile gid f.d (4 * nw * (firstRow w (o.s 0) + j))
        ((List.range nw).flatMap (fun k => leBytes 4 (o.vec.getD (16 * j + k) 0).toNat))) s
  | 0x23, 4 =>
    let nw := tileWords (recFmt r0)
    let rows := s.tileRows gid f.a nw
    s.toLanes gid f.d (fun l =>
      if l % 16 < nw then
        BitVec.ofNat 32 (leNat (((rows.getD (firstRow w (o.s 0) + l / 16) []).drop (4 * (l % 16))).take 4)) else 0)
  | 0x24, 0 =>
    let rb := o.recs.getD 1 0
    let s := if f.modBit 0 then s.loadTile gid f.a r0 (o.s 0) (o.s 1) (x / 65536 % 256) else s
    let s := if f.modBit 1 then s.loadTile gid f.b rb (o.s 2) (o.s 3) (x / 16777216) else s
    let rs := mmaAll (s.accAll gid f.d) (s.tileNums gid f.a r0) (s.tileNums gid f.b rb) (tileK (recFmt r0)) (mmaLen r0 rb)
    (s.putAcc gid f.d 0 (rs.map (·.1))).matFlags gid (rs.foldl (fun b r => b ||| r.2) 0)
  | 0x24, _ =>
    let rs := mmakAll (s.accAll gid f.d) (konst o) (s.tileNums gid f.a r0) (tileK (recFmt r0)) (groupLen (recFmt r0))
    (s.putAcc gid f.d 0 (rs.map (·.1))).matFlags gid (rs.foldl (fun b r => b ||| r.2) 0)
  | 0x25, 0 => s.putAcc gid f.d 0 (List.replicate 4096 0)
  | 0x25, 1 => s.putAcc gid f.d (64 * rowPair (o.s 0)) ((List.range 128).map (fun e => o.vec.getD e 0))
  | 0x25, 2 =>
    let acc := s.accAll gid f.a
    (List.range (accRegs w)).foldl (fun s j =>
      if f.d = 255 then s else s.toLanes gid (f.d + j) (fun l => acc.getD (64 * rowPair (o.s 0) + w * j + l) 0)) s
  | 0x25, 3 =>
    let rows := (chunks 64 64 (s.accAll gid f.a)).map (spillRow f)
    let data := chunks 4 4096 (rows.flatMap (·.1))
    let s := ((dataAddrs o).zip data).foldl (fun s e => s.spadPut gid e.1 e.2) s
    let s := ((scaleBytes o).zip (rows.flatMap (·.2.1))).foldl (fun s e => s.spadPut gid e.1 [e.2]) s
    s.matFlags gid (rows.foldl (fun b r => b ||| r.2.2) 0)
  | _, _ => s.putAcc gid f.d 0 (s.accAll gid f.a)

end State

/-- What ACCST and ACCSP put out (R385): the registers or the scratchpad bytes they write. -/
def accOut (f : Fields) (tid : Nat) (s : State) : Output :=
  let gid := gidOf tid
  let o := s.matOp gid f
  let v := s.perform gid o
  let word (a : Word) (n : Nat) : List Byte :=
    match s.checkSpad gid a n 0 .write with
    | .ok (k, off) => (v.team k).spad.bytes off n
    | .error _ => []
  Output.plain (((dataAddrs o).headD 0).setWidth 64)
    (if f.mn = 2 then (s.threadsOf gid).flatMap (fun t => (List.range (accRegs (s.widthOf gid))).flatMap (fun k => leBytes 4 ((v.thread t).reg (f.d + k)).toNat))
     else (dataAddrs o).flatMap (fun a => word a 4) ++ (scaleBytes o).flatMap (fun a => word a 1))

/-- The comparison of an ACCST or ACCSP, for which its group's queue is empty. -/
def State.accShadow (s : State) (f : Fields) (tid : Nat) : Option Flt :=
  if f.maj = 0x25 ∧ (f.mn = 2 ∨ f.mn = 3) then s.shadowFault tid (accOut f tid) else none

/-- TLD, TLDV, TXV, MMA, MMAK and the accumulator instructions: the checks, an output's comparison with the shadow's (R385), then the queue
(R282). -/
def xMatrix (f : Fields) (s : State) : State :=
  s.runState f (fun tid => (s.matFault f tid).orElse (fun _ => s.accShadow f tid)) (fun ok s1 => (State.groupsIn ok).foldl (fun s' g => s'.enqueue g (s.matOp g f)) s1)

/-- The vector registers a group's queued operations will write (R284). -/
def pendingVecs (w : Nat) (q : List MatOp) : List Nat :=
  q.flatMap (fun o =>
    match o.f.maj, o.f.mn with
    | 0x23, 4 => if o.f.d = 255 then [] else [o.f.d]
    | 0x25, 2 => if o.f.d = 255 then [] else (List.range (accRegs w)).map (o.f.d + ·)
    | _, _ => [])

/-- The scratchpad bytes a group's queued operations read or write, as (team, offset, length) (R284). -/
def State.pendingSpad (s : State) (gid : Nat) (q : List MatOp) : List (Nat × Nat × Nat) :=
  q.flatMap (fun o =>
    ((dataAddrs o).map (fun a => (a, 4)) ++ (scaleBytes o).map (fun a => (a, 1))).filterMap (fun (e : Word × Nat) =>
      match s.checkSpad gid e.1 e.2 0 .read with
      | .ok (k, off) => some (k, off, e.2)
      | .error _ => none))

/-- The scratchpad bytes that an operation of a group reads travel to its shadow (R384). -/
def State.noteRows (s : State) (gid : Nat) (o : MatOp) : State :=
  if (s.group gid).shadow.isNone ∨ matKind o.f = .write then s
  else
    let rows := (s.pendingSpad gid [o]).flatMap (fun e => (List.range e.2.2).map (fun j =>
      (e.1, ((e.2.1 + j, (s.team e.1).spad.getD (e.2.1 + j) 0) : Host.Cell))))
    s.modGroup gid (fun g => { g with shadow := g.shadow.map (fun sh => { sh with
      lag := sh.lag.map (fun b => if b.turn = o.turn then { b with rows := b.rows ++ rows } else b) }) })

/-- MATRIX_OP_COMPLETE: the oldest operation of a group's queue takes effect and leaves the queue, after the group's own earlier
scratchpad stores (R283 to R287). -/
def evMatrixOpComplete (s : State) : State :=
  match s.subject with
  | .group gid =>
    match (s.group gid).mqueue with
    | [] => s
    | o :: r => ((((s.drainSpad gid).noteRows gid o)).perform gid o).modGroup gid (fun g => { g with mqueue := r })
  | _ => s

/-! The meaning of each row of the table of operations. -/

/-- TRSV (R295). -/
def execTrsv (f : EForm) (s : State) : Host.Outcome State Fault Refusal := .next (xTrsv (wideFields 0x23 0 f) s)

/-- TREL (R295). -/
def execTrel (f : EForm) (s : State) : Host.Outcome State Fault Refusal := .next (xTrel (wideFields 0x23 1 f) s)

/-- TLD (R296). -/
def execTld (f : EForm) (s : State) : Host.Outcome State Fault Refusal := .next (xMatrix (wideFields 0x23 2 f) s)

/-- TLDV (R296). -/
def execTldv (f : EForm) (s : State) : Host.Outcome State Fault Refusal := .next (xMatrix (wideFields 0x23 3 f) s)

/-- TXV (R296). -/
def execTxv (f : EForm) (s : State) : Host.Outcome State Fault Refusal := .next (xMatrix (wideFields 0x23 4 f) s)

/-- MMA (R297). -/
def execMma (f : EForm) (s : State) : Host.Outcome State Fault Refusal := .next (xMatrix (wideFields 0x24 0 f) s)

/-- MMAK (R298). -/
def execMmak (f : EForm) (s : State) : Host.Outcome State Fault Refusal := .next (xMatrix (wideFields 0x24 1 f) s)

/-- ACCZ (R299). -/
def execAccz (f : EForm) (s : State) : Host.Outcome State Fault Refusal := .next (xMatrix (wideFields 0x25 0 f) s)

/-- ACCLD (R300). -/
def execAccld (f : EForm) (s : State) : Host.Outcome State Fault Refusal := .next (xMatrix (wideFields 0x25 1 f) s)

/-- ACCST (R300). -/
def execAccst (f : EForm) (s : State) : Host.Outcome State Fault Refusal := .next (xMatrix (wideFields 0x25 2 f) s)

/-- ACCSP (R301). -/
def execAccsp (f : EForm) (s : State) : Host.Outcome State Fault Refusal := .next (xMatrix (wideFields 0x25 3 f) s)

/-- ACCMV (R299). -/
def execAccmv (f : EForm) (s : State) : Host.Outcome State Fault Refusal := .next (xMatrix (wideFields 0x25 4 f) s)

/-- MATRIX_OP_COMPLETE (R283). -/
def execMatrixOpComplete (s : State) : Host.Outcome State Fault Refusal := .next (evMatrixOpComplete s)

end Sys2Proof.Machine
end

