-- ==== Sys2Proof/Machine/Module.lean ====
section
/-! DEFINITION. The module as a whole: budget periods (20 R368), context resets and page reclaims (14 R241, 20 R363), Afterglow (21 R387,
R388), power-up (23 R417, R418), the thermal limits (23 R419), and the overlay and snapshot moves a domain makes of its own accord (15
R259 to R261). -/

namespace Sys2Proof.Machine

/-- SNAPSHOT_DROP (R260): a domain drops a snapshot line. -/
def evSnapshotDrop (s : State) : State :=
  match s.subject with
  | .line d l => s.modDomain d (fun p => { p with lines := p.lines.erase l })
  | _ => s

/-- STORE_PATH_DRAIN (R259): the oldest stores of a group enter its domain's overlay, in issue order. -/
def evStorePathDrain (s : State) : State :=
  match s.subject with
  | .stores g n => s.drainPath g n
  | _ => s

/-- OVERLAY_WRITEBACK (R261): overlay bytes of a domain go home. -/
def evOverlayWriteback (s : State) : State :=
  match s.subject with
  | .bytes d a n => s.flushBytes d a n
  | _ => s

/-- BUDGET_PERIOD (R368): the counts restart. -/
def evBudgetPeriod (s : State) : State := { s with used := [], slotUse := [] }

namespace State

/-- A present entry of a page table: its index and its table address or itself (R235). -/
def tableEntries (s : State) (t : Nat) : List (Nat × DWord) :=
  (List.range 256).filterMap (fun i =>
    let e := s.homeWord (t + 8 * i)
    if e = 0 then none else some (i, e))

/-- The home addresses of the level-3 entries of a context that are present. -/
def leafAddrs (s : State) (ctx : Nat) : List Nat :=
  (s.tableEntries (s.context ctx).tableBase).flatMap (fun e0 =>
    match nextTable e0.2 with
    | none => []
    | some t1 => (s.tableEntries t1).flatMap (fun e1 =>
      match nextTable e1.2 with
      | none => []
      | some t2 => (s.tableEntries t2).flatMap (fun e2 =>
        match nextTable e2.2 with
        | none => []
        | some t3 => (s.tableEntries t3).filterMap (fun e3 => (leafEntry e3.2).map (fun _ => t3 + 8 * e3.1)))))

/-- The home address of the level-3 entry of a page of a context, if the walk reaches one (R235). -/
def leafAddr (s : State) (ctx page : Nat) : Option Nat :=
  let idx (k : Nat) : Nat := page * 65536 / 2 ^ k % 256 * 8
  match nextTable (s.homeWord ((s.context ctx).tableBase + idx 40)) with
  | none => none
  | some t1 =>
    match nextTable (s.homeWord (t1 + idx 32)) with
    | none => none
    | some t2 => (nextTable (s.homeWord (t2 + idx 24))).map (fun t3 => t3 + idx 16)

/-- Page entries cleared (R241). -/
def clearEntries (s : State) (as : List Nat) : State :=
  s.putCells (as.flatMap (fun a => (List.range 8).map (fun j => (a + j, 0))))

/-- Every cached translation and descriptor of a context dropped, with its denial entries (R232, R378, R413). -/
def invalidateContext (s : State) (ctx : Nat) : State :=
  { s with
    pages := s.pages.filter (fun e => !(e.1 / 2 ^ 32 % 64 == ctx))
    descs := s.descs.filter (fun e => !(e.1 / 2 ^ 20 % 64 == ctx))
    dies := s.dies.mapKV (fun _ d => { d with denial := d.denial.filter (fun x => x.ctx != ctx) }) }

/-- A team receives CONTEXT_RESET and ends: FADDR and FAUX are 0 (R350, R363). DEDUCED: log entry 81. -/
def resetTeam (s : State) (k : Nat) : State :=
  let ts := (s.threadsOfTeam k).filter (fun t => decide ((s.thread t).life = .running))
  let rs := ts.map (fun t => (⟨t, codeContextReset, 0, 0⟩ : Raised))
  let s := rs.foldl (fun s r => s.modThread r.tid (fun t => t.record r t.pc (faultMask rs r.tid))) s
  s.endTeam k (some codeContextReset) true

/-- The teams of a context that have not ended. -/
def teamsOfCtx (s : State) (ctx : Nat) : List Nat :=
  (s.teams.filter (fun e => (s.launch e.2.launch).ctx == ctx && decide (e.2.place ≠ .ended))).map (·.1)

/-- Teams that have ended leave the dies' pending orders. -/
def dropPending (s : State) (ks : List Nat) : State :=
  { s with dies := s.dies.mapKV (fun _ d => { d with pending := d.pending.filter (fun k => !ks.contains k) }) }

/-- The commands of a context. -/
def commandsOf (s : State) (ctx : Nat) : List Nat := (s.commands.filter (fun e => e.2.ctx == ctx)).map (·.1)

/-- Has a LAUNCH been dispatched (R363)? -/
def dispatched (c : Command) : Bool :=
  match c.state with
  | .running => true
  | .moved _ _ => true
  | .recording _ _ _ => true
  | _ => false

/-- Step 2 of R363 for the launches of a context: each that was dispatched, and not cancelled before, is FAULTED with DETAIL 0x23; step 3:
every other command is cancelled, but for one whose work is done. -/
def resetCommands (s : State) (ctx : Nat) : State :=
  (s.commandsOf ctx).foldl (fun s k =>
    match s.command k with
    | none => s
    | some c =>
      match c.state with
      | .recording _ _ _ => s
      | .moved st _ => if c.type = 1 ∧ st ≠ 3 then s.finishCommand k (2, codeContextReset) else s
      | _ => if c.type = 1 ∧ dispatched c then s.finishCommand k (2, codeContextReset) else s.cancelCommand k) s

/-- What is on its way to host memory through some pages of a context is performed: no access reaches a frame once its page is reclaimed
(R241). -/
def hostDrain (s : State) (ctx : Nat) (on : Ptr → Nat → Bool) : State :=
  if s.hostUp then
    ((s.posted.filter (fun p => s.ctxOf p.gid == ctx && on p.addr p.data.length && !p.done)).foldl (fun s p => s.hostWrite p) s).hostReads
      (fun _ a => a.ctx == ctx && on a.addr a.len)
  else s

/-- The completions of a context's commands, in order of acceptance (R310, R312, R363). -/
def completeAll (s : State) (ctx : Nat) : State := (s.commandsOf ctx).foldl (fun s k => s.completeCommand k) s

end State

/-- CONTEXT_RESET (R363), its six steps in order; a context's Afterglow regions and denial entries go too (R387, R413).
DEDUCED: log entry 80. -/
def evContextReset (s : State) : State :=
  match s.subject with
  | .context ctx =>
    let s := s.modContext ctx (fun c => { c with stopped := true })
    let ks := s.teamsOfCtx ctx
    let s := (ks.foldl (fun s k => s.resetTeam k) s).dropPending ks
    let s := (s.resetCommands ctx).completeAll ctx
    let s := s.modContext ctx (fun c => { c with nodes := [], pool := 0, seals := [], resets := c.resets + 1 })
    let s := { s with regions := s.regions.filter (fun r => r.ctx != ctx) }
    let s := s.hostDrain ctx (fun _ _ => true)
    (s.clearEntries (s.leafAddrs ctx)).invalidateContext ctx
  | _ => s

namespace State

/-- Does a launch lease a byte of a device-virtual page (R239, R241)? -/
def leasesPage (s : State) (l : Launch) (page : Nat) : Bool :=
  l.leases.any (fun e =>
    let d := s.descHome l.ctx e.seg
    overlap (d.base + e.off) e.len (page * 65536) 65536)

/-- The commands in flight whose source or destination covers a page (R241). -/
def commandsOn (s : State) (ctx page : Nat) : List Nat :=
  (s.commands.filter (fun e => e.2.ctx == ctx && decide (e.2.state = .running) && e.2.type != 1 && (s.spansOf e.1 e.2).any (fun r =>
      overlap ((s.descHome ctx (segOf r.1)).base + offOf r.1) r.2 (page * 65536) 65536))).map (·.1)

/-- Is a page under a segment of a context-resident type while the context has a pending or running launch (R233, R240)? Such a page
stays present. -/
def pageStays (s : State) (ctx page : Nat) : Bool :=
  (s.teams.any (fun e => (s.launch e.2.launch).ctx == ctx && decide (e.2.place ≠ .ended)) ||
      s.commands.any (fun e => e.2.ctx == ctx && e.2.type == 1)) &&
    (List.range (s.context ctx).stl).any (fun g =>
      let d := s.descHome ctx g
      d.valid && !(d.type == 0 || d.type == 5 || d.type == 6) && overlap d.base d.len (page * 65536) 65536)

/-- Does a range from a pointer reach a page of a context? -/
def onPage (s : State) (ctx page : Nat) (p : Ptr) (n : Nat) : Bool :=
  overlap ((s.descHome ctx (segOf p)).base + offOf p) n (page * 65536) 65536

/-- Every cached translation of a page dropped, with the denial entries that came through it (R378, R413). -/
def invalidatePage (s : State) (ctx page : Nat) : State :=
  { s with
    pages := s.pages.filter (fun e => !(e.1 / 2 ^ 32 % 64 == ctx && e.1 % 2 ^ 32 == page))
    dies := s.dies.mapKV (fun _ d => { d with denial := d.denial.filter (fun x => !(x.ctx == ctx && x.via.any (fun v => v.2 == page))) }) }

end State

/-- PAGE_RECLAIM (R240, R241): the teams of launches that lease the page end, the commands on it are cancelled, and only then its entry is
cleared and TLBINV issued; while a copy still names the scratchpad of such a team (R316), the entry stands for a later turn. The code the
teams end with is log entry 17. -/
def evPageReclaim (s : State) : State :=
  match s.subject with
  | .page ctx page =>
    if s.pageStays ctx page then s
    else
    let ks := (s.teamsOfCtx ctx).filter (fun k => s.leasesPage (s.launch (s.team k).launch) page)
    let s1 := (ks.foldl (fun s k => s.endTeam k (Config.reclaimCode s.turn) true) s).dropPending ks
    let s2 := (s1.commandsOn ctx page).foldl (fun s k => s.cancelCommand k) s1
    if ks.any (fun k => decide ((s2.team k).place ≠ .ended)) then s2
    else
      let s3 := (s2.hostDrain ctx (s2.onPage ctx page)).invalidatePage ctx page
      match s3.leafAddr ctx page with
      | some a => s3.clearEntries [a]
      | none => s3
  | _ => s

/-- AFTERGLOW_REGISTER (R387): a 64 KiB-aligned range of a DATA segment, unless a limit would be broken. -/
def evAfterglowRegister (s : State) : State :=
  match s.subject with
  | .region ctx seg off len =>
    (s.registerRegion ctx seg off len).getD s
  | _ => s

namespace State

/-- A region copied to flash (R386, R388): its bytes, the lines written with a poison flag, and its digest. -/
def copyRegion (s : State) (r : Region) : State × GlowRegion :=
  let ps := s.pieces r.ctx (mkPtr r.seg r.off) r.len
  let lines := ps.flatMap (fun q => match q.1 with | .home a => linesOf a q.2 | .far _ => [])
  let m := lines.foldl (fun (b : State × List Nat) l =>
    let x := b.1.meetLine l
    (x.1, match x.2 with | .sound => b.2 | _ => b.2 ++ [l])) (s, [])
  let bytes := ps.flatMap (fun q => match q.1 with
    | .home a => m.1.homeBytes a q.2
    | .far (.host h) => m.1.hostMem.bytes h q.2
    | .far (.panel n g o) => (List.range q.2).map (fun k => Config.peerByte n g (o + k) m.1.turn))
  (m.1, ⟨r, bytes, m.2, Config.sha3 bytes⟩)

/-- Everything a domain holds for its groups goes home as a dev release; held stores, the entries of compare buffers and queued matrix
operations are discarded, and what is on its way to other homes is dropped (R388). -/
def flushAll (s : State) : State :=
  let s := { s with groups := s.groups.mapKV (fun _ g => { g with spec := none, mqueue := [], shadow := g.shadow.map Shadow.clear }), posted := [] }
  let s := s.groups.keys.foldl (fun s g => s.publish g 1) s
  s.domains.keys.foldl (fun s d => s.writeBack d) s

end State

/-- AFTERGLOW_POWER_FAIL (R388): issue stops, running commands stop with each block old or new, the domains are written home, the
regions and the manifest go to flash, and the module powers down: what is left is the flash, the host's memory and what was sent.
DESIGN CHOICE: log entry 129. -/
def evAfterglowPowerFail (s : State) : State :=
  if s.power ≠ .on then s
  else
    let run := (s.commands.filter (fun e => decide (e.2.state = .running) && e.2.type != 1)).map (·.1)
    let s1 := (run.foldl (fun s k => s.cancelCommand k) s).flushAll
    let r := s1.regions.foldl (fun (a : State × List GlowRegion) g =>
      let x := a.1.copyRegion g
      (x.1, a.2 ++ [x.2])) (s1, [])
    { State.reset with
      flash := some ⟨r.2, Config.manifestWhole s.turn⟩, minimum := s.minimum, hostMem := s.hostMem, outbox := s.outbox, turn := s.turn, cycle := s.cycle }

/-- MODULE_POWER_UP (R1, R3, R334, R417, R418): the image is verified before any core runs; one that fails leaves the module in recovery. One
that passes gives DEV, which is 0 on a single-module carrier, REBAL, the window and the capability table, which states the eight stacks of
96 GiB.
DEDUCED: log entry 83. -/
def evModulePowerUp (s : State) : State :=
  match s.subject with
  | .firmware im =>
    if s.power = .on then s
    else if im.signatureGood && decide (im.minimum ≤ im.version) && decide (s.minimum ≤ im.version)
        && decide (im.carrier ≤ 1) && decide (im.rebal ≤ 65535) && decide (im.windowSize % 2 ^ 28 = 0) && decide (im.windowSize ≤ 512 * 2 ^ 30)
        && im.stackSizes == List.replicate 8 (96 * 2 ^ 30) then
      let s1 := { s with
        power := .on, dev := if im.carrier = 1 then 0 else im.dev, minimum := max s.minimum im.minimum, hostUp := true,
        rebal := im.rebal,
        windowHost := im.windowHostBase, windowDevice := im.windowDeviceBase, windowSize := im.windowSize }
      let s2 := (List.range 32).foldl (fun s p => s.trainPort p) s1
      { s2 with capTable := s2.buildTable im }
    else { s with power := .recovery }
  | _ => s

/-- THERMAL_THROTTLE (R419): the arithmetic clock halves; timing only. -/
def evThermalThrottle (s : State) : State := { s with halved := true }

/-- THERMAL_STOP (R419): issue stops, and a management alert is raised. -/
def evThermalStop (s : State) : State := { s with stopped := true, outbox := s.outbox ++ [.alert] }

/-! The meaning of each row of the table of operations. -/

/-- SNAPSHOT_DROP (R260). -/
def execSnapshotDrop (s : State) : Host.Outcome State Fault Refusal := .next (evSnapshotDrop s)

/-- STORE_PATH_DRAIN (R259). -/
def execStorePathDrain (s : State) : Host.Outcome State Fault Refusal := .next (evStorePathDrain s)

/-- OVERLAY_WRITEBACK (R261). -/
def execOverlayWriteback (s : State) : Host.Outcome State Fault Refusal := .next (evOverlayWriteback s)

/-- BUDGET_PERIOD (R368). -/
def execBudgetPeriod (s : State) : Host.Outcome State Fault Refusal := .next (evBudgetPeriod s)

/-- CONTEXT_RESET (R363). -/
def execContextReset (s : State) : Host.Outcome State Fault Refusal := .next (evContextReset s)

/-- PAGE_RECLAIM (R241). -/
def execPageReclaim (s : State) : Host.Outcome State Fault Refusal := .next (evPageReclaim s)

/-- AFTERGLOW_REGISTER (R387). -/
def execAfterglowRegister (s : State) : Host.Outcome State Fault Refusal := .next (evAfterglowRegister s)

/-- AFTERGLOW_POWER_FAIL (R388). -/
def execAfterglowPowerFail (s : State) : Host.Outcome State Fault Refusal := .next (evAfterglowPowerFail s)

/-- MODULE_POWER_UP (R418). -/
def execModulePowerUp (s : State) : Host.Outcome State Fault Refusal := .next (evModulePowerUp s)

/-- THERMAL_THROTTLE (R419). -/
def execThermalThrottle (s : State) : Host.Outcome State Fault Refusal := .next (evThermalThrottle s)

/-- THERMAL_STOP (R419). -/
def execThermalStop (s : State) : Host.Outcome State Fault Refusal := .next (evThermalStop s)

end Sys2Proof.Machine
end

