-- ==== Sys2Proof/Machine/Ray.lean ====
section
/-! DEFINITION. Ray registers (12 R206 to R225): renormalisation on exact reals, and HNRM, HEXP, HDOT, HSCL, HADD, HNEG, HPROJ,
HLN, HSLN, HMOV, HCLS, HLD and HST. -/

namespace Sys2Proof.Machine

/-- The class of a ray (R207). -/
inductive RayClass where
  | normal | zero | infinite | invalid
  deriving DecidableEq, Repr

/-- A ray as the rules read it (R208): its class, its log norm in units of 2^−16, and its components in units of 2^−15, zeros for
a zero or an invalid ray, and its norm entry as it stands. -/
structure RayVal where
  cls : RayClass
  ln : Int
  d : List Int
  norm : Word
  deriving DecidableEq, Repr

/-- The class of a norm entry. -/
def normClass (x : Word) : RayClass :=
  match (x.extractLsb' 30 2).toNat with
  | 0 => .normal
  | 1 => .zero
  | 2 => .infinite
  | _ => .invalid

/-- The components held (R206): component 2i in the low half of lane i's word. DEDUCED: log entry 45. -/
def Group.heldDir (g : Group) (w r : Nat) : List Int :=
  (List.range w).flatMap (fun i => let x := (g.rayWord r i).toNat; [sint 16 (x % 65536), sint 16 (x / 65536)])

/-- A ray read under R208. -/
def Group.rayVal (g : Group) (w r : Nat) : RayVal :=
  let x := g.normEntry r
  match normClass x with
  | .zero => ⟨.zero, 0, List.replicate (2 * w) 0, x⟩
  | .invalid => ⟨.invalid, 0, List.replicate (2 * w) 0, x⟩
  | c => ⟨c, sint 24 x.toNat, g.heldDir w r, x⟩

/-- The direction words of a list of components. -/
def dirWords (d : List Int) : List Word :=
  (List.range (d.length / 2)).map (fun i =>
    BitVec.ofNat 32 ((BitVec.ofInt 16 (d.getD (2 * i) 0)).toNat + (BitVec.ofInt 16 (d.getD (2 * i + 1) 0)).toNat * 65536))

/-- The norm entry of a class and a log norm (R207). -/
def normWord (c : RayClass) (ln : Int) : Word :=
  match c with
  | .normal => (BitVec.ofInt 24 ln).setWidth 32
  | .zero => 0x40000000
  | .infinite => 0x807FFFFF
  | .invalid => 0xC0000000

/-- A ray of a class, a log norm and a direction, with the norm entry of R207. -/
def mkRay (c : RayClass) (ln : Int) (d : List Int) : RayVal := ⟨c, ln, d, normWord c ln⟩

/-- A ray of a class with no direction: zero components. -/
def bareRay (w : Nat) (c : RayClass) : RayVal := mkRay c 0 (List.replicate (2 * w) 0)

/-- The intermediate of R210: y_i = (u_i + v_i α) ÷ den × 2^sh with α = 2^(t ÷ 65536), and the exponent e in units of 2^−16. -/
structure Inter where
  u : List Int
  v : List Int
  t : Int
  den : Nat
  sh : Int
  e : Int
  deriving DecidableEq, Repr

def sumMul (a b : List Int) : Int := (List.zipWith (· * ·) a b).foldl (· + ·) 0

/-- More fraction bits for α where it may be tiny beside nothing else: 2^−256 is the least it can be. -/
def Inter.extra (y : Inter) : Nat := if y.u.all (· == 0) then 2400 else 600

/-- α in fixed point with `b` fraction bits: t is at most 0. -/
def alphaAt (b : Nat) (t : Int) : Int :=
  let n := t / 65536
  let f := t % 65536
  let x := if f = 0 then 2 ^ b else expAt b (f * ln2At b / 65536)
  if 0 ≤ n then x * 2 ^ n.toNat else x / 2 ^ (-n).toNat

/-- The magnitude of n × 2^(k ÷ 65536) × 2^sh. -/
def scaledMag (n : Nat) (k sh : Int) : Mag :=
  let i := k / 65536
  let f := k % 65536
  if n = 0 then ⟨0, 0, false⟩
  else if f = 0 then ⟨n, i + sh, false⟩
  else
    let r := refine (fun b => (n * expAt (b + 64) (f * ln2At (b + 64) / 65536)).toNat / 2 ^ 64)
    ⟨r.q, r.e + i + sh, true⟩

/-- A magnitude rounded to 24 significant bits, nearest-even: an integer and an exponent. -/
def Mag.round24 (x : Mag) : Nat × Int :=
  let e := x.e + Nat.log2 x.q - 23
  ((x.at e .rn false).1, e)

/-- 1 ÷ √(n ÷ d) for positive integers. -/
def rsqRat (n d : Nat) : Mag :=
  let k := 2 * (Nat.log2 n + 64)
  let x := d * 2 ^ k
  let q := isqrt (x / n) ((Nat.log2 (x / n)) / 2 + 2) 0
  ⟨q, -((k / 2 : Nat) : Int), decide (q * q * n ≠ x)⟩

/-- log2 (n ÷ d) in fixed point, for positive integers. -/
def log2Fixed (b n d : Nat) : Int :=
  let l : Int := (Nat.log2 n : Int) - Nat.log2 d
  let y : Int := if 0 ≤ l then (n : Int) * 2 ^ b / (d * 2 ^ l.toNat : Nat) else (n : Int) * 2 ^ (b + (-l).toNat) / d
  let z := (y - 2 ^ b) * 2 ^ b / (y + 2 ^ b)
  let z2 := z * z / 2 ^ b
  let s := (List.range (b / 3 + 8)).foldl (fun (st : Int × Int) k => (st.1 + st.2 / (2 * k + 1 : Nat), st.2 * z2 / 2 ^ b)) (0, z)
  l * 2 ^ b + 2 * s.1 * 2 ^ b / ln2At b

/-- The nearest integer to x ÷ d, ties to even. -/
def nearest (x : Int) (d : Nat) : Int :=
  let f := x / d
  let r := x % d
  if 2 * r < d then f else if (d : Int) < 2 * r then f + 1 else if f % 2 = 0 then f else f + 1

/-- The nearest integer to an approximation a × 2^−b off by less than 2^20 units, where it is certain. -/
def settleInt (a : Int) (b : Nat) : Option Int :=
  let lo := nearest (a - 2 ^ 20) (2 ^ b)
  if lo = nearest (a + 2 ^ 20) (2 ^ b) then some lo else none

/-- The nearest integer to a real that is no tie, from its approximations. -/
def refineInt (approx : Nat → Int) : Int :=
  match [256, 512, 1024, 2048].findSome? (fun b => settleInt (approx b) b) with
  | some x => x
  | none => nearest (approx 2048) (2 ^ 2048)

/-- S of R210 in units of 2^(2 sh) ÷ den², as A + 2 B α + C α²: in fixed point, or as an integer over a power of two where it is
rational. -/
def Inter.square (y : Inter) : Int × Int × Int := (sumMul y.u y.u, sumMul y.u y.v, sumMul y.v y.v)

/-- S as a ratio of integers, where it is rational (R210): α is a power of two, or α² is and B is 0, or only A is left. -/
def Inter.ratio (y : Inter) : Option (Nat × Nat) :=
  let (a, b, c) := y.square
  let pow (n : Int) : Int × Nat := if 0 ≤ n then (2 ^ n.toNat, 1) else (1, 2 ^ (-n).toNat)
  if b = 0 ∧ c = 0 then some (a.toNat, 1)
  else if y.t % 65536 = 0 then
    let p := pow (y.t / 65536)
    some ((a * p.2 * p.2 + 2 * b * p.1 * p.2 + c * p.1 * p.1).toNat, p.2 * p.2)
  else if b = 0 ∧ y.t % 32768 = 0 then
    let p := pow (y.t / 32768)
    some ((a * p.2 + c * p.1).toNat, p.2)
  else none

/-- S in fixed point. -/
def Inter.squareAt (y : Inter) (b : Nat) : Int :=
  let (p, q, r) := y.square
  let al := alphaAt b y.t
  p * 2 ^ b + 2 * q * al + r * al * al / 2 ^ b

/-- RENORMALISATION (R210), bit for bit: class, direction, log norm and flags. -/
def Inter.renorm (y : Inter) (w : Nat) (inf : Bool) (onZero : RayClass) : RayVal × Flags :=
  let ratio := y.ratio
  let zero := match ratio with | some r => r.1 == 0 | none => false
  if zero then (bareRay w onZero, if onZero = .invalid then flagNV else 0)
  else
    -- 1/√S but for den and 2^sh, which are folded in exactly below
    let rs : Mag := match ratio with
      | some r => rsqRat (r.1 * 1) (r.2 * (y.den * y.den))
      | none => refine (fun b => 
          isqrt (2 ^ (2 * b) * 2 ^ (b + y.extra) * (y.den * y.den) / (y.squareAt (b + y.extra)).toNat) (b + 400) 0)
    let q := rs.round24
    let qe := q.2 - y.sh
    let comp (i : Nat) : Int :=
      let u := y.u.getD i 0
      let v := y.v.getD i 0
      -- y_i × q × 2^15
      let x : Int := qe + y.sh + 15
      let p (n : Int) (b : Nat) : Int := if 0 ≤ x + b then n * 2 ^ (x + b).toNat else n / 2 ^ (-(x + b)).toNat
      if v = 0 then
        if 0 ≤ x then nearest (u * q.1 * 2 ^ x.toNat) y.den else nearest (u * q.1) (y.den * 2 ^ (-x).toNat)
      else if y.t % 65536 = 0 then
        let k := (y.t / 65536)
        let uv := if 0 ≤ k then u + v * 2 ^ k.toNat else u * 2 ^ (-k).toNat + v
        let x := if 0 ≤ k then x else x + k
        if 0 ≤ x then nearest (uv * q.1 * 2 ^ x.toNat) y.den else nearest (uv * q.1) (y.den * 2 ^ (-x).toNat)
      else
        refineInt (fun b =>
          p ((u * 2 ^ (b + y.extra) + v * alphaAt (b + y.extra) y.t) * q.1) b / (2 ^ (b + y.extra) * (y.den : Int)))
    let d := (List.range (2 * w)).map (fun i => let k := comp i; if k < -32768 then -32768 else if 32767 < k then 32767 else k)
    if inf then (mkRay .infinite 0 d, 0)
    else
      -- ½ log2 S, in units of 2^−16
      let half := refineInt (fun b =>
        let c := b + 32
        let l := match ratio with
          | some r => log2Fixed c r.1 r.2
          | none => log2Fixed c (y.squareAt (c + y.extra)).toNat (2 ^ (c + y.extra))
        (l - 2 * log2Fixed c y.den 1) * 32768 / 2 ^ 32 + (y.e + y.sh * 65536) * 2 ^ b)
      if 128 * 65536 ≤ half then (mkRay .infinite 0 d, flagOF)
      else if half < -128 * 65536 then (bareRay w .zero, flagUF)
      else (mkRay .normal half d, 0)

/-- HNRM (R216): the components of the group's lanes. -/
def hnrm (w : Nat) (xs : List Num) : RayVal × Flags :=
  if xs.any Num.isNan then (bareRay w .invalid, if xs.any Num.isSig then flagNV else 0)
  else if xs.any Num.isInf then
    Inter.renorm ⟨xs.map (fun x => if x.isInf then (if x.neg then -1 else 1) else 0), List.replicate xs.length 0, 0, 1, 0, 0⟩ w
      true .zero
  else
    let low := xs.foldl (fun m x => match x with | .fin _ n e => if n = 0 then m else min m e | _ => m) (0 : Int)
    let u := xs.map (fun x => match x with
      | .fin neg n e => if n = 0 then 0 else let k : Int := (n * 2 ^ (e - low).toNat : Nat); if neg then -k else k
      | _ => 0)
    Inter.renorm ⟨u, List.replicate u.length 0, 0, 1, low, 0⟩ w false .zero

/-- HADD (R220). -/
def hadd (w : Nat) (a b : RayVal) : RayVal × Flags :=
  let zeros := List.replicate (2 * w) (0 : Int)
  match a.cls, b.cls with
  | .invalid, _ => (bareRay w .invalid, 0)
  | _, .invalid => (bareRay w .invalid, 0)
  | .zero, .zero => (bareRay w .zero, 0)
  | .zero, _ => (b, 0)
  | _, .zero => (a, 0)
  | .infinite, .infinite => Inter.renorm ⟨List.zipWith (· + ·) a.d b.d, zeros, 0, 1, -15, 0⟩ w true .invalid
  | .infinite, _ => (a, 0)
  | _, .infinite => (b, 0)
  | .normal, .normal =>
    if b.ln ≤ a.ln then Inter.renorm ⟨a.d, b.d, b.ln - a.ln, 1, -15, a.ln⟩ w false .zero
    else Inter.renorm ⟨b.d, a.d, a.ln - b.ln, 1, -15, b.ln⟩ w false .zero

/-- HPROJ (R222). -/
def hproj (w : Nat) (a b : RayVal) : RayVal × Flags :=
  let q := sumMul b.d b.d
  let p := sumMul a.d b.d
  if a.cls = .invalid ∨ b.cls = .invalid then (bareRay w .invalid, 0)
  else if a.cls = .zero then (bareRay w .zero, 0)
  else if b.cls = .zero ∨ q = 0 then (a, 0)
  else
    let u := List.zipWith (fun x y => x * q - p * y) a.d b.d
    let y : Inter := ⟨u, List.replicate (2 * w) 0, 0, q.toNat, -15, a.ln⟩
    if a.cls = .infinite then Inter.renorm { y with e := 0 } w true .invalid else y.renorm w false .zero

/-- The log norm changed to L′; the direction stays as it is read (R209, R219). -/
def setLog (a : RayVal) (l : Int) : RayVal × Flags :=
  if 128 * 65536 ≤ l then (mkRay .infinite 0 a.d, flagOF)
  else if l < -128 * 65536 then (mkRay .zero 0 a.d, flagUF)
  else (mkRay .normal l a.d, 0)

/-- HSCL (R219): a signed delta in units of 2^−16. -/
def hscl (a : RayVal) (k : Int) : RayVal × Flags :=
  match a.cls with
  | .normal => setLog a (a.ln + k)
  | _ => (a, 0)

/-- HSLN (R219) from an f32 value or a signed word; the direction it keeps is that of the register. -/
def hsln (w : Nat) (a : RayVal) (flt : Bool) (x : Word) : RayVal × Flags :=
  let on (l : Int) : RayVal × Flags := if a.cls = .normal ∨ a.cls = .infinite then setLog a l else (a, 0)
  if flt then
    match Fmt.f32.decode false x.toNat with
    | .nan sig => (bareRay w .invalid, if sig then flagNV else 0)
    | .inf neg =>
      if a.cls = .normal ∨ a.cls = .infinite then (if neg then bareRay w .zero else mkRay .infinite 0 a.d, 0) else (a, 0)
    | y => on (rneScaled y 16)
  else on x.toInt

/-- An exact value n × 2^(k ÷ 65536) × 2^sh rounded to f32, nearest-even (R217, R218). -/
def roundScaled (n k sh : Int) : Nat × Flags :=
  (scaledMag n.natAbs k sh).round Fmt.f32 ⟨.rn, false, false⟩ (decide (n < 0))

/-- HEXP's value of a component (R217). -/
def hexpVal (a : RayVal) (d : Int) : Nat × Flags :=
  match a.cls with
  | .normal => roundScaled d a.ln (-15)
  | .zero => (0, 0)
  | .infinite => (if d = 0 then 0 else if d < 0 then 0xFF800000 else 0x7F800000, 0)
  | .invalid => (Fmt.f32.nanCode, 0)

/-- HDOT and HDOT.n (R218). -/
def hdotVal (n : Bool) (a b : RayVal) : Nat × Flags :=
  let s := sumMul a.d b.d
  if a.cls = .invalid ∨ b.cls = .invalid then (Fmt.f32.nanCode, 0)
  else if a.cls = .zero ∨ b.cls = .zero then
    (if n && (a.cls == .infinite || b.cls == .infinite) then (Fmt.f32.nanCode, flagNV) else (0, 0))
  else if n then
    if a.cls = .infinite ∨ b.cls = .infinite then
      (if s = 0 then (Fmt.f32.nanCode, flagNV) else (if s < 0 then 0xFF800000 else 0x7F800000, 0))
    else roundScaled s (a.ln + b.ln) (-30)
  else if 2 ^ 30 < s then (0x3F800000, flagNX)
  else if s < -(2 ^ 30) then (0xBF800000, flagNX)
  else roundScaled s 0 (-30)

/-- What is written: the direction words, the norm entry, and the flags of the ray as a whole (R211). -/
structure RayOut where
  words : List Word
  norm : Word
  flags : Flags

/-- A computed ray as it is written. -/
def RayVal.out (r : RayVal × Flags) : RayOut := ⟨dirWords r.1.d, r.1.norm, r.2⟩

/-- A scalar or X operand B of HSCL and HSLN. -/
def rayScalar (f : Fields) (g : Group) : Word := loWord (f.opB false g (Thread.start 0 0))

/-- The vector components of a group for HNRM (R212, R216): exited and absent lanes read zero. -/
def hnrmSource (s : State) (gid : Nat) (f : Fields) : List Num :=
  (List.range (s.widthOf gid)).flatMap (fun i =>
    if f.ty = 4 then
      let x := laneReg s gid f true i
      [Fmt.f32.decode false (hiWord x).toNat, Fmt.f32.decode false (loWord x).toNat]
    else
      let x := (laneReg s gid f false i).toNat
      let one (n : Nat) : Num := match f.ty with
        | 7 => Fmt.f16.decode false n
        | 8 => Fmt.bf16.decode false n
        | _ => Num.ofInt (sint 16 n) (-15)
      [one (x % 65536), one (x / 65536 % 65536)])

/-- What a ray-writing instruction writes for a group (R216 to R224). HSLN keeps the direction words of its ray, and HMOV.d copies
those of A whatever A's norm is (R213, R224). -/
def rayResult (s : State) (gid : Nat) (f : Fields) : RayOut :=
  let g := s.group gid
  let w := s.widthOf gid
  let a := g.rayVal w f.a
  let b := g.rayVal w f.b
  match f.maj, f.mn with
  | 0x18, 0 => RayVal.out (hnrm w (hnrmSource s gid f))
  | 0x18, 3 => RayVal.out (hscl a (rayScalar f g).toInt)
  | 0x18, 4 => RayVal.out (hadd w a b)
  | 0x18, 5 => ⟨dirWords (a.d.map (fun x => if x = -32768 then 32767 else -x)), a.norm, 0⟩
  | 0x18, 6 => RayVal.out (hproj w a b)
  | 0x19, 1 =>
    let r := hsln w (g.rayVal w f.d) (f.ty == 4) (rayScalar f g)
    ⟨(List.range w).map (g.rayWord f.d), r.1.norm, r.2⟩
  | _, _ => if f.modBit 0 then ⟨(List.range w).map (g.rayWord f.a), g.normEntry f.d, 0⟩ else ⟨dirWords a.d, a.norm, 0⟩

/-- An instruction that writes a ray: the flags of the ray reach every non-exited thread of the group (R211). -/
def xRayWrite (f : Fields) (s : State) : State :=
  s.runState f State.noFault (fun ok s1 =>
    (State.groupsIn ok).foldl (fun s' gid =>
      let r := rayResult s gid f
      let s' := s'.modGroup gid (fun g => g.setRay f.d r.words r.norm)
      s'.mapThreads (fun tid t => if gidOf tid = gid ∧ t.life ≠ .exited then t.orFlags r.flags else t)) s1)

/-- HEXP (R217). -/
def xHexp (f : Fields) (s : State) : State :=
  s.runPlain f State.noFault
    (fun tid t =>
      let gid := gidOf tid
      let a := (s.group gid).rayVal (s.widthOf gid) f.a
      let x := hexpVal a (a.d.getD (2 * laneOf tid) 0)
      let y := hexpVal a (a.d.getD (2 * laneOf tid + 1) 0)
      (t.setFrom f.d [BitVec.ofNat 32 x.1, BitVec.ofNat 32 y.1]).orFlags (x.2 ||| y.2))
    (fun _ => [])

/-- HDOT, HLN and HCLS: one value for the group (R218, R223). -/
def rayValue (s : State) (gid : Nat) (f : Fields) : Nat × Flags :=
  let g := s.group gid
  let w := s.widthOf gid
  let a := g.rayVal w f.a
  match f.maj, f.mn with
  | 0x18, _ => hdotVal (f.modBit 0) a (g.rayVal w f.b)
  | _, 0 =>
    if f.ty = 0 then ((g.normEntry f.a).toNat, 0)
    else
      match a.cls with
      | .normal => ((Num.ofInt a.ln (-16)).round Fmt.f32 ⟨.rn, false, false⟩ |>.1, 0)
      | .zero => (0xFF800000, 0)
      | .infinite => (0x7F800000, 0)
      | .invalid => (Fmt.f32.nanCode, 0)
  | _, _ => (match a.cls with | .normal => 1 | .zero => 2 | .infinite => 4 | .invalid => 8, 0)

def xRayRead (f : Fields) (s : State) : State :=
  s.runPlain f State.noFault
    (fun tid t => let r := rayValue s (gidOf tid) f; (f.toVec false (BitVec.ofNat 64 r.1) t).orFlags r.2)
    (fun gid => f.toScal false (BitVec.ofNat 64 (rayValue s gid f).1))

/-- The address of HLD and HST (R225). -/
def rayEa (s : State) (gid : Nat) (f : Fields) : Ptr :=
  let p := (s.group gid).sreg64 f.a
  mkPtr (segOf p) (p.toNat + (f.x.signExtend 64).toNat)

/-- HLD's or HST's access as it is checked (R225). -/
def rayCheck (s : State) (f : Fields) (kind : Kind) (tid : Nat) : Checked × List (Loc × Nat) :=
  let gid := gidOf tid
  let ea := rayEa s gid f
  s.checkSpan (s.agent tid) ea (4 * s.widthOf gid + 4) (offOf ea % 4 != 0) 2 kind

/-- The bytes HST stores (R225). -/
def rayBytes (g : Group) (w r : Nat) : List Byte :=
  ((List.range w).map (g.rayWord r) ++ [g.normEntry r]).flatMap (fun x => leBytes 4 x.toNat)

/-- An HST as an output (R385). -/
def hstOut (f : Fields) (tid : Nat) (s : State) : Output :=
  Output.plain (rayEa s (gidOf tid) f) (rayBytes (s.group (gidOf tid)) (s.widthOf (gidOf tid)) f.d)

/-- The check of HLD and HST: one access of 4W + 4 bytes, 4-byte aligned, that faults in every thread (R225). -/
def rayFault (s : State) (f : Fields) (kind : Kind) (tid : Nat) : Option Flt :=
  let ea := rayEa s (gidOf tid) f
  match (rayCheck s f kind tid).1 with
  | .bad c aux => some ⟨c, ea, aux⟩
  | .ok _ _ => if kind = .write then s.shadowFault tid (hstOut f tid) else none

/-- The host page an access goes on in behind its first (R225). -/
def nextHost (ps : List (Loc × Nat)) : Nat :=
  match ps with
  | _ :: (.far (.host h), _) :: _ => h
  | _ => 0

/-- HLD of one group, by its lowest thread: the pieces of its access that lie here are loaded, or one remote access begins (R225).
DEDUCED: log entry 145. -/
def hldGroup (f : Fields) (tid : Nat) (s : State) : State :=
  let gid := gidOf tid
  let ea := rayEa s gid f
  let n := 4 * s.widthOf gid + 4
  match rayCheck s f .read tid with
  | (.ok dd (.home _), ps) =>
    let s := s.drainPath gid (s.group gid).path.length
    let sl := dd.sl || s.sealed (s.ctxOf gid) (segOf ea) (offOf ea) n
    let r := ps.foldl (fun (r : State × List Byte × State.Met) q =>
      match q.1 with
      | .home a => let x := r.1.loadBytes tid a q.2 false sl; (x.1, r.2.1 ++ x.2.1, State.firstMet r.2.2 x.2.2)
      | .far _ => r) (s, [], .sound)
    r.1.consume tid ea .read 2 (.ray f.d) r.2.2 (fun s => s.fill tid (.ray f.d) r.2.1)
  | (.ok _ (.far fr), ps) => s.startAccess { s.accessOf tid s.issue.pc ea fr .read 2 n (.ray f.d) with next := nextHost ps }
  | _ => s

/-- HLD (R225): the group's own stores are in its domain's overlay first. -/
def xHld (f : Fields) (s : State) : State :=
  s.runState f (rayFault s f .read) (fun ok s1 =>
    (State.groupsIn ok).foldl (fun s' gid => hldGroup f (State.lowest (ofGroup ok gid)) s') s1)

/-- HST of one group: one store on its path, its bytes page by page, or one posted write.
DEDUCED: log entry 46. DEDUCED: log entry 145. -/
def hstGroup (f : Fields) (tid : Nat) (s : State) : State :=
  let gid := gidOf tid
  let w := s.widthOf gid
  let bs := rayBytes (s.group gid) w f.d
  match rayCheck s f .write tid with
  | (.ok _ (.home _), ps) =>
    let as := ps.flatMap (fun q => match q.1 with | .home a => (List.range q.2).map (a + ·) | .far _ => [])
    s.modGroup gid (fun g => { g with path := g.path ++ [⟨tid, as.zip bs, 0⟩] })
  | (.ok _ (.far fr), ps) =>
    s.postStore ⟨0, tid, gid, s.issue.pc, rayEa s gid f, fr, 2, nextHost ps, bs, 2 ^ (4 * w + 4) - 1, .nobody, false⟩
  | _ => s

/-- HST (R225): a relaxed store of the group, forwarded to all of its threads. -/
def xHst (f : Fields) (s : State) : State :=
  s.runState f (rayFault s f .write) (fun ok s1 =>
    (State.groupsIn ok).foldl (fun s' gid => hstGroup f (State.lowest (ofGroup ok gid)) s') s1)

/-! The meaning of each row of the table of operations. -/

/-- HNRM (R216). -/
def execHnrm (f : EForm) (s : State) : Host.Outcome State Fault Refusal := .next (xRayWrite (wideFields 0x18 0 f) s)

/-- HEXP (R217). -/
def execHexp (f : EForm) (s : State) : Host.Outcome State Fault Refusal := .next (xHexp (wideFields 0x18 1 f) s)

/-- HDOT (R218). -/
def execHdot (f : EForm) (s : State) : Host.Outcome State Fault Refusal := .next (xRayRead (wideFields 0x18 2 f) s)

/-- HSCL (R219). -/
def execHscl (f : EForm) (s : State) : Host.Outcome State Fault Refusal := .next (xRayWrite (wideFields 0x18 3 f) s)

/-- HADD (R220). -/
def execHadd (f : EForm) (s : State) : Host.Outcome State Fault Refusal := .next (xRayWrite (wideFields 0x18 4 f) s)

/-- HNEG (R221). -/
def execHneg (f : EForm) (s : State) : Host.Outcome State Fault Refusal := .next (xRayWrite (wideFields 0x18 5 f) s)

/-- HPROJ (R222). -/
def execHproj (f : EForm) (s : State) : Host.Outcome State Fault Refusal := .next (xRayWrite (wideFields 0x18 6 f) s)

/-- HLN (R223). -/
def execHln (f : EForm) (s : State) : Host.Outcome State Fault Refusal := .next (xRayRead (wideFields 0x19 0 f) s)

/-- HSLN (R219). -/
def execHsln (f : EForm) (s : State) : Host.Outcome State Fault Refusal := .next (xRayWrite (wideFields 0x19 1 f) s)

/-- HMOV (R224). -/
def execHmov (f : EForm) (s : State) : Host.Outcome State Fault Refusal := .next (xRayWrite (wideFields 0x19 2 f) s)

/-- HCLS (R223). -/
def execHcls (f : EForm) (s : State) : Host.Outcome State Fault Refusal := .next (xRayRead (wideFields 0x19 3 f) s)

/-- HLD (R225). -/
def execHld (f : EForm) (s : State) : Host.Outcome State Fault Refusal := .next (xHld (wideFields 0x19 4 f) s)

/-- HST (R225). -/
def execHst (f : EForm) (s : State) : Host.Outcome State Fault Refusal := .next (xHst (wideFields 0x19 5 f) s)

end Sys2Proof.Machine
end

