-- ==== Sys2Proof/WellFormed.lean ====
section
/-! DEFINITION. Which terms of Instr stand for an encoding: the rows that share a major and minor are told apart by an index or
a MOD bit (R15, R168, R342, R346, R386), a hint has major 0x01, and an illegal encoding is one of R86's. A field that breaks a
rule is no ill-formedness: it raises RESERVED_FIELD when it executes. -/

namespace Sys2Proof

/-- The number of words that LEN, bits [31:30] of word 0, gives (R62). -/
def RawWords.lenOk : RawWords → Bool
  | .one w => w.extractLsb' 30 2 == 0
  | .three w _ _ => w.extractLsb' 30 2 == 1 || w.extractLsb' 30 2 == 2
  | .five w _ _ _ _ => w.extractLsb' 30 2 == 3

/-- MAJ of a raw encoding (R62). -/
def RawWords.maj (r : RawWords) : Nat := (r.first.extractLsb' 24 6).toNat

/-- The base layouts of R67 and R83: OP, M, BR, or none. -/
inductive BaseLayout where
  | op | mem | br | none
  deriving DecidableEq, Repr

/-- The base layout of a major (R83). -/
def baseLayout (maj : Nat) : BaseLayout :=
  match maj with
  | 0x00 => .op | 0x02 => .op | 0x03 => .op | 0x04 => .op | 0x05 => .op | 0x06 => .op | 0x07 => .op
  | 0x08 => .op | 0x09 => .op | 0x0A => .op | 0x0E => .op
  | 0x0C => .br | 0x0D => .br
  | 0x0F => .mem
  | _ => .none

/-- How many minors of a major are assigned: its minors are 0 up to that (R83); 0 for an unassigned major. -/
def minorCount (maj : Nat) : Nat :=
  match maj with
  | 0x00 => 1 | 0x02 => 8 | 0x03 => 8 | 0x04 => 8 | 0x05 => 8 | 0x06 => 7 | 0x07 => 6 | 0x08 => 8 | 0x09 => 8 | 0x0A => 6
  | 0x0B => 3 | 0x0C => 1 | 0x0D => 1 | 0x0E => 8 | 0x0F => 5 | 0x14 => 7 | 0x15 => 7 | 0x16 => 4 | 0x17 => 6 | 0x18 => 7
  | 0x19 => 6 | 0x20 => 1 | 0x21 => 7 | 0x22 => 4 | 0x23 => 5 | 0x24 => 2 | 0x25 => 5 | 0x30 => 5 | 0x38 => 5 | 0x39 => 3
  | _ => 0

/-- The minors of a major with the OP layout that use C and have no base form (R67). -/
def usesC (maj mn : Nat) : Bool :=
  (maj == 0x08 && mn == 3) || (maj == 0x04 && (mn == 6 || mn == 4)) || (maj == 0x07 && mn == 2) || (maj == 0x0A && mn == 2)

/-- Is a raw encoding no instruction (R86)? `w1` is its second word. -/
def RawWords.illegal (r : RawWords) : Bool :=
  let maj := r.maj
  let w := r.first
  let long (w1 : Word) : Bool := w1.getLsbD 17 || decide (minorCount maj ≤ (w1.extractLsb' 13 3).toNat)
  let base : Bool :=
    match baseLayout maj with
    | .none => true
    | .br => false
    | .op => decide (minorCount maj ≤ (w.extractLsb' 3 3).toNat) || usesC maj (w.extractLsb' 3 3).toNat
    | .mem => decide (minorCount maj ≤ (w.extractLsb' 9 3).toNat)
  maj != 1 && (minorCount maj == 0 ||
    match r with
    | .one _ => base
    | .three _ w1 _ => if w.getLsbD 31 then long w1 else base
    | .five _ w1 _ _ _ => long w1)

/-- Does the term stand for an encoding of its row? Events stand for no encoding and are well formed. -/
def Instr.wf : Instr → Bool
  | .srd f => f.b.toNat != 0x08
  | .srdX f => f.bIndex != 0x08
  | .swr f => f.b.toNat != 0x18
  | .swrX f => f.bIndex != 0x18
  | .clkLoRead (.base f) => f.b.toNat == 0x08
  | .clkLoRead (.more f) => f.bIndex == 0x08
  | .thndWrite (.base f) => f.b.toNat == 0x18
  | .thndWrite (.more f) => f.bIndex == 0x18
  | .meet f => !f.fields.mod.getLsbD 0
  | .meetPop f => f.fields.mod.getLsbD 0
  | .gnodeQ f => !f.fields.mod.getLsbD 0
  | .gnodeSig f => f.fields.mod.getLsbD 0
  | .pswr f => f.fields.b.toNat != 0x82
  | .flkctlWrite f => f.fields.b.toNat == 0x82
  | .hintLong r => r.lenOk && r.maj == 1 && (match r with | .one _ => false | _ => true)
  | .illegalOpcode r => r.lenOk && r.illegal
  | _ => true

end Sys2Proof
end

