-- ==== Sys2Proof/Decode.lean ====
section
/-! DEFINITION. Decoding (04 R62, R83 to R86): bytes to words, words to an instruction, total; an encoding that is no
instruction decodes to ILLEGAL_OPCODE, and a list too short is refused by name. Then the encoder, from the same tables. -/

namespace Sys2Proof

/-- Why a list of bytes or words gives no instruction. -/
inductive DecodeError where
  /-- The list ends before the instruction that its first word begins. -/
  | truncated
  deriving DecidableEq, Repr

/-- The length in words of the instruction that word 0 begins (R62). -/
def wordsOf (w0 : Word) : Nat :=
  match (w0.extractLsb' 30 2).toNat with
  | 0 => 1
  | 3 => 5
  | _ => 3

/-- The length in bytes (R62). -/
def bytesOf (w0 : Word) : Nat := 4 * wordsOf w0

/-- The OP-layout fields of word 0 (R65). -/
def opOf (w : Word) : OpF := ⟨w.extractLsb' 18 6, w.extractLsb' 12 6, w.extractLsb' 6 6, w.extractLsb' 0 3⟩

/-- The M-layout fields of word 0 (R66). -/
def memOf (w : Word) : MemF := ⟨w.extractLsb' 18 6, w.extractLsb' 12 6, w.extractLsb' 6 3, w.getLsbD 5, w.extractLsb' 0 5⟩

/-- The BR-layout fields of word 0 (R64). -/
def brOf (w : Word) : BrF := ⟨w.extractLsb' 21 3, w.getLsbD 20, w.extractLsb' 0 20⟩

/-- The extended fields of words 0 to 2 (R70, R71). -/
def extOf (w0 w1 w2 : Word) : ExtF where
  d := w0.extractLsb' 16 8
  a := w0.extractLsb' 8 8
  b := w0.extractLsb' 0 8
  c := w1.extractLsb' 24 8
  n := w1.getLsbD 23
  g := w1.extractLsb' 19 4
  xb := w1.getLsbD 18
  cs := w1.getLsbD 16
  ca := w1.getLsbD 12
  cb := w1.getLsbD 11
  cd := w1.getLsbD 10
  route := w1.extractLsb' 7 3
  mod := w1.extractLsb' 0 7
  x := w2

/-- A literal from its two words, the low one first (R62). -/
def litOf (lo hi : Word) : DWord := ofWords hi lo

/-- The view of an encoding in base form, with the literal of LEN 01 or none (R67, R69, R85). -/
def baseView (w : Word) (lit : Option DWord) : View :=
  let maj := (w.extractLsb' 24 6).toNat
  match baseLayout maj, lit with
  | .op, none => .op maj (w.extractLsb' 3 3).toNat (opOf w)
  | .op, some l => .opX maj (w.extractLsb' 3 3).toNat (.lit (opOf w) l)
  | .mem, none => .mem (w.extractLsb' 9 3).toNat (memOf w)
  | .mem, some l => .memX (w.extractLsb' 9 3).toNat (.lit (memOf w) l)
  | .br, none => .br maj (brOf w)
  | .br, some l => .brX maj (.lit (brOf w) l)
  | .none, _ => .event

/-- The view of an extended encoding with minor number `mn` (R70, R74, R83). -/
def longView (maj mn : Nat) (f : ExtF) (lit : Option DWord) : View :=
  let form {β : Type} : XForm β := match lit with | some l => .extLit f l | none => .ext f
  match baseLayout maj with
  | .op => if usesC maj mn then .wide maj mn form else .opX maj mn form
  | .mem => .memX mn form
  | .br => if mn = 0 then .brX maj form else .event
  | .none => .wide maj mn form

/-- The view of a raw encoding (R85); `.event` where it is no instruction. -/
def RawWords.view (r : RawWords) : View :=
  match r with
  | .one w => baseView w none
  | .three w0 w1 w2 =>
    if w0.getLsbD 31 then longView r.maj (w1.extractLsb' 13 3).toNat (extOf w0 w1 w2) none
    else baseView w0 (some (litOf w1 w2))
  | .five w0 w1 w2 l h => longView r.maj (w1.extractLsb' 13 3).toNat (extOf w0 w1 w2) (some (litOf l h))

/-- The instruction of a raw encoding, total (R84 to R86). -/
def decodeRaw (r : RawWords) : Instr :=
  if r.maj = 1 then
    match r with
    | .one w => .hint (w.extractLsb' 0 24)
    | _ => .hintLong r
  else if r.illegal then .illegalOpcode r
  else r.view.instr?.getD (.illegalOpcode r)

/-- The raw encoding that a list of words begins with, and the words after it (R62). -/
def rawOf (ws : List Word) : Except DecodeError (RawWords × List Word) :=
  match ws with
  | [] => .error .truncated
  | w0 :: rest =>
    match wordsOf w0, rest with
    | 1, r => .ok (.one w0, r)
    | 3, w1 :: w2 :: r => .ok (.three w0 w1 w2, r)
    | 5, w1 :: w2 :: w3 :: w4 :: r => .ok (.five w0 w1 w2 w3 w4, r)
    | _, _ => .error .truncated

/-- The instruction a list of words begins with, and the words after it. -/
def decodeWords (ws : List Word) : Except DecodeError (Instr × List Word) :=
  match rawOf ws with
  | .ok (r, rest) => .ok (decodeRaw r, rest)
  | .error e => .error e

/-- The instruction of the words fetched for it (R63): as many as its first word says. -/
def instrOf (ws : List Word) : Instr :=
  match decodeWords ws with
  | .ok r => r.1
  | .error _ => .illegalOpcode (.one (ws.headD 0))

/-- A word from its four bytes, the lowest-addressed first (R5). -/
def wordOf (b0 b1 b2 b3 : Byte) : Word := b3 ++ b2 ++ b1 ++ b0

/-- The words of a list of bytes; trailing bytes that fill no word are dropped (R5, R62). -/
def wordsOfBytes : List Byte → List Word
  | b0 :: b1 :: b2 :: b3 :: r => wordOf b0 b1 b2 b3 :: wordsOfBytes r
  | _ => []

/-- The instruction a list of bytes begins with. -/
def decodeBytes (bs : List Byte) : Except DecodeError (Instr × List Word) := decodeWords (wordsOfBytes bs)

/-- The bytes of a word as memory holds them (R5). -/
def bytesOfWord (w : Word) : List Byte := [w.extractLsb' 0 8, w.extractLsb' 8 8, w.extractLsb' 16 8, w.extractLsb' 24 8]

/-- The words of a numbered encoding: bit 0 is bit 0 of word 0, later words count on; five words, the bits above `nbits` zero. -/
def tableWords (nbits w : Nat) : List Word :=
  let v := w % 2 ^ nbits
  (List.range 5).map (fun k => BitVec.ofNat 32 (v / 2 ^ (32 * k)))

/-- The instruction the decoder reads from an encoding whose bits are numbered as the table of operations numbers them. -/
def decodeTableWord (nbits w : Nat) : Option Instr :=
  match decodeBytes ((tableWords nbits w).flatMap bytesOfWord) with
  | .ok (i, _) => some i
  | .error _ => none

/-- The words of a raw encoding in address order (R62). -/
def RawWords.words : RawWords → List Word
  | .one w => [w]
  | .three a b c => [a, b, c]
  | .five a b c d e => [a, b, c, d, e]

/-- The words of a form of more than one word: `w` makes word 0 of the base layout, `maj` and `mn` the extended words (R62,
R69, R70, R74). -/
def encodeForm {β : Type} (w : β → Word) (maj mn : Nat) : XForm β → List Word
  | .lit f l => [w f, loWord l, hiWord l]
  | .ext f => [extWord0 2 maj f, extWord1 mn f, f.x]
  | .extLit f l => [extWord0 3 maj f, extWord1 mn f, f.x, loWord l, hiWord l]

/-- The words of a view (R62 to R74). -/
def View.words : View → List Word
  | .op maj mn f => [opWord 0 maj mn f]
  | .opX maj mn f => encodeForm (opWord 1 maj mn) maj mn f
  | .mem mn f => [memWord 0 mn f]
  | .memX mn f => encodeForm (memWord 1 mn) 0x0F mn f
  | .br maj f => [brWord 0 maj f]
  | .brX maj f => encodeForm (brWord 1 maj) maj 0 f
  | .wide maj mn f => encodeForm (fun e : Empty => e.elim) maj mn f
  | .hint x => [0x01#8 ++ x]
  | .hintLong r => r.words
  | .illegal r => r.words
  | .event => []

/-- THE ENCODER: the words of an instruction in address order; none for an event. -/
def encode (i : Instr) : List Word := i.view.words

/-- The bytes of an instruction in address order. -/
def encodeBytes (i : Instr) : List Byte := (encode i).flatMap bytesOfWord

end Sys2Proof
end

