-- ==== Sys2Proof/Machine/Fetch.lean ====
section
/-! DEFINITION. Fetching an instruction's words (01 R21, 04 R63): the two execute checks, then the words at their home. -/

namespace Sys2Proof.Machine

/-- FAUX of a fetch of `n` bytes: size code 2, 5 or 6 (R26, R63). -/
def fetchAux (n : Nat) : Word := accessAux .fetch (if n = 4 then 2 else if n = 12 then 5 else 6)

/-- A pointer moved forward by some bytes, modulo 2^44 (R17). -/
def ptrAdd (p : Ptr) (n : Nat) : Ptr := mkPtr (segOf p) (offOf p + n)

namespace State

/-- One word of code at its home. -/
def codeWord (s : State) (tid : Nat) (p : Ptr) : Word :=
  match s.check (s.agent tid) p 4 2 .fetch with
  | .ok _ (.home a) => BitVec.ofNat 32 (leNat (s.homeBytes a 4))
  | _ => 0

/-- THE FETCH of the instruction at `pc` by a thread (R63): word 0, its length, then the whole; FADDR is the pointer to word 0.
DEDUCED: log entry 85. -/
def codeAt (s : State) (tid : Nat) (pc : Ptr) : Except Flt (List Word) :=
  match s.check (s.agent tid) pc 4 2 .fetch with
  | .bad c aux => .error ⟨c, pc, aux⟩
  | .ok _ _ =>
    let n := bytesOf (s.codeWord tid pc)
    let all : List Word := (List.range (n / 4)).map (fun k => s.codeWord tid (ptrAdd pc (4 * k)))
    if n = 4 then .ok all
    else
      match s.check (s.agent tid) pc n 0 .fetch with
      | .bad c aux => .error ⟨c, pc, (aux &&& 0x20) ||| fetchAux n⟩
      | .ok _ _ =>
        match s.check (s.agent tid) (ptrAdd pc (n - 4)) 4 2 .fetch with
        | .bad c aux => .error ⟨c, pc, (aux &&& 0x20) ||| fetchAux n⟩
        | .ok _ _ => .ok all

end State

end Sys2Proof.Machine
end

