-- ==== Sys2Proof/Machine/Repeat.lean ====
section
/-! DEFINITION. REP and its target (05 R109 to R112, 20 R370): one iteration of the pair at a time. -/

namespace Sys2Proof

/-- Does an operand field of the target advance (R109)? -/
def Slot.moves (sl : Slot) (num : Nat) (scalar : Bool) : Bool :=
  match sl with
  | .reg v _ _ _ => v && !scalar && num != 255
  | _ => false

/-- The operands of a target that advance: slot and field value, D first (R109); SYNC's never do (R171). -/
def advancing (w : Nat) (f : Fields) : List (Slot × Nat) :=
  let o := opnds w f
  if f.maj = 0x15 then []
  else
    ([(o.d, f.d, f.cd), (o.a, f.a, f.ca)] ++ (if f.hasImm then [] else [(o.b, f.b, f.cb)]) ++ [(o.c, f.c, f.cs)]).filterMap
      (fun (e : Slot × Nat × Bool) => if e.1.moves e.2.1 e.2.2 then some (e.1, e.2.1) else none)

/-- The target with every advancing field `k` further on (R109, R171). -/
def Fields.shift (w k : Nat) (f : Fields) : Fields :=
  let o := opnds w f
  if f.maj = 0x15 then f
  else
    { f with
      d := if o.d.moves f.d f.cd then f.d + k else f.d
      a := if o.a.moves f.a f.ca then f.a + k else f.a
      b := if !f.hasImm && o.b.moves f.b f.cb then f.b + k else f.b
      c := if o.c.moves f.c f.cs then f.c + k else f.c }

/-- Does a stride keep every group of registers aligned (R109)? DEDUCED: log entry 138. -/
def strideOk (w s : Nat) (f : Fields) : Bool :=
  (advancing w f).all (fun e => match e.1 with | .reg _ _ _ al => s % al == 0 | _ => true)

/-- The first operand whose last iteration leaves the register file or the declared cap, any register of a pair or group counted
(R111). DEDUCED: log entry 111. -/
def overrun (w cap s n : Nat) (f : Fields) : Option Nat :=
  ((advancing w f).find? (fun e =>
    let top := e.2 + (n - 1) * s
    match e.1 with
    | .reg _ _ span _ => decide (254 < top) || decide (cap < top + span)
    | _ => false)).map (·.2)

/-- The majors REP does not accept (R110, R370). -/
def repBars (maj : Nat) : Bool :=
  [0x0C, 0x0D, 0x0E, 0x22, 0x14, 0x16, 0x17, 0x18, 0x19, 0x23, 0x24, 0x25, 0x38, 0x39].contains maj

end Sys2Proof

namespace Sys2Proof.Machine

/-- The meaning of an instruction that REP accepts, by major and minor number. -/
def targetOn (f : Fields) (s : State) : State :=
  match f.maj, f.mn with
  | 0x02, _ => xIarith f s
  | 0x03, _ => xLogic f s
  | 0x04, 7 => xLea f s
  | 0x04, _ => xBits f s
  | 0x05, _ => xIcmp f s
  | 0x06, 5 => xPpack f s
  | 0x06, 6 => xPunpk f s
  | 0x06, _ => xPred f s
  | 0x07, 0 => xMov f s
  | 0x07, 1 => xMovi f s
  | 0x07, 2 => xSel f s
  | 0x07, 3 => xMovs f s
  | 0x07, 4 => if f.b = 0x08 then xClkLo f s else xSrd f s
  | 0x07, _ => if f.b = 0x18 then xThnd f s else xSwr f s
  | 0x08, _ => xFarith f s
  | 0x09, _ => xFunary f s
  | 0x0A, 2 => xFcmp f s
  | 0x0A, _ => xFmisc f s
  | 0x0B, 0 => xCvt f s
  | 0x0B, 1 => xCvtpk f s
  | 0x0B, _ => xCvtxp f s
  | 0x0F, 0 => xLd f s
  | 0x0F, 1 => xSt f s
  | 0x0F, 2 => xLds f s
  | 0x0F, 3 => xSts f s
  | 0x0F, _ => xPref f s
  | 0x15, 0 => xBar f s
  | 0x15, 1 => xBara f s
  | 0x15, 2 => xBarw f s
  | 0x15, 3 => xBari f s
  | 0x15, 4 => if f.modBit 0 then xMeetPop f s else xMeet f s
  | 0x15, 5 => xNap f s
  | 0x15, _ => xBkoff f s
  | 0x20, _ => xAtom f s
  | 0x21, 0 => xPhase f s
  | 0x21, 1 => xSeal f s
  | 0x21, 2 => xUnseal f s
  | 0x21, 3 => xSegq f s
  | 0x21, 4 => xPkrw f s
  | 0x21, 5 => xPkrr f s
  | 0x21, _ => xLeaseq f s
  | 0x30, 0 => xPush f s
  | 0x30, 1 => xWaitc f s
  | 0x30, 2 => xQstat f s
  | 0x30, 3 => xTrigger f s
  | 0x30, _ => if f.modBit 0 then xGnodeSig f s else xGnodeQ f s
  | _, _ => xNop f s

namespace State

/-- The fault that keeps a thread from the pair, before its first iteration (R109 to R111): the REP's own, those of its target decoded for
iteration 0, then those of the stride. DEDUCED: log entry 86. DEDUCED: log entry 112. DEDUCED: log entry 137. -/
def repFault (s : State) (f : Fields) (w0 : Word) (i : Instr) (tid : Nat) : Option Flt :=
  let gid := gidOf tid
  let w := s.widthOf gid
  let maj := (w0.extractLsb' 24 6).toNat
  (s.decodeFault f tid).orElse (fun _ =>
    if repBars maj then some ⟨codeRepTarget, 0, w0⟩
    else
      match i.view, i.fields? with
      | .illegal _, _ => some ⟨codeIllegal, 0, w0⟩
      | _, none => none
      | _, some tf =>
        if f.x = 0 then none
        else
          ((s.decodeFault tf tid).filter (fun e => e.code != codeGen)).orElse (fun _ =>
            if !strideOk w f.d tf then some ⟨codeReserved, 0, w0⟩
            else (overrun w (s.countsOf gid).regs f.d f.x.toNat tf).map (fun n => ⟨codeRegBounds, 0, BitVec.ofNat 32 n⟩)))

end State

namespace State

/-- The words of the instruction at a thread's PC; of a pair under way, its REP's as they were fetched (R111). -/
def repWords (s : State) (tid : Nat) : Except Flt (List Word) :=
  match (s.thread tid).pair with
  | some p => .ok p.rep
  | none => s.codeAt tid (s.thread tid).pc

/-- The words of the target behind a REP; of a pair under way, as they were fetched (R111). -/
def targetWords (s : State) (tid : Nat) (next : Ptr) : Except Flt (List Word) :=
  match (s.thread tid).pair with
  | some p => .ok p.target
  | none => s.codeAt tid next

/-- A pair with its words, as the thread starts or goes on with it. -/
def pairOf (s : State) (tid : Nat) (target : List Word) : Pair :=
  ⟨match s.repWords tid with | .ok ws => ws | .error _ => [], target⟩

end State

/-- Does a thread take part in a pair's next iteration: it is between iterations, or the REP's guard is true (R111)?
DEDUCED: log entry 120. -/
def Thread.repOn (t : Thread) (f : Fields) : Bool := (t.inRep && t.pair.isSome) || t.guard f

/-- The pair is over without an iteration for threads of a list: they go on behind the target (R111). -/
def leavePair (ts : List Nat) (after : Ptr) (s : State) : State :=
  s.mapThreads (fun tid t => if ts.contains tid then { t with inRep := false, pair := none, pc := after, issued := true } else t)

/-- One iteration of the pair for threads whose REP guard was true (R111): RPC = n − i, the target on its advanced fields; a target
without fields is a hint, which repeats as a no-op (R84). -/
def repIteration (f : Fields) (target : Option Fields) (ws : List Word) (act : List Nat) (after : Ptr) (s : State) : State :=
  match act with
  | [] => s
  | t0 :: _ =>
    let t := s.thread t0
    let n := f.x.toNat
    let i := if t.inRep then n - t.rpc.toNat else 0
    let s1 := s.mapThreads (fun tid t => if act.contains tid then
      { t with rpc := BitVec.ofNat 32 (n - i), inRep := true, pair := some (s.pairOf t0 ws) } else t)
    let s2 := { s1 with issue := { s.issue with
      threads := act, self := s.issue.next, next := after, rep := true, shift := i * f.d } }
    let s3 := match target with
      | some tf => targetOn (tf.shift (s.widthOf (gidOf t0)) (i * f.d)) s2
      | none => xHint s2
    { s3 with issue := s.issue }

/-- REP (R109 to R112): the pair is fetched once, before any guard is read; a thread that is between iterations goes on without reading
REP's guard again, one that RTT has returned to the REP fetches and reads it again. -/
def xRep (f : Fields) (s : State) : State :=
  match s.issue.threads with
  | [] => s
  | t0 :: _ =>
    match s.targetWords t0 s.issue.next with
    | .error e => s.deliverAll (s.issue.threads.map (fun t => (⟨t, e.code, e.addr, e.aux⟩ : Raised)))
    | .ok ws =>
      let after := ptrAdd s.issue.next (4 * ws.length)
      let w0 := ws.getD 0 0
      let i := instrOf ws
      let on_ := s.issue.threads.filter (fun t => (s.thread t).repOn f)
      let rs := on_.filterMap (fun tid => (s.repFault f w0 i tid).map (fun e => (⟨tid, e.code, e.addr, e.aux⟩ : Raised)))
      let act := on_.filter (fun t => !(rs.map (·.tid)).contains t)
      let s1 := leavePair (s.issue.threads.filter (fun t => !on_.contains t)) after s
      let s2 := if f.x = 0 then leavePair act after s1 else repIteration f i.fields? ws act after s1
      s2.deliverAll rs

/-! The meaning of each row of the table of operations. -/

/-- REP (R111). -/
def execRep (f : OpF) (s : State) : Host.Outcome State Fault Refusal := .next (xRep (opFields .base none 0x0E 5 f) s)

/-- REP_X (R111). -/
def execRepX (f : XForm OpF) (s : State) : Host.Outcome State Fault Refusal := .next (xRep (opXFields 0x0E 5 f) s)

end Sys2Proof.Machine
end

