-- ==== Sys2Proof/Machine/Dispatch.lean ====
section
/-! DEFINITION. One arm for each row of the table of operations: a direct call of its meaning. -/

namespace Sys2Proof.Machine

def exec (i : Instr) (s : State) : Host.Outcome State Fault Refusal :=
  match i with
  | .nop f => Sys2Proof.Machine.execNop f s
  | .nopX f => Sys2Proof.Machine.execNopX f s
  | .hint w => Sys2Proof.Machine.execHint w s
  | .hintLong w => Sys2Proof.Machine.execHintLong w s
  | .iadd f => Sys2Proof.Machine.execIadd f s
  | .iaddX f => Sys2Proof.Machine.execIaddX f s
  | .isub f => Sys2Proof.Machine.execIsub f s
  | .isubX f => Sys2Proof.Machine.execIsubX f s
  | .imul f => Sys2Proof.Machine.execImul f s
  | .imulX f => Sys2Proof.Machine.execImulX f s
  | .imulh f => Sys2Proof.Machine.execImulh f s
  | .imulhX f => Sys2Proof.Machine.execImulhX f s
  | .imin f => Sys2Proof.Machine.execImin f s
  | .iminX f => Sys2Proof.Machine.execIminX f s
  | .imax f => Sys2Proof.Machine.execImax f s
  | .imaxX f => Sys2Proof.Machine.execImaxX f s
  | .idiv f => Sys2Proof.Machine.execIdiv f s
  | .idivX f => Sys2Proof.Machine.execIdivX f s
  | .irem f => Sys2Proof.Machine.execIrem f s
  | .iremX f => Sys2Proof.Machine.execIremX f s
  | .and f => Sys2Proof.Machine.execAnd f s
  | .andX f => Sys2Proof.Machine.execAndX f s
  | .or f => Sys2Proof.Machine.execOr f s
  | .orX f => Sys2Proof.Machine.execOrX f s
  | .xor f => Sys2Proof.Machine.execXor f s
  | .xorX f => Sys2Proof.Machine.execXorX f s
  | .andn f => Sys2Proof.Machine.execAndn f s
  | .andnX f => Sys2Proof.Machine.execAndnX f s
  | .shl f => Sys2Proof.Machine.execShl f s
  | .shlX f => Sys2Proof.Machine.execShlX f s
  | .shr f => Sys2Proof.Machine.execShr f s
  | .shrX f => Sys2Proof.Machine.execShrX f s
  | .asr f => Sys2Proof.Machine.execAsr f s
  | .asrX f => Sys2Proof.Machine.execAsrX f s
  | .rot f => Sys2Proof.Machine.execRot f s
  | .rotX f => Sys2Proof.Machine.execRotX f s
  | .clz f => Sys2Proof.Machine.execClz f s
  | .clzX f => Sys2Proof.Machine.execClzX f s
  | .popc f => Sys2Proof.Machine.execPopc f s
  | .popcX f => Sys2Proof.Machine.execPopcX f s
  | .brev f => Sys2Proof.Machine.execBrev f s
  | .brevX f => Sys2Proof.Machine.execBrevX f s
  | .bfx f => Sys2Proof.Machine.execBfx f s
  | .bfxX f => Sys2Proof.Machine.execBfxX f s
  | .bfi f => Sys2Proof.Machine.execBfi f s
  | .iabs f => Sys2Proof.Machine.execIabs f s
  | .iabsX f => Sys2Proof.Machine.execIabsX f s
  | .imad f => Sys2Proof.Machine.execImad f s
  | .lea f => Sys2Proof.Machine.execLea f s
  | .leaX f => Sys2Proof.Machine.execLeaX f s
  | .icmp c f => Sys2Proof.Machine.execIcmp c f s
  | .icmpX c f => Sys2Proof.Machine.execIcmpX c f s
  | .pand f => Sys2Proof.Machine.execPand f s
  | .pandX f => Sys2Proof.Machine.execPandX f s
  | .por f => Sys2Proof.Machine.execPor f s
  | .porX f => Sys2Proof.Machine.execPorX f s
  | .pxor f => Sys2Proof.Machine.execPxor f s
  | .pxorX f => Sys2Proof.Machine.execPxorX f s
  | .pnot f => Sys2Proof.Machine.execPnot f s
  | .pnotX f => Sys2Proof.Machine.execPnotX f s
  | .pmov f => Sys2Proof.Machine.execPmov f s
  | .pmovX f => Sys2Proof.Machine.execPmovX f s
  | .ppack f => Sys2Proof.Machine.execPpack f s
  | .ppackX f => Sys2Proof.Machine.execPpackX f s
  | .punpk f => Sys2Proof.Machine.execPunpk f s
  | .punpkX f => Sys2Proof.Machine.execPunpkX f s
  | .mov f => Sys2Proof.Machine.execMov f s
  | .movX f => Sys2Proof.Machine.execMovX f s
  | .movi f => Sys2Proof.Machine.execMovi f s
  | .moviX f => Sys2Proof.Machine.execMoviX f s
  | .sel f => Sys2Proof.Machine.execSel f s
  | .movs f => Sys2Proof.Machine.execMovs f s
  | .movsX f => Sys2Proof.Machine.execMovsX f s
  | .srd f => Sys2Proof.Machine.execSrd f s
  | .srdX f => Sys2Proof.Machine.execSrdX f s
  | .swr f => Sys2Proof.Machine.execSwr f s
  | .swrX f => Sys2Proof.Machine.execSwrX f s
  | .clkLoRead f => Sys2Proof.Machine.execClkLoRead f s
  | .thndWrite f => Sys2Proof.Machine.execThndWrite f s
  | .fadd f => Sys2Proof.Machine.execFadd f s
  | .faddX f => Sys2Proof.Machine.execFaddX f s
  | .fsub f => Sys2Proof.Machine.execFsub f s
  | .fsubX f => Sys2Proof.Machine.execFsubX f s
  | .fmul f => Sys2Proof.Machine.execFmul f s
  | .fmulX f => Sys2Proof.Machine.execFmulX f s
  | .ffma f => Sys2Proof.Machine.execFfma f s
  | .fmin f => Sys2Proof.Machine.execFmin f s
  | .fminX f => Sys2Proof.Machine.execFminX f s
  | .fmax f => Sys2Proof.Machine.execFmax f s
  | .fmaxX f => Sys2Proof.Machine.execFmaxX f s
  | .fcpys f => Sys2Proof.Machine.execFcpys f s
  | .fcpysX f => Sys2Proof.Machine.execFcpysX f s
  | .fdiv f => Sys2Proof.Machine.execFdiv f s
  | .fdivX f => Sys2Proof.Machine.execFdivX f s
  | .frcp f => Sys2Proof.Machine.execFrcp f s
  | .frcpX f => Sys2Proof.Machine.execFrcpX f s
  | .frsq f => Sys2Proof.Machine.execFrsq f s
  | .frsqX f => Sys2Proof.Machine.execFrsqX f s
  | .fsqrt f => Sys2Proof.Machine.execFsqrt f s
  | .fsqrtX f => Sys2Proof.Machine.execFsqrtX f s
  | .fexp2 f => Sys2Proof.Machine.execFexp2 f s
  | .fexp2X f => Sys2Proof.Machine.execFexp2X f s
  | .flog2 f => Sys2Proof.Machine.execFlog2 f s
  | .flog2X f => Sys2Proof.Machine.execFlog2X f s
  | .fsin f => Sys2Proof.Machine.execFsin f s
  | .fsinX f => Sys2Proof.Machine.execFsinX f s
  | .fcos f => Sys2Proof.Machine.execFcos f s
  | .fcosX f => Sys2Proof.Machine.execFcosX f s
  | .ftanh f => Sys2Proof.Machine.execFtanh f s
  | .ftanhX f => Sys2Proof.Machine.execFtanhX f s
  | .frnd f => Sys2Proof.Machine.execFrnd f s
  | .frndX f => Sys2Proof.Machine.execFrndX f s
  | .fclass f => Sys2Proof.Machine.execFclass f s
  | .fclassX f => Sys2Proof.Machine.execFclassX f s
  | .fcmp f => Sys2Proof.Machine.execFcmp f s
  | .fldexp f => Sys2Proof.Machine.execFldexp f s
  | .fldexpX f => Sys2Proof.Machine.execFldexpX f s
  | .fgetexp f => Sys2Proof.Machine.execFgetexp f s
  | .fgetexpX f => Sys2Proof.Machine.execFgetexpX f s
  | .fgetman f => Sys2Proof.Machine.execFgetman f s
  | .fgetmanX f => Sys2Proof.Machine.execFgetmanX f s
  | .cvt f => Sys2Proof.Machine.execCvt f s
  | .cvtpk f => Sys2Proof.Machine.execCvtpk f s
  | .cvtxp f => Sys2Proof.Machine.execCvtxp f s
  | .bra f => Sys2Proof.Machine.execBra f s
  | .braX f => Sys2Proof.Machine.execBraX f s
  | .call f => Sys2Proof.Machine.execCall f s
  | .callX f => Sys2Proof.Machine.execCallX f s
  | .ret f => Sys2Proof.Machine.execRet f s
  | .retX f => Sys2Proof.Machine.execRetX f s
  | .jmpi f => Sys2Proof.Machine.execJmpi f s
  | .jmpiX f => Sys2Proof.Machine.execJmpiX f s
  | .calli f => Sys2Proof.Machine.execCalli f s
  | .calliX f => Sys2Proof.Machine.execCalliX f s
  | .enter f => Sys2Proof.Machine.execEnter f s
  | .enterX f => Sys2Proof.Machine.execEnterX f s
  | .leave f => Sys2Proof.Machine.execLeave f s
  | .leaveX f => Sys2Proof.Machine.execLeaveX f s
  | .rep f => Sys2Proof.Machine.execRep f s
  | .repX f => Sys2Proof.Machine.execRepX f s
  | .trap f => Sys2Proof.Machine.execTrap f s
  | .trapX f => Sys2Proof.Machine.execTrapX f s
  | .exit f => Sys2Proof.Machine.execExit f s
  | .exitX f => Sys2Proof.Machine.execExitX f s
  | .ld f => Sys2Proof.Machine.execLd f s
  | .ldX f => Sys2Proof.Machine.execLdX f s
  | .st f => Sys2Proof.Machine.execSt f s
  | .stX f => Sys2Proof.Machine.execStX f s
  | .lds f => Sys2Proof.Machine.execLds f s
  | .ldsX f => Sys2Proof.Machine.execLdsX f s
  | .sts f => Sys2Proof.Machine.execSts f s
  | .stsX f => Sys2Proof.Machine.execStsX f s
  | .pref f => Sys2Proof.Machine.execPref f s
  | .prefX f => Sys2Proof.Machine.execPrefX f s
  | .snapshotDrop => Sys2Proof.Machine.execSnapshotDrop s
  | .storePathDrain => Sys2Proof.Machine.execStorePathDrain s
  | .overlayWriteback => Sys2Proof.Machine.execOverlayWriteback s
  | .loadReply => Sys2Proof.Machine.execLoadReply s
  | .remoteTimeout => Sys2Proof.Machine.execRemoteTimeout s
  | .shfl f => Sys2Proof.Machine.execShfl f s
  | .vote f => Sys2Proof.Machine.execVote f s
  | .matchLanes f => Sys2Proof.Machine.execMatchLanes f s
  | .redux f => Sys2Proof.Machine.execRedux f s
  | .scan f => Sys2Proof.Machine.execScan f s
  | .elect f => Sys2Proof.Machine.execElect f s
  | .vtos f => Sys2Proof.Machine.execVtos f s
  | .bar f => Sys2Proof.Machine.execBar f s
  | .bara f => Sys2Proof.Machine.execBara f s
  | .barw f => Sys2Proof.Machine.execBarw f s
  | .bari f => Sys2Proof.Machine.execBari f s
  | .barrierStall => Sys2Proof.Machine.execBarrierStall s
  | .meet f => Sys2Proof.Machine.execMeet f s
  | .meetPop f => Sys2Proof.Machine.execMeetPop f s
  | .meetingArrival => Sys2Proof.Machine.execMeetingArrival s
  | .nap f => Sys2Proof.Machine.execNap f s
  | .napWake => Sys2Proof.Machine.execNapWake s
  | .bkoff f => Sys2Proof.Machine.execBkoff f s
  | .bkoffWake => Sys2Proof.Machine.execBkoffWake s
  | .regroupingTick => Sys2Proof.Machine.execRegroupingTick s
  | .cbr f => Sys2Proof.Machine.execCbr f s
  | .cbsync f => Sys2Proof.Machine.execCbsync f s
  | .cmemb f => Sys2Proof.Machine.execCmemb f s
  | .cmq f => Sys2Proof.Machine.execCmq f s
  | .cbrResolve => Sys2Proof.Machine.execCbrResolve s
  | .cbrTimeout => Sys2Proof.Machine.execCbrTimeout s
  | .gen f => Sys2Proof.Machine.execGen f s
  | .yield f => Sys2Proof.Machine.execYield f s
  | .gend f => Sys2Proof.Machine.execGend f s
  | .gnext f => Sys2Proof.Machine.execGnext f s
  | .gdrain f => Sys2Proof.Machine.execGdrain f s
  | .gstat f => Sys2Proof.Machine.execGstat f s
  | .hnrm f => Sys2Proof.Machine.execHnrm f s
  | .hexp f => Sys2Proof.Machine.execHexp f s
  | .hdot f => Sys2Proof.Machine.execHdot f s
  | .hscl f => Sys2Proof.Machine.execHscl f s
  | .hadd f => Sys2Proof.Machine.execHadd f s
  | .hneg f => Sys2Proof.Machine.execHneg f s
  | .hproj f => Sys2Proof.Machine.execHproj f s
  | .hln f => Sys2Proof.Machine.execHln f s
  | .hsln f => Sys2Proof.Machine.execHsln f s
  | .hmov f => Sys2Proof.Machine.execHmov f s
  | .hcls f => Sys2Proof.Machine.execHcls f s
  | .hld f => Sys2Proof.Machine.execHld f s
  | .hst f => Sys2Proof.Machine.execHst f s
  | .calln f => Sys2Proof.Machine.execCalln f s
  | .ldn f => Sys2Proof.Machine.execLdn f s
  | .jmpn f => Sys2Proof.Machine.execJmpn f s
  | .lnkq f => Sys2Proof.Machine.execLnkq f s
  | .segq f => Sys2Proof.Machine.execSegq f s
  | .pkrw f => Sys2Proof.Machine.execPkrw f s
  | .pkrr f => Sys2Proof.Machine.execPkrr f s
  | .leaseq f => Sys2Proof.Machine.execLeaseq f s
  | .atom f => Sys2Proof.Machine.execAtom f s
  | .phase f => Sys2Proof.Machine.execPhase f s
  | .sealRange f => Sys2Proof.Machine.execSealRange f s
  | .unsealRange f => Sys2Proof.Machine.execUnsealRange f s
  | .trsv f => Sys2Proof.Machine.execTrsv f s
  | .trel f => Sys2Proof.Machine.execTrel f s
  | .tld f => Sys2Proof.Machine.execTld f s
  | .tldv f => Sys2Proof.Machine.execTldv f s
  | .txv f => Sys2Proof.Machine.execTxv f s
  | .mma f => Sys2Proof.Machine.execMma f s
  | .mmak f => Sys2Proof.Machine.execMmak f s
  | .accz f => Sys2Proof.Machine.execAccz f s
  | .accld f => Sys2Proof.Machine.execAccld f s
  | .accst f => Sys2Proof.Machine.execAccst f s
  | .accsp f => Sys2Proof.Machine.execAccsp f s
  | .accmv f => Sys2Proof.Machine.execAccmv f s
  | .matrixOpComplete => Sys2Proof.Machine.execMatrixOpComplete s
  | .push f => Sys2Proof.Machine.execPush f s
  | .waitc f => Sys2Proof.Machine.execWaitc f s
  | .waitcComplete => Sys2Proof.Machine.execWaitcComplete s
  | .qstat f => Sys2Proof.Machine.execQstat f s
  | .trigger f => Sys2Proof.Machine.execTrigger f s
  | .gnodeQ f => Sys2Proof.Machine.execGnodeQ f s
  | .gnodeSig f => Sys2Proof.Machine.execGnodeSig f s
  | .svc f => Sys2Proof.Machine.execSvc f s
  | .svcWake => Sys2Proof.Machine.execSvcWake s
  | .thset f => Sys2Proof.Machine.execThset f s
  | .rtt f => Sys2Proof.Machine.execRtt f s
  | .park f => Sys2Proof.Machine.execPark f s
  | .parkComplete => Sys2Proof.Machine.execParkComplete s
  | .prio f => Sys2Proof.Machine.execPrio f s
  | .psrd f => Sys2Proof.Machine.execPsrd f s
  | .pswr f => Sys2Proof.Machine.execPswr f s
  | .flkctlWrite f => Sys2Proof.Machine.execFlkctlWrite f s
  | .tlbinv f => Sys2Proof.Machine.execTlbinv f s
  | .launch => Sys2Proof.Machine.execLaunch s
  | .copy => Sys2Proof.Machine.execCopy s
  | .fill => Sys2Proof.Machine.execFill s
  | .gather => Sys2Proof.Machine.execGather s
  | .redadd => Sys2Proof.Machine.execRedadd s
  | .litBuild => Sys2Proof.Machine.execLitBuild s
  | .litDelta => Sys2Proof.Machine.execLitDelta s
  | .note => Sys2Proof.Machine.execNote s
  | .translate => Sys2Proof.Machine.execTranslate s
  | .commandDispatch => Sys2Proof.Machine.execCommandDispatch s
  | .commandComplete => Sys2Proof.Machine.execCommandComplete s
  | .teamPlace => Sys2Proof.Machine.execTeamPlace s
  | .rebalance => Sys2Proof.Machine.execRebalance s
  | .preemptRequest => Sys2Proof.Machine.execPreemptRequest s
  | .parkedTeamReturn => Sys2Proof.Machine.execParkedTeamReturn s
  | .budgetPeriod => Sys2Proof.Machine.execBudgetPeriod s
  | .contextReset => Sys2Proof.Machine.execContextReset s
  | .pageReclaim => Sys2Proof.Machine.execPageReclaim s
  | .afterglowRegister => Sys2Proof.Machine.execAfterglowRegister s
  | .afterglowPowerFail => Sys2Proof.Machine.execAfterglowPowerFail s
  | .modulePowerUp => Sys2Proof.Machine.execModulePowerUp s
  | .thermalThrottle => Sys2Proof.Machine.execThermalThrottle s
  | .thermalStop => Sys2Proof.Machine.execThermalStop s
  | .linkTraining => Sys2Proof.Machine.execLinkTraining s
  | .joethRequest => Sys2Proof.Machine.execJoethRequest s
  | .joethResponse => Sys2Proof.Machine.execJoethResponse s
  | .joethCollective => Sys2Proof.Machine.execJoethCollective s
  | .collectiveDissolve => Sys2Proof.Machine.execCollectiveDissolve s
  | .collectiveOutcome => Sys2Proof.Machine.execCollectiveOutcome s
  | .joethManagement => Sys2Proof.Machine.execJoethManagement s
  | .joethIdle => Sys2Proof.Machine.execJoethIdle s
  | .linkReplay => Sys2Proof.Machine.execLinkReplay s
  | .cxlMemRead => Sys2Proof.Machine.execCxlMemRead s
  | .cxlMemWrite => Sys2Proof.Machine.execCxlMemWrite s
  | .commandWindowWrite => Sys2Proof.Machine.execCommandWindowWrite s
  | .commandSlotTake => Sys2Proof.Machine.execCommandSlotTake s
  | .hostReadCompletion => Sys2Proof.Machine.execHostReadCompletion s
  | .hostAtomicCompletion => Sys2Proof.Machine.execHostAtomicCompletion s
  | .hostLinkDown => Sys2Proof.Machine.execHostLinkDown s
  | .illegalOpcode w => Sys2Proof.Machine.execIllegalOpcode w s
  | .hostLinkUp => Sys2Proof.Machine.execHostLinkUp s
  | .portLaneLoss => Sys2Proof.Machine.execPortLaneLoss s
  | .managementInterfaceAccess => Sys2Proof.Machine.execManagementInterfaceAccess s
  | .contextCreation => Sys2Proof.Machine.execContextCreation s
  | .queueTableWrite => Sys2Proof.Machine.execQueueTableWrite s

end Sys2Proof.Machine
end

