-- ==== Sys2Proof/Machine/Issue.lean ====
section
/-! DEFINITION. What a partition issues (08 R148 to R152): the bundle chosen, what holds a bundle back (10 R180, 15 R261, 16 R283,
R284, 20 R351, 23 R400), and the deferred faults a thread takes before its instruction. -/

namespace Sys2Proof.Machine

namespace State

/-- The parts of a bundle: its eligible threads by pointer and by iteration of a REP pair, ascending offset (R111, R148). -/
def partsOf (s : State) (b : List Nat) : List (List Nat) :=
  let live := b.filter s.eligible
  (s.pcsOf live).flatMap (fun q =>
    let here := live.filter (fun t => decide ((s.thread t).pc = q))
    let key (t : Nat) : Nat := let x := s.thread t; if x.inRep then x.rpc.toNat + 1 else 0
    ((orderBy (fun n => [n]) (here.map key)).eraseDups).flatMap (fun n =>
      let same := here.filter (fun t => key t == n)
      ((same.map (fun t => (s.thread t).pair)).eraseDups).map (fun p => same.filter (fun t => decide ((s.thread t).pair = p)))))

/-- Threads that are no longer eligible leave their bundles; bundles whose threads stand apart split (R148). -/
def settleBundles (s : State) (core part : Nat) : State :=
  let p := s.partition core part
  s.setPartition core part { p with bundles := p.bundles.flatMap s.partsOf }

/-- A list of threads leaves a partition's bundles until the next tick (R148, R400). -/
def dropThreads (s : State) (core part : Nat) (ts : List Nat) : State :=
  let p := s.partition core part
  (s.setPartition core part { p with
    bundles := (p.bundles.map (fun b => b.filter (fun t => !ts.contains t))).filter (fun b => b != []) }).mapThreads (fun tid t =>
      if ts.contains tid then { t with wait := .reply } else t)

/-- Threads about to execute their meeting address arrive; a speculating group that gets there stalls (R151, R180). -/
def arriveAll (s : State) (b : List Nat) : State :=
  (b.filter (fun t => arrives (s.thread t))).foldl (fun s t =>
    if (s.group (gidOf t)).spec.isSome then
      s.modGroup (gidOf t) (fun g => { g with spec := g.spec.map (fun sp => { sp with issues := 512 }) })
    else { evMeetingArrival { s with subject := .thread t } with subject := s.subject }) s

/-- The instruction a bundle is about to execute; of a pair under way, the REP as it was fetched (R111). -/
def nextOf (s : State) (b : List Nat) : Except Flt (List Word × Instr) :=
  match b with
  | [] => .ok ([], .hint 0)
  | t :: _ =>
    match s.repWords t with
    | .error e => .error e
    | .ok ws => .ok (ws, instrOf ws)

/-- A bundle of several groups that reaches a home-group instruction splits by group, ascending GIDX (R150). -/
def homeSplit (s : State) (b : List Nat) : List (List Nat) :=
  let gids := orderBy (fun g => [g]) (groupsIn b)
  match s.nextOf b with
  | .ok (_, i) =>
    match i.fields? with
    | some f => if homeGroup f.maj && decide (1 < gids.length) then gids.map (ofGroup b) else [b]
    | none => [b]
  | .error _ => [b]

/-- Every split a partition makes before it issues; the parts of one are remembered in order. -/
def splitAll (s : State) (core part : Nat) : State :=
  let p := s.partition core part
  let r := p.bundles.map s.homeSplit
  s.setPartition core part { p with bundles := r.flatten, forced := p.forced ++ (r.filter (fun x => decide (1 < x.length))).flatten }

/-- Must a split part wait for an earlier one of its bundle (R150)? -/
def behind (s : State) (p : Partition) (b : List Nat) : Bool :=
  match b with
  | [] => false
  | t :: _ =>
    p.forced.any (fun f => f.contains t) &&
      (p.forced.takeWhile (fun f => !f.contains t)).any (fun f => f.any (fun u =>
        s.eligible u && decide ((s.thread u).pc = (s.thread t).pc) && teamOf (gidOf u) == teamOf (gidOf t)))

end State

/-- What a bundle is about to do: the instruction's own fields, those that act (a REP's target at its iteration), the threads whose
guard is true. -/
structure Doing where
  f : Fields
  act : Fields
  threads : List Nat
  deriving DecidableEq, Repr

namespace State

/-- The fields of the target of a REP whose successor is at `next`. -/
def targetFields (s : State) (t : Nat) (next : Ptr) : Option Fields :=
  match s.targetWords t next with
  | .error _ => none
  | .ok ws => (instrOf ws).fields?

/-- The acting fields of a bundle: of a REP, its target advanced to the iteration (R109, R111). -/
def doing (s : State) (b : List Nat) (ws : List Word) (f : Fields) : Doing :=
  let own (g : Fields) : List Nat := b.filter (fun t => (s.thread t).guard g)
  match b with
  | [] => ⟨f, f, []⟩
  | t :: _ =>
    if f.maj = 0x0E ∧ f.mn = 5 then
      let on_ := b.filter (fun u => (s.thread u).repOn f)
      match s.targetFields t (ptrAdd (s.thread t).pc (4 * ws.length)) with
      | some tf =>
        let n := f.x.toNat
        let i := if (s.thread t).inRep then n - (s.thread t).rpc.toNat else 0
        let g := tf.shift (s.widthOf (gidOf t)) (i * f.d)
        ⟨f, g, on_.filter (fun u => (s.thread u).guard g)⟩
      | none => ⟨f, f, on_⟩
    else ⟨f, f, own f⟩

/-- The scope of the release an instruction makes (R266, R187). -/
def releaseScope (s : State) (f : Fields) (gid : Nat) : Option Nat :=
  match f.maj, f.mn with
  | 0x0F, 1 => if f.releases then some f.scope else none
  | 0x20, 0 => if f.releases then some f.scope else none
  | 0x21, 0 => if f.releases then some f.scope else none
  | 0x16, 1 => some (syncScope (match ((s.group gid).domain (cbDom f)).decl with | some x => x.level | none => 0))
  | _, _ => none

/-- Every vector register an instruction of a thread reads or writes (R284, R351): beside those it names, the one MOVI computes (R100) and
the entry of a YIELD (R201). -/
def vecsOf (s : State) (f : Fields) (tid : Nat) : List Nat :=
  let g := s.group (gidOf tid)
  vecsNamed (s.widthOf (gidOf tid)) f ++
    (if f.maj = 0x07 ∧ f.mn = 1 then [moviIndex f g (s.thread tid)]
    else if f.maj = 0x17 ∧ f.mn = 1 ∧ f.a ≠ 255 then
      (match g.gen with | some gen => (List.range gen.e).map (f.a + ·) | none => [])
    else [])

/-- Do a destination's registers meet those an instruction of a thread reads or writes? -/
def destNamed (s : State) (f : Fields) (tid : Nat) (d : Dest) : Bool :=
  let w := s.widthOf (gidOf tid)
  let span (size : Nat) : Nat := match size with | 3 => 2 | 4 => 4 | _ => 1
  let o := opnds w f
  let ray (sl : Slot) (n : Nat) : List Nat := match sl with | .ray => [n] | _ => []
  match d with
  | .vec r size _ => (s.vecsOf f tid).any (fun n => decide (r ≤ n) && decide (n < r + span size))
  | .scal r size _ => (scalsNamed w f).any (fun n => decide (r ≤ n) && decide (n < r + span size))
  | .ray r => (ray o.d f.d ++ ray o.a f.a ++ ray o.b f.b).contains r
  | .nothing => false
  | .nobody => false

/-- Does an outstanding access hold an instruction of a thread back (R351)? A scalar or ray destination belongs to the group. -/
def holds (s : State) (f : Fields) (tid : Nat) (a : Access) : Bool :=
  s.destNamed f tid a.dest &&
    (match a.dest with | .vec _ _ _ => a.tid == tid | _ => gidOf a.tid == gidOf tid)

/-- The outstanding accesses that hold a thread's instruction back. -/
def heldUp (s : State) (f : Fields) (tid : Nat) : List Access := (s.accesses.filter (fun e => s.holds f tid e.2)).map (·.2)

/-- Is a deferred fault of a thread due at its instruction (R351, R398, R411)? -/
def dueNow (s : State) (f : Fields) (tid : Nat) (d : Deferred) : Bool :=
  let last := (f.maj == 0x38 && f.mn == 3) || (f.maj == 0x0E && f.mn == 7)
  let waitc := f.maj == 0x30 && f.mn == 1
  d.now || last || (waitc && dueAtWaitc f.x d) ||
    (if d.store then (match s.releaseScope f (gidOf tid) with | some sc => decide (4 ≤ sc) | none => false)
      else s.destNamed f tid d.dest)

/-- The threads of a bundle that take a deferred fault before their instruction: each with its place in the thread's list. -/
def dueFaults (s : State) (b : List Nat) (d : Option Doing) : List (Nat × Nat) :=
  b.filterMap (fun t =>
    ((s.thread t).deferred.findIdx? (fun e => e.now || (match d with
      | some x => x.threads.contains t && s.dueNow x.act t e
      | none => false))).map (fun k => (t, k)))

/-- The stores of a group to other modules that are not acknowledged, and its posted writes that no flush has confirmed (R261 steps 3, 4,
R411). -/
def unacknowledged (s : State) (gid : Nat) : Bool :=
  s.accesses.any (fun e => gidOf e.2.tid == gid && decide (e.2.kind = .write))
def unperformed (s : State) (gid : Nat) : Bool := s.posted.any (fun p => p.gid == gid)
def flushing (s : State) (gid : Nat) : Bool := s.accesses.any (fun e => gidOf e.2.tid == gid && e.2.size == 5)

/-- Is an instruction of a kind that a speculating group does not issue (R180)?
DEDUCED: log entry 95. DEDUCED: log entry 118. -/
def nonSpeculable (s : State) (d : Doing) : Bool :=
  let one (f : Fields) : Bool :=
    match f.maj, f.mn with
    | 0x15, _ => true
    | 0x16, mn => mn < 3
    | 0x20, _ => true
    | 0x21, mn => mn < 3 || mn == 4
    | 0x30, mn => mn != 2
    | 0x38, _ => true
    | 0x39, _ => true
    | 0x17, _ => true
    | 0x18, _ => true
    | 0x19, _ => true
    | 0x23, _ => true
    | 0x24, _ => true
    | 0x25, _ => true
    | 0x07, mn => mn == 5
    | 0x0E, mn => 6 ≤ mn
    | 0x0F, mn =>
      (mn == 0 && f.vol) || (mn < 2 && d.threads.any (fun t =>
        let g := s.group (gidOf t)
        let x := s.descOn g.core (s.ctxOf (gidOf t)) (segOf (globalEa f g (s.thread t)))
        x.valid && (x.type == 5 || x.type == 6)))
    | _, _ => false
  one d.f || one d.act

/-- The fault of its own that a speculable instruction raises in a thread (R179). -/
def ownFault (s : State) (f : Fields) (tid : Nat) : Option Flt :=
  match f.maj, f.mn with
  | 0x07, 1 => moviFault f s tid
  | 0x0E, 3 => enterFault f s tid
  | 0x0F, 0 => s.globalFault tid (globalEa f (s.group (gidOf tid)) (s.thread tid)) f.sizeBytes f.size .read
  | 0x0F, 1 => s.storeFault f tid
  | 0x0F, 2 => spadFault f s tid false .read
  | 0x0F, 3 => spadFault f s tid (storeMask f (s.thread tid) == 0) .write
  | 0x22, _ => linkFault f s tid
  | _, _ => none

/-- The threads of a group in which an instruction has its effect: the others take none from it (R177 to R179). -/
def effective (s : State) (gid : Nat) (d : Doing) : List Nat :=
  (ofGroup d.threads gid).filter (fun t =>
    (s.decodeFault d.f t).isNone && (s.decodeFault d.act t).isNone && (s.ownFault d.act t).isNone)

/-- The registers whose first speculative write R177 copies aside: vectors, then scalars from 256, predicates from 512, of PUNPK those
its masks select (R97). -/
def newRegs (s : State) (gid : Nat) (d : Doing) : List Nat :=
  let f := d.act
  let w := s.widthOf gid
  let preds := if f.maj = 0x06 ∧ f.mn = 6 then
      (List.range 15).filter (fun n => (s.effective gid d).any (fun t => (f.opB false (s.group gid) (s.thread t)).getLsbD n))
    else predsWritten w f
  vecsWritten w f ++ (scalsWritten w f).map (256 + ·) ++ preds.map (512 + ·)

/-- A store instruction a speculating group holds (R178). -/
def isStore (f : Fields) : Bool := f.maj == 0x0F && (f.mn == 1 || f.mn == 3)

/-- What a group's checkpoint counts after an instruction of its threads (R177). -/
def specRegs (s : State) (gid : Nat) (d : Doing) (sp : Spec) : List Nat :=
  if (s.effective gid d).isEmpty then sp.regs else (sp.regs ++ s.newRegs gid d).eraseDups

/-- Does a speculating group stall at an instruction (R180)? -/
def stallsAt (s : State) (gid : Nat) (d : Doing) : Bool :=
  match (s.group gid).spec with
  | none => false
  | some sp =>
    s.nonSpeculable d || decide (64 < (s.specRegs gid d sp).length) ||
      (isStore d.act && !(s.effective gid d).isEmpty && decide (32 ≤ sp.held))

/-- EXIT waits (R108, R316): for the thread's remote accesses, its group's matrix queue, and, where it ends its team, for copies of the
team's scratchpad. DEDUCED: log entry 84. -/
def exitWaits (s : State) (d : Doing) : Bool :=
  d.threads.any (fun t => s.accesses.any (fun e => e.2.tid == t) || !(s.group (gidOf t)).mqueue.isEmpty ||
    (s.copying (teamOf (gidOf t)) &&
      (s.threadsOfTeam (teamOf (gidOf t))).all (fun u => decide ((s.thread u).life = .exited) || d.threads.contains u)))

/-- The compaction buffer's bytes of a group, where an instruction appends to it or starts a pass: their team, offset and length. -/
def bufferOf (s : State) (f : Fields) (gid : Nat) : List (Nat × Nat × Nat) :=
  match (if f.maj = 0x17 ∧ 1 ≤ f.mn ∧ f.mn ≤ 4 then (s.group gid).gen else none) with
  | some g =>
    [((s.spadTeam gid (g.buf.extractLsb' 19 2).toNat).getD (teamOf gid), (g.buf.extractLsb' 0 19).toNat, 4 * g.c * g.e)]
  | none => []

/-- The registers that the delivery of a pass fills, where an instruction may start one (R195). -/
def frameOf (f : Fields) (g : Group) : List Nat :=
  match (if f.maj = 0x17 ∧ 1 ≤ f.mn ∧ f.mn ≤ 4 then g.gen else none) with
  | some x => (List.range x.e).map (x.qb + ·)
  | none => []

/-- Does an instruction wait for its groups' queued matrix operations (R283, R284)? -/
def matrixWaits (s : State) (d : Doing) : Bool :=
  let f := d.act
  (groupsIn d.threads).any (fun gid =>
    let q := (s.group gid).mqueue
    let w := s.widthOf gid
    let spad := s.pendingSpad gid q
    (([0x23, 0x24, 0x25].contains f.maj) && decide (4 ≤ q.length)) ||
      (s.bufferOf f gid).any (fun b => spad.any (fun e => e.1 == b.1 && overlap e.2.1 e.2.2 b.2.1 b.2.2)) ||
      (ofGroup d.threads gid).any (fun t => (s.vecsOf f t).any (fun n => (pendingVecs w q).contains n)) ||
      (frameOf f (s.group gid)).any (fun n => (pendingVecs w q).contains n) ||
      (f.maj == 0x0F && (f.mn == 2 || f.mn == 3) && (ofGroup d.threads gid).any (fun t =>
        match s.checkSpad gid (spadEa f (s.group gid) (s.thread t)) f.sizeBytes f.size .read with
        | .ok (k, o) => spad.any (fun e => e.1 == k && overlap e.2.1 e.2.2 o f.sizeBytes)
        | .error _ => false)))

/-- A SEAL waits while a group holds a store into its range that has passed its checks (R267, R273, R385).
DEDUCED: log entry 121. -/
def sealWaits (s : State) (d : Doing) : Bool :=
  d.threads.any (fun t =>
    let r := s.sealRange d.act t
    let rs := s.homeRanges (some (s.group (gidOf t)).core) (s.ctxOf (gidOf t)) (segOf r.1) (offOf r.1) r.2
    s.groups.keys.any (fun g => (s.storesOpen g).any (fun h => h.spad.isNone && h.bytes.any (fun c => inRanges rs c.1))))

/-- A BARI of an even core comes before one that the odd core of its pair issues in the same cycle: behind it, it waits (R167). -/
def bariWaits (s : State) (d : Doing) : Bool :=
  d.threads.any (fun t =>
    (s.group (gidOf t)).core % 2 == 0 && (s.barrier (teamOf (gidOf t)) (barId d.act)).bari == s.cycle + 1)

/-- Does an instruction move lines between HBM and its domain (R368)? DEDUCED: log entry 130. -/
def usesHbm (f : Fields) : Bool :=
  match f.maj, f.mn with
  | 0x0F, 0 => true
  | 0x0F, 1 => f.releases
  | 0x0F, 3 => f.releases
  | 0x16, mn => mn == 1
  | 0x19, mn => mn == 4 || mn == 5
  | 0x20, _ => true
  | 0x21, mn => mn < 3
  | 0x22, _ => true
  | 0x23, mn => mn == 0
  | 0x24, mn => mn == 0
  | 0x30, mn => mn == 0 || mn == 3 || mn == 4
  | 0x38, mn => mn == 0
  | 0x39, mn => mn == 2
  | _, _ => false

/-- The pointer of a load, store or atomic of a thread (R130, R225, R271). -/
def accessPtr (s : State) (f : Fields) (tid : Nat) : Option Ptr :=
  if (f.maj = 0x0F ∧ f.mn < 2) ∨ f.maj = 0x20 then some (globalEa f (s.group (gidOf tid)) (s.thread tid))
  else if f.maj = 0x19 ∧ 4 ≤ f.mn then some (rayEa s (gidOf tid) f)
  else none

/-- The pointers whose lookups an instruction of a thread makes: those of its accesses, the range of SEAL and UNSEAL, the linkage entry, the
completion record of a PUSH, the reply block of an SVC. -/
def namedPtrs (s : State) (f : Fields) (tid : Nat) : List Ptr :=
  match s.accessPtr f tid with
  | some p => [p]
  | none =>
    match f.maj, f.mn with
    | 0x21, 1 => [(s.sealRange f tid).1]
    | 0x21, 2 => [(s.sealRange f tid).1]
    | 0x22, _ => [(linkEntry f s (gidOf tid)).1]
    | 0x30, 0 => [(s.pushed f (gidOf tid)).record]
    | 0x38, 0 => [(s.group (gidOf tid)).reply]
    | _, _ => []

/-- The lines that an instruction's fetch reads (R63), with its lookups. -/
def fetchLines (s : State) (tid : Nat) (pc : Ptr) (len : Nat) : List Nat :=
  s.lookupLines (some (s.group (gidOf tid)).core) (s.ctxOf (gidOf tid)) none pc ++
    ((List.range (len / 4)).flatMap (fun k =>
      match s.check (s.agent tid) (ptrAdd pc (4 * k)) 4 2 .fetch with
      | .ok _ (.home a) => [a / 64]
      | _ => [])).eraseDups

/-- What the fetch of an issue and the lookups of its threads read at home (R386). -/
def touchIssue (s : State) (len : Nat) (d : Option Doing) : State :=
  let s := s.touchLines (s.fetchLines (s.issue.threads.headD 0) s.issue.self len)
  match d with
  | some x => s.readLines (x.threads.flatMap (fun t => (s.namedPtrs x.act t).flatMap (fun p =>
      s.lookupLines (some (s.group (gidOf t)).core) (s.ctxOf (gidOf t)) (some t) p)))
  | none => s

/-- Does an instruction of a thread send a request to another module (R368, R398)? -/
def usesFlit (s : State) (f : Fields) (tid : Nat) : Bool :=
  let g := s.group (gidOf tid)
  match s.accessPtr f tid with
  | some p => let d := s.descOn g.core (s.ctxOf (gidOf tid)) (segOf p); d.valid && d.type == 6
  | none => false

/-- Does an instruction wait for the next period, its activity's HBM units or flits being spent (R368)? -/
def budgetWaits (s : State) (d : Doing) : Bool :=
  d.threads.any (fun t =>
    let act := s.activityOfGroup (gidOf t)
    (usesHbm d.act && s.spent act 1) || (s.spent act 2 && s.usesFlit d.act t))

/-- Does an instruction obtain a value from outside its group's own registers, which its shadow takes from the load-value queue (R384)? What
SRD and the other instructions of the system read is the leader's (R383). DEDUCED: log entry 131. -/
def obtains (f : Fields) : Bool :=
  match f.maj, f.mn with
  | 0x07, mn => mn == 4
  | 0x0E, mn => mn == 7
  | 0x0F, mn => mn == 0 || mn == 2
  | 0x19, mn => mn == 4
  | maj, _ => [0x15, 0x16, 0x17, 0x20, 0x21, 0x22, 0x30, 0x38, 0x39].contains maj

/-- The registers, by number, that such an instruction gives its threads: those it writes, the ray of an HLD, FPSR of a WAITC (R287), and the
frames and predicates of a consumer pass (R195). -/
def obtained (s : State) (gid : Nat) (f : Fields) : List Nat :=
  let w := s.widthOf gid
  vecsWritten w f ++ (scalsWritten w f).map (256 + ·) ++ (predsWritten w f).map (512 + ·) ++
    (if f.maj = 0x19 then (List.range w).map (1024 + 64 * f.d + ·) ++ [4096 + f.d] else []) ++
    (if f.maj = 0x30 then [8191] else []) ++
    (if f.maj = 0x17 ∨ f.maj = 0x0E then
      (match (s.group gid).gen with | some g => (List.range g.e).map (g.qb + ·) | none => []) ++ (List.range 15).map (512 + ·)
    else [])

/-- The threads of a group that an instruction gives values. -/
def obtainers (gid : Nat) (f : Fields) (b : Beat) : List Nat :=
  if f.maj = 0x17 ∨ f.maj = 0x0E then b.own.keys else ofGroup b.issue.threads gid

/-- Has a value of a thread's instruction still to come, of an access under way? -/
def toCome (s : State) (tid turn : Nat) : Bool :=
  s.accesses.any (fun e => e.2.tid == tid && e.2.turn == turn && e.2.cmd == 0 && decide (e.2.dest ≠ .nothing) && decide (e.2.dest ≠ .nobody))

/-- Does a thread wait, or is a trap slot to bring it back to a wait (R348)? -/
def waiting (t : Thread) : Bool :=
  let held (o : Option TrapSlot) : Bool := match o with | some x => decide (x.wait ≠ .none) | none => false
  decide (t.wait ≠ .none) || held t.slotS || held t.slotF || held t.slotP

/-- An issue's values enter the load-value queue as they are there (R384); those of a thread that waits come as its wait ends. -/
def fillBeat (s : State) (gid : Nat) (w : Twin) (b : Beat) : Beat × List (Nat × List Nat) :=
  match b.act.filter obtains with
  | none => (b, [])
  | some f =>
    let regs := s.obtained gid f
    let ts := (obtainers gid f b).filter (fun t => !(b.takes.map (·.tid)).contains t && !s.toCome t b.turn)
    ({ b with takes := b.takes ++ ts.map (fun t => ⟨t, if waiting (s.thread t) then [] else regs.map (fun n => (n, w.value t n))⟩) },
      (ts.filter (fun t => waiting (s.thread t))).map (fun t => (t, regs)))

/-- What a group has obtained so far enters its shadow's load-value queue: an instruction's values with the instruction, those of a wait that
has ended with the last issue before its end. -/
def fillQueue (s : State) (gid : Nat) : State :=
  match (s.group gid).shadow with
  | none => s
  | some sh =>
    let w := s.twinOf gid
    let bs := sh.lag.map (s.fillBeat gid w)
    let lag := bs.map (·.1)
    let late := (sh.owed.filter (fun o => !waiting (s.thread o.1))).map (fun o => (⟨o.1, o.2.map (fun n => (n, w.value o.1 n))⟩ : Take))
    let owed := sh.owed.filter (fun o => waiting (s.thread o.1)) ++ bs.flatMap (·.2)
    let next := match lag.getLast? with
      | some b => { sh with lag := lag.dropLast ++ [{ b with takes := b.takes ++ late }], owed := owed }
      | none => { sh with twin := late.foldl Twin.take sh.twin, owed := owed }
    s.modGroup gid (fun g => { g with shadow := some next })

/-- Is an instruction's output compared with the shadow's as it issues (R385)? DEDUCED: log entry 131. -/
def comparesNow (s : State) (d : Doing) : Bool :=
  match d.act.maj, d.act.mn with
  | 0x0F, mn => (mn == 1 || mn == 3) && s.matchesNow d.act d.threads
  | 0x19, mn => mn == 5
  | 0x20, _ => true
  | 0x25, mn => mn == 2 || mn == 3
  | 0x30, mn => mn == 0
  | 0x38, mn => mn == 0
  | _, _ => false

/-- Does an instruction make a release (R266), or reach what its group has stored by a way round the compare buffer (R284)? -/
def emptiesBuffer (f : Fields) : Bool :=
  match f.maj, f.mn with
  | 0x15, mn => mn < 3
  | 0x16, mn => mn == 1
  | 0x17, mn => decide (1 ≤ mn) && decide (mn ≤ 4)
  | 0x19, mn => mn == 4
  | 0x21, mn => (mn == 0 && f.releases) || mn == 1 || mn == 2
  | 0x23, mn => mn == 2
  | 0x24, mn => mn == 0
  | 0x30, mn => mn == 3 || mn == 4
  | 0x39, mn => mn == 2
  | _, _ => false

/-- A leader 64 issues ahead, or with 32 entries in its compare buffer, stalls (R383, R385). DEDUCED: log entry 131. -/
def shadowFull (s : State) (gid : Nat) : Bool :=
  match (s.group gid).shadow with
  | some sh => decide (64 ≤ sh.lag.length) || decide (32 ≤ ((sh.buffer.map (·.tag)).eraseDups).length)
  | none => false

/-- Does an instruction wait for its leader's shadow: to have issued all before it, for an empty compare buffer (R385), or, of an LDS, for the
thread's own earlier stores to the member (R265)? -/
def shadowWaits (s : State) (d : Doing) : Bool :=
  (groupsIn d.threads).any (fun gid =>
    match (s.group gid).shadow with
    | some sh =>
      ((!sh.lag.isEmpty || sh.owed.any (fun o => !waiting (s.thread o.1)) || (d.act.maj == 0x25 && !(s.group gid).mqueue.isEmpty)) &&
        ((d.act.maj == 0x0E && d.act.mn == 7) || s.comparesNow d)) ||
        (!sh.buffer.isEmpty && emptiesBuffer d.act) ||
        (d.act.maj == 0x0F && d.act.mn == 2 && (ofGroup d.threads gid).any (fun t =>
          match s.checkSpad gid (spadEa d.act (s.group gid) (s.thread t)) d.act.sizeBytes d.act.size .read with
          | .ok (k, _) => sh.buffer.any (fun h => h.tid == t && decide (h.spad = some k))
          | .error _ => false))
    | none => false)

/-- An issue, set up already, joins what its groups' shadows have still to issue (R383, R384). DEDUCED: log entry 131. -/
def lead (s : State) (i : Instr) (d : Option Doing) : State :=
  (groupsIn s.issue.threads).foldl (fun s gid =>
    let s := s.fillQueue gid
    s.modGroup gid (fun g => { g with shadow := g.shadow.map (fun sh => { sh with
      lag := sh.lag ++ [⟨s.turn, i, d.map (·.act), s.issue,
        (s.threads.filter (fun e => gidOf e.1 == gid)).map (fun e => (e.1, e.2.asLane ⟨[], 0, 0, 0⟩)), [], []⟩]
      branch := match d with | some x => if x.act.maj = 0x16 ∧ x.act.mn < 2 then some s.turn else sh.branch | none => sh.branch }) })) s

/-- Does an instruction wait for something that is under way: an acknowledgement of a release (R261), an unresolved branch (R184,
R187), the matrix queue, held stores (SEAL), a BARI of the pair's other core, the shadow, the next period, or what EXIT awaits? -/
def waits (s : State) (d : Doing) : Bool :=
  let f := d.act
  (groupsIn d.threads).any (fun gid =>
    (match s.releaseScope f gid with
      | some sc => (decide (4 ≤ sc) && s.unacknowledged gid) || (sc == 5 && s.flushing gid)
      | none => false) ||
    (f.maj == 0x16 && f.mn < 2 && (s.group gid).doms.any (fun e => e.2.inFlight))) ||
  s.budgetWaits d || s.shadowWaits d || s.matrixWaits d || (f.maj == 0x0E && f.mn == 7 && s.exitWaits d) || (f.maj == 0x21 && f.mn == 1 && s.sealWaits d) ||
    (f.maj == 0x15 && f.mn == 3 && s.bariWaits d)

/-- The groups of a bundle whose release at sys has to ask the host first (R261 step 4, R411). -/
def toFlush (s : State) (d : Doing) : List Nat :=
  (groupsIn d.threads).filter (fun gid => decide (s.releaseScope d.act gid = some 5) && s.unperformed gid && !s.flushing gid)

/-- The zero-length read of a group's sys release leaves (R411). -/
def startFlush (s : State) (gid tid : Nat) : State :=
  match s.posted.find? (fun p => p.gid == gid) with
  | none => s
  | some p => s.startAccess (s.accessOf tid (s.thread tid).pc p.addr p.far .read 5 0 .nothing)

end State

/-- What a partition does with a bundle: nothing, something that issues no instruction, or an instruction for threads of it. -/
inductive Plan where
  | wait
  | aside (s : State)
  | fetchFault (e : Flt)
  | go (i : Instr) (len : Nat) (threads : List Nat) (d : Option Doing) (late : List Nat)

namespace State

/-- The plan for a bundle of a partition. -/
def plan (s : State) (b : List Nat) : Plan :=
  match s.nextOf b with
  | .error e => .fetchFault e
  | .ok (ws, i) =>
    let d := i.fields?.map (s.doing b ws)
    let due := s.dueFaults b d
    if due != [] then .aside (due.foldl (fun s e => s.takeDeferred e.1 e.2) s)
    else if (groupsIn b).any s.shadowFull then .wait
    else
      match d with
      | none => .go i (4 * ws.length) b none []
      | some x =>
        let stall := (groupsIn b).filter (fun g => s.stallsAt g x)
        if stall != [] then
          .aside (stall.foldl (fun s g => s.modGroup g (fun y => { y with
            spec := y.spec.map (fun sp => { sp with issues := 512 }) })) s)
        else
          let pend := x.threads.map (fun t => (t, s.heldUp x.act t))
          let late := (pend.filter (fun e => !e.2.isEmpty)).map (·.1)
          let keep := b.filter (fun t => !late.contains t)
          if keep = [] ∨ pend.any (fun e => e.2.any (fun a => !a.spl)) then .wait
          else if s.waits { x with threads := x.threads.filter (fun t => !late.contains t) } then .wait
          else
            match s.toFlush x with
            | [] => .go i (4 * ws.length) keep (some x) late
            | gids => .aside (gids.foldl (fun s g => s.startFlush g ((ofGroup x.threads g).getD 0 0)) s)

end State

/-- Is a plan something to do now? -/
def Plan.ready : Plan → Bool
  | .wait => false
  | _ => true

namespace State

/-- The level of a bundle (R152). -/
def levelOf (s : State) (b : List Nat) : Nat := (groupsIn b).foldl (fun m g => min m (s.group g).level) 7

/-- How long a bundle has waited: its longest-waiting thread (R152). -/
def idleOf (s : State) (b : List Nat) : Nat := (b.map (fun t => (s.thread t).idleTicks)).foldl max 0

/-- The key by which ready bundles are chosen, the least first (R152): the window, the level, the one that issued in the last cycle, the
age of the team, the place in formation order. The order of bundles that have waited past the window equally long: DEDUCED, log entry 94. -/
def chooseKey (s : State) (p : Partition) (n : Nat) : List Nat :=
  let b := p.bundles.getD n []
  let idle := s.idleOf b
  let greedy := decide (p.lastAt = s.cycle) && b.any (fun t => p.last.contains t)
  if 192 ≤ idle then [0, 2 ^ 64 - idle, n]
  else [1, s.levelOf b, if greedy then 0 else 1] ++ s.ageKey (gidOf (b.getD 0 0)) ++ [n]

/-- What one issue adds to a group's speculation (R176 to R178). DEDUCED: log entry 104. -/
def countSpec (s : State) (gid : Nat) (d : Option Doing) (sp : Spec) : Spec :=
  match d with
  | some x => { sp with
      issues := sp.issues + 1
      held := sp.held + (if isStore x.act && !(s.effective gid x).isEmpty then 1 else 0)
      regs := s.specRegs gid x sp }
  | none => { sp with issues := sp.issues + 1 }

/-- Does what a thread has read ahead of its loads stand at an instruction (R265, R266)? Not past an acquire, nor past its own store to the
member or its group's ACCSP (R284). -/
def staysAhead (s : State) (d : Option Doing) (e : SpadRead) : Bool :=
  match d with
  | none => true
  | some x =>
    let f := x.act
    if !x.threads.contains e.tid then true
    else
      match f.maj, f.mn with
      | 0x0F, 3 =>
        match s.checkSpad (gidOf e.tid) (spadEa f (s.group (gidOf e.tid)) (s.thread e.tid)) 1 0 .write with
        | .ok (k, _) => k != e.team
        | .error _ => true
      | 0x15, mn => mn != 0 && mn != 2
      | 0x16, mn => mn != 1
      | 0x22, _ => false
      | 0x25, mn => mn != 3
      | 0x30, mn => mn != 1
      | 0x38, mn => mn != 0
      | maj, mn => !((maj == 0x0F || maj == 0x20 || (maj == 0x21 && mn == 0)) && f.acquires)

/-- What a bundle's issue leaves in the records of the partition, its groups and its threads (R147, R151, R152, R177 to R180). -/
def recordIssue (s : State) (core part : Nat) (b : List Nat) (d : Option Doing) : State :=
  let p := s.partition core part
  let s := s.setPartition core part { p with
    last := b, lastAt := s.cycle + 1
    forced := (p.forced.map (fun f => f.filter (fun t => !b.contains t))).filter (fun f => f != []) }
  let gids := groupsIn b
  let s := s.countSlot (s.activityOfGroup (gidOf (b.headD 0))) core part
  let s := { s with groups := s.groups.mapKV (fun k g =>
    if gids.contains k then
      { g with
        lastIssue := s.cycle + 1
        spec := g.spec.map (s.countSpec k d) }
    else g) }
  { s with ahead := s.ahead.filter (s.staysAhead d) }.mapThreads (fun tid t =>
    if b.contains tid then { t with released := false, issued := true, idleTicks := 0 } else t)

/-- The bundle put in place for its instruction. -/
def setIssue (s : State) (core part : Nat) (b : List Nat) (len : Nat) : State :=
  let t := b.getD 0 0
  let pc := (s.thread t).pc
  { s with issue := ⟨core, part, teamOf (gidOf t), b, pc, pc, ptrAdd pc len, false, 0⟩ }

/-- A partition before it issues: arrivals at meetings, threads that left, bundles that split. -/
def settled (s : State) (core part : Nat) : State :=
  let s := s.settleBundles core part
  let s := s.arriveAll (s.partition core part).bundles.flatten
  (s.settleBundles core part).splitAll core part

/-- The bundles a partition may choose from, by number: those the turn names as ready, whose budget lasts and whose plan is not to
wait (R152, R368). DESIGN CHOICE: log entry 99. -/
def choices (s : State) (core part : Nat) (ready : List Nat) : List Nat :=
  let p := s.partition core part
  (List.range p.bundles.length).filter (fun n =>
    let b := p.bundles.getD n []
    ready.contains n && !s.behind p b && !(groupsIn b).any s.slotsSpent && (s.plan b).ready)

/-- ONE ISSUE OF A PARTITION (R152): the state in which the chosen bundle's instruction is performed, and the instruction; none where
nothing issues, or where a fault comes before an instruction. -/
def prepare (s : State) (core part : Nat) (ready : List Nat) : State × Option Instr :=
  if s.stopped || decide ((s.partition core part).lastAt = s.cycle + 1) then (s, none)
  else
    let s := s.settled core part
    let p := s.partition core part
    match orderBy (s.chooseKey p) (s.choices core part ready) with
    | [] => (s, none)
    | n :: _ =>
      let b := p.bundles.getD n []
      match s.plan b with
      | .wait => (s, none)
      | .aside s' => (s'.settleBundles core part, none)
      | .fetchFault e =>
        let s := (s.recordIssue core part b none).setIssue core part b 4
        ((s.deliverAll (b.map (fun t => (⟨t, e.code, e.addr, e.aux⟩ : Raised)))).settleBundles core part, none)
      | .go i len threads d late =>
        let s := s.dropThreads core part late
        ((((s.recordIssue core part threads d).setIssue core part threads len).lead i d).touchIssue len d, some i)

end State

end Sys2Proof.Machine
end

