-- ==== Sys2Proof/Machine/Outside.lean ====
section
/-! DEFINITION. The turns that no row of the table of operations stands for (log entry 1): what cores cache of their own accord (14
R232, 15 R260), what firmware, the runtime, service teams and the host do (14 R229, R240, 20 R362, R364, 23 R411), and errors as
they arise (21 R379, R380, R385). -/

namespace Sys2Proof.Machine

namespace State

/-- A core caches the translation of a page as memory holds it (R232, R236). -/
def cachePage (s : State) (core ctx page : Nat) : State :=
  if core < 388 ∧ ctx < 64 ∧ page < 2 ^ 32 then
    match s.walk ctx (page * 65536) with
    | some e => { s with pages := s.pages.put ((64 * core + ctx) * 2 ^ 32 + page) e }
    | none => s
  else s

/-- A core caches a valid segment descriptor as memory holds it (R232). DEDUCED: log entry 98. -/
def cacheDesc (s : State) (core ctx seg : Nat) : State :=
  if core < 388 ∧ ctx < 64 ∧ seg < 2 ^ 20 ∧ (s.descHome ctx seg).valid then
    let a := (s.context ctx).segBase + 32 * seg
    let w : DescWords := ⟨s.homeWord a, s.homeWord (a + 8), s.homeWord (a + 16), s.homeWord (a + 24)⟩
    { s with descs := s.descs.put ((64 * core + ctx) * 2 ^ 20 + seg) w }
  else s

/-- A thread's oldest relaxed scratchpad store to a member is performed, with what goes before it (R265). -/
def spadStore (s : State) (tid team : Nat) : State :=
  match (s.group (gidOf tid)).spadPath.find? (fun p => p.tid == tid && p.team == team) with
  | none => s
  | some p => s.performSpad (gidOf tid) (· == p)

/-- A later relaxed scratchpad load of a running thread is performed ahead of those between (R265): not before the thread's stores to the
member, nor before a queued matrix operation on the bytes (R284). DEDUCED: log entry 122. -/
def spadAhead (s : State) (tid : Nat) (sa : Word) (size : Nat) : State :=
  let g := s.group (gidOf tid)
  match s.checkSpad (gidOf tid) sa (2 ^ size) size .read with
  | .error _ => s
  | .ok (k, o) =>
    if size < 5 && (s.thread tid).ready && (s.threads.get? tid).isSome && decide ((s.teamAt (gidOf tid)).place = .resident)
        && !g.spadPath.any (fun p => p.tid == tid && p.team == k)
        && !(s.unmatched (gidOf tid)).any (fun h => h.tid == tid && decide (h.spad = some k))
        && !(s.pendingSpad (gidOf tid) g.mqueue).any (fun e => e.1 == k && overlap e.2.1 e.2.2 o (2 ^ size))
        && !(match g.spec with | some sp => sp.stores.any (fun h => h.tid == tid && decide (h.spad = some k)) | none => false) then
      { s with ahead := s.ahead ++ [⟨tid, k, o, (List.range (2 ^ size)).map (fun j => s.spadByte tid k (o + j))⟩] }
    else s

/-- A domain fills a line of its snapshot from home ahead of a load (R260); one that would be met in error is left to the load, which meets it. -/
def fillLine (s : State) (dom line : Nat) : State :=
  if ((s.domain dom).lines.get? line).isSome then s
  else
    let r := s.meetLine line
    match r.2 with
    | .sound => r.1.modDomain dom (fun p => { p with lines := p.lines.put line (s.homeBytes (64 * line) 64) })
    | _ => s

/-- Bytes of HBM written at their home by a party of no phase domain. -/
def homeWrite (s : State) (a : Nat) (bs : List Byte) : State :=
  if a + bs.length ≤ 2 ^ 52 then s.putCells ((List.range bs.length).map (fun k => (a + k, bs.getD k 0))) else s

/-- A lease extension granted by the runtime (R240): it takes effect only with its pages present. -/
def grant (s : State) (launch seg off len : Nat) (rights : BitVec 2) : State :=
  let more : Lease := ⟨seg, off, len, rights⟩
  if s.leasesPresent { s.launch launch with leases := [more] } then
    s.modLaunch launch (fun l => { l with leases := l.leases ++ [more] })
  else s

/-- An error arises in a stored line (R379, R380). -/
def upset (s : State) (line : Nat) (correctable : Bool) : State :=
  if line < 2 ^ 46 then { s with badLines := s.badLines.put line correctable } else s

/-- A gang meets an uncorrectable error in a core SRAM (R380, R381): FADDR 0; FAUX holds source 2 to 7, kind and size. -/
def sramUpset (s : State) (tid : Nat) (source : BitVec 4) (kind : BitVec 2) (size : BitVec 3) : State :=
  if (s.thread tid).life = .running ∧ (s.teamAt (gidOf tid)).place = .resident ∧ 2 ≤ source.toNat ∧ source.toNat ≤ 7 then
    let s := s.modDie (dieOfCore (s.group (gidOf tid)).core) (fun d => { d with uncorrected := bump d.uncorrected })
    s.take ⟨tid, codeUncorrectable, 0, BitVec.ofNat 32 (source.toNat * 256 + kind.toNat * 8 + size.toNat)⟩ (s.thread tid).pc
      (s.thread tid).pc (BitVec.ofNat 32 (2 ^ (laneOf tid % 32)))
  else s

/-- A corrected error counted on its die (R379). -/
def sramCorrected (s : State) (die : Nat) : State :=
  if die < 4 then s.modDie die (fun d => { d with corrected := bump d.corrected }) else s

/-- A die cache makes a mirror of a sealed line (R267); one that would be met in error is not made, and the reader that asks for the line meets
it as a load (R380). -/
def mirrorLine (s : State) (die line : Nat) : State :=
  if 4 ≤ die ∨ !s.sealedHome (64 * line) 64 ∨ (s.mirrors.get? (4 * line + die)).isSome then s
  else
    let r := s.meetLine line
    match r.2 with
    | .sound => { r.1 with mirrors := r.1.mirrors.put (4 * line + die) (s.homeBytes (64 * line) 64) }
    | _ => s

/-- The state in which a shadow makes an issue of its leader (R383, R384): its own registers, the group's threads as the leader's issue found
them, and the scratchpad bytes that a queued operation of the issue has read. -/
def shadowView (s : State) (gid : Nat) (b : Beat) : State :=
  let s := { s with threads := b.own.foldl (fun (m : Tab Thread) (e : Nat × Thread) => m.put e.1 e.2) s.threads, issue := b.issue }
  let s := (s.twinView gid).modGroup gid (fun g => { g with spec := none, mqueue := [], spadPath := [] })
  b.rows.foldl (fun s r => s.spadCells r.1 [r.2]) s

/-- Has a value that a shadow needs next not come yet: data of an access under way, what a queued operation reads, or the outcome of a branch
(R384)? -/
def shadowAwaits (s : State) (gid : Nat) (sh : Shadow) (b : Beat) : Bool :=
  (s.group gid).mqueue.any (fun o => o.turn == b.turn) ||
    (match b.act.filter obtains with
      | some f => (obtainers gid f b).any (fun t => !(b.takes.map (·.tid)).contains t)
      | none => false) ||
    (decide (sh.branch = some b.turn) && ((s.group gid).spec.isSome || (s.group gid).doms.any (fun e => e.2.inFlight)))

/-- The output of a shadow's issue that differs from its leader's, if one does (R385). -/
def outputDiffers (s : State) (b : Beat) (l : List HeldStore) : Option (HeldStore × Nat) :=
  match b.act with
  | some f => l.findSome? (fun h => ((⟨h.addr, h.data, h.mask, []⟩ : Output).differs (storeOut f h.tid s)).map (fun w => (h, w)))
  | none => none

/-- A queue of matrix operations as the shadow performs it, with its instruction (R284). -/
def endQueue (s : State) (gid : Nat) : State :=
  (s.group gid).mqueue.foldl (fun s _ => evMatrixOpComplete { s with subject := .group gid }) s

/-- THE SHADOW ISSUES the next instruction of its leader's stream (R383 to R385) on its own registers, as `run` performs it: it takes the
values from the load-value queue, and the stores of that instruction that wait in the compare buffer are matched, or SDC_MISMATCH is
raised in the leader's thread. -/
def shadowStep (run : Instr → State → State) (s : State) (gid : Nat) : State :=
  let s := s.fillQueue gid
  match (s.group gid).shadow with
  | none => s
  | some sh =>
    match sh.lag with
    | [] => s
    | b :: r =>
      if s.shadowAwaits gid sh b || decide ((s.teamAt gid).place ≠ .resident) then s
      else
        let mine := sh.buffer.filter (fun h => h.tag == b.turn)
        let v := s.shadowView gid b
        match v.outputDiffers b mine with
        | some (h, w) => s.take ⟨h.tid, codeSdc, h.addr, BitVec.ofNat 32 w⟩ h.pc h.pc (BitVec.ofNat 32 (2 ^ (laneOf h.tid % 32)))
        | none =>
          let next : Shadow :=
            { sh with
              lag := r
              branch := if sh.branch = some b.turn then none else sh.branch
              buffer := sh.buffer.filter (fun h => h.tag != b.turn)
              twin := b.takes.foldl Twin.take (((run b.instr v).endQueue gid).twinOf gid) }
          mine.foldl onPath (s.modGroup gid (fun g => { g with shadow := some next }))

/-- A soft error in a register of a shadow: it comes to light at the output it reaches (R385). -/
def softError (s : State) (tid reg : Nat) (bits : Word) : State :=
  if reg < 352 then
    s.modGroup (gidOf tid) (fun g => { g with shadow := g.shadow.map (fun sh => { sh with
      twin := sh.twin.setValue tid reg (sh.twin.value tid reg ^^^ bits) }) })
  else s

end State

/-- What a turn does that is no event of the table and no issue; `clock` and `shadowStep` are performed elsewhere. -/
def outside (t : Turn) (s : State) : State :=
  match t with
  | .event _ _ => s
  | .issue _ _ _ => s
  | .clock => s
  | .cachePage core ctx page => s.cachePage core ctx page
  | .cacheDesc core ctx seg => s.cacheDesc core ctx seg
  | .spadStore tid team => s.spadStore tid team
  | .spadAhead tid sa size => s.spadAhead tid sa size
  | .fillLine dom line => s.fillLine dom line
  | .homeWrite a bs => s.homeWrite a bs
  | .hostWrite a bs => { s with hostMem := s.hostMem.putBytes a bs }
  | .answer die status detail results => s.answerBatch die status detail results
  | .lease l seg off len rights => s.grant l seg off len rights
  | .upset line c => s.upset line c
  | .sramUpset tid source kind size => s.sramUpset tid source kind size
  | .sramCorrected die => s.sramCorrected die
  | .softError tid reg bits => s.softError tid reg bits
  | .shadowStep _ => s
  | .mirror die line => s.mirrorLine die line
  | .setRebal n => s.setRebal n
  | .copyTable ctx => s.tableTo ctx
  | .coolDown => { s with halved := false, stopped := false }
  | .hostPerform => if s.hostUp then s.hostPerform else s
  | .hostDo k => if s.hostUp then s.hostDo k else s
  | .firmwarePush ctx handle pin words => s.firmwarePush ctx handle pin words

end Sys2Proof.Machine
end

