-- ==== Sys2Proof/Machine/Stage.lean ====
section
/-! DEFINITION. A module with one instruction placed where a partition issues it next (log entry 20): the tables, the code page, one
resident team of one thread in kernel mode, its bundle, and the issue on the agenda. It stands for what firmware, the runtime and a
launch set up before a program runs (14 R229, R235, 18 R325, R327). -/

namespace Sys2Proof.Machine

/-- The bytes of an encoding numbered as the table of operations numbers it, five words long. -/
def stageBytes (nbits w : Nat) : List Byte := (tableWords nbits w).flatMap bytesOfWord

/-- The code page's frame, and the pointer of the instruction: segment 5, offset 0. -/
def stageFrame : Nat := 0x20000
def stagePc : Ptr := mkPtr 5 0

/-- The four translation tables, from 0x10000 on, each with its first entry: the last names the frame with every right (R235). -/
def stageTables : List (Nat × DWord) :=
  [(0x10000, 0x8000000000010800), (0x10800, 0x8000000000011000), (0x11000, 0x8000000000011800), (0x11800, 0x8380000000020000)]

/-- The descriptor of segment 5 in the table at 0x12000: CODE, read and execute, base 0, 64 KiB (R230). -/
def stageSegment : List (Nat × DWord) := [(0x120A0, 0x9A00000000000000), (0x120A8, 0x10000)]

def stageContext : Context :=
  { Context.blank with segBase := 0x12000, stl := 8, tableBase := 0x10000, pkr := 0xFFFFFFFFFFFFFFFF, pkr0 := 0xFFFFFFFFFFFFFFFF }

def stageLaunch : Launch :=
  { Launch.blank with
    ctx := 1, id := 1, width := 16, tsize := 1, regs := 255, tiles := 16, accs := 32, rays := 32, spad := 65536, entry := stagePc,
    teams := 1, handed := 1, kernel := true }

def stageTeam : Team :=
  { Team.blank with launch := 1, cores := [0], place := .resident, tsize := 1, kernel := true }

def stageThread : Thread := Thread.start stagePc 0

namespace State

/-- The machine with the bytes of one instruction staged. -/
def staged (s : State) (bytes : List Byte) : State :=
  let words (m : Tab Byte) (l : List (Nat × DWord)) : Tab Byte := l.foldl (fun m e => m.putBytes e.1 (leBytes 8 e.2.toNat)) m
  { s with
    hbm := (words (words s.hbm stageTables) stageSegment).putBytes stageFrame bytes
    contexts := s.contexts.put 1 stageContext
    launches := s.launches.put 1 stageLaunch
    teams := s.teams.put 1 stageTeam
    groups := s.groups.put 1024 { Group.blank with active := true }
    threads := s.threads.put 65536 stageThread
    parts := s.parts.put 0 { Partition.empty with bundles := [[65536]] }
    nextTeam := max s.nextTeam 2
    nextLaunch := max s.nextLaunch 2
    power := .on
    agenda := [.issue 0 0 [0]] }

end State

end Sys2Proof.Machine
end

