-- ==== Sys2Proof/Machine/Step.lean ====
section
/-! DEFINITION. One step of the module: the turn due on the agenda, else one that the outside world or an agent takes (log entry 1). -/

namespace Sys2Proof.Machine

/-- What follows the instruction a partition issued: its bundles lose the threads that wait and split where threads part (08 R148). -/
def afterIssue (core part : Nat) (o : Host.Outcome State Fault Refusal) : Host.Outcome State Fault Refusal :=
  match o with
  | .next s => .next (s.settleBundles core part)
  | .fault e => .fault e
  | .refused e => .refused e

/-- One turn performed. -/
def perform (t : Turn) (s : State) : Host.Outcome State Fault Refusal :=
  match t with
  | .event i on => exec i { s with subject := on }
  | .issue core part ready =>
    match s.prepare core part ready with
    | (s1, some i) => afterIssue core part (exec i s1)
    | (s1, none) => .next s1
  | .clock => .next (clock s)
  | .shadowStep gid => .next (s.shadowStep (fun i v => match exec i v with | .next w => w | _ => v) gid)
  | t => .next (outside t s)

/-- One step: the next turn of the agenda; with none there, the turn that comes next of itself. A turn that may not happen passes
with no effect. -/
def step (s : State) : Host.Outcome State Fault Refusal :=
  match s.agenda with
  | t :: r =>
    if s.power = .on then perform t { s with agenda := r, turn := s.turn + 1 } else .fault .powerless
  | [] =>
    let t := Config.nextTurn s.turn
    if mayHappen t && (decide (s.power = .on) || unpowered t) then perform t { s with turn := s.turn + 1 }
    else .next { s with turn := s.turn + 1 }

namespace State

/-- The machine with one instruction placed where it runs next: see Stage. -/
def withFetchWord (s : State) (nbits w : Nat) : State := s.staged (stageBytes nbits w)

end State

end Sys2Proof.Machine
end

