-- ==== Sys2Proof/Safety.lean ====
section
/-! DEFINITION. What counts as a safe run, and the words in which the statements say what an instruction did: which threads of the
bundle act, where they go on, and what is as it was before (01 R8, 04 R75, R85, 08 R143, R149). -/

namespace Sys2Proof.Safety

open Sys2Proof.Machine

/-- The canonical form of the two memories: HBM and host memory (15 R256, R257). -/
def MemoryOk (s : State) : Prop := Memory.wf s.hbm = true ∧ Memory.wf s.hostMem = true

/-- A step answers a next state. -/
def Goes (s : State) : Prop := ∃ t, step s = .next t

/-- A run from reset: the states that steps reach. -/
inductive Reached : State → Prop where
  | reset : Reached State.reset
  | step {s t : State} : Reached s → step s = .next t → Reached t

/-- No thread of the bundle whose guard is true meets a decoding fault (R85) or a fault `own` of the instruction itself. -/
def Calm (s : State) (f : Fields) (own : Nat → Option Flt) : Prop :=
  ∀ tid ∈ s.guarded f, s.decodeFault f tid = none ∧ own tid = none

/-- Thread `x` of the bundle, number `tid`, takes the instruction's effect: its guard is true (R75). -/
def Acts (s : State) (f : Fields) (tid : Nat) (x : Thread) : Prop :=
  tid ∈ s.issue.threads ∧ s.threads.get? tid = some x ∧ x.guard f = true

/-- Thread `x` of the bundle passes the instruction by: its guard is false (R75). -/
def Passes (s : State) (f : Fields) (tid : Nat) (x : Thread) : Prop :=
  tid ∈ s.issue.threads ∧ s.threads.get? tid = some x ∧ x.guard f = false

/-- A thread that has completed the instruction and is otherwise as it was: it goes on behind it, or at the next iteration of its
REP pair (R62, R111). -/
def goesOn (s : State) (x : Thread) : Thread := { x.advance s.issue.next with issued := true }

/-- Nothing but threads and scalar registers differs: memory, every special register of a group, every other unit. -/
structure OnlyRegisters (s t : State) : Prop where
  rest : { t with threads := s.threads, groups := s.groups } = s
  groups : ∀ gid g, s.groups.get? gid = some g → ∃ g', t.groups.get? gid = some g' ∧ { g' with sregs := g.sregs } = g
  outside : ∀ tid, tid ∉ s.issue.threads → t.threads.get? tid = s.threads.get? tid

/-- Nothing but threads of the bundle differs. -/
structure OnlyThreads (s t : State) : Prop where
  rest : { t with threads := s.threads } = s
  outside : ∀ tid, tid ∉ s.issue.threads → t.threads.get? tid = s.threads.get? tid

/-- `y` is thread `x` gone on, with vector register `d` made `v` and no other register changed; a write to vz is discarded (R9). -/
structure WroteReg (s : State) (x y : Thread) (d : Nat) (v : Word) : Prop where
  frame : { y with regs := x.regs } = goesOn s x
  value : y.reg d = if d = 255 then 0 else v
  others : ∀ n, n ≠ d → y.reg n = x.reg n

/-- The same for a register pair (R12): the even register holds the high word. -/
structure WrotePair (s : State) (x y : Thread) (d : Nat) (v : DWord) : Prop where
  frame : { y with regs := x.regs } = goesOn s x
  value : y.reg64 d = if d = 255 then 0 else v
  others : ∀ n, n ≠ d → n ≠ d + 1 → y.reg n = x.reg n

/-- Scalar register `d` of a group made `v` and no other changed; a write to sz is discarded (R9). -/
structure WroteScalar (g g' : Group) (d : Nat) (v : Word) : Prop where
  value : g'.sreg d = if d = 127 then 0 else v
  others : ∀ n, n ≠ d → g'.sreg n = g.sreg n

/-- The same for a scalar pair. -/
structure WroteScalarPair (g g' : Group) (d : Nat) (v : DWord) : Prop where
  value : g'.sreg64 d = if d = 127 then 0 else v
  others : ∀ n, n ≠ d → n ≠ d + 1 → g'.sreg n = g.sreg n

/-- `y` is thread `x` gone on, with predicate `d` made `v` and no other changed; a write to p15 is discarded (R9). -/
structure WrotePred (s : State) (x y : Thread) (d : Nat) (v : Bool) : Prop where
  frame : { y with preds := x.preds } = goesOn s x
  value : y.pred d = if d < 15 then v else true
  others : ∀ n, n ≠ d → y.pred n = x.pred n

/-- Each acting thread has vector register `d` made what `v` computes from it as it was; nothing else differs (R8, R143). -/
structure VectorResult (s t : State) (f : Fields) (d : Nat) (v : Nat → Thread → Word) : Prop where
  only : OnlyThreads s t
  acts : ∀ tid x, Acts s f tid x → ∃ y, t.threads.get? tid = some y ∧ WroteReg s x y d (v tid x)
  passes : ∀ tid x, Passes s f tid x → t.threads.get? tid = some (goesOn s x)

/-- One register result by the fields of the instruction (R12, R72, R143): a vector D in each acting thread, a scalar D in each group
with a thread that acts, `wide` a pair. The value is that of the group and the thread as they were. -/
structure RegResult (s t : State) (f : Fields) (wide : Bool) (v : Group → Thread → DWord) : Prop where
  only : OnlyRegisters s t
  passes : ∀ tid x, Passes s f tid x → t.threads.get? tid = some (goesOn s x)
  vector : f.cd = false → t.groups = s.groups ∧ ∀ tid x, Acts s f tid x → ∃ y, t.threads.get? tid = some y ∧
    (wide = false → WroteReg s x y f.d (loWord (v (s.group (gidOf tid)) x))) ∧
    (wide = true → WrotePair s x y f.d (v (s.group (gidOf tid)) x))
  scalar : f.cd = true → (∀ tid x, Acts s f tid x → t.threads.get? tid = some (goesOn s x)) ∧
    ∀ gid g, s.groups.get? gid = some g → ∃ g', t.groups.get? gid = some g' ∧
      ((∀ tid ∈ s.guarded f, gidOf tid ≠ gid) → g' = g) ∧
      ((∃ tid ∈ s.guarded f, gidOf tid = gid) → ∃ tid ∈ s.guarded f, gidOf tid = gid ∧
        (wide = false → WroteScalar g g' f.d (loWord (v g (s.thread tid)))) ∧
        (wide = true → WroteScalarPair g g' f.d (v g (s.thread tid))))

/-- Each acting thread has predicate `d` made what `v` computes; nothing else differs. -/
structure PredResult (s t : State) (f : Fields) (d : Nat) (v : Group → Thread → Bool) : Prop where
  only : OnlyThreads s t
  acts : ∀ tid x, Acts s f tid x → ∃ y, t.threads.get? tid = some y ∧ WrotePred s x y d (v (s.group (gidOf tid)) x)
  passes : ∀ tid x, Passes s f tid x → t.threads.get? tid = some (goesOn s x)

/-- One register result with flags (R34, R143): as RegResult, and each acting thread ORs the flags it computes into FPSR; a thread that
does not act has no flag change. -/
structure FloatResult (s t : State) (f : Fields) (wide : Bool) (v : Group → Thread → DWord × Flags) : Prop where
  only : OnlyRegisters s t
  passes : ∀ tid x, Passes s f tid x → t.threads.get? tid = some (goesOn s x)
  flags : ∀ tid x, Acts s f tid x → ∃ y, t.threads.get? tid = some y ∧ { y with regs := x.regs, fpsr := x.fpsr } = goesOn s x ∧
    y.fpsr = x.fpsr ||| (v (s.group (gidOf tid)) x).2.setWidth 32
  vector : f.cd = false → t.groups = s.groups ∧ ∀ tid x, Acts s f tid x → ∃ y, t.threads.get? tid = some y ∧
    (wide = false → WroteReg s x { y with fpsr := x.fpsr } f.d (loWord (v (s.group (gidOf tid)) x).1)) ∧
    (wide = true → WrotePair s x { y with fpsr := x.fpsr } f.d (v (s.group (gidOf tid)) x).1)
  scalar : f.cd = true → (∀ tid x, Acts s f tid x → ∃ y, t.threads.get? tid = some y ∧ y.regs = x.regs) ∧
    ∀ gid g, s.groups.get? gid = some g → ∃ g', t.groups.get? gid = some g' ∧
      ((∀ tid ∈ s.guarded f, gidOf tid ≠ gid) → g' = g) ∧
      ((∃ tid ∈ s.guarded f, gidOf tid = gid) → ∃ tid ∈ s.guarded f, gidOf tid = gid ∧
        (wide = false → WroteScalar g g' f.d (loWord (v g (s.thread tid)).1)) ∧
        (wide = true → WroteScalarPair g g' f.d (v g (s.thread tid)).1))

end Sys2Proof.Safety
end

