-- ==== Sys2Proof/Certificates/Slice0/Obligations.lean ====
section
/-! DEFINITION. The statements for the provers, in the order of the table of operations: encodings, the step, then each family's
results with what they leave alone, exceptions, events, and what every step keeps. -/

namespace Sys2Proof.Claims

open Sys2Proof.Machine Sys2Proof.Safety

/-! The integer values of 05 R88 in the terms of bit vectors. -/

/-- The low `w` bits of an operand, signed under .s and unsigned under .z (R88). -/
def intOf (w : Nat) (z : Bool) (x : DWord) : Int := if z then ((x.setWidth w).toNat : Int) else (x.setWidth w).toInt

/-- `Sat` to `w` bits (R29). -/
def clamp (w : Nat) (z : Bool) (x : Int) : Int :=
  if z then max 0 (min x (2 ^ w - 1)) else max (-(2 ^ (w - 1))) (min x (2 ^ (w - 1) - 1))

/-- `x mod 2^w` as the register or pair holds it: the upper bits of D copy bit w−1 under .s and are zero under .z (R88). -/
def held (w : Nat) (z : Bool) (x : Int) : DWord :=
  let r := BitVec.ofInt w x
  if w = 64 then r.setWidth 64 else (if z then r.setWidth 32 else r.signExtend 32).setWidth 64

/-- The width of an integer type code (R48). -/
def widthOf (ty : Nat) : Nat := match ty with | 0 => 32 | 1 => 64 | 2 => 16 | _ => 8

/-- The exact results of IARITH by minor (R91). -/
def exact (mn w : Nat) (a b : Int) : Int :=
  match mn with
  | 0 => a + b
  | 1 => a - b
  | 2 => a * b
  | 3 => a * b / 2 ^ w
  | 4 => min a b
  | 5 => max a b
  | 6 => if b = 0 then -1 else a.tdiv b
  | _ => if b = 0 then a else a.tmod b

/-- A shift or rotate count is read as 32 bits unsigned; the other operands of LOGIC are t-bit patterns (R93). -/
def logic (mn w : Nat) (a b : BitVec w) (k : Nat) : BitVec w :=
  match mn with
  | 0 => a &&& b
  | 1 => a ||| b
  | 2 => a ^^^ b
  | 3 => a &&& ~~~b
  | 4 => a <<< k
  | 5 => a >>> k
  | 6 => a.sshiftRight k
  | _ => a.rotateLeft (k % w)

/-- The field BFX and BFI name: position B[7:0], length B[15:8] cut at the top of the type (R95). -/
def fieldLen (w : Nat) (b : DWord) : Nat :=
  let pos := (b.extractLsb' 0 8).toNat
  if w ≤ pos then 0 else min (b.extractLsb' 8 8).toNat (w - pos)

/-- CLZ and POPC, by their definition (R95). -/
def clz {w : Nat} (a : BitVec w) : Nat := if a = 0 then w else w - 1 - Nat.log2 a.toNat
def popc {w : Nat} (a : BitVec w) : Nat := ((List.range w).filter (fun i => a.getLsbD i)).length

end Sys2Proof.Claims

open Sys2Proof Sys2Proof.Machine Sys2Proof.Safety

/-- R91: IADD, ISUB, IMUL, IMULH, IMIN, IMAX, IDIV and IREM in every form, type and modifier. -/
def Obligations.IntegerArithmetic : Prop :=
  ∀ (i : Instr) (F : Fields) (s : State), i.wf = true → i.fields? = some F → F.maj = 0x02 → Calm s F State.noFault →
    ∃ t, exec i s = .next t ∧ RegResult s t F (F.ty == 1) (fun g x =>
      let w := Claims.widthOf F.ty
      let r := Claims.exact F.mn w (Claims.intOf w F.z (F.opA (F.ty == 1) g x)) (Claims.intOf w F.z (F.opB (F.ty == 1) g x))
      Claims.held w F.z (if F.sat then Claims.clamp w F.z r else r))

/-- R93: AND, OR, XOR, ANDN, SHL, SHR, ASR and ROT in every form on b32 and b64. -/
def Obligations.LogicResults : Prop :=
  ∀ (i : Instr) (F : Fields) (s : State), i.wf = true → i.fields? = some F → F.maj = 0x03 → Calm s F State.noFault →
    ∃ t, exec i s = .next t ∧ RegResult s t F (F.ty == 1) (fun g x =>
      let w := Claims.widthOf F.ty
      let b := F.opB (F.ty == 1 && decide (F.mn < 4)) g x
      (Claims.logic F.mn w ((F.opA (F.ty == 1) g x).setWidth w) (b.setWidth w) (loWord b).toNat).setWidth 64)

/-- R95: CLZ, POPC, BREV, BFX, BFI, IABS and IMAD in every form; CLZ and POPC write one register whatever the type.
R17, R95: LEA adds to the offset only: the sum is taken modulo 2^44 and the segment stands.
R96: ICMP writes its condition of the operands to predicate D; .z makes lt, le, gt and ge unsigned.
R97: PAND, POR, PXOR, PNOT and PMOV on the predicates their fields name.
R97: PPACK gathers p0 to p15 under the mask; PUNPK sets p0 to p14 where the mask is 1 and changes nothing else; each thread goes on
behind the instruction, one whose guard is false with nothing changed. A scalar D of the rows that depend on a thread is that of some
acting thread of its group (DESIGN CHOICE: log entry 10). -/
def Obligations.BitAndPredicateResults : Prop :=
  ((∀ (i : Instr) (F : Fields) (s : State), i.wf = true → i.fields? = some F → F.maj = 0x04 → F.mn ≠ 7 → Calm s F State.noFault →
    ∃ t, exec i s = .next t ∧ RegResult s t F (F.ty == 1 && decide (2 ≤ F.mn)) (fun g x =>
      let w := Claims.widthOf F.ty
      let wide := F.ty == 1
      let a := (F.opA wide g x).setWidth w
      let b := F.opB false g x
      let pos := (b.extractLsb' 0 8).toNat
      let len := Claims.fieldLen w b
      match F.mn with
      | 0 => BitVec.ofNat 64 (Claims.clz a)
      | 1 => BitVec.ofNat 64 (Claims.popc a)
      | 2 => a.reverse.setWidth 64
      | 3 => Claims.held w F.z (Claims.intOf len F.z ((a >>> pos).setWidth 64))
      | 4 =>
        let mask : BitVec w := (BitVec.allOnes len).setWidth w <<< pos
        ((((F.opC wide g x).setWidth w) &&& ~~~mask) ||| ((a <<< pos) &&& mask)).setWidth 64
      | 5 => let r : Int := a.toInt.natAbs; Claims.held w false (if F.sat then Claims.clamp w false r else r)
      | _ =>
        let v (y : DWord) : Int := Claims.intOf w F.z y
        let r := v (F.opA wide g x) * v (F.opB wide g x) + v (F.opC wide g x)
        Claims.held w F.z (if F.sat then Claims.clamp w F.z r else r))) ∧
  (∀ (i : Instr) (F : Fields) (s : State), i.wf = true → i.fields? = some F → F.maj = 0x04 → F.mn = 7 → Calm s F State.noFault →
    ∃ t, exec i s = .next t ∧ RegResult s t F true (fun g x =>
      let a := F.opA true g x
      a.extractLsb' 44 20 ++ (a.extractLsb' 0 44 + (F.opB true g x).extractLsb' 0 44)))) ∧
  ((∀ (i : Instr) (F : Fields) (s : State), i.wf = true → i.fields? = some F → F.maj = 0x05 → Calm s F State.noFault →
    ∃ t, exec i s = .next t ∧ PredResult s t F F.d (fun g x =>
      let w := Claims.widthOf F.ty
      let a := (F.opA (F.ty == 1) g x).setWidth w
      let b := (F.opB (F.ty == 1) g x).setWidth w
      let lt := if F.z then a.ult b else a.slt b
      match F.mn with
      | 0 => a == b
      | 1 => a != b
      | 2 => lt
      | 3 => lt || a == b
      | 4 => !(lt || a == b)
      | 5 => !lt
      | 6 => a &&& b != 0
      | _ => a &&& b == 0)) ∧
  (∀ (i : Instr) (F : Fields) (s : State), i.wf = true → i.fields? = some F → F.maj = 0x06 → F.mn < 5 → Calm s F State.noFault →
    ∃ t, exec i s = .next t ∧ PredResult s t F F.d (fun _ x =>
      [x.pred F.a && x.pred F.b, x.pred F.a || x.pred F.b, x.pred F.a ^^ x.pred F.b, !x.pred F.a, x.pred F.a].getD F.mn false)) ∧
  ((∀ (i : Instr) (F : Fields) (s : State), i.wf = true → i.fields? = some F → F.maj = 0x06 → F.mn = 5 → Calm s F State.noFault →
    ∃ t, exec i s = .next t ∧ OnlyThreads s t ∧ (∀ tid x, Passes s F tid x → t.threads.get? tid = some (goesOn s x)) ∧ ∀ tid x, Acts s F tid x → ∃ y, t.threads.get? tid = some y ∧
      ∃ v, WroteReg s x y F.d v ∧ ∀ k, k < 32 → v.getLsbD k =
        (decide (k < 16) && x.pred k && (F.opB false (s.group (gidOf tid)) x).getLsbD k)) ∧
  (∀ (i : Instr) (F : Fields) (s : State), i.wf = true → i.fields? = some F → F.maj = 0x06 → F.mn = 6 → Calm s F State.noFault →
    ∃ t, exec i s = .next t ∧ OnlyThreads s t ∧ (∀ tid x, Passes s F tid x → t.threads.get? tid = some (goesOn s x)) ∧ ∀ tid x, Acts s F tid x → ∃ y, t.threads.get? tid = some y ∧
      { y with preds := x.preds } = goesOn s x ∧ ∀ k, k < 15 → y.pred k =
        if (F.opB false (s.group (gidOf tid)) x).getLsbD k then (F.opA false (s.group (gidOf tid)) x).getLsbD k else x.pred k)))

/-- R99: MOV and SEL copy a bit pattern; MOVS extends the low bits of B, a b32 source into the pair.
R100: MOVI reads the vector register of number A + B; past v254 or the cap it raises REG_BOUNDS in that thread (see
`ExecutionFaultsAreTaken`).
R84, R113: NOP, NOP_X, HINT and HINT_LONG change nothing but where the threads go on; a hint evaluates no guard.
A scalar D of SEL takes the choice of some acting thread's predicate (DESIGN CHOICE: log entry 10: the rules name none). -/
def Obligations.MovesAndNop : Prop :=
  ((∀ (i : Instr) (F : Fields) (s : State), i.wf = true → i.fields? = some F → F.maj = 0x07 → F.mn = 0 ∨ F.mn = 2 ∨ F.mn = 3 →
    Calm s F State.noFault →
    ∃ t, exec i s = .next t ∧ RegResult s t F (if F.mn = 3 then F.ty == 0 else F.ty == 1) (fun g x =>
      let wide := F.ty == 1
      match F.mn with
      | 0 => F.opB wide g x
      | 2 => if x.pred F.c then F.opA wide g x else F.opB wide g x
      | _ =>
        let b := (F.opB false g x).setWidth (Claims.widthOf F.ty)
        if F.z then b.setWidth 64 else if F.ty = 0 then b.signExtend 64 else (b.signExtend 32).setWidth 64)) ∧
  (∀ (i : Instr) (F : Fields) (s : State), i.wf = true → i.fields? = some F → F.maj = 0x07 → F.mn = 1 → Calm s F State.noFault →
    (∀ tid ∈ s.guarded F, F.a + (F.opB false (s.group (gidOf tid)) (s.thread tid)).toNat < min 255 (s.launchOf (gidOf tid)).regs) →
    ∃ t, exec i s = .next t ∧ RegResult s t F false (fun g x => (x.reg (F.a + (F.opB false g x).toNat)).setWidth 64))) ∧
  ((∀ (i : Instr) (F : Fields) (s : State), i.wf = true → i.fields? = some F → F.maj = 0x00 → Calm s F State.noFault →
    ∃ t, exec i s = .next t ∧ OnlyThreads s t ∧
      ∀ tid x, tid ∈ s.issue.threads → s.threads.get? tid = some x → t.threads.get? tid = some (goesOn s x)) ∧
  (∀ (s : State) (x : BitVec 24) (r : RawWords), ∃ t, exec (.hint x) s = .next t ∧ exec (.hintLong r) s = .next t ∧ OnlyThreads s t ∧
    ∀ tid y, tid ∈ s.issue.threads → s.threads.get? tid = some y → t.threads.get? tid = some (goesOn s y)))


/-! Special registers (01 R13 to R16, 05 R101). -/

namespace Sys2Proof.Claims

/-- What SRD reads in thread `x`, number `tid`, by index (R13); CLK.LO and CLK.HI are in `ClockReads`. -/
def specials (s : State) (tid : Nat) (x : Thread) : List (Nat × Word) :=
  let gid := gidOf tid
  let g := s.group gid
  let l := s.launchOf gid
  [(0x00, BitVec.ofNat 32 (tid % 64)), (0x01, BitVec.ofNat 32 (gid % 1024 * l.width + tid % 64)), (0x02, BitVec.ofNat 32 (gid % 1024)),
    (0x03, BitVec.ofNat 32 (s.teamAt gid).index), (0x04, BitVec.ofNat 32 l.width), (0x05, BitVec.ofNat 32 l.tsize),
    (0x06, BitVec.ofNat 32 g.core), (0x07, s.dev.setWidth 32), (0x0A, x.fpsr), (0x0B, x.fpcr),
    (0x0C, match x.meet with | none => 0 | some m => (m.depth ++ (0 : BitVec 12)) ++ BitVec.ofNat 4 (x.meets.length + 1)),
    (0x0D, x.stklim), (0x0E, x.rpc), (0x0F, (s.descOn g.core l.ctx (segOf x.pc)).ltbf), (0x10, loWord (s.pkrCopy g.core l.ctx)),
    (0x11, hiWord (s.pkrCopy g.core l.ctx)), (0x12, x.fcode), (0x13, x.fpc), (0x14, x.faddrLo), (0x15, x.faddrHi), (0x16, x.fmask),
    (0x17, x.faux), (0x18, g.thnd), (0x19, g.cbrto), (0x1A, g.barto), (0x1B, BitVec.ofNat 32 g.level), (0x1C, g.phs), (0x1D, 0),
    (0x1E, 0x1000), (0x1F, BitVec.ofNat 32 l.ctx), (0x20, loWord g.reply), (0x21, hiWord g.reply), (0x22, loWord g.savep),
    (0x23, hiWord g.savep), (0x24, x.ylane), (0x25, BitVec.ofNat 32 l.depth), (0x26, l.id)]

/-- The special registers of a thread that SWR writes, and what it sets (R13). -/
def threadSpecials : List (Nat × (Word → Thread → Thread)) :=
  [(0x0A, fun v x => { x with fpsr := v }), (0x0B, fun v x => { x with fpcr := v }), (0x0D, fun v x => { x with stklim := v }),
    (0x12, fun v x => { x with fcode := v }), (0x13, fun v x => { x with fpc := v }), (0x14, fun v x => { x with faddrLo := v }),
    (0x15, fun v x => { x with faddrHi := v }), (0x16, fun v x => { x with fmask := v }), (0x17, fun v x => { x with faux := v })]

/-- The special registers of a group that SWR writes; THND sets the handler segment too (R13, R346). `seg` is the segment of the
writing instruction. -/
def groupSpecials (seg : Nat) : List (Nat × (Word → Group → Group)) :=
  [(0x18, fun v g => { g with thnd := v, thndSeg := seg }), (0x19, fun v g => { g with cbrto := v }),
    (0x1A, fun v g => { g with barto := v }), (0x22, fun v g => { g with savep := hiWord g.savep ++ v }),
    (0x23, fun v g => { g with savep := v ++ loWord g.savep })]

/-- A value has no bit set that the register holds at zero (R14). -/
def zeroBits (idx : Nat) (v : Word) : Bool :=
  match idx with
  | 0x0A => v &&& 0xFFFFFFE0 == 0
  | 0x0B => v &&& 0xFFFFFFF8 == 0
  | 0x12 => v &&& 0xFFFFFE00 == 0
  | _ => true

/-- The value of operand A as one register. -/
def valueA (F : Fields) (s : State) (tid : Nat) : Word := loWord (F.opA false (s.group (gidOf tid)) (s.thread tid))

/-- The first thread of a group, by home lane, among those that act; the last. -/
def IsLowest (ts : List Nat) (gid tid : Nat) : Prop := tid ∈ ts ∧ gidOf tid = gid ∧ ∀ u ∈ ts, gidOf u = gid → tid ≤ u
def IsHighest (ts : List Nat) (gid tid : Nat) : Prop := tid ∈ ts ∧ gidOf tid = gid ∧ ∀ u ∈ ts, gidOf u = gid → u ≤ tid

end Sys2Proof.Claims

/-- R13, R101: SRD copies the special register of index B into a vector D of each acting thread, or into a scalar D from the lowest
active home lane; nothing else changes. -/
def Obligations.SpecialReads : Prop :=
  ∀ (i : Instr) (F : Fields) (s : State), i.wf = true → i.fields? = some F → F.maj = 0x07 → F.mn = 4 → F.b ≠ 0x08 → F.b ≠ 0x09 →
    Calm s F State.noFault →
    ∃ t, exec i s = .next t ∧ OnlyRegisters s t ∧
      (∀ tid x, Passes s F tid x → t.threads.get? tid = some (goesOn s x)) ∧
      (F.cd = false → t.groups = s.groups ∧ ∀ tid x, Acts s F tid x → ∃ y, t.threads.get? tid = some y ∧
        ∀ v, (F.b, v) ∈ Claims.specials s tid x → WroteReg s x y F.d v) ∧
      (F.cd = true → (∀ tid x, Acts s F tid x → t.threads.get? tid = some (goesOn s x)) ∧
        ∀ gid g tid, s.groups.get? gid = some g → Claims.IsLowest (s.guarded F) gid tid → ∃ g', t.groups.get? gid = some g' ∧
          ∀ v, (F.b, v) ∈ Claims.specials s tid (s.thread tid) → WroteScalar g g' F.d v) ∧
      (∀ gid, (∀ tid ∈ s.guarded F, gidOf tid ≠ gid) → t.groups.get? gid = s.groups.get? gid)

/-- R15: SRD of CLK.LO latches the high word of the same count in each acting thread, and the next SRD of CLK.HI returns the latch and
clears it, or the current high word where none is set. -/
def Obligations.ClockReads : Prop :=
  ∀ (i : Instr) (F : Fields) (s : State), i.wf = true → i.fields? = some F → F.maj = 0x07 → F.mn = 4 → F.b = 0x08 ∨ F.b = 0x09 →
    Calm s F State.noFault →
    ∃ t, exec i s = .next t ∧ OnlyRegisters s t ∧
      (∀ tid x, Passes s F tid x → t.threads.get? tid = some (goesOn s x)) ∧
      ∀ tid x, Acts s F tid x → ∃ y, t.threads.get? tid = some y ∧
        { y with regs := x.regs, clkLatch := x.clkLatch } = goesOn s x ∧
        y.clkLatch = (if F.b = 0x08 then some (BitVec.ofNat 32 (s.cycle / 2 ^ 32)) else none) ∧
        (F.cd = false → y.reg F.d = if F.d = 255 then 0 else
          if F.b = 0x08 then BitVec.ofNat 32 s.cycle else x.clkLatch.getD (BitVec.ofNat 32 (s.cycle / 2 ^ 32))) ∧
        (∀ n, n ≠ F.d ∨ F.cd = true → y.reg n = x.reg n) ∧
        (F.cd = true → Claims.IsLowest (s.guarded F) (gidOf tid) tid → ∀ g, s.groups.get? (gidOf tid) = some g →
          ∃ g', t.groups.get? (gidOf tid) = some g' ∧ WroteScalar g g' F.d
            (if F.b = 0x08 then BitVec.ofNat 32 s.cycle else x.clkLatch.getD (BitVec.ofNat 32 (s.cycle / 2 ^ 32))))

/-- R13, R14, R16, R101: SWR to a special register of the thread sets it to A, to one of the group to A of the highest active home lane;
nothing else changes. Values with a bit in the zero bits of FPSR, FPCR or FCODE are in `ExecutionFaultsAreTaken`. -/
def Obligations.SpecialWrites : Prop :=
  ∀ (i : Instr) (F : Fields) (s : State), i.wf = true → i.fields? = some F → F.maj = 0x07 → F.mn = 5 → Calm s F State.noFault →
    (∀ tid ∈ s.guarded F, Claims.zeroBits F.b (Claims.valueA F s tid) = true) →
    ∃ t, exec i s = .next t ∧ { t with threads := s.threads, groups := s.groups } = s ∧
      (∀ tid, tid ∉ s.issue.threads → t.threads.get? tid = s.threads.get? tid) ∧
      (∀ tid x, Passes s F tid x → t.threads.get? tid = some (goesOn s x)) ∧
      (∀ set, (F.b, set) ∈ Claims.threadSpecials → t.groups = s.groups ∧
        ∀ tid x, Acts s F tid x → t.threads.get? tid = some (goesOn s (set (Claims.valueA F s tid) x))) ∧
      (∀ set, (F.b, set) ∈ Claims.groupSpecials (segOf s.issue.self) →
        (∀ tid x, Acts s F tid x → t.threads.get? tid = some (goesOn s x)) ∧
        ∀ gid g, s.groups.get? gid = some g →
          (∀ tid, Claims.IsHighest (s.guarded F) gid tid → t.groups.get? gid = some (set (Claims.valueA F s tid) g)) ∧
          ((∀ tid ∈ s.guarded F, gidOf tid ≠ gid) → t.groups.get? gid = some g))

/-! Branches, calls, returns and frames (05 R102 to R107, 14 R252). -/

namespace Sys2Proof.Claims

/-- `y` is thread `x` sent elsewhere: only where it goes on differs, and that it issued. -/
def Jumped (x y : Thread) : Prop := { y with pc := x.pc, issued := x.issued } = x ∧ y.issued = true

/-- `x` called: v29 holds the return offset and the depth is one more, modulo 2^16 (R103). -/
def Called (s : State) (x y : Thread) : Prop :=
  { y with pc := x.pc, issued := x.issued, regs := x.regs, depth := x.depth } = x ∧ y.issued = true ∧ y.depth = x.depth + 1 ∧
    y.reg 29 = BitVec.ofNat 32 (offOf s.issue.next) ∧ ∀ n, n ≠ 29 → y.reg n = x.reg n

/-- The code offset a signed word offset names, modulo 2^32 in the current segment (R102). -/
def LandsAt (s : State) (p : Ptr) (x : Word) : Prop :=
  segOf p = segOf s.issue.self ∧ (offOf p : Int) = ((offOf s.issue.self : Int) + 4 * x.toInt) % 2 ^ 32

end Sys2Proof.Claims

/-- R102, R103: BRA and CALL continue each acting thread at the code offset (Off(PC) + 4 × offset) mod 2^32 of the current segment, and
CALL first links; a thread whose guard is false continues at the next instruction.
R105, R252: RET, JMPI and CALLI go to the offset A holds, when its two low bits are zero: JMPI and CALLI in the current segment; RET
lowers the depth, and a crossing record at the old depth is popped and names the segment. A target that is not a multiple of 4 is
in `ExecutionFaultsAreTaken`. -/
def Obligations.ControlTransfers : Prop :=
  (∀ (i : Instr) (F : Fields) (s : State), i.wf = true → i.fields? = some F → F.maj = 0x0C ∨ F.maj = 0x0D → Calm s F State.noFault →
    ∃ t, exec i s = .next t ∧ OnlyThreads s t ∧
      (∀ tid x, Passes s F tid x → t.threads.get? tid = some (goesOn s x)) ∧
      ∀ tid x, Acts s F tid x → ∃ y, t.threads.get? tid = some y ∧ Claims.LandsAt s y.pc F.x ∧
        (if F.maj = 0x0C then Claims.Jumped x y else Claims.Called s x y)) ∧
  (∀ (i : Instr) (F : Fields) (s : State), i.wf = true → i.fields? = some F → F.maj = 0x0E → F.mn < 3 → Calm s F State.noFault →
    (∀ tid ∈ s.guarded F, (Claims.valueA F s tid).extractLsb' 0 2 = 0) →
    ∃ t, exec i s = .next t ∧ OnlyThreads s t ∧
      (∀ tid x, Passes s F tid x → t.threads.get? tid = some (goesOn s x)) ∧
      ∀ tid x, Acts s F tid x → ∃ y, t.threads.get? tid = some y ∧ offOf y.pc = (Claims.valueA F s tid).toNat ∧
        (F.mn = 1 → segOf y.pc = segOf s.issue.self ∧ Claims.Jumped x y) ∧
        (F.mn = 2 → segOf y.pc = segOf s.issue.self ∧ Claims.Called s x y) ∧
        (F.mn = 0 → { y with pc := x.pc, issued := x.issued, depth := x.depth, cross := x.cross } = x ∧ y.issued = true ∧
          y.depth = x.depth - 1 ∧
          (∀ c r, x.cross = c :: r → c.depth = x.depth → segOf y.pc = c.seg % 2 ^ 20 ∧ y.cross = r) ∧
          ((∀ c r, x.cross = c :: r → c.depth ≠ x.depth) → segOf y.pc = segOf s.issue.self ∧ y.cross = x.cross)))

/-- R106: ENTER lowers v31 by X where X does not exceed v31 and the new v31 is not below STKLIM; LEAVE raises it modulo 2^32; neither
touches v30 or memory. -/
def Obligations.FrameMoves : Prop :=
  ∀ (i : Instr) (F : Fields) (s : State), i.wf = true → i.fields? = some F → F.maj = 0x0E → F.mn = 3 ∨ F.mn = 4 → Calm s F State.noFault →
    (F.mn = 3 → ∀ tid ∈ s.guarded F, F.x ≤ (s.thread tid).reg 31 ∧ (s.thread tid).stklim ≤ (s.thread tid).reg 31 - F.x) →
    ∃ t, exec i s = .next t ∧ VectorResult s t F 31 (fun _ x => if F.mn = 3 then x.reg 31 - F.x else x.reg 31 + F.x)

/-! Exceptions (01 R24 to R26, 04 R85, 20 R346 to R349, R374). -/

namespace Sys2Proof.Claims

/-- A fault of thread `tid` is caught by its group's handler: the team runs, a handler is installed, slot F is free, and the group does
not speculate with the thread (R179, R347, R349). -/
def Catches (s : State) (tid : Nat) : Prop :=
  (s.teamAt (gidOf tid)).place ≠ .ended ∧ (s.teamAt (gidOf tid)).ending = none ∧ (s.group (gidOf tid)).thnd ≠ 0 ∧ (s.thread tid).slotF = none ∧ s.speculates tid = false

/-- TAKING AN EXCEPTION (R24, R25, R347): `y` is thread `x` with the record written whole, slot F holding where it resumes, its depth,
crossing count and RPC, and the PC at the handler; registers, predicates, flags and the meeting state stand. `who` faulted on
the same issue. -/
structure Trapped (s : State) (x y : Thread) (tid : Nat) (code : Byte) (addr : DWord) (aux : Word) (who : List Nat) (pc resume : Ptr) :
    Prop where
  fcode : y.fcode = 0x100 ||| code.setWidth 32
  fpc : y.fpc = BitVec.ofNat 32 (offOf pc)
  faddr : ofWords y.faddrHi y.faddrLo = addr
  fmask : ∀ l, l < 32 → y.fmask.getLsbD l = who.any (fun u => u / 64 == tid / 64 && u % 64 / 32 == tid % 64 / 32 && u % 32 == l)
  faux : y.faux = aux
  at_ : segOf y.pc = (s.group (gidOf tid)).thndSeg % 2 ^ 20 ∧ offOf y.pc = (s.group (gidOf tid)).thnd.toNat
  slot : ∃ k, y.slotF = some k ∧ k.resume = resume ∧ k.depth = x.depth ∧ k.crossings = x.cross.length ∧ k.rpc = x.rpc ∧
    k.ended = false ∧ k.fault = none ∧ (x.wait = .none → k.wait = .none)
  rpc : y.rpc = 0 ∧ y.wait = .none ∧ y.inRep = false ∧ y.pair = none
  frame : { y with
    fcode := x.fcode, fpc := x.fpc, faddrHi := x.faddrHi, faddrLo := x.faddrLo, fmask := x.fmask, faux := x.faux, pc := x.pc,
    slotF := x.slotF, rpc := x.rpc, wait := x.wait, inRep := x.inRep, pair := x.pair, released := x.released,
    idleTicks := x.idleTicks } = x

/-- The register MOVI reads lies past v254 or the cap (R100). -/
def PastCap (F : Fields) (s : State) (tid : Nat) : Prop :=
  F.maj = 0x07 ∧ F.mn = 1 ∧ min 255 (s.launchOf (gidOf tid)).regs ≤ F.a + (F.opB false (s.group (gidOf tid)) (s.thread tid)).toNat

/-- FAUX of MOVI's REG_BOUNDS: the field A as it is encoded, in an iteration of a REP pair too (R111). -/
def moviAux (F : Fields) (s : State) : Word := BitVec.ofNat 32 (if F.a = 255 then 255 else F.a - s.issue.shift)

/-- `k` is the innermost active slot of a thread (R347). -/
def Innermost (x : Thread) (n : SlotName) (k : TrapSlot) : Prop :=
  x.slot n = some k ∧ ∀ m k', m ≠ n → x.slot m = some k' → k'.order < k.order

/-- The instructions that run over the bundle as one (R149): all but REP, the target of which comes first (R109), YIELD, after which the
group decides (R194), and those that act once for each group in turn (PUSH, TRIGGER, GNODE, SVC, THSET, PRIO). -/
def runsAsOne (F : Fields) : Bool :=
  !((F.maj == 0x0E && F.mn == 5) || (F.maj == 0x17 && F.mn == 1) || (F.maj == 0x30 && (F.mn == 0 || F.mn == 3 || F.mn == 4))
    || (F.maj == 0x38 && (F.mn == 0 || F.mn == 1 || F.mn == 4)))

end Sys2Proof.Claims

/-- R24, R25, R85, R149, R347: where every thread with a true guard meets a decoding fault of an encoded instruction that runs over its
bundle as one, each of them takes exactly that exception, every other thread of the bundle goes on, and the instruction has no
effect at all: no byte, register or flag changes. R198: the REG_BOUNDS of a MOVI comes before GEN_CONFIG.
The model's reading where the rules leave it open: log entries 22, 23, 24 and 25. -/
def Obligations.DecodingFaultsAreTaken : Prop :=
  ∀ (i : Instr) (F : Fields) (s : State), i.wf = true → i.fields? = some F → Claims.runsAsOne F = true → s.issue.threads.Nodup →
    (∀ tid ∈ s.guarded F, Claims.Catches s tid ∧ (s.decodeFault F tid).isSome) →
    ∃ t, exec i s = .next t ∧ OnlyThreads s t ∧
      (∀ tid x, Passes s F tid x → t.threads.get? tid = some (goesOn s x)) ∧
      ∀ tid x e, Acts s F tid x → s.decodeFault F tid = some e → ∃ y, t.threads.get? tid = some y ∧
        (¬(e.code = 0x17 ∧ Claims.PastCap F s tid) →
          Claims.Trapped s x y tid e.code e.addr e.aux (s.guarded F) s.issue.pc s.issue.pc) ∧
        (e.code = 0x17 → Claims.PastCap F s tid →
          Claims.Trapped s x y tid 0x03 0 (Claims.moviAux F s) (s.guarded F) s.issue.pc s.issue.pc)

/-- R85, R86: an encoding that is no instruction raises ILLEGAL_OPCODE in every thread of the bundle, whatever a guard field of it
would hold, with the first word in FAUX; each takes the exception.
R107, R347: TRAP raises SW_TRAP with its code in FAUX in each thread whose guard is true, and the thread resumes behind the TRAP. -/
def Obligations.OpcodeAndTrapFaults : Prop :=
  (∀ (r : RawWords) (s : State), s.issue.threads.Nodup → (∀ tid ∈ s.issue.threads, Claims.Catches s tid) →
    ∃ t, exec (.illegalOpcode r) s = .next t ∧ OnlyThreads s t ∧
      ∀ tid x, tid ∈ s.issue.threads → s.threads.get? tid = some x → ∃ y, t.threads.get? tid = some y ∧
        Claims.Trapped s x y tid 0x01 0 r.first s.issue.threads s.issue.pc s.issue.pc) ∧
  (∀ (i : Instr) (F : Fields) (s : State), i.wf = true → i.fields? = some F → F.maj = 0x0E → F.mn = 6 → Calm s F State.noFault →
    s.issue.threads.Nodup → (∀ tid ∈ s.guarded F, Claims.Catches s tid) →
    ∃ t, exec i s = .next t ∧ OnlyThreads s t ∧
      (∀ tid x, Passes s F tid x → t.threads.get? tid = some (goesOn s x)) ∧
      ∀ tid x, Acts s F tid x → ∃ y, t.threads.get? tid = some y ∧
        Claims.Trapped s x y tid 0x12 0 F.x (s.guarded F) s.issue.pc s.issue.next)

/-- R100, R105, R106, R14: the faults of four instructions at execution, thread by thread: MOVI past the cap (REG_BOUNDS, FAUX the
field A as it is encoded), RET, JMPI and CALLI to an offset that is no multiple of 4 (MISALIGNED of kind fetch, FADDR the target), ENTER below
STKLIM (STACK_LIMIT, FAUX the new v31), SWR of a nonzero value in zero bits (RESERVED_FIELD); where all guarded threads fault. -/
def Obligations.ExecutionFaultsAreTaken : Prop :=
  ∀ (i : Instr) (F : Fields) (s : State) (code : Byte) (addr : Nat → DWord) (aux : Nat → Word), i.wf = true → i.fields? = some F →
    Calm s F State.noFault → s.issue.threads.Nodup → (∀ tid ∈ s.guarded F, Claims.Catches s tid) →
    ((F.maj = 0x07 ∧ F.mn = 1 ∧ code = 0x03 ∧ (∀ tid, addr tid = 0 ∧ aux tid = Claims.moviAux F s) ∧
        ∀ tid ∈ s.guarded F, Claims.PastCap F s tid) ∨
      (F.maj = 0x0E ∧ F.mn < 3 ∧ code = 0x07 ∧
        (∀ tid, addr tid = mkPtr (segOf s.issue.self) (Claims.valueA F s tid).toNat ∧ aux tid = 0x12) ∧
        ∀ tid ∈ s.guarded F, (Claims.valueA F s tid).extractLsb' 0 2 ≠ 0) ∨
      (F.maj = 0x0E ∧ F.mn = 3 ∧ code = 0x06 ∧ (∀ tid, addr tid = 0 ∧ aux tid = (s.thread tid).reg 31 - F.x) ∧
        ∀ tid ∈ s.guarded F, (s.thread tid).reg 31 < F.x ∨ (s.thread tid).reg 31 - F.x < (s.thread tid).stklim) ∨
      (F.maj = 0x07 ∧ F.mn = 5 ∧ code = 0x02 ∧ (∀ tid, addr tid = 0 ∧ aux tid = F.w0) ∧
        ∀ tid ∈ s.guarded F, Claims.zeroBits F.b (Claims.valueA F s tid) = false)) →
    ∃ t, exec i s = .next t ∧ OnlyThreads s t ∧
      (∀ tid x, Passes s F tid x → t.threads.get? tid = some (goesOn s x)) ∧
      ∀ tid x, Acts s F tid x → ∃ y, t.threads.get? tid = some y ∧
        Claims.Trapped s x y tid code (addr tid) (aux tid) (s.guarded F) s.issue.pc s.issue.pc

/-- R145, R349: an exception of a thread whose group has no handler, or whose slot F is active, ends its team: the record is written, the
team is ended with the code, and its other running threads stop with their records as they were. R316: while a running COPY or FILL
names the team's scratchpad the end waits (the model's reading: log entry 125). -/
def Obligations.UncaughtFaultEndsTeam : Prop :=
  ∀ (s : State) (tid : Nat) (x : Thread) (code : Byte) (addr : DWord) (aux mask : Word) (pc resume : Ptr),
    s.threads.get? tid = some x → (s.teamAt (gidOf tid)).place ≠ .ended → (s.teamAt (gidOf tid)).ending = none →
    code ∉ [codeUncorrectable, codeSdc, codeLinkUnbound] → (s.group (gidOf tid)).thnd = 0 ∨ x.slotF.isSome →
    (∃ T, s.teams.get? (teamOf (gidOf tid)) = some T) →
    let t := s.take ⟨tid, code, addr, aux⟩ pc resume mask
    (s.copying (teamOf (gidOf tid)) = false →
      (t.team (teamOf (gidOf tid))).place = .ended ∧ (t.team (teamOf (gidOf tid))).endCode = some code) ∧
    (s.copying (teamOf (gidOf tid)) = true →
      (t.team (teamOf (gidOf tid))).place = (s.teamAt (gidOf tid)).place ∧
      (t.team (teamOf (gidOf tid))).ending = some (some code, true)) ∧
    (∃ y, t.threads.get? tid = some y ∧ y.fcode = 0x100 ||| code.setWidth 32 ∧ y.fpc = BitVec.ofNat 32 (offOf pc) ∧ y.fmask = mask ∧
      y.faux = aux ∧ y.regs = x.regs ∧ y.pc = x.pc ∧ y.life ≠ .running) ∧
    ∀ u z, u ≠ tid → s.threads.get? u = some z → teamOf (gidOf u) = teamOf (gidOf tid) →
      ∃ w, t.threads.get? u = some w ∧ w.life ≠ .running ∧ w.fcode = z.fcode ∧ w.regs = z.regs ∧ w.pc = z.pc

/-- R374, R348: RTT returns from the innermost handler, of however many slots that are active: the resume point, the call depth, RPC and
the crossings' count come back, that slot is free and the others stand, and registers and flags stay as the handler left them. A wait
the slot holds goes on, a sleep for the rest of its interval; one that ended meanwhile has its effects now: the meet stack popped,
BARW's vote, the way out of a GEN. A fault that ended it is taken now, at the instruction that waited. No meeting of the group is
completed by the return: its other threads hold none, or, for a wait at a meeting that goes on, one of them has not arrived. -/
def Obligations.ReturnFromHandler : Prop :=
  ∀ (i : Instr) (F : Fields) (s : State) (tid : Nat) (x : Thread) (n : SlotName) (k : TrapSlot), i.wf = true → i.fields? = some F →
    F.maj = 0x38 → F.mn = 2 → Calm s F State.noFault → s.issue.threads = [tid] → Acts s F tid x → Claims.Innermost x n k →
    (∀ m k', m ≠ n → x.slot m = some k' → k'.wait ≠ .meeting) →
    ((∀ u ∈ s.presentOf (gidOf tid), u ≠ tid → (s.thread u).meet = none) ∧ (k.wait = .meeting → k.ended = true)) ∨
      (∀ u ∈ s.presentOf (gidOf tid), ∀ m, (s.thread u).meet = some m → ∃ v ∈ s.presentOf (gidOf tid), v ≠ tid ∧
        (s.thread v).meet = some m ∧ (s.thread v).atMeeting = false ∧ (s.thread v).metInSlot = false) ∧ k.wait = .meeting ∧ k.ended = false →
    ∃ t, exec i s = .next t ∧ (k.fault = none → OnlyThreads s t) ∧ ∃ y, t.threads.get? tid = some y ∧ y.regs = x.regs ∧
      y.fpsr = x.fpsr ∧ (k.wait ≠ .meeting → y.meet = x.meet ∧ y.meets = x.meets) ∧
      (k.fault = none →
        y.depth = k.depth ∧ y.cross = x.cross.drop (x.cross.length - k.crossings) ∧ y.slot n = none ∧
        (∀ m, m ≠ n → y.slot m = x.slot m) ∧ y.fcode = x.fcode ∧
        (k.wait = .none → y.wait = .none ∧ y.pc = k.resume ∧ y.rpc = k.rpc ∧ y.preds = x.preds) ∧
        (∀ u, k.wait = .nap u → y.wait = .nap (s.cycle + u) ∧ y.pc = k.resume ∧ y.rpc = k.rpc ∧ y.preds = x.preds) ∧
        (∀ u, k.wait = .bkoff u → y.wait = .bkoff (s.cycle + u) ∧ y.pc = k.resume ∧ y.rpc = k.rpc ∧ y.preds = x.preds) ∧
        (k.wait = .svc → y.wait = .svc ∧ y.pc = k.resume ∧ y.preds = x.preds) ∧
        (∀ b ph d all, k.wait = .barrier b ph d all →
          (k.ended = false → y.wait = k.wait ∧ y.pc = k.resume ∧ y.rpc = k.rpc ∧ y.preds = x.preds) ∧
          (k.ended = true → y.wait = .none ∧ (k.inRep = false → y.pc = k.after) ∧
            (d < 15 → y.pred d = k.vote) ∧ ∀ q, q ≠ d → y.pred q = x.pred q)) ∧
        (k.wait = .gen → y.preds = x.preds ∧ (k.ended = false → y.wait = .gen ∧ y.pc = k.resume) ∧
          (k.ended = true → y.wait = .none ∧ y.pc = k.after)) ∧
        (k.wait = .meeting → y.preds = x.preds ∧ y.pc = k.resume ∧
          (k.ended = false → y.wait = .meeting ∧ y.meet = x.meet ∧ y.meets = x.meets) ∧
          (k.ended = true → y.wait = .none ∧ y.meet = x.meets.head? ∧ y.meets = x.meets.drop 1))) ∧
      (∀ code aux, k.fault = some (code, aux) → k.wait = .none → code ∉ [codeUncorrectable, codeSdc, codeLinkUnbound, codeLease, codeContextReset] →
        (s.teamAt (gidOf tid)).place ≠ .ended → (s.teamAt (gidOf tid)).ending = none → (s.group (gidOf tid)).thnd ≠ 0 →
        n = .fault ∨ x.slotF = none → s.speculates tid = false →
        y.fcode = 0x100 ||| code.setWidth 32 ∧ y.faux = aux ∧ y.fpc = BitVec.ofNat 32 (offOf k.self) ∧
          segOf y.pc = (s.group (gidOf tid)).thndSeg % 2 ^ 20 ∧ offOf y.pc = (s.group (gidOf tid)).thnd.toNat ∧
          ∃ k', y.slotF = some k' ∧ k'.resume = k.self ∧ k'.depth = k.depth)

/-! Floating point and conversion (02 R30 to R51, 06 R114 to R128). -/

namespace Sys2Proof.Claims

/-- The value function of each float row but FCMP and CVTXP, by major and minor. -/
def floatValue (F : Fields) (g : Group) (x : Thread) : DWord × Flags :=
  match F.maj, F.mn with
  | 0x08, _ => farithVal F g x
  | 0x09, _ => funaryVal F g x
  | 0x0A, _ => fmiscVal F g x
  | _, 0 => cvtVal F g x
  | _, _ => cvtpkVal F g x

/-- The three binary formats (R30). -/
def formats : List Fmt := [Fmt.f32, Fmt.f16, Fmt.bf16]

/-- m × 2^e is at most, below n × 2^f. -/
abbrev LeVal (m : Nat) (e : Int) (n : Nat) (f : Int) : Prop := m * 2 ^ (e - min e f).toNat ≤ n * 2 ^ (f - min e f).toNat
abbrev LtVal (m : Nat) (e : Int) (n : Nat) (f : Int) : Prop := m * 2 ^ (e - min e f).toNat < n * 2 ^ (f - min e f).toNat

/-- A mode rounds a magnitude of this sign down, up (R33). -/
def RoundsDown (r : Rnd) (neg : Bool) : Prop := r = .rz ∨ (r = .rp ∧ neg = true) ∨ (r = .rm ∧ neg = false)
def RoundsUp (r : Rnd) (neg : Bool) : Prop := (r = .rp ∧ neg = false) ∨ (r = .rm ∧ neg = true)

/-- The exact sum of two signed magnitudes over the lower exponent. -/
def exactSum (s : Bool) (m : Nat) (e : Int) (t : Bool) (n : Nat) (f : Int) : Int :=
  let lo := min e f
  (if s then -1 else 1) * (m * 2 ^ (e - lo).toNat : Nat) + (if t then -1 else 1) * (n * 2 ^ (f - lo).toNat : Nat)

/-- A sum rounded once; an exact zero sum takes R116's sign. -/
def roundedSum (k : Fmt) (h : How) (s : Bool) (m : Nat) (e : Int) (t : Bool) (n : Nat) (f : Int) : Nat × Flags :=
  let x := exactSum s m e t n f
  if x = 0 then (k.signed (if s = t then s else decide (h.rnd = .rm)) 0, 0)
  else (Machine.Num.fin (decide (x < 0)) x.natAbs (min e f)).round k h

/-- The order of FMIN and FMAX on codes that are no NaN: by value, −0 below +0 (R117). -/
def order (k : Fmt) (c : Nat) : Int := if k.signBit ≤ c then -((c - k.signBit : Nat) : Int) - 1 else c

/-- One number below another; −0 is not below +0 (R123). -/
def below : Machine.Num → Machine.Num → Bool
  | .inf s, .inf t => s && !t
  | .inf s, .fin _ _ _ => s
  | .fin _ _ _, .inf t => !t
  | .fin s m e, .fin t n f => decide (exactSum s m e (!t) n f < 0)
  | _, _ => false

/-- NV of a signalling NaN. -/
def nv (b : Bool) : Flags := if b then 0x01 else 0

/-- The format of a float type code, element `j` of an operand of the type, the mode a rounding code selects (R33, R48). -/
def fmtOf (ty : Nat) : Fmt := if ty = 4 then Fmt.f32 else if ty = 5 ∨ ty = 7 then Fmt.f16 else Fmt.bf16
def elemOf (ty j : Nat) (x : DWord) : Nat := if ty = 4 then (x.extractLsb' 0 32).toNat else (x.extractLsb' (16 * j) 16).toNat
def modeOf (x : Thread) (code : Nat) : Rnd :=
  [[Rnd.rn, .rz, .rp, .rm].getD (x.fpcr.extractLsb' 0 2).toNat .rn, .rn, .rz, .rp, .rm].getD code .rm

/-- A float result by elements: two halves with the flags of both for a packed type, else one (R48, R114). -/
def byElement (ty : Nat) (v : DWord × Flags) (op : Nat → Nat × Flags) : Prop :=
  if ty = 7 ∨ ty = 8 then v = (BitVec.ofNat 64 ((op 0).1 % 2 ^ 16 + 2 ^ 16 * ((op 1).1 % 2 ^ 16)), (op 0).2 ||| (op 1).2)
  else v = (BitVec.ofNat 64 (op 0).1, (op 0).2)

/-- The exact source of a CVT (R49, R126). -/
def cvtSource (F : Fields) (ftz : Bool) (a : DWord) : Machine.Num :=
  let int (v : Int) (e : Int) : Machine.Num := .fin (decide (v < 0)) v.natAbs e
  if F.srcTy < 4 then int (intOf (widthOf F.srcTy) F.zs a) 0
  else if F.srcTy < 7 then (fmtOf F.srcTy).decode ftz (elemOf F.srcTy 0 a)
  else if F.srcTy = 9 then tapValue 8 (a.extractLsb' 0 8).toNat
  else if F.srcTy = 10 then tapValue 6 (a.extractLsb' 0 6).toNat
  else int (intOf 16 false a) (-15)

/-- Register A + j of CVTPK's group; vz and sz read as zero in every place (R9; log entry 113). -/
def packWord (F : Fields) (g : Group) (x : Thread) (j : Nat) : Word :=
  if F.ca then (if F.a = 127 then 0 else g.sreg (F.a + j)) else if F.a = 255 then 0 else x.reg (F.a + j)

/-- Element j of CVTPK from its f32 source (R127): f16, bf16 and Q1.15 under the mode, T8 and T6 scaled by 2^−s, NaR under s = −128. -/
def packed (F : Fields) (g : Group) (x : Thread) (j : Nat) : Nat × Flags :=
  let ftz := x.fpcr.getLsbD 2
  let src (z : Bool) (w : DWord) : Machine.Num := Fmt.f32.decode z (elemOf 4 0 w)
  let s := intOf 8 false (F.opB false g x)
  let half := if j = 0 then F.opA false g x else F.opB false g x
  if F.ty = 7 ∨ F.ty = 8 then (src ftz half).round (fmtOf F.ty) ⟨modeOf x F.low3, ftz, F.cvtSat⟩
  else if F.ty = 11 then
    let r := ((src false half).scale 15).clampInt (modeOf x F.low3) (-(2 ^ 15)) (2 ^ 15 - 1)
    ((BitVec.ofInt 16 r.1).toNat, r.2)
  else
    let w := if F.ty = 9 then 8 else 6
    let v := src false ((packWord F g x j).setWidth 64)
    if s = -128 then (2 ^ (w - 1), nv v.isSig) else (v.scale (-s)).roundTap w

/-- Element j of CVTXP's source, and its f32 result (R128). -/
def expanded (F : Fields) (g : Group) (x : Thread) (j : Nat) : Nat × Flags :=
  let ftz := x.fpcr.getLsbD 2
  let a := F.opA false g x
  let s := intOf 8 false (F.opB false g x)
  let h : How := ⟨modeOf x F.low3, ftz, false⟩
  let q := intOf 16 false (a.extractLsb' (16 * j) 64)
  if F.srcTy = 7 ∨ F.srcTy = 8 then ((fmtOf F.srcTy).decode ftz (elemOf F.srcTy j a)).round Fmt.f32 h
  else if F.srcTy = 11 then (Machine.Num.fin (decide (q < 0)) q.natAbs (-15)).round Fmt.f32 h
  else
    let w := if F.srcTy = 9 then 8 else 6
    if s = -128 then (Fmt.f32.nanCode, 0) else ((tapValue w (a.extractLsb' (w * j) w).toNat).scale s).round Fmt.f32 h

/-- A magnitude stands for a positive real: the value lies in its interval, and is its lower end where nothing more follows; or, where
four precisions leave 48 bits uncertain, it is within 2^(20 + j − 1536) of it. -/
def StandsFor (x : Mag) (v : ℝ) (j : Int) : Prop :=
  ((x.q : ℝ) * 2 ^ x.e ≤ v ∧ v < (x.q + 1) * 2 ^ x.e ∧ (x.more = false → v = x.q * 2 ^ x.e)) ∨
  (x.more = true ∧ |(x.q : ℝ) * 2 ^ x.e - v| ≤ 2 ^ (20 + j - 1536))

end Sys2Proof.Claims

/-- R8, R34, R114, R143: every row of FARITH, FUNARY, FMISC but FCMP, CVT and CVTPK, in every form: D takes the value in each acting
thread (a scalar D in each group), the flags are ORed into that thread's FPSR, and nothing else changes. What the values are is in
the statements that follow.
R123, R128: FCMP writes its outcome to predicate D and ORs its flag; CVTXP writes two or four registers from D on, element k's
value to D + k; nothing else changes.
R33, R48, R114, R126, R127, R128: each value is the operation of its row on the elements of its operands, decoded in the format of its
type, under the mode its rounding code selects and FPCR's FTZ.
The model's choice: a scalar D takes the value of one acting thread of its group (log entry 10), which shows under a dynamic rounding
mode where FPCR differs among them; NV of a signalling NaN under a block scale of −128 follows R43 (log entry 109). -/
def Obligations.FloatInstructionsWrite : Prop :=
  (∀ (i : Instr) (F : Fields) (s : State), i.wf = true → i.fields? = some F →
    F.maj = 0x08 ∨ F.maj = 0x09 ∨ (F.maj = 0x0A ∧ F.mn ≠ 2) ∨ (F.maj = 0x0B ∧ F.mn < 2) → Calm s F State.noFault →
    ∃ t, exec i s = .next t ∧ FloatResult s t F (F.maj == 0x0B && F.mn == 0 && F.ty == 1) (Claims.floatValue F)) ∧
  ((∀ (i : Instr) (F : Fields) (s : State), i.wf = true → i.fields? = some F → F.maj = 0x0A → F.mn = 2 → Calm s F State.noFault →
    ∃ t, exec i s = .next t ∧ OnlyThreads s t ∧ (∀ tid x, Passes s F tid x → t.threads.get? tid = some (goesOn s x)) ∧
      ∀ tid x, Acts s F tid x → ∃ y, t.threads.get? tid = some y ∧ { y with preds := x.preds, fpsr := x.fpsr } = goesOn s x ∧
        (let r := fcmpVal F (s.group (gidOf tid)) x
         y.fpsr = x.fpsr ||| r.2.setWidth 32 ∧ (F.d < 15 → y.pred F.d = r.1) ∧ ∀ n, n ≠ F.d → y.pred n = x.pred n)) ∧
  (∀ (i : Instr) (F : Fields) (s : State), i.wf = true → i.fields? = some F → F.maj = 0x0B → F.mn = 2 → Calm s F State.noFault →
    ∃ t, exec i s = .next t ∧ OnlyRegisters s t ∧ (∀ tid x, Passes s F tid x → t.threads.get? tid = some (goesOn s x)) ∧
      (∀ tid x, Acts s F tid x → ∃ y, t.threads.get? tid = some y ∧ { y with regs := x.regs, fpsr := x.fpsr } = goesOn s x ∧
        (let rs := cvtxpVals F (s.group (gidOf tid)) x
         rs.length = (if F.srcTy = 9 ∨ F.srcTy = 10 then 4 else 2) ∧
         y.fpsr = x.fpsr ||| (rs.foldl (fun (fl : Flags) (r : Word × Flags) => fl ||| r.2) 0).setWidth 32 ∧
         (F.cd = false → F.d ≠ 255 → (∀ k v, rs[k]? = some v → F.d + k ≠ 255 → y.reg (F.d + k) = v.1) ∧
           ∀ n, n < F.d ∨ F.d + rs.length ≤ n → y.reg n = x.reg n) ∧
         (F.cd = true ∨ F.d = 255 → y.regs = x.regs))) ∧
      ∀ gid g, s.groups.get? gid = some g → ∃ g', t.groups.get? gid = some g' ∧
        (F.cd = false ∨ F.d = 127 ∨ (∀ tid ∈ s.guarded F, gidOf tid ≠ gid) → g' = g) ∧
        (F.cd = true → F.d ≠ 127 → (∃ tid ∈ s.guarded F, gidOf tid = gid) → ∃ tid ∈ s.guarded F, gidOf tid = gid ∧
          ∀ k v, (cvtxpVals F g (s.thread tid))[k]? = some v → g'.sreg (F.d + k) = v.1))) ∧
  ∀ (F : Fields) (g : Group) (x : Thread),
    let mode := Claims.modeOf x F.low3
    let ftz := x.fpcr.getLsbD 2
    let h : How := ⟨mode, ftz, false⟩
    let k := Claims.fmtOf F.ty
    let a (j : Nat) : Nat := Claims.elemOf F.ty j (F.opA false g x)
    let b (j : Nat) : Nat := Claims.elemOf F.ty j (F.opB false g x)
    let c (j : Nat) : Nat := Claims.elemOf F.ty j (F.opC false g x)
    let v := Claims.floatValue F g x
    (4 ≤ F.ty → F.ty < 9 →
      (F.maj = 0x08 → Claims.byElement F.ty v (fun j => match F.mn with
        | 4 => fMinMax k ftz false (a j) (b j)
        | 5 => fMinMax k ftz true (a j) (b j)
        | 6 => fCopySign k (a j) (b j)
        | mn => fArith k h mn (k.decode ftz (a j)) (k.decode ftz (b j)) (k.decode ftz (c j)))) ∧
      (F.maj = 0x09 → Claims.byElement F.ty v (fun j => fUnary k h F.mn (k.decode ftz (a j)))) ∧
      (F.maj = 0x0A → F.mn = 0 → Claims.byElement F.ty v (fun j => fRound k mode (k.decode ftz (a j)))) ∧
      (F.maj = 0x0A → F.mn = 1 → v = (BitVec.ofNat 64 (fClass k (a 0)), 0)) ∧
      (F.maj = 0x0A → F.mn = 3 → Claims.byElement F.ty v (fun j => fLdexp k h (k.decode ftz (a j)) (loWord (F.opB false g x)).toInt)) ∧
      (F.maj = 0x0A → F.mn = 4 → v = (BitVec.ofNat 64 (fGetExp (k.decode ftz (a 0))).1, (fGetExp (k.decode ftz (a 0))).2)) ∧
      (F.maj = 0x0A → F.mn = 5 → Claims.byElement F.ty v (fun j => fGetMan k (k.decode ftz (a j))))) ∧
    (F.maj = 0x0B → F.mn = 0 → F.srcTy ∈ [0, 1, 2, 3, 4, 5, 6, 9, 10, 11] →
      let ftz := ftz && decide (F.ty = 4 ∨ F.ty = 5 ∨ F.ty = 6)
      let src := Claims.cvtSource F ftz (F.opA (F.srcTy == 1) g x)
      let code (r : Nat × Flags) : DWord × Flags := (BitVec.ofNat 64 r.1, r.2)
      (F.ty < 4 → let w := Claims.widthOf F.ty
        let r := src.clampInt mode (if F.zd then 0 else -(2 ^ (w - 1))) (if F.zd then 2 ^ w - 1 else 2 ^ (w - 1) - 1)
        v = (Claims.held w F.zd r.1, r.2)) ∧
      (F.ty = 4 ∨ F.ty = 5 ∨ F.ty = 6 → v = code (src.round k ⟨mode, ftz, F.cvtSat⟩)) ∧
      (F.ty = 9 → v = code (src.roundTap 8)) ∧ (F.ty = 10 → v = code (src.roundTap 6)) ∧
      (F.ty = 11 → let r := (src.scale 15).clampInt mode (-(2 ^ 15)) (2 ^ 15 - 1)
        v = ((BitVec.ofInt 16 r.1).setWidth 64, r.2))) ∧
    (F.maj = 0x0B → F.mn = 1 →
      let e := Claims.packed F g x
      (F.ty ∈ [7, 8, 11] → v = (BitVec.ofNat 64 ((e 0).1 + 2 ^ 16 * (e 1).1), (e 0).2 ||| (e 1).2)) ∧
      (F.ty = 9 ∨ F.ty = 10 → let w := if F.ty = 9 then 8 else 6
        v = (BitVec.ofNat 64 ((e 0).1 + 2 ^ w * (e 1).1 + 2 ^ (2 * w) * (e 2).1 + 2 ^ (3 * w) * (e 3).1),
          (e 0).2 ||| (e 1).2 ||| (e 2).2 ||| (e 3).2))) ∧
    (F.maj = 0x0B → F.mn = 2 → F.srcTy ∈ [7, 8, 9, 10, 11] → ∀ j, j < (if F.srcTy = 9 ∨ F.srcTy = 10 then 4 else 2) →
      (cvtxpVals F g x)[j]? = some (BitVec.ofNat 32 (Claims.expanded F g x j).1, (Claims.expanded F g x j).2))

/-- R33, R34: THE ROUNDING STEP. With FTZ 1 a magnitude that is below the smallest normal once rounded in its mode with no bound on the exponent
gives a zero of its sign with UF and NX, and every other value rounds as with FTZ 0.
A nonzero exact value m × 2^e rounds to a code c of its sign, in each format and mode, with FTZ 0: a mode
that rounds the magnitude down gives the largest value not above it, one that rounds it up the smallest not below it, rn the nearest
value, of two the even code; NX is set exactly when the value differs. OF is set exactly when the magnitude, rounded in its mode with
no bound on the exponent, exceeds the largest finite value, and only then is the result an infinity (in rn and rounding up) or the
largest finite value with NX (rounding down). UF is set exactly when the result is inexact and the magnitude so rounded is below
the smallest normal. -/
def Obligations.RoundingStep : Prop :=
  ∀ k ∈ Claims.formats, ∀ (r : Rnd) (neg : Bool) (m : Nat) (e : Int), 0 < m →
    let x := (Machine.Num.fin neg m e).round k ⟨r, false, false⟩
    let y := (Machine.Num.fin neg m e).round k ⟨r, false, true⟩
    let top : Nat := 2 ^ k.p - 1
    let beyond : Prop := (Claims.RoundsDown r neg → Claims.LeVal 1 (k.emax + 1) m e) ∧
      (Claims.RoundsUp r neg → Claims.LtVal top (k.emax - (k.p - 1)) m e) ∧ (r = .rn → Claims.LeVal (2 * top + 1) (k.emax - k.p) m e)
    let tiny : Prop := (Claims.RoundsDown r neg → Claims.LtVal m e 1 k.emin) ∧
      (Claims.RoundsUp r neg → Claims.LeVal m e top (k.emin - k.p)) ∧ (r = .rn → Claims.LtVal m e (2 * top + 1) (k.emin - k.p - 1))
    (tiny → y = (k.signed neg 0, 0x18)) ∧ (¬ tiny → y = x) ∧
    ∃ c, c ≤ k.infCode ∧ x.1 = k.signed neg c ∧ x.2 &&& 0x03 = 0 ∧
      (x.2.getLsbD 2 = true ↔ beyond) ∧
      (beyond → x.2.getLsbD 4 = true ∧ (Claims.RoundsDown r neg → c = k.infCode - 1) ∧ (¬ Claims.RoundsDown r neg → c = k.infCode)) ∧
      (c = k.infCode → beyond ∧ ¬ Claims.RoundsDown r neg) ∧
      (x.2.getLsbD 3 = true ↔ tiny ∧ x.2.getLsbD 4 = true) ∧
      (∀ v f, c < k.infCode → k.decode false c = .fin false v f →
        (Claims.RoundsDown r neg → Claims.LeVal v f m e) ∧ (Claims.RoundsUp r neg → Claims.LeVal m e v f) ∧
        (x.2.getLsbD 4 = true ↔ ¬ (Claims.LeVal v f m e ∧ Claims.LeVal m e v f)) ∧
        (∀ w g, c + 1 < k.infCode → k.decode false (c + 1) = .fin false w g →
          (Claims.RoundsDown r neg → Claims.LtVal m e w g) ∧
          (r = .rn → let n := v * 2 ^ (f - min f g).toNat + w * 2 ^ (g - min f g).toNat
            Claims.LeVal (2 * m) e n (min f g) ∧ (c % 2 = 1 → Claims.LtVal (2 * m) e n (min f g)))) ∧
        (∀ w g, 0 < c → k.decode false (c - 1) = .fin false w g →
          (Claims.RoundsUp r neg → Claims.LtVal w g m e) ∧
          (r = .rn → let n := v * 2 ^ (f - min f g).toNat + w * 2 ^ (g - min f g).toNat
            Claims.LeVal n (min f g) (2 * m) e ∧ (c % 2 = 1 → Claims.LtVal n (min f g) (2 * m) e))))

/-- R31, R116: FADD, FSUB, FMUL, FFMA and FDIV on any operands: NaNs, invalid operations, zero divisors, infinities, and for finite
operands the exact result rounded once, with the sign of an exact zero sum.
An infinity divided by a zero sets DZ, the pseudocode's order taken as written (log entry 33, DEDUCED). -/
def Obligations.FloatArithmetic : Prop :=
  ∀ k ∈ Claims.formats, ∀ (h : How) (a b c : Machine.Num),
    let sig (xs : List Machine.Num) : Flags := Claims.nv (xs.any Machine.Num.isSig)
    (∀ mn ∈ [0, 1, 2, 7], (a.isNan || b.isNan) = true → fArith k h mn a b c = (k.nanCode, sig [a, b])) ∧
    ((a.isZero && b.isInf || a.isInf && b.isZero) = true →
      fArith k h 3 a b c = (k.nanCode, 0x01) ∧ fArith k h 2 a b c = (k.nanCode, 0x01)) ∧
    ((a.isZero && b.isInf || a.isInf && b.isZero) = false → (a.isNan || b.isNan || c.isNan) = true →
      fArith k h 3 a b c = (k.nanCode, sig [a, b, c])) ∧
    (∀ s t, a = .inf s → b = .inf t →
      fArith k h 0 a b c = (if s = t then (k.signed s k.infCode, 0) else (k.nanCode, 0x01)) ∧
      fArith k h 1 a b c = (if s = t then (k.nanCode, 0x01) else (k.signed s k.infCode, 0)) ∧
      fArith k h 2 a b c = (k.signed (s != t) k.infCode, 0) ∧ fArith k h 7 a b c = (k.nanCode, 0x01)) ∧
    (∀ s t m e, a = .inf s → b = .fin t m e →
      fArith k h 0 a b c = (k.signed s k.infCode, 0) ∧ fArith k h 1 a b c = (k.signed s k.infCode, 0) ∧
      fArith k h 7 a b c = (k.signed (s != t) k.infCode, if m = 0 then 0x02 else 0) ∧
      (m ≠ 0 → fArith k h 2 a b c = (k.signed (s != t) k.infCode, 0))) ∧
    (∀ s t m e, a = .fin s m e → b = .inf t →
      fArith k h 0 a b c = (k.signed t k.infCode, 0) ∧ fArith k h 1 a b c = (k.signed (!t) k.infCode, 0) ∧
      fArith k h 7 a b c = (k.signed (s != t) 0, 0) ∧ (m ≠ 0 → fArith k h 2 a b c = (k.signed (s != t) k.infCode, 0))) ∧
    ((a.isNan || b.isNan || c.isNan) = false → (a.isZero || b.isZero) = false → (a.isInf || b.isInf) = true →
      let p := a.neg != b.neg
      fArith k h 3 a b c = if c.isInf && c.neg != p then (k.nanCode, 0x01) else (k.signed p k.infCode, 0)) ∧
    (∀ s m e t n f u, a = .fin s m e → b = .fin t n f → c = .inf u → fArith k h 3 a b c = (k.signed u k.infCode, 0)) ∧
    (∀ s m e t n f, a = .fin s m e → b = .fin t n f →
      fArith k h 0 a b c = Claims.roundedSum k h s m e t n f ∧
      fArith k h 1 a b c = Claims.roundedSum k h s m e (!t) n f ∧
      fArith k h 2 a b c = (Machine.Num.fin (s != t) (m * n) (e + f)).round k h ∧
      (∀ u p g, c = .fin u p g → fArith k h 3 a b c = Claims.roundedSum k h (s != t) (m * n) (e + f) u p g) ∧
      (n = 0 → fArith k h 7 a b c = if m = 0 then (k.nanCode, 0x01) else (k.signed (s != t) k.infCode, 0x02)) ∧
      (n ≠ 0 → m ≠ 0 → fArith k h 7 a b c = (Mag.mk (m * 2 ^ 64 / n) (e - f - 64) (m * 2 ^ 64 % n != 0)).round k h (s != t)) ∧
      (n ≠ 0 → m = 0 → fArith k h 7 a b c = (k.signed (s != t) 0, 0)))

/-- R117: FMIN and FMAX return one of the operands, the smaller or the larger with −0 below +0, the other operand beside one NaN, the
canonical NaN for two, and set NV for a signalling NaN alone; FCPYS joins A's magnitude bits to B's sign bit and sets no flag. With FTZ 0.
R119: the special operands of the FUNARY functions: NaNs, infinities, zeros, and finite values below zero where the root or the
logarithm is invalid.
R118, R119: the magnitudes that FSQRT, FRCP and FRSQ round: the integer below the exact value at the exponent kept, and whether the
exact value lies above it; for every significand of the three formats.
R119: on a finite operand other than zero each function rounds once a magnitude that stands for the exact value: FEXP2 of an integer and
FLOG2 of a power of two their exact results, every other FEXP2, FLOG2, FSIN, FCOS and FTANH the leading bits of the real value. The
model settles 48 bits by four precisions; that they always suffice is not shown (log entry 134). -/
def Obligations.UnaryAndMinMax : Prop :=
  (∀ k ∈ Claims.formats, ∀ (x y : Nat), x < 2 * k.signBit → y < 2 * k.signBit →
    let a := k.decode false x
    let b := k.decode false y
    (∀ max, (fMinMax k false max x y).2 = Claims.nv (a.isSig || b.isSig)) ∧
    (∀ max, a.isNan = true → b.isNan = true → (fMinMax k false max x y).1 = k.nanCode) ∧
    (∀ max, a.isNan = true → b.isNan = false → (fMinMax k false max x y).1 = y) ∧
    (∀ max, a.isNan = false → b.isNan = true → (fMinMax k false max x y).1 = x) ∧
    (a.isNan = false → b.isNan = false →
      (Claims.order k (fMinMax k false false x y).1 = min (Claims.order k x) (Claims.order k y)) ∧
      (Claims.order k (fMinMax k false true x y).1 = max (Claims.order k x) (Claims.order k y)) ∧
      ∀ m, (fMinMax k false m x y).1 = x ∨ (fMinMax k false m x y).1 = y) ∧
    fCopySign k x y = (x % k.signBit + y / k.signBit * k.signBit, 0)) ∧
  ((∀ k ∈ Claims.formats, ∀ (h : How) (e : Int),
    let nan : Nat × Flags := (k.nanCode, 0x01)
    let one := k.emax.toNat * 2 ^ (k.p - 1)
    let inf (n : Bool) := k.signed n k.infCode
    (∀ mn sig, mn < 8 → fUnary k h mn (.nan sig) = (k.nanCode, Claims.nv sig)) ∧
    (∀ mn, mn < 8 → fUnary k h mn (.fin false 0 e) =
      [(inf false, 0x02), (inf false, 0x02), (0, 0), (one, 0), (inf true, 0x02), (0, 0), (one, 0), (0, (0 : Flags))].getD mn nan) ∧
    (∀ mn, mn < 8 → fUnary k h mn (.fin true 0 e) =
      [(inf true, 0x02), (inf true, 0x02), (k.signBit, 0), (one, 0), (inf true, 0x02), (k.signBit, 0), (one, 0),
        (k.signBit, (0 : Flags))].getD mn nan) ∧
    (∀ mn, mn < 8 → fUnary k h mn (.inf false) =
      [(0, 0), (0, 0), (inf false, 0), (inf false, 0), (inf false, 0), nan, nan, (one, (0 : Flags))].getD mn nan) ∧
    (∀ mn, mn < 8 → fUnary k h mn (.inf true) =
      [(k.signBit, 0), nan, nan, (0, 0), nan, nan, nan, (k.signBit + one, (0 : Flags))].getD mn nan) ∧
    (∀ m, 0 < m → ∀ mn ∈ [1, 2, 4], fUnary k h mn (.fin true m e) = nan)) ∧
  (∀ (m : Nat) (e : Int), 0 < m → m < 2 ^ 24 →
    let m' := if e % 2 = 0 then m else 2 * m
    (let x := sqrtMag m e
     x.q ^ 2 ≤ m' * 2 ^ 96 ∧ m' * 2 ^ 96 < (x.q + 1) ^ 2 ∧ 2 * x.e + 96 = e - e % 2 ∧ (x.more = true ↔ x.q ^ 2 ≠ m' * 2 ^ 96)) ∧
    (let x := divMag 1 0 m e
     x.q * m ≤ 2 ^ 64 ∧ 2 ^ 64 < (x.q + 1) * m ∧ x.e = -e - 64 ∧ (x.more = true ↔ x.q * m ≠ 2 ^ 64)) ∧
    (let x := rsqMag m e
     x.q ^ 2 * m' ≤ 2 ^ 160 ∧ 2 ^ 160 < (x.q + 1) ^ 2 * m' ∧ 2 * x.e + 160 = -(e - e % 2) ∧ (x.more = true ↔ x.q ^ 2 * m' ≠ 2 ^ 160)))) ∧
  ∀ k ∈ Claims.formats, ∀ (h : How) (neg : Bool) (m : Nat) (e : Int), 0 < m → m < 2 ^ k.p → k.low ≤ e → e ≤ k.emax - (k.p - 1) →
    let f (mn : Nat) : Nat × Flags := fUnary k h mn (.fin neg m e)
    let v : ℝ := (m : ℝ) * 2 ^ e
    f 0 = (divMag 1 0 m e).round k h neg ∧
    (neg = false → f 1 = (rsqMag m e).round k h false ∧ f 2 = (sqrtMag m e).round k h false) ∧
    (∀ n : Nat, v = n → f 3 = (Machine.Num.fin false 1 (if neg then -(n : Int) else n)).round k h) ∧
    (2048 < v → f 3 = (Machine.Num.fin false 1 (if neg then -2048 else 2048)).round k h) ∧
    (v < 2048 → ∃ x, f 3 = x.round k h false ∧ Claims.StandsFor x ((2 : ℝ) ^ (if neg then -v else v)) ⌈if neg then -v else v⌉) ∧
    (neg = false → (∀ l : Nat, m = 2 ^ l → f 4 = (Machine.Num.fin (decide (e + l < 0)) (e + l).natAbs 0).round k h) ∧
      ∃ x, f 4 = x.round k h (decide (v < 1)) ∧ Claims.StandsFor x |Real.logb 2 v| 0) ∧
    (∃ x s, f 5 = x.round k h (neg != s) ∧ Claims.StandsFor x |Real.sin v| 0 ∧ (2 ^ (-100 : Int) < |Real.sin v| → (s = true ↔ Real.sin v < 0))) ∧
    (∃ x s, f 6 = x.round k h s ∧ Claims.StandsFor x |Real.cos v| 0 ∧ (2 ^ (-100 : Int) < |Real.cos v| → (s = true ↔ Real.cos v < 0))) ∧
    (∃ x, f 7 = x.round k h neg ∧ Claims.StandsFor x (Real.tanh v) 0)

/-- R122: FCLASS sets exactly the bit of its operand's class, whatever FTZ holds.
R123: FCMP's eight conditions of one f32, f16 or bf16 pair, subnormal operands taken as zeros with FTZ 1: a NaN makes the pair unordered, −0
equals +0, and NV is set by a signalling NaN, in lt, le, gt and ge by any NaN.
R121, R124: FRND gives an integral value on the side its mode names, in rn the even one of two as near, with a's sign and no flag; FGETEXP the exponent E with 2^E ≤ |a| < 2^(E+1); FGETMAN the significand in [1, 2) with a's sign, exact; FLDEXP
rounds a × 2^b once, whatever b is; and the special operands of the four. -/
def Obligations.ClassesAndParts : Prop :=
  ((∀ k ∈ Claims.formats, ∀ x, x < 2 * k.signBit → fClass k x = 2 ^ (match k.decode false x with
    | .nan sig => if sig then 0 else 1
    | .inf neg => if neg then 2 else 9
    | .fin neg m _ =>
      if m = 0 then (if neg then 5 else 6)
      else if m < 2 ^ (k.p - 1) then (if neg then 4 else 7) else if neg then 3 else 8)) ∧
  (∀ (F : Fields) (g : Group) (x : Thread), 4 ≤ F.ty → F.ty < 7 → F.c < 8 →
    let a := (Claims.fmtOf F.ty).decode (x.fpcr.getLsbD 2) (Claims.elemOf F.ty 0 (F.opA false g x))
    let b := (Claims.fmtOf F.ty).decode (x.fpcr.getLsbD 2) (Claims.elemOf F.ty 0 (F.opB false g x))
    let nan := a.isNan || b.isNan
    ((fcmpVal F g x).2 = Claims.nv (a.isSig || b.isSig || (nan && decide (2 ≤ F.c) && decide (F.c < 6)))) ∧
    (nan = true → (fcmpVal F g x).1 = decide (F.c = 1 ∨ F.c = 6)) ∧
    (nan = false →
      let lt := Claims.below a b
      let gt := Claims.below b a
      (fcmpVal F g x).1 = [!lt && !gt, lt || gt, lt, !gt, gt, !lt, false, true].getD F.c false))) ∧
  (∀ k ∈ Claims.formats, ∀ (c : Nat),
    (∀ neg m e, k.decode false c = .fin neg m e → 0 < m →
      (∃ E : Int, fGetExp (.fin neg m e) = ((BitVec.ofInt 32 E).toNat, 0) ∧ Claims.LeVal 1 E m e ∧ Claims.LtVal m e 1 (E + 1) ∧
        ∃ v f, k.decode false (fGetMan k (.fin neg m e)).1 = .fin neg v f ∧ (fGetMan k (.fin neg m e)).2 = 0 ∧
          Claims.LeVal v (f + E) m e ∧ Claims.LeVal m e v (f + E)) ∧
      (∀ r, ∃ n v f, k.decode false (fRound k r (.fin neg m e)).1 = .fin neg v f ∧ (fRound k r (.fin neg m e)).2 = 0 ∧
        Claims.LeVal v f n 0 ∧ Claims.LeVal n 0 v f ∧
        (Claims.RoundsDown r neg → Claims.LeVal n 0 m e ∧ Claims.LtVal m e (n + 1) 0) ∧
        (Claims.RoundsUp r neg → Claims.LeVal m e n 0 ∧ (0 < n → Claims.LtVal (n - 1) 0 m e)) ∧
        (r = .rn → Claims.LeVal (2 * m) e (2 * n + 1) 0 ∧ (0 < n → Claims.LeVal (2 * n - 1) 0 (2 * m) e) ∧
          (n % 2 = 1 → Claims.LtVal (2 * m) e (2 * n + 1) 0 ∧ Claims.LtVal (2 * n - 1) 0 (2 * m) e))) ∧
      (∀ h b, fLdexp k h (.fin neg m e) b = (Machine.Num.fin neg m (e + b)).round k h)) ∧
    (∀ neg e, fGetExp (.fin neg 0 e) = (0x80000000, 0x02) ∧ fGetMan k (.fin neg 0 e) = (k.signed neg 0, 0) ∧
      (∀ r, fRound k r (.fin neg 0 e) = (k.signed neg 0, 0)) ∧ ∀ h b, fLdexp k h (.fin neg 0 e) b = (k.signed neg 0, 0)) ∧
    (∀ neg, (∀ r, fRound k r (.inf neg) = (k.signed neg k.infCode, 0)) ∧ fGetExp (.inf neg) = (0x7FFFFFFF, 0x01) ∧ fGetMan k (.inf neg) = (k.nanCode, 0x01) ∧
      ∀ h b, fLdexp k h (.inf neg) b = (k.signed neg k.infCode, 0)) ∧
    (∀ sig, (∀ r, fRound k r (.nan sig) = (k.nanCode, Claims.nv sig)) ∧ fGetExp (.nan sig) = (0x80000000, 0x01) ∧ fGetMan k (.nan sig) = (k.nanCode, Claims.nv sig) ∧
      ∀ h b, fLdexp k h (.nan sig) b = (k.nanCode, Claims.nv sig)))

/-- R49, R50: a conversion to an integer or Q1.15 range clamps the rounded value, in rn the even one of two as near, to its limits with NV alone,
else sets NX exactly when it is inexact; a NaN gives 0 and an infinity its limit, with NV.
R43: a rounding into T8 or T6 gives the nearest code, a tie the even one, a magnitude above the largest the largest with OF and NX,
and NX, UF as the rule says; a NaN gives NaR, with NV if it signals, an infinity the largest of its sign with OF and NX, a zero zero. The model's reading where the rules leave it open: log entry 34. -/
def Obligations.ConversionRounding : Prop :=
  (∀ (rnd : Rnd) (lo hi : Int), lo ≤ 0 → 0 < hi →
    (∀ sig, Machine.Num.clampInt (.nan sig) rnd lo hi = (0, 0x01)) ∧
    (∀ neg, Machine.Num.clampInt (.inf neg) rnd lo hi = (if neg then lo else hi, 0x01)) ∧
    ∀ neg m e, ∃ (n : Nat) (r : Int), r = (if neg then -(n : Int) else n) ∧
      (Claims.RoundsDown rnd neg → Claims.LeVal n 0 m e ∧ Claims.LtVal m e (n + 1) 0) ∧
      (Claims.RoundsUp rnd neg → Claims.LeVal m e n 0 ∧ (0 < n → Claims.LtVal (n - 1) 0 m e)) ∧
      (rnd = .rn → Claims.LeVal (2 * m) e (2 * n + 1) 0 ∧ (0 < n → Claims.LeVal (2 * n - 1) 0 (2 * m) e) ∧
        (n % 2 = 1 → Claims.LtVal (2 * m) e (2 * n + 1) 0 ∧ Claims.LtVal (2 * n - 1) 0 (2 * m) e)) ∧
      Machine.Num.clampInt (.fin neg m e) rnd lo hi =
        (if r < lo then (lo, 0x01) else if hi < r then (hi, 0x01)
         else (r, if Claims.LtVal m e n 0 ∨ Claims.LtVal n 0 m e then 0x10 else 0))) ∧
  (∀ w, w = 8 ∨ w = 6 →
    (∀ sig, Machine.Num.roundTap (.nan sig) w = (2 ^ (w - 1), Claims.nv sig)) ∧
    (∀ neg, Machine.Num.roundTap (.inf neg) w = (if neg then 2 ^ w - 1 else 2 ^ (w - 1) - 1, 0x14)) ∧
    (∀ neg e, Machine.Num.roundTap (.fin neg 0 e) w = (0, 0)) ∧
    ∀ (neg : Bool) (m : Nat) (e : Int), 0 < m →
    let r := (Machine.Num.fin neg m e).roundTap w
    let top := 2 ^ (w - 1) - 1
    (Claims.LtVal (tapMag w top) (-12) m e → r = (if neg then 2 ^ (w - 1) + top else top, 0x14)) ∧
    (Claims.LeVal m e (tapMag w top) (-12) → ∃ c, c ≤ top ∧ r.1 = (if c = 0 then 0 else if neg then 2 ^ (w - 1) + c else c) ∧
      (c < top → Claims.LeVal (2 * m) e (tapMag w c + tapMag w (c + 1)) (-12) ∧
        (c % 2 = 1 → Claims.LtVal (2 * m) e (tapMag w c + tapMag w (c + 1)) (-12))) ∧
      (0 < c → Claims.LeVal (tapMag w (c - 1) + tapMag w c) (-12) (2 * m) e ∧
        (c % 2 = 1 → Claims.LtVal (tapMag w (c - 1) + tapMag w c) (-12) (2 * m) e)) ∧
      (r.2.getLsbD 4 = true ↔ Claims.LtVal m e (tapMag w c) (-12) ∨ Claims.LtVal (tapMag w c) (-12) m e) ∧
      (r.2.getLsbD 3 = true ↔ Claims.LtVal m e (tapMag w 1) (-12))))


/-! Encodings (04 R62 to R86). -/

namespace Sys2Proof.Claims

/-- Encodings worked in 04 and 05, with the instruction each stands for, or none for an encoding that is no instruction. -/
def workedWords : List (List Word × Option Instr) :=
  let ext : ExtF := ⟨0, 0, 0, 0, false, 15, false, false, false, false, false, 0, 0, 0⟩
  [([0x45041020, 0x000003E8, 0x00000000], some (.icmpX 4 (.lit ⟨1, 1, 0, 0⟩ 1000))),
    ([0x42041001, 0xFFFFFC18, 0xFFFFFFFF], some (.iaddX (.lit ⟨1, 1, 0, 1⟩ (BitVec.ofInt 64 (-1000))))),
    ([0x88020200, 0x008C4021, 0x3F000000],
      some (.fmulX (.ext { ext with d := 2, a := 2, n := true, g := 1, xb := true, mod := 0x21, x := 0x3F000000 }))),
    ([0x82010100, 0x008C0000, 0x00000005], some (.iaddX (.ext { ext with d := 1, a := 1, n := true, g := 1, xb := true, x := 5 }))),
    ([0x8F070400, 0x60780020, 0x00000006], some (.ldX (.ext { ext with d := 7, a := 4, c := 0x60, mod := 0x20, x := 6 }))),
    ([0x0F51E281], some (.st ⟨20, 30, 2, false, 1⟩)),
    ([0xC2080800, 0x007C0008, 0, 0, 1],
      some (.iaddX (.extLit { ext with d := 8, a := 8, xb := true, mod := 8 } 0x100000000))),
    ([0x0F1C4080], some (.ld ⟨7, 4, 2, false, 0⟩)), ([0x0C2FFFF3], some (.bra ⟨1, false, 0xFFFF3⟩)),
    ([0x0E01D000], some (.ret ⟨0, 29, 0, 0⟩)), ([0x4E000018, 0x10, 0], some (.enterX (.lit ⟨0, 0, 0, 0⟩ 16))),
    ([0x4E080028, 4, 0], some (.repX (.lit ⟨2, 0, 0, 0⟩ 4))), ([0x083840C3], some (.fadd ⟨14, 4, 3, 3⟩)),
    ([0x00000000], some (.nop ⟨0, 0, 0, 0⟩)), ([0xC1FFFFFF, 1, 2, 3, 4], some (.hintLong (.five 0xC1FFFFFF 1 2 3 4))),
    ([0x10000000], none), ([0x16000000], none), ([0x083840DB], none)]

/-- The majors of the opcode map with how many minors each assigns, from 0 on (R83); ICMP's are its conditions. -/
def opcodeMap : List (Nat × Nat) :=
  [(0x00, 1), (0x02, 8), (0x03, 8), (0x04, 8), (0x05, 8), (0x06, 7), (0x07, 6), (0x08, 8), (0x09, 8), (0x0A, 6), (0x0B, 3), (0x0C, 1),
    (0x0D, 1), (0x0E, 8), (0x0F, 5), (0x14, 7), (0x15, 7), (0x16, 4), (0x17, 6), (0x18, 7), (0x19, 6), (0x20, 1), (0x21, 7),
    (0x22, 4), (0x23, 5), (0x24, 2), (0x25, 5), (0x30, 5), (0x38, 5), (0x39, 3)]

/-- The majors with the OP layout; BRA and CALL have the BR layout, MEM the M layout (R83). -/
def opMajors : List Nat := [0x00, 0x02, 0x03, 0x04, 0x05, 0x06, 0x07, 0x08, 0x09, 0x0A, 0x0E]

/-- The minors that use C and have no base form (R67). -/
def noBase : List (Nat × Nat) := [(0x08, 3), (0x04, 6), (0x04, 4), (0x07, 2), (0x0A, 2)]

/-- `Decode` of R85 after the fetch, on word 0 and word 1: is the encoding an instruction? -/
def isInstruction (w0 w1 : Word) : Prop :=
  let maj := (w0.extractLsb' 24 6).toNat
  maj = 1 ∨
    (w0.getLsbD 31 = false ∧
      ((maj ∈ opMajors ∧ (maj, (w0.extractLsb' 3 3).toNat) ∉ noBase ∧
          ∃ n, (maj, n) ∈ opcodeMap ∧ (w0.extractLsb' 3 3).toNat < n) ∨
        maj = 0x0C ∨ maj = 0x0D ∨ (maj = 0x0F ∧ (w0.extractLsb' 9 3).toNat < 5))) ∨
    (w0.getLsbD 31 = true ∧ w1.getLsbD 17 = false ∧ ∃ n, (maj, n) ∈ opcodeMap ∧ (w1.extractLsb' 13 3).toNat < n)

/-- The length in words that LEN names (R62). -/
def lenWords (w0 : Word) : Nat := [1, 3, 3, 5].getD (w0.extractLsb' 30 2).toNat 0

end Sys2Proof.Claims

/-- R62 to R74: decoding the words of any well-formed instruction that has an encoding gives that instruction back, every field at every
value, and leaves the words behind it; no bit of an encoding is dropped.
The model's reading where the rules leave it open: log entry 21. -/
def Obligations.DecodeOfEncode : Prop :=
  ∀ (i : Instr) (rest : List Word), i.wf = true → encode i ≠ [] → decodeWords (encode i ++ rest) = .ok (i, rest)

/-- R62, R85, R86: every list of words that is long enough for its first word decodes, to a well-formed instruction whose encoding is
exactly the words LEN counts; it is ILLEGAL_OPCODE exactly where R85 finds no instruction. -/
def Obligations.EncodeOfDecode : Prop :=
  ∀ (w0 : Word) (ws : List Word),
    (ws.length + 1 < Claims.lenWords w0 → decodeWords (w0 :: ws) = .error .truncated) ∧
    (Claims.lenWords w0 ≤ ws.length + 1 → ∃ i rest, decodeWords (w0 :: ws) = .ok (i, rest) ∧ i.wf = true ∧
      (encode i).length = Claims.lenWords w0 ∧ encode i ++ rest = w0 :: ws ∧
      ((∃ r, i = .illegalOpcode r) ↔ ¬ Claims.isInstruction w0 (ws.headD 0)))

/-- 04's and 05's worked encodings decode to the instructions they are worked for, or to ILLEGAL_OPCODE. -/
def Obligations.WorkedEncodings : Prop :=
  ∀ e ∈ Claims.workedWords, match decodeWords e.1 with
    | .ok (i, rest) => rest = [] ∧ (match e.2 with | some j => i = j | none => ∃ r, i = .illegalOpcode r)
    | .error _ => False

/-! The step and reset (01 R13, R20, 04 R63, 08 R148, 20 R369, 23 R418). -/

namespace Sys2Proof.Claims

/-- A bundle at instruction `i` of `n` words has nothing to do first: no deferred fault is due (R351), and, of an encoded instruction,
nothing that is under way holds it back (R180, R261, R283, R351), nor a shadow too far behind (R383). -/
def Free (s : State) (b : List Nat) (ws : List Word) (i : Instr) : Prop :=
  s.dueFaults b (i.fields?.map (s.doing b ws)) = [] ∧ (∀ g ∈ State.groupsIn b, s.shadowFull g = false) ∧
  ∀ f, i.fields? = some f → let x := s.doing b ws f
    (∀ g ∈ State.groupsIn b, s.stallsAt g x = false) ∧ (∀ t ∈ x.threads, s.heldUp x.act t = []) ∧ s.waits x = false ∧ s.toFlush x = []

/-- The words of the instruction at a thread's program counter (R63); of a REP pair under way, its REP's as they were fetched (R111). -/
def wordsAt (s : State) (t : Nat) : Except Flt (List Word) :=
  match (s.thread t).pair with
  | none => s.codeAt t (s.thread t).pc
  | some p => .ok p.rep

/-- The state in which a bundle's instruction is performed: the records of R147, R152, R177 and R383 kept, the bundle in place, and an
error that the fetch or a lookup has met at home counted (R386). -/
def atIssue (s : State) (core part : Nat) (b : List Nat) (ws : List Word) (i : Instr) : State :=
  let d := i.fields?.map (s.doing b ws)
  ((((s.dropThreads core part []).recordIssue core part b d).setIssue core part b (4 * ws.length)).lead i d).touchIssue (4 * ws.length) d

end Sys2Proof.Claims

/-- A STEP RUNS THE DECODED INSTRUCTION. The turn of an event performs that event on its subject. The turn of a partition fetches the
words at the program counter of the bundle it chooses (R63, R152) and, where they decode to `i` and nothing comes first, performs
exec of `i` with the bundle in place, then lets the bundles split (R148). The turns are the model's (log entry 1). -/
def Obligations.StepRunsInstruction : Prop :=
  (∀ (s : State) (i : Instr) (on : Subject) (r : List Turn), s.power = .on → s.agenda = .event i on :: r →
    step s = exec i { s with agenda := r, turn := s.turn + 1, subject := on }) ∧
  ∀ (s : State) (core part n : Nat) (ready : List Nat) (r : List Turn) (m : List Nat), s.power = .on →
    s.agenda = .issue core part ready :: r → s.stopped = false → (s.partition core part).lastAt ≠ s.cycle + 1 →
    let u := { s with agenda := r, turn := s.turn + 1 }.settled core part
    let p := u.partition core part
    orderBy (u.chooseKey p) (u.choices core part ready) = n :: m →
    ∀ t b ws i, p.bundles.getD n [] = t :: b → Claims.wordsAt u t = .ok ws → decodeWords ws = .ok (i, []) →
      Claims.Free u (t :: b) ws i →
      step s = afterIssue core part (exec i (Claims.atIssue u core part (t :: b) ws i)) ∧
      (Claims.atIssue u core part (t :: b) ws i).issue =
        ⟨core, part, teamOf (gidOf t), t :: b, (u.thread t).pc, (u.thread t).pc, ptrAdd (u.thread t).pc (4 * ws.length), false, 0⟩

/-- R13, R20, R153, R368, R369, R386: what the spec gives for reset. SVCTHR reads 128, CTXLIM 24, the Flicker registers 0, no budget is set
and none used; a thread starts with v30 = 0x3000, v31 the slice length, its predicates,
depth, flags and record clear; a group with CBRTO 1000 and BARTO 0x01000000; a barrier at phase 0 with E the team's size.
The model's choices, which the spec does not give: the empty agenda (log entry 1), the memories with nothing listed (log entry 4), the
cycle count 0, the power off and the empty tables of threads, teams and contexts (log entry 2); so is what a thread or a group holds
beyond the above (log entry 2). -/
def Obligations.ResetState : Prop :=
  (let s := State.reset
   s.agenda = [] ∧ s.hbm = [] ∧ s.threads = [] ∧ s.teams = [] ∧ s.contexts = [] ∧ s.cycle = 0 ∧ s.power = .off ∧
   (∀ ctx, s.svcthrOf ctx = 128 ∧ s.ctxlimOf ctx = 24) ∧ s.flkCtl = 0 ∧ s.flkLo = 0 ∧ s.flkHi = 0 ∧ (∀ a k, s.budgets.getD (4 * a + k) 0 = 0) ∧
   ∀ a k, s.budgetUsed a k = 0) ∧
  (∀ entry n, let x := Thread.start entry n
    x.pc = entry ∧ x.reg 30 = 0x3000 ∧ x.reg 31 = BitVec.ofNat 32 n ∧ (∀ k, k < 15 → x.pred k = false) ∧ x.pred 15 = true ∧ x.depth = 0 ∧
    x.fpsr = 0 ∧ x.fpcr = 0 ∧ x.stklim = 0 ∧ x.fcode = 0 ∧ x.rpc = 0 ∧ x.meet = none ∧ x.meets = [] ∧ x.cross = []) ∧
  Group.blank.cbrto = 1000 ∧ Group.blank.barto = 0x01000000 ∧ Group.blank.thnd = 0 ∧ Group.blank.phs = 0 ∧
  ∀ n, (Barrier.fresh n).phase = 0 ∧ (Barrier.fresh n).e = n ∧ (Barrier.fresh n).arrived = []

/-- Reset keeps the memories in canonical form. The model's reading where the rules leave it open: log entry 4. -/
def Obligations.ResetMemory : Prop := MemoryOk State.reset

/-- EVERY STEP keeps HBM and host memory in canonical form: addresses strictly rising, no byte listed that reads as
an unlisted one does, so that equal memories are equal data. From every state that has it, not only from runs.
The model's reading where the rules leave it open: log entry 4. -/
def Obligations.StepKeepsMemory : Prop := ∀ s t, MemoryOk s → step s = .next t → MemoryOk t

/-! REP and EXIT (05 R108 to R112). -/

namespace Sys2Proof.Claims

/-- Every thread of the bundle has gone on behind the instruction and no thread differs otherwise. -/
def WentOn (s t : State) : Prop :=
  (∀ tid x, tid ∈ s.issue.threads → s.threads.get? tid = some x → t.threads.get? tid = some (goesOn s x)) ∧
  ∀ tid, tid ∉ s.issue.threads → t.threads.get? tid = s.threads.get? tid

/-- The threads that perform an iteration of a pair: those between its iterations, and those whose REP guard is true (R111). -/
def pairThreads (s : State) (F : Fields) : List Nat :=
  s.issue.threads.filter (fun t => ((s.thread t).inRep && (s.thread t).pair.isSome) || (s.thread t).guard F)

/-- A thread that has left a pair (R111). -/
def left (x : Thread) (after : Ptr) : Thread := { x with inRep := false, pair := none, pc := after, issued := true }

end Sys2Proof.Claims

/-- R109 to R111: a pair of REP and a target that faults in no thread, one iteration at a time. Threads whose REP guard is false go on behind the
target; with count 0 all do. Otherwise the threads that stand at iteration i = n − RPC, or 0 at the start, keep the words of the pair
as fetched, have RPC = n − i and perform the target with its advancing fields i × s further on, which is what exec of the
instruction of those fields does; a target in the hint space repeats as a no-op (R84). The model's reading where the rules leave it open: log entry 86. -/
def Obligations.RepIterates : Prop :=
  (∀ (i : Instr) (F : Fields) (s : State) (t0 : Nat) (ts : List Nat) (ws : List Word), i.wf = true → i.fields? = some F →
    F.maj = 0x0E → F.mn = 5 → s.issue.threads = t0 :: ts → s.targetWords t0 s.issue.next = .ok ws →
    (∀ tid ∈ Claims.pairThreads s F, s.repFault F (ws.getD 0 0) (instrOf ws) tid = none) →
    let after := ptrAdd s.issue.next (4 * ws.length)
    (F.x = 0 ∨ Claims.pairThreads s F = [] → ∃ t, exec i s = .next t ∧ OnlyThreads s t ∧
      ∀ tid x, tid ∈ s.issue.threads → s.threads.get? tid = some x → t.threads.get? tid = some (Claims.left x after)) ∧
    (∀ p ps, F.x ≠ 0 → Claims.pairThreads s F = p :: ps →
      let n := F.x.toNat
      let k := if (s.thread p).inRep then n - (s.thread p).rpc.toNat else 0
      ∃ u : State, { u with threads := s.threads, issue := s.issue } = s ∧
        u.issue = { s.issue with threads := p :: ps, self := s.issue.next, next := after, rep := true, shift := k * F.d } ∧
        (∀ tid, tid ∉ s.issue.threads → u.threads.get? tid = s.threads.get? tid) ∧
        (∀ tid x, tid ∈ s.issue.threads → s.threads.get? tid = some x → u.threads.get? tid =
          some (if tid ∈ p :: ps then { x with rpc := BitVec.ofNat 32 (n - k), inRep := true, pair := some (s.pairOf p ws) }
            else Claims.left x after)) ∧
        exec i s = .next { (match (instrOf ws).fields? with
          | some G => targetOn (G.shift (s.widthOf (gidOf p)) (k * F.d)) u
          | none => xHint u) with issue := s.issue })) ∧
  ∀ (j : Instr) (G : Fields) (s : State), j.wf = true → j.fields? = some G → repBars G.maj = false → exec j s = .next (targetOn G s)

/-- R108, R144, R153, R166: EXIT ends each acting thread and its registers cease to exist. Where its group keeps a thread and no thread of the team
waits or handles a trap, nothing else changes but that each barrier without arrivals expects as many threads fewer and keeps no vote of theirs.
Where no thread of the team is left, the team ends without a fault code. The model's readings: an EXIT that waits (log entry 84); a barrier without arrivals whose E falls to 0 completes nothing (log entry 30);
a team whose scratchpad a running COPY or FILL names ends when that is over (log entry 125). -/
def Obligations.ExitEndsThreads : Prop :=
  ∀ (i : Instr) (F : Fields) (s : State), i.wf = true → i.fields? = some F → F.maj = 0x0E → F.mn = 7 → Calm s F State.noFault →
    s.issue.threads.Nodup → (∀ tid ∈ s.issue.threads, teamOf (gidOf tid) = s.issue.team) →
    (∃ T, s.teams.get? s.issue.team = some T ∧ T.place ≠ .ended ∧ T.ending = none) →
    (∀ u y, s.threads.get? u = some y → teamOf (gidOf u) = s.issue.team → y.wait = .none ∧ y.inHandler = false) →
    ∃ t, exec i s = .next t ∧
      (∀ tid x, Acts s F tid x → ∃ y, t.threads.get? tid = some y ∧ y.life = .exited ∧ y.regs = [] ∧ y.wait = .none) ∧
      ((∀ tid ∈ s.guarded F, ∃ u y, s.threads.get? u = some y ∧ gidOf u = gidOf tid ∧ y.life ≠ .exited ∧ u ∉ s.guarded F) →
        { t with threads := s.threads, teams := s.teams, parts := s.parts } = s ∧
        (∀ tid x, Passes s F tid x → t.threads.get? tid = some (goesOn s x)) ∧
        (∀ tid, tid ∉ s.issue.threads → t.threads.get? tid = s.threads.get? tid) ∧
        (∀ k, k ≠ s.issue.team → t.teams.get? k = s.teams.get? k) ∧
        { t.team s.issue.team with bars := (s.team s.issue.team).bars } = s.team s.issue.team ∧
        ∀ b, b < 16 → (s.barrier s.issue.team b).arrived = [] → t.barrier s.issue.team b =
          { s.barrier s.issue.team b with
            e := (s.barrier s.issue.team b).e - (s.guarded F).length
            pendingE := (s.barrier s.issue.team b).pendingE.map (· - (s.guarded F).length)
            votes := (s.barrier s.issue.team b).votes.filter (fun v => !(s.guarded F).contains v.1) }) ∧
      (s.guarded F ≠ [] → (∀ u y, s.threads.get? u = some y → teamOf (gidOf u) = s.issue.team → y.life = .exited ∨ u ∈ s.guarded F) →
        (∀ tid ∈ s.guarded F, (s.groups.get? (gidOf tid)).isSome) →
        (s.copying s.issue.team = false → (t.team s.issue.team).place = .ended ∧ (t.team s.issue.team).endCode = none) ∧
        (s.copying s.issue.team = true → (t.team s.issue.team).ending = some (none, true)))

/-! Memory accesses of a thread (06 R129 to R137, 15 R259, R260, R265, R268, R269). -/

namespace Sys2Proof.Claims

/-- No error stands in the lines of `n` bytes from home address `a`, and no Flicker error is armed (R379, R380, R386). -/
def Sound (s : State) (a n : Nat) : Prop :=
  s.flkCtl.getLsbD 31 = false ∧ ∀ k, k < n → (a + k) / 64 ∉ s.poison ∧ s.badLines.get? ((a + k) / 64) = none

/-- The byte that a thread sees at a home address (R137, R260): its own newest store, its domain's overlay, then home or the snapshot;
`fresh` for a volatile access, which the snapshot never serves. -/
def sees (s : State) (tid a : Nat) (fresh : Bool) : Byte :=
  let d := s.domain (s.domOf (gidOf tid))
  match s.forwarded tid a with
  | some b => b
  | none =>
    match d.overlay.get? a with
    | some b => b
    | none =>
      if fresh then s.homeByte a
      else match d.lines.get? (a / 64) with | some bs => bs.getD (a % 64) 0 | none => s.homeByte a

/-- How many registers an access of a size code has, and register D + j of a load from its bytes: the even register of a pair holds the
higher-addressed word (R12, R78, R131). -/
def regsOf (size : Nat) : Nat := if size = 4 then 4 else if size = 3 then 2 else 1
def loadedWord (size : Nat) (sx : Bool) (byte : Nat → Byte) (j : Nat) : Word :=
  let w (k : Nat) : Word := byte (4 * k + 3) ++ byte (4 * k + 2) ++ byte (4 * k + 1) ++ byte (4 * k)
  match size with
  | 0 => if sx then (byte 0).signExtend 32 else (byte 0).setWidth 32
  | 1 => let h : BitVec 16 := byte 1 ++ byte 0; if sx then h.signExtend 32 else h.setWidth 32
  | 2 => w 0
  | _ => w ([1, 0, 3, 2].getD j 0)

/-- Byte `k` of a store: D in its class, vz and sz as zeros (R131). -/
def storedByte (F : Fields) (g : Group) (x : Thread) (k : Nat) : Byte :=
  let n := F.d + (if F.size < 3 then 0 else [1, 0, 3, 2].getD (k / 4) 0)
  let v : Word := if F.cd then (if F.d = 127 then 0 else g.sreg n) else if F.d = 255 then 0 else x.reg n
  v.extractLsb' (8 * (k % 4)) 8

/-- Is byte `k` of a store enabled (R132)? -/
def enabled (F : Fields) (x : Thread) (k : Nat) : Bool := decide (k < F.sizeBytes) && (!F.bm || (x.reg F.b).getLsbD k)

/-- The home address a global access of thread `tid` goes to, and of a scratchpad access the team and offset; none where the check fails
or the home is elsewhere. A store with no enabled byte is checked as a one-byte write (R132). -/
def homeAt (s : State) (F : Fields) (kind : Kind) (tid : Nat) : Option Nat :=
  let n := if kind = .write ∧ storeMask F (s.thread tid) = 0 then 1 else F.sizeBytes
  match s.check (s.agent tid) (globalEa F (s.group (gidOf tid)) (s.thread tid)) n F.size kind with
  | .ok _ (.home a) => some a
  | _ => none
def spadAt (s : State) (F : Fields) (kind : Kind) (tid : Nat) : Option (Nat × Nat) :=
  let n := if kind = .write ∧ storeMask F (s.thread tid) = 0 then 1 else F.sizeBytes
  match s.checkSpad (gidOf tid) (spadEa F (s.group (gidOf tid)) (s.thread tid)) n F.size kind with
  | .ok p => some p
  | .error _ => none

/-- Scratchpad loads of threads, one after another, each after the thread's own earlier stores to the member it names (R265); and what the
load of `tid` returns: the bytes read ahead of it, or those the thread reads then. -/
def afterOwn (s : State) (F : Fields) (tids : List Nat) : State :=
  tids.foldl (fun s tid => match spadAt s F .read tid with
    | some p => s.performSpad (gidOf tid) (fun q => q.tid == tid && q.team == p.1)
    | none => s) s
def spadLoaded (s : State) (F : Fields) (tids : List Nat) (tid k : Nat) : Byte :=
  let p := (spadAt s F .read tid).getD (0, 0)
  match s.ahead.find? (fun e => e.tid == tid && e.team == p.1 && e.off == p.2 && e.bytes.length == F.sizeBytes) with
  | some e => e.bytes.getD k 0
  | none => (afterOwn s F (tids.takeWhile (· != tid) ++ [tid])).spadByte tid p.1 (p.2 + k)

/-- Does the access of a thread touch a sealed range or a segment of sealed data (R267)? -/
def touchesSeal (s : State) (F : Fields) (tid : Nat) : Bool :=
  let ea := globalEa F (s.group (gidOf tid)) (s.thread tid)
  (s.descOn (s.group (gidOf tid)).core (s.ctxOf (gidOf tid)) (segOf ea)).sl || s.sealed (s.ctxOf (gidOf tid)) (segOf ea) (offOf ea) F.sizeBytes

/-- The threads of `ts` load: each has D, and registers to the size of the access, from the bytes `byte` gives it; a scalar D takes the
bytes of one thread of the group that acts (R131, R143). No other register changes. -/
structure Loaded (s t : State) (F : Fields) (byte : Nat → Nat → Byte) : Prop where
  passes : ∀ tid x, Passes s F tid x → t.threads.get? tid = some (goesOn s x)
  outside : ∀ tid, tid ∉ s.issue.threads → t.threads.get? tid = s.threads.get? tid
  vector : F.cd = false → ∀ tid x, Acts s F tid x → ∃ y, t.threads.get? tid = some y ∧ { y with regs := x.regs } = goesOn s x ∧
    (F.d ≠ 255 → ∀ j, j < regsOf F.size → F.d + j ≠ 255 → y.reg (F.d + j) = loadedWord F.size F.sx (byte tid) j) ∧
    ∀ n, F.d = 255 ∨ n < F.d ∨ F.d + regsOf F.size ≤ n → y.reg n = x.reg n
  scalar : F.cd = true → (∀ tid x, Acts s F tid x → t.threads.get? tid = some (goesOn s x)) ∧
    ∀ gid, (∃ tid ∈ s.guarded F, gidOf tid = gid) → ∃ tid ∈ s.guarded F, gidOf tid = gid ∧
      (F.d ≠ 127 → (s.groups.get? gid).isSome → ∀ j, j < regsOf F.size → (t.group gid).sreg (F.d + j) = loadedWord F.size F.sx (byte tid) j) ∧
      ∀ n, F.d = 127 ∨ n < F.d ∨ F.d + regsOf F.size ≤ n → (t.group gid).sreg n = (s.group gid).sreg n

end Sys2Proof.Claims

/-- R130, R131, R137, R260, R269: LD from home where every access passes its checks and meets no error. After the acquire of its order, D holds the
bytes the thread sees at its address; memory, overlays and store paths stand, a snapshot gains at most lines as home holds them, a
volatile load drops the line it has passed (R264), and lines read at home are counted (R368; log entry 130).
R135, R265: LDS reads the scratchpad after the thread's own earlier stores to that member are performed, or takes what was read ahead of it;
nothing else changes. The model's readings: log entry 122; a scalar D takes what one acting thread of its group loads (log entry 10). -/
def Obligations.LoadsReadMemory : Prop :=
  (∀ (i : Instr) (F : Fields) (s : State), i.wf = true → i.fields? = some F → F.maj = 0x0F → F.mn = 0 → Calm s F State.noFault →
    s.issue.threads.Nodup →
    (∀ tid ∈ s.guarded F, ∃ a, Claims.homeAt s F .read tid = some a ∧ Claims.Sound s a F.sizeBytes ∧ Claims.touchesSeal s F tid = false) →
    let u := if F.acquires then s.acquireAll (State.groupsIn (s.guarded F)) F.scope else s
    ∃ t, exec i s = .next t ∧
      { t with threads := s.threads, groups := s.groups, domains := s.domains, pkrCopies := s.pkrCopies, used := s.used } = s ∧
      (∀ d, (t.domain d).overlay = (s.domain d).overlay) ∧ t.pkrCopies = u.pkrCopies ∧
      (∀ d l, (t.domain d).lines.get? l = (u.domain d).lines.get? l ∨ (t.domain d).lines.get? l = some (s.homeBytes (64 * l) 64) ∨
        (F.vol = true ∧ (t.domain d).lines.get? l = none)) ∧
      (∀ gid, { t.group gid with sregs := (s.group gid).sregs } = s.group gid) ∧
      Claims.Loaded s t F (fun tid k => Claims.sees u tid ((Claims.homeAt s F .read tid).getD 0 + k) F.vol)) ∧
  (∀ (i : Instr) (F : Fields) (s : State), i.wf = true → i.fields? = some F → F.maj = 0x0F → F.mn = 2 → Calm s F State.noFault →
    s.issue.threads.Nodup → (∀ tid ∈ s.guarded F, (Claims.spadAt s F .read tid).isSome) →
    let gids := State.groupsIn (s.guarded F)
    let u := if F.acquires then s.acquireAll gids F.scope else s
    let by_ := accessors s F (s.guarded F)
    let v := Claims.afterOwn u F by_
    ∃ t, exec i s = .next t ∧ { t with threads := v.threads, groups := v.groups, ahead := v.ahead } = v ∧
      (∀ gid, { t.group gid with sregs := (s.group gid).sregs } = v.group gid) ∧ (∀ e ∈ t.ahead, e ∈ s.ahead) ∧
      (∀ e ∈ s.ahead, e.tid ∉ by_ → e ∈ t.ahead) ∧ Claims.Loaded s t F (Claims.spadLoaded u F by_))

/-- R131 to R133, R137, R259, R268, R269: ST to home where every access passes its checks. A store that is relaxed or releases at most at team, of
threads whose groups do not collide, leaves every home, overlay and snapshot as the release left it; the storing thread sees its
enabled bytes from now on, and every thread forwards every other byte as before. Where two groups write a byte, the highest home
lane's stands in the overlay. A store with a release at gang or wider follows that release and stands at home. A speculating group's store
changes no memory and is seen by its own threads alone (R178).
R131 to R133, R135, R265, R268: STS, relaxed, of groups that do not collide: no scratchpad changes yet, the storing thread reads its enabled bytes
from now on and every thread reads every other byte as before; of the group's compaction buffer all its threads read it (R193). Where two
groups write a byte, the highest home lane's stands in the scratchpad. With a release, the bytes stand in the team's scratchpad after that release. A shadowed group's relaxed stores await
their match in its compare buffer (R385; log entry 131). -/
def Obligations.StoresWriteMemory : Prop :=
  (∀ (i : Instr) (F : Fields) (s : State), i.wf = true → i.fields? = some F → F.maj = 0x0F → F.mn = 1 → Calm s F State.noFault →
    s.issue.threads.Nodup →
    s.turn ≠ 0 →
    (∀ tid ∈ s.guarded F, s.storeFault F tid = none ∧ (Claims.homeAt s F .write tid).isSome ∧ (s.groups.get? (gidOf tid)).isSome) →
    let writes (tid a : Nat) (b : Byte) : Prop := tid ∈ s.guarded F ∧
      ∃ k, a = (Claims.homeAt s F .write tid).getD 0 + k ∧ Claims.enabled F (s.thread tid) k = true ∧
        b = Claims.storedByte F (s.group (gidOf tid)) (s.thread tid) k
    let gids := State.groupsIn (s.guarded F)
    let plain : Prop := ∀ g ∈ gids, (s.group g).spec = none
    let apart : Prop := ∀ x y a b c, writes x a b → writes y a c → gidOf x = gidOf y
    (plain → F.releases = false ∨ F.scope < 2 →
      let u := if F.releases then s.publishAll gids F.scope else s
      (apart → (F.releases = true → ∀ g ∈ gids, s.unmatched g = []) →
        ∃ t, exec i s = .next t ∧ Claims.WentOn s t ∧ { t with threads := u.threads, groups := u.groups } = u ∧
          (∀ gid, { t.group gid with path := (u.group gid).path, shadow := (u.group gid).shadow } = u.group gid) ∧
          (∀ tid a b, writes tid a b → t.forwarded tid a = some b) ∧
          ∀ tid a, (∀ b, ¬ writes tid a b) → t.forwarded tid a = u.forwarded tid a) ∧
      (∀ d, (∀ g ∈ gids, s.domOf g = d ∧ (u.group g).path = []) →
        ∃ t, exec i s = .next t ∧ Claims.WentOn s t ∧ { t with threads := u.threads, groups := u.groups, domains := u.domains } = u ∧
          ∀ tid a b, writes tid a b → (∃ v c, writes v a c ∧ gidOf v ≠ gidOf tid) →
            (∀ v c, writes v a c → v ≠ tid → laneOf v < laneOf tid) → (t.domain d).overlay.get? a = some b)) ∧
    ((∀ g ∈ gids, (s.group g).spec.isSome) →
      ∃ t, exec i s = .next t ∧ Claims.WentOn s t ∧ { t with threads := s.threads, groups := s.groups } = s ∧
        (∀ gid, { t.group gid with spec := (s.group gid).spec } = s.group gid) ∧
        (∀ tid v a b, gidOf v = gidOf tid → writes tid a b → (∀ w c, w ≠ tid → ¬ writes w a c) → t.forwarded v a = some b) ∧
        ∀ v a, (∀ w b, gidOf w = gidOf v → ¬ writes w a b) → t.forwarded v a = s.forwarded v a) ∧
    (plain → F.releases = true → 2 ≤ F.scope →
      let u := s.publishAll gids F.scope
      ∃ t, exec i s = .next t ∧ Claims.WentOn s t ∧
        { t with threads := u.threads, hbm := u.hbm, domains := u.domains, poison := u.poison,
                 mirrors := u.mirrors, used := u.used } = u ∧
        (∀ tid a b, writes tid a b → (∀ v c, v ≠ tid → ¬ writes v a c) → t.homeByte a = b) ∧
        (∀ a, (∀ v c, ¬ writes v a c) → t.homeByte a = u.homeByte a) ∧
        (∀ d, (t.domain d).overlay = (u.domain d).overlay))) ∧
  (∀ (i : Instr) (F : Fields) (s : State), i.wf = true → i.fields? = some F → F.maj = 0x0F → F.mn = 3 → Calm s F State.noFault →
    s.issue.threads.Nodup → s.turn ≠ 0 →
    (∀ tid ∈ s.guarded F, (Claims.spadAt s F .write tid).isSome ∧ (s.group (gidOf tid)).spec = none ∧ (s.groups.get? (gidOf tid)).isSome ∧
      (∀ p, Claims.spadAt s F .write tid = some p → (s.teams.get? p.1).isSome) ∧
      spadFault F s tid (storeMask F (s.thread tid) == 0) .write = none ∧
      s.storeShadow F tid = none) →
    let writes (tid k o : Nat) (b : Byte) : Prop := tid ∈ s.guarded F ∧
      ∃ p j, Claims.spadAt s F .write tid = some p ∧ p.1 = k ∧ o = p.2 + j ∧ Claims.enabled F (s.thread tid) j = true ∧
        b = Claims.storedByte F (s.group (gidOf tid)) (s.thread tid) j
    let gids := State.groupsIn (s.guarded F)
    let apart : Prop := ∀ x y k o b c, writes x k o b → writes y k o c → gidOf x = gidOf y
    (F.releases = false → apart →
      ∃ t, exec i s = .next t ∧ Claims.WentOn s t ∧ { t with threads := s.threads, groups := s.groups, ahead := s.ahead } = s ∧
        (∀ gid, { t.group gid with spadPath := (s.group gid).spadPath, shadow := (s.group gid).shadow } = s.group gid) ∧
        (∀ e, e ∈ t.ahead → e ∈ s.ahead) ∧ (∀ e ∈ s.ahead, (s.group (gidOf e.tid)).gen = none → e ∈ t.ahead) ∧
        (∀ tid k o b, writes tid k o b → (∀ v c, v ≠ tid → ¬ writes v k o c) → t.spadByte tid k o = b) ∧
        (∀ tid k o b, writes tid k o b → (s.group (gidOf tid)).gen = none → t.spadByte tid k o = b) ∧
        (∀ v tid k o b, gidOf v = gidOf tid → writes tid k o b → (∀ w c, w ≠ tid → ¬ writes w k o c) →
          s.inBuffer (gidOf tid) k [(o, b)] = true → (s.group (gidOf tid)).shadow = none → t.spadByte v k o = b) ∧
        ∀ tid k o, ((s.group (gidOf tid)).gen = none ∧ ∀ b, ¬ writes tid k o b) ∨ (∀ v b, gidOf v = gidOf tid → ¬ writes v k o b) →
          t.spadByte tid k o = s.spadByte tid k o) ∧
    (F.releases = false → (∀ g ∈ gids, (s.group g).spadPath = []) →
      ∃ t, exec i s = .next t ∧ Claims.WentOn s t ∧
        { t with threads := s.threads, groups := s.groups, teams := s.teams, ahead := s.ahead } = s ∧
        ∀ tid k o b, writes tid k o b → (∃ v c, writes v k o c ∧ gidOf v ≠ gidOf tid) →
          (∀ v c, writes v k o c → v ≠ tid → laneOf v < laneOf tid) → (t.team k).spad.getD o 0 = b) ∧
    (F.releases = true →
      let u := s.publishAll gids F.scope
      ∃ t, exec i s = .next t ∧ Claims.WentOn s t ∧ { t with threads := u.threads, teams := u.teams } = u ∧
        (∀ k, { t.team k with spad := (u.team k).spad } = u.team k) ∧
        (∀ tid k o b, writes tid k o b → (∀ v c, v ≠ tid → ¬ writes v k o c) → (t.team k).spad.getD o 0 = b) ∧
        ∀ k o, (∀ v c, ¬ writes v k o c) → (t.team k).spad.getD o 0 = (u.team k).spad.getD o 0))

/-- R134: PREF performs no access check, raises no fault beyond decoding, and changes nothing but where its threads go on. -/
def Obligations.PrefetchChangesNothing : Prop :=
  ∀ (i : Instr) (F : Fields) (s : State), i.wf = true → i.fields? = some F → F.maj = 0x0F → F.mn = 4 →
    (∀ tid ∈ s.guarded F, s.decodeFault F tid = none) →
    ∃ t, exec i s = .next t ∧ { t with threads := s.threads } = s ∧ Claims.WentOn s t

/-! Exchange between lanes (09 R157 to R164). -/

namespace Sys2Proof.Claims

/-- One vector result for each acting thread, by thread number; nothing else differs. -/
structure LaneResult (s t : State) (F : Fields) (wide : Nat → Bool) (v : Nat → DWord) : Prop where
  only : OnlyThreads s t
  passes : ∀ tid x, Passes s F tid x → t.threads.get? tid = some (goesOn s x)
  acts : ∀ tid x, Acts s F tid x → ∃ y, t.threads.get? tid = some y ∧
    (wide (gidOf tid) = false → WroteReg s x y F.d (loWord (v tid))) ∧ (wide (gidOf tid) = true → WrotePair s x y F.d (v tid))

/-- One scalar result for each group with a thread that acts; the threads go on and nothing else differs. -/
structure GroupResult (s t : State) (F : Fields) (wide : Nat → Bool) (v : Nat → DWord) : Prop where
  only : OnlyRegisters s t
  went : WentOn s t
  acts : ∀ gid g, s.groups.get? gid = some g → ∃ g', t.groups.get? gid = some g' ∧
    ((∀ tid ∈ s.guarded F, gidOf tid ≠ gid) → g' = g) ∧
    ((∃ tid ∈ s.guarded F, gidOf tid = gid) →
      (wide gid = false → WroteScalar g g' F.d (loWord (v gid))) ∧ (wide gid = true → WroteScalarPair g g' F.d (v gid)))

/-- The participants of a group (R157). -/
def Part (s : State) (F : Fields) (gid tid : Nat) : Prop := tid ∈ s.guarded F ∧ gidOf tid = gid

/-- Vector register A at a lane; a lane that holds no thread that has not exited supplies zero (R157). -/
def atLane (s : State) (gid : Nat) (wide : Bool) (a lane : Nat) : DWord :=
  match s.threads.get? (64 * gid + lane) with
  | some x => if lane < 64 ∧ x.life ≠ .exited then (if wide then x.reg64 a else (x.reg a).setWidth 64) else 0
  | none => 0

/-- The source lane of SHFL idx, up, down and xor at lane `i` of segments of `sg` lanes (R159). -/
def sourceLane (mode sg i k : Nat) : Nat :=
  match mode with
  | 0 => i - i % sg + k % sg
  | 1 => if k ≤ i % sg then i - k else i
  | 2 => if i % sg + k < sg then i + k else i
  | _ => i ^^^ (k % sg)

/-- A mask of lanes: bit `l` is set exactly where lane `l` holds a participant with the property (R160, R161). -/
def IsMask (s : State) (F : Fields) (gid : Nat) (p : Nat → Prop) (m : DWord) : Prop :=
  ∀ l, l < 64 → (m.getLsbD l = true ↔ ∃ tid, Part s F gid tid ∧ laneOf tid = l ∧ p tid)

end Sys2Proof.Claims

/-- R157, R159, R164: SHFL gives each participant A of its source lane; VTOS gives the group's scalar D the A of lane B mod W. -/
def Obligations.LaneExchange : Prop :=
  (∀ (i : Instr) (F : Fields) (s : State), i.wf = true → i.fields? = some F → F.maj = 0x14 → F.mn = 0 → Calm s F State.noFault →
    (∀ tid ∈ s.guarded F, s.widthOf (gidOf tid) ∈ [16, 32, 64]) →
    ∃ t, exec i s = .next t ∧ Claims.LaneResult s t F (fun _ => F.ty == 1) (fun tid =>
      let gid := gidOf tid
      let sg := if F.c = 0 then s.widthOf gid else 2 ^ F.c
      let k := (loWord (F.opB false (s.group gid) (s.thread tid))).toNat
      Claims.atLane s gid (F.ty == 1) F.a (Claims.sourceLane F.low3 sg (laneOf tid) k))) ∧
  (∀ (i : Instr) (F : Fields) (s : State), i.wf = true → i.fields? = some F → F.maj = 0x14 → F.mn = 6 → Calm s F State.noFault →
    ∃ t, exec i s = .next t ∧ Claims.GroupResult s t F (fun _ => F.ty == 1) (fun gid =>
      Claims.atLane s gid (F.ty == 1) F.a ((loWord (F.opB false (s.group gid) (Thread.start 0 0))).toNat % s.widthOf gid)))

/-- R160, R161: VOTE any, all and uni write predicate D; ballot and MATCH write the masks of lanes; MATCH's predicate C says whether all
participants hold one pattern. -/
def Obligations.LaneVotes : Prop :=
  (∀ (i : Instr) (F : Fields) (s : State), i.wf = true → i.fields? = some F → F.maj = 0x14 → F.mn = 1 → F.low3 ≠ 3 →
    Calm s F State.noFault →
    ∃ t, exec i s = .next t ∧ OnlyThreads s t ∧ (∀ tid x, Passes s F tid x → t.threads.get? tid = some (goesOn s x)) ∧
      ∀ tid x, Acts s F tid x → ∃ y v, t.threads.get? tid = some y ∧ WrotePred s x y F.d v ∧
        let P := Claims.Part s F (gidOf tid)
        let on (u : Nat) : Prop := (s.thread u).pred F.a = true
        (v = true ↔ (match F.low3 with
          | 0 => ∃ u, P u ∧ on u
          | 1 => ∀ u, P u → on u
          | _ => ∀ u w, P u → P w → (on u ↔ on w)))) ∧
  (∀ (i : Instr) (F : Fields) (s : State), i.wf = true → i.fields? = some F → F.maj = 0x14 → F.mn = 1 → F.low3 = 3 →
    Calm s F State.noFault →
    ∃ t m, exec i s = .next t ∧ (∀ gid, Claims.IsMask s F gid (fun u => (s.thread u).pred F.a = true) (m gid)) ∧
      (F.cd = false → Claims.LaneResult s t F (fun gid => s.widthOf gid == 64) (fun tid => m (gidOf tid))) ∧
      (F.cd = true → Claims.GroupResult s t F (fun gid => s.widthOf gid == 64) m)) ∧
  ∀ (i : Instr) (F : Fields) (s : State), i.wf = true → i.fields? = some F → F.maj = 0x14 → F.mn = 2 → Calm s F State.noFault →
    ∃ t, exec i s = .next t ∧ OnlyThreads s t ∧ (∀ tid x, Passes s F tid x → t.threads.get? tid = some (goesOn s x)) ∧
      ∀ tid x, Acts s F tid x → ∃ y m, t.threads.get? tid = some y ∧ { y with regs := x.regs, preds := x.preds } = goesOn s x ∧
        let val (u : Nat) : DWord := F.opA (F.ty == 1) (s.group (gidOf tid)) (s.thread u)
        Claims.IsMask s F (gidOf tid) (fun u => val u = val tid) m ∧
        (F.d ≠ 255 → (s.widthOf (gidOf tid) = 64 → y.reg64 F.d = m) ∧ (s.widthOf (gidOf tid) ≠ 64 → y.reg F.d = loWord m)) ∧
        (∀ n, n ≠ F.d → (s.widthOf (gidOf tid) = 64 → n ≠ F.d + 1) → y.reg n = x.reg n) ∧
        (F.c < 15 → (y.pred F.c = true ↔ ∀ u, Claims.Part s F (gidOf tid) u → val u = val tid)) ∧ ∀ n, n ≠ F.c → y.pred n = x.pred n

/-- R163: ELECT sets pD true in the participant with the lowest home lane and false in every other participant. -/
def Obligations.Election : Prop :=
  ∀ (i : Instr) (F : Fields) (s : State), i.wf = true → i.fields? = some F → F.maj = 0x14 → F.mn = 5 → Calm s F State.noFault →
    ∃ t, exec i s = .next t ∧ OnlyThreads s t ∧ (∀ tid x, Passes s F tid x → t.threads.get? tid = some (goesOn s x)) ∧
      ∀ tid x, Acts s F tid x → ∃ y v, t.threads.get? tid = some y ∧ WrotePred s x y F.d v ∧
        (v = true ↔ Claims.IsLowest (s.guarded F) (gidOf tid) tid)

namespace Sys2Proof.Claims

/-- `Combine` of R162 on the integer types, on the values as registers hold them; signed where `z` is false. -/
def join (w op : Nat) (z : Bool) (r x : DWord) : DWord :=
  let a : BitVec w := r.setWidth w
  let b : BitVec w := x.setWidth w
  let lt (p q : BitVec w) : Bool := if z then p.ult q else p.slt q
  match op with
  | 0 => (a + b).setWidth 64
  | 1 => if lt b a then x else r
  | 2 => if lt a b then x else r
  | 3 => r &&& x
  | 4 => r ||| x
  | _ => r ^^^ x

/-- `Combine` on f32: a sum to nearest-even, FMIN or FMAX, under the FTZ that governs, with its flags (R117, R162). -/
def joinFloat (op : Nat) (ftz : Bool) (r x : Nat) : Nat × Flags :=
  match op with
  | 0 => fArith Fmt.f32 ⟨.rn, ftz, false⟩ 0 (Fmt.f32.decode ftz r) (Fmt.f32.decode ftz x) (.fin false 0 0)
  | 1 => fMinMax Fmt.f32 ftz false r x
  | _ => fMinMax Fmt.f32 ftz true r x

/-- The value and the flags of a scan after a first value and each of a list. -/
def scanFloat (op : Nat) (ftz : Bool) (r : Nat) (xs : List Nat) : Nat × Flags :=
  xs.foldl (fun p x => let q := joinFloat op ftz p.1 x; (q.1, p.2 ||| q.2)) (r, 0)

/-- The identity of an exclusive scan (R162). -/
def identity (ty op : Nat) (z : Bool) : DWord :=
  if ty = 4 then [0, 0x7F800000, 0xFF800000].getD op 0
  else
    let w := widthOf ty
    let top : DWord := (BitVec.allOnes w).setWidth 64
    [0, if z then top else top >>> 1, if z then 0 else top - (top >>> 1), top, 0, 0].getD op 0

/-- `ps` are the participants of a group in ascending lane order. -/
def InOrder (s : State) (F : Fields) (gid : Nat) (ps : List Nat) : Prop :=
  ps.Pairwise (· < ·) ∧ ∀ tid, tid ∈ ps ↔ Part s F gid tid

/-- The A of a participant. -/
def valA (s : State) (F : Fields) (tid : Nat) : DWord := F.opA (F.ty == 1) (s.group (gidOf tid)) (s.thread tid)

/-- What REDUX or an inclusive SCAN gives after participants `p :: qs`: the value and the flags. The first f32 value is flushed under FTZ; a
NaN there is canonical, a signalling one sets NV (R31). -/
def reduced (s : State) (F : Fields) (ftz : Bool) (p : Nat) (qs : List Nat) : DWord × Flags :=
  if F.ty = 4 then
    let v (u : Nat) : Nat := (loWord (valA s F u)).toNat
    let a := Fmt.f32.decode ftz (v p)
    let r := scanFloat F.low3 ftz (if a.isNan then Fmt.f32.nanCode else Fmt.f32.flushed ftz (v p)) (qs.map v)
    (BitVec.ofNat 64 r.1, nv a.isSig ||| r.2)
  else (qs.foldl (fun r u => join (widthOf F.ty) F.low3 (F.c % 2 == 1) r (valA s F u)) (valA s F p), 0)

end Sys2Proof.Claims

/-- R162: REDUX combines the participants' A in ascending lane order; SCAN gives each what it and the lanes below it combine to, or with
.excl the value before it, the identity in the lowest lane. The FTZ of the lowest lane governs, and every participant ORs the flags
of every combination. The model's reading where the rules leave it open: log entry 44. -/
def Obligations.LaneReductions : Prop :=
  ∀ (i : Instr) (F : Fields) (s : State), i.wf = true → i.fields? = some F → F.maj = 0x14 → F.mn = 3 ∨ F.mn = 4 →
    Calm s F State.noFault → s.issue.threads.Nodup →
    ∃ t, exec i s = .next t ∧ OnlyRegisters s t ∧ (∀ tid x, Passes s F tid x → t.threads.get? tid = some (goesOn s x)) ∧
      (F.cd = false → t.groups = s.groups) ∧
      ∀ gid p qs, Claims.InOrder s F gid (p :: qs) →
        let ftz := (s.thread p).ftz
        let all := Claims.reduced s F ftz p qs
        (∀ tid x, Acts s F tid x → gidOf tid = gid → ∃ y, t.threads.get? tid = some y ∧
          { y with regs := x.regs, fpsr := x.fpsr } = goesOn s x ∧ y.fpsr = x.fpsr ||| all.2.setWidth 32 ∧
          (F.cd = true → y.regs = x.regs) ∧
          (F.cd = false →
            let lower := qs.filter (fun u => decide (u ≤ tid))
            let v : DWord :=
              if F.mn = 3 then all.1
              else if F.c / 2 % 2 = 0 then (Claims.reduced s F ftz p lower).1
              else if tid = p then Claims.identity F.ty F.low3 (F.c % 2 == 1) else (Claims.reduced s F ftz p (lower.filter (· ≠ tid))).1
            ((F.ty = 1 → WrotePair s x { y with fpsr := x.fpsr } F.d v) ∧
              (F.ty ≠ 1 → WroteReg s x { y with fpsr := x.fpsr } F.d (loWord v))))) ∧
        (F.cd = true → ∀ g, s.groups.get? gid = some g → ∃ g', t.groups.get? gid = some g' ∧
          (F.ty = 1 → WroteScalarPair g g' F.d all.1) ∧ (F.ty ≠ 1 → WroteScalar g g' F.d (loWord all.1)))

/-! Barriers, meetings and sleeps (08 R151 to R154, 09 R165 to R171). -/

namespace Sys2Proof.Claims

/-- Thread `u` waits itself for the phase in progress of a barrier. -/
def waitsAt (s : State) (k bar : Nat) (z : Thread) (dest : Nat) (all : Bool) : Prop := z.wait = .barrier bar (s.barrier k bar).phase dest all

end Sys2Proof.Claims

/-- R153, R166: BAR, BARA and BARW of threads that have not arrived in the phase. Each arrives, BARA and BARW with a vote input. While the arrivals stay
below E, BAR and BARW wait and BARA goes on. Once they reach E the phase number rises, the arrivals return to zero, the next E holds,
and every waiting thread is released behind its instruction, a BARW with the vote in its predicate; a wait that stands in a trap slot
ends there with its vote (R348). An arrival is a release at team: what the arriving groups have stored on their paths stands in the domain's
overlay and in the scratchpads. A completion is an acquire at team: nothing that a released thread has read ahead of its loads is left.
R167: BARI sets the expected count to the highest TIDX's B, 0 standing for the threads that have not exited: at once where the phase has no
arrivals, else from the next phase; a BARI of a pair's odd core keeps its cycle, by which one of the even core comes first.
The model's reading: every arrival of one issue counts in the phase in progress (log entry 114). -/
def Obligations.Barriers : Prop :=
  (∀ (i : Instr) (F : Fields) (s : State), i.wf = true → i.fields? = some F → F.maj = 0x15 → F.mn < 3 → Calm s F State.noFault →
    s.issue.threads.Nodup → (∀ tid ∈ s.issue.threads, teamOf (gidOf tid) = s.issue.team) → (s.teams.get? s.issue.team).isSome →
    s.guarded F ≠ [] →
    let k := s.issue.team
    let id := F.c % 16
    let b := s.barrier k id
    let ts := s.guarded F
    let votes := b.votes ++ (if F.mn = 0 then [] else ts.map (fun tid => (tid, (s.thread tid).pred F.a)))
    let vote (all : Bool) : Bool := if all then votes.all (·.2) else votes.any (·.2)
    (∀ tid ∈ ts, tid ∉ b.arrived) →
    ∃ t, exec i s = .next t ∧ t.hbm = s.hbm ∧ t.hostMem = s.hostMem ∧
      (∀ b', b' ≠ id → t.barrier k b' = s.barrier k b') ∧
      (∀ gid g, (∃ u ∈ ts, gidOf u = gid) → s.groups.get? gid = some g → (t.group gid).path = [] ∧ (t.group gid).spadPath = [] ∧
        (∀ a v, State.newest (g.path.map (·.bytes)) a = some v →
          (∀ h, h ≠ gid → (∃ u ∈ ts, gidOf u = h) → ∀ p ∈ (s.group h).path, ∀ c ∈ p.bytes, c.1 ≠ a) →
          (t.domain (s.domOf gid)).overlay.get? a = some v) ∧
        ∀ m o v, State.newest ((g.spadPath.filter (fun p => p.team == m)).map (·.bytes)) o = some v → (s.teams.get? m).isSome →
          (∀ h, h ≠ gid → (∃ u ∈ ts, gidOf u = h) → ∀ p ∈ (s.group h).spadPath, p.team = m → ∀ c ∈ p.bytes, c.1 ≠ o) →
          (t.team m).spad.getD o 0 = v) ∧
      (b.arrived.length + ts.length < b.e →
        t.barrier k id = { b with
          arrived := b.arrived ++ ts, votes := votes
          start := if b.arrived = [] then s.cycle else b.start
          limit := if b.arrived = [] then (s.group (gidOf (ts.headD 0))).barto.toNat else b.limit } ∧
        (∀ tid, tid ∉ s.issue.threads → t.threads.get? tid = s.threads.get? tid) ∧
        (∀ tid x, Passes s F tid x → t.threads.get? tid = some (goesOn s x)) ∧
        ∀ tid x, Acts s F tid x → t.threads.get? tid = some (if F.mn = 1 then goesOn s x else
          { x with
            wait := if F.mn = 0 then .barrier id b.phase 16 false else .barrier id b.phase F.d (F.modBit 0)
            after := s.issue.next, issued := true })) ∧
      (b.e ≤ b.arrived.length + ts.length →
        (∀ e ∈ t.ahead, (F.mn = 1 ∨ e.tid ∉ ts) ∧ ∀ z dest all, s.threads.get? e.tid = some z → teamOf (gidOf e.tid) = k →
          ¬ Claims.waitsAt s k id z dest all) ∧
        t.barrier k id = ⟨b.phase + 1, b.pendingE.getD (b.e - b.nextDrop), none, 0, [], [], 0, 0, b.bari⟩ ∧
        (∀ tid x, Acts s F tid x → F.mn ≠ 1 → ∃ y, t.threads.get? tid = some y ∧ y.wait = .none ∧ y.regs = x.regs ∧
          (x.inRep = false → y.pc = s.issue.next) ∧
          ∀ n, n < 15 → y.pred n = if F.mn = 2 ∧ n = F.d then vote (F.modBit 0) else x.pred n) ∧
        (∀ u z dest all, u ∉ s.issue.threads → s.threads.get? u = some z → teamOf (gidOf u) = k → Claims.waitsAt s k id z dest all →
          ∃ y, t.threads.get? u = some y ∧ y.wait = .none ∧ y.regs = z.regs ∧ (z.inRep = false → y.pc = z.after) ∧
            ∀ n, n < 15 → y.pred n = if n = dest then vote all else z.pred n) ∧
        (∀ slot ∈ [Thread.slotS, Thread.slotF, Thread.slotP], ∀ u z y K dest all, s.threads.get? u = some z → t.threads.get? u = some y →
          teamOf (gidOf u) = k → slot z = some K → K.wait = .barrier id b.phase dest all →
          slot y = some { K with ended := true, vote := vote all }))) ∧
  (∀ (i : Instr) (F : Fields) (s : State) (h : Nat), i.wf = true → i.fields? = some F → F.maj = 0x15 → F.mn = 3 →
    Calm s F State.noFault → (s.teams.get? s.issue.team).isSome → h ∈ s.guarded F → (∀ u ∈ s.guarded F, u ≤ h) →
    let k := s.issue.team
    let id := F.c % 16
    let b := s.barrier k id
    let v := (loWord (F.opB false (s.group (gidOf h)) (s.thread h))).toNat
    let e := if v = 0 then ((s.threadsOfTeam k).filter (fun u => decide ((s.thread u).life ≠ .exited))).length else v
    ∃ t, exec i s = .next t ∧ Claims.WentOn s t ∧ { t with threads := s.threads, teams := s.teams } = s ∧
      (let b := { b with bari := if s.issue.core % 2 = 1 then s.cycle + 1 else b.bari }
       t.barrier k id = (if b.arrived = [] then { b with e := e, pendingE := none, nextDrop := 0 } else { b with pendingE := some e })) ∧
      (∀ b', b' ≠ id → t.barrier k b' = s.barrier k b') ∧ ∀ k', k' ≠ k → t.teams.get? k' = s.teams.get? k')

/-- R168 to R170: MEET pushes the current meeting value and sets its pointer and depth, MEET.pop takes the last one back, where no thread of the
groups waits at a meeting; NAP sleeps for B cycles, at most 2^24; BKOFF of a group with a true A returns to the launch's level and goes
on, else the level rises, to at most 7, and its participants sleep 16 × 2^level cycles. -/
def Obligations.MeetingsAndSleeps : Prop :=
  (∀ (i : Instr) (F : Fields) (s : State), i.wf = true → i.fields? = some F → F.maj = 0x15 → F.mn = 4 → Calm s F State.noFault →
    (∀ u z, s.threads.get? u = some z → z.atMeeting = false) →
    (∀ tid ∈ s.guarded F, F.modBit 0 = false → (s.thread tid).meet = none ∨ (s.thread tid).meets.length < 8) →
    ∃ t, exec i s = .next t ∧ OnlyThreads s t ∧ (∀ tid x, Passes s F tid x → t.threads.get? tid = some (goesOn s x)) ∧
      ∀ tid x, Acts s F tid x → ∃ y, t.threads.get? tid = some y ∧ { y with meet := x.meet, meets := x.meets } = goesOn s x ∧
        (F.modBit 0 = false → ∃ m, y.meet = some m ∧ Claims.LandsAt s m.at_ F.x ∧
          m.depth = x.depth + (BitVec.ofNat 8 F.c).signExtend 16 ∧ y.meets = x.meet.toList ++ x.meets) ∧
        (F.modBit 0 = true → y.meet = x.meets.head? ∧ y.meets = x.meets.tail)) ∧
  (∀ (i : Instr) (F : Fields) (s : State), i.wf = true → i.fields? = some F → F.maj = 0x15 → F.mn = 5 → Calm s F State.noFault →
    ∃ t, exec i s = .next t ∧ OnlyThreads s t ∧ (∀ tid x, Passes s F tid x → t.threads.get? tid = some (goesOn s x)) ∧
      ∀ tid x, Acts s F tid x → t.threads.get? tid = some { x with
        wait := .nap (s.cycle + min (loWord (F.opB false (s.group (gidOf tid)) x)).toNat (2 ^ 24)), after := s.issue.next, issued := true }) ∧
  ∀ (i : Instr) (F : Fields) (s : State), i.wf = true → i.fields? = some F → F.maj = 0x15 → F.mn = 6 → Calm s F State.noFault →
    ∃ t, exec i s = .next t ∧ { t with threads := s.threads, groups := s.groups } = s ∧
      (∀ tid, tid ∉ s.issue.threads → t.threads.get? tid = s.threads.get? tid) ∧
      (∀ tid x, Passes s F tid x → t.threads.get? tid = some (goesOn s x)) ∧
      ∀ gid g, s.groups.get? gid = some g →
        let won := ∃ u, Claims.Part s F gid u ∧ (s.thread u).pred F.a = true
        ((∀ u, ¬ Claims.Part s F gid u) → t.groups.get? gid = some g) ∧
        (won → t.groups.get? gid = some { g with level := (s.launchOf gid).prio } ∧
          ∀ tid x, Acts s F tid x → gidOf tid = gid → t.threads.get? tid = some (goesOn s x)) ∧
        (¬ won → (∃ u, Claims.Part s F gid u) → t.groups.get? gid = some { g with level := min (g.level + 1) 7 } ∧
          ∀ tid x, Acts s F tid x → gidOf tid = gid → t.threads.get? tid = some { x with
            wait := .bkoff (s.cycle + 16 * 2 ^ min (g.level + 1) 7), after := s.issue.next, issued := true })

/-! The collective branch (10 R172 to R189). -/

namespace Sys2Proof.Claims

/-- The counts in sA to sA+3 (R172, R188). -/
def counts (g : Group) (a : Nat) : Decl := ⟨(g.sreg a).toNat, (g.sreg (a + 1)).toNat, (g.sreg (a + 2)).toNat, (g.sreg (a + 3)).toNat⟩

/-- The CMQ word (R189): count, declared, in flight, level, last outcome. -/
def cmq (u : DomainUse) : Word :=
  BitVec.ofNat 16 u.count ++ BitVec.ofBool u.decl.isSome ++ BitVec.ofBool u.inFlight
    ++ BitVec.ofNat 2 (match u.decl with | some x => x.level | none => 0) ++ BitVec.ofBool u.out ++ (0 : BitVec 11)

/-- Group `gid` entered instance `count` of its domain: its own count is one more and in flight, and an open instance of that number has
its contribution last (R173). -/
def Entered (s t : State) (gid d kind : Nat) (value : Bool) (x : Decl) : Prop :=
  let u := (s.group gid).domain d
  (t.group gid).domain d = { u with count := u.count + 1, inFlight := true } ∧
  ∃ e ∈ t.insts, e.2.set = s.setOf gid d x ∧ e.2.number = u.count ∧ e.2.given.getLast? = some ⟨gid, kind, value, x⟩

end Sys2Proof.Claims

/-- R172, R173, R175, R176, R186 to R189: CMEMB declares its counts in each acting group where no rule of R183 forbids it; CMQ reads the domain. A CBR that may enter
contributes the OR or the AND of its predicate, and its group speculates from the predicted PC, with the predicted outcome, both
targets and the CBR remembered and nothing held yet. A CBSYNC releases at its level's scope, enters, and waits. -/
def Obligations.CollectiveInstructions : Prop :=
  (∀ (i : Instr) (F : Fields) (s : State), i.wf = true → i.fields? = some F → F.maj = 0x16 → F.mn = 3 → Calm s F State.noFault →
    ∃ t, exec i s = .next t ∧ Claims.GroupResult s t F (fun _ => false) (fun gid =>
      (Claims.cmq ((s.group gid).domain (F.c % 16))).setWidth 64)) ∧
  (∀ (i : Instr) (F : Fields) (s : State), i.wf = true → i.fields? = some F → F.maj = 0x16 → F.mn = 2 → Calm s F State.noFault →
    (∀ tid ∈ s.guarded F, s.declReason (gidOf tid) (F.c % 16) (Claims.counts (s.group (gidOf tid)) F.a) = none) →
    ∃ t, exec i s = .next t ∧ Claims.WentOn s t ∧
      { t with threads := s.threads, groups := s.groups, contexts := s.contexts, insts := s.insts } = s ∧
      ∀ gid g, s.groups.get? gid = some g → ∃ g', t.groups.get? gid = some g' ∧ { g' with doms := g.doms } = g ∧
        ((∀ tid ∈ s.guarded F, gidOf tid ≠ gid) → g' = g) ∧
        ((∃ tid ∈ s.guarded F, gidOf tid = gid) → ∀ d, g'.domain d =
          if d = F.c % 16 then { g.domain d with decl := some (Claims.counts g F.a) } else g.domain d)) ∧
  (∀ (i : Instr) (F : Fields) (s : State) (gid : Nat) (x : Decl), i.wf = true → i.fields? = some F → F.maj = 0x16 → F.mn = 0 →
    Calm s F State.noFault → (∀ tid ∈ s.issue.threads, gidOf tid = gid) → s.guarded F ≠ [] → (s.groups.get? gid).isSome →
    ((s.group gid).domain (F.c % 16)).decl = some x → s.entryReason gid (F.c % 16) = none →
    let on (u : Nat) : Bool := (s.thread u).pred F.a
    let all := F.c / 16 % 2 == 1
    let taken := F.c / 32 % 2 == 1
    ∃ t sp, exec i s = .next t ∧ { t with threads := s.threads, groups := s.groups, insts := s.insts, nextInst := s.nextInst } = s ∧
      Claims.Entered s t gid (F.c % 16) (if all then 1 else 0) (if all then (s.guarded F).all on else (s.guarded F).any on) x ∧
      (t.group gid).spec = some sp ∧ sp.participants = s.guarded F ∧ sp.taken = taken ∧ Claims.LandsAt s sp.target F.x ∧
      sp.next = s.issue.next ∧ sp.cbr = s.issue.self ∧ sp.stores = [] ∧ sp.faults = [] ∧
      (∀ tid y, tid ∉ s.guarded F → s.threads.get? tid = some y → t.threads.get? tid = some (if tid ∈ s.issue.threads then goesOn s y else y)) ∧
      ∀ tid y, Acts s F tid y → t.threads.get? tid = some { y with pc := if taken then sp.target else s.issue.next, issued := true }) ∧
  ∀ (i : Instr) (F : Fields) (s : State) (gid : Nat) (x : Decl), i.wf = true → i.fields? = some F → F.maj = 0x16 → F.mn = 1 →
    Calm s F State.noFault → (∀ tid ∈ s.issue.threads, gidOf tid = gid) → s.guarded F ≠ [] → (s.groups.get? gid).isSome →
    ((s.group gid).domain (F.c % 16)).decl = some x → s.entryReason gid (F.c % 16) = none →
    let u := s.publish gid (if x.level = 0 then 1 else if x.level = 1 then 3 else 4)
    ∃ t, exec i s = .next t ∧ { t with threads := u.threads, groups := u.groups, insts := u.insts, nextInst := u.nextInst } = u ∧
      Claims.Entered s t gid (F.c % 16) 2 false x ∧ { t.group gid with doms := (u.group gid).doms } = u.group gid ∧
      (∀ tid y, tid ∉ s.guarded F → s.threads.get? tid = some y → t.threads.get? tid = some (if tid ∈ s.issue.threads then goesOn s y else y)) ∧
      ∀ tid y, Acts s F tid y → t.threads.get? tid = some { y with wait := .sync, after := s.issue.next, issued := true }

/-! Generator loops (11 R190 to R205). -/

namespace Sys2Proof.Claims

/-- The GSTAT word (R205): lanes producing, draining, consumer mode, inside, entries. -/
def gstat (gen : Option Gen) : Word :=
  match gen with
  | none => 0
  | some g => BitVec.ofNat 16 g.prd.length ++ BitVec.ofBool g.frc ++ BitVec.ofBool g.consumer ++ (1 : BitVec 1) ++ BitVec.ofNat 13 g.cnt

/-- The word of entry slot `sl`, register `k`, of a group's compaction buffer as the group reads it (R192, R193). -/
def entryWord (s : State) (gid : Nat) (g : Gen) (sl k : Nat) : Word :=
  s.bufWord gid ((s.spadTeam gid (g.buf.extractLsb' 19 2).toNat).getD (teamOf gid)) ((g.buf.extractLsb' 0 19).toNat + 4 * (g.e * sl + k))

/-- Group `gid` is in a region `g`, in the producer body or the consumer body, no drain is served, some lane produces, and no size is 0. -/
structure InRegion (s : State) (gid : Nat) (g : Gen) (consumer : Bool) : Prop where
  listed : ∃ x, s.groups.get? gid = some x ∧ x.gen = some g
  mode : g.consumer = consumer
  frc : g.frc = false
  live : g.prd ≠ []
  sizes : 0 < g.t ∧ 0 < s.widthOf gid ∧ 0 < g.c ∧ 0 < g.e

/-- The instruction of one group: all its threads are the group's, and one acts. -/
structure OneGroup (s : State) (i : Instr) (F : Fields) (gid mn : Nat) : Prop where
  wf : i.wf = true
  fields : i.fields? = some F
  maj : F.maj = 0x17
  minor : F.mn = mn
  calm : Calm s F State.noFault
  nodup : s.issue.threads.Nodup
  mine : ∀ tid ∈ s.issue.threads, gidOf tid = gid
  acts : s.guarded F ≠ []

/-- Only threads of the bundle's group, the group, and the partitions' bundles differ; of what threads have read ahead nothing is new. -/
def OnlyGroup (s t : State) (gid : Nat) : Prop :=
  { t with threads := s.threads, groups := s.groups, parts := s.parts, ahead := s.ahead } = s ∧ (∀ e ∈ t.ahead, e ∈ s.ahead) ∧
  (∀ g, g ≠ gid → t.groups.get? g = s.groups.get? g) ∧ ∀ tid, gidOf tid ≠ gid → t.threads.get? tid = s.threads.get? tid

/-- A consumer pass on lanes 0 to n − 1 has started from region `g` (R195): each lane of the pass has its entry in its registers and its
producer's lane in YLANE and starts at the consumer label at the depth of its entry state, the others stay idle with their registers. -/
structure PassStarts (s t : State) (gid : Nat) (g : Gen) (n : Nat) : Prop where
  gen : ∃ g', (t.group gid).gen = some g' ∧ g'.consumer = true ∧ g'.n = n ∧
    { g' with consumer := g.consumer, n := g.n, frc := g.frc, saved := g.saved, arrived := g.arrived, prd := g.prd } = g
  idle : ∀ u z, s.threads.get? u = some z → gidOf u = gid → n ≤ laneOf u →
    ∃ y, t.threads.get? u = some y ∧ y.wait = .idle ∧ y.regs = z.regs
  runs : ∀ u z, s.threads.get? u = some z → gidOf u = gid → laneOf u < n → ∃ y, t.threads.get? u = some y ∧
    let sl := (g.head + laneOf u) % g.c
    y.pc = g.cons ∧ y.wait = .none ∧ y.ylane = BitVec.ofNat 32 (g.tags.getD sl 0) ∧ y.preds = 0 ∧ y.meet = none ∧ y.meets = [] ∧
      (∀ v, g.entry.get? (laneOf u) = some v → y.depth = v.depth) ∧
      (∀ k, k < g.e → g.qb + k ≠ 255 → y.reg (g.qb + k) = entryWord s gid g sl k) ∧
      ∀ r, r < g.qb ∨ g.qb + g.e ≤ r → y.reg r = z.reg r

end Sys2Proof.Claims

/-- R190 to R205: GSTAT reads the region. GEN waits until every home lane's thread is at it and then enters the region its scalars describe,
those that waited for the last of them too. YIELD appends one entry for each participant in lane order. GEND takes its lanes out of
production; the last one out ends an empty region at its done label, and starts a consumer pass where entries are held. GDRAIN of an empty buffer does nothing, of a filled one starts a consumer pass on the lowest lanes, each with its
entry in its registers and its producer's lane in YLANE. GNEXT waits for the lanes of the pass; the last ends it, and with nothing
left every thread is given its saved state back: a producer goes on, one that has executed GEND waits with the predicates it left. The model's reading where the rules leave it open: log entry 105. -/
def Obligations.GeneratorRegions : Prop :=
  (∀ (i : Instr) (F : Fields) (s : State) (gid : Nat), Claims.OneGroup s i F gid 5 →
    (∀ g, (s.group gid).gen = some g → g.cnt < 8192) →
    ∃ t, exec i s = .next t ∧ Claims.GroupResult s t F (fun _ => false) (fun g => (Claims.gstat (s.group g).gen).setWidth 64)) ∧
  (∀ (i : Instr) (F : Fields) (s : State) (gid : Nat), Claims.OneGroup s i F gid 0 → s.presentOf gid = s.threadsOf gid →
    (s.threadsOf gid).length = s.widthOf gid → (∃ u ∈ s.presentOf gid, u ∉ s.guarded F ∧ (s.thread u).waitsAs Wait.atGen = false) →
    ∃ t, exec i s = .next t ∧ OnlyThreads s t ∧ (∀ tid x, Passes s F tid x → t.threads.get? tid = some (goesOn s x)) ∧
      ∀ tid x, Acts s F tid x → t.threads.get? tid = some { x with wait := .gen, after := s.issue.next, issued := true }) ∧
  (∀ (i : Instr) (F : Fields) (s : State) (gid : Nat) (x : Group) (g : Gen), Claims.OneGroup s i F gid 0 → s.groups.get? gid = some x →
    x.gen = none → (∀ u ∈ s.presentOf gid, u ∈ s.guarded F ∨
      (u ∉ s.issue.threads ∧ (s.thread u).wait = .gen ∧ (s.thread u).pc = s.issue.pc)) → (s.presentOf gid).length = s.widthOf gid →
    (s.threadsOf gid).length = s.widthOf gid → (∀ u ∈ s.guarded F, (s.thread u).pc = s.issue.pc ∧ (s.thread u).life ≠ .exited) →
    genCheck s gid F (genLabels F s.issue.self).1 (genLabels F s.issue.self).2 = .ok g →
    ∃ t g', exec i s = .next t ∧ Claims.OnlyGroup s t gid ∧ (t.group gid).gen = some g' ∧ { g' with entry := g.entry } = g ∧
      g'.cnt = 0 ∧ g'.head = 0 ∧ g'.prd = List.range (s.widthOf gid) ∧ g'.consumer = false ∧ g'.buf = x.sreg F.a ∧
      g'.t = ((x.sreg (F.a + 1)).extractLsb' 20 12).toNat ∧ g'.e = ((x.sreg (F.a + 1)).extractLsb' 16 4).toNat ∧
      g'.c = ((x.sreg (F.a + 1)).extractLsb' 0 16).toNat ∧ g'.qb = ((x.sreg (F.a + 2)).extractLsb' 8 8).toNat ∧
      Claims.LandsAt s g'.cons ((F.x.extractLsb' 0 16).signExtend 32) ∧ Claims.LandsAt s g'.done ((F.x.extractLsb' 16 16).signExtend 32) ∧
      (∀ tid z, Acts s F tid z → t.threads.get? tid = some { z with wait := .none, pc := s.issue.next, after := s.issue.next, issued := true }) ∧
      ∀ tid z, s.threads.get? tid = some z → gidOf tid = gid → tid ∉ s.issue.threads →
        t.threads.get? tid = some { z with wait := .none, pc := s.issue.next }) ∧
  (∀ (i : Instr) (F : Fields) (s : State) (gid : Nat) (g : Gen) (os : List Nat), Claims.OneGroup s i F gid 1 → Claims.InRegion s gid g false →
    (s.team ((s.spadTeam gid (g.buf.extractLsb' 19 2).toNat).getD (teamOf gid))).place ≠ .ended →
    Claims.InOrder s F gid os → g.cnt + os.length < g.t → g.cnt + os.length ≤ g.c → s.unmatched gid = [] → (F.a = 255 ∨ F.a + g.e ≤ min 255 (s.launchOf gid).regs) →
    ∃ t g', exec i s = .next t ∧ Claims.OnlyGroup s t gid ∧ Claims.WentOn s t ∧ (t.group gid).gen = some g' ∧
      g'.cnt = g.cnt + os.length ∧ { g' with cnt := g.cnt, tags := g.tags } = g ∧
      ∀ j tid, os[j]? = some tid → let sl := (g.head + g.cnt + j) % g.c
        g'.tags.get? sl = some (laneOf tid) ∧
        ∀ k, k < g.e → Claims.entryWord t gid g' sl k = if F.a = 255 then 0 else (s.thread tid).reg (F.a + k)) ∧
  (∀ (i : Instr) (F : Fields) (s : State) (gid : Nat) (g : Gen), Claims.OneGroup s i F gid 2 → Claims.InRegion s gid g false →
    let left := g.prd.filter (fun l => !(s.guarded F).any (fun u => laneOf u == l))
    (∀ l ∈ g.prd, l < 64) →
    ∃ t, exec i s = .next t ∧
      (left ≠ [] → g.cnt < g.t → Claims.OnlyGroup s t gid ∧ (t.group gid).gen = some { g with prd := left } ∧
        (∀ tid x, Passes s F tid x → t.threads.get? tid = some (goesOn s x)) ∧
        ∀ tid x, Acts s F tid x → t.threads.get? tid = some { x with wait := .gend, after := s.issue.next, issued := true }) ∧
      (left = [] → g.cnt = 0 → Claims.OnlyGroup s t gid ∧ (t.group gid).gen = none ∧
        ∀ u z, s.threads.get? u = some z → gidOf u = gid → ∃ y, t.threads.get? u = some y ∧ y.pc = g.done ∧ y.wait = .none ∧
          y.regs = z.regs ∧ y.preds = z.preds) ∧
      (left = [] → 0 < g.cnt → g.cnt < g.t ∨ s.widthOf gid ≤ g.cnt → Claims.OnlyGroup s t gid ∧
        Claims.PassStarts s t gid g (min g.cnt (s.widthOf gid)) ∧ (t.group gid).gen.map (·.prd) = some [])) ∧
  (∀ (i : Instr) (F : Fields) (s : State) (gid : Nat) (g : Gen), Claims.OneGroup s i F gid 4 → Claims.InRegion s gid g false → g.cnt < g.t →
    ∃ t, exec i s = .next t ∧ Claims.OnlyGroup s t gid ∧
      (g.cnt = 0 → (t.group gid).gen = some g ∧ Claims.WentOn s t) ∧
      (0 < g.cnt → Claims.PassStarts s t gid g (min g.cnt (s.widthOf gid)) ∧ (t.group gid).gen.map (·.prd) = some g.prd)) ∧
  ∀ (i : Instr) (F : Fields) (s : State) (gid : Nat) (g : Gen), Claims.OneGroup s i F gid 3 → Claims.InRegion s gid g true →
    ∃ t, exec i s = .next t ∧
      (g.arrived.length + (s.guarded F).length < g.n → Claims.OnlyGroup s t gid ∧
        (t.group gid).gen = some { g with arrived := g.arrived ++ (s.guarded F).map laneOf } ∧
        (∀ tid x, Passes s F tid x → t.threads.get? tid = some (goesOn s x)) ∧
        ∀ tid x, Acts s F tid x → t.threads.get? tid = some { x with wait := .gnext, after := s.issue.next, issued := true }) ∧
      (g.n ≤ g.arrived.length + (s.guarded F).length → g.cnt = g.n → s.guarded F = s.issue.threads → Claims.OnlyGroup s t gid ∧
        ∃ g', (t.group gid).gen = some g' ∧ g'.consumer = false ∧ g'.cnt = 0 ∧ g'.head = (g.head + g.n) % g.c ∧ g'.prd = g.prd ∧
          ∀ u z, s.threads.get? u = some z → gidOf u = gid → ∃ y, t.threads.get? u = some y ∧ y.ylane = 0 ∧ y.regs = z.regs ∧
            ∀ v, g.saved.get? (laneOf u) = some v →
              y.pc = v.pc ∧ y.preds = v.preds ∧ y.depth = v.depth ∧ y.meet = v.meet ∧ y.meets = v.meets ∧ y.pair = v.pair ∧
                ((∀ k, v.wait ≠ .acquire k) → v.wait ≠ .reply → y.wait = v.wait))

/-! Ray registers (12 R206 to R225). -/

namespace Sys2Proof.Claims

/-- The rows that write a ray: HNRM, HSCL, HADD, HNEG, HPROJ, HSLN, HMOV; that read one: HDOT, HLN, HCLS. -/
def writesRay (F : Fields) : Prop := (F.maj = 0x18 ∧ F.mn ∈ [0, 3, 4, 5, 6]) ∨ (F.maj = 0x19 ∧ F.mn ∈ [1, 2])
def readsRay (F : Fields) : Prop := (F.maj = 0x18 ∧ F.mn = 2) ∨ (F.maj = 0x19 ∧ F.mn ∈ [0, 3])

/-- Ray `r` of a group made the W words and the norm entry; no other ray changes. -/
structure WroteRay (w : Nat) (g g' : Group) (r : Nat) (word : Nat → Word) (norm : Word) : Prop where
  frame : { g' with rays := g.rays, norms := g.norms } = g
  words : ∀ l, l < w → g'.rayWord r l = word l
  norm : g'.normEntry r = norm
  others : ∀ q l, q ≠ r → l < 64 → g'.rayWord q l = g.rayWord q l ∧ g'.normEntry q = g.normEntry q

/-- The home address of HLD and HST, if their one access of 4W + 4 bytes, 4-byte aligned, passes its checks and goes home in one page
(R225). -/
def rayAt (s : State) (F : Fields) (kind : Kind) (tid : Nat) : Option Nat :=
  match rayCheck s F kind tid with
  | (.ok _ (.home _), [(.home a, _)]) => some a
  | _ => none

end Sys2Proof.Claims

/-- R206, R208, R211, R217, R218, R223, R225: which registers and flags each ray instruction changes. A row that writes a ray writes D's words and norm in each
acting group, and every thread of the group ORs its flags; one that reads a ray writes D and ORs its flags; HEXP writes the components
2l and 2l + 1 of lane l to D and D + 1. HLD from one page makes D of the bytes its lowest lane sees; HST to one page stores D's words and
norm, which every thread of the group sees from then on, and no other memory changes. The values are in `RayValues`. The model's readings
where the rules leave it open: log entries 46 and 145. -/
def Obligations.RayInstructions : Prop :=
  (∀ (i : Instr) (F : Fields) (s : State), i.wf = true → i.fields? = some F → Claims.writesRay F → Calm s F State.noFault →
    (∀ gid, s.widthOf gid ≤ 64) →
    ∃ t, exec i s = .next t ∧ { t with threads := s.threads, groups := s.groups } = s ∧
      (∀ gid g, s.groups.get? gid = some g → ∃ g', t.groups.get? gid = some g' ∧
        ((∀ tid ∈ s.guarded F, gidOf tid ≠ gid) → g' = g) ∧
        ((∃ tid ∈ s.guarded F, gidOf tid = gid) → let r := rayResult s gid F
          Claims.WroteRay (s.widthOf gid) g g' F.d (fun l => r.words.getD l 0) r.norm)) ∧
      ∀ tid x, s.threads.get? tid = some x → x.life ≠ .exited → t.threads.get? tid =
        let z := if ∃ u ∈ s.guarded F, gidOf u = gidOf tid then
          { x with fpsr := x.fpsr ||| (rayResult s (gidOf tid) F).flags.setWidth 32 } else x
        some (if tid ∈ s.issue.threads then goesOn s z else z)) ∧
  (∀ (i : Instr) (F : Fields) (s : State), i.wf = true → i.fields? = some F → Claims.readsRay F → Calm s F State.noFault →
    ∃ t, exec i s = .next t ∧ OnlyRegisters s t ∧ (∀ tid x, Passes s F tid x → t.threads.get? tid = some (goesOn s x)) ∧
      (∀ tid x, Acts s F tid x → ∃ y, t.threads.get? tid = some y ∧ y.fpsr = x.fpsr ||| (rayValue s (gidOf tid) F).2.setWidth 32 ∧
        (F.cd = true → { y with fpsr := x.fpsr } = goesOn s x) ∧
        (F.cd = false → WroteReg s x { y with fpsr := x.fpsr } F.d (BitVec.ofNat 32 (rayValue s (gidOf tid) F).1))) ∧
      ∀ gid g, s.groups.get? gid = some g → ∃ g', t.groups.get? gid = some g' ∧
        (F.cd = false ∨ (∀ tid ∈ s.guarded F, gidOf tid ≠ gid) → g' = g) ∧
        (F.cd = true → (∃ tid ∈ s.guarded F, gidOf tid = gid) → WroteScalar g g' F.d (BitVec.ofNat 32 (rayValue s gid F).1))) ∧
  (∀ (i : Instr) (F : Fields) (s : State), i.wf = true → i.fields? = some F → F.maj = 0x18 → F.mn = 1 → Calm s F State.noFault →
    ∃ t, exec i s = .next t ∧ OnlyThreads s t ∧ (∀ tid x, Passes s F tid x → t.threads.get? tid = some (goesOn s x)) ∧
      ∀ tid x, Acts s F tid x → ∃ y, t.threads.get? tid = some y ∧ { y with regs := x.regs, fpsr := x.fpsr } = goesOn s x ∧
        let a := (s.group (gidOf tid)).rayVal (s.widthOf (gidOf tid)) F.a
        let v (k : Nat) := hexpVal a (a.d.getD (2 * laneOf tid + k) 0)
        y.fpsr = x.fpsr ||| ((v 0).2 ||| (v 1).2).setWidth 32 ∧
        (F.d ≠ 255 → y.reg F.d = BitVec.ofNat 32 (v 0).1 ∧ y.reg (F.d + 1) = BitVec.ofNat 32 (v 1).1) ∧
        ∀ n, F.d = 255 ∨ (n ≠ F.d ∧ n ≠ F.d + 1) → y.reg n = x.reg n) ∧
  (∀ (i : Instr) (F : Fields) (s : State) (gid tid a : Nat) (x : Group), i.wf = true → i.fields? = some F → F.maj = 0x19 → F.mn = 4 →
    Calm s F State.noFault → (∀ u ∈ s.issue.threads, gidOf u = gid) → Claims.IsLowest (s.guarded F) gid tid →
    s.groups.get? gid = some x → x.path = [] → (∀ u ∈ s.guarded F, (Claims.rayAt s F .read u).isSome) →
    Claims.rayAt s F .read tid = some a → Claims.Sound s a (4 * s.widthOf gid + 4) → s.widthOf gid ≤ 64 →
    (let ea := rayEa s gid F
     (s.descOn x.core (s.ctxOf gid) (segOf ea)).sl = false ∧ s.sealed (s.ctxOf gid) (segOf ea) (offOf ea) (4 * s.widthOf gid + 4) = false) →
    ∃ t g', exec i s = .next t ∧ Claims.WentOn s t ∧
      { t with threads := s.threads, groups := s.groups, domains := s.domains, used := s.used } = s ∧
      (∀ d, (t.domain d).overlay = (s.domain d).overlay) ∧ (∀ g, g ≠ gid → t.groups.get? g = s.groups.get? g) ∧
      t.groups.get? gid = some g' ∧
      (let word (l : Nat) : Word := Claims.loadedWord 2 false (fun k => Claims.sees s tid (a + 4 * l + k) false) 0
       Claims.WroteRay (s.widthOf gid) x g' F.d word (word (s.widthOf gid) &&& 0xC0FFFFFF))) ∧
  ∀ (i : Instr) (F : Fields) (s : State) (gid tid a : Nat) (x : Group), i.wf = true → i.fields? = some F → F.maj = 0x19 → F.mn = 5 →
    Calm s F State.noFault → (∀ u ∈ s.issue.threads, gidOf u = gid) → Claims.IsLowest (s.guarded F) gid tid →
    s.groups.get? gid = some x → x.spec = none → s.unmatched gid = [] →
    (∀ u ∈ s.guarded F, (Claims.rayAt s F .write u).isSome ∧ s.shadowFault u (hstOut F u) = none) →
    Claims.rayAt s F .write tid = some a → s.widthOf gid ≤ 64 →
    ∃ t, exec i s = .next t ∧ Claims.WentOn s t ∧ { t with threads := s.threads, groups := s.groups } = s ∧
      (∀ g, g ≠ gid → t.groups.get? g = s.groups.get? g) ∧ { t.group gid with path := x.path } = x ∧
      ∀ u, gidOf u = gid →
        (∀ l k, l ≤ s.widthOf gid → k < 4 → t.forwarded u (a + 4 * l + k) =
          some ((if l < s.widthOf gid then x.rayWord F.d l else x.normEntry F.d).extractLsb' (8 * k) 8)) ∧
        ∀ b, b < a ∨ a + 4 * s.widthOf gid + 4 ≤ b → t.forwarded u b = s.forwarded u b

namespace Sys2Proof.Claims

/-- An exact value n × 2^e as f32, to nearest-even, with its flags. -/
def toF32 (n e : Int) : Nat × Flags := (Machine.Num.fin (decide (n < 0)) n.natAbs e).round Fmt.f32 ⟨.rn, false, false⟩

/-- The class, the norm entry and the flags that a log norm `l`, in units of 2^−16, gives a ray: normal, infinite with OF, zero with UF
(R210, R219). -/
def Logged (l : Int) (r : RayVal × Flags) : Prop :=
  (128 * 65536 ≤ l → r.1.cls = .infinite ∧ r.1.norm = 0x807FFFFF ∧ r.2 = 0x04) ∧
  (l < -128 * 65536 → r.1.cls = .zero ∧ r.1.norm = 0x40000000 ∧ r.2 = 0x08) ∧
  (-128 * 65536 ≤ l → l < 128 * 65536 → r.1.cls = .normal ∧ r.1.ln = l ∧ r.2 = 0 ∧ r.1.norm = (BitVec.ofInt 24 l).setWidth 32)

/-- `z` is the integer nearest to a rational, ties to even. -/
def Nearest (x : ℚ) (z : Int) : Prop := |x - z| ≤ 1 / 2 ∧ (|x - z| = 1 / 2 → z % 2 = 0)

/-- RENORMALISATION (R210) of rational components `y` and an incoming exponent `e` in units of 2^−16, S the sum of their squares: with
S = 0 the class `onZero`; else q = n × 2^k is 1 ÷ √S rounded to 24 bits, each component is y_i q rounded to Q1.15 and saturated, and L
is e + ½ log2 S rounded (to within 2^−1000 of a tie, log entry 134). -/
structure Renormed (w : Nat) (y : List ℚ) (e : Int) (inf : Bool) (onZero : RayClass) (r : RayVal × Flags) : Prop where
  whenZero : (y.map (· ^ 2)).sum = 0 → r.1.cls = onZero ∧ r.1.d = List.replicate (2 * w) 0 ∧ r.2 = if onZero = .invalid then 0x01 else 0
  dir : (y.map (· ^ 2)).sum ≠ 0 → r.1.d.length = 2 * w ∧ (r.1.cls = .zero → r.1.d = List.replicate (2 * w) 0) ∧
    (r.1.cls ≠ .zero → ∃ (n : Nat) (k : Int), 2 ^ 23 ≤ n ∧ n ≤ 2 ^ 24 ∧
      (let S := (y.map (· ^ 2)).sum
       let at_ (m : Nat) : ℚ := (m : ℚ) ^ 2 * 4 ^ (k - 1) * S
       at_ (2 * n - 1) ≤ 1 ∧ 1 ≤ at_ (2 * n + 1) ∧ (n % 2 = 1 → at_ (2 * n - 1) < 1 ∧ 1 < at_ (2 * n + 1))) ∧
      ∀ i, i < 2 * w → ∃ z, Nearest (y.getD i 0 * (n * 2 ^ k) * 2 ^ 15) z ∧ r.1.d.getD i 0 = max (-32768) (min z 32767))
  whenInf : (y.map (· ^ 2)).sum ≠ 0 → inf = true → r.1.cls = .infinite ∧ r.1.norm = 0x807FFFFF ∧ r.2 = 0
  log : (y.map (· ^ 2)).sum ≠ 0 → inf = false → ∃ L : Int, Logged L r ∧
    |(L : ℝ) - (e + 32768 * Real.logb 2 (((y.map (· ^ 2)).sum : ℚ) : ℝ))| ≤ 1 / 2 + 2 ^ (-1000 : Int)

/-- What an instruction writes to a ray is a computed ray: its components in lane order, its norm entry, its flags (R206, R211). -/
def Writes (w : Nat) (o : RayOut) (r : RayVal × Flags) : Prop :=
  o.norm = r.1.norm ∧ o.flags = r.2 ∧ ∀ l, l < w → ∀ k, k < 2 →
    (o.words.getD l 0).extractLsb' (16 * k) 16 = BitVec.ofInt 16 (r.1.d.getD (2 * l + k) 0)

/-- Component `k` of a lane as HNRM reads it from A: f32 from the pair, element 0 of a packed type from the low half; zero for an exited or
absent thread (R212, R216). -/
def normSource (s : State) (gid : Nat) (F : Fields) (l k : Nat) : Machine.Num :=
  let part (x : Word) : Nat := (x.extractLsb' (16 * k) 16).toNat
  let of (reg : Nat → Word) : Machine.Num := match F.ty with
    | 4 => Fmt.f32.decode false (reg (F.a + k)).toNat
    | 7 => Fmt.f16.decode false (part (reg F.a))
    | 8 => Fmt.bf16.decode false (part (reg F.a))
    | _ => Machine.Num.ofInt ((reg F.a).extractLsb' (16 * k) 16).toInt (-15)
  match s.threads.get? (tidAt gid l) with
  | some x => if x.life = .exited ∨ F.a = 255 then of (fun _ => 0) else of x.reg
  | none => of (fun _ => 0)

/-- A finite value as a rational. -/
def ratOf : Machine.Num → ℚ
  | .fin neg m e => (if neg then -1 else 1) * (m * 2 ^ e)
  | _ => 0

/-- n × 2^(k ÷ 65536 + sh) rounded once to f32 (R217, R218). -/
def ScaledF32 (n k sh : Int) (r : Nat × Flags) : Prop :=
  ∃ x : Mag, r = x.round Fmt.f32 ⟨.rn, false, false⟩ (decide (n < 0)) ∧
    StandsFor x (|(n : ℝ)| * (2 : ℝ) ^ ((k : ℝ) / 65536 + sh)) (k / 65536 + sh)

end Sys2Proof.Claims

/-- R208, R210, R216 to R224: a ray is read by its class, a zero or invalid one with a zero direction; HSCL and HSLN change the log norm and
keep the direction; HNRM, HPROJ, HADD of infinite rays and HADD of normal rays whose log norms differ by a whole number renormalise
their components; HADD, HPROJ and HNRM of the other classes; HNEG and HMOV; HDOT and HEXP of every class, their scaled values rounded
once; HLN and HCLS by class. Each row writes that value of its own operands: HNRM of A's registers, HSCL and HSLN by B or X, HADD, HPROJ
and HDOT of rays A and B. The model's readings: log entry 45; the precision of its real values: log entry 134. -/
def Obligations.RayValues : Prop :=
  (∀ (g : Group) (w r : Nat), let x := g.normEntry r
    let v := g.rayVal w r
    (x.extractLsb' 30 2 = 0 → v.cls = .normal ∧ v.ln = (x.extractLsb' 0 24).toInt) ∧
    (x.extractLsb' 30 2 = 1 → v.cls = .zero) ∧ (x.extractLsb' 30 2 = 2 → v.cls = .infinite) ∧ (x.extractLsb' 30 2 = 3 → v.cls = .invalid) ∧
    v.d.length = 2 * w ∧ v.norm = x ∧ ∀ l k, l < w → k < 2 → v.d.getD (2 * l + k) 0 =
      if v.cls = .zero ∨ v.cls = .invalid then 0 else ((g.rayWord r l).extractLsb' (16 * k) 16).toInt) ∧
  (∀ (a : RayVal) (k : Int),
    (a.cls = .normal → Claims.Logged (a.ln + k) (hscl a k) ∧ (hscl a k).1.d = a.d) ∧ (a.cls ≠ .normal → hscl a k = (a, 0))) ∧
  (∀ (w : Nat) (a : RayVal) (x : Word),
    (a.cls = .normal ∨ a.cls = .infinite → Claims.Logged x.toInt (hsln w a false x) ∧
      ∀ neg m e, Fmt.f32.decode false x.toNat = .fin neg m e →
        ∃ L, Claims.Nearest (65536 * Claims.ratOf (.fin neg m e)) L ∧ Claims.Logged L (hsln w a true x)) ∧
    (a.cls = .zero ∨ a.cls = .invalid → ∀ n, n.isNan = false → Fmt.f32.decode false x.toNat = n → hsln w a true x = (a, 0)) ∧
    (a.cls = .zero ∨ a.cls = .invalid → hsln w a false x = (a, 0)) ∧
    (∀ sig, Fmt.f32.decode false x.toNat = .nan sig → (hsln w a true x).1.cls = .invalid ∧ (hsln w a true x).2 = Claims.nv sig) ∧
    (∀ neg, Fmt.f32.decode false x.toNat = .inf neg → a.cls = .normal ∨ a.cls = .infinite →
      (hsln w a true x).1.cls = (if neg then .zero else .infinite) ∧ (hsln w a true x).2 = 0)) ∧
  (∀ (w : Nat) (a b : RayVal),
    (a.cls = .invalid ∨ b.cls = .invalid → (hadd w a b).1.cls = .invalid ∧ (hadd w a b).2 = 0 ∧ (hproj w a b).1.cls = .invalid) ∧
    (a.cls = .zero → b.cls ≠ .invalid → (hproj w a b).1.cls = .zero ∧ (hproj w a b).2 = 0 ∧
      (b.cls ≠ .zero → hadd w a b = (b, 0)) ∧
      (b.cls = .zero → (hadd w a b).1.cls = .zero ∧ (hadd w a b).1.norm = 0x40000000 ∧ (hadd w a b).2 = 0)) ∧
    (b.cls = .zero → a.cls ≠ .invalid → a.cls ≠ .zero → hadd w a b = (a, 0) ∧ hproj w a b = (a, 0)) ∧
    (a.cls = .infinite → b.cls = .normal → hadd w a b = (a, 0)) ∧ (a.cls = .normal → b.cls = .infinite → hadd w a b = (b, 0)) ∧
    (a.d.length = 2 * w → b.d.length = 2 * w →
      let unit (x : Int) (e : Int) : ℚ := (x : ℚ) * 2 ^ (e - 15)
      let q : Int := (List.zipWith (· * ·) b.d b.d).sum
      let p : Int := (List.zipWith (· * ·) a.d b.d).sum
      let along := List.zipWith (fun x y => unit x 0 - (p : ℚ) / q * unit y 0) a.d b.d
      (a.cls = .infinite → b.cls = .infinite →
        Claims.Renormed w (List.zipWith (fun x y => unit x 0 + unit y 0) a.d b.d) 0 true .invalid (hadd w a b)) ∧
      (a.cls = .normal → b.cls = .normal → (a.ln - b.ln) % 65536 = 0 → let m := max a.ln b.ln
        Claims.Renormed w (List.zipWith (fun x y => unit x ((a.ln - m) / 65536) + unit y ((b.ln - m) / 65536)) a.d b.d) m false .zero
          (hadd w a b)) ∧
      (b.cls = .normal ∨ b.cls = .infinite → a.cls = .normal ∨ a.cls = .infinite → q = 0 → hproj w a b = (a, 0)) ∧
      (b.cls = .normal ∨ b.cls = .infinite → q ≠ 0 →
        (a.cls = .normal → Claims.Renormed w along a.ln false .zero (hproj w a b)) ∧
        (a.cls = .infinite → Claims.Renormed w along 0 true .invalid (hproj w a b))))) ∧
  (∀ (w : Nat) (xs : List Machine.Num),
    (xs.any Machine.Num.isNan = true → (hnrm w xs).1.cls = .invalid ∧ (hnrm w xs).2 = Claims.nv (xs.any Machine.Num.isSig)) ∧
    (xs.all Machine.Num.isZero = true → (hnrm w xs).1.cls = .zero ∧ (hnrm w xs).2 = 0) ∧
    (xs.length = 2 * w → xs.any Machine.Num.isNan = false →
      (xs.any Machine.Num.isInf = true →
        Claims.Renormed w (xs.map (fun x => if x.isInf then (if x.neg then -1 else 1) else 0)) 0 true .zero (hnrm w xs)) ∧
      (xs.any Machine.Num.isInf = false → Claims.Renormed w (xs.map Claims.ratOf) 0 false .zero (hnrm w xs)))) ∧
  (∀ (s : State) (gid : Nat) (F : Fields), let g := s.group gid
    let w := s.widthOf gid
    let a := g.rayVal w F.a
    (F.maj = 0x18 → F.mn = 5 → ∀ l, l < w → ∀ k, k < 2 → (((rayResult s gid F).words.getD l 0).extractLsb' (16 * k) 16).toInt =
      min 32767 (-(a.d.getD (2 * l + k) 0)) ∧ (rayResult s gid F).norm = g.normEntry F.a) ∧
    (F.maj = 0x19 → F.mn = 2 → F.modBit 0 = false → (rayResult s gid F).norm = g.normEntry F.a ∧ ∀ l, l < w → ∀ k, k < 2 →
      (((rayResult s gid F).words.getD l 0).extractLsb' (16 * k) 16).toInt = a.d.getD (2 * l + k) 0) ∧
    (F.maj = 0x19 → F.mn = 2 → F.modBit 0 = true → (rayResult s gid F).norm = g.normEntry F.d ∧ ∀ l, l < w →
      (rayResult s gid F).words.getD l 0 = g.rayWord F.a l) ∧
    (F.maj = 0x19 → F.mn = 1 → ∀ l, l < w → (rayResult s gid F).words.getD l 0 = g.rayWord F.d l) ∧
    (let b := g.rayVal w F.b
     let k := loWord (F.opB false g (Thread.start 0 0))
     (F.maj = 0x18 → F.mn = 3 → Claims.Writes w (rayResult s gid F) (hscl a k.toInt)) ∧
     (F.maj = 0x18 → F.mn = 4 → Claims.Writes w (rayResult s gid F) (hadd w a b)) ∧
     (F.maj = 0x18 → F.mn = 6 → Claims.Writes w (rayResult s gid F) (hproj w a b)) ∧
     (F.maj = 0x19 → F.mn = 1 → let r := hsln w (g.rayVal w F.d) (F.ty == 4) k
       (rayResult s gid F).norm = r.1.norm ∧ (rayResult s gid F).flags = r.2) ∧
     (F.maj = 0x18 → F.mn = 0 → w ≤ 64 → ∃ xs : List Machine.Num, xs.length = 2 * w ∧ Claims.Writes w (rayResult s gid F) (hnrm w xs) ∧
       ∀ l, l < w → ∀ k, k < 2 → xs[2 * l + k]? = some (Claims.normSource s gid F l k)) ∧
     (F.maj = 0x18 → F.mn = 2 → rayValue s gid F = hdotVal (F.modBit 0) a b)) ∧
    (F.maj = 0x19 → F.mn = 3 → rayValue s gid F = ((match a.cls with | .normal => 1 | .zero => 2 | .infinite => 4 | .invalid => 8), 0)) ∧
    (F.maj = 0x19 → F.mn = 0 → F.ty = 0 → rayValue s gid F = ((g.normEntry F.a).toNat, 0)) ∧
    (F.maj = 0x19 → F.mn = 0 → F.ty = 4 → rayValue s gid F = ((match a.cls with
      | .normal => (Claims.toF32 a.ln (-16)).1 | .zero => 0xFF800000 | .infinite => 0x7F800000 | .invalid => Fmt.f32.nanCode), 0))) ∧
  ∀ (a b : RayVal), let dot := (List.zipWith (· * ·) a.d b.d).foldl (· + ·) 0
    (a.cls = .invalid ∨ b.cls = .invalid → ∀ n, hdotVal n a b = (Fmt.f32.nanCode, 0)) ∧
    (a.cls = .normal ∨ a.cls = .infinite → b.cls = .normal ∨ b.cls = .infinite →
      (2 ^ 30 < dot → hdotVal false a b = (0x3F800000, 0x10)) ∧ (dot < -(2 ^ 30) → hdotVal false a b = (0xBF800000, 0x10)) ∧
      (-(2 ^ 30) ≤ dot → dot ≤ 2 ^ 30 → hdotVal false a b = Claims.toF32 dot (-30))) ∧
    (a.cls = .normal → b.cls = .normal → (a.ln + b.ln) % 65536 = 0 → hdotVal true a b = Claims.toF32 dot ((a.ln + b.ln) / 65536 - 30)) ∧
    (a.cls = .normal → b.cls = .normal → a.d.length ≤ 128 → (∀ x ∈ a.d ++ b.d, |x| ≤ 32768) →
      Claims.ScaledF32 dot (a.ln + b.ln) (-30) (hdotVal true a b)) ∧
    (a.cls ≠ .invalid → b.cls ≠ .invalid → a.cls = .zero ∨ b.cls = .zero → hdotVal false a b = (0, 0) ∧
      hdotVal true a b = if a.cls = .infinite ∨ b.cls = .infinite then (Fmt.f32.nanCode, 0x01) else (0, 0)) ∧
    (a.cls = .infinite ∧ (b.cls = .normal ∨ b.cls = .infinite) ∨ b.cls = .infinite ∧ a.cls = .normal →
      hdotVal true a b = if dot = 0 then (Fmt.f32.nanCode, 0x01) else (if dot < 0 then 0xFF800000 else 0x7F800000, 0)) ∧
    (a.cls = .normal → a.ln % 65536 = 0 → ∀ d, hexpVal a d = Claims.toF32 d (a.ln / 65536 - 15)) ∧
    (a.cls = .normal → ∀ d, |d| ≤ 32768 → Claims.ScaledF32 d a.ln (-15) (hexpVal a d)) ∧
    (a.cls = .infinite → ∀ d, hexpVal a d = (if d = 0 then 0 else if d < 0 then 0xFF800000 else 0x7F800000, 0)) ∧
    (a.cls = .zero → ∀ d, hexpVal a d = (0, 0)) ∧ (a.cls = .invalid → ∀ d, hexpVal a d = (Fmt.f32.nanCode, 0))

/-! Symbolic references, keys and leases (14 R237 to R255). -/

namespace Sys2Proof.Claims

/-- The home address of linkage entry LTB + k of the current code segment, an import of it, where thread `tid` may read it (R251). -/
def entryAt (s : State) (F : Fields) (tid : Nat) : Option Nat :=
  let d := s.descOn (s.group (gidOf tid)).core (s.ctxOf (gidOf tid)) (segOf s.issue.self)
  if F.x.toNat < d.impn then
    match s.check (s.agent tid) (mkPtr 2 (8 * (d.ltbf.toNat + F.x.toNat))) 8 3 .read with
    | .ok _ (.home a) => some a
    | _ => none
  else none

/-- Eight bytes from a home address as a thread reads them there, little-endian (R5, R251). -/
def homeRead (s : State) (tid a : Nat) : DWord :=
  let b (k : Nat) : Byte := sees s tid (a + k) true
  b 7 ++ b 6 ++ b 5 ++ b 4 ++ b 3 ++ b 2 ++ b 1 ++ b 0

/-- The entry a thread reads. -/
def entryOf (s : State) (F : Fields) (tid : Nat) : DWord := homeRead s tid ((entryAt s F tid).getD 0)

/-- The entry's own pointer in segment 2 (R251). -/
def entryPtr (s : State) (F : Fields) (tid : Nat) : Ptr :=
  mkPtr 2 (8 * ((s.descOn (s.group (gidOf tid)).core (s.ctxOf (gidOf tid)) (segOf s.issue.self)).ltbf.toNat + F.x.toNat))

/-- The pointer a BOUND entry names: TSEG and TOFF × 4 (R243). -/
def boundTo (w : DWord) : Ptr := w.extractLsb' 42 20 ++ w.extractLsb' 0 42 ++ (0 : BitVec 2)

end Sys2Proof.Claims

/-- R243, R251, R252: CALLN, LDN, JMPN and LNKQ of a readable entry, after an acquire at dev: LNKQ gives the entry in every state; of a BOUND entry LDN
gives the target, JMPN goes there, and CALLN links, counts the call, and pushes a crossing where the target lies in another
segment. R234, R245: of an entry in another state LDN, JMPN and CALLN raise LINK_FAILED when it is POISONED, else LINK_UNBOUND, which enters
slot S at the stub where the group has a usable one; the acquire is made there too (R266). Memory stands; a snapshot may only lose lines (R264), and
reads at home are counted (log entries 130, 133). A scalar D is that of one acting thread of its group (log entry 10). -/
def Obligations.LinkageInstructions : Prop :=
  (∀ (i : Instr) (F : Fields) (s : State), i.wf = true → i.fields? = some F → F.maj = 0x22 → F.mn < 4 → Calm s F State.noFault →
    s.issue.threads.Nodup →
    (∀ tid ∈ s.guarded F, ∃ a, Claims.entryAt s F tid = some a ∧ Claims.Sound s a 8 ∧
      (F.mn ≠ 3 → (Claims.entryOf s F tid).extractLsb' 62 2 = 2) ∧
      (F.mn = 0 → segOf (Claims.boundTo (Claims.entryOf s F tid)) ≠ segOf s.issue.self → (s.thread tid).cross.length < 16)) →
    let u := s.acquireAll (State.groupsIn (s.guarded F)) 3
    let val (tid : Nat) : DWord := if F.mn = 3 then Claims.entryOf s F tid else Claims.boundTo (Claims.entryOf s F tid)
    ∃ t, exec i s = .next t ∧ { t with threads := u.threads, groups := u.groups, domains := u.domains, used := u.used } = u ∧
      (∀ d, (t.domain d).overlay = (s.domain d).overlay ∧
        ∀ l, (t.domain d).lines.get? l = none ∨ (t.domain d).lines.get? l = (u.domain d).lines.get? l) ∧
      (∀ tid x, Passes s F tid x → t.threads.get? tid = some (goesOn s x)) ∧
      (∀ tid, tid ∉ s.issue.threads → t.threads.get? tid = s.threads.get? tid) ∧
      (∀ gid g, s.groups.get? gid = some g → ∃ g', t.groups.get? gid = some g' ∧ { g' with sregs := g.sregs } = g) ∧
      (F.mn = 0 → t.groups = s.groups ∧ ∀ tid x, Acts s F tid x → ∃ y, t.threads.get? tid = some y ∧ y.pc = val tid ∧
        Claims.Called s x { y with cross := x.cross } ∧
        (segOf (val tid) = segOf s.issue.self → y.cross = x.cross) ∧
        (segOf (val tid) ≠ segOf s.issue.self → y.cross = ⟨x.depth + 1, segOf s.issue.self⟩ :: x.cross)) ∧
      (F.mn = 2 → t.groups = s.groups ∧ ∀ tid x, Acts s F tid x → ∃ y, t.threads.get? tid = some y ∧ y.pc = val tid ∧ Claims.Jumped x y) ∧
      (F.mn = 1 ∨ F.mn = 3 →
        (F.cd = false → t.groups = s.groups ∧ ∀ tid x, Acts s F tid x → ∃ y, t.threads.get? tid = some y ∧ WrotePair s x y F.d (val tid)) ∧
        (F.cd = true → (∀ tid x, Acts s F tid x → t.threads.get? tid = some (goesOn s x)) ∧
          ∀ gid g, s.groups.get? gid = some g → ∃ g', t.groups.get? gid = some g' ∧
            ((∀ tid ∈ s.guarded F, gidOf tid ≠ gid) → g' = g) ∧
            ((∃ tid ∈ s.guarded F, gidOf tid = gid) → ∃ tid ∈ s.guarded F, gidOf tid = gid ∧ WroteScalarPair g g' F.d (val tid))))) ∧
  ∀ (i : Instr) (F : Fields) (s : State), i.wf = true → i.fields? = some F → F.maj = 0x22 → F.mn < 3 → Calm s F State.noFault →
    s.issue.threads.Nodup → let st (tid : Nat) : BitVec 2 := (Claims.entryOf s F tid).extractLsb' 62 2
    let aux (tid : Nat) : Word := (0 : BitVec 6) ++ (if st tid = 3 then (Claims.entryOf s F tid).extractLsb' 32 8 else 0) ++ st tid ++ F.x.extractLsb' 0 16
    (∀ tid ∈ s.guarded F, Claims.Catches s tid ∧ ∃ a, Claims.entryAt s F tid = some a ∧ Claims.Sound s a 8 ∧ st tid ≠ 2 ∧
      (s.thread tid).slotS = none) →
    let u := s.acquireAll (State.groupsIn (s.guarded F)) 3
    ∃ t, exec i s = .next t ∧
      ((∀ tid ∈ s.guarded F, st tid = 3 ∨ s.stub (gidOf tid) s.issue.pc = none) ∨ (s.poison = [] ∧ s.badLines = []) →
        { t with threads := u.threads } = u) ∧
      (∀ tid, tid ∉ s.issue.threads → t.threads.get? tid = s.threads.get? tid) ∧ (∀ tid x, Passes s F tid x → t.threads.get? tid = some (goesOn s x)) ∧
      ∀ tid x, Acts s F tid x → ∃ y, t.threads.get? tid = some y ∧
        (st tid = 3 → Claims.Trapped s x y tid 0x11 (Claims.entryPtr s F tid) (aux tid) (s.guarded F) s.issue.pc s.issue.pc) ∧
        (st tid ≠ 3 → s.stub (gidOf tid) s.issue.pc = none →
          Claims.Trapped s x y tid 0x10 (Claims.entryPtr s F tid) (aux tid) (s.guarded F) s.issue.pc s.issue.pc) ∧
        (∀ p, st tid ≠ 3 → s.stub (gidOf tid) s.issue.pc = some p → y.pc = p ∧ y.slotF = x.slotF ∧ y.fcode = 0x110 ∧
          ofWords y.faddrHi y.faddrLo = Claims.entryPtr s F tid ∧ y.faux = aux tid ∧ y.wait = .none ∧ y.rpc = 0 ∧ y.regs = x.regs ∧
          ∃ k, y.slotS = some k ∧ k.resume = s.issue.pc ∧ k.depth = x.depth ∧ k.crossings = x.cross.length ∧ k.rpc = x.rpc)

namespace Sys2Proof.Claims

/-- The four words SEGQ gives for a descriptor (R253). -/
def segWord (d : Desc) (j : Nat) : Word :=
  if d.valid then
    match j with
    | 0 => (1 : BitVec 1) ++ BitVec.ofNat 3 d.type ++ BitVec.ofBool d.read ++ BitVec.ofBool d.write ++ BitVec.ofBool d.exec
        ++ BitVec.ofBool d.sl ++ BitVec.ofBool d.stub ++ BitVec.ofNat 2 d.home ++ (0 : BitVec 4)
        ++ (if d.type = 1 then BitVec.ofNat 17 d.impn else 0)
    | 1 => d.ltbf
    | 2 => BitVec.ofNat 32 (d.len / 2 ^ 32)
    | _ => BitVec.ofNat 32 d.len
  else 0

/-- `Lease(p, n)` of R240: every byte lies in a record that grants the need; or the pointer lies in a context-resident segment (R255). -/
def MayUse (s : State) (gid : Nat) (kind : Kind) (p : Ptr) (n : Nat) : Prop :=
  let d := s.descOn (s.group gid).core (s.ctxOf gid) (segOf p)
  (∀ o, offOf p ≤ o → o < offOf p + max n 1 → ∃ l ∈ (s.launchOf gid).leases, l.seg = segOf p ∧ l.grants kind = true ∧ l.off ≤ o ∧
    o < l.off + l.len) ∨
  (d.valid = true ∧ d.type ∈ [1, 2, 3, 4, 7] ∧ offOf p < d.len)

end Sys2Proof.Claims

/-- SEGQ, PKRW, PKRR and LEASEQ (constructors segq, pkrw, pkrr, leaseq) complete under every guard and with every operand that decodes.
R253: SEGQ writes the four words of the descriptor that bits [19:0] of B name, once for each group. R238, R254: PKRW makes (PKR and not M) or
(V and M) the home copy and the issuing core's, group by group in ascending GIDX; another core's copy stands. PKRR gives the core's
copy. R255: LEASEQ. -/
def Obligations.KeysAndQueries : Prop :=
  (∀ (i : Instr) (F : Fields) (s : State), i.wf = true → i.fields? = some F → F.maj = 0x21 → F.mn = 3 → Calm s F State.noFault →
    ∃ t, exec i s = .next t ∧ OnlyRegisters s t ∧ Claims.WentOn s t ∧
      ∀ gid g, s.groups.get? gid = some g → ∃ g', t.groups.get? gid = some g' ∧
        ((∀ tid ∈ s.guarded F, gidOf tid ≠ gid) → g' = g) ∧
        ((∃ tid ∈ s.guarded F, gidOf tid = gid) →
          let d := s.descOn g.core (s.ctxOf gid) ((loWord (F.opB false g (Thread.start 0 0))).extractLsb' 0 20).toNat
          (F.d ≠ 127 → ∀ j, j < 4 → F.d + j ≠ 127 → g'.sreg (F.d + j) = Claims.segWord d j) ∧
          ∀ n, F.d = 127 ∨ n < F.d ∨ F.d + 4 ≤ n → g'.sreg n = g.sreg n)) ∧
  (∀ (i : Instr) (F : Fields) (s : State), i.wf = true → i.fields? = some F → F.maj = 0x21 → F.mn = 4 → Calm s F State.noFault →
    ∃ t, exec i s = .next t ∧ Claims.WentOn s t ∧ { t with threads := s.threads, contexts := s.contexts, pkrCopies := s.pkrCopies } = s ∧
      ∀ (core ctx : Nat) (c : Context) (gs : List Nat), s.groups.keys.Pairwise (· < ·) → gs.Pairwise (· < ·) →
        (∀ gid, gid ∈ gs ↔ ∃ tid ∈ s.guarded F, gidOf tid = gid) → gs ≠ [] →
        (∀ gid ∈ gs, (s.groups.get? gid).isSome ∧ (s.group gid).core = core ∧ s.ctxOf gid = ctx) → s.contexts.get? ctx = some c →
        let new := gs.foldl (fun p gid =>
          let v := (s.group gid).sreg64 F.a
          let m := (s.group gid).sreg64 F.b
          (p &&& ~~~m) ||| (v &&& m)) c.pkr
        t.contexts.get? ctx = some { c with pkr := new } ∧ (∀ k, k ≠ ctx → t.contexts.get? k = s.contexts.get? k) ∧
        t.pkrCopy core ctx = new ∧ ∀ k, k ≠ 64 * core + ctx → t.pkrCopies.get? k = s.pkrCopies.get? k) ∧
  (∀ (i : Instr) (F : Fields) (s : State), i.wf = true → i.fields? = some F → F.maj = 0x21 → F.mn = 5 → Calm s F State.noFault →
    ∃ t, exec i s = .next t ∧ Claims.GroupResult s t F (fun _ => true) (fun gid => s.pkrCopy (s.group gid).core (s.ctxOf gid))) ∧
  (∀ (i : Instr) (F : Fields) (s : State), i.wf = true → i.fields? = some F → F.maj = 0x21 → F.mn = 6 → Calm s F State.noFault →
    ∃ t, exec i s = .next t ∧ OnlyThreads s t ∧ (∀ tid x, Passes s F tid x → t.threads.get? tid = some (goesOn s x)) ∧
      ∀ tid x, Acts s F tid x → ∃ y v, t.threads.get? tid = some y ∧ WrotePred s x y F.d v ∧
        (v = true ↔ Claims.MayUse s (gidOf tid) (match F.mod.toNat with | 1 => .read | 2 => .write | _ => .atomic)
          (F.opA true (s.group (gidOf tid)) x) (loWord (F.opB false (s.group (gidOf tid)) x)).toNat))

/-! Atomics and the boundaries of a domain (15 R270 to R273). -/

namespace Sys2Proof.Claims

/-- `new` of R271 on t-bit patterns, with the flags of fadd. -/
def atomic (op : Nat) (z : Bool) (w : Nat) (old d b : BitVec w) : BitVec w × Flags :=
  let lt (x y : BitVec w) : Bool := if z then x.ult y else x.slt y
  match op with
  | 0 => (old + b, 0)
  | 1 => (if lt b old then b else old, 0)
  | 2 => (if lt old b then b else old, 0)
  | 3 => (old &&& b, 0)
  | 4 => (old ||| b, 0)
  | 5 => (old ^^^ b, 0)
  | 6 => (b, 0)
  | 7 => (if old = d then b else old, 0)
  | _ => let r := joinFloat 0 false old.toNat b.toNat; (BitVec.ofNat w r.1, r.2)

/-- The home address of the atomic of a thread whose checks pass, in a segment without sealed data. -/
def atomAt (s : State) (F : Fields) (tid : Nat) : Option Nat :=
  let n := if F.mod.getLsbD 0 then 8 else 4
  match s.check (s.agent tid) (globalEa F (s.group (gidOf tid)) (s.thread tid)) n (if F.mod.getLsbD 0 then 3 else 2) .atomic with
  | .ok d (.home a) => if d.sl then none else some a
  | _ => none

/-- `n` bytes from a home address as a thread sees them, the first lowest. -/
def seesWord (s : State) (tid a n : Nat) (fresh : Bool) : Nat := leNat ((List.range n).map (fun k => sees s tid (a + k) fresh))

end Sys2Proof.Claims

/-- R271, R261, R262: an ATOM of one thread at a home of this module. After the release of its order and the group's own earlier stores, at home
those of its bytes and what is before them: D has the old value as the
thread sees it at the performing point, which is the home at gang or wider and the domain below; the thread then sees the new value
there, which at gang or wider stands at home; no other byte changes; then the acquire of its order. Of several threads of a group that
add to one word at its home, each has the sum so far, in ascending lane order. R272: PHASE. R273: SEAL and UNSEAL of one thread.
The model's readings where the rules leave it open: log entry 27, and 130 for what is counted as use. A shadowed group has nothing left to compare
when it issues an ATOM (R385). -/
def Obligations.AtomicsAndBoundaries : Prop :=
  (∀ (i : Instr) (F : Fields) (s : State) (tid a : Nat) (x : Thread) (g : Group), i.wf = true → i.fields? = some F → F.maj = 0x20 → F.mn = 0 →
    Calm s F State.noFault → s.issue.threads.Nodup → s.guarded F = [tid] → s.threads.get? tid = some x →
    s.groups.get? (gidOf tid) = some g → g.spec = none → s.shadowFault tid (atomOut F tid) = none → s.unmatched (gidOf tid) = [] →
    Claims.atomAt s F tid = some a →
    let wide := F.mod.getLsbD 0
    let n := if wide then 8 else 4
    let home := decide (2 ≤ F.scope)
    let gid := gidOf tid
    let u := if F.releases then s.publish gid F.scope else s
    let v := if home then u.drainTo gid a n else u.drainPath gid (u.group gid).path.length
    let dom := s.domOf gid
    let old := Claims.seesWord v tid a n home
    let r := Claims.atomic F.ty F.z (8 * n) (BitVec.ofNat (8 * n) old) ((F.opD wide g x).setWidth (8 * n)) ((F.opB wide g x).setWidth (8 * n))
    Claims.Sound v a n → (v.domain dom).overlay.keys.Nodup →
    ∃ t y, exec i s = .next t ∧
      { t with threads := s.threads, groups := v.groups, hbm := v.hbm, domains := v.domains, pkrCopies := v.pkrCopies,
               mirrors := v.mirrors, used := v.used } = v ∧
      (∀ w z, Passes s F w z → t.threads.get? w = some (goesOn s z)) ∧ (∀ w, w ∉ s.issue.threads → t.threads.get? w = s.threads.get? w) ∧
      (∀ k, k ≠ gid → t.groups.get? k = s.groups.get? k) ∧ { t.group gid with sregs := g.sregs } = v.group gid ∧
      t.threads.get? tid = some y ∧ y.fpsr = x.fpsr ||| r.2.setWidth 32 ∧
      (F.cd = false → (t.group gid).sregs = g.sregs ∧ (wide = false → WroteReg s x { y with fpsr := x.fpsr } F.d (BitVec.ofNat 32 old)) ∧
        (wide = true → WrotePair s x { y with fpsr := x.fpsr } F.d (BitVec.ofNat 64 old))) ∧
      (F.cd = true → { y with fpsr := x.fpsr } = goesOn s x ∧ (wide = false → WroteScalar g (t.group gid) F.d (BitVec.ofNat 32 old)) ∧
        (wide = true → WroteScalarPair g (t.group gid) F.d (BitVec.ofNat 64 old))) ∧
      Claims.seesWord t tid a n home = r.1.toNat ∧
      (home = true → ∀ k, k < n → t.homeByte (a + k) = r.1.extractLsb' (8 * k) 8) ∧ (home = false → ∀ b, t.homeByte b = v.homeByte b) ∧
      (∀ b, b < a ∨ a + n ≤ b → t.homeByte b = v.homeByte b ∧ (t.domain dom).overlay.get? b = (v.domain dom).overlay.get? b) ∧
      (∀ d, d ≠ dom → t.domain d = v.domain d) ∧
      t.pkrCopies = (if F.acquires then (v.acquire gid F.scope).pkrCopies else v.pkrCopies) ∧
      (F.acquires = true → home = true → (t.domain dom).lines = []) ∧
      ∀ l, (t.domain dom).lines.get? l = none ∨ (t.domain dom).lines.get? l = (v.domain dom).lines.get? l ∨
        (t.domain dom).lines.get? l = some (v.homeBytes (64 * l) 64)) ∧
  (∀ (i : Instr) (F : Fields) (s : State) (gid a : Nat) (g : Group) (ps : List Nat), i.wf = true → i.fields? = some F → F.maj = 0x20 → F.mn = 0 →
    Calm s F State.noFault → s.issue.threads.Nodup → (∀ tid ∈ s.guarded F, gidOf tid = gid) → Claims.InOrder s F gid ps → ps ≠ [] →
    s.groups.get? gid = some g → g.spec = none → (∀ tid ∈ ps, s.shadowFault tid (atomOut F tid) = none) → s.unmatched gid = [] →
    F.ty = 0 → F.mod.getLsbD 0 = false → F.cd = false → F.d ≠ 255 →
    2 ≤ F.scope → (∀ tid ∈ ps, Claims.atomAt s F tid = some a ∧ (s.threads.get? tid).isSome) →
    let u := if F.releases then s.publish gid F.scope else s
    let v := u.drainTo gid a 4
    let sum (k : Nat) : Word := (ps.take k).foldl (fun w tid => w + loWord (F.opB false g (s.thread tid)))
      (BitVec.ofNat 32 (Claims.seesWord v (ps.headD 0) a 4 true))
    Claims.Sound v a 4 → (v.domain (s.domOf gid)).overlay.keys.Nodup →
    ∃ t, exec i s = .next t ∧ (∀ j tid, ps[j]? = some tid → (t.thread tid).reg F.d = sum j) ∧
      ∀ k, k < 4 → t.homeByte (a + k) = (sum ps.length).extractLsb' (8 * k) 8) ∧
  (∀ (i : Instr) (F : Fields) (s : State), i.wf = true → i.fields? = some F → F.maj = 0x21 → F.mn = 0 → Calm s F State.noFault →
    let u := (State.groupsIn (s.guarded F)).foldl (fun s gid =>
      let s := if F.releases then s.publish gid F.scope else s
      if F.acquires then s.acquire gid F.scope else s) s
    ∃ t, exec i s = .next t ∧ Claims.WentOn s t ∧ { t with threads := u.threads, groups := u.groups } = u ∧
      ∀ gid g, u.groups.get? gid = some g → t.groups.get? gid =
        some (if (s.guarded F).any (fun tid => gidOf tid == gid) then { g with phs := g.phs + 1 } else g)) ∧
  ∀ (i : Instr) (F : Fields) (s : State) (tid : Nat) (x : Thread) (c : Context), i.wf = true → i.fields? = some F → F.maj = 0x21 →
    F.mn = 1 ∨ F.mn = 2 → Calm s F (s.sealFault F) → s.issue.threads.Nodup → s.guarded F = [tid] → s.threads.get? tid = some x →
    s.contexts.get? (s.ctxOf (gidOf tid)) = some c →
    let gid := gidOf tid
    let p := F.opA true (s.group gid) x
    let n := (loWord (F.opB false (s.group gid) x)).toNat
    let e : SealEntry := ⟨segOf p, offOf p, n⟩
    let d := s.descOn (s.group gid).core (s.ctxOf gid) (segOf p)
    let u := s.publish gid 3
    ∃ t y v, exec i s = .next t ∧ t.threads.get? tid = some y ∧ WrotePred s x y F.d v ∧
      (∀ w z, Passes s F w z → t.threads.get? w = some (goesOn s z)) ∧ (∀ w, w ∉ s.issue.threads → t.threads.get? w = s.threads.get? w) ∧
      { t with threads := u.threads, contexts := u.contexts, groups := u.groups, domains := u.domains, hbm := u.hbm, 
               poison := u.poison, mirrors := u.mirrors } = u ∧
      (v = false → { t with threads := u.threads } = u) ∧
      (F.mn = 1 → (v = true ↔ d.type = 0 ∧ d.sl = false ∧
          (∀ q ∈ c.seals, ¬ (q.seg = e.seg ∧ 0 < q.len ∧ q.off < e.off + n ∧ e.off < q.off + q.len)) ∧ c.seals.length < 64) ∧
        (v = true → t.contexts.get? (s.ctxOf gid) = some { c with seals := c.seals ++ [e] } ∧
          let rs := u.homeRanges (some (s.group gid).core) (s.ctxOf gid) e.seg e.off n
          let w := u.groups.keys.foldl (fun s k => s.drainPath k (s.group k).path.length) u
          (∀ k, (t.group k).path = [] ∧ { t.group k with path := (u.group k).path } = u.group k) ∧
          (∀ b, State.inRanges rs b = false → t.homeByte b = w.homeByte b ∧ ∀ k, (t.domain k).overlay.get? b = (w.domain k).overlay.get? b) ∧
          ∀ b, State.inRanges rs b = true → (∀ k, (t.domain k).overlay.get? b = none ∧ (t.domain k).lines.get? (b / 64) = none) ∧
            ((∀ k, (w.domain k).overlay.get? b = none) → t.homeByte b = w.homeByte b) ∧
            ∀ k y, w.domains.keys.Nodup → (w.domain k).overlay.keys.Nodup → (w.domain k).overlay.get? b = some y →
              (∀ j, j ≠ k → (w.domain j).overlay.get? b = none) → t.homeByte b = y)) ∧
      (F.mn = 2 → (v = true ↔ e ∈ c.seals) ∧ (v = true → t.contexts.get? (s.ctxOf gid) = some { c with seals := c.seals.erase e } ∧
        { t with threads := u.threads, contexts := u.contexts, mirrors := u.mirrors } = u ∧
        let rs := u.homeRanges (some (s.group gid).core) (s.ctxOf gid) e.seg e.off n
        ∀ m, ((∃ q ∈ rs, q.1 < 64 * (m / 4) + 64 ∧ 64 * (m / 4) < q.1 + q.2) → t.mirrors.get? m = none) ∧
          ((∀ q ∈ rs, ¬ (q.1 < 64 * (m / 4) + 64 ∧ 64 * (m / 4) < q.1 + q.2)) → t.mirrors.get? m = u.mirrors.get? m)))

/-! The matrix unit (16 R274 to R301). -/

namespace Sys2Proof.Claims

/-- The tiles of the record check and the scalars an instruction reads at issue (R282, R293). -/
def matTiles (F : Fields) : List Nat :=
  if F.maj = 0x23 then (if F.mn = 0 then [] else if F.mn = 4 then [F.a] else [F.d])
  else if F.maj = 0x24 then (if F.mn = 0 then [F.a, F.b] else [F.a]) else []
def matScalars (F : Fields) (g : Group) : List Word :=
  let pair (k : Nat) : List Word := [g.sreg k, g.sreg (k + 1)]
  if F.maj = 0x23 ∧ F.mn = 2 then pair F.a
  else if F.maj = 0x24 ∧ F.mn = 0 then pair (F.x.extractLsb' 0 8).toNat ++ pair (F.x.extractLsb' 8 8).toNat
  else if F.maj = 0x25 ∧ F.mn = 3 then pair F.b ++ [g.sreg F.c]
  else [if F.xb then F.x else g.sreg F.b]

/-- A queued operation holds what instruction `F` of group `gid` read at issue: its scalars, the records it was checked against, and the
vector lanes, zero where a lane holds no thread that has not exited. -/
structure Queued (s : State) (gid : Nat) (F : Fields) (o : MatOp) : Prop where
  fields : o.f = F
  scal : o.scal = matScalars F (s.group gid)
  recs : o.recs = (matTiles F).map (s.group gid).tileRec
  tldv : F.maj = 0x23 → F.mn = 3 → ∀ l, l < s.widthOf gid → o.vec.get? l = some (loWord (atLane s gid false F.a l))
  perm : F.maj = 0x24 → F.mn = 1 → F.mod.extractLsb' 0 2 = 1 → ∀ l, l < s.widthOf gid → o.vec.get? l = some (loWord (atLane s gid false F.b l))
  accld : F.maj = 0x25 → F.mn = 1 → F.a ≠ 255 → ∀ e, e < 128 →
    o.vec.get? e = some (loWord (atLane s gid false (F.a + e / s.widthOf gid) (e % s.widthOf gid)))

/-- The record of TRSV (R277, R295). -/
structure Reserved (r : DWord) (soff sstr : Word) (mod : BitVec 7) : Prop where
  soff : r.extractLsb' 32 32 = soff
  sstr : r.extractLsb' 16 16 = sstr.extractLsb' 0 16
  v : r.getLsbD 15 = true
  fmt : r.extractLsb' 8 4 = mod.extractLsb' 3 4
  role : r.getLsbD 7 = mod.getLsbD 2
  blk : r.extractLsb' 5 2 = mod.extractLsb' 0 2
  zero : r.extractLsb' 12 3 = 0 ∧ r.extractLsb' 0 5 = 0

end Sys2Proof.Claims

/-- R282, R283, R295: each of the twelve matrix instructions that meets no fault enters its group's queue, last, with what it read at issue, once for each
group; TRSV writes its tile's record and TREL clears V at issue; no tile, accumulator or scratchpad byte changes yet.
The model's reading where the rules leave it open: log entry 50. -/
def Obligations.MatrixQueue : Prop :=
  ∀ (i : Instr) (F : Fields) (s : State), i.wf = true → i.fields? = some F → F.maj ∈ [0x23, 0x24, 0x25] →
    (∀ gid, s.widthOf gid ∈ [16, 32, 64]) → Calm s F (if F.maj = 0x23 ∧ F.mn = 0 then State.noFault else s.matFault F) →
    (∀ tid ∈ s.guarded F, s.accShadow F tid = none) →
    ∃ t, exec i s = .next t ∧ { t with threads := s.threads, groups := s.groups } = s ∧ Claims.WentOn s t ∧
      ∀ gid g, s.groups.get? gid = some g → ∃ g', t.groups.get? gid = some g' ∧ { g' with mqueue := g.mqueue, tileRecs := g.tileRecs } = g ∧
        ((∀ tid ∈ s.guarded F, gidOf tid ≠ gid) → g' = g) ∧
        ((∃ tid ∈ s.guarded F, gidOf tid = gid) → (∃ o, g'.mqueue = g.mqueue ++ [o] ∧ Claims.Queued s gid F o) ∧
          (∀ k, k ≠ F.d ∨ F.maj ≠ 0x23 ∨ 2 ≤ F.mn → g'.tileRec k = g.tileRec k) ∧
          (F.maj = 0x23 → F.mn = 0 → Claims.Reserved (g'.tileRec F.d) (g.sreg F.a) (if F.a = 127 then 0 else g.sreg (F.a + 1)) F.mod) ∧
          (F.maj = 0x23 → F.mn = 1 → g'.tileRec F.d = g.tileRec F.d &&& ~~~(0x8000 : DWord)))

namespace Sys2Proof.Claims

/-- Byte `b` of tile `t`, element `e` of accumulator `a` in row order (R274, R275). -/
def tileByte (g : Group) (t b : Nat) : Byte := g.tiles.getD (4096 * t + b) 0
def accElem (g : Group) (a e : Nat) : Word := g.accs.getD (4096 * a + e) 0

/-- The scratchpad address of logical word `w` of row `r` of tile `i` of rows of `nw` words (R279). -/
def rowWord (base word : Word) (i nw r w : Nat) : Word :=
  base + BitVec.ofNat 32 (i * (word.extractLsb' 16 12).toNat * 256 + r * (word.extractLsb' 0 16).toNat
    + 4 * ((w + r * (word.extractLsb' 28 4).toNat) % nw))

/-- Byte `k` from a scratchpad address of a group (R135). -/
def padByte (s : State) (gid : Nat) (a : Word) (n k : Nat) : Byte :=
  match s.checkSpad gid a n 0 .read with
  | .ok p => (s.team p.1).spad.getD (p.2 + k) 0
  | .error _ => 0
def padOk (s : State) (gid : Nat) (a : Word) (n : Nat) : Prop := ∃ p, s.checkSpad gid a n 0 .read = .ok p

/-- The words of a row of a tile of a record (R275). -/
def rowWords (r : DWord) : Nat := if r.extractLsb' 8 4 = 10 then 12 else 16

/-- Tile `d` of `g'` holds tile `i` of a descriptor, its other bytes and every other tile are those of `g` (R296). -/
def Filled (s : State) (gid : Nat) (g g' : Group) (d : Nat) (r : DWord) (base word : Word) (i : Nat) : Prop :=
  let nw := rowWords r
  (∀ row w k, row < 64 → w < nw → k < 4 → tileByte g' d (4 * (nw * row + w) + k) = padByte s gid (rowWord base word i nw row w) 4 k) ∧
  ∀ b, b < 4096 * d ∨ 4096 * d + 256 * nw ≤ b → g'.tiles.getD b 0 = g.tiles.getD b 0

/-- The oldest operation of group `gid` is performed: it leaves the queue, and only its group, registers of its threads and scratchpads
may differ from `u`, the state in which the group's earlier stores to scratchpad have been performed (R265, R284). -/
structure Performs (s t : State) (gid : Nat) (rest : List MatOp) (u : State) : Prop where
  exec : Machine.exec .matrixOpComplete s = .next t
  frame : { t with threads := s.threads, groups := s.groups, teams := u.teams } = { u with groups := s.groups }
  others : ∀ k, k ≠ gid → t.groups.get? k = s.groups.get? k
  left : (t.group gid).mqueue = rest

/-- Nothing of the group differs but what a matrix operation writes, and what its shadow has to take; its threads and every scratchpad are as they were. -/
def OnlyMatrix (t : State) (gid : Nat) (u : State) : Prop :=
  t.threads = u.threads ∧ t.teams = u.teams ∧
  { t.group gid with tiles := (u.group gid).tiles, accs := (u.group gid).accs, mflags := (u.group gid).mflags, mqueue := (u.group gid).mqueue,
                     shadow := (u.group gid).shadow } = u.group gid

/-- The oldest operation is `o`, of major and minor `maj`, `mn`. -/
structure Oldest (s : State) (gid : Nat) (g : Group) (o : MatOp) (rest : List MatOp) (maj mn : Nat) : Prop where
  listed : s.groups.get? gid = some g
  queue : g.mqueue = o :: rest
  subject : s.subject = .group gid
  width : s.widthOf gid ∈ [16, 32, 64]
  maj : o.f.maj = maj
  mn : o.f.mn = mn

end Sys2Proof.Claims

/-- R283, R295, R296, R299, R300: MATRIX_OP_COMPLETE performs the oldest operation of its group. TRSV zeroes its tile, TREL changes nothing; TLD fills it through
its descriptor; TLDV writes one row for each 16 lanes and TXV reads them, words 12 to 15 of a T6 row discarded and read as zero; ACCZ
zeroes, ACCMV copies; ACCLD and ACCST move a pair of rows between an accumulator and lanes. -/
def Obligations.MatrixMoves : Prop :=
  ∀ (s : State) (gid : Nat) (g : Group) (o : MatOp) (rest : List MatOp), let u := s.drainSpad gid
    let w := s.widthOf gid
    let F := o.f
    let r := o.recs.getD 0 0
    let nw := Claims.rowWords r
    let q := (o.scal.getD 0 0).toNat % 64
    let first := q - q % (w / 16)
    let pair := q - q % 2
    (∀ mn, mn < 2 → Claims.Oldest s gid g o rest 0x23 mn → ∃ t, Claims.Performs s t gid rest u ∧ Claims.OnlyMatrix t gid u ∧
      (t.group gid).accs = g.accs ∧ (t.group gid).mflags = g.mflags ∧ (mn = 1 → (t.group gid).tiles = g.tiles) ∧
      (mn = 0 → (∀ b, b < 4096 → Claims.tileByte (t.group gid) F.d b = 0) ∧
        ∀ b, b < 4096 * F.d ∨ 4096 * F.d + 4096 ≤ b → (t.group gid).tiles.getD b 0 = g.tiles.getD b 0)) ∧
    (Claims.Oldest s gid g o rest 0x23 2 →
      (∀ row k, row < 64 → k < nw → Claims.padOk u gid (Claims.rowWord (o.scal.getD 0 0) (o.scal.getD 1 0) (F.x.extractLsb' 0 8).toNat nw row k) 4) →
      ∃ t, Claims.Performs s t gid rest u ∧ Claims.OnlyMatrix t gid u ∧ (t.group gid).accs = g.accs ∧ (t.group gid).mflags = g.mflags ∧
        Claims.Filled u gid g (t.group gid) F.d r (o.scal.getD 0 0) (o.scal.getD 1 0) (F.x.extractLsb' 0 8).toNat) ∧
    (Claims.Oldest s gid g o rest 0x23 3 → ∃ t, Claims.Performs s t gid rest u ∧ Claims.OnlyMatrix t gid u ∧
      (t.group gid).accs = g.accs ∧ (t.group gid).mflags = g.mflags ∧
      (∀ l k, l < w → l % 16 < nw → k < 4 → Claims.tileByte (t.group gid) F.d (4 * (nw * (first + l / 16) + l % 16) + k) =
        (o.vec.getD l 0).extractLsb' (8 * k) 8) ∧
      ∀ b, b < 4096 * F.d + 4 * nw * first ∨ 4096 * F.d + 4 * nw * (first + w / 16) ≤ b → (t.group gid).tiles.getD b 0 = g.tiles.getD b 0) ∧
    (Claims.Oldest s gid g o rest 0x23 4 → ∃ t, Claims.Performs s t gid rest u ∧ t.teams = u.teams ∧
      { t.group gid with mqueue := g.mqueue, spec := g.spec } = u.group gid ∧ (g.spec = none → (t.group gid).spec = none) ∧
      ∀ tid x, s.threads.get? tid = some x → ∃ y, t.threads.get? tid = some y ∧ { y with regs := x.regs } = x ∧
        (gidOf tid ≠ gid ∨ x.life = .exited → y = x) ∧
        (gidOf tid = gid → x.life ≠ .exited → laneOf tid < w → (∀ n, n ≠ F.d → y.reg n = x.reg n) ∧ (F.d ≠ 255 →
          let b (k : Nat) : Byte := Claims.tileByte g F.a (4 * (nw * (first + laneOf tid / 16) + laneOf tid % 16) + k)
          y.reg F.d = if laneOf tid % 16 < nw then b 3 ++ b 2 ++ b 1 ++ b 0 else 0))) ∧
    (∀ mn, mn = 0 ∨ mn = 4 → Claims.Oldest s gid g o rest 0x25 mn → ∃ t, Claims.Performs s t gid rest u ∧ Claims.OnlyMatrix t gid u ∧
      (t.group gid).tiles = g.tiles ∧ (t.group gid).mflags = g.mflags ∧
      (∀ e, e < 4096 → Claims.accElem (t.group gid) F.d e = if mn = 0 then 0 else Claims.accElem g F.a e) ∧
      ∀ e, e < 4096 * F.d ∨ 4096 * F.d + 4096 ≤ e → (t.group gid).accs.getD e 0 = g.accs.getD e 0) ∧
    (Claims.Oldest s gid g o rest 0x25 1 → ∃ t, Claims.Performs s t gid rest u ∧ Claims.OnlyMatrix t gid u ∧
      (t.group gid).tiles = g.tiles ∧ (t.group gid).mflags = g.mflags ∧
      (∀ e, e < 128 → Claims.accElem (t.group gid) F.d (64 * pair + e) = o.vec.getD e 0) ∧
      ∀ e, e < 4096 * F.d + 64 * pair ∨ 4096 * F.d + 64 * pair + 128 ≤ e → (t.group gid).accs.getD e 0 = g.accs.getD e 0) ∧
    (Claims.Oldest s gid g o rest 0x25 2 → F.d + 128 / w ≤ 255 → ∃ t, Claims.Performs s t gid rest u ∧ t.teams = u.teams ∧
      { t.group gid with mqueue := g.mqueue, spec := g.spec } = u.group gid ∧ (g.spec = none → (t.group gid).spec = none) ∧
      ∀ tid x, s.threads.get? tid = some x → ∃ y, t.threads.get? tid = some y ∧ { y with regs := x.regs } = x ∧
        (gidOf tid ≠ gid ∨ x.life = .exited → y = x) ∧
        (gidOf tid = gid → x.life ≠ .exited → laneOf tid < w → (∀ n, n < F.d ∨ F.d + 128 / w ≤ n → y.reg n = x.reg n) ∧
          ∀ j, j < 128 / w → y.reg (F.d + j) = Claims.accElem g F.a (64 * pair + w * j + laneOf tid)))

namespace Sys2Proof.Claims

/-- The elements of a row of a format (R275). -/
def rowLen (ty : Nat) : Nat := if ty = 4 then 16 else if ty = 5 ∨ ty = 6 then 32 else 64

/-- Element `k` of row `r` of a tile of a record, decoded exactly (R30, R37, R41, R275), under its block scale (R44, R278). -/
def element (s : State) (gid : Nat) (g : Group) (t : Nat) (rec_ : DWord) (r k : Nat) : Machine.Num :=
  let ty := (rec_.extractLsb' 8 4).toNat
  let b (j : Nat) : Nat := (tileByte g t (4 * rowWords rec_ * r + j)).toNat
  let x : Machine.Num := match ty with
    | 4 => Fmt.f32.decode false (b (4 * k) + 2 ^ 8 * b (4 * k + 1) + 2 ^ 16 * b (4 * k + 2) + 2 ^ 24 * b (4 * k + 3))
    | 5 => Fmt.f16.decode false (b (2 * k) + 2 ^ 8 * b (2 * k + 1))
    | 6 => Fmt.bf16.decode false (b (2 * k) + 2 ^ 8 * b (2 * k + 1))
    | 9 => tapValue 8 (b k)
    | _ => let j := 3 * (k / 4); tapValue 6 ((b j + 2 ^ 8 * b (j + 1) + 2 ^ 16 * b (j + 2)) / 2 ^ (6 * (k % 4)) % 64)
  let blk := (rec_.extractLsb' 5 2).toNat
  if blk = 0 then x
  else
    let sc := padByte s gid (rec_.extractLsb' 32 32 + BitVec.ofNat 32 (r * (rec_.extractLsb' 16 16).toNat + k / (8 * 2 ^ blk))) 1 0
    if sc = 0x80 then .nan false else x.scale sc.toInt

/-- The group length of an MMA of two records, and of an MMAK of one (R288, R291). -/
def sumLen (ty : Nat) : Nat := if ty = 4 then 4 else if ty = 5 ∨ ty = 6 then 16 else 32
def mmaGroup (ra rb : DWord) : Nat :=
  let len (r : DWord) : Nat := 8 * 2 ^ (r.extractLsb' 5 2).toNat
  if (ra.extractLsb' 8 4).toNat < 9 then sumLen (ra.extractLsb' 8 4).toNat
  else if ra.extractLsb' 5 2 = 0 then (if rb.extractLsb' 5 2 = 0 then 32 else len rb)
  else if rb.extractLsb' 5 2 = 0 then len ra else min (len ra) (len rb)

/-- Group results added to an element in order, each addition rounded to nearest-even, with the flags of all (R288): the order of sums that the
end state of R290's example shows. -/
def addUp (x : Word) (xs : List (Nat × Flags)) : Word × Flags :=
  xs.foldl (fun p y => let q := joinFloat 0 false p.1.toNat y.1; (BitVec.ofNat 32 q.1, p.2 ||| y.2 ||| q.2)) (x, 0)

/-- The scale bytes of a scaled tile lie in scratchpad (R278, R297). -/
def scalesOk (s : State) (gid : Nat) (r : DWord) : Prop :=
  let blk := (r.extractLsb' 5 2).toNat
  blk ≠ 0 → ∀ row j, row < 64 → j < rowLen (r.extractLsb' 8 4).toNat / (8 * 2 ^ blk) →
    padOk s gid (r.extractLsb' 32 32 + BitVec.ofNat 32 (row * (r.extractLsb' 16 16).toNat + j)) 1

/-- A record that TRSV can have written (R275, R293): a format of the table, a block length only with T8 and T6. -/
def formatOk (r : DWord) : Prop :=
  (r.extractLsb' 8 4).toNat ∈ [4, 5, 6, 9, 10] ∧ ((r.extractLsb' 8 4).toNat < 9 → r.extractLsb' 5 2 = 0)

/-- The named indices of element (i, j) of MMAK's R, in ascending order, and whether R covers it (R291). -/
def named (kind : Nat) (right : Bool) (n : Int) (p : Nat → Nat) (k i j : Nat) : List Nat :=
  let sum := if right then k else 64
  let me := if right then j else i
  match kind with
  | 0 => if me < sum then [me] else []
  | 1 => if p me < sum then [p me] else []
  | 2 => List.range sum
  | _ => let x : Int := if right then (j : Int) - n else (i : Int) + n; if 0 ≤ x ∧ x < sum then [x.toNat] else []

end Sys2Proof.Claims

/-- R290: the order of sums: 2^24 with two group results 1.0 stays 2^24 with NX, 0 with 9.75 and +0 is 9.75 exactly, and a group of an unscaled
T8 tile with one of blocks of 32 has 32 products. R288, R289: one group of finite products is their exact sum rounded once, +0 or −0 where it is zero; NaNs, 0 × ∞ and infinite products of both signs
give the canonical NaN, infinite products of one sign that infinity. R288, R297: MMA adds to every element of D its groups in order, of tiles that its streams fill first.
R291, R298: MMAK likewise, of the terms its kind and side name. R279, R301: ACCSP writes every element of A, as f32, as bf16, or as T8
codes under a scale chosen by block, to words and scale bytes that do not overlap.
The model's reading where the rules leave it open: log entry 106. -/
def Obligations.MatrixProducts : Prop :=
  (Claims.addUp 0x4B800000 [(0x3F800000, 0), (0x3F800000, 0)] = (0x4B800000, 0x10) ∧
    Claims.addUp 0 [(0x411C0000, 0), (0, 0)] = (0x411C0000, 0) ∧
    ∀ ra rb : DWord, ra.extractLsb' 8 4 = 9 → rb.extractLsb' 8 4 = 9 → ra.extractLsb' 5 2 = 0 → rb.extractLsb' 5 2 = 2 → mmaLen ra rb = 32) ∧
  (∀ (as bs : List Machine.Num), as.length = bs.length →
    let ps := as.zip bs
    ((∀ p ∈ ps, ∃ s m e s' m' e', p = (.fin s m e, .fin s' m' e')) →
      ∃ (n e : Int), (∀ p ∈ ps, ∀ s m f s' m' f', p = (.fin s m f, .fin s' m' f') → e ≤ f + f') ∧
        n = (ps.map (fun p => match p with
          | (.fin s m f, .fin s' m' f') => (if s != s' then -1 else 1) * ((m * m' * 2 ^ (f + f' - e).toNat : Nat) : Int)
          | _ => 0)).sum ∧
        (n ≠ 0 → productSum as bs = Claims.toF32 n e) ∧
        (n = 0 → productSum as bs = (if ps ≠ [] ∧ ps.all (fun p => p.1.neg != p.2.neg && (p.1.isZero || p.2.isZero)) then 0x80000000 else 0, 0))) ∧
    (as.any Machine.Num.isNan || bs.any Machine.Num.isNan → (productSum as bs).1 = 0x7FC00000 ∧
      ((as.any Machine.Num.isSig || bs.any Machine.Num.isSig) = true → (productSum as bs).2 = 0x01)) ∧
    (((∃ p ∈ ps, (p.1.isZero ∧ p.2.isInf) ∨ (p.1.isInf ∧ p.2.isZero)) → productSum as bs = (0x7FC00000, 0x01)) ∧
      let infinite (s : Bool) : Prop := ∃ p ∈ ps, (p.1.isInf ∨ p.2.isInf) ∧ (p.1.neg != p.2.neg) = s
      (∀ p ∈ ps, ¬ ((p.1.isZero ∧ p.2.isInf) ∨ (p.1.isInf ∧ p.2.isZero))) → (as ++ bs).any Machine.Num.isNan = false →
        (infinite true → infinite false → productSum as bs = (0x7FC00000, 0x01)) ∧
        (infinite false → ¬ infinite true → productSum as bs = (0x7F800000, 0)) ∧
        (infinite true → ¬ infinite false → productSum as bs = (0xFF800000, 0)))) ∧
  (∀ (s : State) (gid : Nat) (g : Group) (o : MatOp) (rest : List MatOp), Claims.Oldest s gid g o rest 0x24 0 →
    let u := s.drainSpad gid
    let F := o.f
    let ra := o.recs.getD 0 0
    let rb := o.recs.getD 1 0
    let sc (k : Nat) : Word := o.scal.getD k 0
    let ia := (F.x.extractLsb' 16 8).toNat
    let ib := (F.x.extractLsb' 24 8).toNat
    let sa := F.mod.getLsbD 0
    let sb := F.mod.getLsbD 1
    let k := Claims.rowLen (ra.extractLsb' 8 4).toNat
    let G := Claims.mmaGroup ra rb
    Claims.formatOk ra → Claims.formatOk rb → k = Claims.rowLen (rb.extractLsb' 8 4).toNat →
    (sa = true → ∀ r w, r < 64 → w < Claims.rowWords ra → Claims.padOk u gid (Claims.rowWord (sc 0) (sc 1) ia (Claims.rowWords ra) r w) 4) →
    (sb = true → ∀ r w, r < 64 → w < Claims.rowWords rb → Claims.padOk u gid (Claims.rowWord (sc 2) (sc 3) ib (Claims.rowWords rb) r w) 4) →
    Claims.scalesOk u gid ra → Claims.scalesOk u gid rb →
    ∃ t, Claims.Performs s t gid rest u ∧ Claims.OnlyMatrix t gid u ∧
      (∃ m : Group, (sa = true → Claims.Filled u gid g m F.a ra (sc 0) (sc 1) ia) ∧ (sa = false → m = g) ∧
        (sb = true → Claims.Filled u gid m (t.group gid) F.b rb (sc 2) (sc 3) ib) ∧ (sb = false → (t.group gid).tiles = m.tiles)) ∧
      (let res (i j : Nat) : Word × Flags := Claims.addUp (Claims.accElem g F.d (64 * i + j)) ((List.range (k / G)).map (fun b => productSum
          ((List.range G).map (fun x => Claims.element u gid (t.group gid) F.a ra i (b * G + x)))
          ((List.range G).map (fun x => Claims.element u gid (t.group gid) F.b rb j (b * G + x)))))
       (∀ i j, i < 64 → j < 64 → Claims.accElem (t.group gid) F.d (64 * i + j) = (res i j).1) ∧
       (∀ b, b < 5 → ((t.group gid).mflags.getLsbD b = true ↔ g.mflags.getLsbD b = true ∨ ∃ i j, i < 64 ∧ j < 64 ∧ (res i j).2.getLsbD b = true))) ∧
      ∀ e, e < 4096 * F.d ∨ 4096 * F.d + 4096 ≤ e → (t.group gid).accs.getD e 0 = g.accs.getD e 0) ∧
  (∀ (s : State) (gid : Nat) (g : Group) (o : MatOp) (rest : List MatOp), Claims.Oldest s gid g o rest 0x24 1 →
    let u := s.drainSpad gid
    let F := o.f
    let r := o.recs.getD 0 0
    let k := Claims.rowLen (r.extractLsb' 8 4).toNat
    let G := Claims.sumLen (r.extractLsb' 8 4).toNat
    let right := F.mod.getLsbD 2
    let p (i : Nat) : Nat := ((o.vec.getD (i / 4) 0).extractLsb' (8 * (i % 4)) 6).toNat
    let named := Claims.named (F.mod.extractLsb' 0 2).toNat right F.x.toInt p k
    Claims.formatOk r → Claims.scalesOk u gid r →
    ∃ t, Claims.Performs s t gid rest u ∧ Claims.OnlyMatrix t gid u ∧ (t.group gid).tiles = g.tiles ∧
      (let one : Machine.Num := .fin false 1 0
       let part (i j b : Nat) : List Machine.Num := ((named i j).filter (fun x => x / G == b)).map (fun x =>
          if right then Claims.element u gid g F.a r i x else Claims.element u gid g F.a r x j)
       let res (i j e : Nat) : Word × Flags :=
          if right = true ∨ j < k then Claims.addUp (Claims.accElem g F.d e) ((List.range ((if right then k else 64) / G)).map (fun b =>
            productSum (part i j b) ((part i j b).map (fun _ => one)))) else (Claims.accElem g F.d e, 0)
       let at_ (i j : Nat) : Nat := if F.mod.getLsbD 3 then 64 * j + i else 64 * i + j
       (∀ i j, i < 64 → j < 64 → Claims.accElem (t.group gid) F.d (at_ i j) = (res i j (at_ i j)).1) ∧
       (∀ b, b < 5 → ((t.group gid).mflags.getLsbD b = true ↔
          g.mflags.getLsbD b = true ∨ ∃ i j, i < 64 ∧ j < 64 ∧ (res i j (at_ i j)).2.getLsbD b = true))) ∧
      ∀ e, e < 4096 * F.d ∨ 4096 * F.d + 4096 ≤ e → (t.group gid).accs.getD e 0 = g.accs.getD e 0) ∧
  ∀ (s : State) (gid : Nat) (g : Group) (o : MatOp) (rest : List MatOp), Claims.Oldest s gid g o rest 0x25 3 →
    let u := s.drainSpad gid
    let F := o.f
    let nw := if F.ty = 4 then 64 else if F.ty = 6 then 32 else 16
    let blk := 8 * 2 ^ (F.x.extractLsb' 8 2).toNat
    let word (r w : Nat) : Word := Claims.rowWord (o.scal.getD 0 0) (o.scal.getD 1 0) (F.x.extractLsb' 0 8).toNat nw r w
    let sByte (r b : Nat) : Word := o.scal.getD 2 0 + BitVec.ofNat 32 (r * (64 / blk) + b)
    let el (r c : Nat) : Word := Claims.accElem g F.a (64 * r + c)
    let val (r c : Nat) : Machine.Num := Fmt.f32.decode false (el r c).toNat
    F.ty ∈ [4, 6, 9] → (F.ty = 9 ↔ F.x.extractLsb' 8 2 ≠ 0) →
    (∀ r w, r < 64 → w < nw → Claims.padOk u gid (word r w) 4) →
    (F.ty = 9 → ∀ r b, r < 64 → b < 64 / blk → Claims.padOk u gid (sByte r b) 1) →
    (∀ r w r' w', r < 64 → w < nw → r' < 64 → w' < nw → word r w = word r' w' → r = r' ∧ w = w') →
    (F.ty = 9 → ∀ r w r' b, r < 64 → w < nw → r' < 64 → b < 64 / blk → sByte r' b - word r w ≥ 4) →
    (∀ a p, u.checkSpad gid a 1 0 .read = .ok p → (u.teams.get? p.1).isSome) →
    (∀ a b p, u.checkSpad gid a 1 0 .read = .ok p → u.checkSpad gid b 1 0 .read = .ok p → a = b) →
    ∃ t, Claims.Performs s t gid rest u ∧ t.threads = u.threads ∧
      { t.group gid with mqueue := (u.group gid).mqueue, mflags := (u.group gid).mflags } = u.group gid ∧
      (∀ k, { t.team k with spad := (u.team k).spad } = u.team k) ∧
      (∀ a, (∀ r w, r < 64 → w < nw → a - word r w ≥ 4) → (F.ty = 9 → ∀ r b, r < 64 → b < 64 / blk → a ≠ sByte r b) →
        Claims.padByte t gid a 1 0 = Claims.padByte u gid a 1 0) ∧
      (F.ty = 4 → (t.group gid).mflags = g.mflags ∧ ∀ r c k, r < 64 → c < 64 → k < 4 →
        Claims.padByte t gid (word r c) 4 k = (el r c).extractLsb' (8 * k) 8) ∧
      (F.ty = 6 → (∀ r c k, r < 64 → c < 64 → k < 2 → Claims.padByte t gid (word r (c / 2)) 4 (2 * (c % 2) + k) =
          (BitVec.ofNat 16 ((val r c).round Fmt.bf16 ⟨.rn, false, false⟩).1).extractLsb' (8 * k) 8) ∧
        ∀ b, b < 5 → ((t.group gid).mflags.getLsbD b = true ↔ g.mflags.getLsbD b = true ∨
          ∃ r c, r < 64 ∧ c < 64 ∧ ((val r c).round Fmt.bf16 ⟨.rn, false, false⟩).2.getLsbD b = true)) ∧
      (F.ty = 9 → ∀ k, k < 5 → ((t.group gid).mflags.getLsbD k = true ↔ g.mflags.getLsbD k = true ∨
        ∃ r c, r < 64 ∧ c < 64 ∧ (∀ c', c' / blk = c / blk → (val r c').isNan = false) ∧
          (((val r c).scale (-(Claims.padByte t gid (sByte r (c / blk)) 1 0).toInt)).roundTap 8).2.getLsbD k = true) ∨
        (k = 0 ∧ ∃ r c, r < 64 ∧ c < 64 ∧ (val r c).isSig = true)) ∧
      (F.ty = 9 → ∀ r b, r < 64 → b < 64 / blk →
        let mine (c : Nat) : Prop := b * blk ≤ c ∧ c < (b + 1) * blk
        let code (c : Nat) : Byte := Claims.padByte t gid (word r (c / 4)) 4 (c % 4)
        let sc := Claims.padByte t gid (sByte r b) 1 0
        ((∃ c, mine c ∧ (val r c).isNan = true) → sc = 0x80 ∧ ∀ c, mine c → code c = 0x80) ∧
        ((∀ c, mine c → (val r c).isNan = false) →
          (∀ c, mine c → code c = BitVec.ofNat 8 (((val r c).scale (-sc.toInt)).roundTap 8).1) ∧
          ((∀ c, mine c → (val r c).isZero = true ∨ (val r c).isInf = true) → sc = 0) ∧
          ∀ c n m e, mine c → val r c = .fin n m e → m ≠ 0 →
            (∀ c' n' m' e', mine c' → val r c' = .fin n' m' e' → m' ≠ 0 → e' + Nat.log2 m' ≤ e + Nat.log2 m) →
            sc.toInt = max (-127) (min 127 (e + Nat.log2 m))))

/-! Queues, node records and the counters of a group (18 R336 to R342). -/

namespace Sys2Proof.Claims

/-- An encoded instruction whose guarded threads are all of group `gid` and meet no fault of `own`. -/
structure Alone (s : State) (i : Instr) (F : Fields) (gid : Nat) (g : Group) (own : Nat → Option Flt) : Prop where
  wf : i.wf = true
  fields : i.fields? = some F
  calm : Calm s F own
  nodup : s.issue.threads.Nodup
  mine : ∀ tid ∈ s.guarded F, gidOf tid = gid
  acts : s.guarded F ≠ []
  listed : s.groups.get? gid = some g

/-- The command of a PUSH (R306, R337): sixteen scalars from sA, its handle, and what the group gives it. -/
structure PushedBy (s : State) (F : Fields) (gid : Nat) (g : Group) (c : Command) : Prop where
  words : c.words = (List.range 16).map (fun k => g.sreg (F.a + k))
  queue : c.queue = if F.xb then F.x.toNat else (g.sreg F.b).toNat
  ctx : c.ctx = s.ctxOf gid
  pusher : c.pusher = some gid
  depth : c.depth = (s.launchOf gid).depth + 1
  die : c.die = if g.core < 384 then g.core / 96 else g.core - 384
  kernel : c.kernel = false
  pin : c.pin = none
  entry : c.entry = (s.context (s.ctxOf gid)).queues.getD c.queue 0
  resets : c.resets = (s.context (s.ctxOf gid)).resets

/-- The umbra entries a command reserves (R307, R315): a scratchpad range takes none. -/
def umbraOf (c : Command) : Nat :=
  let bit (k : Nat) : Nat := if (c.word 0).getLsbD (16 + k) then 0 else 1
  match ((c.word 0).extractLsb' 24 8).toNat with
  | 2 => bit 1 + bit 2
  | 3 => bit 2
  | 4 => 2
  | 5 => 2
  | 6 => 2
  | 7 => 3
  | _ => 0

/-- QR (R337): 0, or the first reason that refuses the command in state `u`. -/
def refusal (u : State) (c : Command) : Nat :=
  let type := ((c.word 0).extractLsb' 24 8).toNat
  let node := ((c.word 0).extractLsb' 0 16).toNat
  let held := (u.commands.filter (fun e => e.2.ctx == c.ctx && e.2.queue == c.queue && (e.2.word 0).extractLsb' 0 16 == 0 &&
    (match e.2.state with | .waiting => true | .ready _ => true | _ => false))).length
  if node = 0 ∧ 32 ≤ held then 1
  else if type = 1 ∧ 4096 ≤ (u.context c.ctx).pool then 2
  else if type = 1 ∧ (u.ctxlim.getD c.ctx 24).toNat < c.depth then 3
  else if 256 < (u.die c.die).umbra.length + umbraOf c then 4
  else 0

/-- Command number `k` of state `t` is `c`, accepted in state `u` (R313, R318, R328): in the pool, its umbra entries reserved and not armed, counted,
and ready at once unless its node record waits for predecessors. -/
structure Accepted (u t : State) (gid k : Nat) (c : Command) (x : Context) : Prop where
  number : k = u.nextCommand ∧ t.nextCommand = k + 1
  others : ∀ j, j ≠ k → t.commands.get? j = u.commands.get? j
  pool : ∃ y, t.contexts.get? c.ctx = some y ∧ { y with pool := x.pool, nodes := x.nodes } = x ∧
    y.pool = x.pool + (if (c.word 0).extractLsb' 24 8 = 1 then 1 else 0)
  contexts : ∀ j, j ≠ c.ctx → t.contexts.get? j = u.contexts.get? j
  umbra : (t.die c.die).umbra = (u.die c.die).umbra ++ List.replicate (umbraOf c) ⟨k, c.ctx, 0, 0, 0, false, false⟩
  dies : ∀ d, { t.die d with umbra := (u.die d).umbra } = u.die d ∧ (d ≠ c.die → t.die d = u.die d)
  copies : (t.group gid).copies = (u.group gid).copies + (if (c.word 1).getLsbD 20 then 1 else 0)
  plain : (c.word 0).extractLsb' 0 16 = 0 → t.commands.get? k = some { c with state := .ready u.nextReady } ∧ t.nextReady = u.nextReady + 1 ∧
    ∀ n, t.node c.ctx n = u.node c.ctx n
  node : ∀ n, n = ((c.word 0).extractLsb' 0 16).toNat → n ≠ 0 →
    let v := u.node c.ctx n
    let m := v.count + (((c.word 1).extractLsb' 0 16).toNat : Int)
    t.node c.ctx n = { v with count := m, cmd := some k } ∧ (∀ j, j ≠ n → t.node c.ctx j = u.node c.ctx j) ∧
    (0 < m → t.commands.get? k = some { c with state := .waiting }) ∧
    (m ≤ 0 → v.cancel = false → t.commands.get? k = some { c with state := .ready u.nextReady })

/-- The state of a node record as GNODE.q reads it (R342). -/
def nodeState (s : State) (ctx n : Nat) : Nat :=
  match (s.node ctx n).cmd with
  | none => if (s.node ctx n).count = 0 then 0 else 1
  | some k => match s.commands.get? k with
    | some c => (match c.state with | .waiting => 2 | .ready _ => 3 | _ => 4)
    | none => 2

/-- A limit of WAITC by counter: loads, stores, copies, tile (R336). -/
def limit (x : Word) (k : Nat) : Nat := (x >>> (18 - 6 * k) &&& 63).toNat

end Sys2Proof.Claims

/-- R336 to R342: PUSH publishes at dev whether or not the command is accepted, sets QR with the handle and pD, and either accepts the command or
leaves no other trace. QSTAT reads QR, GNODE.q a node record. GNODE.sig publishes and lowers a count by 1, which releases a waiting
command at 0 or below. TRIGGER publishes and marks its group; the last group of a launch triggers it. WAITC goes on where every
counter with a limit is within it, after an acquire at dev for a copies limit and with the matrix flags merged for a tile limit; else
its threads wait. The model's reading where the rules leave it open: log entries 48 and 79. -/
def Obligations.QueueInstructions : Prop :=
  (∀ (i : Instr) (F : Fields) (s : State) (gid : Nat) (g : Group) (x : Context), Claims.Alone s i F gid g (s.pushFault F) → F.maj = 0x30 →
    F.mn = 0 → s.contexts.get? (s.ctxOf gid) = some x →
    let u := s.publish gid 3
    ∃ t c, exec i s = .next t ∧ Claims.PushedBy s F gid g c ∧
      { t with threads := u.threads, groups := u.groups, commands := u.commands, contexts := u.contexts, dies := u.dies,
               nextCommand := u.nextCommand, nextReady := u.nextReady } = u ∧
      (∀ tid z, Passes s F tid z → t.threads.get? tid = some (goesOn s z)) ∧
      (∀ tid, tid ∉ s.issue.threads → t.threads.get? tid = s.threads.get? tid) ∧
      (∀ tid z, Acts s F tid z → ∃ y, t.threads.get? tid = some y ∧ WrotePred s z y F.d (Claims.refusal u c == 0)) ∧
      (∀ k, k ≠ gid → t.groups.get? k = u.groups.get? k) ∧ { t.group gid with qr := (u.group gid).qr, copies := (u.group gid).copies } = u.group gid ∧
      (t.group gid).qr = BitVec.ofNat 32 (c.queue * 256 + Claims.refusal u c) ∧
      (Claims.refusal u c ≠ 0 → (t.group gid).copies = (u.group gid).copies ∧ { t with threads := u.threads, groups := u.groups } = u) ∧
      (Claims.refusal u c = 0 → ∃ k, Claims.Accepted u t gid k c x)) ∧
  (∀ (i : Instr) (F : Fields) (s : State), i.wf = true → i.fields? = some F → F.maj = 0x30 → F.mn = 2 → Calm s F State.noFault →
    ∃ t, exec i s = .next t ∧ Claims.GroupResult s t F (fun _ => false) (fun gid => (s.group gid).qr.setWidth 64)) ∧
  (∀ (i : Instr) (F : Fields) (s : State), i.wf = true → i.fields? = some F → F.maj = 0x30 → F.mn = 4 → F.mod.getLsbD 0 = false →
    let n (gid : Nat) : Nat := if F.xb then F.x.toNat else ((s.group gid).sreg F.b).toNat
    Calm s F State.noFault → (∀ tid ∈ s.guarded F, n (gidOf tid) < 65536) →
    ∃ t, exec i s = .next t ∧ Claims.GroupResult s t F (fun _ => false) (fun gid => if n gid = 0 then 0 else
      (BitVec.ofNat 3 (Claims.nodeState s (s.ctxOf gid) (n gid)) ++ (0 : BitVec 13)
        ++ BitVec.ofInt 16 (s.node (s.ctxOf gid) (n gid)).count : Word).setWidth 64)) ∧
  (∀ (i : Instr) (F : Fields) (s : State) (gid : Nat) (g : Group) (x : Context), Claims.Alone s i F gid g State.noFault → F.maj = 0x30 →
    F.mn = 4 → F.mod.getLsbD 0 = true → s.contexts.get? (s.ctxOf gid) = some x →
    let n := if F.xb then F.x.toNat else (g.sreg F.b).toNat
    let u := s.publish gid 3
    let v := u.node (s.ctxOf gid) n
    n < 65536 → ∃ t, exec i s = .next t ∧ Claims.WentOn s t ∧
      { t with threads := u.threads, contexts := u.contexts, commands := u.commands, nextReady := u.nextReady } = u ∧
      (n = 0 → { t with threads := u.threads } = u) ∧
      (n ≠ 0 → t.node (s.ctxOf gid) n = { v with count := v.count - 1 } ∧ (∀ m, m ≠ n → t.node (s.ctxOf gid) m = u.node (s.ctxOf gid) m) ∧
        (∀ k, v.cmd ≠ some k → t.commands.get? k = u.commands.get? k) ∧
        ∀ k c, v.cmd = some k → s.commands.get? k = some c → t.commands.get? k =
          some (if v.count - 1 ≤ 0 ∧ c.state = .waiting then { c with state := if v.cancel then .moved 3 0 else .ready u.nextReady } else c))) ∧
  (∀ (i : Instr) (F : Fields) (s : State) (gid : Nat) (g : Group) (la : Launch), Claims.Alone s i F gid g State.noFault → F.maj = 0x30 →
    F.mn = 3 → s.launches.get? (s.teamAt gid).launch = some la →
    let u := s.publish gid 3
    let l := (s.teamAt gid).launch
    let done (k : Nat) : Prop := k = gid ∨ (s.group k).triggered = true ∨ ∀ tid ∈ s.threadsOf k, (s.thread tid).life ≠ .running
    let all : Prop := la.teams ≤ (s.teamsOf l).length ∧ ∀ k ∈ s.teamsOf l, (s.team k).place ≠ .pending ∧ ∀ j ∈ s.groupsOf k, done j
    ∃ t, exec i s = .next t ∧ Claims.WentOn s t ∧ (t.group gid).triggered = true ∧ { t.group gid with triggered := g.triggered } = u.group gid ∧
      (∀ k, k ≠ gid → t.groups.get? k = u.groups.get? k) ∧
      (la.triggered = true ∨ ¬ all → { t with threads := u.threads, groups := u.groups } = u) ∧
      (la.triggered = false → all → ∃ lb, t.launches.get? l = some lb ∧ lb.triggered = true ∧ { lb with triggered := false, signalled := la.signalled } = la ∧
        (∀ c, s.commands.get? la.cmd = some c → (∀ j ∈ c.succs, j = 0 ∨ (s.node c.ctx j).cmd = none) →
          lb.signalled = [] ∧ { t with threads := u.threads, groups := u.groups, launches := u.launches } = u))) ∧
  ∀ (i : Instr) (F : Fields) (s : State) (gid : Nat) (g : Group), Claims.Alone s i F gid g State.noFault → F.maj = 0x30 → F.mn = 1 →
    let within := ∀ k, k < 4 → Claims.limit F.x k = 63 ∨ s.waitCount gid k ≤ Claims.limit F.x k
    let u := if Claims.limit F.x 2 = 63 then s else s.acquire gid 3
    let merge := Claims.limit F.x 3 ≠ 63
    s.waitCount gid 2 = g.copies ∧ s.waitCount gid 3 = g.mqueue.length ∧
    ∃ t, exec i s = .next t ∧ (∀ tid z, Passes s F tid z → t.threads.get? tid = some (goesOn s z)) ∧
      (∀ tid, tid ∉ s.issue.threads → t.threads.get? tid = s.threads.get? tid) ∧
      (¬ within → OnlyThreads s t ∧ ∀ tid z, Acts s F tid z → t.threads.get? tid =
        some { z with wait := .waitc F.x, after := s.issue.next, issued := true }) ∧
      (within → { t with threads := u.threads, groups := u.groups } = u ∧ (∀ k, k ≠ gid → t.groups.get? k = u.groups.get? k) ∧
        t.groups.get? gid = some (if merge then { g with mflags := 0 } else g) ∧
        ∀ tid z, Acts s F tid z → t.threads.get? tid =
          some (goesOn s (if merge then { z with fpsr := z.fpsr ||| g.mflags.setWidth 32 } else z)))

/-! Calls of services, handlers, parking and levels (20 R364 to R376). -/

namespace Sys2Proof.Claims

/-- Word `k` of the header of a reply block (R364): STATUS 0 and SEQ, zero, N, CLS and FUNC, CTX and SEQ, LANES. -/
def headWord (F : Fields) (ctx : Nat) (seq : Byte) (lanes : DWord) (k : Nat) : Word :=
  match k with
  | 0 => (0 : Byte) ++ seq ++ (0 : BitVec 16)
  | 2 => (0 : BitVec 12) ++ F.mod.extractLsb' 1 3 ++ F.mod.extractLsb' 0 1 ++ F.x.extractLsb' 0 16
  | 3 => (0 : BitVec 18) ++ BitVec.ofNat 6 ctx ++ seq
  | 4 => lanes.extractLsb' 0 32
  | 5 => lanes.extractLsb' 32 32
  | _ => 0

/-- The rule of R365 for a launch on a core: enough of its resident groups there sleep in SVC.h, each of their threads itself or in a trap
slot (R348), and not every thread there is pre-empted already or about to be. -/
def tooManySleep (s : State) (l core : Nat) : Prop :=
  let groups := s.groups.keys.filter (fun g => decide ((s.group g).core = core ∧ (s.teamAt g).launch = l ∧ (s.teamAt g).place = .resident ∧
    (s.teamAt g).ending = none) && (s.threadsOf g).any (fun t => decide ((s.thread t).life ≠ .exited)))
  let sleeper (x : Thread) : Bool := decide (x.wait = .svc) ||
    [x.slotF, x.slotP, x.slotS].any (fun k => match k with | some k => decide (k.wait = .svc) && !k.ended | none => false)
  let z := (groups.filter (fun g => (s.presentOf g).all (fun t => sleeper (s.thread t)))).length
  let thr := (s.svcthr.getD (s.launch l).ctx 128).toNat
  thr ≠ 0 ∧ groups ≠ [] ∧ thr * groups.length ≤ 256 * z ∧
    ∃ g ∈ groups, (s.group g).preempt = false ∧ ∃ t ∈ s.presentOf g, (s.thread t).slotP = none ∧ (s.thread t).defPark = false

end Sys2Proof.Claims

/-- R364, R365, R371: SVC of one group whose checks pass: SEQ is one more; the header and the arguments of each participant stand in the reply block, whose
bytes follow every earlier store of the group home; the batch is the die's last. Of class d the participants go on; of class h they
sleep, and the launch is pre-empted on the core at once when the rule of R365 holds. R373: THSET. R375: PARK. R376: PRIO.
No error is armed or stored that the read of the reply word could meet. The model's reading where the rules leave it open: log entries 5, 43 and 63. -/
def Obligations.ServiceInstructions : Prop :=
  (∀ (i : Instr) (F : Fields) (s : State) (gid b : Nat) (g : Group), Claims.Alone s i F gid g (s.svcFault F) → F.maj = 0x38 → F.mn = 0 →
    let n := (F.mod.extractLsb' 1 3).toNat
    let sleeps := F.mod.getLsbD 0
    let len := 64 + 16 * s.widthOf gid
    let u := s.publish gid 3
    (n = 0 → F.a = 0) → n ≤ 4 → s.widthOf gid ∈ [16, 32, 64] → s.ctxOf gid < 64 →
    s.flkCtl.getLsbD 31 = false → s.poison = [] → s.badLines = [] →
    (s.domain (s.domOf gid)).overlay.keys.Pairwise (· < ·) → s.pieces (s.ctxOf gid) g.reply len = [(.home b, len)] → offOf g.reply + len < 2 ^ 44 →
    (∀ tid ∈ s.guarded F, laneOf tid < s.widthOf gid ∧ (s.threads.get? tid).isSome) →
    ∃ t bt lanes, exec i s = .next t ∧
      { t with threads := u.threads, groups := u.groups, hbm := u.hbm, domains := u.domains, poison := u.poison,
               dies := u.dies, agenda := u.agenda, mirrors := u.mirrors, used := u.used } = u ∧
      (∀ l, l < 64 → (lanes.getLsbD l = true ↔ ∃ tid ∈ s.guarded F, laneOf tid = l)) ∧
      (∀ k, k ≠ gid → t.groups.get? k = u.groups.get? k) ∧
      t.groups.get? gid = some { u.group gid with seq := g.seq + 1, called := true } ∧
      (∀ k, k < 64 → t.homeByte (b + k) = (Claims.headWord F (s.ctxOf gid) (g.seq + 1) lanes (k / 4)).extractLsb' (8 * (k % 4)) 8) ∧
      (∀ tid ∈ s.guarded F, ∀ k, k < 4 * n → t.homeByte (b + 64 + 16 * laneOf tid + k) =
        ((s.thread tid).reg (F.a + k / 4)).extractLsb' (8 * (k % 4)) 8) ∧
      (∀ a, a < b ∨ (b + 64 ≤ a ∧ ∀ tid ∈ s.guarded F, a < b + 64 + 16 * laneOf tid ∨ b + 64 + 16 * laneOf tid + 4 * n ≤ a) →
        t.homeByte a = u.homeByte a) ∧
      (∀ d, (t.domain d).overlay = (u.domain d).overlay ∧ (d ≠ s.domOf gid → t.domain d = u.domain d)) ∧
      (let d := if g.core < 384 then g.core / 96 else g.core - 384
       (∀ k, k ≠ d → t.die k = u.die k) ∧ t.die d = { u.die d with queue := (u.die d).queue ++ [bt] }) ∧
      bt = ⟨s.ctxOf gid, gid, g.reply, (F.x.extractLsb' 0 16).toNat, n, sleeps, lanes.toNat, bt.args, (s.context (s.ctxOf gid)).resets, none⟩ ∧
      (∀ ps, Claims.InOrder s F gid ps → bt.args = ps.flatMap (fun tid => (List.range n).map (fun k => (s.thread tid).reg (F.a + k)))) ∧
      (∀ tid x, Passes s F tid x → t.threads.get? tid = some (goesOn s x)) ∧ (∀ tid, tid ∉ s.issue.threads → t.threads.get? tid = s.threads.get? tid) ∧
      (sleeps = false → t.agenda = s.agenda ∧ ∀ tid x, Acts s F tid x → t.threads.get? tid = some (goesOn s x)) ∧
      (sleeps = true → (∀ tid x, Acts s F tid x → t.threads.get? tid =
          some { x with wait := .svc, after := s.issue.next, issued := true }) ∧
        (Claims.tooManySleep t (s.teamAt gid).launch g.core → t.agenda = .event .preemptRequest (.launchOn (s.teamAt gid).launch g.core) :: s.agenda) ∧
        (¬ Claims.tooManySleep t (s.teamAt gid).launch g.core → t.agenda = s.agenda))) ∧
  (∀ (i : Instr) (F : Fields) (s : State), i.wf = true → i.fields? = some F → F.maj = 0x38 → F.mn = 1 ∨ F.mn = 4 → Calm s F State.noFault →
    ∃ t, exec i s = .next t ∧ Claims.WentOn s t ∧ { t with threads := s.threads, groups := s.groups } = s ∧
      ∀ gid g, s.groups.get? gid = some g → ∃ g', t.groups.get? gid = some g' ∧ ((∀ tid ∈ s.guarded F, gidOf tid ≠ gid) → g' = g) ∧
        ((∃ tid ∈ s.guarded F, gidOf tid = gid) →
          (F.mn = 1 → F.mod.getLsbD 0 = true → g' = { g with thnd := 0 }) ∧
          (F.mn = 1 → F.mod.getLsbD 0 = false → g' = { g with thnd := g'.thnd, thndSeg := segOf s.issue.self } ∧
            (g'.thnd.toNat : Int) = ((offOf s.issue.self : Int) + 4 * F.x.toInt) % 2 ^ 32) ∧
          (F.mn = 4 → g' = { g with level := max (if F.xb then F.x.toNat else min (g.sreg F.b).toNat 7) (s.launchOf gid).prio }))) ∧
  ∀ (i : Instr) (F : Fields) (s : State), i.wf = true → i.fields? = some F → F.maj = 0x38 → F.mn = 3 → Calm s F State.noFault →
    (∀ tid ∈ s.guarded F, (s.thread tid).slotP.isSome) →
    ∃ t p, exec i s = .next t ∧ OnlyThreads s t ∧ Claims.LandsAt s p F.x ∧
      (∀ tid x, Passes s F tid x → t.threads.get? tid = some (goesOn s x)) ∧
      ∀ tid x, Acts s F tid x → t.threads.get? tid = some { x with wait := .park p, after := s.issue.next, issued := true }

/-! The privileged instructions (20 R369, R377, R378, 21 R386). -/

namespace Sys2Proof.Claims

/-- The activity a PSEL value selects, and the number under which a budget of it is kept (R369). -/
def activity (p : Word) : Nat := 65536 * (p.extractLsb' 16 8).toNat + (p.extractLsb' 0 16).toNat
def budget (s : State) (p : Word) (k : Nat) : Word := s.budgets.getD (4 * activity p + k) 0

/-- What PSRD reads in a thread whose PSEL is `p`, by index (R369, R386); `used k` are the four uses of the current period. -/
def privilegedRegs (s : State) (p : Word) (used : Nat → Nat) : List (Nat × Word) :=
  let ctx := (p.extractLsb' 24 6).toNat
  let use (k : Nat) : Word := BitVec.ofNat 32 (used k)
  let spent (k : Nat) : BitVec 1 := BitVec.ofBool (budget s p k != 0 && decide ((budget s p k).toNat ≤ used k))
  [(0x80, s.flkLo), (0x81, s.flkHi), (0x82, s.flkCtl), (0x83, s.svcthr.getD ctx 128), (0x84, s.ctxlim.getD ctx 24), (0x85, p),
    (0x86, budget s p 0), (0x87, budget s p 1), (0x88, budget s p 2), (0x89, budget s p 3), (0x8A, use 0), (0x8B, use 1), (0x8C, use 2),
    (0x8D, use 3), (0x8E, (0 : BitVec 28) ++ spent 3 ++ spent 2 ++ spent 1 ++ spent 0), (0x8F, 11200)]

/-- A value that PSWR of an index accepts (R369, R386). -/
def writable (idx : Nat) (v : Word) : Prop :=
  match idx with
  | 0x80 => v.extractLsb' 0 6 = 0
  | 0x81 => v.extractLsb' 20 12 = 0
  | 0x82 => v.extractLsb' 2 28 = 0 ∧ v.extractLsb' 0 2 ≠ 3
  | 0x83 => v.toNat ≤ 256
  | 0x84 => 1 ≤ v.toNat ∧ v.toNat ≤ 24
  | 0x85 => v.extractLsb' 30 2 = 0 ∧ (match (v.extractLsb' 16 8).toNat with
      | 0 => (v.extractLsb' 0 16).toNat < 4096
      | 3 => (v.extractLsb' 0 16).toNat < 64
      | k => k < 5 ∧ (v.extractLsb' 0 16).toNat < 4)
  | 0x86 => v.toNat ≤ 11200
  | k => 0x87 ≤ k ∧ k ≤ 0x89

end Sys2Proof.Claims

/-- R369, R377, R386: PSRD and PSWR on every privileged register; FLKCTL keeps FIRED only where it is set and written as 1. R232, R378: TLBINV of one
thread publishes at dev and drops, on every core, the cached pages and descriptors its kind names of its context, and no others. Issue
slots are counted for each partition; which partition's count BUSE0 and BSTAT show is a free value of the model (log entry 6).
The model's reading where the rules leave it open: log entries 60, 61 and 130. -/
def Obligations.PrivilegedInstructions : Prop :=
  (∀ (s : State) (p : Word), ∃ use : Nat → Nat, (∀ k, 1 ≤ k → k < 4 → use k = s.used.getD (4 * Claims.activity p + k) 0) ∧
    (∃ core part, part < 4 ∧ use 0 = s.slotUse.getD (2048 * Claims.activity p + 4 * core + part) 0) ∧
    ∀ (i : Instr) (F : Fields), i.wf = true → i.fields? = some F → F.maj = 0x39 → F.mn = 0 → Calm s F State.noFault →
    (∀ tid ∈ s.guarded F, (s.thread tid).psel = p) →
    ∃ t, exec i s = .next t ∧ OnlyRegisters s t ∧ (∀ tid x, Passes s F tid x → t.threads.get? tid = some (goesOn s x)) ∧
      (F.cd = false → t.groups = s.groups ∧ ∀ tid x, Acts s F tid x → ∃ y, t.threads.get? tid = some y ∧
        ∀ v, (F.b, v) ∈ Claims.privilegedRegs s p use → WroteReg s x y F.d v) ∧
      (F.cd = true → (∀ tid x, Acts s F tid x → t.threads.get? tid = some (goesOn s x)) ∧
        ∀ gid g, s.groups.get? gid = some g → ∃ g', t.groups.get? gid = some g' ∧ ((∀ tid ∈ s.guarded F, gidOf tid ≠ gid) → g' = g) ∧
          ((∃ tid ∈ s.guarded F, gidOf tid = gid) → ∀ v, (F.b, v) ∈ Claims.privilegedRegs s p use → WroteScalar g g' F.d v))) ∧
  (∀ (i : Instr) (F : Fields) (s : State) (tid : Nat) (x : Thread), i.wf = true → i.fields? = some F → F.maj = 0x39 → F.mn = 1 →
    Calm s F State.noFault → s.issue.threads.Nodup → s.guarded F = [tid] → s.threads.get? tid = some x →
    let v := Claims.valueA F s tid
    let ctx := (x.psel.extractLsb' 24 6).toNat
    let fired : BitVec 1 := v.extractLsb' 30 1 &&& s.flkCtl.extractLsb' 30 1
    let ctl : Word := v.extractLsb' 31 1 ++ fired ++ (0 : BitVec 28) ++ v.extractLsb' 0 2
    Claims.writable F.b v →
    ∃ t, exec i s = .next t ∧ (∀ w z, Passes s F w z → t.threads.get? w = some (goesOn s z)) ∧
      (∀ w, w ∉ s.issue.threads → t.threads.get? w = s.threads.get? w) ∧
      t.threads.get? tid = some (goesOn s (if F.b = 0x85 then { x with psel := v } else x)) ∧
      (F.b = 0x80 → { t with threads := s.threads } = { s with flkLo := v }) ∧
      (F.b = 0x81 → { t with threads := s.threads } = { s with flkHi := v }) ∧
      (F.b = 0x82 → { t with threads := s.threads } = { s with flkCtl := ctl }) ∧
      (F.b = 0x83 → { t with threads := s.threads, svcthr := s.svcthr } = s ∧ t.svcthr.getD ctx 128 = v ∧
        ∀ k, k ≠ ctx → t.svcthr.get? k = s.svcthr.get? k) ∧
      (F.b = 0x84 → { t with threads := s.threads, ctxlim := s.ctxlim } = s ∧ t.ctxlim.getD ctx 24 = v ∧
        ∀ k, k ≠ ctx → t.ctxlim.get? k = s.ctxlim.get? k) ∧
      (F.b = 0x85 → { t with threads := s.threads } = s) ∧
      (0x86 ≤ F.b → { t with threads := s.threads, budgets := s.budgets } = s ∧ Claims.budget t x.psel (F.b - 0x86) = v ∧
        ∀ k, k ≠ 4 * Claims.activity x.psel + (F.b - 0x86) → t.budgets.get? k = s.budgets.get? k)) ∧
  ∀ (i : Instr) (F : Fields) (s : State) (tid : Nat) (x : Thread), i.wf = true → i.fields? = some F → F.maj = 0x39 → F.mn = 2 →
    Calm s F State.noFault → s.guarded F = [tid] → s.threads.get? tid = some x → F.mod.toNat < 3 →
    let g := s.group (gidOf tid)
    let p := F.opA true g x
    let ctx := (loWord (F.opB false g x)).toNat
    let u := s.publish (gidOf tid) 3
    let pageOf (d : Desc) (page : Nat) : Prop :=
      if F.mod = 0 then page = (d.base + offOf p) / 65536 else d.base < (page + 1) * 65536 ∧ page * 65536 < d.base + d.len
    let dropped (c page : Nat) : Prop := c = ctx ∧
      (F.mod = 2 ∨ pageOf (u.descOn g.core ctx (segOf p)) page ∨ pageOf (u.descHome ctx (segOf p)) page)
    ctx < 64 → ∃ t, exec i s = .next t ∧ Claims.WentOn s t ∧
      { t with threads := u.threads, pages := u.pages, descs := u.descs, dies := u.dies } = u ∧
      (∀ core c page, c < 64 → page < 2 ^ 32 → let k := 2 ^ 32 * (64 * core + c) + page
        (dropped c page → t.pages.get? k = none) ∧ (¬ dropped c page → t.pages.get? k = u.pages.get? k)) ∧
      (∀ core c seg, c < 64 → seg < 2 ^ 20 → let k := 2 ^ 20 * (64 * core + c) + seg
        (c = ctx ∧ (F.mod = 2 ∨ (F.mod = 1 ∧ seg = segOf p)) → t.descs.get? k = none) ∧
        (¬ (c = ctx ∧ (F.mod = 2 ∨ (F.mod = 1 ∧ seg = segOf p))) → t.descs.get? k = u.descs.get? k)) ∧
      (∀ d, { t.die d with denial := (u.die d).denial } = u.die d ∧ (∀ e ∈ (t.die d).denial, e ∈ (u.die d).denial) ∧
        (∀ e ∈ (u.die d).denial, e.ctx ≠ ctx → e ∈ (t.die d).denial) ∧ (F.mod = 2 → ∀ e ∈ (t.die d).denial, e.ctx ≠ ctx))

/-! The events of threads and their domains (08 R148, R151, R154, 09 R169, R170, 15 R259 to R261, 18 R340, 20 R365). -/

namespace Sys2Proof.Claims

/-- Thread `x` behind the instruction at which it waited (R111, R348): in a REP pair the iteration is done. -/
def waitOver (x : Thread) : Thread :=
  if x.inRep = true ∧ 1 < x.rpc.toNat then { x with rpc := x.rpc - 1, wait := .none }
  else if x.inRep then { x with rpc := 0, inRep := false, pair := none, pc := x.after, wait := .none }
  else { x with pc := x.after, wait := .none }

/-- `t` is `s` but for thread `tid`, which is now `y`. -/
structure OneThread (s t : State) (tid : Nat) (y : Thread) : Prop where
  only : OnlyThreads s t
  now : t.threads.get? tid = some y
  others : ∀ u, u ≠ tid → t.threads.get? u = s.threads.get? u

/-- Thread `z` waits at barrier `bar`. -/
def AtBarrier (z : Thread) (bar : Nat) : Prop := ∃ phase dest all, z.wait = .barrier bar phase dest all

/-- Thread `z` once a phase of barrier `bar` has failed: a wait there that one of its trap slots holds ends with BARRIER_STALL, which its
return raises (R154, R348). -/
def barrierFails (bar : Nat) (aux : Word) (z : Thread) : Thread :=
  let fail (k : TrapSlot) : TrapSlot := match k.wait with
    | .barrier b _ _ _ => if b = bar ∧ k.ended = false then { k with wait := .none, fault := some (0x13, aux) } else k
    | _ => k
  { z with slotS := z.slotS.map fail, slotF := z.slotF.map fail, slotP := z.slotP.map fail }

/-- Thread `u` belongs to the set of meeting value `m` of group `gid` (R151). -/
def InSet (s : State) (gid : Nat) (m : Meeting) (u : Nat) (z : Thread) : Prop :=
  s.threads.get? u = some z ∧ gidOf u = gid ∧ z.life ≠ .exited ∧ z.meet = some m ∧ z.metInSlot = false

end Sys2Proof.Claims

/-- R259 to R261: a domain drops a snapshot line; the oldest stores of a group enter its overlay in order; overlay bytes go home, and the snapshot
keeps no line of them. R151, R154, R169, R170: a sleep that is over ends; a thread at its meeting waits, and the last one to come
releases the set; a barrier at its limit discards its arrivals, and each waiting thread takes BARRIER_STALL at its instruction, one whose wait a trap
slot holds when it returns (R348). R148: the
eligible threads of the one resident group form one bundle for each PC, ascending by offset. R340: a WAITC whose limits are met
ends. R365: SVC_WAKE ends the sleep of a group's threads, with SVC_REJECT where the service refused.
The model's reading where the rules leave it open: log entries 28 and 64. -/
def Obligations.ThreadEvents : Prop :=
  (∀ (s : State) (d l : Nat), s.subject = .line d l → ∃ t, exec .snapshotDrop s = .next t ∧ { t with domains := s.domains } = s ∧
    (∀ e, e ≠ d → t.domain e = s.domain e) ∧ (t.domain d).overlay = (s.domain d).overlay ∧ (t.domain d).lines.get? l = none ∧
    ∀ k, k ≠ l → (t.domain d).lines.get? k = (s.domain d).lines.get? k) ∧
  (∀ (s : State) (gid n : Nat) (g : Group), s.subject = .stores gid n → s.groups.get? gid = some g →
    let d := s.domOf gid
    let cells := (g.path.take n).flatMap (·.bytes)
    ∃ t, exec .storePathDrain s = .next t ∧ { t with groups := s.groups, domains := s.domains } = s ∧
      t.groups.get? gid = some { g with path := g.path.drop n } ∧ (∀ k, k ≠ gid → t.groups.get? k = s.groups.get? k) ∧
      (∀ e, e ≠ d → t.domain e = s.domain e) ∧ (t.domain d).lines = (s.domain d).lines ∧
      ∀ a, ((∀ c ∈ cells, c.1 ≠ a) → (t.domain d).overlay.get? a = (s.domain d).overlay.get? a) ∧
        ∀ old b new, cells = old ++ (a, b) :: new → (∀ c ∈ new, c.1 ≠ a) → (t.domain d).overlay.get? a = some b) ∧
  (∀ (s : State) (d a n : Nat), s.subject = .bytes d a n → (s.domain d).overlay.keys.Pairwise (· < ·) →
    let mine (x : Nat) : Prop := a ≤ x ∧ x < a + n
    let line (l : Nat) : Prop := ∃ x, mine x ∧ x / 64 = l ∧ ((s.domain d).overlay.get? x).isSome
    ∃ t, exec .overlayWriteback s = .next t ∧
      { t with hbm := s.hbm, poison := s.poison, domains := s.domains, mirrors := s.mirrors } = s ∧
      (∀ x, (mine x → t.homeByte x = ((s.domain d).overlay.get? x).getD (s.homeByte x) ∧ (t.domain d).overlay.get? x = none) ∧
        (¬ mine x → t.homeByte x = s.homeByte x ∧ (t.domain d).overlay.get? x = (s.domain d).overlay.get? x)) ∧
      (∀ l, (line l → (t.domain d).lines.get? l = none) ∧ (¬ line l → (t.domain d).lines.get? l = (s.domain d).lines.get? l)) ∧
      ∀ e, e ≠ d → t.domain e = s.domain e) ∧
  (∀ (s : State) (tid u : Nat) (x : Thread), s.subject = .thread tid → s.threads.get? tid = some x →
    (s.teamAt (gidOf tid)).place = .resident → u ≤ s.cycle →
    (x.wait = .nap u → ∃ t, exec .napWake s = .next t ∧ Claims.OneThread s t tid (Claims.waitOver x)) ∧
    (x.wait = .bkoff u → ∃ t, exec .bkoffWake s = .next t ∧ Claims.OneThread s t tid (Claims.waitOver x))) ∧
  (∀ (s : State) (tid : Nat) (x : Thread), s.subject = .thread tid → s.threads.get? tid = some x → x.life = .running → x.wait = .none →
    x.defPark = false → x.inHandler = false → x.released = false → x.meet = some ⟨x.pc, x.depth⟩ →
    let gid := gidOf tid
    let m : Meeting := ⟨x.pc, x.depth⟩
    ((∃ u z, u ≠ tid ∧ Claims.InSet s gid m u z ∧ z.atMeeting = false) → ∃ t, exec .meetingArrival s = .next t ∧
      Claims.OneThread s t tid { x with wait := .meeting }) ∧
    ((∀ u z, u ≠ tid → Claims.InSet s gid m u z → z.wait = .meeting) → ∃ t, exec .meetingArrival s = .next t ∧
      { t with threads := s.threads, parts := s.parts } = s ∧
      (∀ u z, s.threads.get? u = some z → (Claims.InSet s gid m u z → t.threads.get? u =
          some { z with meet := z.meets.head?, meets := z.meets.tail, wait := .none, released := true }) ∧
        (¬ Claims.InSet s gid m u z → t.threads.get? u = some z)) ∧
      ∀ core part b, b ∈ (t.partition core part).bundles → b ≠ [] ∧ ∀ u ∈ b, ∀ z, ¬ Claims.InSet s gid m u z)) ∧
  (∀ (s : State) (k bar : Nat) (T : Team) (who : List Nat), s.subject = .barrier k bar → bar < 16 → s.teams.get? k = some T →
    T.place = .resident → s.threads.keys.Nodup →
    (∀ u, u ∈ who ↔ ∃ z, s.threads.get? u = some z ∧ teamOf (gidOf u) = k ∧ Claims.AtBarrier z bar) → (∀ u ∈ who, Claims.Catches s u) →
    let b := s.barrier k bar
    let aux : Word := BitVec.ofNat 16 b.arrived.length ++ BitVec.ofNat 16 bar
    let held (u : Nat) (z : Thread) : Thread := if teamOf (gidOf u) = k then Claims.barrierFails bar aux z else z
    b.arrived.length < 65536 → b.limit ≠ 0 → b.arrived ≠ [] → b.start + b.limit ≤ s.cycle →
    ∃ t, exec .barrierStall s = .next t ∧ { t with threads := s.threads, teams := s.teams } = s ∧
      t.barrier k bar = { b with arrived := [], votes := [], start := 0, limit := 0 } ∧
      (∀ b', b' ≠ bar → t.barrier k b' = s.barrier k b') ∧ (∀ k', k' ≠ k → t.teams.get? k' = s.teams.get? k') ∧
      (∀ u, u ∉ who → t.threads.get? u = (s.threads.get? u).map (held u)) ∧
      ∀ u ∈ who, ∀ x, s.threads.get? u = some x → ∃ y, t.threads.get? u = some y ∧
        Claims.Trapped s { held u x with wait := .none } y u 0x13 0 aux who x.pc x.pc) ∧
  (∀ (s : State) (gid : Nat) (g : Group), s.groups.filter (fun e => decide ((s.teamAt e.1).place = .resident)) = [(gid, g)] →
    g.spec = none → g.gen = none → g.level ≠ 7 → ((s.launchOf gid).regs + 7) / 8 * 8 * (s.launchOf gid).width * 4 ≤ 65536 →
    let eligible (u : Nat) : Prop := gidOf u = gid ∧ ∃ x, s.threads.get? u = some x ∧ x.life = .running ∧ x.wait = .none ∧ x.defPark = false
    (∃ u, eligible u) →
    ∃ t bs, exec .regroupingTick s = .next t ∧
      { t with threads := s.threads, groups := s.groups, parts := s.parts } = s ∧
      t.groups.get? gid = some { g with active := true, ready := 0 } ∧ (t.partition g.core g.part).bundles = bs ∧
      (∀ u, eligible u ↔ u ∈ bs.flatten) ∧
      (∀ b ∈ bs, b ≠ [] ∧ b.Sublist s.threads.keys ∧ ∀ u ∈ b, ∀ v, eligible v → (v ∈ b ↔ (s.thread v).pc = (s.thread u).pc)) ∧
      bs.Pairwise (fun b c => ∀ u ∈ b, ∀ v ∈ c, offOf (s.thread u).pc ≤ offOf (s.thread v).pc) ∧
      (∀ core part, 4 * core + part ≠ 4 * g.core + g.part → (t.partition core part).bundles = []) ∧
      ∀ u x, s.threads.get? u = some x → ∃ y, t.threads.get? u = some y ∧ { y with idleTicks := x.idleTicks } = { x with issued := false } ∧
        (¬ eligible u ∨ x.issued = true → y.idleTicks = 0)) ∧
  (∀ (s : State) (gid : Nat) (g : Group) (lim : Word), s.subject = .group gid → s.groups.get? gid = some g →
    let mine (u : Nat) (z : Thread) : Prop := s.threads.get? u = some z ∧ gidOf u = gid ∧ z.life ≠ .exited ∧ z.wait = .waitc lim
    (∃ u z, mine u z) → (∀ u z, s.threads.get? u = some z → gidOf u = gid → z.deferred = [] ∧ ∀ y, z.wait = .waitc y → y = lim) →
    let within := ∀ k, k < 4 → Claims.limit lim k = 63 ∨ s.waitCount gid k ≤ Claims.limit lim k
    let v := if Claims.limit lim 2 = 63 then s else s.acquire gid 3
    let merge := Claims.limit lim 3 ≠ 63
    (¬ within → exec .waitcComplete s = .next s) ∧
    (within → ∃ t, exec .waitcComplete s = .next t ∧ { t with threads := v.threads, groups := v.groups } = v ∧
      (∀ k, k ≠ gid → t.groups.get? k = s.groups.get? k) ∧ t.groups.get? gid = some (if merge then { g with mflags := 0 } else g) ∧
      ∀ u z, s.threads.get? u = some z →
        (mine u z → t.threads.get? u = some (Claims.waitOver (if merge then { z with fpsr := z.fpsr ||| g.mflags.setWidth 32 } else z))) ∧
        (¬ mine u z → t.threads.get? u = some z))) ∧
  ∀ (s : State) (gid b : Nat) (who : List Nat), s.subject = .group gid → (s.teamAt gid).place = .resident →
    s.flkCtl.getLsbD 31 = false → s.poison = [] → s.badLines = [] →
    s.pieces (s.ctxOf gid) (s.group gid).reply 4 = [(.home b, 4)] → s.threads.keys.Nodup → who ≠ [] →
    (∀ u, u ∈ who ↔ ∃ z, s.threads.get? u = some z ∧ gidOf u = gid ∧ z.life ≠ .exited ∧ z.wait = .svc ∧ z.defPark = false) →
    let v := s.acquire gid 3
    (s.homeByte (b + 3) = 1 → ∃ t, exec .svcWake s = .next t ∧ { t with threads := v.threads } = v ∧
      ∀ u x, s.threads.get? u = some x → t.threads.get? u = some (if u ∈ who then Claims.waitOver x else x)) ∧
    (s.homeByte (b + 3) = 2 → (∀ u ∈ who, Claims.Catches s u) → ∃ t, exec .svcWake s = .next t ∧ { t with threads := v.threads } = v ∧
      (∀ u, u ∉ who → t.threads.get? u = s.threads.get? u) ∧
      ∀ u ∈ who, ∀ x, s.threads.get? u = some x → ∃ y at_, t.threads.get? u = some y ∧ segOf at_ = segOf x.after ∧
        (offOf at_ + 12) % 2 ^ 44 = offOf x.after ∧
        Claims.Trapped s { x with wait := .none } y u 0x21 (s.group gid).reply
          ((4 : BitVec 4) ++ (0 : BitVec 12) ++ s.homeByte (b + 1) ++ s.homeByte b) who at_ x.after)

/-! Replies of remote accesses and the resolution of collective instances (10 R174 to R189, 20 R351, 23 R398, R401, R402, R411, R412). -/

namespace Sys2Proof.Claims

/-- Access `k` is outstanding: a load or an atomic of a running thread whose group does not speculate, sent, of its context's current epoch, into
vector registers from `r`, with no acquire; no split has left the thread behind for it. -/
structure Outstanding (s : State) (k : Nat) (a : Access) (x : Thread) (r : Nat) (sx : Bool) : Prop where
  listed : s.accesses.get? k = some a
  epoch : (s.context a.ctx).resets = a.resets
  thread : s.threads.get? a.tid = some x
  running : x.life = .running
  plain : a.acquire = none ∧ a.cmd = 0
  sent : a.sent = true
  len : a.len = 2 ^ a.size
  apart : x.wait ≠ .reply
  dest : a.dest = .vec r a.size sx
  size : a.size ≤ 4
  room : r + regsOf a.size ≤ 255
  resolved : ∀ g, s.groups.get? (gidOf a.tid) = some g → g.spec = none

/-- No other read or atomic of host memory and no posted write is outstanding that the host could perform before access `k`, which it has not
performed either (R411). -/
def HostIdle (s : State) (k : Nat) (a : Access) : Prop :=
  s.posted = [] ∧ a.done = none ∧ ∀ j b h, s.accesses.get? j = some b → j ≠ k → b.far ≠ .host h

/-- Host address of byte `j` of an access: a second host page follows the first (R225, R411). -/
def hostByte (h next j : Nat) : Nat := if (h + j) / 65536 = h / 65536 then h + j else next + (h + j) % 65536

/-- Access `k` has been answered: it is outstanding no more, and its thread's registers from `r` hold the bytes; `m` is the state but for
what a link does of its own. -/
structure Answered (m t : State) (k : Nat) (a : Access) (x : Thread) (r : Nat) (sx : Bool) (byte : Nat → Byte) : Prop where
  only : { t with threads := m.threads, groups := m.groups, accesses := m.accesses } = m
  groups : ∀ g, t.groups.get? g = m.groups.get? g
  gone : t.accesses.get? k = none ∧ ∀ j, j ≠ k → t.accesses.get? j = m.accesses.get? j
  others : ∀ u, u ≠ a.tid → t.threads.get? u = m.threads.get? u
  now : ∃ y, t.threads.get? a.tid = some y ∧ { y with regs := x.regs } = x ∧
    (∀ j, j < regsOf a.size → y.reg (r + j) = loadedWord a.size sx byte j) ∧ ∀ n, n < r ∨ r + regsOf a.size ≤ n → y.reg n = x.reg n

/-- Flit `h` is the next one expected at a port: whole, in sequence, of TYPE `type` on its channel, with no slot return; the port keeps and
holds back nothing (R394 to R396). -/
structure InTurn (s : State) (p : Nat) (h : FlitHead) (payload : List Byte) (type : Nat) : Prop where
  up : (s.port p).up = true ∧ (s.port p).trained = true
  kind : h.type = BitVec.ofNat 4 type ∧ 1 ≤ type ∧ type ≤ 4 ∧ h.vc = BitVec.ofNat 2 (type - 1)
  whole : h.crc = flitCrc { h with crc := 0 } payload
  next : h.seq = (s.port p).expect
  noReturn : h.crd = 0
  idle : (s.port p).kept = [] ∧ (s.port p).waiting = []

/-- The state once the flit is accepted: the next one is expected, its slot is owed back, and its ACK stands. -/
def taken (s : State) (p : Nat) (h : FlitHead) (type : Nat) : State :=
  let v := s.port p
  let v : Port := { v with
    expect := v.expect + 1, owed := v.owed.put (type - 1) (v.owed.getD (type - 1) 0 + 1), acked := h.ack }
  s.setPort p v

end Sys2Proof.Claims

/-- R131, R351, R398, R411, R412: LOAD_REPLY and HOST_READ_COMPLETION of an access of host memory, and JOETH_RESPONSE of one of another module,
put the bytes into the registers the access was for, from host memory those of the moment the host performed it; one whose epoch is not
its context's any more changes nothing but the port. HOST_ATOMIC_COMPLETION performs an add at its host address and
returns the old bytes. REMOTE_TIMEOUT after 14,000 cycles leaves the thread a deferred FABRIC_TIMEOUT.
The model's reading where the rules leave it open: log entries 88, 96 and 135. -/
def Obligations.RemoteReplies : Prop :=
  (∀ (i : Instr) (s : State) (k : Nat) (a : Access) (x : Thread) (r h : Nat) (sx : Bool) (bs : List Byte),
    i = .loadReply ∨ i = .hostReadCompletion → s.subject = .access k (.data bs) →
    Claims.Outstanding s k a x r sx → a.kind = .read → a.far = .host h → s.hostUp = true →
    (Claims.HostIdle s k a → ∃ t, exec i s = .next t ∧
      Claims.Answered s t k a x r sx (fun j => s.hostMem.getD (Claims.hostByte h a.next j) 0)) ∧
    (∀ was, a.done = some was → ∃ t, exec i s = .next t ∧ Claims.Answered s t k a x r sx (fun j => was.getD j 0))) ∧
  (∀ (s : State) (k : Nat) (a : Access) (x : Thread) (r h : Nat) (sx : Bool) (bs : List Byte), s.subject = .access k (.data bs) →
    Claims.Outstanding s k a x r sx → a.kind = .atomic → a.op = .add → a.size = 2 ∨ a.size = 3 → a.far = .host h → s.hostUp = true →
    Claims.HostIdle s k a → h % 65536 + 2 ^ a.size ≤ 65536 →
    let n := 2 ^ a.size
    let old := leNat (s.hostMem.bytes h n)
    ∃ t m, exec .hostAtomicCompletion s = .next t ∧ { m with hostMem := s.hostMem } = s ∧
      Claims.Answered m t k a x r sx (fun j => s.hostMem.getD (h + j) 0) ∧
      (∀ j, j < n → m.hostMem.getD (h + j) 0 = BitVec.ofNat 8 ((old + a.operand.toNat) / 2 ^ (8 * j))) ∧
      ∀ b, b < h ∨ h + n ≤ b → m.hostMem.getD b 0 = s.hostMem.getD b 0) ∧
  (∀ (s : State) (k : Nat) (a : Access) (x : Thread) (r module seg off : Nat) (sx : Bool) (rep : RemoteReply), s.subject = .access k rep →
    Claims.Outstanding s k a x r sx → a.kind = .read → a.far = .panel module seg off → a.issuedAt + 14000 ≤ s.cycle →
    ∃ t, exec .remoteTimeout s = .next t ∧ { t with threads := s.threads, groups := s.groups, accesses := s.accesses } = s ∧
      (∀ g, t.groups.get? g = s.groups.get? g) ∧ t.accesses.get? k = none ∧ (∀ j, j ≠ k → t.accesses.get? j = s.accesses.get? j) ∧
      (∀ u, u ≠ a.tid → t.threads.get? u = s.threads.get? u) ∧ t.threads.get? a.tid = some { x with
        deferred := x.deferred ++ [⟨0x1C, a.pc, a.addr, BitVec.ofNat 32 a.size, a.dest, false, false⟩] }) ∧
  ∀ (s : State) (p : Nat) (h : FlitHead) (payload : List Byte) (k : Nat) (a : Access) (x : Thread) (r seg off : Nat) (sx : Bool) (bs : List Byte),
    s.subject = .response p h payload (.data bs) → Claims.InTurn s p h payload 2 → s.accesses = [(k, a)] → k % 65536 = h.tag.toNat →
    a.ctx = h.ctx.toNat → a.far = .panel h.src.toNat seg off → a.kind = .read → a.len ≤ bs.length →
    (a.resets % 65536 = h.epoch.toNat → Claims.Outstanding s k a x r sx → ∃ t, exec .joethResponse s = .next t ∧
      Claims.Answered (Claims.taken s p h 2) t k a x r sx (fun j => bs.getD j 0)) ∧
    (a.resets % 65536 ≠ h.epoch.toNat → exec .joethResponse s = .next (Claims.taken s p h 2))

namespace Sys2Proof.Claims

/-- Instance `i` under key `k` holds the one contribution of group `gid`, whose domain is in flight and whose team has not ended. -/
structure OneMember (s : State) (k : Nat) (i : Instance_) (gid : Nat) (g : Group) (kind : Nat) (v : Bool) (x : Decl) : Prop where
  listed : s.insts.get? k = some i
  given : i.given = [⟨gid, kind, v, x⟩]
  group : s.groups.get? gid = some g
  inFlight : (g.domain i.dom).inFlight = true
  decl : (g.domain i.dom).decl = some x
  same : i.decl = x
  runs : (s.teamAt gid).place ≠ .ended ∧ (s.teamAt gid).ending = none
  calm : g.preempt = false

/-- The held stores of group `gid` write global bytes, relaxed, with nothing left to compare, and no other group holds a store of their issue
(R133, R178, R385). -/
def Unclashed (s : State) (gid : Nat) (hs : List HeldStore) : Prop :=
  ∀ h ∈ hs, h.spad = none ∧ h.rel = none ∧ h.matched = true ∧ gidOf h.tid = gid ∧
    ∀ j sp, (s.group j).spec = some sp → ∀ o ∈ sp.stores, o.tag ≠ h.tag ∨ gidOf o.tid = gid

/-- Nothing of group `gid` is on its way to the host (R411). -/
def NothingSent (s : State) (gid : Nat) : Prop :=
  (∀ p ∈ s.posted, p.gid ≠ gid) ∧ ∀ e ∈ s.accesses, gidOf e.2.tid ≠ gid

/-- The bytes `cells` have entered the overlay of domain `d` in order; nothing else of the domains differs (R259). -/
def OverlayTook (s t : State) (d : Nat) (cells : List Host.Cell) : Prop :=
  (∀ e, e ≠ d → t.domain e = s.domain e) ∧ { t.domain d with overlay := (s.domain d).overlay } = s.domain d ∧
  ∀ a, ((∀ c ∈ cells, c.1 ≠ a) → (t.domain d).overlay.get? a = (s.domain d).overlay.get? a) ∧
    ∀ old b new, cells = old ++ (a, b) :: new → (∀ c ∈ new, c.1 ≠ a) → (t.domain d).overlay.get? a = some b

/-- The message `m` of the module's node for instance `i` has left, and with it a flit of its collective channel once the link is trained and a
slot is free (R394, R395, R401). -/
def NodeSends (s t : State) (i : Instance_) (m : Message) (p : Nat) : Prop :=
  (∃ rest, t.outbox = s.outbox ++ m :: rest) ∧ (∀ q, q ≠ p → t.port q = s.port q) ∧
  ((s.port p).waiting = [] → (s.port p).trained = true → 0 < (s.port p).credits.getD 2 0 →
    ∃ h, t.outbox = s.outbox ++ [m, .flit p h] ∧ h.type = 3 ∧ h.vc = 2 ∧ h.ctx = BitVec.ofNat 6 i.ctx ∧ h.tag = BitVec.ofNat 16 i.number)

/-- A flit of the collective channel is the next one expected at port `p` and carries context, number and epoch of instance `i` (R394 to R396,
R401). -/
structure OutcomeOf (s : State) (p : Nat) (h : FlitHead) (payload : List Byte) (i : Instance_) : Prop where
  inTurn : InTurn s p h payload 3
  ctx : i.ctx = h.ctx.toNat
  number : i.number % 65536 = h.tag.toNat
  epoch : (s.context i.ctx).resets % 65536 = h.epoch.toNat

/-- The threads of group `gid` that wait at a CBSYNC. -/
def AtSync (s : State) (gid u : Nat) (z : Thread) : Prop :=
  s.threads.get? u = some z ∧ gidOf u = gid ∧ z.life ≠ .exited ∧ z.wait = .sync

/-- Instance `k` has left the open ones, and the context lists its set and number as resolved (R183). -/
def Closed (s t : State) (k : Nat) (i : Instance_) (resolved : Bool) : Prop :=
  t.insts.get? k = none ∧ (∀ j, j ≠ k → t.insts.get? j = s.insts.get? j) ∧ (∀ c, c ≠ i.ctx ∨ resolved = false → t.contexts.get? c = s.contexts.get? c) ∧
  (resolved = true → ∀ c, s.contexts.get? i.ctx = some c → t.contexts.get? i.ctx = some { c with resolved := c.resolved ++ [(i.set, i.number)] })

end Sys2Proof.Claims

/-- R174, R175, R177, R178, R181: an instance within the module that has its count resolves to its value. A speculating member whose prediction
was right keeps what it did, and its held stores enter its domain's overlay in order, behind all that its group stored before its branch; one
whose prediction was wrong is back at its checkpoint and goes on at the other target, its held stores and what was read ahead discarded.
R182, R183, R402: an instance past its limit, or dissolved by the panel, is closed; the members' counts return and each waiting thread takes
CBR_TIMEOUT at its CBSYNC. R401, R402: at level 2 the node reports its module's share once and asks once for a dissolution; a
resolution broadcast, an accepted flit of the collective channel, lets the threads of a CBSYNC go on after an acquire at sys. The model's reading where the rules leave it open: log entries 37, 96 and 124. -/
def Obligations.CollectiveEvents : Prop :=
  (∀ (s : State) (k : Nat) (i : Instance_) (gid : Nat) (g : Group) (kind : Nat) (v : Bool) (x : Decl) (sp : Spec),
    s.subject = .collective k → Claims.OneMember s k i gid g kind v x → x.level < 2 → kind < 2 →
    x.g * x.t * x.m ≤ 1 + ((s.context i.ctx).gone.filter (fun e => e.1 == i.set && decide (e.2 ≤ i.number))).length →
    g.spec = some sp → sp.key = i.dom → sp.faults = [] → Claims.Unclashed s gid sp.stores → Claims.NothingSent s gid →
    let drains : Prop := v = sp.taken ∧ sp.stores ≠ []
    ∃ t g', exec .cbrResolve s = .next t ∧
      { t with threads := s.threads, groups := s.groups, insts := s.insts, contexts := s.contexts, domains := s.domains,
               teams := s.teams, ahead := s.ahead } = s ∧ Claims.Closed s t k i true ∧
      (drains → Claims.OverlayTook s t (s.domOf gid) (g.path.flatMap (·.bytes) ++ sp.stores.flatMap (·.bytes)) ∧ t.teams = (s.drainSpad gid).teams) ∧
      (¬ drains → t.domains = s.domains ∧ t.teams = s.teams) ∧
      (∀ j, j ≠ gid → t.groups.get? j = s.groups.get? j) ∧ t.groups.get? gid = some g' ∧ g'.spec = none ∧
      g'.domain i.dom = { g.domain i.dom with inFlight := false, out := v } ∧ (∀ d, d ≠ i.dom → g'.domain d = g.domain d) ∧
      (∀ u, u ∉ sp.participants → t.threads.get? u = s.threads.get? u) ∧
      (v = sp.taken →
        { g' with spec := g.spec, doms := g.doms } = (if sp.stores = [] then g else { g with path := [], spadPath := [] }) ∧ t.ahead = s.ahead ∧
        ∀ u z, u ∈ sp.participants → s.threads.get? u = some z → t.threads.get? u = some (if z.wait = .held then { z with wait := .none } else z)) ∧
      (v ≠ sp.taken → { g' with spec := g.spec, doms := g.doms, shadow := g.shadow } = { g with sregs := sp.savedScalars } ∧
        (g.shadow = none → g'.shadow = none) ∧ (∀ e, e ∈ t.ahead ↔ e ∈ s.ahead ∧ gidOf e.tid ≠ gid) ∧
        ∀ u z c, u ∈ sp.participants → s.threads.get? u = some z → sp.savedThreads.get? u = some c → ∃ y, t.threads.get? u = some y ∧
          y.regs = c.regs ∧ y.preds = c.preds ∧ y.fpsr = c.fpsr ∧ y.depth = c.depth ∧ y.cross = c.cross ∧ y.rpc = c.rpc ∧ y.inRep = c.inRep ∧
          y.pair = c.pair ∧ y.clkLatch = c.clkLatch ∧ y.deferred = c.deferred ∧ y.wait = .none ∧ y.idleTicks = 0 ∧
          y.pc = (if v then sp.target else sp.next) ∧ y.life = z.life ∧ y.psel = z.psel)) ∧
  (∀ (i_ : Instr) (s m : State) (k : Nat) (i : Instance_) (gid : Nat) (g : Group) (v : Bool) (x : Decl) (who : List Nat),
    Claims.OneMember s k i gid g 2 v x → g.spec = none → s.threads.keys.Nodup →
    (i_ = .cbrTimeout ∧ s.subject = .collective k ∧ m = s ∧ x.level < 2 ∧ i.limit ≠ 0 ∧ ∃ b, i.start = some b ∧ b + i.limit ≤ s.cycle) ∨
      (∃ p h payload, s.subject = .outcome p h payload k .dissolved ∧ Claims.OutcomeOf s p h payload i ∧ x.level = 2 ∧
        m = Claims.taken s p h 3 ∧ (i_ = .collectiveOutcome ∨ i_ = .collectiveDissolve ∧ i.expired = true)) →
    (∀ u, u ∈ who ↔ ∃ z, Claims.AtSync s gid u z) → (∀ u ∈ who, Claims.Catches s u) →
    let n := min (if x.level = 2 ∧ i.expired = true then i.countAt
      else 1 + ((s.context i.ctx).gone.filter (fun e => e.1 == i.set && decide (e.2 ≤ i.number))).length) 4095
    ∃ t g', exec i_ s = .next t ∧ { t with threads := s.threads, groups := s.groups, insts := s.insts } = m ∧ Claims.Closed s t k i false ∧
      (∀ j, j ≠ gid → t.groups.get? j = s.groups.get? j) ∧ t.groups.get? gid = some g' ∧ { g' with doms := g.doms } = g ∧
      g'.domain i.dom = { g.domain i.dom with inFlight := false, count := (g.domain i.dom).count - 1 } ∧
      (∀ u, u ∉ who → t.threads.get? u = s.threads.get? u) ∧
      ∀ u ∈ who, ∀ z, s.threads.get? u = some z → i.dom < 16 → ∃ y, t.threads.get? u = some y ∧
        Claims.Trapped s { z with wait := .none } y u 0x15 0
          ((0 : BitVec 4) ++ BitVec.ofNat 12 n ++ BitVec.ofNat 12 i.number ++ BitVec.ofNat 4 i.dom) who z.pc z.pc) ∧
  (∀ (s : State) (k : Nat) (i : Instance_) (gid : Nat) (g : Group) (kind : Nat) (v : Bool) (x : Decl),
    s.subject = .collective k → Claims.OneMember s k i gid g kind v x → x.level = 2 →
    let count := 1 + ((s.context i.ctx).gone.filter (fun e => e.1 == i.set && decide (e.2 ≤ i.number))).length
    let due : Prop := i.limit ≠ 0 ∧ ∃ b, i.start = some b ∧ b + i.limit ≤ s.cycle
    (∀ p, s.portTo s.dev.toNat i.dom = some p →
      (i.reported = false → x.g * x.t ≤ count →
        ∃ t, exec .joethCollective s = .next t ∧ { t with insts := s.insts, outbox := s.outbox, ports := s.ports } = s ∧
          t.insts.get? k = some { i with reported := true } ∧ (∀ j, j ≠ k → t.insts.get? j = s.insts.get? j) ∧
          Claims.NodeSends s t i (.panelCollective i.ctx i.dom i.number kind v x) p) ∧
      (i.expired = false → due →
        ∃ t, exec .cbrTimeout s = .next t ∧ { t with insts := s.insts, outbox := s.outbox, ports := s.ports } = s ∧
          t.insts.get? k = some { i with expired := true, countAt := count } ∧ (∀ j, j ≠ k → t.insts.get? j = s.insts.get? j) ∧
          Claims.NodeSends s t i (.panelDissolve i.ctx i.dom i.number) p)) ∧
    (s.portTo s.dev.toNat i.dom = none → exec .joethCollective s = .next s ∧ (due → exec .cbrTimeout s = .next s))) ∧
  ∀ (s : State) (p : Nat) (h : FlitHead) (payload : List Byte) (k : Nat) (i : Instance_) (gid : Nat) (g : Group) (v w : Bool) (x : Decl),
    s.subject = .outcome p h payload k (.resolved w) → Claims.OutcomeOf s p h payload i → Claims.OneMember s k i gid g 2 v x → x.level = 2 → i.reported = true → g.spec = none →
    s.contexts.keys.Nodup →
    let u := (Claims.taken s p h 3).acquire gid 4
    ∃ t g', exec .collectiveOutcome s = .next t ∧
      { t with threads := u.threads, groups := u.groups, insts := u.insts, contexts := u.contexts, pkrCopies := u.pkrCopies } = u ∧
      Claims.Closed s t k i true ∧ (∀ j, j ≠ gid → t.groups.get? j = s.groups.get? j) ∧ t.groups.get? gid = some g' ∧
      { g' with doms := g.doms } = g ∧ g'.domain i.dom = { g.domain i.dom with inFlight := false, out := false } ∧
      (∀ c, (s.contexts.get? c).isSome → t.pkrCopy g.core c = (s.context c).pkr) ∧
      ∀ q z, s.threads.get? q = some z → t.threads.get? q = some (if gidOf q = gid ∧ z.wait = .sync then Claims.waitOver z else z)

/-! The engines and commands (18 R305 to R333, R306 to R313, R325 to R328). -/

namespace Sys2Proof.Claims

/-- No error is armed or stored in memory (R380, R386). -/
def Clean (s : State) : Prop := s.flkCtl.getLsbD 31 = false ∧ s.poison = [] ∧ s.badLines = []

/-- Command `k` of a type is running and the event acts on it; its transfer has not begun, no access checked before its dispatch keeps it
waiting (R320), nothing is on its way to the host (R411), it awaits no reply (R398), no command is halfway through a block (R321), no budget is
set (R368), no team waits for it to end (R316), and no error stands. -/
structure Runs (s : State) (type k : Nat) (c : Command) : Prop where
  subject : s.subject = .command k
  listed : s.commands.get? k = some c
  type : c.type = type
  state : c.state = .running
  fresh : c.run = Progress.none
  first : s.transferWaits k c = false
  link : s.hostUp = true ∧ s.posted = []
  reads : ∀ e ∈ s.accesses, e.2.cmd ≠ k
  whole : ∀ e ∈ s.commands, e.2.run.parts = []
  budgets : s.budgets = []
  teams : ∀ j, (s.team j).ending = none
  clean : Clean s

/-- The work of command `k` is over with a STATUS and a DETAIL (R311); no other command changes. -/
def Ended (s t : State) (k : Nat) (c : Command) (status detail : Byte) : Prop :=
  (∃ r, t.commands.get? k = some { c with run := r, state := .moved status detail }) ∧ ∀ j, j ≠ k → t.commands.get? j = s.commands.get? j

/-- `n` bytes from home address `h` are `byte`; every other byte stands. -/
def Wrote (s t : State) (h n : Nat) (byte : Nat → Byte) : Prop :=
  (∀ j, j < n → t.homeByte (h + j) = byte j) ∧ ∀ a, a < h ∨ h + n ≤ a → t.homeByte a = s.homeByte a

/-- `u` is `s` but for bytes of some ranges at home, copies of them, counts of use and commands. -/
structure SameBut (s u : State) (rs : List (Nat × Nat)) : Prop where
  frame : { u with hbm := s.hbm, mirrors := s.mirrors, used := s.used, commands := s.commands } = s
  bytes : ∀ a, (∀ r ∈ rs, a < r.1 ∨ r.1 + r.2 ≤ a) → u.homeByte a = s.homeByte a

/-- The 64-byte blocks that `n` bytes from an offset meet. -/
def blocks (off n : Nat) : Nat := (off + n - 1) / 64 - off / 64 + 1

/-- An engine wrote at home, counted its blocks in its activity (R368), and its command; what it counts of HBM is in log entry 130. -/
def EngineOnly (s t : State) (c : Command) (units : Nat) : Prop :=
  { t with hbm := s.hbm, mirrors := s.mirrors, used := s.used, commands := s.commands } = s ∧
  t.used.getD (4 * c.activity + 3) 0 = s.used.getD (4 * c.activity + 3) 0 + units ∧
  ∀ j, j ≠ 4 * c.activity + 3 → j ≠ 4 * c.activity + 1 → t.used.get? j = s.used.get? j

/-- A range that an engine may use, wholly at home from `h` on (R257, R316), whatever is written meanwhile to the ranges `rs`, which hold no
part of the context's tables. -/
def AtHome (s : State) (ctx : Nat) (p : Ptr) (n : Nat) (kind : Kind) (h : Nat) (rs : List (Nat × Nat)) : Prop :=
  ∀ u, SameBut s u rs → u.engineCheck ctx p n false kind = none ∧
    ∀ o m, 0 < m → o + m ≤ n → u.pieces ctx (mkPtr (segOf p) (offOf p + o)) m = [(.home (h + o), m)]

/-- Two home ranges share no byte. -/
def Apart (a n b m : Nat) : Prop := a + n ≤ b ∨ b + m ≤ a

/-- The descriptor of the CODE segment that TRANSLATE makes (R230, R333). -/
def newCode (g : Translation) : Desc :=
  ⟨true, 1, g.readable, false, true, false, false, 0, g.base.toNat * 65536, g.code.length, g.impn.toNat, g.ltbf⟩

/-- The little-endian 32-bit word at a home address. -/
def word32 (s : State) (a : Nat) : Nat := leNat (s.homeBytes a 4)

/-- Does a set bit of a bitmap at home address `m` lie within Chebyshev distance `h` of tile `id` of an X × Y grid (R323)? -/
def Near (s : State) (m x y h id : Nat) : Prop :=
  ∃ u v, u < x ∧ v < y ∧ u ≤ id % x + h ∧ id % x ≤ u + h ∧ v ≤ id / x + h ∧ id / x ≤ v + h ∧
    (s.homeByte (m + (v * x + u) / 8)).getLsbD ((v * x + u) % 8) = true

end Sys2Proof.Claims

/-- R315, R332: NOTE moves nothing and is DONE. FILL writes its pattern over its row, COPY the bytes of its source as they stood, GATHER the row its
index names; a block of a COPY may be moved by itself (R315, R321). REDADD adds element by element at its destination, with one rounding and the flags
in DETAIL. R333: TRANSLATE makes a new CODE segment, descriptor and code, and stores its offset-0 pointer, or fails; what the translator makes is a
free value (log entry 7). R323, R324: LIT.BUILD lists the tiles near a set bit of the bitmap in the half SEL does not name, LIT.DELTA those near a change afresh and the
others as the old half had them; then SEL names the half. For rows at home that pass their checks and meet no error, clear of
the context's tables. The model's reading where the rules leave it open: log entries 51, 52, 53, 55, 59 and 130. -/
def Obligations.EngineWork : Prop :=
  (∀ (s : State) (k : Nat) (c : Command), Claims.Runs s 8 k c →
    let clean := ∀ j, 2 ≤ j → j < 12 → c.word j = 0
    ∃ t, exec .note s = .next t ∧ { t with commands := s.commands } = s ∧
      (clean → Claims.Ended s t k c 1 0) ∧ (¬ clean → Claims.Ended s t k c 4 7)) ∧
  (∀ (s : State) (k h : Nat) (c : Command), Claims.Runs s 3 k c → c.word 7 = 1 → c.word 3 = 0 → c.word 8 = 0 → c.word 10 = 0 → c.word 11 = 0 →
    c.flags.getLsbD 2 = false → c.word 6 ≠ 0 →
    let n := (c.word 6).toNat
    Claims.AtHome s c.ctx (c.pair 4) n .write h [(h, n)] →
    ∃ t, exec .fill s = .next t ∧ Claims.EngineOnly s t c (Claims.blocks (offOf (c.pair 4)) n) ∧ Claims.Ended s t k c 1 0 ∧
      Claims.Wrote s t h n (fun j => (c.word 2).extractLsb' (8 * (j % 4)) 8)) ∧
  (∀ (s : State) (k a h : Nat) (c : Command), Claims.Runs s 2 k c → c.word 7 = 1 → c.word 10 = 0 → c.word 11 = 0 →
    c.flags.getLsbD 1 = false → c.flags.getLsbD 2 = false → c.word 6 ≠ 0 →
    let n := (c.word 6).toNat
    Claims.AtHome s c.ctx (c.pair 2) n .read a [(h, n)] → Claims.AtHome s c.ctx (c.pair 4) n .write h [(h, n)] →
    Claims.Apart a n h n ∨ s.overlaps c = true →
    ∃ t, exec .copy s = .next t ∧ Claims.EngineOnly s t c (Claims.blocks (offOf (c.pair 4)) n) ∧ Claims.Ended s t k c 1 0 ∧
      Claims.Wrote s t h n (fun j => s.homeByte (a + j))) ∧
  (∀ (s : State) (k i o m a h : Nat) (c : Command), s.subject = .block k i → s.commands.get? k = some c → c.type = 2 → c.state = .running →
    c.run.begun = true → c.run.index = [] → i ∉ c.run.blocks → (State.blocksOf c)[i]? = some [⟨0, o, m⟩] → c.flags.getLsbD 1 = false →
    c.flags.getLsbD 2 = false → s.hostUp = true → s.posted = [] → s.budgets = [] → (∀ e ∈ s.accesses, e.2.cmd ≠ k) →
    (∀ e ∈ s.commands, e.2.run.parts = []) → Claims.Clean s →
    let n := (c.word 6).toNat
    0 < m → o + m ≤ n → Claims.AtHome s c.ctx (c.pair 2) n .read a [(h, n)] → Claims.AtHome s c.ctx (c.pair 4) n .write h [(h, n)] →
    ∃ t, exec .copy s = .next t ∧ Claims.EngineOnly s t c 1 ∧ Claims.Wrote s t (h + o) m (fun j => s.homeByte (a + o + j)) ∧
      t.commands.get? k = some { c with run := { c.run with blocks := c.run.blocks ++ [i] } } ∧
      ∀ j, j ≠ k → t.commands.get? j = s.commands.get? j) ∧
  (∀ (s : State) (k i a h : Nat) (c : Command), Claims.Runs s 4 k c → c.word 7 = 1 → c.word 6 ≠ 0 →
    let n := (c.word 6).toNat
    let row := mkPtr (segOf (c.pair 2)) (offOf (c.pair 2) + Claims.word32 s i * (c.word 8).toNat)
    Claims.AtHome s c.ctx (c.pair 10) 4 .read i [] → Claims.AtHome s c.ctx row n .read a [(h, n)] →
    Claims.AtHome s c.ctx (c.pair 4) n .write h [(h, n)] → offOf (c.pair 2) + Claims.word32 s i * (c.word 8).toNat < 2 ^ 44 → Claims.Apart a n h n →
    ∃ t, exec .gather s = .next t ∧ Claims.EngineOnly s t c (Claims.blocks (offOf (c.pair 4)) n) ∧ Claims.Ended s t k c 1 0 ∧
      Claims.Wrote s t h n (fun j => s.homeByte (a + j))) ∧
  (∀ (s : State) (k a h : Nat) (c : Command), Claims.Runs s 5 k c → c.word 7 = 4 ∨ c.word 7 = 6 → c.word 6 ≠ 0 →
    c.word 8 = 0 → c.word 9 = 0 → c.word 10 = 0 → c.word 11 = 0 →
    let z := if c.word 7 = 4 then 4 else 2
    let f := if c.word 7 = 4 then Fmt.f32 else Fmt.bf16
    let n := (c.word 6).toNat
    let sum (e : Nat) : Nat × Flags := fArith f ⟨.rn, false, false⟩ 0 (f.decode false (leNat (s.homeBytes (h + z * e) z)))
      (f.decode false (leNat (s.homeBytes (a + z * e) z))) (.fin false 0 0)
    offOf (c.pair 2) % z = 0 → offOf (c.pair 4) % z = 0 →
    Claims.AtHome s c.ctx (c.pair 2) (n * z) .read a [(h, n * z)] → Claims.AtHome s c.ctx (c.pair 4) (n * z) .atomic h [(h, n * z)] →
    Claims.Apart a (n * z) h (n * z) →
    ∃ t detail, exec .redadd s = .next t ∧ Claims.EngineOnly s t c (Claims.blocks (offOf (c.pair 4)) (n * z)) ∧ Claims.Ended s t k c 1 detail ∧
      (∀ e, e < n → leNat (t.homeBytes (h + z * e) z) = (sum e).1) ∧ (∀ b, b < h ∨ h + n * z ≤ b → t.homeByte b = s.homeByte b) ∧
      ∀ l, l < 8 → (detail.getLsbD l = true ↔ ∃ e, e < n ∧ (sum e).2.getLsbD l = true)) ∧
  (∀ (s : State) (k h : Nat) (c : Command), Claims.Runs s 9 k c → c.word 5 = 0 → c.word 6 = 0 → c.word 7 = 0 → c.word 10 = 0 → c.word 11 = 0 →
    Claims.AtHome s c.ctx (c.pair 8) 8 .write h [] →
    let made := Config.translated (c.pair 2).toNat (c.word 4).toNat s.turn
    ∃ t, exec .translate s = .next t ∧
      (∀ e, made = .error e → { t with commands := s.commands } = s ∧ Claims.Ended s t k c 2 e) ∧
      ∀ g, made = .ok g →
        (s.freeSeg c.ctx g.seg = none → { t with commands := s.commands } = s ∧ Claims.Ended s t k c 2 0xFF) ∧
        ∀ n b, s.freeSeg c.ctx g.seg = some n →
          let d := (s.context c.ctx).segBase + 32 * n
          let z := g.code.length
          (s.descHome c.ctx n).valid = false → 5 ≤ n → n < (s.context c.ctx).stl → 0 < z → z < 2 ^ 44 → d + 32 ≤ 2 ^ 64 →
          (∀ u, Claims.SameBut s u [(d, 32)] → u.descHome c.ctx n = Claims.newCode g → u.pieces c.ctx (mkPtr n 0) z = [(.home b, z)]) →
          Claims.AtHome s c.ctx (c.pair 8) 8 .write h [(d, 32), (b, z)] → Claims.Apart d 32 b z → Claims.Apart d 32 h 8 → Claims.Apart b z h 8 →
          Claims.EngineOnly s t c ((z + 63) / 64) ∧ Claims.Ended s t k c 1 0 ∧
          t.descHome c.ctx n = Claims.newCode g ∧ (∀ j, j < z → t.homeByte (b + j) = g.code.getD j 0) ∧
          (∀ j, j < 8 → t.homeByte (h + j) = (mkPtr n 0).extractLsb' (8 * j) 8) ∧
          ∀ a, (a < d ∨ d + 32 ≤ a) → (a < b ∨ b + z ≤ a) → (a < h ∨ h + 8 ≤ a) → t.homeByte a = s.homeByte a) ∧
  ∀ (i_ : Instr) (s : State) (k half m q o ha hb : Nat) (c : Command),
    (i_ = .litBuild ∧ Claims.Runs s 6 k c) ∨ (i_ = .litDelta ∧ Claims.Runs s 7 k c) → State.litBad c = false → s.litHalf k c = half →
    let x := ((c.word 6).extractLsb' 0 16).toNat
    let y := ((c.word 6).extractLsb' 16 16).toNat
    let n := (x * y + 7) / 8
    let size := (c.word 9).toNat
    let head := c.pair 4
    let at_ (j : Nat) : Ptr := mkPtr (segOf head) (offOf head + 64 + j * size)
    Claims.AtHome s c.ctx (c.pair 2) n .read m [] →
    (c.type = 7 → Claims.AtHome s c.ctx (c.pair 10) n .read q [] ∧ Claims.AtHome s c.ctx (at_ (1 - half)) size .read o []) →
    Claims.AtHome s c.ctx (at_ half) size .write hb [(hb, size)] → s.engineCheck c.ctx head 4 false .read = none →
    Claims.AtHome s c.ctx head 4 .write ha [(hb, size)] → Claims.Apart ha 4 hb size →
    let near (map id : Nat) : Prop := Claims.Near s map x y ((c.word 7).extractLsb' 0 2).toNat id
    ∃ (t : State) (ids : List Nat), exec i_ s = .next t ∧ Claims.EngineOnly s t c ((4 + 4 * ids.length + 63) / 64 + 1) ∧ Claims.Ended s t k c 1 0 ∧
      ids.Pairwise (· < ·) ∧ Claims.word32 t hb = ids.length ∧ (∀ j id, ids[j]? = some id → Claims.word32 t (hb + 4 + 4 * j) = id) ∧
      Claims.word32 t ha = half ∧
      (∀ a, (a < hb ∨ hb + 4 + 4 * ids.length ≤ a) → (a < ha ∨ ha + 4 ≤ a) → t.homeByte a = s.homeByte a) ∧
      ∀ id, id ∈ ids ↔ id < x * y ∧
        ((c.type = 6 ∨ near q id) → near m id) ∧
        (c.type = 7 ∧ ¬ near q id → ∃ j, j < min (Claims.word32 s o) (x * y) ∧ Claims.word32 s (o + 4 + 4 * j) = id)

/-- R308, R309: the command unit dispatches the ready command of the queue with the lowest PRI, by the entry it was accepted under; a COPY's ranges are locked at
that moment (R318, R319), the stores sent into them before performed first (R320). R310 to R313: completion raises COUNT and writes DETAIL and STATUS, sends the queue's vector, lowers the group's copy count and
the successor's count, and frees the command and its locks. R325, R327, R328: a LAUNCH whose shape and entry are sound makes its record
and its teams, in order, each pending on a die with the fewest pending.
The model's reading where the rules leave it open: log entries 48, 56 and 58. -/
def Obligations.CommandLife : Prop :=
  (∀ (s : State) (j k n m : Nat) (c d : Command), s.commands = [(j, c), (k, d)] ∨ s.commands = [(k, d), (j, c)] → j ≠ k →
    c.type = 8 → d.type = 8 → c.state = .ready n → d.state = .ready m → s.budgets = [] → c.queue < 64 → d.queue < 64 → c.ctx < 64 → d.ctx < 64 →
    (c.ctx, c.queue) ≠ (d.ctx, d.queue) → (∀ a ∈ s.accesses, a.2.cmd ≠ j) → (c.entry.extractLsb' 0 3).toNat < (d.entry.extractLsb' 0 3).toNat →
    ∃ t, exec .commandDispatch s = .next t ∧ { t with commands := s.commands, dies := s.dies } = s ∧
      t.commands.get? j = some { c with state := .running, since := s.nextAccess } ∧ t.commands.get? k = some d ∧
      (∀ e, e ≠ c.die → t.die e = s.die e) ∧ t.die c.die = { s.die c.die with umbra := (s.die c.die).umbra.filter (·.cmd != j) }) ∧
  (∀ (s : State) (k n : Nat) (c : Command), s.commands = [(k, c)] → c.type = 2 → c.flags.getLsbD 1 = false → c.flags.getLsbD 2 = false →
    c.state = .ready n → s.budgets = [] → s.absentPages k c = [] → s.overlaps c = false → (∀ a ∈ s.accesses, a.2.cmd ≠ k) →
    let span (pitch : Nat) : Nat := ((c.word 7).toNat - 1) * (c.word pitch).toNat + (c.word 6).toNat
    let u := s.drainInto (s.lockedHomes k c)
    (∀ g p, p ∈ (u.group g).path → ∀ x ∈ p.bytes, ∀ r ∈ s.lockedHomes k c, x.1 < r.1 ∨ r.1 + r.2 ≤ x.1) ∧
    { u with groups := s.groups, domains := s.domains } = s ∧ ((∀ g, (s.group g).path = []) → u = s) ∧
    ∃ t, exec .commandDispatch s = .next t ∧ { t with commands := u.commands, dies := u.dies } = u ∧
      t.commands = [(k, { c with state := .running, since := s.nextAccess })] ∧ (∀ e, e ≠ c.die → t.die e = s.die e) ∧
      t.die c.die = { s.die c.die with umbra := (s.die c.die).umbra.filter (·.cmd != k) ++
        [⟨k, c.ctx, segOf (c.pair 2), offOf (c.pair 2), span 8, false, true⟩, ⟨k, c.ctx, segOf (c.pair 4), offOf (c.pair 4), span 9, true, true⟩] }) ∧
  (∀ (s : State) (k h n w : Nat) (c e : Command) (st dt : Byte) (x : Context), s.subject = .command k → s.commands.get? k = some c →
    c.state = .moved st dt → c.type ≠ 1 → c.nodeId = 0 → c.succs = [n, 0, 0, 0] → n ≠ 0 → s.contexts.get? c.ctx = some x →
    (∀ l ∈ s.launches, l.2.cmd ≠ k) → (∀ a ∈ s.accesses, a.2.cmd ≠ k) → s.hostUp = true → s.posted = [] → x.resets = c.resets → c.record ≠ 0 → s.pieces c.ctx c.record 8 = [(.home h, 8)] → Claims.Sound s h 8 →
    (s.node c.ctx n).cmd = some w → w ≠ k → s.commands.get? w = some e → e.state = .waiting →
    let q : DWord := c.entry
    let v := s.node c.ctx n
    let cancel := v.cancel || (c.halt && st != 1)
    ∃ t, exec .commandComplete s = .next t ∧
      { t with commands := s.commands, dies := s.dies, groups := s.groups, outbox := s.outbox, hbm := s.hbm,
               poison := s.poison, mirrors := s.mirrors, contexts := s.contexts, nextReady := s.nextReady } = s ∧
      Claims.Wrote s t h 8 (fun j => if j = 0 then st else if j = 1 then dt else if j < 4 then 0
        else BitVec.ofNat 8 ((Claims.word32 s (h + 4) + 1) / 2 ^ (8 * (j - 4)))) ∧
      t.outbox = s.outbox ++ (if q.getLsbD 62 then [.msix 0 (q.extractLsb' 32 11).toNat] else []) ∧
      t.die c.die = { s.die c.die with umbra := (s.die c.die).umbra.filter (·.cmd != k) } ∧ (∀ d, d ≠ c.die → t.die d = s.die d) ∧
      (∀ gid g, s.groups.get? gid = some g → t.groups.get? gid =
        some (if c.pusher = some gid ∧ c.counted = true then { g with copies := g.copies - 1 } else g)) ∧
      t.commands.get? k = none ∧ (∀ j, j ≠ k → j ≠ w → t.commands.get? j = s.commands.get? j) ∧
      t.node c.ctx n = { v with count := v.count - 1, cancel := cancel } ∧ (∀ m, m ≠ n → t.node c.ctx m = s.node c.ctx m) ∧
      t.commands.get? w = some (if v.count - 1 ≤ 0 then { e with state := if cancel then .moved 3 0 else .ready s.nextReady } else e)) ∧
  ∀ (s : State) (k : Nat) (c : Command), Claims.Runs s 1 k c → launchShape c = none → c.pin = none → c.pair 10 = 0 → c.pair 8 = 0 →
    c.flags.getLsbD 3 = false → c.flags.getLsbD 6 = false → c.flags.getLsbD 7 = false → c.word 4 ≠ 0 →
    (let d := s.descHome c.ctx (segOf (c.pair 2))
     d.valid = true ∧ d.type = 1 ∧ d.exec = true ∧ offOf (c.pair 2) % 4 = 0 ∧ offOf (c.pair 2) + 4 ≤ d.len) →
    let l := s.nextLaunch
    let n := (c.word 4).toNat
    ∃ t la, exec .launch s = .next t ∧
      { t with launches := s.launches, teams := s.teams, dies := s.dies, nextLaunch := s.nextLaunch, nextTeam := s.nextTeam } = s ∧
      t.nextLaunch = l + 1 ∧ t.nextTeam = s.nextTeam + n ∧ (∀ j, j ≠ l → t.launches.get? j = s.launches.get? j) ∧ t.launches.get? l = some la ∧
      la.ctx = c.ctx ∧ la.id = BitVec.ofNat 32 l ∧ la.cmd = k ∧ la.width = 16 * 2 ^ (c.flags.extractLsb' 4 2).toNat ∧
      la.tsize = ((c.word 5).extractLsb' 0 16).toNat ∧ la.regs = ((c.word 5).extractLsb' 16 8).toNat ∧
      la.tiles = ((c.word 5).extractLsb' 24 4).toNat ∧ la.rays = 4 * ((c.word 5).extractLsb' 28 4).toNat ∧
      la.spad = 64 * ((c.word 6).extractLsb' 0 13).toNat ∧ la.accs = ((c.word 6).extractLsb' 13 5).toNat ∧
      la.prio = ((c.word 6).extractLsb' 18 3).toNat ∧ la.restart = c.flags.getLsbD 0 ∧ la.shadow = c.flags.getLsbD 1 ∧
      la.entry = c.pair 2 ∧ la.leases = [] ∧ la.teams = n ∧ la.ended = 0 ∧ la.kernel = c.kernel ∧
      (∀ q, q < s.nextTeam ∨ s.nextTeam + n ≤ q → t.teams.get? q = s.teams.get? q) ∧
      (∀ j, j < n → ∃ T, t.teams.get? (s.nextTeam + j) = some T ∧ T.launch = l ∧ T.index = j ∧ T.place = .pending ∧ T.tsize = la.tsize ∧
        T.params = List.replicate 16 0 ∧ T.die < 4 ∧
        (n = 1 → ∀ d, d < 4 → (s.die T.die).pending.length ≤ (s.die d).pending.length ∧
          (d < T.die → (s.die T.die).pending.length < (s.die d).pending.length))) ∧
      ∀ d, ∃ ks, t.die d = { s.die d with pending := (s.die d).pending ++ ks } ∧ ks.Pairwise (· < ·) ∧
        ∀ q, q ∈ ks ↔ s.nextTeam ≤ q ∧ q < s.nextTeam + n ∧ ∃ T, t.teams.get? q = some T ∧ T.die = d

/-! Placement, pre-emption and return of teams, and the module as a whole (08 R141 to R155, 14 R241, 18 R334, 20 R353 to R363, R368, 21 R387,
R388, 23 R417 to R419). -/

namespace Sys2Proof.Claims

/-- Thread `u` of team `k` and its group. -/
def InTeam (s : State) (k u : Nat) (z : Thread) (g : Group) : Prop :=
  s.threads.get? u = some z ∧ teamOf (gidOf u) = k ∧ s.groups.get? (gidOf u) = some g

/-- The little-endian word and double word at a home address. -/
def wordOf (s : State) (a : Nat) : Word := BitVec.ofNat 32 (leNat (s.homeBytes a 4))
def dwordOf (s : State) (a : Nat) : DWord := BitVec.ofNat 64 (leNat (s.homeBytes a 8))

/-- May a range become an Afterglow region (R387): at most 64 of them, 8 GiB together, 64 KiB-aligned bytes of a DATA segment? -/
def MayRegister (s : State) (ctx seg off len : Nat) : Prop :=
  let d := s.descHome ctx seg
  s.regions.length < 64 ∧ (s.regions.map (·.len)).sum + len ≤ 8 * 2 ^ 30 ∧ off % 65536 = 0 ∧ len % 65536 = 0 ∧ 0 < len ∧
    d.valid = true ∧ d.type = 0 ∧ off + len ≤ d.len

/-- The home ranges under the private slices that a subject brings for the groups of a team (R19, R235). -/
def sliceHomes (s : State) (la : Launch) (areas : List RuntimeArea) : List (Nat × Nat) :=
  (List.range la.groups).flatMap (fun j => s.spanHomes la.ctx (s.sliceSpan la.ctx la.width (areas.getD j ⟨0, 0, 0⟩).slice))
def Within (rs : List (Nat × Nat)) (a : Nat) : Prop := ∃ r ∈ rs, r.1 ≤ a ∧ a < r.1 + r.2

/-- The slices fit (R19), and no table of the context lies in them. -/
structure SlicesStand (s : State) (la : Launch) (areas : List RuntimeArea) : Prop where
  fit : s.slicesFit la ((List.range la.groups).map (fun j => (areas.getD j ⟨0, 0, 0⟩).slice)) = true
  clear : ∀ u : State, u.contexts = s.contexts → (∀ a, ¬ Within (sliceHomes s la areas) a → u.homeByte a = s.homeByte a) → ∀ b,
    u.spanHomes la.ctx (u.sliceSpan la.ctx la.width b) = s.spanHomes la.ctx (s.sliceSpan la.ctx la.width b)

/-- Nothing of context `ctx` that `on` picks is on its way to the host (R411). -/
def Settled (s : State) (ctx : Nat) (on : Ptr → Nat → Bool) : Prop :=
  (∀ p ∈ s.posted, s.ctxOf p.gid = ctx → on p.addr p.data.length = false) ∧ ∀ e ∈ s.accesses, e.2.ctx = ctx → on e.2.addr e.2.len = false

/-- Nothing of context `ctx` runs: no team of it that has not ended, and no command of it under way. -/
def Quiet (s : State) (ctx : Nat) (gone : Command → Prop) : Prop :=
  (∀ e ∈ s.teams, (s.launch e.2.launch).ctx = ctx → e.2.place = .ended) ∧ ∀ e ∈ s.commands, e.2.ctx = ctx → gone e.2

end Sys2Proof.Claims

/-- R19, R23, R136, R141, R146, R155, R327: TEAM_PLACE starts the team at the head of a die's order on its fitting core of least score, the lowest on
a tie, with its parameters in s0 to s15 and every thread at the entry, v31 the length of its slice, its private slices zero. R334: REBALANCE moves half of the
difference from the die with most pending teams to the one with fewest, the highest TEAM numbers first. R353, R347, R358: PREEMPT enters
slot P of each running thread at the handler plus 16, or parks it by the default handler. R354, R355, R360, R361: PARK_COMPLETE
writes the small state to the save area, the generator state and the counts of the collective domains within it, and the team leaves its
core. R357: PARKED_TEAM_RETURN puts the team back with what its save area holds, vector registers zero. The forms completed: teamPlace,
rebalance, preemptRequest, parkComplete and parkedTeamReturn. The model's reading where the rules leave it open: log entries 3, 15, 67, 70, 72,
75 and 136. -/
def Obligations.TeamMoves : Prop :=
  (∀ (s : State) (die k : Nat) (rest : List Nat) (areas : List RuntimeArea) (T : Team) (la : Launch), s.subject = .placing die areas →
    (s.die die).pending = k :: rest → s.teams.get? k = some T → s.launches.get? T.launch = some la → T.gang.length ≤ 1 → T.tileId = none →
    la.leases = [] → la.pin = none → la.width ∈ [16, 32, 64] → la.groups ≤ 192 → (∀ e ∈ s.teams, e.2.place ≠ .parked) →
    Claims.SlicesStand s la areas →
    let fits (c : Nat) : Prop := 96 * die ≤ c ∧ c < 96 * die + 96 ∧ s.fits la [c] = true
    let score (c : Nat) : Nat := s.spotScore ⟨[(k, [c])], [c]⟩
    (∃ c, fits c) →
    ∃ t core, exec .teamPlace s = .next t ∧ fits core ∧ (∀ c, fits c → score core ≤ score c ∧ (c < core → score core < score c)) ∧
      { t with threads := s.threads, groups := s.groups, teams := s.teams, dies := s.dies, domains := s.domains, pkrCopies := s.pkrCopies,
               hbm := s.hbm, poison := s.poison, mirrors := s.mirrors } = s ∧
      (∀ a, (Claims.Within (Claims.sliceHomes s la areas) a → t.homeByte a = 0 ∧ (t.domain (State.domOfCore core)).overlay.get? a = none) ∧
        (¬ Claims.Within (Claims.sliceHomes s la areas) a → t.homeByte a = s.homeByte a)) ∧
      (∀ d, d ≠ die → t.die d = s.die d) ∧ t.die die = { s.die die with pending := rest.filter (· != k) } ∧
      (∀ j, j ≠ k → t.teams.get? j = s.teams.get? j) ∧
      t.teams.get? k = some { T with place := .resident, cores := [core], age := s.cycle, spad := [], bars := [] } ∧
      (∀ j, teamOf j ≠ k → t.groups.get? j = s.groups.get? j) ∧ (∀ u, teamOf (gidOf u) ≠ k → t.threads.get? u = s.threads.get? u) ∧
      (∀ j, j < la.groups → ∃ g, t.groups.get? (gidAt k j) = some g ∧ g.core = core ∧ g.part < 4 ∧ g.level = la.prio ∧ g.thnd = 0 ∧
        g.shadow.isSome = la.shadow ∧ (∀ n, g.sreg n = if n < 16 then T.params.getD n 0 else 0) ∧
        ∀ a, areas[j]? = some a → g.reply = a.reply ∧ g.savep = a.savep ∧ g.slice = a.slice) ∧
      ∀ i, i < la.tsize → ∃ y, t.threads.get? (tidAt (gidAt k (i / la.width)) (i % la.width)) = some y ∧ y.pc = la.entry ∧ y.depth = 0 ∧
        y.preds = 0 ∧ y.life = .running ∧ y.wait = .none ∧
        ∀ n, y.reg n = if n = 30 then 0x3000 else if n = 31 then BitVec.ofNat 32 (s.descHome la.ctx 3).len else 0) ∧
  (∀ (s : State) (l : Nat) (ks : List Nat), (s.die 0).pending = ks → (∀ d, 1 ≤ d → d < 4 → (s.die d).pending = []) → s.rebal ≠ 0 →
    s.rebal ≤ ks.length → (s.launch l).pin = none → (∀ k ∈ ks, ∃ T, s.teams.get? k = some T ∧ T.launch = l ∧ T.gang.length ≤ 1) →
    ks.Pairwise (fun a b => (s.team a).index < (s.team b).index) →
    let n := ks.length / 2
    ∃ t, exec .rebalance s = .next t ∧ { t with dies := s.dies, teams := s.teams } = s ∧
      t.die 0 = { s.die 0 with pending := ks.take (ks.length - n) } ∧ t.die 1 = { s.die 1 with pending := ks.drop (ks.length - n) } ∧
      (∀ d, 1 < d → t.die d = s.die d) ∧
      ∀ k T, s.teams.get? k = some T → t.teams.get? k = some (if k ∈ ks.drop (ks.length - n) then { T with die := 1 } else T)) ∧
  (∀ (s : State) (l core k : Nat) (T : Team), s.subject = .launchOn l core → s.teamsOf l = [k] → s.teams.get? k = some T →
    T.place = .resident → core ∈ T.cores → T.ending = none →
    (∀ gid g, s.groups.get? gid = some g → teamOf gid = k → g.spec = none ∧ ∀ e ∈ g.doms, e.2.inFlight = false) →
    (∀ u z, s.threads.get? u = some z → teamOf (gidOf u) = k → ∀ a, z.wait ≠ .acquire a) →
    ∃ t, exec .preemptRequest s = .next t ∧ { t with threads := s.threads, groups := s.groups, teams := s.teams } = s ∧
      t.teams.get? k = some { T with preempting := true } ∧ (∀ j, j ≠ k → t.teams.get? j = s.teams.get? j) ∧
      (∀ gid g, s.groups.get? gid = some g → t.groups.get? gid = some (if teamOf gid = k then { g with preempt := false } else g)) ∧
      (∀ u z, s.threads.get? u = some z → teamOf (gidOf u) ≠ k ∨ z.life ≠ .running ∨ z.slotP.isSome → t.threads.get? u = some z) ∧
      ∀ u z g, Claims.InTeam s k u z g → z.life = .running → z.slotP = none → z.wait = .none →
        (g.thnd = 0 → t.threads.get? u = some { z with defPark := true }) ∧
        (g.thnd ≠ 0 → ∃ y sl, t.threads.get? u = some y ∧ y.slotP = some sl ∧ sl.resume = z.pc ∧ sl.depth = z.depth ∧ sl.rpc = z.rpc ∧
          sl.crossings = z.cross.length ∧ segOf y.pc = g.thndSeg % 2 ^ 20 ∧ offOf y.pc = g.thnd.toNat + 16 ∧ y.rpc = 0 ∧ y.inRep = false ∧
          { y with slotP := z.slotP, pc := z.pc, rpc := z.rpc, inRep := z.inRep, pair := z.pair, released := z.released,
                   idleTicks := z.idleTicks } = z)) ∧
  (∀ (s : State) (l core k gid b : Nat) (T : Team) (g : Group), s.subject = .launchOn l core → s.teamsOf l = [k] → s.teams.get? k = some T →
    T.place = .resident → core ∈ T.cores → T.preempting = true → T.ending = none → s.groupsOf k = [gid] → s.groups.get? gid = some g →
    g.mqueue = [] → g.parked = false → g.shadow = none → s.accesses = [] →
    let la := s.launchOf gid
    let len := 1024 + 1024 * la.width
    la.width ∈ [16, 32, 64] → la.regs < 256 → (∃ u z, s.threads.get? u = some z ∧ gidOf u = gid ∧ z.life ≠ .exited) →
    (∀ u z, s.threads.get? u = some z → gidOf u = gid → z.life ≠ .exited → z.defPark = false ∧ z.deferred = [] ∧ ∃ r, z.wait = .park r) →
    s.saveCheck gid 0 len = none → s.pieces (s.ctxOf gid) g.savep len = [(.home b, len)] →
    ∃ t, exec .parkComplete s = .next t ∧
      { t with groups := s.groups, teams := s.teams, hbm := s.hbm, poison := s.poison, mirrors := s.mirrors,
               ahead := s.ahead } = s ∧
      t.teams.get? k = some { T with place := .parked, parkedAt := s.cycle, preempting := false, lazyOut := false } ∧
      (∀ j, j ≠ k → t.teams.get? j = s.teams.get? j) ∧ (∀ j, j ≠ gid → t.groups.get? j = s.groups.get? j) ∧
      t.groups.get? gid = some { g with active := false, ready := 0, parked := true } ∧
      (∀ a, a < b ∨ b + len ≤ a → t.homeByte a = s.homeByte a) ∧
      Claims.wordOf t b = 1#8 ++ BitVec.ofNat 8 la.width ++ BitVec.ofNat 8 la.regs ++ (0 : BitVec 5) ++ BitVec.ofBool (decide (gidxOf gid = 0)) ++ 3#2 ∧
      Claims.wordOf t (b + 4) = la.id ∧ Claims.wordOf t (b + 8) = BitVec.ofNat 32 T.index ∧
      (g.gen = none → ∀ n, n < 10 → Claims.wordOf t (b + 0x40 + 4 * n) = 0) ∧
      (∀ x, g.gen = some x → Claims.wordOf t (b + 0x40) = x.buf ∧ Claims.wordOf t (b + 0x50) = BitVec.ofNat 32 x.head ∧
        Claims.wordOf t (b + 0x54) = BitVec.ofNat 32 x.cnt ∧ Claims.wordOf t (b + 0x58) = BitVec.ofNat 32 x.frc.toNat ∧
        Claims.wordOf t (b + 0x5C) = if x.consumer then 2 else 1) ∧
      (∀ d, d < 16 → Claims.wordOf t (b + 0x80 + 16 * d) = BitVec.ofNat 32 (g.domain d).count) ∧
      (∀ n, n < 96 → Claims.wordOf t (b + 0x180 + 4 * n) = g.sreg n) ∧
      ∀ u z r, s.threads.get? u = some z → gidOf u = gid → laneOf u < la.width → z.life ≠ .exited → z.wait = .park r →
        let p := b + 0x400 + 1024 * laneOf u
        Claims.dwordOf t p = r ∧ (Claims.wordOf t (p + 8)).extractLsb' 0 16 = z.depth ∧ Claims.wordOf t (p + 12) = z.preds.setWidth 32 ∧
        Claims.wordOf t (p + 0x10) = z.fpsr ∧ Claims.wordOf t (p + 0x1C) = z.stklim ∧ Claims.wordOf t (p + 0x20) = z.fcode) ∧
  ∀ (s : State) (k gid b : Nat) (T : Team) (g : Group), s.subject = .team k → s.teams = [(k, T)] → s.mayReturn k = true → T.lazyOut = false →
    s.groupsOf k = [gid] → s.groups.get? gid = some g →
    let la := s.launchOf gid
    let len := 1024 + 1024 * la.width
    (∃ u z, s.threads.get? u = some z ∧ gidOf u = gid ∧ z.life ≠ .exited) →
    (∀ u z, s.threads.get? u = some z → gidOf u = gid → z.defPark = false) → Claims.Clean s →
    s.pieces (s.ctxOf gid) g.savep len = [(.home b, len)] →
    ∃ t g', exec .parkedTeamReturn s = .next t ∧ { t with threads := s.threads, groups := s.groups, teams := s.teams } = s ∧
      (∃ U, t.teams = [(k, U)] ∧ { U with bars := T.bars } =
          { T with place := .resident, returnedAt := s.cycle, preempting := false, lazyOut := false } ∧
        ∀ n x, T.bars.get? n = some x → U.bars.get? n =
          some (if x.arrived = [] then x else { x with start := x.start + (s.cycle - T.parkedAt) })) ∧
      (∀ j, j ≠ gid → t.groups.get? j = s.groups.get? j) ∧ t.groups.get? gid = some g' ∧ g'.parked = false ∧ g'.rays = [] ∧
      g'.tiles = g.tiles ∧ g'.accs = g.accs ∧ g'.barto = Claims.wordOf s (b + 0x18) ∧ g'.cbrto = Claims.wordOf s (b + 0x1C) ∧
      (∀ n, n < 96 → g'.sreg n = Claims.wordOf s (b + 0x180 + 4 * n)) ∧
      (∀ u z, s.threads.get? u = some z → gidOf u ≠ gid ∨ z.life = .exited → t.threads.get? u = some z) ∧
      ∀ u z, s.threads.get? u = some z → gidOf u = gid → laneOf u < la.width → z.life ≠ .exited → ∃ y, t.threads.get? u = some y ∧
        let p := b + 0x400 + 1024 * laneOf u
        y.pc = Claims.dwordOf s p ∧ y.depth = (Claims.wordOf s (p + 8)).extractLsb' 0 16 ∧ y.preds = (Claims.wordOf s (p + 12)).extractLsb' 0 15 ∧
        y.fpsr = Claims.wordOf s (p + 0x10) ∧ y.stklim = Claims.wordOf s (p + 0x1C) ∧
        ((Claims.wordOf s (p + 0x38)).extractLsb' 0 4 = 0 → y.wait = .none) ∧ y.life = z.life ∧ ∀ n, y.reg n = 0

/-- R368: a budget period counts afresh. R363, R232, R413: a reset context that nothing runs in is stopped, holds no node record, seal or pool record, no
region, no cached translation or descriptor and no denial, counts one reset more, and no page of it is mapped: the level-3 entries present in
its tables are zero, every other byte stands. R241: a reclaimed page is
mapped no more, its own entry alone zeroed, and cached nowhere, and R240: a page of a context-resident segment stays while a launch of its context is pending or runs.
R387: a region is registered where no limit is broken. R388: at a power failure the registered region's bytes
go to flash with its digest, and of the rest only what flash, the host and the log of messages hold is left. R1, R3, R334, R417, R418: power-up
runs an image whose signature and versions hold and that states eight stacks of 96 GiB, and no other; on a single-module carrier DEV is 0; the capability table has its header, the
record of the ports, all of which work, and its end. R419: the thermal limits. The forms completed: budgetPeriod, contextReset, pageReclaim,
afterglowRegister, afterglowPowerFail, modulePowerUp, thermalThrottle and thermalStop.
The model's reading where the rules leave it open: log entries 80, 83, 128 and 129. -/
def Obligations.ModuleEvents : Prop :=
  (∀ s : State, exec .budgetPeriod s = .next { s with used := [], slotUse := [] }) ∧
  (∀ (s : State) (ctx : Nat) (x : Context), s.subject = .context ctx → s.contexts.get? ctx = some x → x.tableBase % 2048 = 0 →
    Claims.Quiet s ctx (fun _ => False) → Claims.Settled s ctx (fun _ _ => true) →
    ∃ t, exec .contextReset s = .next t ∧
      { t with contexts := s.contexts, regions := s.regions, hbm := s.hbm, poison := s.poison, pages := s.pages,
               descs := s.descs, dies := s.dies, mirrors := s.mirrors } = s ∧
      (∀ c, c ≠ ctx → t.contexts.get? c = s.contexts.get? c) ∧
      t.contexts.get? ctx = some { x with stopped := true, nodes := [], pool := 0, seals := [], resets := x.resets + 1 } ∧
      (∀ r, r ∈ t.regions ↔ r ∈ s.regions ∧ r.ctx ≠ ctx) ∧ (∀ dva, t.walk ctx dva = none) ∧
      (∀ a, t.homeByte a = if ∃ b ∈ s.leafAddrs ctx, b ≤ a ∧ a < b + 8 then 0 else s.homeByte a) ∧
      (∀ n, t.pages.get? n = if n / 2 ^ 32 % 64 = ctx then none else s.pages.get? n) ∧
      (∀ n, t.descs.get? n = if n / 2 ^ 20 % 64 = ctx then none else s.descs.get? n) ∧
      ∀ d, t.die d = { s.die d with denial := (s.die d).denial.filter (·.ctx != ctx) }) ∧
  (∀ (s : State) (ctx page : Nat), s.subject = .page ctx page → page < 2 ^ 32 → (s.context ctx).tableBase % 8 = 0 →
    Claims.Quiet s ctx (fun c => c.state ≠ .running ∧ c.type ≠ 1) → Claims.Settled s ctx (s.onPage ctx page) →
    ∃ t, exec .pageReclaim s = .next t ∧
      { t with hbm := s.hbm, poison := s.poison, mirrors := s.mirrors, pages := s.pages, dies := s.dies } = s ∧
      t.walk ctx (page * 65536) = none ∧
      (∀ a, t.homeByte a = if ∃ b, s.leafAddr ctx page = some b ∧ b ≤ a ∧ a < b + 8 then 0 else s.homeByte a) ∧
      (∀ n, t.pages.get? n = if n / 2 ^ 32 % 64 = ctx ∧ n % 2 ^ 32 = page then none else s.pages.get? n) ∧
      ∀ d, { t.die d with denial := (s.die d).denial } = s.die d ∧
        ∀ e, e ∈ (t.die d).denial ↔ e ∈ (s.die d).denial ∧ ¬ (e.ctx = ctx ∧ ∃ v ∈ e.via, v.2 = page)) ∧
  (∀ (s : State) (ctx page g : Nat), s.subject = .page ctx page → g < (s.context ctx).stl →
    let d := s.descHome ctx g
    d.valid = true → d.type ∈ [1, 2, 3, 4, 7] → d.base < (page + 1) * 65536 → page * 65536 < d.base + d.len →
    (∃ e ∈ s.teams, (s.launch e.2.launch).ctx = ctx ∧ e.2.place ≠ .ended) ∨ (∃ e ∈ s.commands, e.2.ctx = ctx ∧ e.2.type = 1) →
    exec .pageReclaim s = .next s) ∧
  (∀ (s : State) (ctx seg off len : Nat), s.subject = .region ctx seg off len →
    (Claims.MayRegister s ctx seg off len → exec .afterglowRegister s = .next { s with regions := s.regions ++ [⟨ctx, seg, off, len⟩] }) ∧
    (¬ Claims.MayRegister s ctx seg off len → exec .afterglowRegister s = .next s)) ∧
  (∀ (s : State) (r : Region) (a : Nat), s.power = .on → s.groups = [] → s.domains = [] → s.commands = [] → s.regions = [r] →
    s.pieces r.ctx (mkPtr r.seg r.off) r.len = [(.home a, r.len)] → Claims.Sound s a r.len →
    exec .afterglowPowerFail s = .next { State.reset with
      flash := some ⟨[⟨r, s.homeBytes a r.len, [], Config.sha3 (s.homeBytes a r.len)⟩], Config.manifestWhole s.turn⟩, minimum := s.minimum, hostMem := s.hostMem, outbox := s.outbox, turn := s.turn,
      cycle := s.cycle }) ∧
  (∀ (s : State) (im : FirmwareImage), s.subject = .firmware im → s.power ≠ .on → s.ports = [] →
    let good := im.signatureGood = true ∧ im.minimum ≤ im.version ∧ s.minimum ≤ im.version ∧ im.carrier ≤ 1 ∧ im.rebal ≤ 65535 ∧
      im.windowSize % 2 ^ 28 = 0 ∧ im.windowSize ≤ 2 ^ 39 ∧ im.stackSizes = List.replicate 8 (96 * 2 ^ 30)
    (¬ good → exec .modulePowerUp s = .next { s with power := .recovery }) ∧
    (good → ∃ t, exec .modulePowerUp s = .next t ∧ { t with ports := s.ports, capTable := s.capTable } =
        { s with
          power := .on, dev := if im.carrier = 1 then 0 else im.dev, minimum := max s.minimum im.minimum, hostUp := true,
          rebal := im.rebal, windowHost := im.windowHostBase, windowDevice := im.windowDeviceBase, windowSize := im.windowSize } ∧
      leNat (t.capTable.take 4) = 0x10000 ∧ leNat ((t.capTable.drop 4).take 4) = t.capTable.length % 2 ^ 32 ∧
      (t.capTable.drop 8).take 8 = List.replicate 8 0 ∧ t.capTable.drop (t.capTable.length - 4) = List.replicate 4 0 ∧
      (∃ before after, t.capTable = before ++ [5, 0, 4, 0, 0xFF, 0xFF, 0xFF, 0xFF] ++ after ∧ 16 ≤ before.length ∧ before.length % 4 = 0) ∧
      ∀ p, p < 32 → (t.port p).up = true ∧ (t.port p).trained = true ∧ ∀ c, c < 4 → (t.port p).credits.getD c 0 = [64, 64, 16, 8].getD c 0)) ∧
  (∀ s : State, exec .thermalThrottle s = .next { s with halved := true }) ∧
  ∀ s : State, exec .thermalStop s = .next { s with stopped := true, outbox := s.outbox ++ [.alert] }

/-! Links, the host and firmware (18 R309, 20 R369, 23 R394 to R411, R417, R420). -/

namespace Sys2Proof.Claims

/-- Port `p` of `t` is `v`; every other port is as in `s`. -/
def PortIs (s t : State) (p : Nat) (v : Port) : Prop := t.port p = v ∧ ∀ q, q ≠ p → t.port q = s.port q

/-- What the management interface makes of state `m` (R379, R404, R405, R420). -/
def Managed (m t : State) (a : MgmtAccess) : Prop :=
  match a with
  | .readStray => t = { m with strayArmed := true, outbox := m.outbox ++ [.management m.stray] }
  | .readSealedWrites => t = { m with outbox := m.outbox ++ [.management m.sealedWrites] }
  | .readErrors d => t = { m with outbox := m.outbox ++
      [.management ((m.die d).uncorrected ++ (m.die d).corrected : BitVec 64).toNat] }
  | .readPortMask => ∃ w : Word, t = { m with outbox := m.outbox ++ [.management w.toNat] } ∧ ∀ q, q < 32 → w.getLsbD q = (m.port q).up
  | .enableVectors one two => t = { m with vector1 := one, vector2 := two }
  | .registerRegion ctx seg off len =>
    (MayRegister m ctx seg off len → t = { m with
      regions := m.regions ++ [⟨ctx, seg, off, len⟩], outbox := m.outbox ++ [.management 1] }) ∧
    (¬ MayRegister m ctx seg off len → t = { m with outbox := m.outbox ++ [.management 0] })
  | .readSensors => ∃ v, t = { m with outbox := m.outbox ++ [.management v] }

/-- A test of a request at its target, the code it answers, and whether that names an absent page. -/
abbrev TargetTest := Prop × Byte × Bool

/-- The bytes a request is checked for: a store with no enabled byte is checked as a one-byte write (R399). -/
def reach (q : PanelRequest) : Nat := if q.kind = .write ∧ q.mask = 0 then 1 else q.len

/-- Byte `j` of a request: where it lies at home (R235), none while its page is absent. -/
def targetByte (s : State) (q : PanelRequest) (j : Nat) : Option Nat :=
  let a := (s.descHome q.ctx q.seg).base + q.off + j
  (s.walk q.ctx a).map (fun e => (e.extractLsb' 16 36).toNat * 65536 + a % 65536)

/-- What the target module tests, in the order of R398: SEG_INVALID, SEG_RIGHTS, SEG_BOUNDS, MISALIGNED, LEASE_VIOLATION for an absent page,
SEALED_STORE and RANGE_LOCKED. -/
def targetTests (s : State) (q : PanelRequest) : List TargetTest :=
  let d := s.descHome q.ctx q.seg
  let n := reach q
  let meets (off len : Nat) : Prop := ∃ j, j < n ∧ off ≤ q.off + j ∧ q.off + j < off + len
  [(d.valid = false, 0x08, false),
   (d.type ≠ 0 ∨ (q.kind ≠ .write ∧ d.read = false) ∨ (q.kind ≠ .read ∧ d.write = false), 0x0A, false),
   (d.len < q.off + n, 0x09, false),
   (¬ (q.kind = .write ∧ q.mask = 0) ∧ q.off % 2 ^ q.size.toNat ≠ 0, 0x07, false),
   (∃ j, j < n ∧ targetByte s q j = none, 0x0C, true),
   (q.kind ≠ .read ∧ (d.sl = true ∨ ∃ e ∈ (s.context q.ctx).seals, e.seg = q.seg ∧ meets e.off e.len), 0x0D, false),
   (∃ x ∈ s.dies, ∃ u ∈ x.2.umbra, u.armed = true ∧ u.ctx = q.ctx ∧ u.seg = q.seg ∧ meets u.off u.len ∧ (u.write = true ∨ q.kind ≠ .read),
     0x0E, false)]

/-- The shapes a request has (R78, R225, R270); an engine's have up to 64 bytes (log entry 127). -/
def Shaped (q : PanelRequest) : Prop :=
  (q.kind = .read ∨ q.kind = .write ∨ q.kind = .atomic ∧ (q.size = 2 ∨ q.size = 3)) ∧ q.size.toNat ≤ 4 ∧
    (q.len = 2 ^ q.size.toNat ∨ q.kind ≠ .atomic ∧ (q.size = 2 ∧ q.len ∈ [68, 132, 260] ∨ q.size = 0 ∧ 1 ≤ q.len ∧ q.len ≤ 64))

/-- `t` is `s` but for the ports, the table and its copies in segment 1 of contexts (R231, R417); with no context the bytes at home stand. -/
def TableOnly (s t : State) : Prop :=
  { t with ports := s.ports, capTable := s.capTable, hbm := s.hbm, poison := s.poison, mirrors := s.mirrors } = s ∧
    (s.contexts = [] → { t with ports := s.ports, capTable := s.capTable } = s)

/-- The RECORD of a command fails the check of a write of 8 bytes (R337). -/
def recordBad (s : State) (c : Command) : Prop := c.record ≠ 0 ∧ ∃ code aux, s.check (State.engine c.ctx) c.record 8 3 .write = .bad code aux

/-- The word of slot `j` of a queue's window, by number (R407): 31 is its control word. -/
def slot (s : State) (ctx h j k : Nat) : Word := s.slots.getD (((ctx * 64 + h) * 32 + j) * 32 + k) 0

end Sys2Proof.Claims

/-- R394 to R399: training gives each channel its slots, but for those of the flits kept, which are sent again. An idle flit carries SEQ and ACK. Flits that stay unacknowledged for 2 microseconds
are sent again as they were; once eight replays in a row have failed, the port goes down. A port whose lane is lost goes down in the mask of
the capability table and in the table's copy in segment 1 of a context, and what waits leaves by another port. A request is tested at its target in
the order of R398, and the first test that fails answers with its code and changes nothing; a load, store or ATOM that passes is
performed at home, byte by byte, and answered with its tag and epoch. The forms completed:
linkTraining, joethIdle, linkReplay, portLaneLoss and joethRequest. The model's reading where the rules leave it open: log entries 14, 76, 96
and 128. -/
def Obligations.LinkEvents : Prop :=
  (∀ (s : State) (p : Nat), s.subject = .port p → p < 32 → (s.port p).up = true → (s.port p).waiting = [] →
    let v := s.port p
    let kept (c : Nat) : Nat := (v.kept.filter (fun f => f.type == BitVec.ofNat 4 (c + 1))).length
    ∃ t, exec .linkTraining s = .next t ∧ { t with ports := s.ports, outbox := s.outbox } = s ∧
      t.outbox = s.outbox ++ v.kept.map (fun f => .flit p f) ∧ Claims.PortIs s t p { v with
        trained := true, ackAt := s.cycle, owed := [], replays := 0,
        credits := [(0, 64 - kept 0), (1, 64 - kept 1), (2, 16 - kept 2), (3, 8 - kept 3)] }) ∧
  (∀ (s : State) (p : Nat), s.subject = .port p → (s.port p).up = true → (s.port p).trained = true → (s.port p).kept.length < 256 →
    let v := s.port p
    ∃ t f, exec .joethIdle s = .next t ∧ { t with ports := s.ports, outbox := s.outbox } = s ∧ t.outbox = s.outbox ++ [.flit p f] ∧
      f.type = 0 ∧ f.len = 0 ∧ f.seq = v.seq ∧ f.ack = v.expect - 1 ∧ f.src = s.dev ∧ (∀ q, q ≠ p → t.port q = s.port q) ∧
      (t.port p).seq = v.seq + 1 ∧ (t.port p).kept = v.kept ++ [f] ∧ (t.port p).credits = v.credits ∧ (t.port p).expect = v.expect) ∧
  (∀ (s : State) (p : Nat), s.subject = .port p → (s.port p).up = true → (s.port p).trained = true → (s.port p).kept ≠ [] →
    (s.port p).ackAt + 1400 ≤ s.cycle →
    let v := s.port p
    ∃ t, exec .linkReplay s = .next t ∧
      (v.replays < 8 → { t with ports := s.ports, outbox := s.outbox } = s ∧ t.outbox = s.outbox ++ v.kept.map (fun f => .flit p f) ∧
        Claims.PortIs s t p { v with ackAt := s.cycle, replays := v.replays + 1 }) ∧
      (8 ≤ v.replays → p < 32 → (∀ q, q < 32 → q ≠ p → (s.port q).up = false) →
        Claims.TableOnly s t ∧ Claims.PortIs s t p { v with up := false, kept := [], waiting := [] })) ∧
  (∀ (s : State) (p : Nat), s.subject = .port p → p < 32 → (s.port p).up = true → (s.port p).kept = [] →
    ((s.port p).waiting = [] → ∃ t, exec .portLaneLoss s = .next t ∧ Claims.TableOnly s t ∧ Claims.PortIs s t p { s.port p with up := false } ∧
      (∀ (header mask after : List Byte) (rs : List (Nat × List Byte)), header.length = 16 → mask.length = 4 →
        (∀ r ∈ rs, r.1 ≠ 0 ∧ r.1 ≠ 5 ∧ r.1 < 65536 ∧ r.2.length < 65536) →
        s.capTable = header ++ rs.flatMap (fun r => capRecord r.1 r.2) ++ [5, 0, 4, 0] ++ mask ++ after → ∃ w : Word,
          t.capTable = header ++ rs.flatMap (fun r => capRecord r.1 r.2) ++ [5, 0, 4, 0] ++
            [w.extractLsb' 0 8, w.extractLsb' 8 8, w.extractLsb' 16 8, w.extractLsb' 24 8] ++ after ∧
          ∀ q, q < 32 → w.getLsbD q = (t.port q).up) ∧
      ∀ ctx x b, s.contexts = [(ctx, x)] → (s.descHome ctx 1).valid = true → (s.descHome ctx 1).type = 7 → 0 < t.capTable.length →
        t.capTable.length ≤ 65536 → s.pieces ctx (mkPtr 1 0) t.capTable.length = [(.home b, t.capTable.length)] →
        t.homeBytes b t.capTable.length = t.capTable ∧ ∀ a, a < b ∨ b + t.capTable.length ≤ a → t.homeByte a = s.homeByte a) ∧
    (∀ f q, (s.port p).waiting = [f] → q < 32 → q ≠ p → (∀ r, r < 32 → r ≠ p → (s.port r).up = decide (r = q)) →
      (s.port q).trained = true → (s.port q).waiting = [] → 1 ≤ f.type.toNat → f.type.toNat ≤ 4 → 0 < (s.port q).credits.getD (f.type.toNat - 1) 0 →
      ∃ t g, exec .portLaneLoss s = .next t ∧ (t.port p).up = false ∧ (t.port p).waiting = [] ∧ t.outbox = s.outbox ++ [.flit q g] ∧
        g.type = f.type ∧ g.dst = f.dst ∧ g.ctx = f.ctx ∧ g.tag = f.tag ∧ g.epoch = f.epoch ∧ g.seq = (s.port q).seq)) ∧
  ∀ (s : State) (p : Nat) (h : FlitHead) (payload : List Byte) (q : PanelRequest), s.subject = .request p h payload q →
    Claims.InTurn s p h payload 1 → q.ctx = h.ctx.toNat → Claims.Shaped q → 0 < (s.port p).credits.getD 1 0 →
    ∃ t reply f, exec .joethRequest s = .next t ∧ t.outbox = s.outbox ++ [.panelResponse p h.tag.toNat reply, .flit p f] ∧
      f.type = 2 ∧ f.vc = 1 ∧ f.dst = h.src ∧ f.src = s.dev ∧ f.ctx = h.ctx ∧ f.tag = h.tag ∧ f.epoch = h.epoch ∧
      f.seq = (s.port p).seq ∧ f.ack = h.seq ∧
      (∀ before x after, Claims.targetTests s q = before ++ x :: after → (∀ y ∈ before, ¬ y.1) → x.1 →
        reply = .refused x.2.1 x.2.2 ∧ { t with ports := s.ports, outbox := s.outbox } = s) ∧
      ((∀ y ∈ Claims.targetTests s q, ¬ y.1) →
        let n := q.len
        ∀ at_ : Nat → Nat, (∀ j, j < Claims.reach q → Claims.targetByte s q j = some (at_ j)) → (∀ j k, j < n → k < n → at_ j = at_ k → j = k) →
          (q.kind = .read → (∀ j, j < n → Claims.Sound s (at_ j) 1) → ∃ bs, reply = .data bs ∧ bs.length = n ∧
            (∀ j, j < n → bs.getD j 0 = s.homeByte (at_ j)) ∧ { t with ports := s.ports, outbox := s.outbox } = s) ∧
          (q.kind = .write → n ≤ q.data.length → reply = .data [] ∧
            { t with ports := s.ports, outbox := s.outbox, hbm := s.hbm, poison := s.poison, mirrors := s.mirrors } = s ∧
            (∀ j, j < n → q.mask.testBit j = true → t.homeByte (at_ j) = q.data.getD j 0) ∧
            ∀ b, (∀ j, j < n → q.mask.testBit j = true → b ≠ at_ j) → t.homeByte b = s.homeByte b) ∧
          (q.kind = .atomic → (∀ j, j < n → Claims.Sound s (at_ j) 1) → ∀ k, k < 9 → (k = 8 → q.size = 2) →
            q.op = [.add, .min, .max, .and, .or, .xor, .exch, .cas, .fadd].getD k .add →
            let old := BitVec.ofNat (8 * n) (leNat ((List.range n).map (fun j => s.homeByte (at_ j))))
            let r := Claims.atomic k (!q.signed) (8 * n) old (q.compare.setWidth (8 * n)) (q.operand.setWidth (8 * n))
            reply = .data ((List.range n).map (fun j => s.homeByte (at_ j))) ∧
            { t with ports := s.ports, outbox := s.outbox, hbm := s.hbm, poison := s.poison, mirrors := s.mirrors } = s ∧
            (∀ j, j < n → t.homeByte (at_ j) = r.1.extractLsb' (8 * j) 8) ∧
            ∀ b, (∀ j, j < n → b ≠ at_ j) → t.homeByte b = s.homeByte b))

/-- R404 to R406: the host reads and writes the memory window line by line; outside it a read is 0xFF with poison, a write is lost, and
the access is counted, with vector 2 for the first since the counter was read; a write in a sealed range is discarded and counted. R337, R407,
R408: the host writes a slot of an enabled queue while V is clear; a slot with V set is taken in turn, its control word saying ACK and
why. R225, R411: the link to the host goes down with the writes in flight undeliverable, of an
HST for every thread of its group, and comes up. R420: the management interface, from
firmware or by a flit whose answer leaves as one. R231, R309, R369, R417: the records of contexts and queues, and the capability table in
segment 1 of a new context. The forms completed: cxlMemRead, cxlMemWrite, commandWindowWrite, commandSlotTake, hostLinkDown, hostLinkUp,
managementInterfaceAccess, joethManagement, contextCreation and queueTableWrite.
The model's reading where the rules leave it open: log entries 16, 18, 79, 87 and 128. -/
def Obligations.HostEvents : Prop :=
  (∀ (s : State) (hpa : Nat) (data : List Byte), s.subject = .host hpa data →
    let line := hpa / 64 * 64
    let within (x : Nat) : Prop := s.windowHost ≤ x ∧ x < s.windowHost + s.windowSize
    let home (x : Nat) : Nat := s.windowDevice + (x - s.windowHost)
    let vector : List Message := if s.strayArmed = true ∧ s.vector2 = true then [.msix 1 2] else []
    let n := data.length
    (within line → Claims.Sound s (home line) 64 → exec .cxlMemRead s = .next { s with
      outbox := s.outbox ++ [.hostReadData line (s.homeBytes (home line) 64) false] }) ∧
    (¬ within line → exec .cxlMemRead s = .next { s with
      stray := s.stray + 1, strayArmed := false, outbox := s.outbox ++ vector ++ [.hostReadData line (List.replicate 64 0xFF) true] }) ∧
    (within hpa → hpa % 64 + n ≤ 64 → s.sealedHome (home hpa) n = false → ∃ t, exec .cxlMemWrite s = .next t ∧
      { t with hbm := s.hbm, poison := s.poison, mirrors := s.mirrors } = s ∧ Claims.Wrote s t (home hpa) n (fun j => data.getD j 0)) ∧
    (within hpa → hpa % 64 + n ≤ 64 → s.sealedHome (home hpa) n = true → exec .cxlMemWrite s = .next { s with
      sealedWrites := s.sealedWrites + 1, outbox := s.outbox ++ (if s.vector1 then [.msix 1 1] else []) }) ∧
    (¬ within hpa → exec .cxlMemWrite s = .next { s with stray := s.stray + 1, strayArmed := false, outbox := s.outbox ++ vector })) ∧
  (∀ (s : State) (ctx h j k : Nat) (v : Word), s.subject = .window (ctx * 0x100000 + h * 0x4000 + j * 0x80 + 4 * k) v → ctx < 64 → h < 64 →
    j < 32 → k < 32 →
    let old := Claims.slot s ctx h j 31
    let takes := s.queueOn ctx h = true ∧ old.getLsbD 31 = false
    (¬ takes ∨ (16 ≤ k ∧ k < 31) → exec .commandWindowWrite s = .next s) ∧
    (takes → k < 16 ∨ k = 31 → ∃ t, exec .commandWindowWrite s = .next t ∧ { t with slots := s.slots } = s ∧
      (∀ n, n ≠ ((ctx * 64 + h) * 32 + j) * 32 + k → t.slots.get? n = s.slots.get? n) ∧
      Claims.slot t ctx h j k = if k < 16 then v
        else v.extractLsb' 31 1 ++ (v.extractLsb' 30 1 &&& old.extractLsb' 30 1) ++ (0 : BitVec 14) ++ old.extractLsb' 0 16)) ∧
  (∀ (s : State) (ctx h j : Nat), s.subject = .queue ctx h → ctx < 64 → h < 64 → j = s.rings.getD (64 * ctx + h) 0 → j < 32 →
    s.queueOn ctx h = true → (Claims.slot s ctx h j 31).getLsbD 31 = true →
    ∃ t c, exec .commandSlotTake s = .next t ∧ c.words = (List.range 16).map (Claims.slot s ctx h j) ∧ c.ctx = ctx ∧ c.queue = h ∧
      c.pusher = none ∧ c.depth = 0 ∧ c.kernel = false ∧ c.pin = none ∧ c.entry = (s.context ctx).queues.getD h 0 ∧
      c.resets = (s.context ctx).resets ∧ c.state = .waiting ∧ t.rings.getD (64 * ctx + h) 0 = (j + 1) % 32 ∧
      (∀ n, n ≠ 64 * ctx + h → t.rings.get? n = s.rings.get? n) ∧ (∀ i, i < 31 → Claims.slot t ctx h j i = Claims.slot s ctx h j i) ∧
      (∀ r, s.pushReason c false true = some r → r < 16 → Claims.slot t ctx h j 31 = 0x4000#16 ++ BitVec.ofNat 4 r ++ 7#12 ∧
        { t with slots := s.slots, rings := s.rings } = s) ∧
      (s.pushReason c false true = none → Claims.recordBad s c → Claims.slot t ctx h j 31 = 0x40000007 ∧
        { t with slots := s.slots, rings := s.rings } = s) ∧
      (s.pushReason c false true = none → ¬ Claims.recordBad s c → Claims.slot t ctx h j 31 = 0x4000#16 ++ BitVec.ofNat 16 (Claims.refusal s c) ∧
        (Claims.refusal s c ≠ 0 → { t with slots := s.slots, rings := s.rings } = s) ∧
        (Claims.refusal s c = 0 → c.nodeId = 0 → t.commands.get? s.nextCommand = some { c with state := .ready s.nextReady } ∧
          t.nextCommand = s.nextCommand + 1 ∧ ∀ n, n ≠ s.nextCommand → t.commands.get? n = s.commands.get? n))) ∧
  (∀ (s : State) (q : Posted), s.hostUp = true → s.posted = [q] → q.size < 8 → q.dest = .nothing ∨ q.dest = .nobody →
    let owed (u : Nat) (z : Thread) : Prop :=
      (q.dest = .nothing → u = q.tid) ∧ (q.dest = .nobody → gidOf u = gidOf q.tid ∧ z.life ≠ .exited)
    (∀ u z, s.threads.get? u = some z → owed u z → z.deferred = []) →
    (∀ g, s.groups.get? (gidOf q.tid) = some g → g.spec = none) →
    ∃ t, exec .hostLinkDown s = .next t ∧
      { t with threads := s.threads, groups := s.groups, hostMem := s.hostMem, posted := s.posted, accesses := s.accesses, hostUp := true } = s ∧
      (∀ k a, s.accesses.get? k = some a →
        t.accesses.get? k = some { a with sent := match a.far with | .host _ => false | .panel _ _ _ => a.sent }) ∧
      (∀ k, s.accesses.get? k = none → t.accesses.get? k = none) ∧
      t.hostUp = false ∧ t.posted = [] ∧ (∀ g, t.groups.get? g = s.groups.get? g) ∧
      (∀ u, s.threads.get? u = none → t.threads.get? u = none) ∧ ∀ u z, s.threads.get? u = some z →
        (¬ owed u z → t.threads.get? u = some z) ∧ (owed u z → t.threads.get? u = some { z with
          deferred := [⟨0x1C, q.pc, q.addr, BitVec.ofNat 32 (0x108 + q.size), .nothing, true, false⟩] })) ∧
  (∀ s : State, s.power = .on → exec .hostLinkUp s = .next { s with hostUp := true }) ∧
  (∀ (s : State) (a : MgmtAccess), s.subject = .firmwareAccess a → ∃ t, exec .managementInterfaceAccess s = .next t ∧ Claims.Managed s t a) ∧
  (∀ (s : State) (p : Nat) (h : FlitHead) (payload : List Byte) (a : MgmtAccess), s.subject = .management p h payload a →
    Claims.InTurn s p h payload 4 → 0 < (s.port p).credits.getD 3 0 → ∃ t u f, exec .joethManagement s = .next t ∧
      Claims.Managed (Claims.taken s p h 4) u a ∧ { t with ports := u.ports, outbox := u.outbox } = u ∧ t.outbox = u.outbox ++ [.flit p f] ∧
      f.type = 4 ∧ f.vc = 3 ∧ f.dst = h.src ∧ f.src = s.dev ∧ f.ctx = h.ctx ∧ f.tag = h.tag ∧ f.epoch = h.epoch ∧ f.seq = (s.port p).seq ∧
      f.ack = h.seq ∧ ∀ q, q ≠ p → t.port q = s.port q) ∧
  (∀ (s : State) (ctx : Nat) (r : ContextSetup), s.subject = .creating ctx r → ctx < 64 → 5 ≤ r.stl → r.stl ≤ 2 ^ 20 →
    ∃ t x, exec .contextCreation s = .next t ∧
      { t with
        contexts := s.contexts, pkrCopies := s.pkrCopies, hbm := s.hbm, poison := s.poison, mirrors := s.mirrors } = s ∧
      (s.capTable = [] → { t with contexts := s.contexts, pkrCopies := s.pkrCopies } = s) ∧
      (let u := { s with contexts := t.contexts }
       let n := s.capTable.length
       ∀ b, (u.descHome ctx 1).valid = true → (u.descHome ctx 1).type = 7 → n ≤ 65536 → u.pieces ctx (mkPtr 1 0) n = [(.home b, n)] →
         t.homeBytes b n = s.capTable ∧ ∀ a, a < b ∨ b + n ≤ a → t.homeByte a = s.homeByte a) ∧
      (∀ c, c ≠ ctx → t.contexts.get? c = s.contexts.get? c) ∧ t.contexts.get? ctx = some x ∧ x.segBase = r.segBase ∧ x.stl = r.stl ∧
      x.tableBase = r.tableBase ∧ x.pkr = r.pkr ∧ x.stopped = false ∧ x.resets = (s.context ctx).resets ∧
      (∀ h, h < 64 → x.queues.getD h 0 = r.queues.getD h 0) ∧ (∀ core, t.pkrCopy core ctx = r.pkr) ∧
      ∀ n, n % 64 ≠ ctx → t.pkrCopies.get? n = s.pkrCopies.get? n) ∧
  ∀ (s : State) (ctx h : Nat) (e : DWord) (x : Context), s.subject = .queueEntry ctx h e → h < 64 → s.contexts.get? ctx = some x →
    let clean := e.extractLsb' 43 19 = 0 ∧ e.extractLsb' 3 29 = 0
    (¬ clean → exec .queueTableWrite s = .next s) ∧
    (clean → ∃ t y, exec .queueTableWrite s = .next t ∧ { t with contexts := s.contexts } = s ∧
      (∀ c, c ≠ ctx → t.contexts.get? c = s.contexts.get? c) ∧ t.contexts.get? ctx = some y ∧ { y with queues := x.queues } = x ∧
      y.queues.getD h 0 = e ∧ ∀ n, n ≠ h → y.queues.get? n = x.queues.get? n)
end

