-- ==== Sys2Proof/Laws/Dispatch.lean ====
section
/-! SUPPORT. What `exec` does with an encoded instruction, by the fields it reads: one table of meanings, so that a proof about a family
takes its major and minor numbers and not its constructors. -/

namespace Sys2Proof.Machine

/-- The meaning of the fields of a well-formed encoded instruction. -/
def meaning (f : Fields) (s : State) : State :=
  match f.maj, f.mn with
  | 0x00, _ => xNop f s
  | 0x02, _ => xIarith f s
  | 0x03, _ => xLogic f s
  | 0x04, 7 => xLea f s
  | 0x04, _ => xBits f s
  | 0x05, _ => xIcmp f s
  | 0x06, 5 => xPpack f s
  | 0x06, 6 => xPunpk f s
  | 0x06, _ => xPred f s
  | 0x07, 0 => xMov f s
  | 0x07, 1 => xMovi f s
  | 0x07, 2 => xSel f s
  | 0x07, 3 => xMovs f s
  | 0x07, 4 => if f.b = 0x08 then xClkLo f s else xSrd f s
  | 0x07, _ => if f.b = 0x18 then xThnd f s else xSwr f s
  | 0x08, _ => xFarith f s
  | 0x09, _ => xFunary f s
  | 0x0A, 2 => xFcmp f s
  | 0x0A, _ => xFmisc f s
  | 0x0B, 0 => xCvt f s
  | 0x0B, 1 => xCvtpk f s
  | 0x0B, _ => xCvtxp f s
  | 0x0C, _ => xBra f s
  | 0x0D, _ => xCall f s
  | 0x0E, 0 => xRet f s
  | 0x0E, 1 => xJmpi f s
  | 0x0E, 2 => xCalli f s
  | 0x0E, 3 => xEnter f s
  | 0x0E, 4 => xLeave f s
  | 0x0E, 5 => xRep f s
  | 0x0E, 6 => xTrap f s
  | 0x0E, _ => xExit f s
  | 0x0F, 0 => xLd f s
  | 0x0F, 1 => xSt f s
  | 0x0F, 2 => xLds f s
  | 0x0F, 3 => xSts f s
  | 0x0F, _ => xPref f s
  | 0x14, 0 => xShfl f s
  | 0x14, 1 => xVote f s
  | 0x14, 2 => xMatch f s
  | 0x14, 3 => xRedux f s
  | 0x14, 4 => xScan f s
  | 0x14, 5 => xElect f s
  | 0x14, _ => xVtos f s
  | 0x15, 0 => xBar f s
  | 0x15, 1 => xBara f s
  | 0x15, 2 => xBarw f s
  | 0x15, 3 => xBari f s
  | 0x15, 4 => if f.modBit 0 then xMeetPop f s else xMeet f s
  | 0x15, 5 => xNap f s
  | 0x15, _ => xBkoff f s
  | 0x16, 0 => xCbr f s
  | 0x16, 1 => xCbsync f s
  | 0x16, 2 => xCmemb f s
  | 0x16, _ => xCmq f s
  | 0x17, 0 => xGen f s
  | 0x17, 1 => xYieldDecide f s
  | 0x17, 2 => xGend f s
  | 0x17, 3 => xGnext f s
  | 0x17, 4 => xGdrain f s
  | 0x17, _ => xGstat f s
  | 0x18, 1 => xHexp f s
  | 0x18, 2 => xRayRead f s
  | 0x18, _ => xRayWrite f s
  | 0x19, 0 => xRayRead f s
  | 0x19, 3 => xRayRead f s
  | 0x19, 4 => xHld f s
  | 0x19, 5 => xHst f s
  | 0x19, _ => xRayWrite f s
  | 0x20, _ => xAtom f s
  | 0x21, 0 => xPhase f s
  | 0x21, 1 => xSeal f s
  | 0x21, 2 => xUnseal f s
  | 0x21, 3 => xSegq f s
  | 0x21, 4 => xPkrw f s
  | 0x21, 5 => xPkrr f s
  | 0x21, _ => xLeaseq f s
  | 0x22, _ => xLink f s
  | 0x23, 0 => xTrsv f s
  | 0x23, 1 => xTrel f s
  | 0x23, _ => xMatrix f s
  | 0x24, _ => xMatrix f s
  | 0x25, _ => xMatrix f s
  | 0x30, 0 => xPush f s
  | 0x30, 1 => xWaitc f s
  | 0x30, 2 => xQstat f s
  | 0x30, 3 => xTrigger f s
  | 0x30, _ => if f.modBit 0 then xGnodeSig f s else xGnodeQ f s
  | 0x38, 0 => xSvc f s
  | 0x38, 1 => xThset f s
  | 0x38, 2 => xRtt f s
  | 0x38, 3 => xPark f s
  | 0x38, _ => xPrio f s
  | 0x39, 0 => xPsrd f s
  | 0x39, 1 => if f.b = 0x82 then xFlkctl f s else xPswr f s
  | 0x39, _ => xTlbinv f s
  | _, _ => s

/-! The fields of a form without a base layout. -/

@[simp] theorem wideFields_maj (maj mn : Nat) (g : EForm) : (wideFields maj mn g).maj = maj := by
  rcases g with ⟨e, _⟩ | _ | _
  · exact e.elim
  · rfl
  · rfl

@[simp] theorem wideFields_mn (maj mn : Nat) (g : EForm) : (wideFields maj mn g).mn = mn := by
  rcases g with ⟨e, _⟩ | _ | _
  · exact e.elim
  · rfl
  · rfl

theorem wideFields_modBit (maj mn : Nat) (g : EForm) (k : Nat) : (wideFields maj mn g).modBit k = g.fields.mod.getLsbD k := by
  rcases g with ⟨e, _⟩ | _ | _
  · exact e.elim
  · rfl
  · rfl

theorem wideFields_b (maj mn : Nat) (g : EForm) : (wideFields maj mn g).b = g.fields.b.toNat := by
  rcases g with ⟨e, _⟩ | _ | _
  · exact e.elim
  · rfl
  · rfl

@[simp] theorem opXFields_maj (maj mn : Nat) (g : XForm OpF) : (opXFields maj mn g).maj = maj := by cases g <;> rfl

@[simp] theorem opXFields_mn (maj mn : Nat) (g : XForm OpF) : (opXFields maj mn g).mn = mn := by cases g <;> rfl

@[simp] theorem memXFields_maj (mn : Nat) (g : XForm MemF) : (memXFields mn g).maj = 0x0F := by cases g <;> rfl

@[simp] theorem memXFields_mn (mn : Nat) (g : XForm MemF) : (memXFields mn g).mn = mn := by cases g <;> rfl

@[simp] theorem brXFields_maj (maj : Nat) (g : XForm BrF) : (brXFields maj g).maj = maj := by cases g <;> rfl

@[simp] theorem brXFields_mn (maj : Nat) (g : XForm BrF) : (brXFields maj g).mn = 0 := by cases g <;> rfl

/-- `exec` of a well-formed encoded instruction is the meaning of its fields: it always answers a next state. -/
theorem exec_eq_meaning {i : Instr} {f : Fields} (s : State) (h : i.fields? = some f) (hw : i.wf = true) :
    exec i s = .next (meaning f s) := by
  cases i
  case srd g =>
    have hb : ¬ g.b.toNat = 8 := by simpa [Instr.wf] using hw
    cases h
    refine congrArg Host.Outcome.next ?_
    simp [meaning, opFields, hb]
  case swr g =>
    have hb : ¬ g.b.toNat = 24 := by simpa [Instr.wf] using hw
    cases h
    refine congrArg Host.Outcome.next ?_
    simp [meaning, opFields, hb]
  case srdX g =>
    have hb : ¬ g.bIndex = 8 := by simpa [Instr.wf] using hw
    cases h
    refine congrArg Host.Outcome.next ?_
    cases g <;> simp_all [meaning, opXFields, opFields, extFields, XForm.bIndex]
  case swrX g =>
    have hb : ¬ g.bIndex = 24 := by simpa [Instr.wf] using hw
    cases h
    refine congrArg Host.Outcome.next ?_
    cases g <;> simp_all [meaning, opXFields, opFields, extFields, XForm.bIndex]
  case clkLoRead g =>
    refine congrArg Host.Outcome.next ?_
    cases g with
    | base g =>
      have hb : g.b.toNat = 8 := by simpa [Instr.wf] using hw
      cases h
      simp [meaning, anyFields, opFields, hb]
    | more g =>
      have hb : g.bIndex = 8 := by simpa [Instr.wf] using hw
      cases h
      cases g <;> simp_all [meaning, anyFields, opXFields, opFields, extFields, XForm.bIndex]
  case thndWrite g =>
    refine congrArg Host.Outcome.next ?_
    cases g with
    | base g =>
      have hb : g.b.toNat = 24 := by simpa [Instr.wf] using hw
      cases h
      simp [meaning, anyFields, opFields, hb]
    | more g =>
      have hb : g.bIndex = 24 := by simpa [Instr.wf] using hw
      cases h
      cases g <;> simp_all [meaning, anyFields, opXFields, opFields, extFields, XForm.bIndex]
  case meet g => cases h; refine congrArg Host.Outcome.next ?_; simp_all [meaning, Instr.wf, wideFields_modBit]
  case meetPop g => cases h; refine congrArg Host.Outcome.next ?_; simp_all [meaning, Instr.wf, wideFields_modBit]
  case gnodeQ g => cases h; refine congrArg Host.Outcome.next ?_; simp_all [meaning, Instr.wf, wideFields_modBit]
  case gnodeSig g => cases h; refine congrArg Host.Outcome.next ?_; simp_all [meaning, Instr.wf, wideFields_modBit]
  case pswr g => cases h; refine congrArg Host.Outcome.next ?_; simp_all [meaning, Instr.wf, wideFields_b]
  case flkctlWrite g => cases h; refine congrArg Host.Outcome.next ?_; simp_all [meaning, Instr.wf, wideFields_b]
  all_goals first
    | (cases h; rfl)
    | (cases (show none = some f from h))
    | (rename_i g; cases h; cases g <;> first | rfl | (rename_i e _; exact Empty.elim e))

end Sys2Proof.Machine
end

