-- ==== Sys2Proof/Laws/Tab.lean ====
section
/-! SUPPORT. What the operations on tables do: reading after a change, and that every change keeps the canonical form. -/

namespace Sys2Proof

@[simp] theorem Tab.get?_nil {α : Type} (k : Nat) : Tab.get? ([] : Tab α) k = none := rfl

theorem Tab.get?_cons {α : Type} (j : Nat) (v : α) (t : Tab α) (k : Nat) :
    Tab.get? ((j, v) :: t) k = if k = j then some v else Tab.get? t k := rfl

/-- Reading a table whose entries were all changed. -/
@[simp] theorem Tab.get?_mapKV {α : Type} (t : Tab α) (f : Nat → α → α) (k : Nat) :
    Tab.get? (t.mapKV f) k = (Tab.get? t k).map (f k) := by
  induction t with
  | nil => rfl
  | cons e t ih =>
    obtain ⟨j, v⟩ := e
    simp only [Tab.mapKV, List.map_cons, Tab.get?_cons] at ih ⊢
    split
    · next h => subst h; rfl
    · exact ih

/-- Reading after one entry was changed. -/
@[simp] theorem Tab.get?_modify {α : Type} (t : Tab α) (i : Nat) (f : α → α) (k : Nat) :
    Tab.get? (t.modify i f) k = if k = i then (Tab.get? t k).map f else Tab.get? t k := by
  rw [Tab.modify, Tab.get?_mapKV]
  split <;> cases Tab.get? t k <;> rfl

@[simp] theorem Tab.get?_put {α : Type} (t : Tab α) (i : Nat) (v : α) (k : Nat) :
    Tab.get? (t.put i v) k = if k = i then some v else Tab.get? t k := by
  induction t with
  | nil => rfl
  | cons e t ih =>
    obtain ⟨j, w⟩ := e
    simp only [Tab.put]
    split
    · simp only [Tab.get?_cons]
    · split
      · next h => subst h; simp only [Tab.get?_cons]; split <;> rfl
      · next h1 h2 =>
        simp only [Tab.get?_cons, ih]
        by_cases hk : k = j
        · subst hk; simp [Ne.symm h2]
        · simp [hk]

@[simp] theorem Tab.get?_erase {α : Type} (t : Tab α) (i k : Nat) :
    Tab.get? (t.erase i) k = if k = i then none else Tab.get? t k := by
  induction t with
  | nil => simp [Tab.erase]
  | cons e t ih =>
    obtain ⟨j, w⟩ := e
    simp only [Tab.erase, List.filter_cons] at ih ⊢
    by_cases hj : j = i
    · subst hj
      simp only [bne_self_eq_false, Bool.false_eq_true, if_false, ih, Tab.get?_cons]
      split <;> rfl
    · simp only [bne_iff_ne, ne_eq, hj, not_false_eq_true, if_true, Tab.get?_cons, ih]
      by_cases hk : k = j
      · subst hk; simp [hj]
      · simp [hk]

/-- Reading after an entry that may equal the default was written. -/
@[simp] theorem Tab.getD_putD {α : Type} [DecidableEq α] (t : Tab α) (i : Nat) (v d : α) (k : Nat) :
    Tab.getD (t.putD i v d) k d = if k = i then v else Tab.getD t k d := by
  unfold Tab.putD Tab.getD
  split
  · next h => subst h; simp only [Tab.get?_erase]; split <;> rfl
  · simp only [Tab.get?_put]; split <;> rfl

/-- The canonical form says: numbers strictly rising, and nothing equal to the default. -/
theorem Tab.wf_cons {α : Type} [DecidableEq α] (d : α) (j : Nat) (v : α) (t : Tab α) :
    Tab.wf d ((j, v) :: t) = true ↔ v ≠ d ∧ (∀ e ∈ t, j < e.1) ∧ Tab.wf d t = true := by
  induction t generalizing j v with
  | nil => simp [Tab.wf]
  | cons e t ih =>
    obtain ⟨k, w⟩ := e
    rw [Tab.wf]
    simp only [Bool.and_eq_true, decide_eq_true_eq, List.mem_cons, forall_eq_or_imp]
    constructor
    · rintro ⟨⟨h1, h2⟩, h3⟩
      exact ⟨h2, ⟨h1, fun e he => Nat.lt_trans h1 (((ih k w).1 h3).2.1 e he)⟩, h3⟩
    · rintro ⟨h1, ⟨h2, -⟩, h3⟩
      exact ⟨⟨h2, h1⟩, h3⟩

@[simp] theorem Tab.wf_nil {α : Type} [DecidableEq α] (d : α) : Tab.wf d ([] : Tab α) = true := rfl

/-- Dropping entries keeps the canonical form. -/
theorem Tab.wf_filter {α : Type} [DecidableEq α] {d : α} {t : Tab α} (p : Nat × α → Bool) (h : Tab.wf d t = true) :
    Tab.wf d (t.filter p) = true := by
  induction t with
  | nil => rfl
  | cons e t ih =>
    obtain ⟨j, v⟩ := e
    rw [Tab.wf_cons] at h
    rw [List.filter_cons]
    split
    · exact (Tab.wf_cons d j v _).2 ⟨h.1, fun e he => h.2.1 e (List.mem_filter.1 he).1, ih h.2.2⟩
    · exact ih h.2.2

theorem Tab.mem_put {α : Type} {t : Tab α} {i : Nat} {v : α} {e : Nat × α} (h : e ∈ t.put i v) : e = (i, v) ∨ e ∈ t := by
  induction t with
  | nil => simpa [Tab.put] using h
  | cons x t ih =>
    obtain ⟨j, w⟩ := x
    simp only [Tab.put] at h
    split at h
    · simpa using h
    · split at h
      · rcases List.mem_cons.1 h with h | h
        · exact .inl h
        · exact .inr (List.mem_cons_of_mem _ h)
      · rcases List.mem_cons.1 h with h | h
        · exact .inr (h ▸ List.mem_cons_self)
        · exact (ih h).imp_right (List.mem_cons_of_mem _)

/-- Writing an entry other than the default keeps the canonical form. -/
theorem Tab.wf_put {α : Type} [DecidableEq α] {d : α} {t : Tab α} (i : Nat) {v : α} (hv : v ≠ d) (h : Tab.wf d t = true) :
    Tab.wf d (t.put i v) = true := by
  induction t with
  | nil => simp [Tab.put, Tab.wf, hv]
  | cons e t ih =>
    obtain ⟨j, w⟩ := e
    have hc := (Tab.wf_cons d j w t).1 h
    simp only [Tab.put]
    split
    · next hij =>
      refine (Tab.wf_cons d i v _).2 ⟨hv, ?_, h⟩
      intro e he
      rcases List.mem_cons.1 he with rfl | he
      · exact hij
      · exact Nat.lt_trans hij (hc.2.1 e he)
    · split
      · next heq =>
        subst heq
        exact (Tab.wf_cons d i v t).2 ⟨hv, hc.2.1, hc.2.2⟩
      · next h1 h2 =>
        refine (Tab.wf_cons d j w _).2 ⟨hc.1, ?_, ih hc.2.2⟩
        intro e he
        rcases Tab.mem_put he with rfl | he
        · exact (by omega)
        · exact hc.2.1 e he

/-- Writing an entry, dropped where it equals the default, keeps the canonical form. -/
theorem Tab.wf_putD {α : Type} [DecidableEq α] {d : α} {t : Tab α} (i : Nat) (v : α) (h : Tab.wf d t = true) :
    Tab.wf d (t.putD i v d) = true := by
  unfold Tab.putD
  split
  · exact Tab.wf_filter _ h
  · next hv => exact Tab.wf_put i hv h

theorem Tab.wf_putBytes {t : Tab Byte} (a : Nat) (bs : List Byte) (h : Tab.wf (0 : Byte) t = true) :
    Tab.wf (0 : Byte) (t.putBytes a bs) = true := by
  induction bs generalizing t a with
  | nil => exact h
  | cons b bs ih => exact ih (a + 1) (Tab.wf_putD a b h)

/-- Writing a list of cells keeps the canonical form. -/
theorem Tab.wf_foldl_putD {t : Tab Byte} (cells : List (Nat × Byte)) (h : Tab.wf (0 : Byte) t = true) :
    Tab.wf (0 : Byte) (cells.foldl (fun m c => Tab.putD m c.1 c.2 0) t) = true := by
  induction cells generalizing t with
  | nil => exact h
  | cons c cells ih => exact ih (Tab.wf_putD c.1 c.2 h)

/-- The same with numbers and bytes computed from the items of a list. -/
theorem Tab.wf_foldl_putD_map {α : Type} {t : Tab Byte} (num : α → Nat) (byte : α → Byte) (l : List α) (h : Tab.wf (0 : Byte) t = true) :
    Tab.wf (0 : Byte) (l.foldl (fun m c => Tab.putD m (num c) (byte c) 0) t) = true := by
  induction l generalizing t with
  | nil => exact h
  | cons c l ih => exact ih (Tab.wf_putD (num c) (byte c) h)

theorem Tab.bytes_length (t : Tab Byte) (a n : Nat) : (t.bytes a n).length = n := by simp [Tab.bytes]

@[simp] theorem leBytes_length (n x : Nat) : (leBytes n x).length = n := by
  induction n generalizing x with
  | zero => rfl
  | succ n ih => simp [leBytes, ih]

/-- The little-endian bytes of a number read back as the number (R5). -/
theorem leNat_leBytes (n x : Nat) : leNat (leBytes n x) = x % 256 ^ n := by
  induction n generalizing x with
  | zero => simp [leBytes, leNat, Nat.mod_one]
  | succ n ih =>
    have h : 256 ^ (n + 1) = 256 * 256 ^ n := by rw [Nat.pow_succ, Nat.mul_comm]
    rw [h, Nat.mod_mul, leBytes, leNat, ih, BitVec.toNat_ofNat]

end Sys2Proof
end

