-- ==== Sys2Proof/Laws/Memory.lean ====
section
/-! SUPPORT. What the operations on the memories do (15 R256 to R262): reading a byte after a write at a home, and that every
operation keeps HBM and host memory in canonical form. -/

namespace Sys2Proof.Machine

namespace State

/-- The canonical form is a matter of the two memories alone. -/
theorem memoryWf_congr {s t : State} (h1 : t.hbm = s.hbm) (h2 : t.hostMem = s.hostMem) : t.memoryWf = s.memoryWf := by
  simp [memoryWf, h1, h2]

theorem memoryWf_iff {s : State} : s.memoryWf = true ↔ s.hbm.wf 0 = true ∧ s.hostMem.wf 0 = true := by
  simp [memoryWf]

theorem memoryWf_putHome {s : State} (a : Nat) (b : Byte) (h : s.memoryWf = true) : (s.putHome a b).memoryWf = true := by
  obtain ⟨h1, h2⟩ := memoryWf_iff.1 h
  exact memoryWf_iff.2 ⟨Tab.wf_putD a b h1, h2⟩

theorem memoryWf_foldl {α : Type} (f : State → α → State) (hf : ∀ s x, s.memoryWf = true → (f s x).memoryWf = true) (l : List α)
    {s : State} (h : s.memoryWf = true) : (l.foldl f s).memoryWf = true := by
  induction l generalizing s with
  | nil => exact h
  | cons x l ih => exact ih (hf s x h)

theorem memoryWf_foldl_eq {α : Type} (f : State → α → State) (hf : ∀ s x, (f s x).memoryWf = s.memoryWf) (l : List α) (s : State) :
    (l.foldl f s).memoryWf = s.memoryWf := by
  induction l generalizing s with
  | nil => rfl
  | cons x l ih => exact (ih _).trans (hf s x)

/-- Bytes written at their homes keep the canonical form. -/
theorem memoryWf_putCells {s : State} (cells : List Host.Cell) (h : s.memoryWf = true) : (s.putCells cells).memoryWf = true := by
  have h' := memoryWf_foldl (fun (s : State) (c : Host.Cell) => s.putHome c.1 c.2) (fun s c => memoryWf_putHome c.1 c.2) cells h
  exact h'

theorem memoryWf_modThread (s : State) (tid : Nat) (f : Thread → Thread) : (s.modThread tid f).memoryWf = s.memoryWf := rfl
theorem memoryWf_modGroup (s : State) (gid : Nat) (f : Group → Group) : (s.modGroup gid f).memoryWf = s.memoryWf := rfl
theorem memoryWf_modTeam (s : State) (k : Nat) (f : Team → Team) : (s.modTeam k f).memoryWf = s.memoryWf := rfl
theorem memoryWf_modDomain (s : State) (d : Nat) (f : PhaseDom → PhaseDom) : (s.modDomain d f).memoryWf = s.memoryWf := rfl

theorem memoryWf_domainHome {s : State} (d : Nat) (cells : List Host.Cell) (h : s.memoryWf = true) :
    (s.domainHome d cells).memoryWf = true := memoryWf_putCells cells h

theorem memoryWf_overlayCells (s : State) (d : Nat) (cells : List Host.Cell) : (s.overlayCells d cells).memoryWf = s.memoryWf := rfl
theorem memoryWf_drainPath (s : State) (gid n : Nat) : (s.drainPath gid n).memoryWf = s.memoryWf := rfl
theorem memoryWf_spadCells (s : State) (k : Nat) (cells : List Host.Cell) : (s.spadCells k cells).memoryWf = s.memoryWf := rfl

theorem memoryWf_drainSpad {s : State} (gid : Nat) (h : s.memoryWf = true) : (s.drainSpad gid).memoryWf = true :=
  memoryWf_foldl (fun (s : State) (p : SpadStore) => s.spadCells p.team p.bytes) (fun _ _ h => h) (s.group gid).spadPath h

theorem memoryWf_writeBack {s : State} (d : Nat) (h : s.memoryWf = true) : (s.writeBack d).memoryWf = true :=
  memoryWf_domainHome d _ h

/-- Counting a use, counting an error and marking a line touch no memory. -/
theorem memoryWf_countUse (s : State) (act u n : Nat) : (s.countUse act u n).memoryWf = s.memoryWf := by
  unfold countUse; split <;> rfl
theorem memoryWf_countLines (s : State) (gid : Nat) (cells : List Host.Cell) : (s.countLines gid cells).memoryWf = s.memoryWf :=
  memoryWf_countUse s _ _ _
theorem memoryWf_markPoison (s : State) (line : Nat) : (s.markPoison line).memoryWf = s.memoryWf := rfl

/-- A line read at its home touches no memory, nor do lines read by a reader that does not look. -/
theorem memoryWf_meetStored (s : State) (line : Nat) : (s.meetStored line).1.memoryWf = s.memoryWf := by
  simp only [meetStored]
  repeat' split
  all_goals rfl
theorem memoryWf_meetLine (s : State) (line : Nat) : (s.meetLine line).1.memoryWf = s.memoryWf := by
  simp only [meetLine]
  repeat' split
  all_goals first
    | rfl
    | exact memoryWf_meetStored _ line
theorem memoryWf_touchLine (s : State) (line : Nat) : (s.touchLine line).memoryWf = s.memoryWf := by
  unfold touchLine; split
  · exact memoryWf_meetLine s line
  · rfl
theorem memoryWf_touchLines {s : State} (ls : List Nat) (h : s.memoryWf = true) : (s.touchLines ls).memoryWf = true := by
  unfold touchLines; split
  · exact memoryWf_foldl touchLine (fun s l h => (memoryWf_touchLine s l).trans h) ls h
  · exact h
theorem memoryWf_readLines {s : State} (ls : List Nat) (h : s.memoryWf = true) : (s.readLines ls).memoryWf = true := by
  unfold readLines; split
  · exact memoryWf_foldl _ (fun s l h => (memoryWf_meetLine s l).trans h) ls h
  · exact h

/-- Loading bytes touches no memory. -/
theorem memoryWf_loadLine {s : State} (tid line : Nat) (as : List Nat) (home sl : Bool) (h : s.memoryWf = true) :
    (s.loadLine tid line as home sl).1.memoryWf = true := by
  simp only [loadLine]
  split
  · exact h
  · have hm : ((s.countUse (s.activityOfGroup (gidOf tid)) 1 1).meetLine line).1.memoryWf = true := by
      rw [memoryWf_meetLine, memoryWf_countUse]; exact h
    dsimp only
    split
    · exact hm
    · exact hm
theorem memoryWf_loadBytes {s : State} (tid a n : Nat) (home sl : Bool) (h : s.memoryWf = true) :
    (s.loadBytes tid a n home sl).1.memoryWf = true := by
  unfold loadBytes
  generalize linesOf a n = ls
  suffices hs : ∀ (r : State × List Byte × Met), r.1.memoryWf = true → (ls.foldl _ r).1.memoryWf = true from hs (s, [], .sound) h
  induction ls with
  | nil => exact fun r hr => hr
  | cons l ls ih => exact fun r hr => ih _ (memoryWf_loadLine tid l _ home sl hr)

/-- Scratchpad stores, a store on its way and one that awaits its match touch no memory. -/
theorem memoryWf_performSpad {s : State} (gid : Nat) (pick : SpadStore → Bool) (h : s.memoryWf = true) :
    (s.performSpad gid pick).memoryWf = true :=
  memoryWf_foldl (fun (s : State) (p : SpadStore) => s.spadCells p.team p.bytes) (fun _ _ h => h) _ h
theorem memoryWf_onPath (s : State) (x : HeldStore) : (s.onPath x).memoryWf = s.memoryWf := by
  simp only [onPath]; split
  · split <;> rfl
  · rfl
theorem memoryWf_awaitMatch (s : State) (x : HeldStore) : (s.awaitMatch x).memoryWf = s.memoryWf := rfl

/-- A store of an issue keeps the canonical form, and so do all of them. -/
theorem memoryWf_performStore {s : State} (x : HeldStore) (clash : Bool) (h : s.memoryWf = true) :
    (s.performStore x clash).memoryWf = true := by
  simp only [performStore]
  repeat' split
  all_goals first
    | exact h
    | exact memoryWf_drainSpad (gidOf x.tid) h
    | exact memoryWf_domainHome _ _ ((memoryWf_countLines _ _ _).trans h)
    | exact (memoryWf_onPath s x).trans h
theorem memoryWf_holdStore {s : State} (x : HeldStore) (h : s.memoryWf = true) : (s.holdStore x).memoryWf = true := by
  simp only [holdStore]; split <;> exact h
theorem memoryWf_overrule {s : State} (gids : List Nat) (x : HeldStore) (h : s.memoryWf = true) : (s.overrule gids x).memoryWf = true :=
  memoryWf_foldl (fun s g => ((s.drainPath g (s.group g).path.length).drainSpad g).modGroup g (fun x' => { x' with
      spec := x'.spec.map (fun sp => { sp with stores := (overruled x sp.stores).1 }) }))
    (fun s g h => memoryWf_drainSpad (s := s.drainPath g (s.group g).path.length) g h) _ h
theorem memoryWf_storeAll {s : State} (all : List HeldStore) (h : s.memoryWf = true) : (s.storeAll all).memoryWf = true :=
  memoryWf_foldl _ (fun _ x h => memoryWf_performStore x _ (memoryWf_overrule _ x h)) _ (memoryWf_foldl _ (fun _ x h => memoryWf_holdStore x h) _ h)

/-- A release keeps the canonical form. -/
theorem memoryWf_publish {s : State} (gid scope : Nat) (h : s.memoryWf = true) : (s.publish gid scope).memoryWf = true := by
  have h' : ((s.drainPath gid (s.group gid).path.length).drainSpad gid).memoryWf = true := memoryWf_drainSpad gid h
  simp only [publish]
  split
  · exact memoryWf_writeBack _ ((memoryWf_countLines _ _ _).trans h')
  · exact h'

/-- An acquire touches no memory. -/
theorem memoryWf_acquire (s : State) (gid scope : Nat) : (s.acquire gid scope).memoryWf = s.memoryWf := by
  simp only [acquire]
  split <;> split <;> rfl

theorem memoryWf_publishAll {s : State} (gids : List Nat) (scope : Nat) (h : s.memoryWf = true) :
    (s.publishAll gids scope).memoryWf = true := memoryWf_foldl _ (fun _ g => memoryWf_publish g scope) gids h

theorem memoryWf_acquireAll {s : State} (gids : List Nat) (scope : Nat) (h : s.memoryWf = true) :
    (s.acquireAll gids scope).memoryWf = true :=
  memoryWf_foldl _ (fun s g h => (memoryWf_acquire s g scope).trans h) gids h

/-- Host memory written keeps the canonical form. -/
theorem memoryWf_hostBytes {s : State} (h : Nat) (bs : List Byte) (w : s.memoryWf = true) :
    ({ s with hostMem := s.hostMem.putBytes h bs } : State).memoryWf = true := by
  obtain ⟨h1, h2⟩ := memoryWf_iff.1 w
  exact memoryWf_iff.2 ⟨h1, Tab.wf_putBytes h bs h2⟩

/-- A remote access that begins touches no memory. -/
theorem memoryWf_setPort (s : State) (p : Nat) (v : Port) : (s.setPort p v).memoryWf = s.memoryWf := rfl
theorem memoryWf_pumpList (p : Nat) (hs : List FlitHead) (s : State) : (pumpList p hs s).memoryWf = s.memoryWf := by
  induction hs generalizing s with
  | nil => rfl
  | cons x hs ih =>
    simp only [pumpList]
    split
    · exact ih _
    · exact ih _
theorem memoryWf_sendOn (s : State) (p : Nat) (x : FlitHead) : (s.sendOn p x).memoryWf = s.memoryWf := memoryWf_pumpList p _ _
theorem memoryWf_sendRequest (s : State) (md gid ctx n : Nat) : (s.sendRequest md gid ctx n).memoryWf = s.memoryWf := by
  unfold sendRequest; split
  · exact memoryWf_sendOn _ _ _
  · rfl
theorem memoryWf_startAccess (s : State) (a : Access) : (s.startAccess a).memoryWf = s.memoryWf := by
  simp only [startAccess]
  repeat' split
  all_goals first
    | rfl
    | exact memoryWf_sendRequest _ _ _ _ _
theorem memoryWf_oweStore (s : State) (p : Posted) (ends : Nat) : (s.oweStore p ends).memoryWf = s.memoryWf := by
  unfold oweStore; apply memoryWf_foldl_eq; intro _ _; rfl
theorem memoryWf_postStore (s : State) (p : Posted) : (s.postStore p).memoryWf = s.memoryWf := by
  simp only [postStore]
  repeat' split
  all_goals first
    | rfl
    | exact memoryWf_startAccess _ _
    | exact memoryWf_oweStore _ _ _
theorem memoryWf_panelStore {s : State} (ctx k : Nat) (p : Ptr) (m g o : Nat) (bs : List Byte) (h : s.memoryWf = true) :
    (s.panelStore ctx k p m g o bs).memoryWf = true :=
  memoryWf_foldl _ (fun s _ h => (memoryWf_startAccess s _).trans h) _ h

/-- An engine's store keeps the canonical form. -/
theorem memoryWf_store {s : State} (ctx k : Nat) (p : Ptr) (bytes : List Byte) (bad : List Bool) (h : s.memoryWf = true) :
    (s.store ctx k p bytes bad).memoryWf = true := by
  unfold store
  generalize s.pieces ctx p bytes.length = ps
  suffices hs : ∀ (r : State × Nat), r.1.memoryWf = true → ((ps.foldl _ r).1).memoryWf = true from hs (s, 0) h
  induction ps with
  | nil => exact fun r hr => hr
  | cons q ps ih =>
    intro r hr
    apply ih
    dsimp only
    split
    · exact memoryWf_putCells _ hr
    · exact memoryWf_hostBytes _ _ hr
    · exact memoryWf_panelStore _ _ _ _ _ _ _ hr

/-- The capability table in every context, and a record of it replaced, keep the canonical form. -/
theorem memoryWf_tableTo {s : State} (ctx : Nat) (h : s.memoryWf = true) : (s.tableTo ctx).memoryWf = true := by
  simp only [tableTo]
  split
  · exact memoryWf_foldl _ (fun _ _ h => memoryWf_store _ _ _ _ _ h) _ h
  · exact h
theorem memoryWf_newTable {s : State} (t : List Byte) (h : s.memoryWf = true) : (s.newTable t).memoryWf = true :=
  memoryWf_foldl (fun s c => s.tableTo c) (fun _ c => memoryWf_tableTo c) _ (s := { s with capTable := t }) h
theorem memoryWf_patchTable {s : State} (type : Nat) (v : List Byte) (h : s.memoryWf = true) : (s.patchTable type v).memoryWf = true :=
  memoryWf_newTable _ h

/-- A posted write, a read and an atomic performed at the host keep the canonical form. -/
theorem memoryWf_performPosted {s : State} (p : Posted) (h : s.memoryWf = true) : (s.performPosted p).memoryWf = true := by
  obtain ⟨h1, h2⟩ := memoryWf_iff.1 h
  unfold performPosted
  split
  · exact memoryWf_iff.2 ⟨h1, Tab.wf_foldl_putD_map _ (fun c : Host.Cell => c.2) _ h2⟩
  · exact h
theorem memoryWf_performHost {s : State} (k : Nat) (h : s.memoryWf = true) : (s.performHost k).memoryWf = true := by
  simp only [performHost]
  repeat' split
  all_goals first
    | exact h
    | exact memoryWf_hostBytes _ _ h
theorem memoryWf_hostReads {s : State} (pick : Nat → Access → Bool) (h : s.memoryWf = true) : (s.hostReads pick).memoryWf = true :=
  memoryWf_foldl _ (fun _ (e : Nat × Access) h => memoryWf_performHost e.1 h) _ h
theorem memoryWf_hostWrite {s : State} (p : Posted) (h : s.memoryWf = true) : (s.hostWrite p).memoryWf = true :=
  memoryWf_performPosted p (memoryWf_hostReads _ h)
theorem memoryWf_performBefore {s : State} (k : Nat) (h : s.memoryWf = true) : (s.performBefore k).memoryWf = true :=
  memoryWf_foldl _ (fun _ p h => memoryWf_hostWrite p h) _ h
theorem memoryWf_hostPerform {s : State} (h : s.memoryWf = true) : s.hostPerform.memoryWf = true := by
  unfold hostPerform; split
  · exact h
  · exact memoryWf_hostWrite _ h
theorem memoryWf_hostDo {s : State} (k : Nat) (h : s.memoryWf = true) : (s.hostDo k).memoryWf = true :=
  memoryWf_hostReads _ (memoryWf_performBefore k h)

/-- Reading a byte at its home after one byte was written: the byte written there, else what stood. -/
theorem homeByte_putHome (s : State) (a : Nat) (b : Byte) (k : Nat) :
    (s.putHome a b).homeByte k = if k = a then b else s.homeByte k :=
  Tab.getD_putD ..

/-- Reading a byte that a list of cells does not write. -/
theorem homeByte_putCells_of_notMem (s : State) (cells : List Host.Cell) (k : Nat) (h : ∀ c ∈ cells, c.1 ≠ k) :
    (s.putCells cells).homeByte k = s.homeByte k := by
  have hp : ∀ (t : State), (s.putCells cells).homeByte k = (cells.foldl (fun s c => s.putHome c.1 c.2) s).homeByte k := fun _ => rfl
  rw [hp s]
  clear hp
  induction cells generalizing s with
  | nil => rfl
  | cons c cells ih =>
    rw [List.foldl_cons, ih _ (fun d hd => h d (List.mem_cons_of_mem _ hd)), homeByte_putHome]
    simp [Ne.symm (h c List.mem_cons_self)]

end State

end Sys2Proof.Machine
end

