-- ==== Sys2Proof/Laws/State.lean ====
section
/-! SUPPORT. One lemma for each field under each update of the state, a thread and a group, so that no proof unfolds an update. -/

namespace Sys2Proof.Machine

namespace State

/-! `mapThreads` changes `threads` alone. -/

@[simp] theorem mapThreads_threads (s : State) (f : Nat → Thread → Thread) : (s.mapThreads f).threads = s.threads.mapKV f := rfl
@[simp] theorem mapThreads_groups (s : State) (f : Nat → Thread → Thread) : (s.mapThreads f).groups = s.groups := rfl
@[simp] theorem mapThreads_teams (s : State) (f : Nat → Thread → Thread) : (s.mapThreads f).teams = s.teams := rfl
@[simp] theorem mapThreads_launches (s : State) (f : Nat → Thread → Thread) : (s.mapThreads f).launches = s.launches := rfl
@[simp] theorem mapThreads_commands (s : State) (f : Nat → Thread → Thread) : (s.mapThreads f).commands = s.commands := rfl
@[simp] theorem mapThreads_contexts (s : State) (f : Nat → Thread → Thread) : (s.mapThreads f).contexts = s.contexts := rfl
@[simp] theorem mapThreads_svcthr (s : State) (f : Nat → Thread → Thread) : (s.mapThreads f).svcthr = s.svcthr := rfl
@[simp] theorem mapThreads_ctxlim (s : State) (f : Nat → Thread → Thread) : (s.mapThreads f).ctxlim = s.ctxlim := rfl
@[simp] theorem mapThreads_capTable (s : State) (f : Nat → Thread → Thread) : (s.mapThreads f).capTable = s.capTable := rfl
@[simp] theorem mapThreads_insts (s : State) (f : Nat → Thread → Thread) : (s.mapThreads f).insts = s.insts := rfl
@[simp] theorem mapThreads_dies (s : State) (f : Nat → Thread → Thread) : (s.mapThreads f).dies = s.dies := rfl
@[simp] theorem mapThreads_parts (s : State) (f : Nat → Thread → Thread) : (s.mapThreads f).parts = s.parts := rfl
@[simp] theorem mapThreads_pkrCopies (s : State) (f : Nat → Thread → Thread) : (s.mapThreads f).pkrCopies = s.pkrCopies := rfl
@[simp] theorem mapThreads_pages (s : State) (f : Nat → Thread → Thread) : (s.mapThreads f).pages = s.pages := rfl
@[simp] theorem mapThreads_descs (s : State) (f : Nat → Thread → Thread) : (s.mapThreads f).descs = s.descs := rfl
@[simp] theorem mapThreads_domains (s : State) (f : Nat → Thread → Thread) : (s.mapThreads f).domains = s.domains := rfl
@[simp] theorem mapThreads_hbm (s : State) (f : Nat → Thread → Thread) : (s.mapThreads f).hbm = s.hbm := rfl
@[simp] theorem mapThreads_poison (s : State) (f : Nat → Thread → Thread) : (s.mapThreads f).poison = s.poison := rfl
@[simp] theorem mapThreads_badLines (s : State) (f : Nat → Thread → Thread) : (s.mapThreads f).badLines = s.badLines := rfl
@[simp] theorem mapThreads_mirrors (s : State) (f : Nat → Thread → Thread) : (s.mapThreads f).mirrors = s.mirrors := rfl
@[simp] theorem mapThreads_ahead (s : State) (f : Nat → Thread → Thread) : (s.mapThreads f).ahead = s.ahead := rfl
@[simp] theorem mapThreads_hostMem (s : State) (f : Nat → Thread → Thread) : (s.mapThreads f).hostMem = s.hostMem := rfl
@[simp] theorem mapThreads_accesses (s : State) (f : Nat → Thread → Thread) : (s.mapThreads f).accesses = s.accesses := rfl
@[simp] theorem mapThreads_posted (s : State) (f : Nat → Thread → Thread) : (s.mapThreads f).posted = s.posted := rfl
@[simp] theorem mapThreads_cycle (s : State) (f : Nat → Thread → Thread) : (s.mapThreads f).cycle = s.cycle := rfl
@[simp] theorem mapThreads_dev (s : State) (f : Nat → Thread → Thread) : (s.mapThreads f).dev = s.dev := rfl
@[simp] theorem mapThreads_flkLo (s : State) (f : Nat → Thread → Thread) : (s.mapThreads f).flkLo = s.flkLo := rfl
@[simp] theorem mapThreads_flkHi (s : State) (f : Nat → Thread → Thread) : (s.mapThreads f).flkHi = s.flkHi := rfl
@[simp] theorem mapThreads_flkCtl (s : State) (f : Nat → Thread → Thread) : (s.mapThreads f).flkCtl = s.flkCtl := rfl
@[simp] theorem mapThreads_budgets (s : State) (f : Nat → Thread → Thread) : (s.mapThreads f).budgets = s.budgets := rfl
@[simp] theorem mapThreads_used (s : State) (f : Nat → Thread → Thread) : (s.mapThreads f).used = s.used := rfl
@[simp] theorem mapThreads_slotUse (s : State) (f : Nat → Thread → Thread) : (s.mapThreads f).slotUse = s.slotUse := rfl
@[simp] theorem mapThreads_rebal (s : State) (f : Nat → Thread → Thread) : (s.mapThreads f).rebal = s.rebal := rfl
@[simp] theorem mapThreads_regions (s : State) (f : Nat → Thread → Thread) : (s.mapThreads f).regions = s.regions := rfl
@[simp] theorem mapThreads_flash (s : State) (f : Nat → Thread → Thread) : (s.mapThreads f).flash = s.flash := rfl
@[simp] theorem mapThreads_minimum (s : State) (f : Nat → Thread → Thread) : (s.mapThreads f).minimum = s.minimum := rfl
@[simp] theorem mapThreads_ports (s : State) (f : Nat → Thread → Thread) : (s.mapThreads f).ports = s.ports := rfl
@[simp] theorem mapThreads_hostUp (s : State) (f : Nat → Thread → Thread) : (s.mapThreads f).hostUp = s.hostUp := rfl
@[simp] theorem mapThreads_slots (s : State) (f : Nat → Thread → Thread) : (s.mapThreads f).slots = s.slots := rfl
@[simp] theorem mapThreads_rings (s : State) (f : Nat → Thread → Thread) : (s.mapThreads f).rings = s.rings := rfl
@[simp] theorem mapThreads_windowHost (s : State) (f : Nat → Thread → Thread) : (s.mapThreads f).windowHost = s.windowHost := rfl
@[simp] theorem mapThreads_windowDevice (s : State) (f : Nat → Thread → Thread) : (s.mapThreads f).windowDevice = s.windowDevice := rfl
@[simp] theorem mapThreads_windowSize (s : State) (f : Nat → Thread → Thread) : (s.mapThreads f).windowSize = s.windowSize := rfl
@[simp] theorem mapThreads_stray (s : State) (f : Nat → Thread → Thread) : (s.mapThreads f).stray = s.stray := rfl
@[simp] theorem mapThreads_strayArmed (s : State) (f : Nat → Thread → Thread) : (s.mapThreads f).strayArmed = s.strayArmed := rfl
@[simp] theorem mapThreads_sealedWrites (s : State) (f : Nat → Thread → Thread) : (s.mapThreads f).sealedWrites = s.sealedWrites := rfl
@[simp] theorem mapThreads_vector1 (s : State) (f : Nat → Thread → Thread) : (s.mapThreads f).vector1 = s.vector1 := rfl
@[simp] theorem mapThreads_vector2 (s : State) (f : Nat → Thread → Thread) : (s.mapThreads f).vector2 = s.vector2 := rfl
@[simp] theorem mapThreads_outbox (s : State) (f : Nat → Thread → Thread) : (s.mapThreads f).outbox = s.outbox := rfl
@[simp] theorem mapThreads_halved (s : State) (f : Nat → Thread → Thread) : (s.mapThreads f).halved = s.halved := rfl
@[simp] theorem mapThreads_stopped (s : State) (f : Nat → Thread → Thread) : (s.mapThreads f).stopped = s.stopped := rfl
@[simp] theorem mapThreads_power (s : State) (f : Nat → Thread → Thread) : (s.mapThreads f).power = s.power := rfl
@[simp] theorem mapThreads_agenda (s : State) (f : Nat → Thread → Thread) : (s.mapThreads f).agenda = s.agenda := rfl
@[simp] theorem mapThreads_turn (s : State) (f : Nat → Thread → Thread) : (s.mapThreads f).turn = s.turn := rfl
@[simp] theorem mapThreads_issue (s : State) (f : Nat → Thread → Thread) : (s.mapThreads f).issue = s.issue := rfl
@[simp] theorem mapThreads_subject (s : State) (f : Nat → Thread → Thread) : (s.mapThreads f).subject = s.subject := rfl
@[simp] theorem mapThreads_nextTeam (s : State) (f : Nat → Thread → Thread) : (s.mapThreads f).nextTeam = s.nextTeam := rfl
@[simp] theorem mapThreads_nextLaunch (s : State) (f : Nat → Thread → Thread) : (s.mapThreads f).nextLaunch = s.nextLaunch := rfl
@[simp] theorem mapThreads_nextCommand (s : State) (f : Nat → Thread → Thread) : (s.mapThreads f).nextCommand = s.nextCommand := rfl
@[simp] theorem mapThreads_nextAccess (s : State) (f : Nat → Thread → Thread) : (s.mapThreads f).nextAccess = s.nextAccess := rfl
@[simp] theorem mapThreads_nextInst (s : State) (f : Nat → Thread → Thread) : (s.mapThreads f).nextInst = s.nextInst := rfl
@[simp] theorem mapThreads_nextReady (s : State) (f : Nat → Thread → Thread) : (s.mapThreads f).nextReady = s.nextReady := rfl

/-! `modThread` changes `threads` alone. -/

@[simp] theorem modThread_threads (s : State) (k : Nat) (f : Thread → Thread) : (s.modThread k f).threads = s.threads.modify k f := rfl
@[simp] theorem modThread_groups (s : State) (k : Nat) (f : Thread → Thread) : (s.modThread k f).groups = s.groups := rfl
@[simp] theorem modThread_teams (s : State) (k : Nat) (f : Thread → Thread) : (s.modThread k f).teams = s.teams := rfl
@[simp] theorem modThread_launches (s : State) (k : Nat) (f : Thread → Thread) : (s.modThread k f).launches = s.launches := rfl
@[simp] theorem modThread_commands (s : State) (k : Nat) (f : Thread → Thread) : (s.modThread k f).commands = s.commands := rfl
@[simp] theorem modThread_contexts (s : State) (k : Nat) (f : Thread → Thread) : (s.modThread k f).contexts = s.contexts := rfl
@[simp] theorem modThread_svcthr (s : State) (k : Nat) (f : Thread → Thread) : (s.modThread k f).svcthr = s.svcthr := rfl
@[simp] theorem modThread_ctxlim (s : State) (k : Nat) (f : Thread → Thread) : (s.modThread k f).ctxlim = s.ctxlim := rfl
@[simp] theorem modThread_capTable (s : State) (k : Nat) (f : Thread → Thread) : (s.modThread k f).capTable = s.capTable := rfl
@[simp] theorem modThread_insts (s : State) (k : Nat) (f : Thread → Thread) : (s.modThread k f).insts = s.insts := rfl
@[simp] theorem modThread_dies (s : State) (k : Nat) (f : Thread → Thread) : (s.modThread k f).dies = s.dies := rfl
@[simp] theorem modThread_parts (s : State) (k : Nat) (f : Thread → Thread) : (s.modThread k f).parts = s.parts := rfl
@[simp] theorem modThread_pkrCopies (s : State) (k : Nat) (f : Thread → Thread) : (s.modThread k f).pkrCopies = s.pkrCopies := rfl
@[simp] theorem modThread_pages (s : State) (k : Nat) (f : Thread → Thread) : (s.modThread k f).pages = s.pages := rfl
@[simp] theorem modThread_descs (s : State) (k : Nat) (f : Thread → Thread) : (s.modThread k f).descs = s.descs := rfl
@[simp] theorem modThread_domains (s : State) (k : Nat) (f : Thread → Thread) : (s.modThread k f).domains = s.domains := rfl
@[simp] theorem modThread_hbm (s : State) (k : Nat) (f : Thread → Thread) : (s.modThread k f).hbm = s.hbm := rfl
@[simp] theorem modThread_poison (s : State) (k : Nat) (f : Thread → Thread) : (s.modThread k f).poison = s.poison := rfl
@[simp] theorem modThread_badLines (s : State) (k : Nat) (f : Thread → Thread) : (s.modThread k f).badLines = s.badLines := rfl
@[simp] theorem modThread_mirrors (s : State) (k : Nat) (f : Thread → Thread) : (s.modThread k f).mirrors = s.mirrors := rfl
@[simp] theorem modThread_ahead (s : State) (k : Nat) (f : Thread → Thread) : (s.modThread k f).ahead = s.ahead := rfl
@[simp] theorem modThread_hostMem (s : State) (k : Nat) (f : Thread → Thread) : (s.modThread k f).hostMem = s.hostMem := rfl
@[simp] theorem modThread_accesses (s : State) (k : Nat) (f : Thread → Thread) : (s.modThread k f).accesses = s.accesses := rfl
@[simp] theorem modThread_posted (s : State) (k : Nat) (f : Thread → Thread) : (s.modThread k f).posted = s.posted := rfl
@[simp] theorem modThread_cycle (s : State) (k : Nat) (f : Thread → Thread) : (s.modThread k f).cycle = s.cycle := rfl
@[simp] theorem modThread_dev (s : State) (k : Nat) (f : Thread → Thread) : (s.modThread k f).dev = s.dev := rfl
@[simp] theorem modThread_flkLo (s : State) (k : Nat) (f : Thread → Thread) : (s.modThread k f).flkLo = s.flkLo := rfl
@[simp] theorem modThread_flkHi (s : State) (k : Nat) (f : Thread → Thread) : (s.modThread k f).flkHi = s.flkHi := rfl
@[simp] theorem modThread_flkCtl (s : State) (k : Nat) (f : Thread → Thread) : (s.modThread k f).flkCtl = s.flkCtl := rfl
@[simp] theorem modThread_budgets (s : State) (k : Nat) (f : Thread → Thread) : (s.modThread k f).budgets = s.budgets := rfl
@[simp] theorem modThread_used (s : State) (k : Nat) (f : Thread → Thread) : (s.modThread k f).used = s.used := rfl
@[simp] theorem modThread_slotUse (s : State) (k : Nat) (f : Thread → Thread) : (s.modThread k f).slotUse = s.slotUse := rfl
@[simp] theorem modThread_rebal (s : State) (k : Nat) (f : Thread → Thread) : (s.modThread k f).rebal = s.rebal := rfl
@[simp] theorem modThread_regions (s : State) (k : Nat) (f : Thread → Thread) : (s.modThread k f).regions = s.regions := rfl
@[simp] theorem modThread_flash (s : State) (k : Nat) (f : Thread → Thread) : (s.modThread k f).flash = s.flash := rfl
@[simp] theorem modThread_minimum (s : State) (k : Nat) (f : Thread → Thread) : (s.modThread k f).minimum = s.minimum := rfl
@[simp] theorem modThread_ports (s : State) (k : Nat) (f : Thread → Thread) : (s.modThread k f).ports = s.ports := rfl
@[simp] theorem modThread_hostUp (s : State) (k : Nat) (f : Thread → Thread) : (s.modThread k f).hostUp = s.hostUp := rfl
@[simp] theorem modThread_slots (s : State) (k : Nat) (f : Thread → Thread) : (s.modThread k f).slots = s.slots := rfl
@[simp] theorem modThread_rings (s : State) (k : Nat) (f : Thread → Thread) : (s.modThread k f).rings = s.rings := rfl
@[simp] theorem modThread_windowHost (s : State) (k : Nat) (f : Thread → Thread) : (s.modThread k f).windowHost = s.windowHost := rfl
@[simp] theorem modThread_windowDevice (s : State) (k : Nat) (f : Thread → Thread) : (s.modThread k f).windowDevice = s.windowDevice := rfl
@[simp] theorem modThread_windowSize (s : State) (k : Nat) (f : Thread → Thread) : (s.modThread k f).windowSize = s.windowSize := rfl
@[simp] theorem modThread_stray (s : State) (k : Nat) (f : Thread → Thread) : (s.modThread k f).stray = s.stray := rfl
@[simp] theorem modThread_strayArmed (s : State) (k : Nat) (f : Thread → Thread) : (s.modThread k f).strayArmed = s.strayArmed := rfl
@[simp] theorem modThread_sealedWrites (s : State) (k : Nat) (f : Thread → Thread) : (s.modThread k f).sealedWrites = s.sealedWrites := rfl
@[simp] theorem modThread_vector1 (s : State) (k : Nat) (f : Thread → Thread) : (s.modThread k f).vector1 = s.vector1 := rfl
@[simp] theorem modThread_vector2 (s : State) (k : Nat) (f : Thread → Thread) : (s.modThread k f).vector2 = s.vector2 := rfl
@[simp] theorem modThread_outbox (s : State) (k : Nat) (f : Thread → Thread) : (s.modThread k f).outbox = s.outbox := rfl
@[simp] theorem modThread_halved (s : State) (k : Nat) (f : Thread → Thread) : (s.modThread k f).halved = s.halved := rfl
@[simp] theorem modThread_stopped (s : State) (k : Nat) (f : Thread → Thread) : (s.modThread k f).stopped = s.stopped := rfl
@[simp] theorem modThread_power (s : State) (k : Nat) (f : Thread → Thread) : (s.modThread k f).power = s.power := rfl
@[simp] theorem modThread_agenda (s : State) (k : Nat) (f : Thread → Thread) : (s.modThread k f).agenda = s.agenda := rfl
@[simp] theorem modThread_turn (s : State) (k : Nat) (f : Thread → Thread) : (s.modThread k f).turn = s.turn := rfl
@[simp] theorem modThread_issue (s : State) (k : Nat) (f : Thread → Thread) : (s.modThread k f).issue = s.issue := rfl
@[simp] theorem modThread_subject (s : State) (k : Nat) (f : Thread → Thread) : (s.modThread k f).subject = s.subject := rfl
@[simp] theorem modThread_nextTeam (s : State) (k : Nat) (f : Thread → Thread) : (s.modThread k f).nextTeam = s.nextTeam := rfl
@[simp] theorem modThread_nextLaunch (s : State) (k : Nat) (f : Thread → Thread) : (s.modThread k f).nextLaunch = s.nextLaunch := rfl
@[simp] theorem modThread_nextCommand (s : State) (k : Nat) (f : Thread → Thread) : (s.modThread k f).nextCommand = s.nextCommand := rfl
@[simp] theorem modThread_nextAccess (s : State) (k : Nat) (f : Thread → Thread) : (s.modThread k f).nextAccess = s.nextAccess := rfl
@[simp] theorem modThread_nextInst (s : State) (k : Nat) (f : Thread → Thread) : (s.modThread k f).nextInst = s.nextInst := rfl
@[simp] theorem modThread_nextReady (s : State) (k : Nat) (f : Thread → Thread) : (s.modThread k f).nextReady = s.nextReady := rfl

/-! `modGroup` changes `groups` alone. -/

@[simp] theorem modGroup_threads (s : State) (k : Nat) (f : Group → Group) : (s.modGroup k f).threads = s.threads := rfl
@[simp] theorem modGroup_groups (s : State) (k : Nat) (f : Group → Group) : (s.modGroup k f).groups = s.groups.modify k f := rfl
@[simp] theorem modGroup_teams (s : State) (k : Nat) (f : Group → Group) : (s.modGroup k f).teams = s.teams := rfl
@[simp] theorem modGroup_launches (s : State) (k : Nat) (f : Group → Group) : (s.modGroup k f).launches = s.launches := rfl
@[simp] theorem modGroup_commands (s : State) (k : Nat) (f : Group → Group) : (s.modGroup k f).commands = s.commands := rfl
@[simp] theorem modGroup_contexts (s : State) (k : Nat) (f : Group → Group) : (s.modGroup k f).contexts = s.contexts := rfl
@[simp] theorem modGroup_svcthr (s : State) (k : Nat) (f : Group → Group) : (s.modGroup k f).svcthr = s.svcthr := rfl
@[simp] theorem modGroup_ctxlim (s : State) (k : Nat) (f : Group → Group) : (s.modGroup k f).ctxlim = s.ctxlim := rfl
@[simp] theorem modGroup_capTable (s : State) (k : Nat) (f : Group → Group) : (s.modGroup k f).capTable = s.capTable := rfl
@[simp] theorem modGroup_insts (s : State) (k : Nat) (f : Group → Group) : (s.modGroup k f).insts = s.insts := rfl
@[simp] theorem modGroup_dies (s : State) (k : Nat) (f : Group → Group) : (s.modGroup k f).dies = s.dies := rfl
@[simp] theorem modGroup_parts (s : State) (k : Nat) (f : Group → Group) : (s.modGroup k f).parts = s.parts := rfl
@[simp] theorem modGroup_pkrCopies (s : State) (k : Nat) (f : Group → Group) : (s.modGroup k f).pkrCopies = s.pkrCopies := rfl
@[simp] theorem modGroup_pages (s : State) (k : Nat) (f : Group → Group) : (s.modGroup k f).pages = s.pages := rfl
@[simp] theorem modGroup_descs (s : State) (k : Nat) (f : Group → Group) : (s.modGroup k f).descs = s.descs := rfl
@[simp] theorem modGroup_domains (s : State) (k : Nat) (f : Group → Group) : (s.modGroup k f).domains = s.domains := rfl
@[simp] theorem modGroup_hbm (s : State) (k : Nat) (f : Group → Group) : (s.modGroup k f).hbm = s.hbm := rfl
@[simp] theorem modGroup_poison (s : State) (k : Nat) (f : Group → Group) : (s.modGroup k f).poison = s.poison := rfl
@[simp] theorem modGroup_badLines (s : State) (k : Nat) (f : Group → Group) : (s.modGroup k f).badLines = s.badLines := rfl
@[simp] theorem modGroup_mirrors (s : State) (k : Nat) (f : Group → Group) : (s.modGroup k f).mirrors = s.mirrors := rfl
@[simp] theorem modGroup_ahead (s : State) (k : Nat) (f : Group → Group) : (s.modGroup k f).ahead = s.ahead := rfl
@[simp] theorem modGroup_hostMem (s : State) (k : Nat) (f : Group → Group) : (s.modGroup k f).hostMem = s.hostMem := rfl
@[simp] theorem modGroup_accesses (s : State) (k : Nat) (f : Group → Group) : (s.modGroup k f).accesses = s.accesses := rfl
@[simp] theorem modGroup_posted (s : State) (k : Nat) (f : Group → Group) : (s.modGroup k f).posted = s.posted := rfl
@[simp] theorem modGroup_cycle (s : State) (k : Nat) (f : Group → Group) : (s.modGroup k f).cycle = s.cycle := rfl
@[simp] theorem modGroup_dev (s : State) (k : Nat) (f : Group → Group) : (s.modGroup k f).dev = s.dev := rfl
@[simp] theorem modGroup_flkLo (s : State) (k : Nat) (f : Group → Group) : (s.modGroup k f).flkLo = s.flkLo := rfl
@[simp] theorem modGroup_flkHi (s : State) (k : Nat) (f : Group → Group) : (s.modGroup k f).flkHi = s.flkHi := rfl
@[simp] theorem modGroup_flkCtl (s : State) (k : Nat) (f : Group → Group) : (s.modGroup k f).flkCtl = s.flkCtl := rfl
@[simp] theorem modGroup_budgets (s : State) (k : Nat) (f : Group → Group) : (s.modGroup k f).budgets = s.budgets := rfl
@[simp] theorem modGroup_used (s : State) (k : Nat) (f : Group → Group) : (s.modGroup k f).used = s.used := rfl
@[simp] theorem modGroup_slotUse (s : State) (k : Nat) (f : Group → Group) : (s.modGroup k f).slotUse = s.slotUse := rfl
@[simp] theorem modGroup_rebal (s : State) (k : Nat) (f : Group → Group) : (s.modGroup k f).rebal = s.rebal := rfl
@[simp] theorem modGroup_regions (s : State) (k : Nat) (f : Group → Group) : (s.modGroup k f).regions = s.regions := rfl
@[simp] theorem modGroup_flash (s : State) (k : Nat) (f : Group → Group) : (s.modGroup k f).flash = s.flash := rfl
@[simp] theorem modGroup_minimum (s : State) (k : Nat) (f : Group → Group) : (s.modGroup k f).minimum = s.minimum := rfl
@[simp] theorem modGroup_ports (s : State) (k : Nat) (f : Group → Group) : (s.modGroup k f).ports = s.ports := rfl
@[simp] theorem modGroup_hostUp (s : State) (k : Nat) (f : Group → Group) : (s.modGroup k f).hostUp = s.hostUp := rfl
@[simp] theorem modGroup_slots (s : State) (k : Nat) (f : Group → Group) : (s.modGroup k f).slots = s.slots := rfl
@[simp] theorem modGroup_rings (s : State) (k : Nat) (f : Group → Group) : (s.modGroup k f).rings = s.rings := rfl
@[simp] theorem modGroup_windowHost (s : State) (k : Nat) (f : Group → Group) : (s.modGroup k f).windowHost = s.windowHost := rfl
@[simp] theorem modGroup_windowDevice (s : State) (k : Nat) (f : Group → Group) : (s.modGroup k f).windowDevice = s.windowDevice := rfl
@[simp] theorem modGroup_windowSize (s : State) (k : Nat) (f : Group → Group) : (s.modGroup k f).windowSize = s.windowSize := rfl
@[simp] theorem modGroup_stray (s : State) (k : Nat) (f : Group → Group) : (s.modGroup k f).stray = s.stray := rfl
@[simp] theorem modGroup_strayArmed (s : State) (k : Nat) (f : Group → Group) : (s.modGroup k f).strayArmed = s.strayArmed := rfl
@[simp] theorem modGroup_sealedWrites (s : State) (k : Nat) (f : Group → Group) : (s.modGroup k f).sealedWrites = s.sealedWrites := rfl
@[simp] theorem modGroup_vector1 (s : State) (k : Nat) (f : Group → Group) : (s.modGroup k f).vector1 = s.vector1 := rfl
@[simp] theorem modGroup_vector2 (s : State) (k : Nat) (f : Group → Group) : (s.modGroup k f).vector2 = s.vector2 := rfl
@[simp] theorem modGroup_outbox (s : State) (k : Nat) (f : Group → Group) : (s.modGroup k f).outbox = s.outbox := rfl
@[simp] theorem modGroup_halved (s : State) (k : Nat) (f : Group → Group) : (s.modGroup k f).halved = s.halved := rfl
@[simp] theorem modGroup_stopped (s : State) (k : Nat) (f : Group → Group) : (s.modGroup k f).stopped = s.stopped := rfl
@[simp] theorem modGroup_power (s : State) (k : Nat) (f : Group → Group) : (s.modGroup k f).power = s.power := rfl
@[simp] theorem modGroup_agenda (s : State) (k : Nat) (f : Group → Group) : (s.modGroup k f).agenda = s.agenda := rfl
@[simp] theorem modGroup_turn (s : State) (k : Nat) (f : Group → Group) : (s.modGroup k f).turn = s.turn := rfl
@[simp] theorem modGroup_issue (s : State) (k : Nat) (f : Group → Group) : (s.modGroup k f).issue = s.issue := rfl
@[simp] theorem modGroup_subject (s : State) (k : Nat) (f : Group → Group) : (s.modGroup k f).subject = s.subject := rfl
@[simp] theorem modGroup_nextTeam (s : State) (k : Nat) (f : Group → Group) : (s.modGroup k f).nextTeam = s.nextTeam := rfl
@[simp] theorem modGroup_nextLaunch (s : State) (k : Nat) (f : Group → Group) : (s.modGroup k f).nextLaunch = s.nextLaunch := rfl
@[simp] theorem modGroup_nextCommand (s : State) (k : Nat) (f : Group → Group) : (s.modGroup k f).nextCommand = s.nextCommand := rfl
@[simp] theorem modGroup_nextAccess (s : State) (k : Nat) (f : Group → Group) : (s.modGroup k f).nextAccess = s.nextAccess := rfl
@[simp] theorem modGroup_nextInst (s : State) (k : Nat) (f : Group → Group) : (s.modGroup k f).nextInst = s.nextInst := rfl
@[simp] theorem modGroup_nextReady (s : State) (k : Nat) (f : Group → Group) : (s.modGroup k f).nextReady = s.nextReady := rfl

/-! `modTeam` changes `teams` alone. -/

@[simp] theorem modTeam_threads (s : State) (k : Nat) (f : Team → Team) : (s.modTeam k f).threads = s.threads := rfl
@[simp] theorem modTeam_groups (s : State) (k : Nat) (f : Team → Team) : (s.modTeam k f).groups = s.groups := rfl
@[simp] theorem modTeam_teams (s : State) (k : Nat) (f : Team → Team) : (s.modTeam k f).teams = s.teams.modify k f := rfl
@[simp] theorem modTeam_launches (s : State) (k : Nat) (f : Team → Team) : (s.modTeam k f).launches = s.launches := rfl
@[simp] theorem modTeam_commands (s : State) (k : Nat) (f : Team → Team) : (s.modTeam k f).commands = s.commands := rfl
@[simp] theorem modTeam_contexts (s : State) (k : Nat) (f : Team → Team) : (s.modTeam k f).contexts = s.contexts := rfl
@[simp] theorem modTeam_svcthr (s : State) (k : Nat) (f : Team → Team) : (s.modTeam k f).svcthr = s.svcthr := rfl
@[simp] theorem modTeam_ctxlim (s : State) (k : Nat) (f : Team → Team) : (s.modTeam k f).ctxlim = s.ctxlim := rfl
@[simp] theorem modTeam_capTable (s : State) (k : Nat) (f : Team → Team) : (s.modTeam k f).capTable = s.capTable := rfl
@[simp] theorem modTeam_insts (s : State) (k : Nat) (f : Team → Team) : (s.modTeam k f).insts = s.insts := rfl
@[simp] theorem modTeam_dies (s : State) (k : Nat) (f : Team → Team) : (s.modTeam k f).dies = s.dies := rfl
@[simp] theorem modTeam_parts (s : State) (k : Nat) (f : Team → Team) : (s.modTeam k f).parts = s.parts := rfl
@[simp] theorem modTeam_pkrCopies (s : State) (k : Nat) (f : Team → Team) : (s.modTeam k f).pkrCopies = s.pkrCopies := rfl
@[simp] theorem modTeam_pages (s : State) (k : Nat) (f : Team → Team) : (s.modTeam k f).pages = s.pages := rfl
@[simp] theorem modTeam_descs (s : State) (k : Nat) (f : Team → Team) : (s.modTeam k f).descs = s.descs := rfl
@[simp] theorem modTeam_domains (s : State) (k : Nat) (f : Team → Team) : (s.modTeam k f).domains = s.domains := rfl
@[simp] theorem modTeam_hbm (s : State) (k : Nat) (f : Team → Team) : (s.modTeam k f).hbm = s.hbm := rfl
@[simp] theorem modTeam_poison (s : State) (k : Nat) (f : Team → Team) : (s.modTeam k f).poison = s.poison := rfl
@[simp] theorem modTeam_badLines (s : State) (k : Nat) (f : Team → Team) : (s.modTeam k f).badLines = s.badLines := rfl
@[simp] theorem modTeam_mirrors (s : State) (k : Nat) (f : Team → Team) : (s.modTeam k f).mirrors = s.mirrors := rfl
@[simp] theorem modTeam_ahead (s : State) (k : Nat) (f : Team → Team) : (s.modTeam k f).ahead = s.ahead := rfl
@[simp] theorem modTeam_hostMem (s : State) (k : Nat) (f : Team → Team) : (s.modTeam k f).hostMem = s.hostMem := rfl
@[simp] theorem modTeam_accesses (s : State) (k : Nat) (f : Team → Team) : (s.modTeam k f).accesses = s.accesses := rfl
@[simp] theorem modTeam_posted (s : State) (k : Nat) (f : Team → Team) : (s.modTeam k f).posted = s.posted := rfl
@[simp] theorem modTeam_cycle (s : State) (k : Nat) (f : Team → Team) : (s.modTeam k f).cycle = s.cycle := rfl
@[simp] theorem modTeam_dev (s : State) (k : Nat) (f : Team → Team) : (s.modTeam k f).dev = s.dev := rfl
@[simp] theorem modTeam_flkLo (s : State) (k : Nat) (f : Team → Team) : (s.modTeam k f).flkLo = s.flkLo := rfl
@[simp] theorem modTeam_flkHi (s : State) (k : Nat) (f : Team → Team) : (s.modTeam k f).flkHi = s.flkHi := rfl
@[simp] theorem modTeam_flkCtl (s : State) (k : Nat) (f : Team → Team) : (s.modTeam k f).flkCtl = s.flkCtl := rfl
@[simp] theorem modTeam_budgets (s : State) (k : Nat) (f : Team → Team) : (s.modTeam k f).budgets = s.budgets := rfl
@[simp] theorem modTeam_used (s : State) (k : Nat) (f : Team → Team) : (s.modTeam k f).used = s.used := rfl
@[simp] theorem modTeam_slotUse (s : State) (k : Nat) (f : Team → Team) : (s.modTeam k f).slotUse = s.slotUse := rfl
@[simp] theorem modTeam_rebal (s : State) (k : Nat) (f : Team → Team) : (s.modTeam k f).rebal = s.rebal := rfl
@[simp] theorem modTeam_regions (s : State) (k : Nat) (f : Team → Team) : (s.modTeam k f).regions = s.regions := rfl
@[simp] theorem modTeam_flash (s : State) (k : Nat) (f : Team → Team) : (s.modTeam k f).flash = s.flash := rfl
@[simp] theorem modTeam_minimum (s : State) (k : Nat) (f : Team → Team) : (s.modTeam k f).minimum = s.minimum := rfl
@[simp] theorem modTeam_ports (s : State) (k : Nat) (f : Team → Team) : (s.modTeam k f).ports = s.ports := rfl
@[simp] theorem modTeam_hostUp (s : State) (k : Nat) (f : Team → Team) : (s.modTeam k f).hostUp = s.hostUp := rfl
@[simp] theorem modTeam_slots (s : State) (k : Nat) (f : Team → Team) : (s.modTeam k f).slots = s.slots := rfl
@[simp] theorem modTeam_rings (s : State) (k : Nat) (f : Team → Team) : (s.modTeam k f).rings = s.rings := rfl
@[simp] theorem modTeam_windowHost (s : State) (k : Nat) (f : Team → Team) : (s.modTeam k f).windowHost = s.windowHost := rfl
@[simp] theorem modTeam_windowDevice (s : State) (k : Nat) (f : Team → Team) : (s.modTeam k f).windowDevice = s.windowDevice := rfl
@[simp] theorem modTeam_windowSize (s : State) (k : Nat) (f : Team → Team) : (s.modTeam k f).windowSize = s.windowSize := rfl
@[simp] theorem modTeam_stray (s : State) (k : Nat) (f : Team → Team) : (s.modTeam k f).stray = s.stray := rfl
@[simp] theorem modTeam_strayArmed (s : State) (k : Nat) (f : Team → Team) : (s.modTeam k f).strayArmed = s.strayArmed := rfl
@[simp] theorem modTeam_sealedWrites (s : State) (k : Nat) (f : Team → Team) : (s.modTeam k f).sealedWrites = s.sealedWrites := rfl
@[simp] theorem modTeam_vector1 (s : State) (k : Nat) (f : Team → Team) : (s.modTeam k f).vector1 = s.vector1 := rfl
@[simp] theorem modTeam_vector2 (s : State) (k : Nat) (f : Team → Team) : (s.modTeam k f).vector2 = s.vector2 := rfl
@[simp] theorem modTeam_outbox (s : State) (k : Nat) (f : Team → Team) : (s.modTeam k f).outbox = s.outbox := rfl
@[simp] theorem modTeam_halved (s : State) (k : Nat) (f : Team → Team) : (s.modTeam k f).halved = s.halved := rfl
@[simp] theorem modTeam_stopped (s : State) (k : Nat) (f : Team → Team) : (s.modTeam k f).stopped = s.stopped := rfl
@[simp] theorem modTeam_power (s : State) (k : Nat) (f : Team → Team) : (s.modTeam k f).power = s.power := rfl
@[simp] theorem modTeam_agenda (s : State) (k : Nat) (f : Team → Team) : (s.modTeam k f).agenda = s.agenda := rfl
@[simp] theorem modTeam_turn (s : State) (k : Nat) (f : Team → Team) : (s.modTeam k f).turn = s.turn := rfl
@[simp] theorem modTeam_issue (s : State) (k : Nat) (f : Team → Team) : (s.modTeam k f).issue = s.issue := rfl
@[simp] theorem modTeam_subject (s : State) (k : Nat) (f : Team → Team) : (s.modTeam k f).subject = s.subject := rfl
@[simp] theorem modTeam_nextTeam (s : State) (k : Nat) (f : Team → Team) : (s.modTeam k f).nextTeam = s.nextTeam := rfl
@[simp] theorem modTeam_nextLaunch (s : State) (k : Nat) (f : Team → Team) : (s.modTeam k f).nextLaunch = s.nextLaunch := rfl
@[simp] theorem modTeam_nextCommand (s : State) (k : Nat) (f : Team → Team) : (s.modTeam k f).nextCommand = s.nextCommand := rfl
@[simp] theorem modTeam_nextAccess (s : State) (k : Nat) (f : Team → Team) : (s.modTeam k f).nextAccess = s.nextAccess := rfl
@[simp] theorem modTeam_nextInst (s : State) (k : Nat) (f : Team → Team) : (s.modTeam k f).nextInst = s.nextInst := rfl
@[simp] theorem modTeam_nextReady (s : State) (k : Nat) (f : Team → Team) : (s.modTeam k f).nextReady = s.nextReady := rfl

/-! `modLaunch` changes `launches` alone. -/

@[simp] theorem modLaunch_threads (s : State) (k : Nat) (f : Launch → Launch) : (s.modLaunch k f).threads = s.threads := rfl
@[simp] theorem modLaunch_groups (s : State) (k : Nat) (f : Launch → Launch) : (s.modLaunch k f).groups = s.groups := rfl
@[simp] theorem modLaunch_teams (s : State) (k : Nat) (f : Launch → Launch) : (s.modLaunch k f).teams = s.teams := rfl
@[simp] theorem modLaunch_launches (s : State) (k : Nat) (f : Launch → Launch) : (s.modLaunch k f).launches = s.launches.modify k f := rfl
@[simp] theorem modLaunch_commands (s : State) (k : Nat) (f : Launch → Launch) : (s.modLaunch k f).commands = s.commands := rfl
@[simp] theorem modLaunch_contexts (s : State) (k : Nat) (f : Launch → Launch) : (s.modLaunch k f).contexts = s.contexts := rfl
@[simp] theorem modLaunch_svcthr (s : State) (k : Nat) (f : Launch → Launch) : (s.modLaunch k f).svcthr = s.svcthr := rfl
@[simp] theorem modLaunch_ctxlim (s : State) (k : Nat) (f : Launch → Launch) : (s.modLaunch k f).ctxlim = s.ctxlim := rfl
@[simp] theorem modLaunch_capTable (s : State) (k : Nat) (f : Launch → Launch) : (s.modLaunch k f).capTable = s.capTable := rfl
@[simp] theorem modLaunch_insts (s : State) (k : Nat) (f : Launch → Launch) : (s.modLaunch k f).insts = s.insts := rfl
@[simp] theorem modLaunch_dies (s : State) (k : Nat) (f : Launch → Launch) : (s.modLaunch k f).dies = s.dies := rfl
@[simp] theorem modLaunch_parts (s : State) (k : Nat) (f : Launch → Launch) : (s.modLaunch k f).parts = s.parts := rfl
@[simp] theorem modLaunch_pkrCopies (s : State) (k : Nat) (f : Launch → Launch) : (s.modLaunch k f).pkrCopies = s.pkrCopies := rfl
@[simp] theorem modLaunch_pages (s : State) (k : Nat) (f : Launch → Launch) : (s.modLaunch k f).pages = s.pages := rfl
@[simp] theorem modLaunch_descs (s : State) (k : Nat) (f : Launch → Launch) : (s.modLaunch k f).descs = s.descs := rfl
@[simp] theorem modLaunch_domains (s : State) (k : Nat) (f : Launch → Launch) : (s.modLaunch k f).domains = s.domains := rfl
@[simp] theorem modLaunch_hbm (s : State) (k : Nat) (f : Launch → Launch) : (s.modLaunch k f).hbm = s.hbm := rfl
@[simp] theorem modLaunch_poison (s : State) (k : Nat) (f : Launch → Launch) : (s.modLaunch k f).poison = s.poison := rfl
@[simp] theorem modLaunch_badLines (s : State) (k : Nat) (f : Launch → Launch) : (s.modLaunch k f).badLines = s.badLines := rfl
@[simp] theorem modLaunch_mirrors (s : State) (k : Nat) (f : Launch → Launch) : (s.modLaunch k f).mirrors = s.mirrors := rfl
@[simp] theorem modLaunch_ahead (s : State) (k : Nat) (f : Launch → Launch) : (s.modLaunch k f).ahead = s.ahead := rfl
@[simp] theorem modLaunch_hostMem (s : State) (k : Nat) (f : Launch → Launch) : (s.modLaunch k f).hostMem = s.hostMem := rfl
@[simp] theorem modLaunch_accesses (s : State) (k : Nat) (f : Launch → Launch) : (s.modLaunch k f).accesses = s.accesses := rfl
@[simp] theorem modLaunch_posted (s : State) (k : Nat) (f : Launch → Launch) : (s.modLaunch k f).posted = s.posted := rfl
@[simp] theorem modLaunch_cycle (s : State) (k : Nat) (f : Launch → Launch) : (s.modLaunch k f).cycle = s.cycle := rfl
@[simp] theorem modLaunch_dev (s : State) (k : Nat) (f : Launch → Launch) : (s.modLaunch k f).dev = s.dev := rfl
@[simp] theorem modLaunch_flkLo (s : State) (k : Nat) (f : Launch → Launch) : (s.modLaunch k f).flkLo = s.flkLo := rfl
@[simp] theorem modLaunch_flkHi (s : State) (k : Nat) (f : Launch → Launch) : (s.modLaunch k f).flkHi = s.flkHi := rfl
@[simp] theorem modLaunch_flkCtl (s : State) (k : Nat) (f : Launch → Launch) : (s.modLaunch k f).flkCtl = s.flkCtl := rfl
@[simp] theorem modLaunch_budgets (s : State) (k : Nat) (f : Launch → Launch) : (s.modLaunch k f).budgets = s.budgets := rfl
@[simp] theorem modLaunch_used (s : State) (k : Nat) (f : Launch → Launch) : (s.modLaunch k f).used = s.used := rfl
@[simp] theorem modLaunch_slotUse (s : State) (k : Nat) (f : Launch → Launch) : (s.modLaunch k f).slotUse = s.slotUse := rfl
@[simp] theorem modLaunch_rebal (s : State) (k : Nat) (f : Launch → Launch) : (s.modLaunch k f).rebal = s.rebal := rfl
@[simp] theorem modLaunch_regions (s : State) (k : Nat) (f : Launch → Launch) : (s.modLaunch k f).regions = s.regions := rfl
@[simp] theorem modLaunch_flash (s : State) (k : Nat) (f : Launch → Launch) : (s.modLaunch k f).flash = s.flash := rfl
@[simp] theorem modLaunch_minimum (s : State) (k : Nat) (f : Launch → Launch) : (s.modLaunch k f).minimum = s.minimum := rfl
@[simp] theorem modLaunch_ports (s : State) (k : Nat) (f : Launch → Launch) : (s.modLaunch k f).ports = s.ports := rfl
@[simp] theorem modLaunch_hostUp (s : State) (k : Nat) (f : Launch → Launch) : (s.modLaunch k f).hostUp = s.hostUp := rfl
@[simp] theorem modLaunch_slots (s : State) (k : Nat) (f : Launch → Launch) : (s.modLaunch k f).slots = s.slots := rfl
@[simp] theorem modLaunch_rings (s : State) (k : Nat) (f : Launch → Launch) : (s.modLaunch k f).rings = s.rings := rfl
@[simp] theorem modLaunch_windowHost (s : State) (k : Nat) (f : Launch → Launch) : (s.modLaunch k f).windowHost = s.windowHost := rfl
@[simp] theorem modLaunch_windowDevice (s : State) (k : Nat) (f : Launch → Launch) : (s.modLaunch k f).windowDevice = s.windowDevice := rfl
@[simp] theorem modLaunch_windowSize (s : State) (k : Nat) (f : Launch → Launch) : (s.modLaunch k f).windowSize = s.windowSize := rfl
@[simp] theorem modLaunch_stray (s : State) (k : Nat) (f : Launch → Launch) : (s.modLaunch k f).stray = s.stray := rfl
@[simp] theorem modLaunch_strayArmed (s : State) (k : Nat) (f : Launch → Launch) : (s.modLaunch k f).strayArmed = s.strayArmed := rfl
@[simp] theorem modLaunch_sealedWrites (s : State) (k : Nat) (f : Launch → Launch) : (s.modLaunch k f).sealedWrites = s.sealedWrites := rfl
@[simp] theorem modLaunch_vector1 (s : State) (k : Nat) (f : Launch → Launch) : (s.modLaunch k f).vector1 = s.vector1 := rfl
@[simp] theorem modLaunch_vector2 (s : State) (k : Nat) (f : Launch → Launch) : (s.modLaunch k f).vector2 = s.vector2 := rfl
@[simp] theorem modLaunch_outbox (s : State) (k : Nat) (f : Launch → Launch) : (s.modLaunch k f).outbox = s.outbox := rfl
@[simp] theorem modLaunch_halved (s : State) (k : Nat) (f : Launch → Launch) : (s.modLaunch k f).halved = s.halved := rfl
@[simp] theorem modLaunch_stopped (s : State) (k : Nat) (f : Launch → Launch) : (s.modLaunch k f).stopped = s.stopped := rfl
@[simp] theorem modLaunch_power (s : State) (k : Nat) (f : Launch → Launch) : (s.modLaunch k f).power = s.power := rfl
@[simp] theorem modLaunch_agenda (s : State) (k : Nat) (f : Launch → Launch) : (s.modLaunch k f).agenda = s.agenda := rfl
@[simp] theorem modLaunch_turn (s : State) (k : Nat) (f : Launch → Launch) : (s.modLaunch k f).turn = s.turn := rfl
@[simp] theorem modLaunch_issue (s : State) (k : Nat) (f : Launch → Launch) : (s.modLaunch k f).issue = s.issue := rfl
@[simp] theorem modLaunch_subject (s : State) (k : Nat) (f : Launch → Launch) : (s.modLaunch k f).subject = s.subject := rfl
@[simp] theorem modLaunch_nextTeam (s : State) (k : Nat) (f : Launch → Launch) : (s.modLaunch k f).nextTeam = s.nextTeam := rfl
@[simp] theorem modLaunch_nextLaunch (s : State) (k : Nat) (f : Launch → Launch) : (s.modLaunch k f).nextLaunch = s.nextLaunch := rfl
@[simp] theorem modLaunch_nextCommand (s : State) (k : Nat) (f : Launch → Launch) : (s.modLaunch k f).nextCommand = s.nextCommand := rfl
@[simp] theorem modLaunch_nextAccess (s : State) (k : Nat) (f : Launch → Launch) : (s.modLaunch k f).nextAccess = s.nextAccess := rfl
@[simp] theorem modLaunch_nextInst (s : State) (k : Nat) (f : Launch → Launch) : (s.modLaunch k f).nextInst = s.nextInst := rfl
@[simp] theorem modLaunch_nextReady (s : State) (k : Nat) (f : Launch → Launch) : (s.modLaunch k f).nextReady = s.nextReady := rfl

/-! `modContext` changes `contexts` alone. -/

@[simp] theorem modContext_threads (s : State) (k : Nat) (f : Context → Context) : (s.modContext k f).threads = s.threads := rfl
@[simp] theorem modContext_groups (s : State) (k : Nat) (f : Context → Context) : (s.modContext k f).groups = s.groups := rfl
@[simp] theorem modContext_teams (s : State) (k : Nat) (f : Context → Context) : (s.modContext k f).teams = s.teams := rfl
@[simp] theorem modContext_launches (s : State) (k : Nat) (f : Context → Context) : (s.modContext k f).launches = s.launches := rfl
@[simp] theorem modContext_commands (s : State) (k : Nat) (f : Context → Context) : (s.modContext k f).commands = s.commands := rfl
@[simp] theorem modContext_contexts (s : State) (k : Nat) (f : Context → Context) : (s.modContext k f).contexts = s.contexts.modify k f := rfl
@[simp] theorem modContext_svcthr (s : State) (k : Nat) (f : Context → Context) : (s.modContext k f).svcthr = s.svcthr := rfl
@[simp] theorem modContext_ctxlim (s : State) (k : Nat) (f : Context → Context) : (s.modContext k f).ctxlim = s.ctxlim := rfl
@[simp] theorem modContext_capTable (s : State) (k : Nat) (f : Context → Context) : (s.modContext k f).capTable = s.capTable := rfl
@[simp] theorem modContext_insts (s : State) (k : Nat) (f : Context → Context) : (s.modContext k f).insts = s.insts := rfl
@[simp] theorem modContext_dies (s : State) (k : Nat) (f : Context → Context) : (s.modContext k f).dies = s.dies := rfl
@[simp] theorem modContext_parts (s : State) (k : Nat) (f : Context → Context) : (s.modContext k f).parts = s.parts := rfl
@[simp] theorem modContext_pkrCopies (s : State) (k : Nat) (f : Context → Context) : (s.modContext k f).pkrCopies = s.pkrCopies := rfl
@[simp] theorem modContext_pages (s : State) (k : Nat) (f : Context → Context) : (s.modContext k f).pages = s.pages := rfl
@[simp] theorem modContext_descs (s : State) (k : Nat) (f : Context → Context) : (s.modContext k f).descs = s.descs := rfl
@[simp] theorem modContext_domains (s : State) (k : Nat) (f : Context → Context) : (s.modContext k f).domains = s.domains := rfl
@[simp] theorem modContext_hbm (s : State) (k : Nat) (f : Context → Context) : (s.modContext k f).hbm = s.hbm := rfl
@[simp] theorem modContext_poison (s : State) (k : Nat) (f : Context → Context) : (s.modContext k f).poison = s.poison := rfl
@[simp] theorem modContext_badLines (s : State) (k : Nat) (f : Context → Context) : (s.modContext k f).badLines = s.badLines := rfl
@[simp] theorem modContext_mirrors (s : State) (k : Nat) (f : Context → Context) : (s.modContext k f).mirrors = s.mirrors := rfl
@[simp] theorem modContext_ahead (s : State) (k : Nat) (f : Context → Context) : (s.modContext k f).ahead = s.ahead := rfl
@[simp] theorem modContext_hostMem (s : State) (k : Nat) (f : Context → Context) : (s.modContext k f).hostMem = s.hostMem := rfl
@[simp] theorem modContext_accesses (s : State) (k : Nat) (f : Context → Context) : (s.modContext k f).accesses = s.accesses := rfl
@[simp] theorem modContext_posted (s : State) (k : Nat) (f : Context → Context) : (s.modContext k f).posted = s.posted := rfl
@[simp] theorem modContext_cycle (s : State) (k : Nat) (f : Context → Context) : (s.modContext k f).cycle = s.cycle := rfl
@[simp] theorem modContext_dev (s : State) (k : Nat) (f : Context → Context) : (s.modContext k f).dev = s.dev := rfl
@[simp] theorem modContext_flkLo (s : State) (k : Nat) (f : Context → Context) : (s.modContext k f).flkLo = s.flkLo := rfl
@[simp] theorem modContext_flkHi (s : State) (k : Nat) (f : Context → Context) : (s.modContext k f).flkHi = s.flkHi := rfl
@[simp] theorem modContext_flkCtl (s : State) (k : Nat) (f : Context → Context) : (s.modContext k f).flkCtl = s.flkCtl := rfl
@[simp] theorem modContext_budgets (s : State) (k : Nat) (f : Context → Context) : (s.modContext k f).budgets = s.budgets := rfl
@[simp] theorem modContext_used (s : State) (k : Nat) (f : Context → Context) : (s.modContext k f).used = s.used := rfl
@[simp] theorem modContext_slotUse (s : State) (k : Nat) (f : Context → Context) : (s.modContext k f).slotUse = s.slotUse := rfl
@[simp] theorem modContext_rebal (s : State) (k : Nat) (f : Context → Context) : (s.modContext k f).rebal = s.rebal := rfl
@[simp] theorem modContext_regions (s : State) (k : Nat) (f : Context → Context) : (s.modContext k f).regions = s.regions := rfl
@[simp] theorem modContext_flash (s : State) (k : Nat) (f : Context → Context) : (s.modContext k f).flash = s.flash := rfl
@[simp] theorem modContext_minimum (s : State) (k : Nat) (f : Context → Context) : (s.modContext k f).minimum = s.minimum := rfl
@[simp] theorem modContext_ports (s : State) (k : Nat) (f : Context → Context) : (s.modContext k f).ports = s.ports := rfl
@[simp] theorem modContext_hostUp (s : State) (k : Nat) (f : Context → Context) : (s.modContext k f).hostUp = s.hostUp := rfl
@[simp] theorem modContext_slots (s : State) (k : Nat) (f : Context → Context) : (s.modContext k f).slots = s.slots := rfl
@[simp] theorem modContext_rings (s : State) (k : Nat) (f : Context → Context) : (s.modContext k f).rings = s.rings := rfl
@[simp] theorem modContext_windowHost (s : State) (k : Nat) (f : Context → Context) : (s.modContext k f).windowHost = s.windowHost := rfl
@[simp] theorem modContext_windowDevice (s : State) (k : Nat) (f : Context → Context) : (s.modContext k f).windowDevice = s.windowDevice := rfl
@[simp] theorem modContext_windowSize (s : State) (k : Nat) (f : Context → Context) : (s.modContext k f).windowSize = s.windowSize := rfl
@[simp] theorem modContext_stray (s : State) (k : Nat) (f : Context → Context) : (s.modContext k f).stray = s.stray := rfl
@[simp] theorem modContext_strayArmed (s : State) (k : Nat) (f : Context → Context) : (s.modContext k f).strayArmed = s.strayArmed := rfl
@[simp] theorem modContext_sealedWrites (s : State) (k : Nat) (f : Context → Context) : (s.modContext k f).sealedWrites = s.sealedWrites := rfl
@[simp] theorem modContext_vector1 (s : State) (k : Nat) (f : Context → Context) : (s.modContext k f).vector1 = s.vector1 := rfl
@[simp] theorem modContext_vector2 (s : State) (k : Nat) (f : Context → Context) : (s.modContext k f).vector2 = s.vector2 := rfl
@[simp] theorem modContext_outbox (s : State) (k : Nat) (f : Context → Context) : (s.modContext k f).outbox = s.outbox := rfl
@[simp] theorem modContext_halved (s : State) (k : Nat) (f : Context → Context) : (s.modContext k f).halved = s.halved := rfl
@[simp] theorem modContext_stopped (s : State) (k : Nat) (f : Context → Context) : (s.modContext k f).stopped = s.stopped := rfl
@[simp] theorem modContext_power (s : State) (k : Nat) (f : Context → Context) : (s.modContext k f).power = s.power := rfl
@[simp] theorem modContext_agenda (s : State) (k : Nat) (f : Context → Context) : (s.modContext k f).agenda = s.agenda := rfl
@[simp] theorem modContext_turn (s : State) (k : Nat) (f : Context → Context) : (s.modContext k f).turn = s.turn := rfl
@[simp] theorem modContext_issue (s : State) (k : Nat) (f : Context → Context) : (s.modContext k f).issue = s.issue := rfl
@[simp] theorem modContext_subject (s : State) (k : Nat) (f : Context → Context) : (s.modContext k f).subject = s.subject := rfl
@[simp] theorem modContext_nextTeam (s : State) (k : Nat) (f : Context → Context) : (s.modContext k f).nextTeam = s.nextTeam := rfl
@[simp] theorem modContext_nextLaunch (s : State) (k : Nat) (f : Context → Context) : (s.modContext k f).nextLaunch = s.nextLaunch := rfl
@[simp] theorem modContext_nextCommand (s : State) (k : Nat) (f : Context → Context) : (s.modContext k f).nextCommand = s.nextCommand := rfl
@[simp] theorem modContext_nextAccess (s : State) (k : Nat) (f : Context → Context) : (s.modContext k f).nextAccess = s.nextAccess := rfl
@[simp] theorem modContext_nextInst (s : State) (k : Nat) (f : Context → Context) : (s.modContext k f).nextInst = s.nextInst := rfl
@[simp] theorem modContext_nextReady (s : State) (k : Nat) (f : Context → Context) : (s.modContext k f).nextReady = s.nextReady := rfl

/-! `modCommand` changes `commands` alone. -/

@[simp] theorem modCommand_threads (s : State) (k : Nat) (f : Command → Command) : (s.modCommand k f).threads = s.threads := rfl
@[simp] theorem modCommand_groups (s : State) (k : Nat) (f : Command → Command) : (s.modCommand k f).groups = s.groups := rfl
@[simp] theorem modCommand_teams (s : State) (k : Nat) (f : Command → Command) : (s.modCommand k f).teams = s.teams := rfl
@[simp] theorem modCommand_launches (s : State) (k : Nat) (f : Command → Command) : (s.modCommand k f).launches = s.launches := rfl
@[simp] theorem modCommand_commands (s : State) (k : Nat) (f : Command → Command) : (s.modCommand k f).commands = s.commands.modify k f := rfl
@[simp] theorem modCommand_contexts (s : State) (k : Nat) (f : Command → Command) : (s.modCommand k f).contexts = s.contexts := rfl
@[simp] theorem modCommand_svcthr (s : State) (k : Nat) (f : Command → Command) : (s.modCommand k f).svcthr = s.svcthr := rfl
@[simp] theorem modCommand_ctxlim (s : State) (k : Nat) (f : Command → Command) : (s.modCommand k f).ctxlim = s.ctxlim := rfl
@[simp] theorem modCommand_capTable (s : State) (k : Nat) (f : Command → Command) : (s.modCommand k f).capTable = s.capTable := rfl
@[simp] theorem modCommand_insts (s : State) (k : Nat) (f : Command → Command) : (s.modCommand k f).insts = s.insts := rfl
@[simp] theorem modCommand_dies (s : State) (k : Nat) (f : Command → Command) : (s.modCommand k f).dies = s.dies := rfl
@[simp] theorem modCommand_parts (s : State) (k : Nat) (f : Command → Command) : (s.modCommand k f).parts = s.parts := rfl
@[simp] theorem modCommand_pkrCopies (s : State) (k : Nat) (f : Command → Command) : (s.modCommand k f).pkrCopies = s.pkrCopies := rfl
@[simp] theorem modCommand_pages (s : State) (k : Nat) (f : Command → Command) : (s.modCommand k f).pages = s.pages := rfl
@[simp] theorem modCommand_descs (s : State) (k : Nat) (f : Command → Command) : (s.modCommand k f).descs = s.descs := rfl
@[simp] theorem modCommand_domains (s : State) (k : Nat) (f : Command → Command) : (s.modCommand k f).domains = s.domains := rfl
@[simp] theorem modCommand_hbm (s : State) (k : Nat) (f : Command → Command) : (s.modCommand k f).hbm = s.hbm := rfl
@[simp] theorem modCommand_poison (s : State) (k : Nat) (f : Command → Command) : (s.modCommand k f).poison = s.poison := rfl
@[simp] theorem modCommand_badLines (s : State) (k : Nat) (f : Command → Command) : (s.modCommand k f).badLines = s.badLines := rfl
@[simp] theorem modCommand_mirrors (s : State) (k : Nat) (f : Command → Command) : (s.modCommand k f).mirrors = s.mirrors := rfl
@[simp] theorem modCommand_ahead (s : State) (k : Nat) (f : Command → Command) : (s.modCommand k f).ahead = s.ahead := rfl
@[simp] theorem modCommand_hostMem (s : State) (k : Nat) (f : Command → Command) : (s.modCommand k f).hostMem = s.hostMem := rfl
@[simp] theorem modCommand_accesses (s : State) (k : Nat) (f : Command → Command) : (s.modCommand k f).accesses = s.accesses := rfl
@[simp] theorem modCommand_posted (s : State) (k : Nat) (f : Command → Command) : (s.modCommand k f).posted = s.posted := rfl
@[simp] theorem modCommand_cycle (s : State) (k : Nat) (f : Command → Command) : (s.modCommand k f).cycle = s.cycle := rfl
@[simp] theorem modCommand_dev (s : State) (k : Nat) (f : Command → Command) : (s.modCommand k f).dev = s.dev := rfl
@[simp] theorem modCommand_flkLo (s : State) (k : Nat) (f : Command → Command) : (s.modCommand k f).flkLo = s.flkLo := rfl
@[simp] theorem modCommand_flkHi (s : State) (k : Nat) (f : Command → Command) : (s.modCommand k f).flkHi = s.flkHi := rfl
@[simp] theorem modCommand_flkCtl (s : State) (k : Nat) (f : Command → Command) : (s.modCommand k f).flkCtl = s.flkCtl := rfl
@[simp] theorem modCommand_budgets (s : State) (k : Nat) (f : Command → Command) : (s.modCommand k f).budgets = s.budgets := rfl
@[simp] theorem modCommand_used (s : State) (k : Nat) (f : Command → Command) : (s.modCommand k f).used = s.used := rfl
@[simp] theorem modCommand_slotUse (s : State) (k : Nat) (f : Command → Command) : (s.modCommand k f).slotUse = s.slotUse := rfl
@[simp] theorem modCommand_rebal (s : State) (k : Nat) (f : Command → Command) : (s.modCommand k f).rebal = s.rebal := rfl
@[simp] theorem modCommand_regions (s : State) (k : Nat) (f : Command → Command) : (s.modCommand k f).regions = s.regions := rfl
@[simp] theorem modCommand_flash (s : State) (k : Nat) (f : Command → Command) : (s.modCommand k f).flash = s.flash := rfl
@[simp] theorem modCommand_minimum (s : State) (k : Nat) (f : Command → Command) : (s.modCommand k f).minimum = s.minimum := rfl
@[simp] theorem modCommand_ports (s : State) (k : Nat) (f : Command → Command) : (s.modCommand k f).ports = s.ports := rfl
@[simp] theorem modCommand_hostUp (s : State) (k : Nat) (f : Command → Command) : (s.modCommand k f).hostUp = s.hostUp := rfl
@[simp] theorem modCommand_slots (s : State) (k : Nat) (f : Command → Command) : (s.modCommand k f).slots = s.slots := rfl
@[simp] theorem modCommand_rings (s : State) (k : Nat) (f : Command → Command) : (s.modCommand k f).rings = s.rings := rfl
@[simp] theorem modCommand_windowHost (s : State) (k : Nat) (f : Command → Command) : (s.modCommand k f).windowHost = s.windowHost := rfl
@[simp] theorem modCommand_windowDevice (s : State) (k : Nat) (f : Command → Command) : (s.modCommand k f).windowDevice = s.windowDevice := rfl
@[simp] theorem modCommand_windowSize (s : State) (k : Nat) (f : Command → Command) : (s.modCommand k f).windowSize = s.windowSize := rfl
@[simp] theorem modCommand_stray (s : State) (k : Nat) (f : Command → Command) : (s.modCommand k f).stray = s.stray := rfl
@[simp] theorem modCommand_strayArmed (s : State) (k : Nat) (f : Command → Command) : (s.modCommand k f).strayArmed = s.strayArmed := rfl
@[simp] theorem modCommand_sealedWrites (s : State) (k : Nat) (f : Command → Command) : (s.modCommand k f).sealedWrites = s.sealedWrites := rfl
@[simp] theorem modCommand_vector1 (s : State) (k : Nat) (f : Command → Command) : (s.modCommand k f).vector1 = s.vector1 := rfl
@[simp] theorem modCommand_vector2 (s : State) (k : Nat) (f : Command → Command) : (s.modCommand k f).vector2 = s.vector2 := rfl
@[simp] theorem modCommand_outbox (s : State) (k : Nat) (f : Command → Command) : (s.modCommand k f).outbox = s.outbox := rfl
@[simp] theorem modCommand_halved (s : State) (k : Nat) (f : Command → Command) : (s.modCommand k f).halved = s.halved := rfl
@[simp] theorem modCommand_stopped (s : State) (k : Nat) (f : Command → Command) : (s.modCommand k f).stopped = s.stopped := rfl
@[simp] theorem modCommand_power (s : State) (k : Nat) (f : Command → Command) : (s.modCommand k f).power = s.power := rfl
@[simp] theorem modCommand_agenda (s : State) (k : Nat) (f : Command → Command) : (s.modCommand k f).agenda = s.agenda := rfl
@[simp] theorem modCommand_turn (s : State) (k : Nat) (f : Command → Command) : (s.modCommand k f).turn = s.turn := rfl
@[simp] theorem modCommand_issue (s : State) (k : Nat) (f : Command → Command) : (s.modCommand k f).issue = s.issue := rfl
@[simp] theorem modCommand_subject (s : State) (k : Nat) (f : Command → Command) : (s.modCommand k f).subject = s.subject := rfl
@[simp] theorem modCommand_nextTeam (s : State) (k : Nat) (f : Command → Command) : (s.modCommand k f).nextTeam = s.nextTeam := rfl
@[simp] theorem modCommand_nextLaunch (s : State) (k : Nat) (f : Command → Command) : (s.modCommand k f).nextLaunch = s.nextLaunch := rfl
@[simp] theorem modCommand_nextCommand (s : State) (k : Nat) (f : Command → Command) : (s.modCommand k f).nextCommand = s.nextCommand := rfl
@[simp] theorem modCommand_nextAccess (s : State) (k : Nat) (f : Command → Command) : (s.modCommand k f).nextAccess = s.nextAccess := rfl
@[simp] theorem modCommand_nextInst (s : State) (k : Nat) (f : Command → Command) : (s.modCommand k f).nextInst = s.nextInst := rfl
@[simp] theorem modCommand_nextReady (s : State) (k : Nat) (f : Command → Command) : (s.modCommand k f).nextReady = s.nextReady := rfl

/-! `modDie` changes `dies` alone. -/

@[simp] theorem modDie_threads (s : State) (k : Nat) (f : Die → Die) : (s.modDie k f).threads = s.threads := rfl
@[simp] theorem modDie_groups (s : State) (k : Nat) (f : Die → Die) : (s.modDie k f).groups = s.groups := rfl
@[simp] theorem modDie_teams (s : State) (k : Nat) (f : Die → Die) : (s.modDie k f).teams = s.teams := rfl
@[simp] theorem modDie_launches (s : State) (k : Nat) (f : Die → Die) : (s.modDie k f).launches = s.launches := rfl
@[simp] theorem modDie_commands (s : State) (k : Nat) (f : Die → Die) : (s.modDie k f).commands = s.commands := rfl
@[simp] theorem modDie_contexts (s : State) (k : Nat) (f : Die → Die) : (s.modDie k f).contexts = s.contexts := rfl
@[simp] theorem modDie_svcthr (s : State) (k : Nat) (f : Die → Die) : (s.modDie k f).svcthr = s.svcthr := rfl
@[simp] theorem modDie_ctxlim (s : State) (k : Nat) (f : Die → Die) : (s.modDie k f).ctxlim = s.ctxlim := rfl
@[simp] theorem modDie_capTable (s : State) (k : Nat) (f : Die → Die) : (s.modDie k f).capTable = s.capTable := rfl
@[simp] theorem modDie_insts (s : State) (k : Nat) (f : Die → Die) : (s.modDie k f).insts = s.insts := rfl
@[simp] theorem modDie_dies (s : State) (k : Nat) (f : Die → Die) : (s.modDie k f).dies = s.dies.putD k (f (s.die k)) Die.empty := rfl
@[simp] theorem modDie_parts (s : State) (k : Nat) (f : Die → Die) : (s.modDie k f).parts = s.parts := rfl
@[simp] theorem modDie_pkrCopies (s : State) (k : Nat) (f : Die → Die) : (s.modDie k f).pkrCopies = s.pkrCopies := rfl
@[simp] theorem modDie_pages (s : State) (k : Nat) (f : Die → Die) : (s.modDie k f).pages = s.pages := rfl
@[simp] theorem modDie_descs (s : State) (k : Nat) (f : Die → Die) : (s.modDie k f).descs = s.descs := rfl
@[simp] theorem modDie_domains (s : State) (k : Nat) (f : Die → Die) : (s.modDie k f).domains = s.domains := rfl
@[simp] theorem modDie_hbm (s : State) (k : Nat) (f : Die → Die) : (s.modDie k f).hbm = s.hbm := rfl
@[simp] theorem modDie_poison (s : State) (k : Nat) (f : Die → Die) : (s.modDie k f).poison = s.poison := rfl
@[simp] theorem modDie_badLines (s : State) (k : Nat) (f : Die → Die) : (s.modDie k f).badLines = s.badLines := rfl
@[simp] theorem modDie_mirrors (s : State) (k : Nat) (f : Die → Die) : (s.modDie k f).mirrors = s.mirrors := rfl
@[simp] theorem modDie_ahead (s : State) (k : Nat) (f : Die → Die) : (s.modDie k f).ahead = s.ahead := rfl
@[simp] theorem modDie_hostMem (s : State) (k : Nat) (f : Die → Die) : (s.modDie k f).hostMem = s.hostMem := rfl
@[simp] theorem modDie_accesses (s : State) (k : Nat) (f : Die → Die) : (s.modDie k f).accesses = s.accesses := rfl
@[simp] theorem modDie_posted (s : State) (k : Nat) (f : Die → Die) : (s.modDie k f).posted = s.posted := rfl
@[simp] theorem modDie_cycle (s : State) (k : Nat) (f : Die → Die) : (s.modDie k f).cycle = s.cycle := rfl
@[simp] theorem modDie_dev (s : State) (k : Nat) (f : Die → Die) : (s.modDie k f).dev = s.dev := rfl
@[simp] theorem modDie_flkLo (s : State) (k : Nat) (f : Die → Die) : (s.modDie k f).flkLo = s.flkLo := rfl
@[simp] theorem modDie_flkHi (s : State) (k : Nat) (f : Die → Die) : (s.modDie k f).flkHi = s.flkHi := rfl
@[simp] theorem modDie_flkCtl (s : State) (k : Nat) (f : Die → Die) : (s.modDie k f).flkCtl = s.flkCtl := rfl
@[simp] theorem modDie_budgets (s : State) (k : Nat) (f : Die → Die) : (s.modDie k f).budgets = s.budgets := rfl
@[simp] theorem modDie_used (s : State) (k : Nat) (f : Die → Die) : (s.modDie k f).used = s.used := rfl
@[simp] theorem modDie_slotUse (s : State) (k : Nat) (f : Die → Die) : (s.modDie k f).slotUse = s.slotUse := rfl
@[simp] theorem modDie_rebal (s : State) (k : Nat) (f : Die → Die) : (s.modDie k f).rebal = s.rebal := rfl
@[simp] theorem modDie_regions (s : State) (k : Nat) (f : Die → Die) : (s.modDie k f).regions = s.regions := rfl
@[simp] theorem modDie_flash (s : State) (k : Nat) (f : Die → Die) : (s.modDie k f).flash = s.flash := rfl
@[simp] theorem modDie_minimum (s : State) (k : Nat) (f : Die → Die) : (s.modDie k f).minimum = s.minimum := rfl
@[simp] theorem modDie_ports (s : State) (k : Nat) (f : Die → Die) : (s.modDie k f).ports = s.ports := rfl
@[simp] theorem modDie_hostUp (s : State) (k : Nat) (f : Die → Die) : (s.modDie k f).hostUp = s.hostUp := rfl
@[simp] theorem modDie_slots (s : State) (k : Nat) (f : Die → Die) : (s.modDie k f).slots = s.slots := rfl
@[simp] theorem modDie_rings (s : State) (k : Nat) (f : Die → Die) : (s.modDie k f).rings = s.rings := rfl
@[simp] theorem modDie_windowHost (s : State) (k : Nat) (f : Die → Die) : (s.modDie k f).windowHost = s.windowHost := rfl
@[simp] theorem modDie_windowDevice (s : State) (k : Nat) (f : Die → Die) : (s.modDie k f).windowDevice = s.windowDevice := rfl
@[simp] theorem modDie_windowSize (s : State) (k : Nat) (f : Die → Die) : (s.modDie k f).windowSize = s.windowSize := rfl
@[simp] theorem modDie_stray (s : State) (k : Nat) (f : Die → Die) : (s.modDie k f).stray = s.stray := rfl
@[simp] theorem modDie_strayArmed (s : State) (k : Nat) (f : Die → Die) : (s.modDie k f).strayArmed = s.strayArmed := rfl
@[simp] theorem modDie_sealedWrites (s : State) (k : Nat) (f : Die → Die) : (s.modDie k f).sealedWrites = s.sealedWrites := rfl
@[simp] theorem modDie_vector1 (s : State) (k : Nat) (f : Die → Die) : (s.modDie k f).vector1 = s.vector1 := rfl
@[simp] theorem modDie_vector2 (s : State) (k : Nat) (f : Die → Die) : (s.modDie k f).vector2 = s.vector2 := rfl
@[simp] theorem modDie_outbox (s : State) (k : Nat) (f : Die → Die) : (s.modDie k f).outbox = s.outbox := rfl
@[simp] theorem modDie_halved (s : State) (k : Nat) (f : Die → Die) : (s.modDie k f).halved = s.halved := rfl
@[simp] theorem modDie_stopped (s : State) (k : Nat) (f : Die → Die) : (s.modDie k f).stopped = s.stopped := rfl
@[simp] theorem modDie_power (s : State) (k : Nat) (f : Die → Die) : (s.modDie k f).power = s.power := rfl
@[simp] theorem modDie_agenda (s : State) (k : Nat) (f : Die → Die) : (s.modDie k f).agenda = s.agenda := rfl
@[simp] theorem modDie_turn (s : State) (k : Nat) (f : Die → Die) : (s.modDie k f).turn = s.turn := rfl
@[simp] theorem modDie_issue (s : State) (k : Nat) (f : Die → Die) : (s.modDie k f).issue = s.issue := rfl
@[simp] theorem modDie_subject (s : State) (k : Nat) (f : Die → Die) : (s.modDie k f).subject = s.subject := rfl
@[simp] theorem modDie_nextTeam (s : State) (k : Nat) (f : Die → Die) : (s.modDie k f).nextTeam = s.nextTeam := rfl
@[simp] theorem modDie_nextLaunch (s : State) (k : Nat) (f : Die → Die) : (s.modDie k f).nextLaunch = s.nextLaunch := rfl
@[simp] theorem modDie_nextCommand (s : State) (k : Nat) (f : Die → Die) : (s.modDie k f).nextCommand = s.nextCommand := rfl
@[simp] theorem modDie_nextAccess (s : State) (k : Nat) (f : Die → Die) : (s.modDie k f).nextAccess = s.nextAccess := rfl
@[simp] theorem modDie_nextInst (s : State) (k : Nat) (f : Die → Die) : (s.modDie k f).nextInst = s.nextInst := rfl
@[simp] theorem modDie_nextReady (s : State) (k : Nat) (f : Die → Die) : (s.modDie k f).nextReady = s.nextReady := rfl

/-! `modDomain` changes `domains` alone. -/

@[simp] theorem modDomain_threads (s : State) (k : Nat) (f : PhaseDom → PhaseDom) : (s.modDomain k f).threads = s.threads := rfl
@[simp] theorem modDomain_groups (s : State) (k : Nat) (f : PhaseDom → PhaseDom) : (s.modDomain k f).groups = s.groups := rfl
@[simp] theorem modDomain_teams (s : State) (k : Nat) (f : PhaseDom → PhaseDom) : (s.modDomain k f).teams = s.teams := rfl
@[simp] theorem modDomain_launches (s : State) (k : Nat) (f : PhaseDom → PhaseDom) : (s.modDomain k f).launches = s.launches := rfl
@[simp] theorem modDomain_commands (s : State) (k : Nat) (f : PhaseDom → PhaseDom) : (s.modDomain k f).commands = s.commands := rfl
@[simp] theorem modDomain_contexts (s : State) (k : Nat) (f : PhaseDom → PhaseDom) : (s.modDomain k f).contexts = s.contexts := rfl
@[simp] theorem modDomain_svcthr (s : State) (k : Nat) (f : PhaseDom → PhaseDom) : (s.modDomain k f).svcthr = s.svcthr := rfl
@[simp] theorem modDomain_ctxlim (s : State) (k : Nat) (f : PhaseDom → PhaseDom) : (s.modDomain k f).ctxlim = s.ctxlim := rfl
@[simp] theorem modDomain_capTable (s : State) (k : Nat) (f : PhaseDom → PhaseDom) : (s.modDomain k f).capTable = s.capTable := rfl
@[simp] theorem modDomain_insts (s : State) (k : Nat) (f : PhaseDom → PhaseDom) : (s.modDomain k f).insts = s.insts := rfl
@[simp] theorem modDomain_dies (s : State) (k : Nat) (f : PhaseDom → PhaseDom) : (s.modDomain k f).dies = s.dies := rfl
@[simp] theorem modDomain_parts (s : State) (k : Nat) (f : PhaseDom → PhaseDom) : (s.modDomain k f).parts = s.parts := rfl
@[simp] theorem modDomain_pkrCopies (s : State) (k : Nat) (f : PhaseDom → PhaseDom) : (s.modDomain k f).pkrCopies = s.pkrCopies := rfl
@[simp] theorem modDomain_pages (s : State) (k : Nat) (f : PhaseDom → PhaseDom) : (s.modDomain k f).pages = s.pages := rfl
@[simp] theorem modDomain_descs (s : State) (k : Nat) (f : PhaseDom → PhaseDom) : (s.modDomain k f).descs = s.descs := rfl
@[simp] theorem modDomain_domains (s : State) (k : Nat) (f : PhaseDom → PhaseDom) : (s.modDomain k f).domains = s.domains.putD k (f (s.domain k)) PhaseDom.empty := rfl
@[simp] theorem modDomain_hbm (s : State) (k : Nat) (f : PhaseDom → PhaseDom) : (s.modDomain k f).hbm = s.hbm := rfl
@[simp] theorem modDomain_poison (s : State) (k : Nat) (f : PhaseDom → PhaseDom) : (s.modDomain k f).poison = s.poison := rfl
@[simp] theorem modDomain_badLines (s : State) (k : Nat) (f : PhaseDom → PhaseDom) : (s.modDomain k f).badLines = s.badLines := rfl
@[simp] theorem modDomain_mirrors (s : State) (k : Nat) (f : PhaseDom → PhaseDom) : (s.modDomain k f).mirrors = s.mirrors := rfl
@[simp] theorem modDomain_ahead (s : State) (k : Nat) (f : PhaseDom → PhaseDom) : (s.modDomain k f).ahead = s.ahead := rfl
@[simp] theorem modDomain_hostMem (s : State) (k : Nat) (f : PhaseDom → PhaseDom) : (s.modDomain k f).hostMem = s.hostMem := rfl
@[simp] theorem modDomain_accesses (s : State) (k : Nat) (f : PhaseDom → PhaseDom) : (s.modDomain k f).accesses = s.accesses := rfl
@[simp] theorem modDomain_posted (s : State) (k : Nat) (f : PhaseDom → PhaseDom) : (s.modDomain k f).posted = s.posted := rfl
@[simp] theorem modDomain_cycle (s : State) (k : Nat) (f : PhaseDom → PhaseDom) : (s.modDomain k f).cycle = s.cycle := rfl
@[simp] theorem modDomain_dev (s : State) (k : Nat) (f : PhaseDom → PhaseDom) : (s.modDomain k f).dev = s.dev := rfl
@[simp] theorem modDomain_flkLo (s : State) (k : Nat) (f : PhaseDom → PhaseDom) : (s.modDomain k f).flkLo = s.flkLo := rfl
@[simp] theorem modDomain_flkHi (s : State) (k : Nat) (f : PhaseDom → PhaseDom) : (s.modDomain k f).flkHi = s.flkHi := rfl
@[simp] theorem modDomain_flkCtl (s : State) (k : Nat) (f : PhaseDom → PhaseDom) : (s.modDomain k f).flkCtl = s.flkCtl := rfl
@[simp] theorem modDomain_budgets (s : State) (k : Nat) (f : PhaseDom → PhaseDom) : (s.modDomain k f).budgets = s.budgets := rfl
@[simp] theorem modDomain_used (s : State) (k : Nat) (f : PhaseDom → PhaseDom) : (s.modDomain k f).used = s.used := rfl
@[simp] theorem modDomain_slotUse (s : State) (k : Nat) (f : PhaseDom → PhaseDom) : (s.modDomain k f).slotUse = s.slotUse := rfl
@[simp] theorem modDomain_rebal (s : State) (k : Nat) (f : PhaseDom → PhaseDom) : (s.modDomain k f).rebal = s.rebal := rfl
@[simp] theorem modDomain_regions (s : State) (k : Nat) (f : PhaseDom → PhaseDom) : (s.modDomain k f).regions = s.regions := rfl
@[simp] theorem modDomain_flash (s : State) (k : Nat) (f : PhaseDom → PhaseDom) : (s.modDomain k f).flash = s.flash := rfl
@[simp] theorem modDomain_minimum (s : State) (k : Nat) (f : PhaseDom → PhaseDom) : (s.modDomain k f).minimum = s.minimum := rfl
@[simp] theorem modDomain_ports (s : State) (k : Nat) (f : PhaseDom → PhaseDom) : (s.modDomain k f).ports = s.ports := rfl
@[simp] theorem modDomain_hostUp (s : State) (k : Nat) (f : PhaseDom → PhaseDom) : (s.modDomain k f).hostUp = s.hostUp := rfl
@[simp] theorem modDomain_slots (s : State) (k : Nat) (f : PhaseDom → PhaseDom) : (s.modDomain k f).slots = s.slots := rfl
@[simp] theorem modDomain_rings (s : State) (k : Nat) (f : PhaseDom → PhaseDom) : (s.modDomain k f).rings = s.rings := rfl
@[simp] theorem modDomain_windowHost (s : State) (k : Nat) (f : PhaseDom → PhaseDom) : (s.modDomain k f).windowHost = s.windowHost := rfl
@[simp] theorem modDomain_windowDevice (s : State) (k : Nat) (f : PhaseDom → PhaseDom) : (s.modDomain k f).windowDevice = s.windowDevice := rfl
@[simp] theorem modDomain_windowSize (s : State) (k : Nat) (f : PhaseDom → PhaseDom) : (s.modDomain k f).windowSize = s.windowSize := rfl
@[simp] theorem modDomain_stray (s : State) (k : Nat) (f : PhaseDom → PhaseDom) : (s.modDomain k f).stray = s.stray := rfl
@[simp] theorem modDomain_strayArmed (s : State) (k : Nat) (f : PhaseDom → PhaseDom) : (s.modDomain k f).strayArmed = s.strayArmed := rfl
@[simp] theorem modDomain_sealedWrites (s : State) (k : Nat) (f : PhaseDom → PhaseDom) : (s.modDomain k f).sealedWrites = s.sealedWrites := rfl
@[simp] theorem modDomain_vector1 (s : State) (k : Nat) (f : PhaseDom → PhaseDom) : (s.modDomain k f).vector1 = s.vector1 := rfl
@[simp] theorem modDomain_vector2 (s : State) (k : Nat) (f : PhaseDom → PhaseDom) : (s.modDomain k f).vector2 = s.vector2 := rfl
@[simp] theorem modDomain_outbox (s : State) (k : Nat) (f : PhaseDom → PhaseDom) : (s.modDomain k f).outbox = s.outbox := rfl
@[simp] theorem modDomain_halved (s : State) (k : Nat) (f : PhaseDom → PhaseDom) : (s.modDomain k f).halved = s.halved := rfl
@[simp] theorem modDomain_stopped (s : State) (k : Nat) (f : PhaseDom → PhaseDom) : (s.modDomain k f).stopped = s.stopped := rfl
@[simp] theorem modDomain_power (s : State) (k : Nat) (f : PhaseDom → PhaseDom) : (s.modDomain k f).power = s.power := rfl
@[simp] theorem modDomain_agenda (s : State) (k : Nat) (f : PhaseDom → PhaseDom) : (s.modDomain k f).agenda = s.agenda := rfl
@[simp] theorem modDomain_turn (s : State) (k : Nat) (f : PhaseDom → PhaseDom) : (s.modDomain k f).turn = s.turn := rfl
@[simp] theorem modDomain_issue (s : State) (k : Nat) (f : PhaseDom → PhaseDom) : (s.modDomain k f).issue = s.issue := rfl
@[simp] theorem modDomain_subject (s : State) (k : Nat) (f : PhaseDom → PhaseDom) : (s.modDomain k f).subject = s.subject := rfl
@[simp] theorem modDomain_nextTeam (s : State) (k : Nat) (f : PhaseDom → PhaseDom) : (s.modDomain k f).nextTeam = s.nextTeam := rfl
@[simp] theorem modDomain_nextLaunch (s : State) (k : Nat) (f : PhaseDom → PhaseDom) : (s.modDomain k f).nextLaunch = s.nextLaunch := rfl
@[simp] theorem modDomain_nextCommand (s : State) (k : Nat) (f : PhaseDom → PhaseDom) : (s.modDomain k f).nextCommand = s.nextCommand := rfl
@[simp] theorem modDomain_nextAccess (s : State) (k : Nat) (f : PhaseDom → PhaseDom) : (s.modDomain k f).nextAccess = s.nextAccess := rfl
@[simp] theorem modDomain_nextInst (s : State) (k : Nat) (f : PhaseDom → PhaseDom) : (s.modDomain k f).nextInst = s.nextInst := rfl
@[simp] theorem modDomain_nextReady (s : State) (k : Nat) (f : PhaseDom → PhaseDom) : (s.modDomain k f).nextReady = s.nextReady := rfl

/-! `setPartition` changes `parts` alone. -/

@[simp] theorem setPartition_threads (s : State) (c k : Nat) (p : Partition) : (s.setPartition c k p).threads = s.threads := rfl
@[simp] theorem setPartition_groups (s : State) (c k : Nat) (p : Partition) : (s.setPartition c k p).groups = s.groups := rfl
@[simp] theorem setPartition_teams (s : State) (c k : Nat) (p : Partition) : (s.setPartition c k p).teams = s.teams := rfl
@[simp] theorem setPartition_launches (s : State) (c k : Nat) (p : Partition) : (s.setPartition c k p).launches = s.launches := rfl
@[simp] theorem setPartition_commands (s : State) (c k : Nat) (p : Partition) : (s.setPartition c k p).commands = s.commands := rfl
@[simp] theorem setPartition_contexts (s : State) (c k : Nat) (p : Partition) : (s.setPartition c k p).contexts = s.contexts := rfl
@[simp] theorem setPartition_svcthr (s : State) (c k : Nat) (p : Partition) : (s.setPartition c k p).svcthr = s.svcthr := rfl
@[simp] theorem setPartition_ctxlim (s : State) (c k : Nat) (p : Partition) : (s.setPartition c k p).ctxlim = s.ctxlim := rfl
@[simp] theorem setPartition_capTable (s : State) (c k : Nat) (p : Partition) : (s.setPartition c k p).capTable = s.capTable := rfl
@[simp] theorem setPartition_insts (s : State) (c k : Nat) (p : Partition) : (s.setPartition c k p).insts = s.insts := rfl
@[simp] theorem setPartition_dies (s : State) (c k : Nat) (p : Partition) : (s.setPartition c k p).dies = s.dies := rfl
@[simp] theorem setPartition_parts (s : State) (c k : Nat) (p : Partition) : (s.setPartition c k p).parts = s.parts.putD (4 * c + k) p Partition.empty := rfl
@[simp] theorem setPartition_pkrCopies (s : State) (c k : Nat) (p : Partition) : (s.setPartition c k p).pkrCopies = s.pkrCopies := rfl
@[simp] theorem setPartition_pages (s : State) (c k : Nat) (p : Partition) : (s.setPartition c k p).pages = s.pages := rfl
@[simp] theorem setPartition_descs (s : State) (c k : Nat) (p : Partition) : (s.setPartition c k p).descs = s.descs := rfl
@[simp] theorem setPartition_domains (s : State) (c k : Nat) (p : Partition) : (s.setPartition c k p).domains = s.domains := rfl
@[simp] theorem setPartition_hbm (s : State) (c k : Nat) (p : Partition) : (s.setPartition c k p).hbm = s.hbm := rfl
@[simp] theorem setPartition_poison (s : State) (c k : Nat) (p : Partition) : (s.setPartition c k p).poison = s.poison := rfl
@[simp] theorem setPartition_badLines (s : State) (c k : Nat) (p : Partition) : (s.setPartition c k p).badLines = s.badLines := rfl
@[simp] theorem setPartition_mirrors (s : State) (c k : Nat) (p : Partition) : (s.setPartition c k p).mirrors = s.mirrors := rfl
@[simp] theorem setPartition_ahead (s : State) (c k : Nat) (p : Partition) : (s.setPartition c k p).ahead = s.ahead := rfl
@[simp] theorem setPartition_hostMem (s : State) (c k : Nat) (p : Partition) : (s.setPartition c k p).hostMem = s.hostMem := rfl
@[simp] theorem setPartition_accesses (s : State) (c k : Nat) (p : Partition) : (s.setPartition c k p).accesses = s.accesses := rfl
@[simp] theorem setPartition_posted (s : State) (c k : Nat) (p : Partition) : (s.setPartition c k p).posted = s.posted := rfl
@[simp] theorem setPartition_cycle (s : State) (c k : Nat) (p : Partition) : (s.setPartition c k p).cycle = s.cycle := rfl
@[simp] theorem setPartition_dev (s : State) (c k : Nat) (p : Partition) : (s.setPartition c k p).dev = s.dev := rfl
@[simp] theorem setPartition_flkLo (s : State) (c k : Nat) (p : Partition) : (s.setPartition c k p).flkLo = s.flkLo := rfl
@[simp] theorem setPartition_flkHi (s : State) (c k : Nat) (p : Partition) : (s.setPartition c k p).flkHi = s.flkHi := rfl
@[simp] theorem setPartition_flkCtl (s : State) (c k : Nat) (p : Partition) : (s.setPartition c k p).flkCtl = s.flkCtl := rfl
@[simp] theorem setPartition_budgets (s : State) (c k : Nat) (p : Partition) : (s.setPartition c k p).budgets = s.budgets := rfl
@[simp] theorem setPartition_used (s : State) (c k : Nat) (p : Partition) : (s.setPartition c k p).used = s.used := rfl
@[simp] theorem setPartition_slotUse (s : State) (c k : Nat) (p : Partition) : (s.setPartition c k p).slotUse = s.slotUse := rfl
@[simp] theorem setPartition_rebal (s : State) (c k : Nat) (p : Partition) : (s.setPartition c k p).rebal = s.rebal := rfl
@[simp] theorem setPartition_regions (s : State) (c k : Nat) (p : Partition) : (s.setPartition c k p).regions = s.regions := rfl
@[simp] theorem setPartition_flash (s : State) (c k : Nat) (p : Partition) : (s.setPartition c k p).flash = s.flash := rfl
@[simp] theorem setPartition_minimum (s : State) (c k : Nat) (p : Partition) : (s.setPartition c k p).minimum = s.minimum := rfl
@[simp] theorem setPartition_ports (s : State) (c k : Nat) (p : Partition) : (s.setPartition c k p).ports = s.ports := rfl
@[simp] theorem setPartition_hostUp (s : State) (c k : Nat) (p : Partition) : (s.setPartition c k p).hostUp = s.hostUp := rfl
@[simp] theorem setPartition_slots (s : State) (c k : Nat) (p : Partition) : (s.setPartition c k p).slots = s.slots := rfl
@[simp] theorem setPartition_rings (s : State) (c k : Nat) (p : Partition) : (s.setPartition c k p).rings = s.rings := rfl
@[simp] theorem setPartition_windowHost (s : State) (c k : Nat) (p : Partition) : (s.setPartition c k p).windowHost = s.windowHost := rfl
@[simp] theorem setPartition_windowDevice (s : State) (c k : Nat) (p : Partition) : (s.setPartition c k p).windowDevice = s.windowDevice := rfl
@[simp] theorem setPartition_windowSize (s : State) (c k : Nat) (p : Partition) : (s.setPartition c k p).windowSize = s.windowSize := rfl
@[simp] theorem setPartition_stray (s : State) (c k : Nat) (p : Partition) : (s.setPartition c k p).stray = s.stray := rfl
@[simp] theorem setPartition_strayArmed (s : State) (c k : Nat) (p : Partition) : (s.setPartition c k p).strayArmed = s.strayArmed := rfl
@[simp] theorem setPartition_sealedWrites (s : State) (c k : Nat) (p : Partition) : (s.setPartition c k p).sealedWrites = s.sealedWrites := rfl
@[simp] theorem setPartition_vector1 (s : State) (c k : Nat) (p : Partition) : (s.setPartition c k p).vector1 = s.vector1 := rfl
@[simp] theorem setPartition_vector2 (s : State) (c k : Nat) (p : Partition) : (s.setPartition c k p).vector2 = s.vector2 := rfl
@[simp] theorem setPartition_outbox (s : State) (c k : Nat) (p : Partition) : (s.setPartition c k p).outbox = s.outbox := rfl
@[simp] theorem setPartition_halved (s : State) (c k : Nat) (p : Partition) : (s.setPartition c k p).halved = s.halved := rfl
@[simp] theorem setPartition_stopped (s : State) (c k : Nat) (p : Partition) : (s.setPartition c k p).stopped = s.stopped := rfl
@[simp] theorem setPartition_power (s : State) (c k : Nat) (p : Partition) : (s.setPartition c k p).power = s.power := rfl
@[simp] theorem setPartition_agenda (s : State) (c k : Nat) (p : Partition) : (s.setPartition c k p).agenda = s.agenda := rfl
@[simp] theorem setPartition_turn (s : State) (c k : Nat) (p : Partition) : (s.setPartition c k p).turn = s.turn := rfl
@[simp] theorem setPartition_issue (s : State) (c k : Nat) (p : Partition) : (s.setPartition c k p).issue = s.issue := rfl
@[simp] theorem setPartition_subject (s : State) (c k : Nat) (p : Partition) : (s.setPartition c k p).subject = s.subject := rfl
@[simp] theorem setPartition_nextTeam (s : State) (c k : Nat) (p : Partition) : (s.setPartition c k p).nextTeam = s.nextTeam := rfl
@[simp] theorem setPartition_nextLaunch (s : State) (c k : Nat) (p : Partition) : (s.setPartition c k p).nextLaunch = s.nextLaunch := rfl
@[simp] theorem setPartition_nextCommand (s : State) (c k : Nat) (p : Partition) : (s.setPartition c k p).nextCommand = s.nextCommand := rfl
@[simp] theorem setPartition_nextAccess (s : State) (c k : Nat) (p : Partition) : (s.setPartition c k p).nextAccess = s.nextAccess := rfl
@[simp] theorem setPartition_nextInst (s : State) (c k : Nat) (p : Partition) : (s.setPartition c k p).nextInst = s.nextInst := rfl
@[simp] theorem setPartition_nextReady (s : State) (c k : Nat) (p : Partition) : (s.setPartition c k p).nextReady = s.nextReady := rfl

/-! `unbundle` changes `parts` alone. -/

@[simp] theorem unbundle_threads (s : State) (ts : List Nat) : (s.unbundle ts).threads = s.threads := rfl
@[simp] theorem unbundle_groups (s : State) (ts : List Nat) : (s.unbundle ts).groups = s.groups := rfl
@[simp] theorem unbundle_teams (s : State) (ts : List Nat) : (s.unbundle ts).teams = s.teams := rfl
@[simp] theorem unbundle_launches (s : State) (ts : List Nat) : (s.unbundle ts).launches = s.launches := rfl
@[simp] theorem unbundle_commands (s : State) (ts : List Nat) : (s.unbundle ts).commands = s.commands := rfl
@[simp] theorem unbundle_contexts (s : State) (ts : List Nat) : (s.unbundle ts).contexts = s.contexts := rfl
@[simp] theorem unbundle_svcthr (s : State) (ts : List Nat) : (s.unbundle ts).svcthr = s.svcthr := rfl
@[simp] theorem unbundle_ctxlim (s : State) (ts : List Nat) : (s.unbundle ts).ctxlim = s.ctxlim := rfl
@[simp] theorem unbundle_capTable (s : State) (ts : List Nat) : (s.unbundle ts).capTable = s.capTable := rfl
@[simp] theorem unbundle_insts (s : State) (ts : List Nat) : (s.unbundle ts).insts = s.insts := rfl
@[simp] theorem unbundle_dies (s : State) (ts : List Nat) : (s.unbundle ts).dies = s.dies := rfl
@[simp] theorem unbundle_pkrCopies (s : State) (ts : List Nat) : (s.unbundle ts).pkrCopies = s.pkrCopies := rfl
@[simp] theorem unbundle_pages (s : State) (ts : List Nat) : (s.unbundle ts).pages = s.pages := rfl
@[simp] theorem unbundle_descs (s : State) (ts : List Nat) : (s.unbundle ts).descs = s.descs := rfl
@[simp] theorem unbundle_domains (s : State) (ts : List Nat) : (s.unbundle ts).domains = s.domains := rfl
@[simp] theorem unbundle_hbm (s : State) (ts : List Nat) : (s.unbundle ts).hbm = s.hbm := rfl
@[simp] theorem unbundle_poison (s : State) (ts : List Nat) : (s.unbundle ts).poison = s.poison := rfl
@[simp] theorem unbundle_badLines (s : State) (ts : List Nat) : (s.unbundle ts).badLines = s.badLines := rfl
@[simp] theorem unbundle_mirrors (s : State) (ts : List Nat) : (s.unbundle ts).mirrors = s.mirrors := rfl
@[simp] theorem unbundle_ahead (s : State) (ts : List Nat) : (s.unbundle ts).ahead = s.ahead := rfl
@[simp] theorem unbundle_hostMem (s : State) (ts : List Nat) : (s.unbundle ts).hostMem = s.hostMem := rfl
@[simp] theorem unbundle_accesses (s : State) (ts : List Nat) : (s.unbundle ts).accesses = s.accesses := rfl
@[simp] theorem unbundle_posted (s : State) (ts : List Nat) : (s.unbundle ts).posted = s.posted := rfl
@[simp] theorem unbundle_cycle (s : State) (ts : List Nat) : (s.unbundle ts).cycle = s.cycle := rfl
@[simp] theorem unbundle_dev (s : State) (ts : List Nat) : (s.unbundle ts).dev = s.dev := rfl
@[simp] theorem unbundle_flkLo (s : State) (ts : List Nat) : (s.unbundle ts).flkLo = s.flkLo := rfl
@[simp] theorem unbundle_flkHi (s : State) (ts : List Nat) : (s.unbundle ts).flkHi = s.flkHi := rfl
@[simp] theorem unbundle_flkCtl (s : State) (ts : List Nat) : (s.unbundle ts).flkCtl = s.flkCtl := rfl
@[simp] theorem unbundle_budgets (s : State) (ts : List Nat) : (s.unbundle ts).budgets = s.budgets := rfl
@[simp] theorem unbundle_used (s : State) (ts : List Nat) : (s.unbundle ts).used = s.used := rfl
@[simp] theorem unbundle_slotUse (s : State) (ts : List Nat) : (s.unbundle ts).slotUse = s.slotUse := rfl
@[simp] theorem unbundle_rebal (s : State) (ts : List Nat) : (s.unbundle ts).rebal = s.rebal := rfl
@[simp] theorem unbundle_regions (s : State) (ts : List Nat) : (s.unbundle ts).regions = s.regions := rfl
@[simp] theorem unbundle_flash (s : State) (ts : List Nat) : (s.unbundle ts).flash = s.flash := rfl
@[simp] theorem unbundle_minimum (s : State) (ts : List Nat) : (s.unbundle ts).minimum = s.minimum := rfl
@[simp] theorem unbundle_ports (s : State) (ts : List Nat) : (s.unbundle ts).ports = s.ports := rfl
@[simp] theorem unbundle_hostUp (s : State) (ts : List Nat) : (s.unbundle ts).hostUp = s.hostUp := rfl
@[simp] theorem unbundle_slots (s : State) (ts : List Nat) : (s.unbundle ts).slots = s.slots := rfl
@[simp] theorem unbundle_rings (s : State) (ts : List Nat) : (s.unbundle ts).rings = s.rings := rfl
@[simp] theorem unbundle_windowHost (s : State) (ts : List Nat) : (s.unbundle ts).windowHost = s.windowHost := rfl
@[simp] theorem unbundle_windowDevice (s : State) (ts : List Nat) : (s.unbundle ts).windowDevice = s.windowDevice := rfl
@[simp] theorem unbundle_windowSize (s : State) (ts : List Nat) : (s.unbundle ts).windowSize = s.windowSize := rfl
@[simp] theorem unbundle_stray (s : State) (ts : List Nat) : (s.unbundle ts).stray = s.stray := rfl
@[simp] theorem unbundle_strayArmed (s : State) (ts : List Nat) : (s.unbundle ts).strayArmed = s.strayArmed := rfl
@[simp] theorem unbundle_sealedWrites (s : State) (ts : List Nat) : (s.unbundle ts).sealedWrites = s.sealedWrites := rfl
@[simp] theorem unbundle_vector1 (s : State) (ts : List Nat) : (s.unbundle ts).vector1 = s.vector1 := rfl
@[simp] theorem unbundle_vector2 (s : State) (ts : List Nat) : (s.unbundle ts).vector2 = s.vector2 := rfl
@[simp] theorem unbundle_outbox (s : State) (ts : List Nat) : (s.unbundle ts).outbox = s.outbox := rfl
@[simp] theorem unbundle_halved (s : State) (ts : List Nat) : (s.unbundle ts).halved = s.halved := rfl
@[simp] theorem unbundle_stopped (s : State) (ts : List Nat) : (s.unbundle ts).stopped = s.stopped := rfl
@[simp] theorem unbundle_power (s : State) (ts : List Nat) : (s.unbundle ts).power = s.power := rfl
@[simp] theorem unbundle_agenda (s : State) (ts : List Nat) : (s.unbundle ts).agenda = s.agenda := rfl
@[simp] theorem unbundle_turn (s : State) (ts : List Nat) : (s.unbundle ts).turn = s.turn := rfl
@[simp] theorem unbundle_issue (s : State) (ts : List Nat) : (s.unbundle ts).issue = s.issue := rfl
@[simp] theorem unbundle_subject (s : State) (ts : List Nat) : (s.unbundle ts).subject = s.subject := rfl
@[simp] theorem unbundle_nextTeam (s : State) (ts : List Nat) : (s.unbundle ts).nextTeam = s.nextTeam := rfl
@[simp] theorem unbundle_nextLaunch (s : State) (ts : List Nat) : (s.unbundle ts).nextLaunch = s.nextLaunch := rfl
@[simp] theorem unbundle_nextCommand (s : State) (ts : List Nat) : (s.unbundle ts).nextCommand = s.nextCommand := rfl
@[simp] theorem unbundle_nextAccess (s : State) (ts : List Nat) : (s.unbundle ts).nextAccess = s.nextAccess := rfl
@[simp] theorem unbundle_nextInst (s : State) (ts : List Nat) : (s.unbundle ts).nextInst = s.nextInst := rfl
@[simp] theorem unbundle_nextReady (s : State) (ts : List Nat) : (s.unbundle ts).nextReady = s.nextReady := rfl

/-! `writeScalars` changes `groups` alone. -/

@[simp] theorem writeScalars_threads (s : State) (gs : List Nat) (v : Nat → List (Nat × Word)) : (s.writeScalars gs v).threads = s.threads := rfl
@[simp] theorem writeScalars_teams (s : State) (gs : List Nat) (v : Nat → List (Nat × Word)) : (s.writeScalars gs v).teams = s.teams := rfl
@[simp] theorem writeScalars_launches (s : State) (gs : List Nat) (v : Nat → List (Nat × Word)) : (s.writeScalars gs v).launches = s.launches := rfl
@[simp] theorem writeScalars_commands (s : State) (gs : List Nat) (v : Nat → List (Nat × Word)) : (s.writeScalars gs v).commands = s.commands := rfl
@[simp] theorem writeScalars_contexts (s : State) (gs : List Nat) (v : Nat → List (Nat × Word)) : (s.writeScalars gs v).contexts = s.contexts := rfl
@[simp] theorem writeScalars_svcthr (s : State) (gs : List Nat) (v : Nat → List (Nat × Word)) : (s.writeScalars gs v).svcthr = s.svcthr := rfl
@[simp] theorem writeScalars_ctxlim (s : State) (gs : List Nat) (v : Nat → List (Nat × Word)) : (s.writeScalars gs v).ctxlim = s.ctxlim := rfl
@[simp] theorem writeScalars_capTable (s : State) (gs : List Nat) (v : Nat → List (Nat × Word)) : (s.writeScalars gs v).capTable = s.capTable := rfl
@[simp] theorem writeScalars_insts (s : State) (gs : List Nat) (v : Nat → List (Nat × Word)) : (s.writeScalars gs v).insts = s.insts := rfl
@[simp] theorem writeScalars_dies (s : State) (gs : List Nat) (v : Nat → List (Nat × Word)) : (s.writeScalars gs v).dies = s.dies := rfl
@[simp] theorem writeScalars_parts (s : State) (gs : List Nat) (v : Nat → List (Nat × Word)) : (s.writeScalars gs v).parts = s.parts := rfl
@[simp] theorem writeScalars_pkrCopies (s : State) (gs : List Nat) (v : Nat → List (Nat × Word)) : (s.writeScalars gs v).pkrCopies = s.pkrCopies := rfl
@[simp] theorem writeScalars_pages (s : State) (gs : List Nat) (v : Nat → List (Nat × Word)) : (s.writeScalars gs v).pages = s.pages := rfl
@[simp] theorem writeScalars_descs (s : State) (gs : List Nat) (v : Nat → List (Nat × Word)) : (s.writeScalars gs v).descs = s.descs := rfl
@[simp] theorem writeScalars_domains (s : State) (gs : List Nat) (v : Nat → List (Nat × Word)) : (s.writeScalars gs v).domains = s.domains := rfl
@[simp] theorem writeScalars_hbm (s : State) (gs : List Nat) (v : Nat → List (Nat × Word)) : (s.writeScalars gs v).hbm = s.hbm := rfl
@[simp] theorem writeScalars_poison (s : State) (gs : List Nat) (v : Nat → List (Nat × Word)) : (s.writeScalars gs v).poison = s.poison := rfl
@[simp] theorem writeScalars_badLines (s : State) (gs : List Nat) (v : Nat → List (Nat × Word)) : (s.writeScalars gs v).badLines = s.badLines := rfl
@[simp] theorem writeScalars_mirrors (s : State) (gs : List Nat) (v : Nat → List (Nat × Word)) : (s.writeScalars gs v).mirrors = s.mirrors := rfl
@[simp] theorem writeScalars_ahead (s : State) (gs : List Nat) (v : Nat → List (Nat × Word)) : (s.writeScalars gs v).ahead = s.ahead := rfl
@[simp] theorem writeScalars_hostMem (s : State) (gs : List Nat) (v : Nat → List (Nat × Word)) : (s.writeScalars gs v).hostMem = s.hostMem := rfl
@[simp] theorem writeScalars_accesses (s : State) (gs : List Nat) (v : Nat → List (Nat × Word)) : (s.writeScalars gs v).accesses = s.accesses := rfl
@[simp] theorem writeScalars_posted (s : State) (gs : List Nat) (v : Nat → List (Nat × Word)) : (s.writeScalars gs v).posted = s.posted := rfl
@[simp] theorem writeScalars_cycle (s : State) (gs : List Nat) (v : Nat → List (Nat × Word)) : (s.writeScalars gs v).cycle = s.cycle := rfl
@[simp] theorem writeScalars_dev (s : State) (gs : List Nat) (v : Nat → List (Nat × Word)) : (s.writeScalars gs v).dev = s.dev := rfl
@[simp] theorem writeScalars_flkLo (s : State) (gs : List Nat) (v : Nat → List (Nat × Word)) : (s.writeScalars gs v).flkLo = s.flkLo := rfl
@[simp] theorem writeScalars_flkHi (s : State) (gs : List Nat) (v : Nat → List (Nat × Word)) : (s.writeScalars gs v).flkHi = s.flkHi := rfl
@[simp] theorem writeScalars_flkCtl (s : State) (gs : List Nat) (v : Nat → List (Nat × Word)) : (s.writeScalars gs v).flkCtl = s.flkCtl := rfl
@[simp] theorem writeScalars_budgets (s : State) (gs : List Nat) (v : Nat → List (Nat × Word)) : (s.writeScalars gs v).budgets = s.budgets := rfl
@[simp] theorem writeScalars_used (s : State) (gs : List Nat) (v : Nat → List (Nat × Word)) : (s.writeScalars gs v).used = s.used := rfl
@[simp] theorem writeScalars_slotUse (s : State) (gs : List Nat) (v : Nat → List (Nat × Word)) : (s.writeScalars gs v).slotUse = s.slotUse := rfl
@[simp] theorem writeScalars_rebal (s : State) (gs : List Nat) (v : Nat → List (Nat × Word)) : (s.writeScalars gs v).rebal = s.rebal := rfl
@[simp] theorem writeScalars_regions (s : State) (gs : List Nat) (v : Nat → List (Nat × Word)) : (s.writeScalars gs v).regions = s.regions := rfl
@[simp] theorem writeScalars_flash (s : State) (gs : List Nat) (v : Nat → List (Nat × Word)) : (s.writeScalars gs v).flash = s.flash := rfl
@[simp] theorem writeScalars_minimum (s : State) (gs : List Nat) (v : Nat → List (Nat × Word)) : (s.writeScalars gs v).minimum = s.minimum := rfl
@[simp] theorem writeScalars_ports (s : State) (gs : List Nat) (v : Nat → List (Nat × Word)) : (s.writeScalars gs v).ports = s.ports := rfl
@[simp] theorem writeScalars_hostUp (s : State) (gs : List Nat) (v : Nat → List (Nat × Word)) : (s.writeScalars gs v).hostUp = s.hostUp := rfl
@[simp] theorem writeScalars_slots (s : State) (gs : List Nat) (v : Nat → List (Nat × Word)) : (s.writeScalars gs v).slots = s.slots := rfl
@[simp] theorem writeScalars_rings (s : State) (gs : List Nat) (v : Nat → List (Nat × Word)) : (s.writeScalars gs v).rings = s.rings := rfl
@[simp] theorem writeScalars_windowHost (s : State) (gs : List Nat) (v : Nat → List (Nat × Word)) : (s.writeScalars gs v).windowHost = s.windowHost := rfl
@[simp] theorem writeScalars_windowDevice (s : State) (gs : List Nat) (v : Nat → List (Nat × Word)) : (s.writeScalars gs v).windowDevice = s.windowDevice := rfl
@[simp] theorem writeScalars_windowSize (s : State) (gs : List Nat) (v : Nat → List (Nat × Word)) : (s.writeScalars gs v).windowSize = s.windowSize := rfl
@[simp] theorem writeScalars_stray (s : State) (gs : List Nat) (v : Nat → List (Nat × Word)) : (s.writeScalars gs v).stray = s.stray := rfl
@[simp] theorem writeScalars_strayArmed (s : State) (gs : List Nat) (v : Nat → List (Nat × Word)) : (s.writeScalars gs v).strayArmed = s.strayArmed := rfl
@[simp] theorem writeScalars_sealedWrites (s : State) (gs : List Nat) (v : Nat → List (Nat × Word)) : (s.writeScalars gs v).sealedWrites = s.sealedWrites := rfl
@[simp] theorem writeScalars_vector1 (s : State) (gs : List Nat) (v : Nat → List (Nat × Word)) : (s.writeScalars gs v).vector1 = s.vector1 := rfl
@[simp] theorem writeScalars_vector2 (s : State) (gs : List Nat) (v : Nat → List (Nat × Word)) : (s.writeScalars gs v).vector2 = s.vector2 := rfl
@[simp] theorem writeScalars_outbox (s : State) (gs : List Nat) (v : Nat → List (Nat × Word)) : (s.writeScalars gs v).outbox = s.outbox := rfl
@[simp] theorem writeScalars_halved (s : State) (gs : List Nat) (v : Nat → List (Nat × Word)) : (s.writeScalars gs v).halved = s.halved := rfl
@[simp] theorem writeScalars_stopped (s : State) (gs : List Nat) (v : Nat → List (Nat × Word)) : (s.writeScalars gs v).stopped = s.stopped := rfl
@[simp] theorem writeScalars_power (s : State) (gs : List Nat) (v : Nat → List (Nat × Word)) : (s.writeScalars gs v).power = s.power := rfl
@[simp] theorem writeScalars_agenda (s : State) (gs : List Nat) (v : Nat → List (Nat × Word)) : (s.writeScalars gs v).agenda = s.agenda := rfl
@[simp] theorem writeScalars_turn (s : State) (gs : List Nat) (v : Nat → List (Nat × Word)) : (s.writeScalars gs v).turn = s.turn := rfl
@[simp] theorem writeScalars_issue (s : State) (gs : List Nat) (v : Nat → List (Nat × Word)) : (s.writeScalars gs v).issue = s.issue := rfl
@[simp] theorem writeScalars_subject (s : State) (gs : List Nat) (v : Nat → List (Nat × Word)) : (s.writeScalars gs v).subject = s.subject := rfl
@[simp] theorem writeScalars_nextTeam (s : State) (gs : List Nat) (v : Nat → List (Nat × Word)) : (s.writeScalars gs v).nextTeam = s.nextTeam := rfl
@[simp] theorem writeScalars_nextLaunch (s : State) (gs : List Nat) (v : Nat → List (Nat × Word)) : (s.writeScalars gs v).nextLaunch = s.nextLaunch := rfl
@[simp] theorem writeScalars_nextCommand (s : State) (gs : List Nat) (v : Nat → List (Nat × Word)) : (s.writeScalars gs v).nextCommand = s.nextCommand := rfl
@[simp] theorem writeScalars_nextAccess (s : State) (gs : List Nat) (v : Nat → List (Nat × Word)) : (s.writeScalars gs v).nextAccess = s.nextAccess := rfl
@[simp] theorem writeScalars_nextInst (s : State) (gs : List Nat) (v : Nat → List (Nat × Word)) : (s.writeScalars gs v).nextInst = s.nextInst := rfl
@[simp] theorem writeScalars_nextReady (s : State) (gs : List Nat) (v : Nat → List (Nat × Word)) : (s.writeScalars gs v).nextReady = s.nextReady := rfl

/-! `advanceAll` changes `threads` alone. -/

@[simp] theorem advanceAll_groups (s : State) (ts : List Nat) : (s.advanceAll ts).groups = s.groups := rfl
@[simp] theorem advanceAll_teams (s : State) (ts : List Nat) : (s.advanceAll ts).teams = s.teams := rfl
@[simp] theorem advanceAll_launches (s : State) (ts : List Nat) : (s.advanceAll ts).launches = s.launches := rfl
@[simp] theorem advanceAll_commands (s : State) (ts : List Nat) : (s.advanceAll ts).commands = s.commands := rfl
@[simp] theorem advanceAll_contexts (s : State) (ts : List Nat) : (s.advanceAll ts).contexts = s.contexts := rfl
@[simp] theorem advanceAll_svcthr (s : State) (ts : List Nat) : (s.advanceAll ts).svcthr = s.svcthr := rfl
@[simp] theorem advanceAll_ctxlim (s : State) (ts : List Nat) : (s.advanceAll ts).ctxlim = s.ctxlim := rfl
@[simp] theorem advanceAll_capTable (s : State) (ts : List Nat) : (s.advanceAll ts).capTable = s.capTable := rfl
@[simp] theorem advanceAll_insts (s : State) (ts : List Nat) : (s.advanceAll ts).insts = s.insts := rfl
@[simp] theorem advanceAll_dies (s : State) (ts : List Nat) : (s.advanceAll ts).dies = s.dies := rfl
@[simp] theorem advanceAll_parts (s : State) (ts : List Nat) : (s.advanceAll ts).parts = s.parts := rfl
@[simp] theorem advanceAll_pkrCopies (s : State) (ts : List Nat) : (s.advanceAll ts).pkrCopies = s.pkrCopies := rfl
@[simp] theorem advanceAll_pages (s : State) (ts : List Nat) : (s.advanceAll ts).pages = s.pages := rfl
@[simp] theorem advanceAll_descs (s : State) (ts : List Nat) : (s.advanceAll ts).descs = s.descs := rfl
@[simp] theorem advanceAll_domains (s : State) (ts : List Nat) : (s.advanceAll ts).domains = s.domains := rfl
@[simp] theorem advanceAll_hbm (s : State) (ts : List Nat) : (s.advanceAll ts).hbm = s.hbm := rfl
@[simp] theorem advanceAll_poison (s : State) (ts : List Nat) : (s.advanceAll ts).poison = s.poison := rfl
@[simp] theorem advanceAll_badLines (s : State) (ts : List Nat) : (s.advanceAll ts).badLines = s.badLines := rfl
@[simp] theorem advanceAll_mirrors (s : State) (ts : List Nat) : (s.advanceAll ts).mirrors = s.mirrors := rfl
@[simp] theorem advanceAll_ahead (s : State) (ts : List Nat) : (s.advanceAll ts).ahead = s.ahead := rfl
@[simp] theorem advanceAll_hostMem (s : State) (ts : List Nat) : (s.advanceAll ts).hostMem = s.hostMem := rfl
@[simp] theorem advanceAll_accesses (s : State) (ts : List Nat) : (s.advanceAll ts).accesses = s.accesses := rfl
@[simp] theorem advanceAll_posted (s : State) (ts : List Nat) : (s.advanceAll ts).posted = s.posted := rfl
@[simp] theorem advanceAll_cycle (s : State) (ts : List Nat) : (s.advanceAll ts).cycle = s.cycle := rfl
@[simp] theorem advanceAll_dev (s : State) (ts : List Nat) : (s.advanceAll ts).dev = s.dev := rfl
@[simp] theorem advanceAll_flkLo (s : State) (ts : List Nat) : (s.advanceAll ts).flkLo = s.flkLo := rfl
@[simp] theorem advanceAll_flkHi (s : State) (ts : List Nat) : (s.advanceAll ts).flkHi = s.flkHi := rfl
@[simp] theorem advanceAll_flkCtl (s : State) (ts : List Nat) : (s.advanceAll ts).flkCtl = s.flkCtl := rfl
@[simp] theorem advanceAll_budgets (s : State) (ts : List Nat) : (s.advanceAll ts).budgets = s.budgets := rfl
@[simp] theorem advanceAll_used (s : State) (ts : List Nat) : (s.advanceAll ts).used = s.used := rfl
@[simp] theorem advanceAll_slotUse (s : State) (ts : List Nat) : (s.advanceAll ts).slotUse = s.slotUse := rfl
@[simp] theorem advanceAll_rebal (s : State) (ts : List Nat) : (s.advanceAll ts).rebal = s.rebal := rfl
@[simp] theorem advanceAll_regions (s : State) (ts : List Nat) : (s.advanceAll ts).regions = s.regions := rfl
@[simp] theorem advanceAll_flash (s : State) (ts : List Nat) : (s.advanceAll ts).flash = s.flash := rfl
@[simp] theorem advanceAll_minimum (s : State) (ts : List Nat) : (s.advanceAll ts).minimum = s.minimum := rfl
@[simp] theorem advanceAll_ports (s : State) (ts : List Nat) : (s.advanceAll ts).ports = s.ports := rfl
@[simp] theorem advanceAll_hostUp (s : State) (ts : List Nat) : (s.advanceAll ts).hostUp = s.hostUp := rfl
@[simp] theorem advanceAll_slots (s : State) (ts : List Nat) : (s.advanceAll ts).slots = s.slots := rfl
@[simp] theorem advanceAll_rings (s : State) (ts : List Nat) : (s.advanceAll ts).rings = s.rings := rfl
@[simp] theorem advanceAll_windowHost (s : State) (ts : List Nat) : (s.advanceAll ts).windowHost = s.windowHost := rfl
@[simp] theorem advanceAll_windowDevice (s : State) (ts : List Nat) : (s.advanceAll ts).windowDevice = s.windowDevice := rfl
@[simp] theorem advanceAll_windowSize (s : State) (ts : List Nat) : (s.advanceAll ts).windowSize = s.windowSize := rfl
@[simp] theorem advanceAll_stray (s : State) (ts : List Nat) : (s.advanceAll ts).stray = s.stray := rfl
@[simp] theorem advanceAll_strayArmed (s : State) (ts : List Nat) : (s.advanceAll ts).strayArmed = s.strayArmed := rfl
@[simp] theorem advanceAll_sealedWrites (s : State) (ts : List Nat) : (s.advanceAll ts).sealedWrites = s.sealedWrites := rfl
@[simp] theorem advanceAll_vector1 (s : State) (ts : List Nat) : (s.advanceAll ts).vector1 = s.vector1 := rfl
@[simp] theorem advanceAll_vector2 (s : State) (ts : List Nat) : (s.advanceAll ts).vector2 = s.vector2 := rfl
@[simp] theorem advanceAll_outbox (s : State) (ts : List Nat) : (s.advanceAll ts).outbox = s.outbox := rfl
@[simp] theorem advanceAll_halved (s : State) (ts : List Nat) : (s.advanceAll ts).halved = s.halved := rfl
@[simp] theorem advanceAll_stopped (s : State) (ts : List Nat) : (s.advanceAll ts).stopped = s.stopped := rfl
@[simp] theorem advanceAll_power (s : State) (ts : List Nat) : (s.advanceAll ts).power = s.power := rfl
@[simp] theorem advanceAll_agenda (s : State) (ts : List Nat) : (s.advanceAll ts).agenda = s.agenda := rfl
@[simp] theorem advanceAll_turn (s : State) (ts : List Nat) : (s.advanceAll ts).turn = s.turn := rfl
@[simp] theorem advanceAll_issue (s : State) (ts : List Nat) : (s.advanceAll ts).issue = s.issue := rfl
@[simp] theorem advanceAll_subject (s : State) (ts : List Nat) : (s.advanceAll ts).subject = s.subject := rfl
@[simp] theorem advanceAll_nextTeam (s : State) (ts : List Nat) : (s.advanceAll ts).nextTeam = s.nextTeam := rfl
@[simp] theorem advanceAll_nextLaunch (s : State) (ts : List Nat) : (s.advanceAll ts).nextLaunch = s.nextLaunch := rfl
@[simp] theorem advanceAll_nextCommand (s : State) (ts : List Nat) : (s.advanceAll ts).nextCommand = s.nextCommand := rfl
@[simp] theorem advanceAll_nextAccess (s : State) (ts : List Nat) : (s.advanceAll ts).nextAccess = s.nextAccess := rfl
@[simp] theorem advanceAll_nextInst (s : State) (ts : List Nat) : (s.advanceAll ts).nextInst = s.nextInst := rfl
@[simp] theorem advanceAll_nextReady (s : State) (ts : List Nat) : (s.advanceAll ts).nextReady = s.nextReady := rfl

end State

namespace Thread

/-! `setReg` changes `regs` alone. -/

@[simp] theorem setReg_preds (t : Thread) (n : Nat) (x : Word) : (t.setReg n x).preds = t.preds := by
  unfold setReg; split <;> rfl
@[simp] theorem setReg_pc (t : Thread) (n : Nat) (x : Word) : (t.setReg n x).pc = t.pc := by
  unfold setReg; split <;> rfl
@[simp] theorem setReg_depth (t : Thread) (n : Nat) (x : Word) : (t.setReg n x).depth = t.depth := by
  unfold setReg; split <;> rfl
@[simp] theorem setReg_meet (t : Thread) (n : Nat) (x : Word) : (t.setReg n x).meet = t.meet := by
  unfold setReg; split <;> rfl
@[simp] theorem setReg_meets (t : Thread) (n : Nat) (x : Word) : (t.setReg n x).meets = t.meets := by
  unfold setReg; split <;> rfl
@[simp] theorem setReg_released (t : Thread) (n : Nat) (x : Word) : (t.setReg n x).released = t.released := by
  unfold setReg; split <;> rfl
@[simp] theorem setReg_cross (t : Thread) (n : Nat) (x : Word) : (t.setReg n x).cross = t.cross := by
  unfold setReg; split <;> rfl
@[simp] theorem setReg_fpsr (t : Thread) (n : Nat) (x : Word) : (t.setReg n x).fpsr = t.fpsr := by
  unfold setReg; split <;> rfl
@[simp] theorem setReg_fpcr (t : Thread) (n : Nat) (x : Word) : (t.setReg n x).fpcr = t.fpcr := by
  unfold setReg; split <;> rfl
@[simp] theorem setReg_stklim (t : Thread) (n : Nat) (x : Word) : (t.setReg n x).stklim = t.stklim := by
  unfold setReg; split <;> rfl
@[simp] theorem setReg_rpc (t : Thread) (n : Nat) (x : Word) : (t.setReg n x).rpc = t.rpc := by
  unfold setReg; split <;> rfl
@[simp] theorem setReg_ylane (t : Thread) (n : Nat) (x : Word) : (t.setReg n x).ylane = t.ylane := by
  unfold setReg; split <;> rfl
@[simp] theorem setReg_fcode (t : Thread) (n : Nat) (x : Word) : (t.setReg n x).fcode = t.fcode := by
  unfold setReg; split <;> rfl
@[simp] theorem setReg_fpc (t : Thread) (n : Nat) (x : Word) : (t.setReg n x).fpc = t.fpc := by
  unfold setReg; split <;> rfl
@[simp] theorem setReg_faddrLo (t : Thread) (n : Nat) (x : Word) : (t.setReg n x).faddrLo = t.faddrLo := by
  unfold setReg; split <;> rfl
@[simp] theorem setReg_faddrHi (t : Thread) (n : Nat) (x : Word) : (t.setReg n x).faddrHi = t.faddrHi := by
  unfold setReg; split <;> rfl
@[simp] theorem setReg_fmask (t : Thread) (n : Nat) (x : Word) : (t.setReg n x).fmask = t.fmask := by
  unfold setReg; split <;> rfl
@[simp] theorem setReg_faux (t : Thread) (n : Nat) (x : Word) : (t.setReg n x).faux = t.faux := by
  unfold setReg; split <;> rfl
@[simp] theorem setReg_clkLatch (t : Thread) (n : Nat) (x : Word) : (t.setReg n x).clkLatch = t.clkLatch := by
  unfold setReg; split <;> rfl
@[simp] theorem setReg_slotS (t : Thread) (n : Nat) (x : Word) : (t.setReg n x).slotS = t.slotS := by
  unfold setReg; split <;> rfl
@[simp] theorem setReg_slotF (t : Thread) (n : Nat) (x : Word) : (t.setReg n x).slotF = t.slotF := by
  unfold setReg; split <;> rfl
@[simp] theorem setReg_slotP (t : Thread) (n : Nat) (x : Word) : (t.setReg n x).slotP = t.slotP := by
  unfold setReg; split <;> rfl
@[simp] theorem setReg_wait (t : Thread) (n : Nat) (x : Word) : (t.setReg n x).wait = t.wait := by
  unfold setReg; split <;> rfl
@[simp] theorem setReg_after (t : Thread) (n : Nat) (x : Word) : (t.setReg n x).after = t.after := by
  unfold setReg; split <;> rfl
@[simp] theorem setReg_inRep (t : Thread) (n : Nat) (x : Word) : (t.setReg n x).inRep = t.inRep := by
  unfold setReg; split <;> rfl
@[simp] theorem setReg_pair (t : Thread) (n : Nat) (x : Word) : (t.setReg n x).pair = t.pair := by
  unfold setReg; split <;> rfl
@[simp] theorem setReg_life (t : Thread) (n : Nat) (x : Word) : (t.setReg n x).life = t.life := by
  unfold setReg; split <;> rfl
@[simp] theorem setReg_defPark (t : Thread) (n : Nat) (x : Word) : (t.setReg n x).defPark = t.defPark := by
  unfold setReg; split <;> rfl
@[simp] theorem setReg_psel (t : Thread) (n : Nat) (x : Word) : (t.setReg n x).psel = t.psel := by
  unfold setReg; split <;> rfl
@[simp] theorem setReg_deferred (t : Thread) (n : Nat) (x : Word) : (t.setReg n x).deferred = t.deferred := by
  unfold setReg; split <;> rfl
@[simp] theorem setReg_idleTicks (t : Thread) (n : Nat) (x : Word) : (t.setReg n x).idleTicks = t.idleTicks := by
  unfold setReg; split <;> rfl
@[simp] theorem setReg_issued (t : Thread) (n : Nat) (x : Word) : (t.setReg n x).issued = t.issued := by
  unfold setReg; split <;> rfl

/-! `setReg64` changes `regs` alone. -/

@[simp] theorem setReg64_preds (t : Thread) (n : Nat) (x : DWord) : (t.setReg64 n x).preds = t.preds := by
  unfold setReg64; split <;> simp
@[simp] theorem setReg64_pc (t : Thread) (n : Nat) (x : DWord) : (t.setReg64 n x).pc = t.pc := by
  unfold setReg64; split <;> simp
@[simp] theorem setReg64_depth (t : Thread) (n : Nat) (x : DWord) : (t.setReg64 n x).depth = t.depth := by
  unfold setReg64; split <;> simp
@[simp] theorem setReg64_meet (t : Thread) (n : Nat) (x : DWord) : (t.setReg64 n x).meet = t.meet := by
  unfold setReg64; split <;> simp
@[simp] theorem setReg64_meets (t : Thread) (n : Nat) (x : DWord) : (t.setReg64 n x).meets = t.meets := by
  unfold setReg64; split <;> simp
@[simp] theorem setReg64_released (t : Thread) (n : Nat) (x : DWord) : (t.setReg64 n x).released = t.released := by
  unfold setReg64; split <;> simp
@[simp] theorem setReg64_cross (t : Thread) (n : Nat) (x : DWord) : (t.setReg64 n x).cross = t.cross := by
  unfold setReg64; split <;> simp
@[simp] theorem setReg64_fpsr (t : Thread) (n : Nat) (x : DWord) : (t.setReg64 n x).fpsr = t.fpsr := by
  unfold setReg64; split <;> simp
@[simp] theorem setReg64_fpcr (t : Thread) (n : Nat) (x : DWord) : (t.setReg64 n x).fpcr = t.fpcr := by
  unfold setReg64; split <;> simp
@[simp] theorem setReg64_stklim (t : Thread) (n : Nat) (x : DWord) : (t.setReg64 n x).stklim = t.stklim := by
  unfold setReg64; split <;> simp
@[simp] theorem setReg64_rpc (t : Thread) (n : Nat) (x : DWord) : (t.setReg64 n x).rpc = t.rpc := by
  unfold setReg64; split <;> simp
@[simp] theorem setReg64_ylane (t : Thread) (n : Nat) (x : DWord) : (t.setReg64 n x).ylane = t.ylane := by
  unfold setReg64; split <;> simp
@[simp] theorem setReg64_fcode (t : Thread) (n : Nat) (x : DWord) : (t.setReg64 n x).fcode = t.fcode := by
  unfold setReg64; split <;> simp
@[simp] theorem setReg64_fpc (t : Thread) (n : Nat) (x : DWord) : (t.setReg64 n x).fpc = t.fpc := by
  unfold setReg64; split <;> simp
@[simp] theorem setReg64_faddrLo (t : Thread) (n : Nat) (x : DWord) : (t.setReg64 n x).faddrLo = t.faddrLo := by
  unfold setReg64; split <;> simp
@[simp] theorem setReg64_faddrHi (t : Thread) (n : Nat) (x : DWord) : (t.setReg64 n x).faddrHi = t.faddrHi := by
  unfold setReg64; split <;> simp
@[simp] theorem setReg64_fmask (t : Thread) (n : Nat) (x : DWord) : (t.setReg64 n x).fmask = t.fmask := by
  unfold setReg64; split <;> simp
@[simp] theorem setReg64_faux (t : Thread) (n : Nat) (x : DWord) : (t.setReg64 n x).faux = t.faux := by
  unfold setReg64; split <;> simp
@[simp] theorem setReg64_clkLatch (t : Thread) (n : Nat) (x : DWord) : (t.setReg64 n x).clkLatch = t.clkLatch := by
  unfold setReg64; split <;> simp
@[simp] theorem setReg64_slotS (t : Thread) (n : Nat) (x : DWord) : (t.setReg64 n x).slotS = t.slotS := by
  unfold setReg64; split <;> simp
@[simp] theorem setReg64_slotF (t : Thread) (n : Nat) (x : DWord) : (t.setReg64 n x).slotF = t.slotF := by
  unfold setReg64; split <;> simp
@[simp] theorem setReg64_slotP (t : Thread) (n : Nat) (x : DWord) : (t.setReg64 n x).slotP = t.slotP := by
  unfold setReg64; split <;> simp
@[simp] theorem setReg64_wait (t : Thread) (n : Nat) (x : DWord) : (t.setReg64 n x).wait = t.wait := by
  unfold setReg64; split <;> simp
@[simp] theorem setReg64_after (t : Thread) (n : Nat) (x : DWord) : (t.setReg64 n x).after = t.after := by
  unfold setReg64; split <;> simp
@[simp] theorem setReg64_inRep (t : Thread) (n : Nat) (x : DWord) : (t.setReg64 n x).inRep = t.inRep := by
  unfold setReg64; split <;> simp
@[simp] theorem setReg64_pair (t : Thread) (n : Nat) (x : DWord) : (t.setReg64 n x).pair = t.pair := by
  unfold setReg64; split <;> simp
@[simp] theorem setReg64_life (t : Thread) (n : Nat) (x : DWord) : (t.setReg64 n x).life = t.life := by
  unfold setReg64; split <;> simp
@[simp] theorem setReg64_defPark (t : Thread) (n : Nat) (x : DWord) : (t.setReg64 n x).defPark = t.defPark := by
  unfold setReg64; split <;> simp
@[simp] theorem setReg64_psel (t : Thread) (n : Nat) (x : DWord) : (t.setReg64 n x).psel = t.psel := by
  unfold setReg64; split <;> simp
@[simp] theorem setReg64_deferred (t : Thread) (n : Nat) (x : DWord) : (t.setReg64 n x).deferred = t.deferred := by
  unfold setReg64; split <;> simp
@[simp] theorem setReg64_idleTicks (t : Thread) (n : Nat) (x : DWord) : (t.setReg64 n x).idleTicks = t.idleTicks := by
  unfold setReg64; split <;> simp
@[simp] theorem setReg64_issued (t : Thread) (n : Nat) (x : DWord) : (t.setReg64 n x).issued = t.issued := by
  unfold setReg64; split <;> simp

/-! `setPred` changes `preds` alone. -/

@[simp] theorem setPred_regs (t : Thread) (n : Nat) (b : Bool) : (t.setPred n b).regs = t.regs := by
  unfold setPred; split <;> rfl
@[simp] theorem setPred_pc (t : Thread) (n : Nat) (b : Bool) : (t.setPred n b).pc = t.pc := by
  unfold setPred; split <;> rfl
@[simp] theorem setPred_depth (t : Thread) (n : Nat) (b : Bool) : (t.setPred n b).depth = t.depth := by
  unfold setPred; split <;> rfl
@[simp] theorem setPred_meet (t : Thread) (n : Nat) (b : Bool) : (t.setPred n b).meet = t.meet := by
  unfold setPred; split <;> rfl
@[simp] theorem setPred_meets (t : Thread) (n : Nat) (b : Bool) : (t.setPred n b).meets = t.meets := by
  unfold setPred; split <;> rfl
@[simp] theorem setPred_released (t : Thread) (n : Nat) (b : Bool) : (t.setPred n b).released = t.released := by
  unfold setPred; split <;> rfl
@[simp] theorem setPred_cross (t : Thread) (n : Nat) (b : Bool) : (t.setPred n b).cross = t.cross := by
  unfold setPred; split <;> rfl
@[simp] theorem setPred_fpsr (t : Thread) (n : Nat) (b : Bool) : (t.setPred n b).fpsr = t.fpsr := by
  unfold setPred; split <;> rfl
@[simp] theorem setPred_fpcr (t : Thread) (n : Nat) (b : Bool) : (t.setPred n b).fpcr = t.fpcr := by
  unfold setPred; split <;> rfl
@[simp] theorem setPred_stklim (t : Thread) (n : Nat) (b : Bool) : (t.setPred n b).stklim = t.stklim := by
  unfold setPred; split <;> rfl
@[simp] theorem setPred_rpc (t : Thread) (n : Nat) (b : Bool) : (t.setPred n b).rpc = t.rpc := by
  unfold setPred; split <;> rfl
@[simp] theorem setPred_ylane (t : Thread) (n : Nat) (b : Bool) : (t.setPred n b).ylane = t.ylane := by
  unfold setPred; split <;> rfl
@[simp] theorem setPred_fcode (t : Thread) (n : Nat) (b : Bool) : (t.setPred n b).fcode = t.fcode := by
  unfold setPred; split <;> rfl
@[simp] theorem setPred_fpc (t : Thread) (n : Nat) (b : Bool) : (t.setPred n b).fpc = t.fpc := by
  unfold setPred; split <;> rfl
@[simp] theorem setPred_faddrLo (t : Thread) (n : Nat) (b : Bool) : (t.setPred n b).faddrLo = t.faddrLo := by
  unfold setPred; split <;> rfl
@[simp] theorem setPred_faddrHi (t : Thread) (n : Nat) (b : Bool) : (t.setPred n b).faddrHi = t.faddrHi := by
  unfold setPred; split <;> rfl
@[simp] theorem setPred_fmask (t : Thread) (n : Nat) (b : Bool) : (t.setPred n b).fmask = t.fmask := by
  unfold setPred; split <;> rfl
@[simp] theorem setPred_faux (t : Thread) (n : Nat) (b : Bool) : (t.setPred n b).faux = t.faux := by
  unfold setPred; split <;> rfl
@[simp] theorem setPred_clkLatch (t : Thread) (n : Nat) (b : Bool) : (t.setPred n b).clkLatch = t.clkLatch := by
  unfold setPred; split <;> rfl
@[simp] theorem setPred_slotS (t : Thread) (n : Nat) (b : Bool) : (t.setPred n b).slotS = t.slotS := by
  unfold setPred; split <;> rfl
@[simp] theorem setPred_slotF (t : Thread) (n : Nat) (b : Bool) : (t.setPred n b).slotF = t.slotF := by
  unfold setPred; split <;> rfl
@[simp] theorem setPred_slotP (t : Thread) (n : Nat) (b : Bool) : (t.setPred n b).slotP = t.slotP := by
  unfold setPred; split <;> rfl
@[simp] theorem setPred_wait (t : Thread) (n : Nat) (b : Bool) : (t.setPred n b).wait = t.wait := by
  unfold setPred; split <;> rfl
@[simp] theorem setPred_after (t : Thread) (n : Nat) (b : Bool) : (t.setPred n b).after = t.after := by
  unfold setPred; split <;> rfl
@[simp] theorem setPred_inRep (t : Thread) (n : Nat) (b : Bool) : (t.setPred n b).inRep = t.inRep := by
  unfold setPred; split <;> rfl
@[simp] theorem setPred_pair (t : Thread) (n : Nat) (b : Bool) : (t.setPred n b).pair = t.pair := by
  unfold setPred; split <;> rfl
@[simp] theorem setPred_life (t : Thread) (n : Nat) (b : Bool) : (t.setPred n b).life = t.life := by
  unfold setPred; split <;> rfl
@[simp] theorem setPred_defPark (t : Thread) (n : Nat) (b : Bool) : (t.setPred n b).defPark = t.defPark := by
  unfold setPred; split <;> rfl
@[simp] theorem setPred_psel (t : Thread) (n : Nat) (b : Bool) : (t.setPred n b).psel = t.psel := by
  unfold setPred; split <;> rfl
@[simp] theorem setPred_deferred (t : Thread) (n : Nat) (b : Bool) : (t.setPred n b).deferred = t.deferred := by
  unfold setPred; split <;> rfl
@[simp] theorem setPred_idleTicks (t : Thread) (n : Nat) (b : Bool) : (t.setPred n b).idleTicks = t.idleTicks := by
  unfold setPred; split <;> rfl
@[simp] theorem setPred_issued (t : Thread) (n : Nat) (b : Bool) : (t.setPred n b).issued = t.issued := by
  unfold setPred; split <;> rfl

/-! `orFlags` changes `fpsr` alone. -/

@[simp] theorem orFlags_regs (t : Thread) (f : Flags) : (t.orFlags f).regs = t.regs := rfl
@[simp] theorem orFlags_preds (t : Thread) (f : Flags) : (t.orFlags f).preds = t.preds := rfl
@[simp] theorem orFlags_pc (t : Thread) (f : Flags) : (t.orFlags f).pc = t.pc := rfl
@[simp] theorem orFlags_depth (t : Thread) (f : Flags) : (t.orFlags f).depth = t.depth := rfl
@[simp] theorem orFlags_meet (t : Thread) (f : Flags) : (t.orFlags f).meet = t.meet := rfl
@[simp] theorem orFlags_meets (t : Thread) (f : Flags) : (t.orFlags f).meets = t.meets := rfl
@[simp] theorem orFlags_released (t : Thread) (f : Flags) : (t.orFlags f).released = t.released := rfl
@[simp] theorem orFlags_cross (t : Thread) (f : Flags) : (t.orFlags f).cross = t.cross := rfl
@[simp] theorem orFlags_fpcr (t : Thread) (f : Flags) : (t.orFlags f).fpcr = t.fpcr := rfl
@[simp] theorem orFlags_stklim (t : Thread) (f : Flags) : (t.orFlags f).stklim = t.stklim := rfl
@[simp] theorem orFlags_rpc (t : Thread) (f : Flags) : (t.orFlags f).rpc = t.rpc := rfl
@[simp] theorem orFlags_ylane (t : Thread) (f : Flags) : (t.orFlags f).ylane = t.ylane := rfl
@[simp] theorem orFlags_fcode (t : Thread) (f : Flags) : (t.orFlags f).fcode = t.fcode := rfl
@[simp] theorem orFlags_fpc (t : Thread) (f : Flags) : (t.orFlags f).fpc = t.fpc := rfl
@[simp] theorem orFlags_faddrLo (t : Thread) (f : Flags) : (t.orFlags f).faddrLo = t.faddrLo := rfl
@[simp] theorem orFlags_faddrHi (t : Thread) (f : Flags) : (t.orFlags f).faddrHi = t.faddrHi := rfl
@[simp] theorem orFlags_fmask (t : Thread) (f : Flags) : (t.orFlags f).fmask = t.fmask := rfl
@[simp] theorem orFlags_faux (t : Thread) (f : Flags) : (t.orFlags f).faux = t.faux := rfl
@[simp] theorem orFlags_clkLatch (t : Thread) (f : Flags) : (t.orFlags f).clkLatch = t.clkLatch := rfl
@[simp] theorem orFlags_slotS (t : Thread) (f : Flags) : (t.orFlags f).slotS = t.slotS := rfl
@[simp] theorem orFlags_slotF (t : Thread) (f : Flags) : (t.orFlags f).slotF = t.slotF := rfl
@[simp] theorem orFlags_slotP (t : Thread) (f : Flags) : (t.orFlags f).slotP = t.slotP := rfl
@[simp] theorem orFlags_wait (t : Thread) (f : Flags) : (t.orFlags f).wait = t.wait := rfl
@[simp] theorem orFlags_after (t : Thread) (f : Flags) : (t.orFlags f).after = t.after := rfl
@[simp] theorem orFlags_inRep (t : Thread) (f : Flags) : (t.orFlags f).inRep = t.inRep := rfl
@[simp] theorem orFlags_pair (t : Thread) (f : Flags) : (t.orFlags f).pair = t.pair := rfl
@[simp] theorem orFlags_life (t : Thread) (f : Flags) : (t.orFlags f).life = t.life := rfl
@[simp] theorem orFlags_defPark (t : Thread) (f : Flags) : (t.orFlags f).defPark = t.defPark := rfl
@[simp] theorem orFlags_psel (t : Thread) (f : Flags) : (t.orFlags f).psel = t.psel := rfl
@[simp] theorem orFlags_deferred (t : Thread) (f : Flags) : (t.orFlags f).deferred = t.deferred := rfl
@[simp] theorem orFlags_idleTicks (t : Thread) (f : Flags) : (t.orFlags f).idleTicks = t.idleTicks := rfl
@[simp] theorem orFlags_issued (t : Thread) (f : Flags) : (t.orFlags f).issued = t.issued := rfl

/-! `advance` changes `pc`, `rpc`, `inRep`, `pair` alone. -/

@[simp] theorem advance_regs (t : Thread) (p : Ptr) : (t.advance p).regs = t.regs := by
  unfold advance; split
  · split <;> rfl
  · rfl
@[simp] theorem advance_preds (t : Thread) (p : Ptr) : (t.advance p).preds = t.preds := by
  unfold advance; split
  · split <;> rfl
  · rfl
@[simp] theorem advance_depth (t : Thread) (p : Ptr) : (t.advance p).depth = t.depth := by
  unfold advance; split
  · split <;> rfl
  · rfl
@[simp] theorem advance_meet (t : Thread) (p : Ptr) : (t.advance p).meet = t.meet := by
  unfold advance; split
  · split <;> rfl
  · rfl
@[simp] theorem advance_meets (t : Thread) (p : Ptr) : (t.advance p).meets = t.meets := by
  unfold advance; split
  · split <;> rfl
  · rfl
@[simp] theorem advance_released (t : Thread) (p : Ptr) : (t.advance p).released = t.released := by
  unfold advance; split
  · split <;> rfl
  · rfl
@[simp] theorem advance_cross (t : Thread) (p : Ptr) : (t.advance p).cross = t.cross := by
  unfold advance; split
  · split <;> rfl
  · rfl
@[simp] theorem advance_fpsr (t : Thread) (p : Ptr) : (t.advance p).fpsr = t.fpsr := by
  unfold advance; split
  · split <;> rfl
  · rfl
@[simp] theorem advance_fpcr (t : Thread) (p : Ptr) : (t.advance p).fpcr = t.fpcr := by
  unfold advance; split
  · split <;> rfl
  · rfl
@[simp] theorem advance_stklim (t : Thread) (p : Ptr) : (t.advance p).stklim = t.stklim := by
  unfold advance; split
  · split <;> rfl
  · rfl
@[simp] theorem advance_ylane (t : Thread) (p : Ptr) : (t.advance p).ylane = t.ylane := by
  unfold advance; split
  · split <;> rfl
  · rfl
@[simp] theorem advance_fcode (t : Thread) (p : Ptr) : (t.advance p).fcode = t.fcode := by
  unfold advance; split
  · split <;> rfl
  · rfl
@[simp] theorem advance_fpc (t : Thread) (p : Ptr) : (t.advance p).fpc = t.fpc := by
  unfold advance; split
  · split <;> rfl
  · rfl
@[simp] theorem advance_faddrLo (t : Thread) (p : Ptr) : (t.advance p).faddrLo = t.faddrLo := by
  unfold advance; split
  · split <;> rfl
  · rfl
@[simp] theorem advance_faddrHi (t : Thread) (p : Ptr) : (t.advance p).faddrHi = t.faddrHi := by
  unfold advance; split
  · split <;> rfl
  · rfl
@[simp] theorem advance_fmask (t : Thread) (p : Ptr) : (t.advance p).fmask = t.fmask := by
  unfold advance; split
  · split <;> rfl
  · rfl
@[simp] theorem advance_faux (t : Thread) (p : Ptr) : (t.advance p).faux = t.faux := by
  unfold advance; split
  · split <;> rfl
  · rfl
@[simp] theorem advance_clkLatch (t : Thread) (p : Ptr) : (t.advance p).clkLatch = t.clkLatch := by
  unfold advance; split
  · split <;> rfl
  · rfl
@[simp] theorem advance_slotS (t : Thread) (p : Ptr) : (t.advance p).slotS = t.slotS := by
  unfold advance; split
  · split <;> rfl
  · rfl
@[simp] theorem advance_slotF (t : Thread) (p : Ptr) : (t.advance p).slotF = t.slotF := by
  unfold advance; split
  · split <;> rfl
  · rfl
@[simp] theorem advance_slotP (t : Thread) (p : Ptr) : (t.advance p).slotP = t.slotP := by
  unfold advance; split
  · split <;> rfl
  · rfl
@[simp] theorem advance_wait (t : Thread) (p : Ptr) : (t.advance p).wait = t.wait := by
  unfold advance; split
  · split <;> rfl
  · rfl
@[simp] theorem advance_after (t : Thread) (p : Ptr) : (t.advance p).after = t.after := by
  unfold advance; split
  · split <;> rfl
  · rfl
@[simp] theorem advance_life (t : Thread) (p : Ptr) : (t.advance p).life = t.life := by
  unfold advance; split
  · split <;> rfl
  · rfl
@[simp] theorem advance_defPark (t : Thread) (p : Ptr) : (t.advance p).defPark = t.defPark := by
  unfold advance; split
  · split <;> rfl
  · rfl
@[simp] theorem advance_psel (t : Thread) (p : Ptr) : (t.advance p).psel = t.psel := by
  unfold advance; split
  · split <;> rfl
  · rfl
@[simp] theorem advance_deferred (t : Thread) (p : Ptr) : (t.advance p).deferred = t.deferred := by
  unfold advance; split
  · split <;> rfl
  · rfl
@[simp] theorem advance_idleTicks (t : Thread) (p : Ptr) : (t.advance p).idleTicks = t.idleTicks := by
  unfold advance; split
  · split <;> rfl
  · rfl
@[simp] theorem advance_issued (t : Thread) (p : Ptr) : (t.advance p).issued = t.issued := by
  unfold advance; split
  · split <;> rfl
  · rfl

end Thread

namespace Group

@[simp] theorem setSreg_core (g : Group) (n : Nat) (x : Word) : (g.setSreg n x).core = g.core := by
  unfold setSreg; split <;> rfl
@[simp] theorem setSreg_part (g : Group) (n : Nat) (x : Word) : (g.setSreg n x).part = g.part := by
  unfold setSreg; split <;> rfl
@[simp] theorem setSreg_level (g : Group) (n : Nat) (x : Word) : (g.setSreg n x).level = g.level := by
  unfold setSreg; split <;> rfl
@[simp] theorem setSreg_thnd (g : Group) (n : Nat) (x : Word) : (g.setSreg n x).thnd = g.thnd := by
  unfold setSreg; split <;> rfl
@[simp] theorem setSreg_thndSeg (g : Group) (n : Nat) (x : Word) : (g.setSreg n x).thndSeg = g.thndSeg := by
  unfold setSreg; split <;> rfl
@[simp] theorem setSreg_cbrto (g : Group) (n : Nat) (x : Word) : (g.setSreg n x).cbrto = g.cbrto := by
  unfold setSreg; split <;> rfl
@[simp] theorem setSreg_barto (g : Group) (n : Nat) (x : Word) : (g.setSreg n x).barto = g.barto := by
  unfold setSreg; split <;> rfl
@[simp] theorem setSreg_phs (g : Group) (n : Nat) (x : Word) : (g.setSreg n x).phs = g.phs := by
  unfold setSreg; split <;> rfl
@[simp] theorem setSreg_reply (g : Group) (n : Nat) (x : Word) : (g.setSreg n x).reply = g.reply := by
  unfold setSreg; split <;> rfl
@[simp] theorem setSreg_savep (g : Group) (n : Nat) (x : Word) : (g.setSreg n x).savep = g.savep := by
  unfold setSreg; split <;> rfl
@[simp] theorem setSreg_slice (g : Group) (n : Nat) (x : Word) : (g.setSreg n x).slice = g.slice := by
  unfold setSreg; split <;> rfl
@[simp] theorem setSreg_seq (g : Group) (n : Nat) (x : Word) : (g.setSreg n x).seq = g.seq := by
  unfold setSreg; split <;> rfl
@[simp] theorem setSreg_called (g : Group) (n : Nat) (x : Word) : (g.setSreg n x).called = g.called := by
  unfold setSreg; split <;> rfl
@[simp] theorem setSreg_mflags (g : Group) (n : Nat) (x : Word) : (g.setSreg n x).mflags = g.mflags := by
  unfold setSreg; split <;> rfl
@[simp] theorem setSreg_mqueue (g : Group) (n : Nat) (x : Word) : (g.setSreg n x).mqueue = g.mqueue := by
  unfold setSreg; split <;> rfl
@[simp] theorem setSreg_tiles (g : Group) (n : Nat) (x : Word) : (g.setSreg n x).tiles = g.tiles := by
  unfold setSreg; split <;> rfl
@[simp] theorem setSreg_tileRecs (g : Group) (n : Nat) (x : Word) : (g.setSreg n x).tileRecs = g.tileRecs := by
  unfold setSreg; split <;> rfl
@[simp] theorem setSreg_accs (g : Group) (n : Nat) (x : Word) : (g.setSreg n x).accs = g.accs := by
  unfold setSreg; split <;> rfl
@[simp] theorem setSreg_rays (g : Group) (n : Nat) (x : Word) : (g.setSreg n x).rays = g.rays := by
  unfold setSreg; split <;> rfl
@[simp] theorem setSreg_norms (g : Group) (n : Nat) (x : Word) : (g.setSreg n x).norms = g.norms := by
  unfold setSreg; split <;> rfl
@[simp] theorem setSreg_gen (g : Group) (n : Nat) (x : Word) : (g.setSreg n x).gen = g.gen := by
  unfold setSreg; split <;> rfl
@[simp] theorem setSreg_doms (g : Group) (n : Nat) (x : Word) : (g.setSreg n x).doms = g.doms := by
  unfold setSreg; split <;> rfl
@[simp] theorem setSreg_spec (g : Group) (n : Nat) (x : Word) : (g.setSreg n x).spec = g.spec := by
  unfold setSreg; split <;> rfl
@[simp] theorem setSreg_path (g : Group) (n : Nat) (x : Word) : (g.setSreg n x).path = g.path := by
  unfold setSreg; split <;> rfl
@[simp] theorem setSreg_spadPath (g : Group) (n : Nat) (x : Word) : (g.setSreg n x).spadPath = g.spadPath := by
  unfold setSreg; split <;> rfl
@[simp] theorem setSreg_triggered (g : Group) (n : Nat) (x : Word) : (g.setSreg n x).triggered = g.triggered := by
  unfold setSreg; split <;> rfl
@[simp] theorem setSreg_qr (g : Group) (n : Nat) (x : Word) : (g.setSreg n x).qr = g.qr := by
  unfold setSreg; split <;> rfl
@[simp] theorem setSreg_copies (g : Group) (n : Nat) (x : Word) : (g.setSreg n x).copies = g.copies := by
  unfold setSreg; split <;> rfl
@[simp] theorem setSreg_active (g : Group) (n : Nat) (x : Word) : (g.setSreg n x).active = g.active := by
  unfold setSreg; split <;> rfl
@[simp] theorem setSreg_ready (g : Group) (n : Nat) (x : Word) : (g.setSreg n x).ready = g.ready := by
  unfold setSreg; split <;> rfl
@[simp] theorem setSreg_lastIssue (g : Group) (n : Nat) (x : Word) : (g.setSreg n x).lastIssue = g.lastIssue := by
  unfold setSreg; split <;> rfl
@[simp] theorem setSreg_parked (g : Group) (n : Nat) (x : Word) : (g.setSreg n x).parked = g.parked := by
  unfold setSreg; split <;> rfl
@[simp] theorem setSreg_preempt (g : Group) (n : Nat) (x : Word) : (g.setSreg n x).preempt = g.preempt := by
  unfold setSreg; split <;> rfl
@[simp] theorem setSreg_shadow (g : Group) (n : Nat) (x : Word) : (g.setSreg n x).shadow = g.shadow := by
  unfold setSreg; split <;> rfl

@[simp] theorem setSregs_core (g : Group) (l : List (Nat × Word)) : (g.setSregs l).core = g.core := by
  induction l generalizing g with
  | nil => rfl
  | cons e l ih => rw [setSregs, ih, setSreg_core]
@[simp] theorem setSregs_part (g : Group) (l : List (Nat × Word)) : (g.setSregs l).part = g.part := by
  induction l generalizing g with
  | nil => rfl
  | cons e l ih => rw [setSregs, ih, setSreg_part]
@[simp] theorem setSregs_level (g : Group) (l : List (Nat × Word)) : (g.setSregs l).level = g.level := by
  induction l generalizing g with
  | nil => rfl
  | cons e l ih => rw [setSregs, ih, setSreg_level]
@[simp] theorem setSregs_thnd (g : Group) (l : List (Nat × Word)) : (g.setSregs l).thnd = g.thnd := by
  induction l generalizing g with
  | nil => rfl
  | cons e l ih => rw [setSregs, ih, setSreg_thnd]
@[simp] theorem setSregs_thndSeg (g : Group) (l : List (Nat × Word)) : (g.setSregs l).thndSeg = g.thndSeg := by
  induction l generalizing g with
  | nil => rfl
  | cons e l ih => rw [setSregs, ih, setSreg_thndSeg]
@[simp] theorem setSregs_cbrto (g : Group) (l : List (Nat × Word)) : (g.setSregs l).cbrto = g.cbrto := by
  induction l generalizing g with
  | nil => rfl
  | cons e l ih => rw [setSregs, ih, setSreg_cbrto]
@[simp] theorem setSregs_barto (g : Group) (l : List (Nat × Word)) : (g.setSregs l).barto = g.barto := by
  induction l generalizing g with
  | nil => rfl
  | cons e l ih => rw [setSregs, ih, setSreg_barto]
@[simp] theorem setSregs_phs (g : Group) (l : List (Nat × Word)) : (g.setSregs l).phs = g.phs := by
  induction l generalizing g with
  | nil => rfl
  | cons e l ih => rw [setSregs, ih, setSreg_phs]
@[simp] theorem setSregs_reply (g : Group) (l : List (Nat × Word)) : (g.setSregs l).reply = g.reply := by
  induction l generalizing g with
  | nil => rfl
  | cons e l ih => rw [setSregs, ih, setSreg_reply]
@[simp] theorem setSregs_savep (g : Group) (l : List (Nat × Word)) : (g.setSregs l).savep = g.savep := by
  induction l generalizing g with
  | nil => rfl
  | cons e l ih => rw [setSregs, ih, setSreg_savep]
@[simp] theorem setSregs_slice (g : Group) (l : List (Nat × Word)) : (g.setSregs l).slice = g.slice := by
  induction l generalizing g with
  | nil => rfl
  | cons e l ih => rw [setSregs, ih, setSreg_slice]
@[simp] theorem setSregs_seq (g : Group) (l : List (Nat × Word)) : (g.setSregs l).seq = g.seq := by
  induction l generalizing g with
  | nil => rfl
  | cons e l ih => rw [setSregs, ih, setSreg_seq]
@[simp] theorem setSregs_called (g : Group) (l : List (Nat × Word)) : (g.setSregs l).called = g.called := by
  induction l generalizing g with
  | nil => rfl
  | cons e l ih => rw [setSregs, ih, setSreg_called]
@[simp] theorem setSregs_mflags (g : Group) (l : List (Nat × Word)) : (g.setSregs l).mflags = g.mflags := by
  induction l generalizing g with
  | nil => rfl
  | cons e l ih => rw [setSregs, ih, setSreg_mflags]
@[simp] theorem setSregs_mqueue (g : Group) (l : List (Nat × Word)) : (g.setSregs l).mqueue = g.mqueue := by
  induction l generalizing g with
  | nil => rfl
  | cons e l ih => rw [setSregs, ih, setSreg_mqueue]
@[simp] theorem setSregs_tiles (g : Group) (l : List (Nat × Word)) : (g.setSregs l).tiles = g.tiles := by
  induction l generalizing g with
  | nil => rfl
  | cons e l ih => rw [setSregs, ih, setSreg_tiles]
@[simp] theorem setSregs_tileRecs (g : Group) (l : List (Nat × Word)) : (g.setSregs l).tileRecs = g.tileRecs := by
  induction l generalizing g with
  | nil => rfl
  | cons e l ih => rw [setSregs, ih, setSreg_tileRecs]
@[simp] theorem setSregs_accs (g : Group) (l : List (Nat × Word)) : (g.setSregs l).accs = g.accs := by
  induction l generalizing g with
  | nil => rfl
  | cons e l ih => rw [setSregs, ih, setSreg_accs]
@[simp] theorem setSregs_rays (g : Group) (l : List (Nat × Word)) : (g.setSregs l).rays = g.rays := by
  induction l generalizing g with
  | nil => rfl
  | cons e l ih => rw [setSregs, ih, setSreg_rays]
@[simp] theorem setSregs_norms (g : Group) (l : List (Nat × Word)) : (g.setSregs l).norms = g.norms := by
  induction l generalizing g with
  | nil => rfl
  | cons e l ih => rw [setSregs, ih, setSreg_norms]
@[simp] theorem setSregs_gen (g : Group) (l : List (Nat × Word)) : (g.setSregs l).gen = g.gen := by
  induction l generalizing g with
  | nil => rfl
  | cons e l ih => rw [setSregs, ih, setSreg_gen]
@[simp] theorem setSregs_doms (g : Group) (l : List (Nat × Word)) : (g.setSregs l).doms = g.doms := by
  induction l generalizing g with
  | nil => rfl
  | cons e l ih => rw [setSregs, ih, setSreg_doms]
@[simp] theorem setSregs_spec (g : Group) (l : List (Nat × Word)) : (g.setSregs l).spec = g.spec := by
  induction l generalizing g with
  | nil => rfl
  | cons e l ih => rw [setSregs, ih, setSreg_spec]
@[simp] theorem setSregs_path (g : Group) (l : List (Nat × Word)) : (g.setSregs l).path = g.path := by
  induction l generalizing g with
  | nil => rfl
  | cons e l ih => rw [setSregs, ih, setSreg_path]
@[simp] theorem setSregs_spadPath (g : Group) (l : List (Nat × Word)) : (g.setSregs l).spadPath = g.spadPath := by
  induction l generalizing g with
  | nil => rfl
  | cons e l ih => rw [setSregs, ih, setSreg_spadPath]
@[simp] theorem setSregs_triggered (g : Group) (l : List (Nat × Word)) : (g.setSregs l).triggered = g.triggered := by
  induction l generalizing g with
  | nil => rfl
  | cons e l ih => rw [setSregs, ih, setSreg_triggered]
@[simp] theorem setSregs_qr (g : Group) (l : List (Nat × Word)) : (g.setSregs l).qr = g.qr := by
  induction l generalizing g with
  | nil => rfl
  | cons e l ih => rw [setSregs, ih, setSreg_qr]
@[simp] theorem setSregs_copies (g : Group) (l : List (Nat × Word)) : (g.setSregs l).copies = g.copies := by
  induction l generalizing g with
  | nil => rfl
  | cons e l ih => rw [setSregs, ih, setSreg_copies]
@[simp] theorem setSregs_active (g : Group) (l : List (Nat × Word)) : (g.setSregs l).active = g.active := by
  induction l generalizing g with
  | nil => rfl
  | cons e l ih => rw [setSregs, ih, setSreg_active]
@[simp] theorem setSregs_ready (g : Group) (l : List (Nat × Word)) : (g.setSregs l).ready = g.ready := by
  induction l generalizing g with
  | nil => rfl
  | cons e l ih => rw [setSregs, ih, setSreg_ready]
@[simp] theorem setSregs_lastIssue (g : Group) (l : List (Nat × Word)) : (g.setSregs l).lastIssue = g.lastIssue := by
  induction l generalizing g with
  | nil => rfl
  | cons e l ih => rw [setSregs, ih, setSreg_lastIssue]
@[simp] theorem setSregs_parked (g : Group) (l : List (Nat × Word)) : (g.setSregs l).parked = g.parked := by
  induction l generalizing g with
  | nil => rfl
  | cons e l ih => rw [setSregs, ih, setSreg_parked]
@[simp] theorem setSregs_preempt (g : Group) (l : List (Nat × Word)) : (g.setSregs l).preempt = g.preempt := by
  induction l generalizing g with
  | nil => rfl
  | cons e l ih => rw [setSregs, ih, setSreg_preempt]
@[simp] theorem setSregs_shadow (g : Group) (l : List (Nat × Word)) : (g.setSregs l).shadow = g.shadow := by
  induction l generalizing g with
  | nil => rfl
  | cons e l ih => rw [setSregs, ih, setSreg_shadow]

end Group

end Sys2Proof.Machine
end

