-- ==== Sys2Proof/Laws/Registers.lean ====
section
/-! SUPPORT. Reading registers and predicates after writing them (01 R9, R12): the constants vz, sz and p15, pairs, and that a write
leaves every other register alone. -/

namespace Sys2Proof

@[simp] theorem ofWords_hi_lo (x : DWord) : ofWords (hiWord x) (loWord x) = x := by
  unfold ofWords hiWord loWord
  apply BitVec.eq_of_getLsbD_eq
  intro i hi
  rw [BitVec.getLsbD_append]
  by_cases h : i < 32
  · simp [h]
  · simp only [h, BitVec.getLsbD_extractLsb']
    have h1 : i - 32 < 32 := by omega
    have h2 : 32 + (i - 32) = i := by omega
    simp [h1, h2]

@[simp] theorem loWord_setWidth (w : Word) : loWord (w.setWidth 64) = w := by
  apply BitVec.eq_of_getLsbD_eq
  intro i hi
  simp only [loWord, BitVec.getLsbD_extractLsb', hi, decide_true, Bool.true_and, BitVec.getLsbD_setWidth, Nat.zero_add]
  simp [show i < 64 by omega]

namespace Machine

@[simp] theorem Thread.reg_setReg (t : Thread) (n : Nat) (x : Word) (m : Nat) :
    (t.setReg n x).reg m = if m = n then (if n = 255 then 0 else x) else t.reg m := by
  unfold Thread.setReg Thread.reg
  by_cases hn : n = 255
  · subst hn
    by_cases hm : m = 255 <;> simp [hm]
  · by_cases hm : m = n
    · subst hm; simp [hn]
    · simp [hn, hm]

theorem Thread.reg64_setReg64 (t : Thread) (n : Nat) (x : DWord) (h : n + 1 ≠ 255) :
    (t.setReg64 n x).reg64 n = if n = 255 then 0 else x := by
  unfold Thread.setReg64 Thread.reg64
  by_cases hn : n = 255
  · simp [hn]
  · simp [hn, h]

theorem Thread.reg_setReg64 (t : Thread) (n : Nat) (x : DWord) (m : Nat) (h1 : m ≠ n) (h2 : m ≠ n + 1) :
    (t.setReg64 n x).reg m = t.reg m := by
  unfold Thread.setReg64
  split
  · rfl
  · rw [Thread.reg_setReg, Thread.reg_setReg]; simp [h1, h2]

/-- A thread whose registers alone were written is the same but for them. -/
@[simp] theorem Thread.setReg_regs (t : Thread) (n : Nat) (x : Word) : { t.setReg n x with regs := t.regs } = t := by
  unfold Thread.setReg; split <;> rfl

@[simp] theorem Thread.setReg64_regs (t : Thread) (n : Nat) (x : DWord) : { t.setReg64 n x with regs := t.regs } = t := by
  unfold Thread.setReg64 Thread.setReg
  by_cases h1 : n = 255
  · simp [h1]
  · by_cases h2 : n + 1 = 255 <;> simp [h1, h2]

/-- The bits of a predicate register after one was written. -/
theorem pred_bits (p : BitVec 15) (n m : Nat) (b : Bool) (hn : n < 15) (hm : m < 15) :
    (BitVec.ofNat 15 ((p.toNat / 2 ^ (n + 1) * 2 + b.toNat) * 2 ^ n + p.toNat % 2 ^ n)).getLsbD m
      = if m = n then b else p.getLsbD m := by
  rw [BitVec.getLsbD_ofNat]
  simp only [hm, decide_true, Bool.true_and]
  have hlt : p.toNat % 2 ^ n < 2 ^ n := Nat.mod_lt _ (Nat.two_pow_pos n)
  rw [Nat.mul_comm (p.toNat / 2 ^ (n + 1) * 2 + b.toNat), Nat.testBit_two_pow_mul_add _ hlt]
  by_cases h : m < n
  · have hne : m ≠ n := by omega
    simp only [h, if_true, hne, if_false, Nat.testBit_mod_two_pow, decide_true, Bool.true_and, BitVec.getLsbD]
  · simp only [h, if_false]
    by_cases he : m = n
    · subst he
      simp only [Nat.sub_self, if_true, Nat.testBit_zero]
      cases b <;> simp
    · simp only [he, if_false]
      obtain ⟨k, hk⟩ : ∃ k, m - n = k + 1 := ⟨m - n - 1, by omega⟩
      rw [hk, Nat.testBit_succ]
      have : (p.toNat / 2 ^ (n + 1) * 2 + b.toNat) / 2 = p.toNat / 2 ^ (n + 1) := by cases b <;> simp <;> omega
      rw [this, Nat.testBit_div_two_pow, BitVec.getLsbD]
      congr 1
      omega

@[simp] theorem Thread.pred_setPred (t : Thread) (n : Nat) (b : Bool) (m : Nat) :
    (t.setPred n b).pred m = if m = n then (if n < 15 then b else true) else t.pred m := by
  unfold Thread.setPred Thread.pred
  by_cases hn : n < 15
  · by_cases hm : m < 15
    · simp only [hn, hm, if_true]; exact pred_bits t.preds n m b hn hm
    · have : m ≠ n := by omega
      simp [hm, this]
  · by_cases hm : m = n
    · simp [hm, hn]
    · simp [hn, hm]

@[simp] theorem Thread.setPred_preds (t : Thread) (n : Nat) (b : Bool) : { t.setPred n b with preds := t.preds } = t := by
  unfold Thread.setPred; split <;> rfl

@[simp] theorem Group.sreg_setSreg (g : Group) (n : Nat) (x : Word) (m : Nat) :
    (g.setSreg n x).sreg m = if m = n then (if n = 127 then 0 else x) else g.sreg m := by
  unfold Group.setSreg Group.sreg
  by_cases hn : n = 127
  · subst hn
    by_cases hm : m = 127 <;> simp [hm]
  · by_cases hm : m = n
    · subst hm; simp [hn]
    · simp [hn, hm]

@[simp] theorem Group.setSreg_same (g : Group) (n : Nat) (x : Word) : { g.setSreg n x with sregs := g.sregs } = g := by
  unfold Group.setSreg; split <;> rfl

theorem Group.setSregs_same (g : Group) (l : List (Nat × Word)) : { g.setSregs l with sregs := g.sregs } = g := by
  obtain ⟨⟩ := g
  simp

/-- A register read after a write to none of the registers it covers is what it was. -/
theorem Group.sreg_setSregs_of_notMem (g : Group) (l : List (Nat × Word)) (m : Nat) (h : ∀ e ∈ l, m ≠ e.1) :
    (g.setSregs l).sreg m = g.sreg m := by
  induction l generalizing g with
  | nil => rfl
  | cons e l ih =>
    obtain ⟨n, x⟩ := e
    rw [Group.setSregs, ih _ (fun e he => h e (List.mem_cons_of_mem _ he)), Group.sreg_setSreg]
    simp [h (n, x) List.mem_cons_self]

end Machine

end Sys2Proof
end

