-- ==== Sys2Proof/Laws/Ops.lean ====
section
/-! SUPPORT. What the shared operations do when no thread of the bundle faults: the instruction's effect on each thread that acts, the
next address for each, and nothing else (04 R75, R85, 08 R143, R149). -/

namespace Sys2Proof.Machine

open Sys2Proof.Safety

namespace State

/-- A bundle without faults raises none. -/
theorem raisedBy_calm {s : State} {f : Fields} {own : Nat → Option Flt} (h : Calm s f own) : s.raisedBy f own = [] := by
  unfold raisedBy
  rw [List.filterMap_eq_nil_iff]
  intro tid ht
  obtain ⟨h1, h2⟩ := h tid ht
  simp [faultOf, h1, h2]

/-- Then every guarded thread acts. -/
theorem acting_calm {s : State} {f : Fields} {own : Nat → Option Flt} (h : Calm s f own) : s.acting f own = s.guarded f := by
  unfold acting
  simp [raisedBy_calm h]

theorem deliverAll_nil (s : State) : s.deliverAll [] = s := rfl

theorem writeScalars_nil (s : State) (gs : List Nat) : s.writeScalars gs (fun _ => []) = s := by
  unfold writeScalars
  have : s.groups.mapKV (fun k g => if gs.contains k then g.setSregs [] else g) = s.groups := by
    unfold Tab.mapKV
    conv => rhs; rw [← List.map_id s.groups]
    apply List.map_congr_left
    intro e _
    simp only [Group.setSregs, ite_self, id_eq]
  rw [this]

/-- A guarded thread of the table is one whose own guard is true. -/
theorem mem_guarded {s : State} {f : Fields} {tid : Nat} {x : Thread} (h : s.threads.get? tid = some x) :
    tid ∈ s.guarded f ↔ tid ∈ s.issue.threads ∧ x.guard f = true := by
  simp [guarded, thread, Tab.getD, h]

theorem mem_unguarded {s : State} {f : Fields} {tid : Nat} {x : Thread} (h : s.threads.get? tid = some x) :
    tid ∈ s.unguarded f ↔ tid ∈ s.issue.threads ∧ x.guard f = false := by
  simp [unguarded, thread, Tab.getD, h]

theorem advanceAll_get? (s : State) (ts : List Nat) (tid : Nat) :
    (s.advanceAll ts).threads.get? tid = (s.threads.get? tid).map (fun x => if tid ∈ ts then goesOn s x else x) := by
  simp [advanceAll, goesOn]

/-- `runPlain` without faults. -/
theorem runPlain_calm {s : State} {f : Fields} {own : Nat → Option Flt} (h : Calm s f own) (act : Nat → Thread → Thread)
    (scal : Nat → List (Nat × Word)) :
    s.runPlain f own act scal =
      ((s.mapThreads (fun tid t => if (s.guarded f).contains tid then act tid t else t)).writeScalars
        (groupsIn (s.guarded f)) scal).advanceAll (s.unguarded f ++ s.guarded f) := by
  unfold runPlain
  simp only [acting_calm h, raisedBy_calm h, deliverAll_nil]

/-- The threads after `runPlain` without faults. -/
theorem runPlain_thread {s : State} {f : Fields} {own : Nat → Option Flt} (h : Calm s f own) (act : Nat → Thread → Thread)
    (scal : Nat → List (Nat × Word)) (tid : Nat) :
    (s.runPlain f own act scal).threads.get? tid = (s.threads.get? tid).map (fun x =>
      if tid ∈ s.issue.threads then (if x.guard f then goesOn s (act tid x) else goesOn s x) else x) := by
  rw [runPlain_calm h, advanceAll_get?]
  simp only [writeScalars_threads, mapThreads_threads, Tab.get?_mapKV]
  cases hx : s.threads.get? tid with
  | none => rfl
  | some x =>
    have h1 := mem_guarded (f := f) hx
    have h2 := mem_unguarded (f := f) hx
    simp only [Option.map_some, List.mem_append, h1, h2, List.contains_eq_mem, goesOn, writeScalars_issue, mapThreads_issue,
      decide_eq_true_eq]
    by_cases hm : tid ∈ s.issue.threads <;> cases hg : x.guard f <;> simp [hm]

/-- The groups after `runPlain` without faults. -/
theorem runPlain_group {s : State} {f : Fields} {own : Nat → Option Flt} (h : Calm s f own) (act : Nat → Thread → Thread)
    (scal : Nat → List (Nat × Word)) (gid : Nat) :
    (s.runPlain f own act scal).groups.get? gid = (s.groups.get? gid).map (fun g =>
      if gid ∈ groupsIn (s.guarded f) then g.setSregs (scal gid) else g) := by
  rw [runPlain_calm h]
  simp [writeScalars]

/-- What `runPlain` without faults leaves alone. -/
theorem runPlain_only {s : State} {f : Fields} {own : Nat → Option Flt} (h : Calm s f own) (act : Nat → Thread → Thread)
    (scal : Nat → List (Nat × Word)) : OnlyRegisters s (s.runPlain f own act scal) where
  rest := by rw [runPlain_calm h]; rfl
  groups := by
    intro gid g hg
    refine ⟨_, by rw [runPlain_group h, hg]; rfl, ?_⟩
    split
    · exact Group.setSregs_same g _
    · rfl
  outside := by
    intro tid ht
    rw [runPlain_thread h]
    cases s.threads.get? tid <;> simp [ht]

/-- `runPlain` without faults and without scalar results changes threads of the bundle alone. -/
theorem runPlain_onlyThreads {s : State} {f : Fields} {own : Nat → Option Flt} (h : Calm s f own) (act : Nat → Thread → Thread) :
    OnlyThreads s (s.runPlain f own act (fun _ => [])) where
  rest := by rw [runPlain_calm h, writeScalars_nil]; rfl
  outside := (runPlain_only h act _).outside

theorem runPlain_acts {s : State} {f : Fields} {own : Nat → Option Flt} (h : Calm s f own) (act : Nat → Thread → Thread)
    (scal : Nat → List (Nat × Word)) {tid : Nat} {x : Thread} (hx : Acts s f tid x) :
    (s.runPlain f own act scal).threads.get? tid = some (goesOn s (act tid x)) := by
  rw [runPlain_thread h, hx.2.1]
  simp [hx.1, hx.2.2]

theorem runPlain_passes {s : State} {f : Fields} {own : Nat → Option Flt} (h : Calm s f own) (act : Nat → Thread → Thread)
    (scal : Nat → List (Nat × Word)) {tid : Nat} {x : Thread} (hx : Passes s f tid x) :
    (s.runPlain f own act scal).threads.get? tid = some (goesOn s x) := by
  rw [runPlain_thread h, hx.2.1]
  simp [hx.1, hx.2.2]

/-- `runState` without faults: the effect over the guarded threads, then the next address. -/
theorem runState_calm {s : State} {f : Fields} {own : Nat → Option Flt} (h : Calm s f own) (eff : List Nat → State → State) :
    s.runState f own eff = (if s.guarded f = [] then s else eff (s.guarded f) s).advanceAll (s.unguarded f ++ s.guarded f) := by
  unfold runState
  simp only [acting_calm h, raisedBy_calm h, deliverAll_nil]

/-- `runFlow` without faults: the effect says where its threads go on. -/
theorem runFlow_calm {s : State} {f : Fields} {own : Nat → Option Flt} (h : Calm s f own) (eff : List Nat → State → State) :
    s.runFlow f own eff = (if s.guarded f = [] then s else eff (s.guarded f) s).advanceAll (s.unguarded f) := by
  unfold runFlow
  simp only [acting_calm h, raisedBy_calm h, deliverAll_nil]

end State

/-! Going on touches neither registers nor predicates nor flags. -/

theorem goesOn_withRegs (s : State) (t : Thread) (r : Tab Word) : goesOn s { t with regs := r } = { goesOn s t with regs := r } := by
  unfold goesOn Thread.advance
  dsimp only
  split
  · split <;> rfl
  · rfl

theorem goesOn_withPreds (s : State) (t : Thread) (r : BitVec 15) :
    goesOn s { t with preds := r } = { goesOn s t with preds := r } := by
  unfold goesOn Thread.advance
  dsimp only
  split
  · split <;> rfl
  · rfl

@[simp] theorem goesOn_regs (s : State) (t : Thread) : (goesOn s t).regs = t.regs := by simp [goesOn]

@[simp] theorem goesOn_preds (s : State) (t : Thread) : (goesOn s t).preds = t.preds := by simp [goesOn]

@[simp] theorem goesOn_reg (s : State) (t : Thread) (n : Nat) : (goesOn s t).reg n = t.reg n := by simp [Thread.reg]

@[simp] theorem goesOn_reg64 (s : State) (t : Thread) (n : Nat) : (goesOn s t).reg64 n = t.reg64 n := by simp [Thread.reg64]

@[simp] theorem goesOn_pred (s : State) (t : Thread) (n : Nat) : (goesOn s t).pred n = t.pred n := by simp [Thread.pred]

/-- A thread whose registers alone were written goes on as it would have. -/
theorem goesOn_frame {s : State} {x y : Thread} (h : { y with regs := x.regs } = x) : { goesOn s y with regs := x.regs } = goesOn s x :=
  (goesOn_withRegs s y x.regs).symm.trans (congrArg (goesOn s) h)

theorem goesOn_framePreds {s : State} {x y : Thread} (h : { y with preds := x.preds } = x) :
    { goesOn s y with preds := x.preds } = goesOn s x :=
  (goesOn_withPreds s y x.preds).symm.trans (congrArg (goesOn s) h)

/-- A register written by an instruction. -/
theorem wroteReg_setReg (s : State) (x : Thread) (d : Nat) (v : Word) : WroteReg s x (goesOn s (x.setReg d v)) d v where
  frame := goesOn_frame (Thread.setReg_regs x d v)
  value := by simp
  others := by intro n hn; simp [hn]

theorem wrotePair_setReg64 (s : State) (x : Thread) (d : Nat) (v : DWord) (hd : d + 1 ≠ 255) :
    WrotePair s x (goesOn s (x.setReg64 d v)) d v where
  frame := goesOn_frame (Thread.setReg64_regs x d v)
  value := by rw [goesOn_reg64, Thread.reg64_setReg64 x d v hd]
  others := by intro n h1 h2; rw [goesOn_reg, Thread.reg_setReg64 x d v n h1 h2]

theorem wrotePred_setPred (s : State) (x : Thread) (d : Nat) (v : Bool) : WrotePred s x (goesOn s (x.setPred d v)) d v where
  frame := goesOn_framePreds (Thread.setPred_preds x d v)
  value := by simp
  others := by intro n hn; simp [hn]

/-- The threads of a group among the guarded ones. -/
theorem mem_groupsIn {ts : List Nat} {gid : Nat} : gid ∈ State.groupsIn ts ↔ ∃ tid ∈ ts, gidOf tid = gid := by
  simp [State.groupsIn]

/-- The thread picked for a scalar result is one of the group's that act. -/
theorem pick_mem (s : State) {ts : List Nat} {gid : Nat} (h : ∃ tid ∈ ts, gidOf tid = gid) :
    s.pick (ofGroup ts gid) ∈ ts ∧ gidOf (s.pick (ofGroup ts gid)) = gid := by
  have hne : 0 < (ofGroup ts gid).length := by
    obtain ⟨tid, h1, h2⟩ := h
    exact List.length_pos_of_mem (a := tid) (by simp [ofGroup, h1, h2])
  have hlt := Nat.mod_lt (Config.pick s.turn) hne
  have hm : s.pick (ofGroup ts gid) ∈ ofGroup ts gid := by
    unfold State.pick
    rw [List.getD_eq_getElem?_getD, List.getElem?_eq_getElem hlt]
    exact List.getElem_mem _
  simpa [ofGroup] using hm

/-- What one scalar result leaves in a group (R9, R143). -/
theorem wroteScalar_toScal (g : Group) (f : Fields) (v : DWord) (hc : f.cd = true) :
    WroteScalar g (g.setSregs (f.toScal false v)) f.d (loWord v) := by
  unfold Fields.toScal
  by_cases hd : f.d = 127
  · simp only [hc, hd, Bool.not_true, Bool.false_or, beq_self_eq_true, if_true, Group.setSregs]
    exact ⟨by simp [Group.sreg], fun n _ => rfl⟩
  · simp only [hc, Bool.not_true, Bool.false_or, beq_iff_eq, hd, if_false, Bool.false_eq_true, Group.setSregs]
    exact ⟨by simp, fun n hn => by simp [hn]⟩

theorem wroteScalarPair_toScal (g : Group) (f : Fields) (v : DWord) (hc : f.cd = true) (h1 : f.d + 1 ≠ 127) :
    WroteScalarPair g (g.setSregs (f.toScal true v)) f.d v := by
  unfold Fields.toScal
  by_cases hd : f.d = 127
  · simp only [hc, hd, Bool.not_true, Bool.false_or, beq_self_eq_true, if_true, Group.setSregs]
    exact ⟨by simp [Group.sreg64], fun n _ _ => rfl⟩
  · simp only [hc, Bool.not_true, Bool.false_or, beq_iff_eq, hd, if_false, if_true, Group.setSregs]
    refine ⟨by simp [Group.sreg64, hd, h1], fun n h2 h3 => by simp [h2, h3]⟩

/-- An encoding without a decoding fault keeps the rules on its fields (R85). -/
theorem fieldsOk_of_decodeFault {s : State} {f : Fields} {tid : Nat} (h : s.decodeFault f tid = none) :
    fieldsOk (s.widthOf (gidOf tid)) f = true := by
  unfold State.decodeFault at h
  cases hf : fieldsOk (s.widthOf (gidOf tid)) f with
  | true => rfl
  | false => simp [hf] at h

/-- Then a pair D does not run over the end of its register file (R12). -/
theorem pair_of_fieldsOk {w : Nat} {f : Fields} (h : fieldsOk w f = true) {v sc : Bool} (hd : (opnds w f).d = .reg v sc 2 2) :
    (f.cd = false → f.d + 1 ≠ 255) ∧ (f.cd = true → f.d + 1 ≠ 127) := by
  have hs : slotOk (.reg v sc 2 2) f.d f.cd = true := by
    unfold fieldsOk at h
    simp only [Bool.and_eq_true, hd] at h
    exact h.1.1.1.1.1.1.1.1.2
  constructor <;> intro hc <;> simp [slotOk, regOk, hc] at hs <;> omega

/-- AN INSTRUCTION WITH ONE REGISTER RESULT, without faults (R8, R88, R143). -/
theorem runValue_calm {s : State} {f : Fields} {own : Nat → Option Flt} (h : Calm s f own) (wide : Bool)
    (val : Group → Thread → DWord)
    (hd : ∀ tid ∈ s.guarded f, wide = true → (f.cd = false → f.d + 1 ≠ 255) ∧ (f.cd = true → f.d + 1 ≠ 127)) :
    RegResult s (s.runValue f own wide val) f wide val := by
  unfold State.runValue
  rw [State.acting_calm h]
  dsimp only
  refine ⟨State.runPlain_only h _ _, fun tid x hx => ?_, fun hc => ⟨?_, fun tid x hx => ?_⟩, fun hc => ⟨fun tid x hx => ?_, ?_⟩⟩
  · exact State.runPlain_passes h _ _ hx
  · have : (fun gid => f.toScal wide (val (s.group gid) (s.thread (s.pick (ofGroup (s.guarded f) gid))))) = fun _ => [] := by
      funext gid; simp [Fields.toScal, hc]
    rw [this, State.runPlain_calm h, State.writeScalars_nil]
    rfl
  · refine ⟨_, State.runPlain_acts h _ _ hx, fun hw => ?_, fun hw => ?_⟩
    · simp only [Fields.toVec, hc, hw, Bool.false_eq_true, if_false]
      exact wroteReg_setReg s x f.d _
    · simp only [Fields.toVec, hc, hw, Bool.false_eq_true, if_false, if_true]
      exact wrotePair_setReg64 s x f.d _ ((hd tid ((State.mem_guarded hx.2.1).2 ⟨hx.1, hx.2.2⟩) hw).1 hc)
  · rw [State.runPlain_acts h _ _ hx]
    simp [Fields.toVec, hc]
  · intro gid g hg
    have hgr : s.group gid = g := by simp [State.group, Tab.getD, hg]
    refine ⟨_, by rw [State.runPlain_group h, hg]; rfl, fun hn => ?_, fun hy => ?_⟩
    · have : gid ∉ State.groupsIn (s.guarded f) := by rw [mem_groupsIn]; rintro ⟨t, ht, he⟩; exact hn t ht he
      simp [this]
    · have hin : gid ∈ State.groupsIn (s.guarded f) := mem_groupsIn.2 hy
      obtain ⟨hp1, hp2⟩ := pick_mem s hy
      refine ⟨_, hp1, hp2, fun hw => ?_, fun hw => ?_⟩
      · simp only [hin, if_true, hgr, hw]
        exact wroteScalar_toScal g f _ hc
      · simp only [hin, if_true, hgr, hw]
        exact wroteScalarPair_toScal g f _ hc ((hd _ hp1 hw).2 hc)

/-- AN INSTRUCTION THAT WRITES PREDICATE D, without faults. -/
theorem runPred_calm {s : State} {f : Fields} {own : Nat → Option Flt} (h : Calm s f own) (val : Group → Thread → Bool) :
    PredResult s (s.runPred f own val) f f.d val where
  only := State.runPlain_onlyThreads h _
  acts := by
    intro tid x hx
    exact ⟨_, State.runPlain_acts h _ _ hx, wrotePred_setPred s x f.d _⟩
  passes := fun tid x hx => State.runPlain_passes h _ _ hx

end Sys2Proof.Machine
end

