-- ==== Sys2Proof/Laws/PerInstr.lean ====
section
/-! SUPPORT. One law for each constructor of Instr: its View, read back, is the instruction (04 R62 to R74, R83); an event of the
table has no encoding. -/

namespace Sys2Proof.Laws.View

/-- A well-formed instruction is the instruction of its View, or an event. -/
def Statement (i : Instr) : Prop := i.wf = true → i.view = .event ∨ i.view.instr? = some i

theorem nop (f : OpF) : Statement (Instr.nop f) := by
  intro _; exact Or.inr rfl

theorem nopX (f : XForm OpF) : Statement (Instr.nopX f) := by
  intro _; exact Or.inr rfl

theorem hint (fields : BitVec 24) : Statement (Instr.hint fields) := by
  intro _; exact Or.inr rfl

theorem hintLong (words : RawWords) : Statement (Instr.hintLong words) := by
  intro _; exact Or.inr rfl

theorem iadd (f : OpF) : Statement (Instr.iadd f) := by
  intro _; exact Or.inr rfl

theorem iaddX (f : XForm OpF) : Statement (Instr.iaddX f) := by
  intro _; exact Or.inr rfl

theorem isub (f : OpF) : Statement (Instr.isub f) := by
  intro _; exact Or.inr rfl

theorem isubX (f : XForm OpF) : Statement (Instr.isubX f) := by
  intro _; exact Or.inr rfl

theorem imul (f : OpF) : Statement (Instr.imul f) := by
  intro _; exact Or.inr rfl

theorem imulX (f : XForm OpF) : Statement (Instr.imulX f) := by
  intro _; exact Or.inr rfl

theorem imulh (f : OpF) : Statement (Instr.imulh f) := by
  intro _; exact Or.inr rfl

theorem imulhX (f : XForm OpF) : Statement (Instr.imulhX f) := by
  intro _; exact Or.inr rfl

theorem imin (f : OpF) : Statement (Instr.imin f) := by
  intro _; exact Or.inr rfl

theorem iminX (f : XForm OpF) : Statement (Instr.iminX f) := by
  intro _; exact Or.inr rfl

theorem imax (f : OpF) : Statement (Instr.imax f) := by
  intro _; exact Or.inr rfl

theorem imaxX (f : XForm OpF) : Statement (Instr.imaxX f) := by
  intro _; exact Or.inr rfl

theorem idiv (f : OpF) : Statement (Instr.idiv f) := by
  intro _; exact Or.inr rfl

theorem idivX (f : XForm OpF) : Statement (Instr.idivX f) := by
  intro _; exact Or.inr rfl

theorem irem (f : OpF) : Statement (Instr.irem f) := by
  intro _; exact Or.inr rfl

theorem iremX (f : XForm OpF) : Statement (Instr.iremX f) := by
  intro _; exact Or.inr rfl

theorem and (f : OpF) : Statement (Instr.and f) := by
  intro _; exact Or.inr rfl

theorem andX (f : XForm OpF) : Statement (Instr.andX f) := by
  intro _; exact Or.inr rfl

theorem or (f : OpF) : Statement (Instr.or f) := by
  intro _; exact Or.inr rfl

theorem orX (f : XForm OpF) : Statement (Instr.orX f) := by
  intro _; exact Or.inr rfl

theorem xor (f : OpF) : Statement (Instr.xor f) := by
  intro _; exact Or.inr rfl

theorem xorX (f : XForm OpF) : Statement (Instr.xorX f) := by
  intro _; exact Or.inr rfl

theorem andn (f : OpF) : Statement (Instr.andn f) := by
  intro _; exact Or.inr rfl

theorem andnX (f : XForm OpF) : Statement (Instr.andnX f) := by
  intro _; exact Or.inr rfl

theorem shl (f : OpF) : Statement (Instr.shl f) := by
  intro _; exact Or.inr rfl

theorem shlX (f : XForm OpF) : Statement (Instr.shlX f) := by
  intro _; exact Or.inr rfl

theorem shr (f : OpF) : Statement (Instr.shr f) := by
  intro _; exact Or.inr rfl

theorem shrX (f : XForm OpF) : Statement (Instr.shrX f) := by
  intro _; exact Or.inr rfl

theorem asr (f : OpF) : Statement (Instr.asr f) := by
  intro _; exact Or.inr rfl

theorem asrX (f : XForm OpF) : Statement (Instr.asrX f) := by
  intro _; exact Or.inr rfl

theorem rot (f : OpF) : Statement (Instr.rot f) := by
  intro _; exact Or.inr rfl

theorem rotX (f : XForm OpF) : Statement (Instr.rotX f) := by
  intro _; exact Or.inr rfl

theorem clz (f : OpF) : Statement (Instr.clz f) := by
  intro _; exact Or.inr rfl

theorem clzX (f : XForm OpF) : Statement (Instr.clzX f) := by
  intro _; exact Or.inr rfl

theorem popc (f : OpF) : Statement (Instr.popc f) := by
  intro _; exact Or.inr rfl

theorem popcX (f : XForm OpF) : Statement (Instr.popcX f) := by
  intro _; exact Or.inr rfl

theorem brev (f : OpF) : Statement (Instr.brev f) := by
  intro _; exact Or.inr rfl

theorem brevX (f : XForm OpF) : Statement (Instr.brevX f) := by
  intro _; exact Or.inr rfl

theorem bfx (f : OpF) : Statement (Instr.bfx f) := by
  intro _; exact Or.inr rfl

theorem bfxX (f : XForm OpF) : Statement (Instr.bfxX f) := by
  intro _; exact Or.inr rfl

theorem bfi (f : EForm) : Statement (Instr.bfi f) := by
  intro _; exact Or.inr rfl

theorem iabs (f : OpF) : Statement (Instr.iabs f) := by
  intro _; exact Or.inr rfl

theorem iabsX (f : XForm OpF) : Statement (Instr.iabsX f) := by
  intro _; exact Or.inr rfl

theorem imad (f : EForm) : Statement (Instr.imad f) := by
  intro _; exact Or.inr rfl

theorem lea (f : OpF) : Statement (Instr.lea f) := by
  intro _; exact Or.inr rfl

theorem leaX (f : XForm OpF) : Statement (Instr.leaX f) := by
  intro _; exact Or.inr rfl

theorem icmp (cond : BitVec 3) (f : OpF) : Statement (Instr.icmp cond f) := by
  intro _; exact Or.inr (by simp [Instr.view, View.instr?, opInstr, cond.isLt])

theorem icmpX (cond : BitVec 3) (f : XForm OpF) : Statement (Instr.icmpX cond f) := by
  intro _; exact Or.inr (by simp [Instr.view, View.instr?, opInstrX, cond.isLt])

theorem pand (f : OpF) : Statement (Instr.pand f) := by
  intro _; exact Or.inr rfl

theorem pandX (f : XForm OpF) : Statement (Instr.pandX f) := by
  intro _; exact Or.inr rfl

theorem por (f : OpF) : Statement (Instr.por f) := by
  intro _; exact Or.inr rfl

theorem porX (f : XForm OpF) : Statement (Instr.porX f) := by
  intro _; exact Or.inr rfl

theorem pxor (f : OpF) : Statement (Instr.pxor f) := by
  intro _; exact Or.inr rfl

theorem pxorX (f : XForm OpF) : Statement (Instr.pxorX f) := by
  intro _; exact Or.inr rfl

theorem pnot (f : OpF) : Statement (Instr.pnot f) := by
  intro _; exact Or.inr rfl

theorem pnotX (f : XForm OpF) : Statement (Instr.pnotX f) := by
  intro _; exact Or.inr rfl

theorem pmov (f : OpF) : Statement (Instr.pmov f) := by
  intro _; exact Or.inr rfl

theorem pmovX (f : XForm OpF) : Statement (Instr.pmovX f) := by
  intro _; exact Or.inr rfl

theorem ppack (f : OpF) : Statement (Instr.ppack f) := by
  intro _; exact Or.inr rfl

theorem ppackX (f : XForm OpF) : Statement (Instr.ppackX f) := by
  intro _; exact Or.inr rfl

theorem punpk (f : OpF) : Statement (Instr.punpk f) := by
  intro _; exact Or.inr rfl

theorem punpkX (f : XForm OpF) : Statement (Instr.punpkX f) := by
  intro _; exact Or.inr rfl

theorem mov (f : OpF) : Statement (Instr.mov f) := by
  intro _; exact Or.inr rfl

theorem movX (f : XForm OpF) : Statement (Instr.movX f) := by
  intro _; exact Or.inr rfl

theorem movi (f : OpF) : Statement (Instr.movi f) := by
  intro _; exact Or.inr rfl

theorem moviX (f : XForm OpF) : Statement (Instr.moviX f) := by
  intro _; exact Or.inr rfl

theorem sel (f : EForm) : Statement (Instr.sel f) := by
  intro _; exact Or.inr rfl

theorem movs (f : OpF) : Statement (Instr.movs f) := by
  intro _; exact Or.inr rfl

theorem movsX (f : XForm OpF) : Statement (Instr.movsX f) := by
  intro _; exact Or.inr rfl

theorem srd (f : OpF) : Statement (Instr.srd f) := by
  intro h; refine Or.inr ?_; simp [Instr.wf] at h; simp [Instr.view, View.instr?, opInstr, h]

theorem srdX (f : XForm OpF) : Statement (Instr.srdX f) := by
  intro h; refine Or.inr ?_; simp [Instr.wf] at h; simp [Instr.view, View.instr?, opInstrX, h]

theorem swr (f : OpF) : Statement (Instr.swr f) := by
  intro h; refine Or.inr ?_; simp [Instr.wf] at h; simp [Instr.view, View.instr?, opInstr, h]

theorem swrX (f : XForm OpF) : Statement (Instr.swrX f) := by
  intro h; refine Or.inr ?_; simp [Instr.wf] at h; simp [Instr.view, View.instr?, opInstrX, h]

theorem clkLoRead (f : AnyForm) : Statement (Instr.clkLoRead f) := by
  intro h; refine Or.inr ?_; cases f <;> simp [Instr.wf] at h <;> simp [Instr.view, View.instr?, opInstr, opInstrX, h]

theorem thndWrite (f : AnyForm) : Statement (Instr.thndWrite f) := by
  intro h; refine Or.inr ?_; cases f <;> simp [Instr.wf] at h <;> simp [Instr.view, View.instr?, opInstr, opInstrX, h]

theorem fadd (f : OpF) : Statement (Instr.fadd f) := by
  intro _; exact Or.inr rfl

theorem faddX (f : XForm OpF) : Statement (Instr.faddX f) := by
  intro _; exact Or.inr rfl

theorem fsub (f : OpF) : Statement (Instr.fsub f) := by
  intro _; exact Or.inr rfl

theorem fsubX (f : XForm OpF) : Statement (Instr.fsubX f) := by
  intro _; exact Or.inr rfl

theorem fmul (f : OpF) : Statement (Instr.fmul f) := by
  intro _; exact Or.inr rfl

theorem fmulX (f : XForm OpF) : Statement (Instr.fmulX f) := by
  intro _; exact Or.inr rfl

theorem ffma (f : EForm) : Statement (Instr.ffma f) := by
  intro _; exact Or.inr rfl

theorem fmin (f : OpF) : Statement (Instr.fmin f) := by
  intro _; exact Or.inr rfl

theorem fminX (f : XForm OpF) : Statement (Instr.fminX f) := by
  intro _; exact Or.inr rfl

theorem fmax (f : OpF) : Statement (Instr.fmax f) := by
  intro _; exact Or.inr rfl

theorem fmaxX (f : XForm OpF) : Statement (Instr.fmaxX f) := by
  intro _; exact Or.inr rfl

theorem fcpys (f : OpF) : Statement (Instr.fcpys f) := by
  intro _; exact Or.inr rfl

theorem fcpysX (f : XForm OpF) : Statement (Instr.fcpysX f) := by
  intro _; exact Or.inr rfl

theorem fdiv (f : OpF) : Statement (Instr.fdiv f) := by
  intro _; exact Or.inr rfl

theorem fdivX (f : XForm OpF) : Statement (Instr.fdivX f) := by
  intro _; exact Or.inr rfl

theorem frcp (f : OpF) : Statement (Instr.frcp f) := by
  intro _; exact Or.inr rfl

theorem frcpX (f : XForm OpF) : Statement (Instr.frcpX f) := by
  intro _; exact Or.inr rfl

theorem frsq (f : OpF) : Statement (Instr.frsq f) := by
  intro _; exact Or.inr rfl

theorem frsqX (f : XForm OpF) : Statement (Instr.frsqX f) := by
  intro _; exact Or.inr rfl

theorem fsqrt (f : OpF) : Statement (Instr.fsqrt f) := by
  intro _; exact Or.inr rfl

theorem fsqrtX (f : XForm OpF) : Statement (Instr.fsqrtX f) := by
  intro _; exact Or.inr rfl

theorem fexp2 (f : OpF) : Statement (Instr.fexp2 f) := by
  intro _; exact Or.inr rfl

theorem fexp2X (f : XForm OpF) : Statement (Instr.fexp2X f) := by
  intro _; exact Or.inr rfl

theorem flog2 (f : OpF) : Statement (Instr.flog2 f) := by
  intro _; exact Or.inr rfl

theorem flog2X (f : XForm OpF) : Statement (Instr.flog2X f) := by
  intro _; exact Or.inr rfl

theorem fsin (f : OpF) : Statement (Instr.fsin f) := by
  intro _; exact Or.inr rfl

theorem fsinX (f : XForm OpF) : Statement (Instr.fsinX f) := by
  intro _; exact Or.inr rfl

theorem fcos (f : OpF) : Statement (Instr.fcos f) := by
  intro _; exact Or.inr rfl

theorem fcosX (f : XForm OpF) : Statement (Instr.fcosX f) := by
  intro _; exact Or.inr rfl

theorem ftanh (f : OpF) : Statement (Instr.ftanh f) := by
  intro _; exact Or.inr rfl

theorem ftanhX (f : XForm OpF) : Statement (Instr.ftanhX f) := by
  intro _; exact Or.inr rfl

theorem frnd (f : OpF) : Statement (Instr.frnd f) := by
  intro _; exact Or.inr rfl

theorem frndX (f : XForm OpF) : Statement (Instr.frndX f) := by
  intro _; exact Or.inr rfl

theorem fclass (f : OpF) : Statement (Instr.fclass f) := by
  intro _; exact Or.inr rfl

theorem fclassX (f : XForm OpF) : Statement (Instr.fclassX f) := by
  intro _; exact Or.inr rfl

theorem fcmp (f : EForm) : Statement (Instr.fcmp f) := by
  intro _; exact Or.inr rfl

theorem fldexp (f : OpF) : Statement (Instr.fldexp f) := by
  intro _; exact Or.inr rfl

theorem fldexpX (f : XForm OpF) : Statement (Instr.fldexpX f) := by
  intro _; exact Or.inr rfl

theorem fgetexp (f : OpF) : Statement (Instr.fgetexp f) := by
  intro _; exact Or.inr rfl

theorem fgetexpX (f : XForm OpF) : Statement (Instr.fgetexpX f) := by
  intro _; exact Or.inr rfl

theorem fgetman (f : OpF) : Statement (Instr.fgetman f) := by
  intro _; exact Or.inr rfl

theorem fgetmanX (f : XForm OpF) : Statement (Instr.fgetmanX f) := by
  intro _; exact Or.inr rfl

theorem cvt (f : EForm) : Statement (Instr.cvt f) := by
  intro _; exact Or.inr rfl

theorem cvtpk (f : EForm) : Statement (Instr.cvtpk f) := by
  intro _; exact Or.inr rfl

theorem cvtxp (f : EForm) : Statement (Instr.cvtxp f) := by
  intro _; exact Or.inr rfl

theorem bra (f : BrF) : Statement (Instr.bra f) := by
  intro _; exact Or.inr rfl

theorem braX (f : XForm BrF) : Statement (Instr.braX f) := by
  intro _; exact Or.inr rfl

theorem call (f : BrF) : Statement (Instr.call f) := by
  intro _; exact Or.inr rfl

theorem callX (f : XForm BrF) : Statement (Instr.callX f) := by
  intro _; exact Or.inr rfl

theorem ret (f : OpF) : Statement (Instr.ret f) := by
  intro _; exact Or.inr rfl

theorem retX (f : XForm OpF) : Statement (Instr.retX f) := by
  intro _; exact Or.inr rfl

theorem jmpi (f : OpF) : Statement (Instr.jmpi f) := by
  intro _; exact Or.inr rfl

theorem jmpiX (f : XForm OpF) : Statement (Instr.jmpiX f) := by
  intro _; exact Or.inr rfl

theorem calli (f : OpF) : Statement (Instr.calli f) := by
  intro _; exact Or.inr rfl

theorem calliX (f : XForm OpF) : Statement (Instr.calliX f) := by
  intro _; exact Or.inr rfl

theorem enter (f : OpF) : Statement (Instr.enter f) := by
  intro _; exact Or.inr rfl

theorem enterX (f : XForm OpF) : Statement (Instr.enterX f) := by
  intro _; exact Or.inr rfl

theorem leave (f : OpF) : Statement (Instr.leave f) := by
  intro _; exact Or.inr rfl

theorem leaveX (f : XForm OpF) : Statement (Instr.leaveX f) := by
  intro _; exact Or.inr rfl

theorem rep (f : OpF) : Statement (Instr.rep f) := by
  intro _; exact Or.inr rfl

theorem repX (f : XForm OpF) : Statement (Instr.repX f) := by
  intro _; exact Or.inr rfl

theorem trap (f : OpF) : Statement (Instr.trap f) := by
  intro _; exact Or.inr rfl

theorem trapX (f : XForm OpF) : Statement (Instr.trapX f) := by
  intro _; exact Or.inr rfl

theorem exit (f : OpF) : Statement (Instr.exit f) := by
  intro _; exact Or.inr rfl

theorem exitX (f : XForm OpF) : Statement (Instr.exitX f) := by
  intro _; exact Or.inr rfl

theorem ld (f : MemF) : Statement (Instr.ld f) := by
  intro _; exact Or.inr rfl

theorem ldX (f : XForm MemF) : Statement (Instr.ldX f) := by
  intro _; exact Or.inr rfl

theorem st (f : MemF) : Statement (Instr.st f) := by
  intro _; exact Or.inr rfl

theorem stX (f : XForm MemF) : Statement (Instr.stX f) := by
  intro _; exact Or.inr rfl

theorem lds (f : MemF) : Statement (Instr.lds f) := by
  intro _; exact Or.inr rfl

theorem ldsX (f : XForm MemF) : Statement (Instr.ldsX f) := by
  intro _; exact Or.inr rfl

theorem sts (f : MemF) : Statement (Instr.sts f) := by
  intro _; exact Or.inr rfl

theorem stsX (f : XForm MemF) : Statement (Instr.stsX f) := by
  intro _; exact Or.inr rfl

theorem pref (f : MemF) : Statement (Instr.pref f) := by
  intro _; exact Or.inr rfl

theorem prefX (f : XForm MemF) : Statement (Instr.prefX f) := by
  intro _; exact Or.inr rfl

theorem shfl (f : EForm) : Statement (Instr.shfl f) := by
  intro _; exact Or.inr rfl

theorem vote (f : EForm) : Statement (Instr.vote f) := by
  intro _; exact Or.inr rfl

theorem matchLanes (f : EForm) : Statement (Instr.matchLanes f) := by
  intro _; exact Or.inr rfl

theorem redux (f : EForm) : Statement (Instr.redux f) := by
  intro _; exact Or.inr rfl

theorem scan (f : EForm) : Statement (Instr.scan f) := by
  intro _; exact Or.inr rfl

theorem elect (f : EForm) : Statement (Instr.elect f) := by
  intro _; exact Or.inr rfl

theorem vtos (f : EForm) : Statement (Instr.vtos f) := by
  intro _; exact Or.inr rfl

theorem bar (f : EForm) : Statement (Instr.bar f) := by
  intro _; exact Or.inr rfl

theorem bara (f : EForm) : Statement (Instr.bara f) := by
  intro _; exact Or.inr rfl

theorem barw (f : EForm) : Statement (Instr.barw f) := by
  intro _; exact Or.inr rfl

theorem bari (f : EForm) : Statement (Instr.bari f) := by
  intro _; exact Or.inr rfl

theorem meet (f : EForm) : Statement (Instr.meet f) := by
  intro h
  have e : View.instr? (.wide 0x15 4 f) = some (if f.fields.mod.getLsbD 0 then .meetPop f else .meet f) := rfl
  refine Or.inr (e.trans ?_)
  simp [Instr.wf] at h
  simp [h]

theorem meetPop (f : EForm) : Statement (Instr.meetPop f) := by
  intro h
  have e : View.instr? (.wide 0x15 4 f) = some (if f.fields.mod.getLsbD 0 then .meetPop f else .meet f) := rfl
  refine Or.inr (e.trans ?_)
  simp [Instr.wf] at h
  simp [h]

theorem nap (f : EForm) : Statement (Instr.nap f) := by
  intro _; exact Or.inr rfl

theorem bkoff (f : EForm) : Statement (Instr.bkoff f) := by
  intro _; exact Or.inr rfl

theorem cbr (f : EForm) : Statement (Instr.cbr f) := by
  intro _; exact Or.inr rfl

theorem cbsync (f : EForm) : Statement (Instr.cbsync f) := by
  intro _; exact Or.inr rfl

theorem cmemb (f : EForm) : Statement (Instr.cmemb f) := by
  intro _; exact Or.inr rfl

theorem cmq (f : EForm) : Statement (Instr.cmq f) := by
  intro _; exact Or.inr rfl

theorem gen (f : EForm) : Statement (Instr.gen f) := by
  intro _; exact Or.inr rfl

theorem yield (f : EForm) : Statement (Instr.yield f) := by
  intro _; exact Or.inr rfl

theorem gend (f : EForm) : Statement (Instr.gend f) := by
  intro _; exact Or.inr rfl

theorem gnext (f : EForm) : Statement (Instr.gnext f) := by
  intro _; exact Or.inr rfl

theorem gdrain (f : EForm) : Statement (Instr.gdrain f) := by
  intro _; exact Or.inr rfl

theorem gstat (f : EForm) : Statement (Instr.gstat f) := by
  intro _; exact Or.inr rfl

theorem hnrm (f : EForm) : Statement (Instr.hnrm f) := by
  intro _; exact Or.inr rfl

theorem hexp (f : EForm) : Statement (Instr.hexp f) := by
  intro _; exact Or.inr rfl

theorem hdot (f : EForm) : Statement (Instr.hdot f) := by
  intro _; exact Or.inr rfl

theorem hscl (f : EForm) : Statement (Instr.hscl f) := by
  intro _; exact Or.inr rfl

theorem hadd (f : EForm) : Statement (Instr.hadd f) := by
  intro _; exact Or.inr rfl

theorem hneg (f : EForm) : Statement (Instr.hneg f) := by
  intro _; exact Or.inr rfl

theorem hproj (f : EForm) : Statement (Instr.hproj f) := by
  intro _; exact Or.inr rfl

theorem hln (f : EForm) : Statement (Instr.hln f) := by
  intro _; exact Or.inr rfl

theorem hsln (f : EForm) : Statement (Instr.hsln f) := by
  intro _; exact Or.inr rfl

theorem hmov (f : EForm) : Statement (Instr.hmov f) := by
  intro _; exact Or.inr rfl

theorem hcls (f : EForm) : Statement (Instr.hcls f) := by
  intro _; exact Or.inr rfl

theorem hld (f : EForm) : Statement (Instr.hld f) := by
  intro _; exact Or.inr rfl

theorem hst (f : EForm) : Statement (Instr.hst f) := by
  intro _; exact Or.inr rfl

theorem calln (f : EForm) : Statement (Instr.calln f) := by
  intro _; exact Or.inr rfl

theorem ldn (f : EForm) : Statement (Instr.ldn f) := by
  intro _; exact Or.inr rfl

theorem jmpn (f : EForm) : Statement (Instr.jmpn f) := by
  intro _; exact Or.inr rfl

theorem lnkq (f : EForm) : Statement (Instr.lnkq f) := by
  intro _; exact Or.inr rfl

theorem segq (f : EForm) : Statement (Instr.segq f) := by
  intro _; exact Or.inr rfl

theorem pkrw (f : EForm) : Statement (Instr.pkrw f) := by
  intro _; exact Or.inr rfl

theorem pkrr (f : EForm) : Statement (Instr.pkrr f) := by
  intro _; exact Or.inr rfl

theorem leaseq (f : EForm) : Statement (Instr.leaseq f) := by
  intro _; exact Or.inr rfl

theorem atom (f : EForm) : Statement (Instr.atom f) := by
  intro _; exact Or.inr rfl

theorem phase (f : EForm) : Statement (Instr.phase f) := by
  intro _; exact Or.inr rfl

theorem sealRange (f : EForm) : Statement (Instr.sealRange f) := by
  intro _; exact Or.inr rfl

theorem unsealRange (f : EForm) : Statement (Instr.unsealRange f) := by
  intro _; exact Or.inr rfl

theorem trsv (f : EForm) : Statement (Instr.trsv f) := by
  intro _; exact Or.inr rfl

theorem trel (f : EForm) : Statement (Instr.trel f) := by
  intro _; exact Or.inr rfl

theorem tld (f : EForm) : Statement (Instr.tld f) := by
  intro _; exact Or.inr rfl

theorem tldv (f : EForm) : Statement (Instr.tldv f) := by
  intro _; exact Or.inr rfl

theorem txv (f : EForm) : Statement (Instr.txv f) := by
  intro _; exact Or.inr rfl

theorem mma (f : EForm) : Statement (Instr.mma f) := by
  intro _; exact Or.inr rfl

theorem mmak (f : EForm) : Statement (Instr.mmak f) := by
  intro _; exact Or.inr rfl

theorem accz (f : EForm) : Statement (Instr.accz f) := by
  intro _; exact Or.inr rfl

theorem accld (f : EForm) : Statement (Instr.accld f) := by
  intro _; exact Or.inr rfl

theorem accst (f : EForm) : Statement (Instr.accst f) := by
  intro _; exact Or.inr rfl

theorem accsp (f : EForm) : Statement (Instr.accsp f) := by
  intro _; exact Or.inr rfl

theorem accmv (f : EForm) : Statement (Instr.accmv f) := by
  intro _; exact Or.inr rfl

theorem push (f : EForm) : Statement (Instr.push f) := by
  intro _; exact Or.inr rfl

theorem waitc (f : EForm) : Statement (Instr.waitc f) := by
  intro _; exact Or.inr rfl

theorem qstat (f : EForm) : Statement (Instr.qstat f) := by
  intro _; exact Or.inr rfl

theorem trigger (f : EForm) : Statement (Instr.trigger f) := by
  intro _; exact Or.inr rfl

theorem gnodeQ (f : EForm) : Statement (Instr.gnodeQ f) := by
  intro h
  have e : View.instr? (.wide 0x30 4 f) = some (if f.fields.mod.getLsbD 0 then .gnodeSig f else .gnodeQ f) := rfl
  refine Or.inr (e.trans ?_)
  simp [Instr.wf] at h
  simp [h]

theorem gnodeSig (f : EForm) : Statement (Instr.gnodeSig f) := by
  intro h
  have e : View.instr? (.wide 0x30 4 f) = some (if f.fields.mod.getLsbD 0 then .gnodeSig f else .gnodeQ f) := rfl
  refine Or.inr (e.trans ?_)
  simp [Instr.wf] at h
  simp [h]

theorem svc (f : EForm) : Statement (Instr.svc f) := by
  intro _; exact Or.inr rfl

theorem thset (f : EForm) : Statement (Instr.thset f) := by
  intro _; exact Or.inr rfl

theorem rtt (f : EForm) : Statement (Instr.rtt f) := by
  intro _; exact Or.inr rfl

theorem park (f : EForm) : Statement (Instr.park f) := by
  intro _; exact Or.inr rfl

theorem prio (f : EForm) : Statement (Instr.prio f) := by
  intro _; exact Or.inr rfl

theorem psrd (f : EForm) : Statement (Instr.psrd f) := by
  intro _; exact Or.inr rfl

theorem pswr (f : EForm) : Statement (Instr.pswr f) := by
  intro h
  have e : View.instr? (.wide 0x39 1 f) = some (if f.fields.b.toNat = 0x82 then .flkctlWrite f else .pswr f) := rfl
  refine Or.inr (e.trans ?_)
  simp [Instr.wf] at h
  simp [h]

theorem flkctlWrite (f : EForm) : Statement (Instr.flkctlWrite f) := by
  intro h
  have e : View.instr? (.wide 0x39 1 f) = some (if f.fields.b.toNat = 0x82 then .flkctlWrite f else .pswr f) := rfl
  refine Or.inr (e.trans ?_)
  simp [Instr.wf] at h
  simp [h]

theorem tlbinv (f : EForm) : Statement (Instr.tlbinv f) := by
  intro _; exact Or.inr rfl

theorem illegalOpcode (words : RawWords) : Statement (Instr.illegalOpcode words) := by
  intro _; exact Or.inr rfl

theorem snapshotDrop : Statement (Instr.snapshotDrop) := by
  intro _; exact Or.inl rfl

theorem storePathDrain : Statement (Instr.storePathDrain) := by
  intro _; exact Or.inl rfl

theorem overlayWriteback : Statement (Instr.overlayWriteback) := by
  intro _; exact Or.inl rfl

theorem loadReply : Statement (Instr.loadReply) := by
  intro _; exact Or.inl rfl

theorem remoteTimeout : Statement (Instr.remoteTimeout) := by
  intro _; exact Or.inl rfl

theorem barrierStall : Statement (Instr.barrierStall) := by
  intro _; exact Or.inl rfl

theorem meetingArrival : Statement (Instr.meetingArrival) := by
  intro _; exact Or.inl rfl

theorem napWake : Statement (Instr.napWake) := by
  intro _; exact Or.inl rfl

theorem bkoffWake : Statement (Instr.bkoffWake) := by
  intro _; exact Or.inl rfl

theorem regroupingTick : Statement (Instr.regroupingTick) := by
  intro _; exact Or.inl rfl

theorem cbrResolve : Statement (Instr.cbrResolve) := by
  intro _; exact Or.inl rfl

theorem cbrTimeout : Statement (Instr.cbrTimeout) := by
  intro _; exact Or.inl rfl

theorem matrixOpComplete : Statement (Instr.matrixOpComplete) := by
  intro _; exact Or.inl rfl

theorem waitcComplete : Statement (Instr.waitcComplete) := by
  intro _; exact Or.inl rfl

theorem svcWake : Statement (Instr.svcWake) := by
  intro _; exact Or.inl rfl

theorem parkComplete : Statement (Instr.parkComplete) := by
  intro _; exact Or.inl rfl

theorem launch : Statement (Instr.launch) := by
  intro _; exact Or.inl rfl

theorem copy : Statement (Instr.copy) := by
  intro _; exact Or.inl rfl

theorem fill : Statement (Instr.fill) := by
  intro _; exact Or.inl rfl

theorem gather : Statement (Instr.gather) := by
  intro _; exact Or.inl rfl

theorem redadd : Statement (Instr.redadd) := by
  intro _; exact Or.inl rfl

theorem litBuild : Statement (Instr.litBuild) := by
  intro _; exact Or.inl rfl

theorem litDelta : Statement (Instr.litDelta) := by
  intro _; exact Or.inl rfl

theorem note : Statement (Instr.note) := by
  intro _; exact Or.inl rfl

theorem translate : Statement (Instr.translate) := by
  intro _; exact Or.inl rfl

theorem commandDispatch : Statement (Instr.commandDispatch) := by
  intro _; exact Or.inl rfl

theorem commandComplete : Statement (Instr.commandComplete) := by
  intro _; exact Or.inl rfl

theorem teamPlace : Statement (Instr.teamPlace) := by
  intro _; exact Or.inl rfl

theorem rebalance : Statement (Instr.rebalance) := by
  intro _; exact Or.inl rfl

theorem preemptRequest : Statement (Instr.preemptRequest) := by
  intro _; exact Or.inl rfl

theorem parkedTeamReturn : Statement (Instr.parkedTeamReturn) := by
  intro _; exact Or.inl rfl

theorem budgetPeriod : Statement (Instr.budgetPeriod) := by
  intro _; exact Or.inl rfl

theorem contextReset : Statement (Instr.contextReset) := by
  intro _; exact Or.inl rfl

theorem pageReclaim : Statement (Instr.pageReclaim) := by
  intro _; exact Or.inl rfl

theorem afterglowRegister : Statement (Instr.afterglowRegister) := by
  intro _; exact Or.inl rfl

theorem afterglowPowerFail : Statement (Instr.afterglowPowerFail) := by
  intro _; exact Or.inl rfl

theorem modulePowerUp : Statement (Instr.modulePowerUp) := by
  intro _; exact Or.inl rfl

theorem thermalThrottle : Statement (Instr.thermalThrottle) := by
  intro _; exact Or.inl rfl

theorem thermalStop : Statement (Instr.thermalStop) := by
  intro _; exact Or.inl rfl

theorem linkTraining : Statement (Instr.linkTraining) := by
  intro _; exact Or.inl rfl

theorem joethRequest : Statement (Instr.joethRequest) := by
  intro _; exact Or.inl rfl

theorem joethResponse : Statement (Instr.joethResponse) := by
  intro _; exact Or.inl rfl

theorem joethCollective : Statement (Instr.joethCollective) := by
  intro _; exact Or.inl rfl

theorem collectiveDissolve : Statement (Instr.collectiveDissolve) := by
  intro _; exact Or.inl rfl

theorem collectiveOutcome : Statement (Instr.collectiveOutcome) := by
  intro _; exact Or.inl rfl

theorem joethManagement : Statement (Instr.joethManagement) := by
  intro _; exact Or.inl rfl

theorem joethIdle : Statement (Instr.joethIdle) := by
  intro _; exact Or.inl rfl

theorem linkReplay : Statement (Instr.linkReplay) := by
  intro _; exact Or.inl rfl

theorem cxlMemRead : Statement (Instr.cxlMemRead) := by
  intro _; exact Or.inl rfl

theorem cxlMemWrite : Statement (Instr.cxlMemWrite) := by
  intro _; exact Or.inl rfl

theorem commandWindowWrite : Statement (Instr.commandWindowWrite) := by
  intro _; exact Or.inl rfl

theorem commandSlotTake : Statement (Instr.commandSlotTake) := by
  intro _; exact Or.inl rfl

theorem hostReadCompletion : Statement (Instr.hostReadCompletion) := by
  intro _; exact Or.inl rfl

theorem hostAtomicCompletion : Statement (Instr.hostAtomicCompletion) := by
  intro _; exact Or.inl rfl

theorem hostLinkDown : Statement (Instr.hostLinkDown) := by
  intro _; exact Or.inl rfl

theorem hostLinkUp : Statement (Instr.hostLinkUp) := by
  intro _; exact Or.inl rfl

theorem portLaneLoss : Statement (Instr.portLaneLoss) := by
  intro _; exact Or.inl rfl

theorem managementInterfaceAccess : Statement (Instr.managementInterfaceAccess) := by
  intro _; exact Or.inl rfl

theorem contextCreation : Statement (Instr.contextCreation) := by
  intro _; exact Or.inl rfl

theorem queueTableWrite : Statement (Instr.queueTableWrite) := by
  intro _; exact Or.inl rfl


end Sys2Proof.Laws.View
end

