-- ==== Sys2Proof/Tests/Slice0.lean ====
section
/-! SUPPORT. Tests of decoding and well-formedness, each expected value worked out from the manual; single steps; and, for every
statement, states and operands that meet its hypotheses. -/

namespace Sys2Proof.Tests

open Sys2Proof.Machine Sys2Proof.Safety

set_option Elab.async false

/-! Tools: hypotheses that range over every state entry, brought down to the entries a small table lists. -/

theorem get_mem {α : Type} {t : Tab α} {k : Nat} {v : α} (h : t.get? k = some v) : (k, v) ∈ t := by
  induction t with
  | nil => cases h
  | cons e r ih =>
    obtain ⟨j, w⟩ := e
    unfold Tab.get? at h
    split at h
    · next hk => cases h; subst hk; exact List.mem_cons_self ..
    · exact List.mem_cons_of_mem _ (ih h)

/-- What holds of each listed entry holds of each entry that is found. -/
theorem all_get {α : Type} {t : Tab α} {P : Nat → α → Prop} (h : ∀ e ∈ t, P e.1 e.2) (k : Nat) (v : α) (g : t.get? k = some v) : P k v :=
  h _ (get_mem g)

/-- What holds of the default and of each listed entry holds of every entry. -/
theorem all_getD {α : Type} {t : Tab α} {P : α → Prop} {d : α} (h0 : P d) (h : ∀ e ∈ t, P e.2) (k : Nat) : P (t.getD k d) := by
  unfold Tab.getD
  cases g : t.get? k with
  | none => exact h0
  | some v => exact h _ (get_mem g)

theorem all_width {s : State} {P : Nat → Prop} (h0 : P 16) (h : ∀ e ∈ s.launches, P e.2.width) (gid : Nat) : P (s.widthOf gid) :=
  all_getD (P := fun l : Launch => P l.width) h0 h _

theorem ok_of {ε α : Type} {x : Except ε α} {a : α} (h : x.toOption = some a) : x = .ok a := by
  cases x with
  | error e => cases h
  | ok b => cases h; rfl

/-- The fields of an instruction that has an encoding. -/
def fieldsOf (i : Instr) : Fields := i.fields?.getD (opFields .base none 0 0 ⟨0, 0, 0, 0⟩)

theorem fields_of {i : Instr} (h : i.fields?.isSome = true) : i.fields? = some (fieldsOf i) := by
  unfold fieldsOf
  cases g : i.fields? with
  | none => simp [g] at h
  | some f => rfl

theorem calm_of {s : State} {f : Fields} {own : Nat → Option Flt}
    (h : (s.guarded f).all (fun t => decide (s.decodeFault f t = none ∧ own t = none)) = true) : Calm s f own := by
  intro t ht
  simpa using List.all_eq_true.mp h t ht

/-- What most statements ask of an instruction and a state: it is well formed and encoded, its fields are as `p` says, no guarded thread
meets a fault, and some thread acts. -/
def Fits (s : State) (own : Fields → Nat → Option Flt) (p : Fields → Prop) (i : Instr) : Prop :=
  ∃ f, i.wf = true ∧ i.fields? = some f ∧ p f ∧ Calm s f (own f) ∧ s.guarded f ≠ []

def meets (s : State) (own : Fields → Nat → Option Flt) (p : Fields → Bool) (i : Instr) : Bool :=
  let f := fieldsOf i
  i.wf && i.fields?.isSome && p f && !(s.guarded f).isEmpty &&
    (s.guarded f).all (fun t => decide (s.decodeFault f t = none ∧ own f t = none))

theorem of_meets {s : State} {own : Fields → Nat → Option Flt} {p : Fields → Prop} [DecidablePred p] {is : List Instr}
    (h : is.all (meets s own (fun f => decide (p f))) = true) : ∀ i ∈ is, Fits s own p i := by
  intro i hi
  have := List.all_eq_true.mp h i hi
  simp only [meets, Bool.and_eq_true, decide_eq_true_eq] at this
  obtain ⟨⟨⟨⟨h1, h2⟩, h3⟩, h4⟩, h5⟩ := this
  exact ⟨_, h1, fields_of h2, h3, calm_of h5, by intro h; simp [h] at h4⟩

/-- No fault of the instruction's own. -/
def calmOwn : Fields → Nat → Option Flt := fun _ => State.noFault

/-! A small machine: context 1, one launch of one team of one group of 16 lanes with two threads on core 0, at offset 0x100 of code segment 5;
data segment 6 at 0x30000, linkage segment 2 at 0x40000, the private slices in segment 3. -/

def pc0 : Ptr := mkPtr 5 0x100

def launch0 : Launch :=
  { Launch.blank with
    ctx := 1, id := 1, width := 16, tsize := 2, regs := 255, tiles := 16, accs := 8, rays := 32, spad := 65536, entry := pc0, prio := 3,
    leases := [⟨6, 0, 0x10000, 3⟩], teams := 1, handed := 1, kernel := true }

def team0 : Team := { Team.blank with launch := 1, cores := [0], place := .resident, tsize := 2, kernel := true }
def group0 : Group := { Group.blank with active := true, thnd := 0x800, thndSeg := 5 }
def thread0 : Thread := Thread.start pc0 0x1000
def context0 : Context := { Context.blank with stl := 16, pkr := 0xFFFFFFFFFFFFFFFF, pkr0 := 0xFFFFFFFFFFFFFFFF }

/-- The two threads, lanes 0 and 1. -/
def ta : Nat := 65536
def tb : Nat := 65537

def base : State :=
  { State.reset with
    contexts := [(1, context0)], launches := [(1, launch0)], teams := [(1, team0)], groups := [(1024, group0)],
    threads := [(ta, thread0), (tb, thread0)], parts := [(0, { Partition.empty with bundles := [[ta, tb]] })]
    descs := [(0x100002, ⟨0xBC00000000000002, 0x10000, 0, 0⟩), (0x100003, ⟨0xAC00000000000000, 0x10000, 0, 0⟩),
      (0x100005, ⟨0x9A00000000000000, 0x10000, 0x400000000, 0⟩), (0x100006, ⟨0x8C00000000000001, 0x10000, 0, 0⟩)]
    pages := [(0x100000000, 0x8380000000020000), (0x100000001, 0x8380000000030000), (0x100000002, 0x8380000000040000)]
    power := .on, issue := ⟨0, 0, 1, [ta, tb], pc0, pc0, ptrAdd pc0 4, false, 0⟩ }

/-- The fields of an extended instruction of vector operands with guard "always": D, A, B, C, MOD and X; of scalar ones; of A and X. -/
def ex (d a b c : BitVec 8) (mod : BitVec 7 := 0) (x : Word := 0) : ExtF := ⟨d, a, b, c, false, 15, false, false, false, false, false, 0, mod, x⟩
def exs (d a b c : BitVec 8) (mod : BitVec 7 := 0) (x : Word := 0) : ExtF := ⟨d, a, b, c, false, 15, false, false, true, true, true, 0, mod, x⟩
def exi (d a c : BitVec 8) (x : Word) (mod : BitVec 7 := 0) : ExtF := ⟨d, a, 0, c, false, 15, true, false, false, false, false, 0, mod, x⟩


/-! Integer instructions and moves: forms of each row, some at the ends of their ranges. -/

theorem witness_IntegerArithmetic : ∀ i ∈ ([.iadd ⟨1, 2, 3, 0⟩, .isub ⟨63, 63, 63, 0⟩, .imul ⟨1, 2, 3, 0⟩, .imulh ⟨1, 2, 3, 0⟩,
    .imin ⟨1, 2, 3, 0⟩, .imax ⟨1, 2, 3, 0⟩, .idiv ⟨1, 2, 3, 0⟩, .irem ⟨1, 2, 3, 0⟩, .iaddX (.lit ⟨1, 2, 0, 0⟩ 0x80000000),
    .idivX (.ext (exi 254 2 0 0 4)), .iremX (.ext (exs 94 92 90 0 8))] : List Instr),
    Fits base calmOwn (fun F => F.maj = 0x02) i := of_meets (by decide +kernel)

theorem witness_LogicResults : ∀ i ∈ ([.and ⟨1, 2, 3, 0⟩, .or ⟨1, 2, 3, 0⟩, .xor ⟨1, 2, 3, 0⟩, .andn ⟨1, 2, 3, 0⟩, .shl ⟨1, 2, 3, 0⟩,
    .shr ⟨1, 2, 3, 0⟩, .asr ⟨1, 2, 3, 0⟩, .rot ⟨1, 2, 3, 0⟩, .shlX (.ext (exi 2 4 0 64 8)), .rotX (.lit ⟨1, 2, 0, 0⟩ 33)] : List Instr),
    Fits base calmOwn (fun F => F.maj = 0x03) i := of_meets (by decide +kernel)

theorem witness_bits : ∀ i ∈ ([.clz ⟨1, 2, 0, 0⟩, .popc ⟨1, 2, 0, 0⟩, .brev ⟨1, 2, 0, 0⟩, .bfx ⟨1, 2, 3, 0⟩, .iabs ⟨1, 2, 0, 0⟩,
    .bfi (.ext (ex 1 2 3 4)), .imad (.ext (ex 2 4 6 8 8)), .bfxX (.ext (exi 1 2 0 0x0804)), .popcX (.ext (ex 255 254 0 0))] : List Instr),
    Fits base calmOwn (fun F => F.maj = 0x04 ∧ F.mn ≠ 7) i := of_meets (by decide +kernel)
theorem witness_lea : ∀ i ∈ ([.lea ⟨2, 4, 6, 0⟩, .leaX (.ext (exi 2 4 0 0xFFFFFFFF))] : List Instr),
    Fits base calmOwn (fun F => F.maj = 0x04 ∧ F.mn = 7) i := of_meets (by decide +kernel)
theorem witness_icmp : ∀ i ∈ ([.icmp 0 ⟨1, 2, 3, 0⟩, .icmp 7 ⟨15, 2, 3, 0⟩, .icmpX 2 (.ext (exi 14 2 0 5 4))] : List Instr),
    Fits base calmOwn (fun F => F.maj = 0x05) i := of_meets (by decide +kernel)
theorem witness_predicates : ∀ i ∈ ([.pand ⟨1, 2, 3, 0⟩, .por ⟨15, 15, 15, 0⟩, .pxor ⟨1, 2, 3, 0⟩, .pnot ⟨1, 2, 0, 0⟩, .pmov ⟨1, 2, 0, 0⟩] : List Instr),
    Fits base calmOwn (fun F => F.maj = 0x06 ∧ F.mn < 5) i := of_meets (by decide +kernel)
theorem witness_ppack : ∀ i ∈ ([.ppack ⟨1, 0, 2, 0⟩, .ppackX (.ext (exi 12 0 0 0xFF))] : List Instr),
    Fits base calmOwn (fun F => F.maj = 0x06 ∧ F.mn = 5) i := of_meets (by decide +kernel)
theorem witness_punpk : ∀ i ∈ ([.punpk ⟨0, 1, 2, 0⟩, .punpkX (.ext (exi 0 1 0 0x7FFF))] : List Instr),
    Fits base calmOwn (fun F => F.maj = 0x06 ∧ F.mn = 6) i := of_meets (by decide +kernel)

theorem witness_moves : ∀ i ∈ ([.mov ⟨1, 0, 2, 0⟩, .sel (.ext (ex 1 2 3 15)), .movs ⟨2, 0, 3, 0⟩, .movX (.ext (exi 2 0 0 7 8))] : List Instr),
    Fits base calmOwn (fun F => F.maj = 0x07 ∧ (F.mn = 0 ∨ F.mn = 2 ∨ F.mn = 3)) i := of_meets (by decide +kernel)
theorem witness_movi : ∀ i ∈ ([.movi ⟨1, 2, 3, 0⟩, .moviX (.ext (exi 1 254 0 0))] : List Instr),
    Fits base calmOwn (fun F => F.maj = 0x07 ∧ F.mn = 1 ∧ ∀ tid ∈ base.guarded F,
      F.a + (F.opB false (base.group (gidOf tid)) (base.thread tid)).toNat < min 255 (base.launchOf (gidOf tid)).regs) i :=
  of_meets (by decide +kernel)
theorem witness_nop : ∀ i ∈ ([.nop ⟨0, 0, 0, 0⟩, .nopX (.ext (ex 0 0 0 0))] : List Instr),
    Fits base calmOwn (fun F => F.maj = 0x00) i := of_meets (by decide +kernel)

theorem witness_SpecialReads : ∀ i ∈ ([.srd ⟨1, 0, 0, 0⟩, .srd ⟨1, 0, 0x26, 0⟩, .srdX (.ext { ex 94 0 0x0F 0 with cd := true })] : List Instr),
    Fits base calmOwn (fun F => F.maj = 0x07 ∧ F.mn = 4 ∧ F.b ≠ 0x08 ∧ F.b ≠ 0x09) i := of_meets (by decide +kernel)
theorem witness_ClockReads : ∀ i ∈ ([.clkLoRead (.base ⟨1, 0, 8, 0⟩), .srd ⟨1, 0, 9, 0⟩] : List Instr),
    Fits base calmOwn (fun F => F.maj = 0x07 ∧ F.mn = 4 ∧ (F.b = 0x08 ∨ F.b = 0x09)) i := of_meets (by decide +kernel)
theorem witness_SpecialWrites : ∀ i ∈ ([.swr ⟨0, 1, 0x0A, 0⟩, .swr ⟨0, 30, 0x17, 0⟩, .thndWrite (.base ⟨0, 30, 0x18, 0⟩), .swr ⟨0, 30, 0x23, 0⟩] : List Instr),
    Fits base calmOwn (fun F => F.maj = 0x07 ∧ F.mn = 5 ∧
      ∀ tid ∈ base.guarded F, Claims.zeroBits F.b (Claims.valueA F base tid) = true) i := of_meets (by decide +kernel)

/-! Control. -/

theorem witness_branches : ∀ i ∈ ([.bra ⟨0, false, 0x80000⟩, .call ⟨0, false, 0x7FFFF⟩, .braX (.ext { ex 0 0 0 0 with x := 0x80000000 })] : List Instr),
    Fits base calmOwn (fun F => F.maj = 0x0C ∨ F.maj = 0x0D) i := of_meets (by decide +kernel)
theorem witness_indirect : ∀ i ∈ ([.ret ⟨0, 29, 0, 0⟩, .jmpi ⟨0, 30, 0, 0⟩, .calli ⟨0, 30, 0, 0⟩] : List Instr),
    Fits base calmOwn (fun F => F.maj = 0x0E ∧ F.mn < 3 ∧
      ∀ tid ∈ base.guarded F, (Claims.valueA F base tid).extractLsb' 0 2 = 0) i := of_meets (by decide +kernel)
theorem witness_FrameMoves : ∀ i ∈ ([.enterX (.lit ⟨0, 0, 0, 0⟩ 16), .enterX (.lit ⟨0, 0, 0, 0⟩ 0x1000), .leaveX (.lit ⟨0, 0, 0, 0⟩ 16)] : List Instr),
    Fits base calmOwn (fun F => F.maj = 0x0E ∧ (F.mn = 3 ∨ F.mn = 4) ∧ (F.mn = 3 → ∀ tid ∈ base.guarded F,
      F.x ≤ (base.thread tid).reg 31 ∧ (base.thread tid).stklim ≤ (base.thread tid).reg 31 - F.x)) i := of_meets (by decide +kernel)

/-! Exceptions. -/

theorem catches_base : ∀ tid ∈ [ta, tb], Claims.Catches base tid := by unfold Claims.Catches; decide +kernel

/-- A scalar D above the ninety-six, and a minor field rule broken: every thread meets a decoding fault and its group catches it. -/
theorem witness_DecodingFaultsAreTaken : ∀ i ∈ ([.iaddX (.ext (exs 96 0 0 0)), .clz ⟨1, 2, 3, 0⟩, .leaX (.ext (ex 3 4 6 0))] : List Instr),
    i.wf = true ∧ i.fields? = some (fieldsOf i) ∧ Claims.runsAsOne (fieldsOf i) = true ∧ base.issue.threads.Nodup ∧
    base.guarded (fieldsOf i) = [ta, tb] ∧ ∀ tid ∈ base.guarded (fieldsOf i), (base.decodeFault (fieldsOf i) tid).isSome := by decide +kernel

/-- A consumer whose MOVI, past the cap, names a register of the producer frame. -/
def consuming : State := { base with groups := [(1024, { group0 with gen := some ⟨0, 16, 1, 32, 4, 24, 20, 0, 0, false, [], [], [], [], true, 0, [], 0, 0⟩ })] }
theorem witness_consumerMovi : ∀ p ∈ ([(.moviX (.ext (exi 21 254 0 1)), true), (.moviX (.ext (exi 21 254 0 0)), false)] : List (Instr × Bool)), let F := fieldsOf p.1
    p.1.wf = true ∧ p.1.fields? = some F ∧ Claims.runsAsOne F = true ∧ consuming.guarded F = [ta, tb] ∧
    ∀ tid ∈ [ta, tb], (consuming.decodeFault F tid).any (·.code == 0x17) = true ∧ decide (F.maj = 0x07 ∧ F.mn = 1 ∧
      min 255 (consuming.launchOf (gidOf tid)).regs ≤ F.a + (F.opB false (consuming.group (gidOf tid)) (consuming.thread tid)).toNat) = p.2 := by decide +kernel

theorem witness_trap : ∀ i ∈ ([.trap ⟨0, 0, 0, 0⟩, .trapX (.ext { ex 0 0 0 0 with x := 0xFFFF })] : List Instr),
    Fits base calmOwn (fun F => F.maj = 0x0E ∧ F.mn = 6 ∧ base.issue.threads.Nodup ∧ base.guarded F = [ta, tb]) i := of_meets (by decide +kernel)

theorem witness_moviFault : ∀ i ∈ ([.moviX (.ext (exi 1 254 0 1)), .moviX (.ext (exi 1 0 0 255))] : List Instr),
    Fits base calmOwn (fun F => F.maj = 0x07 ∧ F.mn = 1 ∧ base.guarded F = [ta, tb] ∧ ∀ tid ∈ base.guarded F,
      min 255 (base.launchOf (gidOf tid)).regs ≤ F.a + (F.opB false (base.group (gidOf tid)) (base.thread tid)).toNat) i := of_meets (by decide +kernel)

/-- The same machine with registers that no instruction accepts as an offset or a special value, and a stack limit. -/
def faulty : State := { base with threads := [(ta, { thread0.setReg 1 0x101 with stklim := 0xFF1 }), (tb, { thread0.setReg 1 0xFFFFFFFF with stklim := 0xFFFFFFFF })] }

theorem catches_faulty : ∀ tid ∈ [ta, tb], Claims.Catches faulty tid := by unfold Claims.Catches; decide +kernel

theorem witness_flowFaults : ∀ i ∈ ([.ret ⟨0, 1, 0, 0⟩, .jmpi ⟨0, 1, 0, 0⟩, .calli ⟨0, 1, 0, 0⟩] : List Instr),
    Fits faulty calmOwn (fun F => F.maj = 0x0E ∧ F.mn < 3 ∧ faulty.guarded F = [ta, tb] ∧
      ∀ tid ∈ faulty.guarded F, (Claims.valueA F faulty tid).extractLsb' 0 2 ≠ 0) i := of_meets (by decide +kernel)
theorem witness_enterFault : ∀ i ∈ ([.enterX (.lit ⟨0, 0, 0, 0⟩ 16), .enterX (.lit ⟨0, 0, 0, 0⟩ 0x1010)] : List Instr),
    Fits faulty calmOwn (fun F => F.maj = 0x0E ∧ F.mn = 3 ∧ faulty.guarded F = [ta, tb] ∧ ∀ tid ∈ faulty.guarded F,
      (faulty.thread tid).reg 31 < F.x ∨ (faulty.thread tid).reg 31 - F.x < (faulty.thread tid).stklim) i := of_meets (by decide +kernel)
theorem witness_swrFault : ∀ i ∈ ([.swr ⟨0, 1, 0x0A, 0⟩, .swr ⟨0, 1, 0x0B, 0⟩] : List Instr),
    Fits faulty calmOwn (fun F => F.maj = 0x07 ∧ F.mn = 5 ∧ faulty.guarded F = [ta, tb] ∧
      ∀ tid ∈ faulty.guarded F, Claims.zeroBits F.b (Claims.valueA F faulty tid) = false) i := of_meets (by decide +kernel)

/-- The group without a handler, and a thread with slot F in use. -/
def lone : State := { base with groups := [(1024, { group0 with thnd := 0 })], threads := [(ta, thread0), (tb, { thread0 with slotF := some (thread0.toSlot 0 pc0) })] }

theorem witness_UncaughtFaultEndsTeam :
    (lone.threads.get? ta = some thread0 ∧ (lone.teamAt (gidOf ta)).place ≠ .ended ∧ codeTrap ∉ [codeUncorrectable, codeSdc, codeLinkUnbound] ∧
      (lone.group (gidOf ta)).thnd = 0 ∧ (lone.teamAt (gidOf ta)).ending = none ∧ lone.teams.get? (teamOf (gidOf ta)) = some team0) ∧
    (lone.thread tb).slotF.isSome = true ∧ lone.threads.get? tb = some { thread0 with slotF := some (thread0.toSlot 0 pc0) } := by decide +kernel

/-- Thread `ta` in a handler that interrupted a PREEMPT handler, with meeting `m` open for both threads. -/
def handling (e : TrapSlot × Option Meeting) : State := { base with
  threads := [(ta, { thread0 with
      slotF := some { e.1 with order := 2 }, slotP := some { thread0.toSlot 0 pc0 with order := 1 }, meet := e.2 }), (tb, { thread0 with meet := e.2 })]
  issue := { base.issue with threads := [ta] } }

/-- A slot that holds no wait, each wait there is, those that have ended, and a fault that ended one. -/
def returns : List (TrapSlot × Option Meeting) :=
  let k : TrapSlot := { thread0.toSlot 0 pc0 with resume := ptrAdd pc0 8 }
  [(k, none), ({ k with wait := .nap 5 }, none), ({ k with wait := .bkoff 5 }, none), ({ k with wait := .svc }, none),
    ({ k with wait := .barrier 3 0 2 false }, none), ({ k with wait := .barrier 3 0 2 true, ended := true, vote := true }, none),
    ({ k with wait := .gen }, none), ({ k with wait := .gen, ended := true }, none), ({ k with wait := .meeting, ended := true }, none),
    ({ k with wait := .meeting }, some ⟨ptrAdd pc0 64, 0⟩), ({ k with fault := some (0x10, 7) }, none)]

theorem witness_ReturnFromHandler : ∀ e ∈ returns, Fits (handling e) calmOwn (fun F => F.maj = 0x38 ∧ F.mn = 2) (.rtt (.ext (ex 0 0 0 0))) ∧
    let s := handling e
    let x := s.thread ta
    let k : TrapSlot := { e.1 with order := 2 }
    s.issue.threads = [ta] ∧ Acts s (fieldsOf (.rtt (.ext (ex 0 0 0 0)))) ta x ∧
    (x.slot .fault = some k ∧ ∀ m ∈ [SlotName.stub, .preempt], ∀ k' ∈ x.slot m, k'.order < k.order ∧ k'.wait ≠ .meeting) ∧
    (((∀ u ∈ s.presentOf (gidOf ta), u ≠ ta → (s.thread u).meet = none) ∧ (k.wait = .meeting → k.ended = true)) ∨
      (∀ u ∈ s.presentOf (gidOf ta), ∀ m ∈ (s.thread u).meet, ∃ v ∈ s.presentOf (gidOf ta), v ≠ ta ∧
        (s.thread v).meet = some m ∧ (s.thread v).atMeeting = false ∧ (s.thread v).metInSlot = false) ∧ k.wait = .meeting ∧ k.ended = false) ∧
    s.speculates ta = false := by
  intro e he
  simp only [returns, List.mem_cons, List.not_mem_nil, or_false] at he
  rcases he with rfl | rfl | rfl | rfl | rfl | rfl | rfl | rfl | rfl | rfl | rfl <;>
    exact ⟨of_meets (is := [.rtt (.ext (ex 0 0 0 0))]) (by decide +kernel) _ (by decide), by unfold Acts; decide +kernel⟩

/-! Floating point. -/

theorem witness_floatRows : ∀ i ∈ ([.fadd ⟨1, 2, 3, 0⟩, .fsub ⟨1, 2, 3, 0⟩, .fmul ⟨63, 62, 61, 0⟩, .fmin ⟨1, 2, 3, 0⟩, .fmax ⟨1, 2, 3, 0⟩,
    .fcpys ⟨1, 2, 3, 0⟩, .fdiv ⟨1, 2, 3, 0⟩, .ffma (.ext { exs 94 93 92 91 0x21 with cs := true }), .frcp ⟨1, 2, 0, 0⟩, .frsq ⟨1, 2, 0, 0⟩, .fsqrt ⟨1, 2, 0, 0⟩,
    .fexp2 ⟨1, 2, 0, 0⟩, .flog2 ⟨1, 2, 0, 0⟩, .fsin ⟨1, 2, 0, 0⟩, .fcos ⟨1, 2, 0, 0⟩, .ftanh ⟨1, 2, 0, 0⟩, .frnd ⟨1, 2, 0, 0⟩, .fclass ⟨1, 2, 0, 0⟩,
    .fldexp ⟨1, 2, 3, 0⟩, .fgetexp ⟨1, 2, 0, 0⟩, .fgetman ⟨1, 2, 0, 0⟩, .faddX (.ext (ex 1 2 3 0 0x3A)), .cvt (.ext (ex 2 4 0 4 8)),
    .cvtpk (.ext (exi 9 4 4 0xFFFFFFFD 0x49))] : List Instr),
    Fits base calmOwn (fun F => F.maj = 0x08 ∨ F.maj = 0x09 ∨ (F.maj = 0x0A ∧ F.mn ≠ 2) ∨ (F.maj = 0x0B ∧ F.mn < 2)) i := of_meets (by decide +kernel)
theorem witness_fcmp : ∀ i ∈ ([.fcmp (.ext (ex 1 2 3 0 0x20)), .fcmp (.ext (ex 15 2 3 7 0x28))] : List Instr),
    Fits base calmOwn (fun F => F.maj = 0x0A ∧ F.mn = 2) i := of_meets (by decide +kernel)
theorem witness_cvtxp : ∀ i ∈ ([.cvtxp (.ext (exi 12 9 9 0xFFFFFFFD 0x21)), .cvtxp (.ext (ex 252 9 0 7 0x21))] : List Instr),
    Fits base calmOwn (fun F => F.maj = 0x0B ∧ F.mn = 2) i := of_meets (by decide +kernel)

/-- Roundings inside the range, at its top and below its smallest value; the code beside each is finite where the statement asks for one. -/
theorem witness_RoundingStep : ∀ k ∈ Claims.formats,
    (let x := (Machine.Num.fin false (2 ^ k.p + 1) 0).round k ⟨.rn, false, false⟩
     0 < x.1 ∧ x.1 + 1 < k.infCode ∧ x.2 = flagNX ∧ (∃ m, m ∈ [2 ^ k.p, 2 ^ (k.p - 1)] ∧ ∃ e ∈ [(0 : Int), 1], k.decode false x.1 = .fin false m e)) ∧
    (∃ m e, k.decode false (k.infCode - 1) = .fin false m e) ∧ k.decode false k.infCode = .inf false ∧ k.decode false k.nanCode = .nan false ∧
    (∃ e, k.decode false 1 = .fin false 1 e) ∧ (∃ e, k.decode false 0 = .fin false 0 e) ∧
    ((Machine.Num.fin true 1 1000).round k ⟨.rm, false, false⟩).1 = k.signed true k.infCode ∧
    ((Machine.Num.fin true 1 (-1000)).round k ⟨.rz, false, false⟩).1 = k.signed true 0 := by
  intro k hk
  simp only [Claims.formats, List.mem_cons, List.not_mem_nil, or_false] at hk
  rcases hk with rfl | rfl | rfl <;>
    exact ⟨by decide +kernel, ⟨_, _, rfl⟩, by decide +kernel, by decide +kernel, ⟨_, rfl⟩, ⟨_, rfl⟩, by decide +kernel, by decide +kernel⟩

/-- Operands of every case of FARITH: NaNs, infinities, zeros, finite values of both signs; their products and quotients are not trivial. -/
theorem witness_FloatArithmetic : let nan := Machine.Num.nan true
    let inf := Machine.Num.inf true
    let zero := Machine.Num.fin true 0 0
    let two := Machine.Num.fin false 1 1
    (nan.isNan || two.isNan) = true ∧ (zero.isZero && inf.isInf || zero.isInf && inf.isZero) = true ∧
    (two.isZero && nan.isInf || two.isInf && nan.isZero) = false ∧ (two.isNan || nan.isNan || zero.isNan) = true ∧
    fArith Fmt.f32 ⟨.rn, false, false⟩ 0 two two zero = (0x40800000, 0) ∧ fArith Fmt.f16 ⟨.rz, false, false⟩ 7 two (.fin false 3 0) zero = (0x3955, flagNX) := by
  decide +kernel

/-- Codes below twice the sign bit, NaNs on one and on both sides, and values that are no NaN. -/
theorem witness_UnaryAndMinMax : ∀ k ∈ Claims.formats, k.nanCode < 2 * k.signBit ∧ k.signBit < 2 * k.signBit ∧
    (k.decode false k.nanCode).isNan = true ∧ (k.decode false (k.signBit + 1)).isNan = false ∧ (k.decode false (k.infCode + 1)).isSig = true ∧
    (sqrtMag 1 0).q = 2 ^ 48 ∧ (sqrtMag (2 ^ 24 - 1) 1).more = true ∧ (divMag 1 0 3 0).more = true ∧ (rsqMag 1 0).q = 2 ^ 80 := by decide +kernel

/-- A comparison of two f32 numbers with FTZ 0, one ordered and one not, and finite values with their parts. -/
theorem witness_ClassesAndParts : let F := fieldsOf (.fcmp (.ext (ex 1 2 3 5 0x20)))
    let y := (thread0.setReg 2 0x7FC00000).setReg 3 0x3F800000
    F.ty = 4 ∧ F.c < 8 ∧ thread0.ftz = false ∧ (Fmt.f32.decode false ((F.opA false group0 thread0).toNat % 2 ^ 32)).isNan = false ∧
    (Fmt.f32.decode false ((F.opA false group0 y).toNat % 2 ^ 32)).isNan = true ∧ Fmt.f32.decode false 0x3F800000 = .fin false 0x800000 (-23) ∧
    Fmt.f32.decode false 0x00000001 = .fin false 1 (-149) ∧ Fmt.f32.decode false 0 = .fin false 0 (-149) ∧
    Fmt.bf16.decode false 0xFF80 = .inf true ∧ Fmt.f16.decode false 0x7D00 = .nan true := by decide +kernel

/-- Conversions inside and outside a range, and tapered roundings below, among and above the codes. -/
theorem witness_ConversionRounding : (Machine.Num.fin true 5 (-1)).clampInt .rn (-128) 127 = (-2, flagNX) ∧
    (Machine.Num.fin false 1 7).clampInt .rn (-128) 127 = (127, flagNV) ∧ (Machine.Num.fin true 1000 0).clampInt .rz 0 255 = (0, flagNV) ∧
    ((Machine.Num.fin false 1 20).roundTap 8) = (127, 0x14) ∧ ((Machine.Num.fin true 1 0).roundTap 6).2 = 0 ∧ ((Machine.Num.fin false 1 (-40)).roundTap 8).1 = 0 := by
  decide +kernel

/-! Encodings and the step. -/

/-- Instructions of every form of encoding, at extreme field values. -/
theorem witness_DecodeOfEncode : ∀ i ∈ ([.iadd ⟨63, 0, 63, 7⟩, .st ⟨63, 1, 7, true, 31⟩, .bra ⟨7, true, 0xFFFFF⟩, .icmpX 7 (.lit ⟨63, 63, 63, 7⟩ (-1)),
    .fmulX (.ext ⟨255, 255, 255, 255, true, 15, true, true, true, true, true, 7, 127, 0xFFFFFFFF⟩), .ffma (.extLit (ex 1 2 3 4 5) 1),
    .hint 0xFFFFFF, .illegalOpcode (.one 0x3FFFFFFF)] : List Instr), i.wf = true ∧ encode i ≠ [] := by decide

theorem witness_EncodeOfDecode : ([] : List Word).length + 1 < Claims.lenWords 0xC1000000 ∧
    Claims.lenWords 0xC1000000 ≤ ([1, 2, 3, 4] : List Word).length + 1 ∧ Claims.lenWords 0 ≤ ([] : List Word).length + 1 := by decide

/-- The module with an IADD staged: its partition chooses the bundle, fetches the word, and has nothing to do first. -/
def staged : State := State.reset.withFetchWord 32 0x02041040
theorem witness_StepRunsInstruction :
    (staged.power = .on ∧ staged.agenda = .issue 0 0 [0] :: [] ∧ staged.stopped = false ∧ (staged.partition 0 0).lastAt ≠ staged.cycle + 1 ∧
      let u := State.settled { staged with agenda := [], turn := staged.turn + 1 } 0 0
      let p := u.partition 0 0
      orderBy (u.chooseKey p) (u.choices 0 0 [0]) = [0] ∧ p.bundles.getD 0 [] = [65536] ∧
        Claims.wordsAt u 65536 = .ok [0x02041040] ∧ decodeWords [0x02041040] = .ok (.iadd ⟨1, 1, 1, 0⟩, [])) ∧
    Claims.Free (State.settled { staged with agenda := [], turn := staged.turn + 1 } 0 0) [65536] [0x02041040] (.iadd ⟨1, 1, 1, 0⟩) ∧
    ({ staged with agenda := [.event .thermalStop .nothing] }).power = .on := by
  refine ⟨⟨by decide +kernel, by decide +kernel, by decide +kernel, by decide +kernel, by decide +kernel, by decide +kernel,
    ok_of (by decide +kernel), rfl⟩, ⟨by decide +kernel, by decide +kernel, ?_⟩, by decide +kernel⟩
  intro f hf
  cases hf
  decide +kernel

/-! REP, EXIT and the accesses of a thread. -/

/-- The machine with words at the instruction behind a twelve-byte one at the PC. -/
def coded (ws : List Word) : State :=
  { base with hbm := Tab.putBytes [] 0x2010C (ws.flatMap bytesOfWord), issue := { base.issue with next := ptrAdd pc0 12 } }

/-- The threads between two iterations of a pair of a REP and an IADD that they hold. -/
def between : State :=
  let t : Thread := { thread0 with inRep := true, rpc := 3, pair := some ⟨[0x4E080028, 4, 0], [0x02041040]⟩ }
  { coded [0x02041040] with threads := [(ta, t), (tb, t)] }

/-- Pairs of REP and an IADD, with count 4 and count 0; a REP over a word of the hint space; a pair whose REP's guard is false throughout; and
one in its second iteration. -/
theorem witness_RepIterates : ∀ e ∈ ([(coded [0x02041040], .repX (.lit ⟨2, 0, 0, 0⟩ 4), [0x02041040]), (coded [0x02041040], .repX (.lit ⟨1, 0, 0, 0⟩ 0), [0x02041040]),
      (coded [0xC1000000, 1, 2, 3, 4], .repX (.lit ⟨1, 0, 0, 0⟩ 4), [0xC1000000, 1, 2, 3, 4]),
      (coded [0x02041040], .repX (.lit ⟨1, 0, 0, 1⟩ 4), [0x02041040]), (between, .repX (.lit ⟨1, 0, 0, 0⟩ 4), [0x02041040])] :
      List (State × Instr × List Word)),
    let s := e.1
    let F := fieldsOf e.2.1
    e.2.1.wf = true ∧ e.2.1.fields? = some F ∧ F.maj = 0x0E ∧ F.mn = 5 ∧ s.issue.threads = [ta, tb] ∧ s.targetWords ta s.issue.next = .ok e.2.2 ∧
    (∀ tid ∈ Claims.pairThreads s F, s.repFault F (e.2.2.getD 0 0) (instrOf e.2.2) tid = none) ∧
    ((F.x = 0 ∨ Claims.pairThreads s F = []) ∨ (F.x ≠ 0 ∧ Claims.pairThreads s F = [ta, tb])) := by
  intro e he
  simp only [List.mem_cons, List.not_mem_nil, or_false] at he
  rcases he with rfl | rfl | rfl | rfl | rfl <;>
    exact ⟨by decide +kernel, by decide +kernel, by decide +kernel, by decide +kernel, by decide +kernel, ok_of (by decide +kernel),
      by decide +kernel, by decide +kernel⟩
theorem witness_repTarget : ∀ i ∈ ([.iadd ⟨1, 1, 1, 0⟩, .ld ⟨7, 4, 2, false, 0⟩, .pref ⟨0, 4, 2, false, 31⟩] : List Instr),
    i.wf = true ∧ i.fields? = some (fieldsOf i) ∧ repBars (fieldsOf i).maj = false := by decide

/-- One of the two threads exits; and both. -/
def leaving : State := { base with issue := { base.issue with threads := [ta] } }
theorem witness_ExitEndsThreads : (∀ s ∈ [base, leaving], Fits s calmOwn (fun F => F.maj = 0x0E ∧ F.mn = 7) (.exit ⟨0, 0, 0, 0⟩) ∧
      s.issue.threads.Nodup ∧ (∀ tid ∈ s.issue.threads, teamOf (gidOf tid) = s.issue.team) ∧ (∃ T, s.teams.get? s.issue.team = some T ∧ T.place ≠ .ended ∧ T.ending = none) ∧
      ∀ u y, s.threads.get? u = some y → teamOf (gidOf u) = s.issue.team → y.wait = .none ∧ y.inHandler = false) ∧
    (∀ tid ∈ leaving.guarded (fieldsOf (.exit ⟨0, 0, 0, 0⟩)), ∃ u y, leaving.threads.get? u = some y ∧ gidOf u = gidOf tid ∧ y.life ≠ .exited ∧
      u ∉ leaving.guarded (fieldsOf (.exit ⟨0, 0, 0, 0⟩))) ∧
    (∀ u y, base.threads.get? u = some y → y.life = .exited ∨ u ∈ base.guarded (fieldsOf (.exit ⟨0, 0, 0, 0⟩))) := by
  refine ⟨?_, ?_, ?_⟩
  · intro s hs
    simp only [List.mem_cons, List.not_mem_nil, or_false] at hs
    rcases hs with rfl | rfl <;>
      exact ⟨of_meets (is := [.exit ⟨0, 0, 0, 0⟩]) (by decide +kernel) _ (by decide), by decide +kernel, by decide +kernel,
        ⟨team0, by decide +kernel⟩, all_get (by decide +kernel)⟩
  · intro tid ht
    exact ⟨tb, thread0, by decide +kernel, by revert tid; decide +kernel, by decide +kernel, by decide +kernel⟩
  · exact all_get (by decide +kernel)

/-- Pointers into data segment 6 in v4:v5 (one of them at the segment's end), scratchpad addresses in v6, a byte mask in v8. -/
def mem : State := { base with
  turn := 1
  threads := [(ta, ((thread0.setReg64 4 (mkPtr 6 0x100)).setReg 6 0x40).setReg 8 5),
    (tb, ((thread0.setReg64 4 (mkPtr 6 0xFFF0)).setReg 6 0xFF0).setReg 8 0)] }

theorem witness_loads : ∀ i ∈ ([.ld ⟨7, 4, 2, false, 0⟩, .ld ⟨8, 4, 4, false, 0⟩, .ld ⟨7, 4, 0, true, 15⟩,
      .ldX (.ext (ex 7 4 0 0x68 0x20)), .ldX (.ext (ex 7 4 0 0x6C 0x20))] : List Instr),
    Fits mem calmOwn (fun F => F.maj = 0x0F ∧ F.mn = 0 ∧ ∀ tid ∈ mem.guarded F, (Claims.homeAt mem F .read tid).isSome ∧
      Claims.touchesSeal mem F tid = false ∧ mem.flkCtl.getLsbD 31 = false ∧ mem.poison = [] ∧ mem.badLines = []) i := of_meets (by decide +kernel)
theorem witness_scratchLoads : ∀ i ∈ ([.lds ⟨7, 6, 2, false, 0⟩, .lds ⟨8, 6, 4, false, 0⟩] : List Instr),
    Fits mem calmOwn (fun F => F.maj = 0x0F ∧ F.mn = 2 ∧ ∀ tid ∈ mem.guarded F, (Claims.spadAt mem F .read tid).isSome) i :=
  of_meets (by decide +kernel)

/-- Relaxed stores, a masked one with no byte, and stores with a release at team, gang and dev. -/
theorem witness_stores : ∀ i ∈ ([.st ⟨30, 4, 2, false, 0⟩, .stX (.ext (ex 30 4 8 0x01 0x20 0)), .stX (.ext (ex 30 4 0 0x30 0x20 0)),
      .stX (.ext (ex 30 4 0 0x50 0x20 0)), .stX (.ext (ex 255 4 0 0x70 0x40))] : List Instr),
    Fits mem calmOwn (fun F => F.maj = 0x0F ∧ F.mn = 1 ∧ ((F.releases = false ∨ F.scope < 2) ∨ (F.releases = true ∧ 2 ≤ F.scope)) ∧
      ∀ tid ∈ mem.guarded F, mem.storeFault F tid = none ∧ (Claims.homeAt mem F .write tid).isSome ∧ (mem.group (gidOf tid)).spec = none ∧
        (mem.groups.get? (gidOf tid)).isSome ∧ mem.unmatched (gidOf tid) = [] ∧ mem.turn ≠ 0) i := of_meets (by decide +kernel)
theorem witness_scratchStores : ∀ i ∈ ([.sts ⟨30, 6, 2, false, 0⟩, .stsX (.ext (ex 30 6 8 0x01 0x20 0)), .stsX (.ext (ex 30 6 0 0x50 0x20 0))] : List Instr),
    Fits mem calmOwn (fun F => F.maj = 0x0F ∧ F.mn = 3 ∧ (State.groupsIn (mem.guarded F)).length ≤ 1 ∧
      ∀ tid ∈ mem.guarded F, (Claims.spadAt mem F .write tid).isSome ∧ (mem.group (gidOf tid)).spec = none ∧ (mem.groups.get? (gidOf tid)).isSome ∧
        (∀ p ∈ Claims.spadAt mem F .write tid, (mem.teams.get? p.1).isSome) ∧
        spadFault F mem tid (storeMask F (mem.thread tid) == 0) .write = none ∧
        mem.storeShadow F tid = none ∧ mem.turn ≠ 0) i := of_meets (by decide +kernel)

/-- The first thread of a second group of the team, and the two threads of lane 0 at one address, in the bundle of both groups. -/
def tc : Nat := 65600
def twin (sp : Option Spec) (shadow : Option Shadow) : State :=
  let g : Group := { group0 with spec := sp, shadow := shadow }
  { mem with
    groups := [(1024, g), (1025, g)], threads := [(ta, (mem.thread ta).setReg 30 7), (tc, ((mem.thread ta).setReg 30 9))]
    issue := { mem.issue with threads := [ta, tc] } }

/-- Two groups write one byte, relaxed and with a release at team; and two speculating groups each hold their store. -/
theorem witness_storesOfTwo : ∀ i ∈ ([.st ⟨30, 4, 2, false, 0⟩, .stX (.ext (ex 30 4 0 0x30 0x20 0))] : List Instr),
    (Fits (twin none none) calmOwn (fun F => F.maj = 0x0F ∧ F.mn = 1 ∧ (F.releases = false ∨ F.scope < 2) ∧
      let s := twin none none
      State.groupsIn (s.guarded F) = [1024, 1025] ∧ s.domOf 1024 = s.domOf 1025 ∧ (s.group 1024).path = [] ∧ (s.group 1025).path = [] ∧
        ∀ tid ∈ s.guarded F, s.storeFault F tid = none ∧ Claims.homeAt s F .write tid = Claims.homeAt s F .write ta ∧
          (Claims.homeAt s F .write tid).isSome ∧ (s.groups.get? (gidOf tid)).isSome ∧ s.unmatched (gidOf tid) = [] ∧ s.turn ≠ 0) i) := of_meets (by decide +kernel)
/-- A shadow that has issued nothing yet. -/
def unmatched : Shadow := ⟨[], none, [], [], (twin none none).twinOf 1024⟩
def wishing : Spec := {
  key := 2, dom := 2, participants := [ta], target := pc0, next := ptrAdd pc0 12, cbr := pc0, taken := true, issues := 1, held := 1
  regs := [], savedThreads := [], savedScalars := [], stores := [], faults := [] }
theorem witness_heldStores : Fits (twin (some wishing) none) calmOwn (fun F => F.maj = 0x0F ∧ F.mn = 1 ∧ ∀ tid ∈ (twin (some wishing) none).guarded F,
    (twin (some wishing) none).storeFault F tid = none ∧ (Claims.homeAt (twin (some wishing) none) F .write tid).isSome ∧
      ((twin (some wishing) none).groups.get? (gidOf tid)).isSome ∧ ((twin (some wishing) none).group (gidOf tid)).spec.isSome) (.st ⟨30, 4, 2, false, 0⟩) :=
  of_meets (is := [.st ⟨30, 4, 2, false, 0⟩]) (by decide +kernel) _ (by decide)
/-- Two groups write one byte of the scratchpad, one of them shadowed and both. -/
theorem witness_scratchOfTwo : ∀ h ∈ [none, some unmatched], Fits (twin none h) calmOwn (fun F => F.maj = 0x0F ∧ F.mn = 3 ∧ F.releases = false ∧
    let s := twin none h
    ∀ tid ∈ s.guarded F, Claims.spadAt s F .write tid = Claims.spadAt s F .write ta ∧ (Claims.spadAt s F .write tid).isSome ∧ (s.group (gidOf tid)).spec = none ∧
      (s.groups.get? (gidOf tid)).isSome ∧ (s.group (gidOf tid)).spadPath = [] ∧
      (∀ p ∈ Claims.spadAt s F .write tid, (s.teams.get? p.1).isSome) ∧ spadFault F s tid (storeMask F (s.thread tid) == 0) .write = none ∧
      s.storeShadow F tid = none ∧ s.turn ≠ 0) (.sts ⟨30, 6, 2, false, 0⟩) := by
  intro h hh
  simp only [List.mem_cons, List.not_mem_nil, or_false] at hh
  rcases hh with rfl | rfl <;> exact of_meets (is := [.sts ⟨30, 6, 2, false, 0⟩]) (by decide +kernel) _ (by decide)
theorem witness_PrefetchChangesNothing : ∀ i ∈ ([.pref ⟨0, 4, 2, false, 31⟩] : List Instr),
    Fits base calmOwn (fun F => F.maj = 0x0F ∧ F.mn = 4) i := of_meets (by decide +kernel)

/-! Lanes, barriers, meetings. -/

theorem witness_shfl : ∀ i ∈ ([.shfl (.ext (ex 1 2 3 0)), .shfl (.ext (exi 4 3 3 3 1)), .shfl (.ext (exi 2 4 4 15 0xB))] : List Instr),
    Fits base calmOwn (fun F => F.maj = 0x14 ∧ F.mn = 0 ∧ ∀ tid ∈ base.guarded F, base.widthOf (gidOf tid) ∈ [16, 32, 64]) i := of_meets (by decide +kernel)
theorem witness_vtos : ∀ i ∈ ([.vtos (.ext { ex 1 2 0 0 with cd := true, xb := true, x := 17 }), .vtos (.ext { ex 2 4 3 0 8 with cd := true, cb := true })] : List Instr),
    Fits base calmOwn (fun F => F.maj = 0x14 ∧ F.mn = 6) i := of_meets (by decide +kernel)
theorem witness_votes : ∀ i ∈ ([.vote (.ext (ex 1 2 0 0)), .vote (.ext (ex 15 2 0 0 1)), .vote (.ext (ex 1 15 0 0 2))] : List Instr),
    Fits base calmOwn (fun F => F.maj = 0x14 ∧ F.mn = 1 ∧ F.low3 ≠ 3) i := of_meets (by decide +kernel)
theorem witness_ballots : ∀ i ∈ ([.vote (.ext (ex 1 2 0 0 3)), .vote (.ext { ex 1 2 0 0 3 with cd := true })] : List Instr),
    Fits base calmOwn (fun F => F.maj = 0x14 ∧ F.mn = 1 ∧ F.low3 = 3) i := of_meets (by decide +kernel)
theorem witness_match : ∀ i ∈ ([.matchLanes (.ext (ex 1 2 0 15)), .matchLanes (.ext (ex 1 2 0 3 8))] : List Instr),
    Fits base calmOwn (fun F => F.maj = 0x14 ∧ F.mn = 2) i := of_meets (by decide +kernel)
theorem witness_Election : ∀ i ∈ ([.elect (.ext (ex 1 0 0 0)), .elect (.ext (ex 15 0 0 0))] : List Instr),
    Fits base calmOwn (fun F => F.maj = 0x14 ∧ F.mn = 5) i := of_meets (by decide +kernel)
theorem witness_LaneReductions : (∀ i ∈ ([.redux (.ext (ex 1 2 0 0 0)), .redux (.ext { ex 1 2 0 0 0x21 with cd := true }), .scan (.ext (ex 2 4 0 2 8))] : List Instr),
    Fits base calmOwn (fun F => F.maj = 0x14 ∧ (F.mn = 3 ∨ F.mn = 4) ∧ base.issue.threads.Nodup ∧ base.guarded F = [ta, tb]) i) ∧
    ([ta, tb] : List Nat).Pairwise (· < ·) := ⟨of_meets (by decide +kernel), by decide⟩

/-- Two threads of a team of two arrive and complete the phase; one of them leaves it open; one barrier holds an arrival already. -/
def halfway : State := { leaving with
  teams := [(1, { team0 with bars := [(3, { Barrier.fresh 2 with arrived := [tb], start := 0, limit := 9 })] })]
  threads := [(ta, thread0), (tb, { thread0 with wait := .barrier 3 0 16 false, after := ptrAdd pc0 4 })] }
def arrivals : List Instr := [.bar (.ext (ex 0 0 0 3)), .bara (.ext (ex 0 2 0 3)), .barw (.ext (ex 1 2 0 3 1))]
theorem witness_barriers :
    let arrive (s : State) (F : Fields) : Prop := F.maj = 0x15 ∧ F.mn < 3 ∧ s.issue.threads.Nodup ∧
      (∀ tid ∈ s.issue.threads, teamOf (gidOf tid) = s.issue.team) ∧ (s.teams.get? s.issue.team).isSome ∧
      ∀ tid ∈ s.guarded F, tid ∉ (s.barrier s.issue.team (F.c % 16)).arrived
    let total (s : State) (i : Instr) : Nat := (s.barrier 1 3).arrived.length + (s.guarded (fieldsOf i)).length
    (∀ i ∈ arrivals, Fits base calmOwn (arrive base) i) ∧ (∀ i ∈ arrivals, Fits leaving calmOwn (arrive leaving) i) ∧
    (∀ i ∈ arrivals, Fits halfway calmOwn (arrive halfway) i) ∧
    (∀ i ∈ arrivals, (base.barrier 1 3).e ≤ total base i ∧ total leaving i < (leaving.barrier 1 3).e ∧ (halfway.barrier 1 3).e ≤ total halfway i) ∧
    Claims.waitsAt halfway 1 3 (halfway.thread tb) 16 false :=
  ⟨of_meets (by decide +kernel), of_meets (by decide +kernel), of_meets (by decide +kernel), by decide +kernel, by unfold Claims.waitsAt; decide +kernel⟩
/-- The other thread's wait stands in its trap slot. -/
def halfwaySlot : State := { halfway with
  threads := [(ta, thread0), (tb, { thread0 with slotF := some { thread0.toSlot 0 pc0 with wait := .barrier 3 0 2 true } })] }
theorem witness_slotBarrier : (∀ i ∈ arrivals, Fits halfwaySlot calmOwn (fun F => F.maj = 0x15 ∧ F.mn < 3 ∧ halfwaySlot.issue.threads.Nodup ∧
      (∀ tid ∈ halfwaySlot.issue.threads, teamOf (gidOf tid) = 1) ∧ halfwaySlot.issue.team = 1 ∧ (halfwaySlot.teams.get? 1).isSome ∧
      (∀ tid ∈ halfwaySlot.guarded F, tid ∉ (halfwaySlot.barrier 1 (F.c % 16)).arrived) ∧
      (halfwaySlot.barrier 1 3).e ≤ (halfwaySlot.barrier 1 3).arrived.length + (halfwaySlot.guarded F).length) i) ∧
    (halfwaySlot.thread tb).slotF.map (·.wait) = some (.barrier 3 (halfwaySlot.barrier 1 3).phase 2 true) :=
  ⟨of_meets (by decide +kernel), by decide +kernel⟩
theorem witness_bari : ∀ i ∈ ([.bari (.ext { ex 0 0 0 3 with xb := true, x := 0 }), .bari (.ext { ex 0 0 0 15 with xb := true, x := 2 })] : List Instr),
    Fits base calmOwn (fun F => F.maj = 0x15 ∧ F.mn = 3 ∧ (base.teams.get? base.issue.team).isSome ∧ tb ∈ base.guarded F ∧
      ∀ u ∈ base.guarded F, u ≤ tb) i := of_meets (by decide +kernel)

theorem witness_meet : (∀ i ∈ ([.meet (.ext (ex 0 0 0 0 0 16)), .meetPop (.ext (ex 0 0 0 0 1))] : List Instr),
    Fits base calmOwn (fun F => F.maj = 0x15 ∧ F.mn = 4 ∧
      ∀ tid ∈ base.guarded F, F.modBit 0 = false → (base.thread tid).meet = none ∨ (base.thread tid).meets.length < 8) i) ∧
    ∀ u z, base.threads.get? u = some z → z.atMeeting = false := ⟨of_meets (by decide +kernel), all_get (by decide +kernel)⟩
theorem witness_nap : ∀ i ∈ ([.nap (.ext { ex 0 0 0 0 with xb := true, x := 0x2000000 })] : List Instr),
    Fits base calmOwn (fun F => F.maj = 0x15 ∧ F.mn = 5) i := of_meets (by decide +kernel)
theorem witness_bkoff : (∀ i ∈ ([.bkoff (.ext (ex 0 2 0 0)), .bkoff (.ext (ex 0 15 0 0))] : List Instr),
    Fits base calmOwn (fun F => F.maj = 0x15 ∧ F.mn = 6) i) ∧
    (∃ u, Claims.Part base (fieldsOf (.bkoff (.ext (ex 0 15 0 0)))) 1024 u ∧ (base.thread u).pred 15 = true) ∧
    (¬ ∃ u, Claims.Part base (fieldsOf (.bkoff (.ext (ex 0 2 0 0)))) 1024 u ∧ (base.thread u).pred 2 = true) := by
  refine ⟨of_meets (by decide +kernel), ⟨ta, ⟨by decide +kernel, by decide +kernel⟩, by decide +kernel⟩, ?_⟩
  rintro ⟨u, ⟨h, -⟩, hp⟩
  revert hp
  revert u
  decide +kernel

/-- R153, R166: a thread that exits after its BARA keeps its arrival, loses its vote, and counts no more from the next phase. -/
theorem test_exit_drops_vote :
    let b := ((base.setBarrier 1 0 { base.barrier 1 0 with e := 2, arrived := [ta], votes := [(ta, true)] }).deductBarrier ta 0).barrier 1 0
    b.votes = [] ∧ b.arrived = [ta] ∧ b.e = 2 ∧ b.nextDrop = 1 := by decide +kernel

/-- R195, R196: a producer between iterations of a REP pair goes on with its pair after the pass. -/
theorem test_pass_keeps_pair :
    let t : Thread := { thread0 with inRep := true, rpc := 3, wait := .none, pc := pc0 }
    let u := ({ t with inRep := false, rpc := 0, pc := ptrAdd pc0 64 } : Thread).restoreState t.saveState (fun _ => false)
    u.inRep = true ∧ u.rpc = 3 ∧ u.pc = pc0 := by decide +kernel

/-! The collective branch. -/

def scalars (l : List (Nat × Word)) : Group := { group0 with sregs := l }
/-- The group has counts 1, 1, 1 at level 0 in s16 to s19, and a declaration of them in domain 2. -/
def coll : State := { base with
  groups := [(1024, { scalars [(16, 1), (17, 1), (18, 1)] with doms := [(2, { DomainUse.none with decl := some ⟨1, 1, 1, 0⟩, count := 5 })] })] }

theorem witness_cmq : ∀ i ∈ ([.cmq (.ext { ex 40 0 0 2 with cd := true }), .cmq (.ext { ex 127 0 0 15 with cd := true })] : List Instr),
    Fits coll calmOwn (fun F => F.maj = 0x16 ∧ F.mn = 3) i := of_meets (by decide +kernel)
theorem witness_cmemb : ∀ i ∈ ([.cmemb (.ext { ex 0 16 0 15 with ca := true }), .cmemb (.ext { ex 0 16 0 2 with ca := true })] : List Instr),
    Fits coll calmOwn (fun F => F.maj = 0x16 ∧ F.mn = 2 ∧ ∀ tid ∈ coll.guarded F,
      coll.declReason (gidOf tid) (F.c % 16) (Claims.counts (coll.group (gidOf tid)) F.a) = none) i := of_meets (by decide +kernel)
theorem witness_branch : ∀ i ∈ ([.cbr (.ext (ex 0 3 0 0x22 0 0xFFFFFFF6)), .cbr (.ext (ex 0 15 0 0x12 0 6))] : List Instr),
    Fits coll calmOwn (fun F => F.maj = 0x16 ∧ F.mn = 0 ∧ (∀ tid ∈ coll.issue.threads, gidOf tid = 1024) ∧ (coll.groups.get? 1024).isSome ∧
      ((coll.group 1024).domain (F.c % 16)).decl = some ⟨1, 1, 1, 0⟩ ∧ coll.entryReason 1024 (F.c % 16) = none) i := of_meets (by decide +kernel)
theorem witness_cbsync : ∀ i ∈ ([.cbsync (.ext (ex 0 0 0 2))] : List Instr),
    Fits coll calmOwn (fun F => F.maj = 0x16 ∧ F.mn = 1 ∧ (∀ tid ∈ coll.issue.threads, gidOf tid = 1024) ∧ (coll.groups.get? 1024).isSome ∧
      ((coll.group 1024).domain (F.c % 16)).decl = some ⟨1, 1, 1, 0⟩ ∧ coll.entryReason 1024 (F.c % 16) = none) i := of_meets (by decide +kernel)

/-! Generator loops: all sixteen lanes hold a thread. -/

def lanes : List Nat := (List.range 16).map (ta + ·)
/-- A descriptor in s16 to s19: T 16, E 2, C 32 at scratchpad 0x100, two registers at v8 and v16. -/
def describe : Group := scalars [(16, 0x100), (17, 0x01020020), (18, 0x00020810)]
def full (g : Option Gen) (who : List Nat) : State := { base with
  groups := [(1024, { describe with gen := g })], threads := lanes.map (fun t => (t, thread0)),
  teams := [(1, { team0 with tsize := 16 })], issue := { base.issue with threads := who } }
def gen0 : Gen :=
  { buf := 0x100, t := 16, e := 2, c := 32, f := 2, qb := 8, pb := 16, head := 30, cnt := 0, frc := false, prd := List.range 16, tags := [],
    saved := (List.range 16).map (fun l => (l, thread0.saveState)), entry := [], consumer := false, n := 0, arrived := [], cons := ptrAdd pc0 64, done := ptrAdd pc0 96 }

theorem oneGroup_of {s : State} {i : Instr} {mn : Nat} (h : Fits s calmOwn (fun F => F.maj = 0x17 ∧ F.mn = mn ∧ s.issue.threads.Nodup ∧
    ∀ tid ∈ s.issue.threads, gidOf tid = 1024) i) : ∃ F, Claims.OneGroup s i F 1024 mn := by
  obtain ⟨F, h1, h2, ⟨h3, h4, h5, h6⟩, h7, h8⟩ := h
  exact ⟨F, ⟨h1, h2, h3, h4, h7, h5, h6, h8⟩⟩

theorem one_of {s : State} {i : Instr} {mn : Nat} (h : ([i] : List Instr).all (meets s calmOwn (fun F => decide (F.maj = 0x17 ∧ F.mn = mn ∧ s.issue.threads.Nodup ∧
    ∀ tid ∈ s.issue.threads, gidOf tid = 1024))) = true) : ∃ F, Claims.OneGroup s i F 1024 mn := oneGroup_of (of_meets h i (by simp))

theorem witness_gstat : (∃ F, Claims.OneGroup (full (some { gen0 with cnt := 32 }) lanes) (.gstat (.ext { ex 40 0 0 0 with cd := true })) F 1024 5) ∧
    ({ gen0 with cnt := 32 }).cnt < 8192 := ⟨one_of (by decide +kernel), by decide⟩

def genRow : Instr := .gen (.ext { ex 0 16 0 0 with ca := true, x := 0x00220014 })
/-- One lane reaches the GEN, and all of them. -/
theorem witness_gen : (∃ F, Claims.OneGroup (full none [ta]) genRow F 1024 0) ∧ (∃ F, Claims.OneGroup (full none lanes) genRow F 1024 0) ∧
    (full none [ta]).presentOf 1024 = (full none [ta]).threadsOf 1024 ∧ ((full none [ta]).threadsOf 1024).length = (full none [ta]).widthOf 1024 ∧
    (tb ∈ (full none [ta]).presentOf 1024 ∧ tb ∉ (full none [ta]).guarded (fieldsOf genRow) ∧ ((full none [ta]).thread tb).waitsAs Wait.atGen = false) ∧
    (let s := full none lanes
     (s.group 1024).gen = none ∧ (∀ u ∈ s.presentOf 1024, u ∈ s.guarded (fieldsOf genRow)) ∧ (s.presentOf 1024).length = s.widthOf 1024 ∧
     (s.threadsOf 1024).length = s.widthOf 1024 ∧ (∀ u ∈ s.guarded (fieldsOf genRow), (s.thread u).pc = s.issue.pc ∧ (s.thread u).life ≠ .exited) ∧
     (genCheck s 1024 (fieldsOf genRow) (genLabels (fieldsOf genRow) s.issue.self).1 (genLabels (fieldsOf genRow) s.issue.self).2).toOption.isSome = true) :=
  ⟨one_of (by decide +kernel), one_of (by decide +kernel), by decide +kernel, by decide +kernel, by decide +kernel, by decide +kernel⟩
/-- The last lane reaches the GEN at which the others wait. -/
def lastAt : State := { full none [ta] with threads := (ta, thread0) :: (lanes.drop 1).map (fun t => (t, { thread0 with wait := .gen })) }
theorem witness_genLast : (∃ F, Claims.OneGroup lastAt genRow F 1024 0) ∧ (lastAt.group 1024).gen = none ∧
    (∀ u ∈ lastAt.presentOf 1024, u ∈ lastAt.guarded (fieldsOf genRow) ∨
      (u ∉ lastAt.issue.threads ∧ (lastAt.thread u).wait = .gen ∧ (lastAt.thread u).pc = lastAt.issue.pc)) ∧
    (lastAt.presentOf 1024).length = lastAt.widthOf 1024 ∧ (lastAt.threadsOf 1024).length = lastAt.widthOf 1024 ∧
    (genCheck lastAt 1024 (fieldsOf genRow) (genLabels (fieldsOf genRow) lastAt.issue.self).1 (genLabels (fieldsOf genRow) lastAt.issue.self).2).toOption.isSome = true :=
  ⟨one_of (by decide +kernel), by decide +kernel, by decide +kernel, by decide +kernel, by decide +kernel, by decide +kernel⟩

theorem inRegion_of {s : State} {g : Gen} {c : Bool} (h : (s.groups.get? 1024).bind (·.gen) = some g ∧ g.consumer = c ∧ g.frc = false ∧ g.prd ≠ [] ∧
    0 < g.t ∧ 0 < s.widthOf 1024 ∧ 0 < g.c ∧ 0 < g.e) : Claims.InRegion s 1024 g c := by
  obtain ⟨h1, h2, h3, h4, h5⟩ := h
  refine ⟨?_, h2, h3, h4, h5⟩
  cases hx : s.groups.get? 1024 with
  | none => simp [hx] at h1
  | some x => exact ⟨x, rfl, by simpa [hx] using h1⟩

/-- Two participants yield, one a vz, into a buffer that stays below T. -/
theorem witness_yield : ∀ i ∈ ([.yield (.ext (ex 0 20 0 0)), .yield (.ext (ex 0 255 0 0))] : List Instr),
    (∃ F, Claims.OneGroup (full (some { gen0 with cnt := 13 }) [ta, tb]) i F 1024 1) ∧ Claims.InRegion (full (some { gen0 with cnt := 13 }) [ta, tb]) 1024 { gen0 with cnt := 13 } false ∧
    (full (some { gen0 with cnt := 13 }) [ta, tb]).guarded (fieldsOf i) = [ta, tb] ∧
    (full (some { gen0 with cnt := 13 }) [ta, tb]).unmatched 1024 = [] ∧ ((full (some { gen0 with cnt := 13 }) [ta, tb]).team
      (((full (some { gen0 with cnt := 13 }) [ta, tb]).spadTeam 1024 (gen0.buf.extractLsb' 19 2).toNat).getD (teamOf 1024))).place ≠ .ended ∧ ((fieldsOf i).a = 255 ∨ (fieldsOf i).a + gen0.e ≤ min 255 launch0.regs) := by
  intro i hi
  simp only [List.mem_cons, List.not_mem_nil, or_false] at hi
  rcases hi with rfl | rfl <;>
    exact ⟨one_of (by decide +kernel), inRegion_of (by decide +kernel), by decide +kernel, by decide +kernel, by decide +kernel, by decide +kernel⟩

def gendRow : Instr := .gend (.ext (ex 0 0 0 0))
/-- A lane leaves production while others stay, the last ones leave an empty region, and the last ones leave one that holds an entry. -/
theorem witness_gend : (∃ F, Claims.OneGroup (full (some gen0) [ta]) gendRow F 1024 2) ∧ Claims.InRegion (full (some gen0) [ta]) 1024 gen0 false ∧
    (∃ F, Claims.OneGroup (full (some { gen0 with prd := [0, 1] }) [ta, tb]) gendRow F 1024 2) ∧
    Claims.InRegion (full (some { gen0 with prd := [0, 1] }) [ta, tb]) 1024 { gen0 with prd := [0, 1] } false ∧
    gen0.prd.filter (fun l => !((full (some gen0) [ta]).guarded (fieldsOf gendRow)).any (fun u => laneOf u == l)) ≠ [] ∧
    ([0, 1] : List Nat).filter (fun l => !((full (some { gen0 with prd := [0, 1] }) [ta, tb]).guarded (fieldsOf gendRow)).any (fun u => laneOf u == l)) = [] ∧
    (∀ l ∈ gen0.prd, l < 64) ∧ (∃ F, Claims.OneGroup (full (some { gen0 with prd := [0, 1], cnt := 1 }) [ta, tb]) gendRow F 1024 2) ∧
    Claims.InRegion (full (some { gen0 with prd := [0, 1], cnt := 1 }) [ta, tb]) 1024 { gen0 with prd := [0, 1], cnt := 1 } false :=
  ⟨one_of (by decide +kernel), inRegion_of (by decide +kernel), one_of (by decide +kernel), inRegion_of (by decide +kernel), by decide +kernel, by decide +kernel, by decide,
    one_of (by decide +kernel), inRegion_of (by decide +kernel)⟩

theorem witness_gdrain : ∀ n ∈ [0, 15], (∃ F, Claims.OneGroup (full (some { gen0 with cnt := n }) [ta]) (.gdrain (.ext (ex 0 0 0 0))) F 1024 4) ∧
    Claims.InRegion (full (some { gen0 with cnt := n }) [ta]) 1024 { gen0 with cnt := n } false ∧ ({ gen0 with cnt := n }).cnt < gen0.t := by
  intro n hn
  simp only [List.mem_cons, List.not_mem_nil, or_false] at hn
  rcases hn with rfl | rfl <;> exact ⟨one_of (by decide +kernel), inRegion_of (by decide +kernel), by decide⟩

def pass : Gen := { gen0 with consumer := true, n := 2, cnt := 2 }
/-- The first lane of a pass of two arrives; both do, and nothing is left in the buffer. -/
theorem witness_gnext : ∀ who ∈ [[ta], [ta, tb]], (∃ F, Claims.OneGroup (full (some pass) who) (.gnext (.ext (ex 0 0 0 0))) F 1024 3) ∧
    Claims.InRegion (full (some pass) who) 1024 pass true ∧ (full (some pass) who).guarded (fieldsOf (.gnext (.ext (ex 0 0 0 0)))) = who := by
  intro w hw
  simp only [List.mem_cons, List.not_mem_nil, or_false] at hw
  rcases hw with rfl | rfl <;> exact ⟨one_of (by decide +kernel), inRegion_of (by decide +kernel), by decide +kernel⟩

/-! Ray registers. -/

theorem witness_writesRay : (∀ i ∈ ([.hnrm (.ext (ex 3 4 0 0 0x20)), .hscl (.ext { ex 3 4 0 0 with xb := true, x := 0x10000 }), .hadd (.ext (ex 3 4 5 0)),
      .hneg (.ext (ex 31 0 0 0)), .hproj (.ext (ex 3 4 5 0)), .hsln (.ext { ex 3 0 0 0 with xb := true, x := 0x3F800000, mod := 0x20 }),
      .hmov (.ext (ex 3 4 0 0 1))] : List Instr),
    Fits base calmOwn (fun F => (F.maj = 0x18 ∧ F.mn ∈ [0, 3, 4, 5, 6]) ∨ (F.maj = 0x19 ∧ F.mn ∈ [1, 2])) i) ∧ ∀ gid, base.widthOf gid ≤ 64 :=
  ⟨of_meets (by decide +kernel), all_width (s := base) (P := (· ≤ 64)) (by decide) (by decide)⟩
theorem witness_readsRay : ∀ i ∈ ([.hdot (.ext (ex 3 4 5 0 1)), .hln (.ext { ex 9 4 0 0 0x20 with cd := true }), .hcls (.ext (ex 255 31 0 0))] : List Instr),
    Fits base calmOwn (fun F => (F.maj = 0x18 ∧ F.mn = 2) ∨ (F.maj = 0x19 ∧ F.mn ∈ [0, 3])) i := of_meets (by decide +kernel)
theorem witness_hexp : ∀ i ∈ ([.hexp (.ext (ex 2 4 0 0 0x20))] : List Instr), Fits base calmOwn (fun F => F.maj = 0x18 ∧ F.mn = 1) i :=
  of_meets (by decide +kernel)
/-- HLD and HST of the last 68 bytes of the data segment. -/
def rayMem : State := { base with groups := [(1024, scalars [(4, hiWord (mkPtr 6 0xFF00)), (5, loWord (mkPtr 6 0xFF00))])] }
theorem witness_rayAccess : ∀ i ∈ ([.hld (.ext { ex 3 4 0 0 with ca := true, x := 0xBC }), .hst (.ext { ex 3 4 0 0 with ca := true, x := 0xBC })] : List Instr),
    Fits rayMem calmOwn (fun F => F.maj = 0x19 ∧ (F.mn = 4 ∨ F.mn = 5) ∧ (∀ u ∈ rayMem.issue.threads, gidOf u = 1024) ∧
      rayMem.guarded F = [ta, tb] ∧ (rayMem.group 1024).spec = none ∧ rayMem.unmatched 1024 = [] ∧
      (∀ u ∈ rayMem.guarded F, rayMem.shadowFault u (hstOut F u) = none) ∧
      (∀ u ∈ rayMem.guarded F, Claims.rayAt rayMem F .read u = some 0x3FFBC ∧ Claims.rayAt rayMem F .write u = some 0x3FFBC) ∧
      rayMem.flkCtl.getLsbD 31 = false ∧ rayMem.poison = [] ∧ rayMem.badLines = [] ∧
      (rayMem.descOn 0 1 6).sl = false ∧ rayMem.sealed 1 6 0xFFBC 68 = false) i := of_meets (by decide +kernel)

/-- Rays of the four classes and directions for the statement about values. -/
theorem witness_RayValues : let g := { group0 with norms := [(1, 0x00010000), (3, 0x80000000), (4, 0xC0000000)], rays := [(64, 0x7FFF8001)] }
    (g.rayVal 16 1).cls = .normal ∧ (g.rayVal 16 1).ln = 0x10000 ∧ (g.rayVal 16 2).cls = .zero ∧ (g.rayVal 16 3).cls = .infinite ∧
    (g.rayVal 16 4).cls = .invalid ∧ (g.rayVal 16 1).ln % 65536 = 0 ∧ Fmt.f32.decode false 0x7F800000 = .inf false ∧
    Fmt.f32.decode false 0x7FC00000 = .nan false ∧ ([.nan false, .fin false 1 0] : List Machine.Num).any Machine.Num.isNan = true ∧
    ([.fin false 0 0] : List Machine.Num).all Machine.Num.isZero = true := by decide +kernel

/-! Symbolic references, keys and leases. -/

theorem sound_of {s : State} (h : s.flkCtl.getLsbD 31 = false ∧ s.poison = [] ∧ s.badLines = []) (a n : Nat) : Claims.Sound s a n := by
  obtain ⟨h1, h2, h3⟩ := h
  exact ⟨h1, fun k _ => by rw [h2, h3]; exact ⟨List.not_mem_nil, rfl⟩⟩

/-- Four linkage entries at segment 2: unbound, bound in the same segment, bound in segment 6, failed with reason 7. -/
def linked : State := { base with hbm := [(0x40008, 0x80), (0x4000D, 0x14), (0x4000F, 0x80), (0x40010, 0x80), (0x40015, 0x18), (0x40017, 0x80),
  (0x4001C, 0x07), (0x4001F, 0xC0)] }

theorem witness_linkage : ∀ i ∈ ([.calln (.ext { ex 0 0 0 0 with x := 1 }), .calln (.ext { ex 0 0 0 0 with x := 2 }), .jmpn (.ext { ex 0 0 0 0 with x := 1 }),
      .ldn (.ext { ex 4 0 0 0 with x := 2 }), .lnkq (.ext { ex 94 0 0 0 with cd := true, x := 0 }), .lnkq (.ext { ex 255 0 0 0 with x := 3 })] : List Instr),
    Fits linked calmOwn (fun F => F.maj = 0x22 ∧ F.mn < 4 ∧ linked.issue.threads.Nodup ∧ linked.guarded F = [ta, tb] ∧ ∀ tid ∈ linked.guarded F,
      Claims.entryAt linked F tid = some (0x40000 + 8 * F.x.toNat) ∧ (linked.thread tid).cross.length < 16 ∧
      (F.mn ≠ 3 → (Claims.entryOf linked F tid).extractLsb' 62 2 = 2)) i := of_meets (by decide +kernel)
theorem sound_linked (a n : Nat) : Claims.Sound linked a n := sound_of (by decide) a n

/-- The same with a resolver stub: the pointer at segment 4 names segment 7, a CODE segment with STUB; and without it. -/
def stubbed : State := { linked with
  descs := linked.descs ++ [(0x100004, ⟨0xC800000000000003, 0x1000, 0, 0⟩), (0x100007, ⟨0x9A80000000000000, 0x1000, 0, 0⟩)]
  pages := linked.pages ++ [(0x100000003, 0x8380000000050000)], hbm := linked.hbm ++ [(0x50005, 0x70)] }
theorem witness_unbound : ∀ s ∈ [linked, stubbed], ∀ i ∈ ([.calln (.ext { ex 0 0 0 0 with x := 0 }), .ldn (.ext { ex 4 0 0 0 with x := 3 }), .jmpn (.ext { ex 0 0 0 0 with x := 3 })] : List Instr),
    Fits s calmOwn (fun F => F.maj = 0x22 ∧ F.mn < 3 ∧ s.issue.threads.Nodup ∧ s.guarded F = [ta, tb] ∧ ∀ tid ∈ s.guarded F,
      Claims.entryAt s F tid = some (0x40000 + 8 * F.x.toNat) ∧ (Claims.entryOf s F tid).extractLsb' 62 2 ≠ 2 ∧ (s.thread tid).slotS = none) i := by
  intro s hs
  simp only [List.mem_cons, List.not_mem_nil, or_false] at hs
  rcases hs with rfl | rfl <;> exact of_meets (by decide +kernel)
theorem witness_stub : linked.stub 1024 linked.issue.pc = none ∧ stubbed.stub 1024 stubbed.issue.pc = some (mkPtr 7 0) ∧
    stubbed.flkCtl.getLsbD 31 = false ∧ stubbed.poison = [] ∧ stubbed.badLines = [] := by decide +kernel
theorem catches_linked : (∀ tid ∈ [ta, tb], Claims.Catches linked tid) ∧ ∀ tid ∈ [ta, tb], Claims.Catches stubbed tid := by
  unfold Claims.Catches; decide +kernel

theorem witness_segq : ∀ i ∈ ([.segq (.ext { ex 20 0 0 0 with cd := true, xb := true, x := 5 }), .segq (.ext { ex 92 0 6 0 with cd := true, cb := true })] : List Instr),
    Fits base calmOwn (fun F => F.maj = 0x21 ∧ F.mn = 3) i := of_meets (by decide +kernel)
theorem witness_pkrw : (∀ i ∈ ([.pkrw (.ext { ex 0 4 6 0 with ca := true, cb := true }), .pkrw (.ext { ex 0 127 94 0 with ca := true, cb := true })] : List Instr),
    Fits base calmOwn (fun F => F.maj = 0x21 ∧ F.mn = 4 ∧ base.guarded F = [ta, tb]) i) ∧ base.groups.keys = [1024] ∧ base.groups.keys.Pairwise (· < ·) ∧
    (base.groups.get? 1024).isSome = true ∧ (base.group 1024).core = 0 ∧ base.ctxOf 1024 = 1 ∧ base.contexts.get? 1 = some context0 ∧
    gidOf ta = 1024 ∧ gidOf tb = 1024 := ⟨of_meets (by decide +kernel), by decide +kernel⟩
theorem witness_pkrr : ∀ i ∈ ([.pkrr (.ext { ex 4 0 0 0 with cd := true })] : List Instr), Fits base calmOwn (fun F => F.maj = 0x21 ∧ F.mn = 5) i :=
  of_meets (by decide +kernel)
theorem witness_leaseq : ∀ i ∈ ([.leaseq (.ext { ex 1 4 6 0 with mod := 1 }), .leaseq (.ext { ex 1 4 0 0 with mod := 3, xb := true, x := 0 })] : List Instr),
    Fits mem calmOwn (fun F => F.maj = 0x21 ∧ F.mn = 6) i := of_meets (by decide +kernel)

/-! Atomics, PHASE and seals. -/

/-- Thread `ta` alone; and both threads at one address. -/
def alone : State := { mem with issue := { mem.issue with threads := [ta] } }
def together : State := { mem with threads := [(ta, thread0.setReg64 4 (mkPtr 6 0x100)), (tb, thread0.setReg64 4 (mkPtr 6 0x100))] }

theorem witness_atom : ∀ i ∈ ([.atom (.ext (ex 7 4 30 0x60)), .atom (.ext (ex 8 4 30 0x58 0x39)), .atom (.ext (ex 7 4 30 0x38 0x42))] : List Instr),
    Fits alone calmOwn (fun F => F.maj = 0x20 ∧ F.mn = 0 ∧ alone.issue.threads.Nodup ∧ alone.guarded F = [ta] ∧ (alone.threads.get? ta).isSome ∧
      (alone.groups.get? 1024).isSome ∧ (alone.group 1024).spec = none ∧ alone.shadowFault ta (atomOut F ta) = none ∧ alone.unmatched 1024 = [] ∧ Claims.atomAt alone F ta = some 0x30100 ∧
      let u := if F.releases then alone.publish 1024 F.scope else alone
      let v := if 2 ≤ F.scope then u.drainTo 1024 0x30100 (if F.mod.getLsbD 0 then 8 else 4) else u.drainPath 1024 (u.group 1024).path.length
      v.flkCtl.getLsbD 31 = false ∧ v.poison = [] ∧ v.badLines = [] ∧ (v.domain (alone.domOf 1024)).overlay.keys.Nodup) i := of_meets (by decide +kernel)
theorem witness_atomSum : (∀ i ∈ ([.atom (.ext (ex 7 4 30 0x60)), .atom (.ext (ex 7 4 30 0x58))] : List Instr),
    Fits together calmOwn (fun F => F.maj = 0x20 ∧ F.mn = 0 ∧ together.issue.threads.Nodup ∧ together.guarded F = [ta, tb] ∧
      (together.groups.get? 1024).isSome ∧ (together.group 1024).spec = none ∧ (∀ tid ∈ [ta, tb], together.shadowFault tid (atomOut F tid) = none) ∧ together.unmatched 1024 = [] ∧ F.ty = 0 ∧
      F.mod.getLsbD 0 = false ∧ F.cd = false ∧ F.d ≠ 255 ∧ 2 ≤ F.scope ∧
      (∀ tid ∈ [ta, tb], Claims.atomAt together F tid = some 0x30100 ∧ (together.threads.get? tid).isSome) ∧
      let u := if F.releases then together.publish 1024 F.scope else together
      let v := u.drainTo 1024 0x30100 4
      v.flkCtl.getLsbD 31 = false ∧ v.poison = [] ∧ v.badLines = [] ∧ (v.domain (together.domOf 1024)).overlay.keys.Nodup) i) ∧
    ([ta, tb] : List Nat).Pairwise (· < ·) := ⟨of_meets (by decide +kernel), by decide⟩
theorem witness_phase : ∀ i ∈ ([.phase (.ext (ex 0 0 0 0x78)), .phase (.ext (ex 0 0 0 0xB0))] : List Instr),
    Fits base calmOwn (fun F => F.maj = 0x21 ∧ F.mn = 0) i := of_meets (by decide +kernel)
def sealRow : Instr := .sealRange (.ext { ex 2 4 0 0x70 with xb := true, x := 0x100 })
def unsealRow : Instr := .unsealRange (.ext { ex 2 4 0 0x70 with xb := true, x := 0x100 })
theorem witness_seal : ∀ i ∈ [sealRow, unsealRow], Fits alone (fun F => alone.sealFault F) (fun F => F.maj = 0x21 ∧ (F.mn = 1 ∨ F.mn = 2) ∧
      alone.issue.threads.Nodup ∧ alone.guarded F = [ta] ∧ (alone.threads.get? ta).isSome ∧ (alone.contexts.get? (alone.ctxOf 1024)).isSome) i :=
  of_meets (by decide +kernel)

/-! The matrix unit. -/

/-- Descriptors at scratchpad 0 and 0x4000 in s16:s17 and s18:s19, scale bytes at 0x8000 in s20; tile 0 f32 in role A, 1 f32 in role B, 2 T8 in
blocks of 16 with scales at 0x8000, 3 T6. -/
def tiled (q : List MatOp) : State := { base with
  groups := [(1024, { scalars [(17, 64), (18, 0x4000), (19, 256), (20, 0x8000)] with
    mqueue := q, tileRecs := [(0, 0x8400), (1, 0x8480), (2, 0x0000800000048920), (3, 0x8A00)] })]
  subject := .group 1024 }
def trsv0 : Instr := .trsv (.ext { ex 4 16 0 0 0x20 with ca := true })
theorem widths_tiled (q : List MatOp) (gid : Nat) : (tiled q).widthOf gid ∈ [16, 32, 64] := all_width (s := tiled q) (P := (· ∈ [16, 32, 64])) (by decide) (by show ∀ e ∈ base.launches, _; decide) gid
theorem witness_MatrixQueue : ∀ i ∈ ([trsv0, .trel (.ext (ex 0 0 0 0)), .tld (.ext { ex 0 16 0 0 with ca := true, x := 2 }),
      .tldv (.ext { ex 2 30 0 0 with xb := true, x := 63 }), .txv (.ext { ex 9 3 0 0 with xb := true, x := 0 }), .mma (.ext (ex 0 0 1 0)), .mma (.ext { ex 0 0 1 0 with mod := 3, x := 0x01021210 }),
      .mmak (.ext { ex 0 2 0 0 with x := 0 }), .accz (.ext (ex 7 0 0 0)), .accld (.ext { ex 0 8 0 0 with xb := true, x := 5 }),
      .accst (.ext { ex 8 0 0 0 with xb := true, x := 62 }), .accsp (.ext { ex 0 0 18 0 with cb := true, c := 0, mod := 0x20 }), .accmv (.ext (ex 1 0 0 0))] : List Instr),
    Fits (tiled []) (fun F => if F.maj = 0x23 ∧ F.mn = 0 then State.noFault else (tiled []).matFault F) (fun F => F.maj ∈ [0x23, 0x24, 0x25]) i :=
  of_meets (by decide +kernel)

/-! MATRIX_OP_COMPLETE: each operation as the only one of the queue. -/

/-- What an instruction queues on `tiled`, of it alone. -/
def queued (i : Instr) : List MatOp := [(tiled []).matOp 1024 (fieldsOf i)]
def tiledBy (i : Instr) : State := tiled (queued i)

theorem oldest_tiled (i : Instr) (maj mn : Nat) (h : (fieldsOf i).maj = maj ∧ (fieldsOf i).mn = mn) :
    Claims.Oldest (tiledBy i) 1024 ((tiledBy i).group 1024) ((tiled []).matOp 1024 (fieldsOf i)) [] maj mn :=
  ⟨rfl, rfl, rfl, widths_tiled _ _, h.1, h.2⟩

theorem witness_MatrixMoves : ∀ p ∈ ([(trsv0, 0x23, 0), (.trel (.ext (ex 0 0 0 0)), 0x23, 1), (.tld (.ext { ex 0 16 0 0 with ca := true, x := 2 }), 0x23, 2),
      (.tldv (.ext { ex 2 30 0 0 with xb := true, x := 63 }), 0x23, 3), (.txv (.ext { ex 9 3 0 0 with xb := true, x := 0 }), 0x23, 4),
      (.accz (.ext (ex 7 0 0 0)), 0x25, 0), (.accmv (.ext (ex 1 0 0 0)), 0x25, 4), (.accld (.ext { ex 0 8 0 0 with xb := true, x := 5 }), 0x25, 1),
      (.accst (.ext { ex 8 0 0 0 with xb := true, x := 62 }), 0x25, 2), (.accst (.ext { ex 247 0 0 0 with xb := true, x := 0 }), 0x25, 2)] : List (Instr × Nat × Nat)),
    Claims.Oldest (tiledBy p.1) 1024 ((tiledBy p.1).group 1024) ((tiled []).matOp 1024 (fieldsOf p.1)) [] p.2.1 p.2.2 ∧
      (p.2 = (0x25, 2) → (fieldsOf p.1).d + 128 / (tiledBy p.1).widthOf 1024 ≤ 255) := by
  intro p hp
  have h : ((fieldsOf p.1).maj = p.2.1 ∧ (fieldsOf p.1).mn = p.2.2) ∧ (p.2 = (0x25, 2) → (fieldsOf p.1).d + 128 / (tiledBy p.1).widthOf 1024 ≤ 255) := by
    revert p; decide +kernel
  exact ⟨oldest_tiled _ _ _ h.1, h.2⟩

/-- A scratchpad check that passes. -/
theorem padOk_of {s : State} {gid n : Nat} {a : Word} (h : (s.checkSpad gid a n 0 .read).toOption.isSome = true) : Claims.padOk s gid a n := by
  unfold Claims.padOk
  cases g : s.checkSpad gid a n 0 .read with
  | ok p => exact ⟨p, rfl⟩
  | error e => rw [g] at h; simp [Except.toOption] at h

def tld0 : Instr := .tld (.ext { ex 0 16 0 0 with ca := true, x := 2 })
theorem witness_tld : ∀ row k, row < 64 → k < 16 →
    Claims.padOk ((tiledBy tld0).drainSpad 1024) 1024 (Claims.rowWord 0 64 2 16 row k) 4 ∧
    ((tiled []).matOp 1024 (fieldsOf tld0)).scal = [0, 64] ∧ Claims.rowWords (((tiled []).matOp 1024 (fieldsOf tld0)).recs.getD 0 0) = 16 := by
  have h : (∀ row < 64, ∀ k < 16, (((tiledBy tld0).drainSpad 1024).checkSpad 1024 (Claims.rowWord 0 64 2 16 row k) 4 0 .read).toOption.isSome = true) ∧
    ((tiled []).matOp 1024 (fieldsOf tld0)).scal = [0, 64] ∧ Claims.rowWords (((tiled []).matOp 1024 (fieldsOf tld0)).recs.getD 0 0) = 16 := by decide +kernel
  intro row k h1 h2
  exact ⟨padOk_of (h.1 row h1 k h2), h.2⟩

def mma0 : Instr := .mma (.ext { ex 0 0 1 0 with mod := 3, x := 0x01001210 })
/-- Tile 2 is of role B here, T8 with scales; tile 3 of role A, T6. -/
def mma1 : Instr := .mma (.ext (ex 0 3 1 0))
theorem witness_mma : Claims.Oldest (tiledBy mma0) 1024 ((tiledBy mma0).group 1024) ((tiled []).matOp 1024 (fieldsOf mma0)) [] 0x24 0 ∧
    Claims.formatOk 0x8400 ∧ Claims.formatOk 0x8480 ∧ ((tiled []).matOp 1024 (fieldsOf mma0)).recs = [0x8400, 0x8480] ∧
    ((tiled []).matOp 1024 (fieldsOf mma0)).scal = [0, 64, 0x4000, 256] ∧
    (∀ r w, r < 64 → w < 16 → Claims.padOk ((tiledBy mma0).drainSpad 1024) 1024 (Claims.rowWord 0 64 0 16 r w) 4 ∧
      Claims.padOk ((tiledBy mma0).drainSpad 1024) 1024 (Claims.rowWord 0x4000 256 1 16 r w) 4) ∧
    Claims.scalesOk ((tiledBy mma0).drainSpad 1024) 1024 0x8400 ∧ Claims.scalesOk ((tiledBy mma0).drainSpad 1024) 1024 0x8480 := by
  refine ⟨oldest_tiled _ _ _ (by decide +kernel), by unfold Claims.formatOk; decide, by unfold Claims.formatOk; decide, by decide +kernel, by decide +kernel, ?_, ?_, ?_⟩
  · have h : ∀ r < 64, ∀ w < 16, (((tiledBy mma0).drainSpad 1024).checkSpad 1024 (Claims.rowWord 0 64 0 16 r w) 4 0 .read).toOption.isSome = true ∧
      (((tiledBy mma0).drainSpad 1024).checkSpad 1024 (Claims.rowWord 0x4000 256 1 16 r w) 4 0 .read).toOption.isSome = true := by decide +kernel
    intro r w h1 h2
    exact ⟨padOk_of (h r h1 w h2).1, padOk_of (h r h1 w h2).2⟩
  · intro h; exact absurd rfl h
  · intro h; exact absurd rfl h

def mmak0 : Instr := .mmak (.ext { ex 0 2 0 0 with x := 0 })
theorem witness_mmak : Claims.Oldest (tiledBy mmak0) 1024 ((tiledBy mmak0).group 1024) ((tiled []).matOp 1024 (fieldsOf mmak0)) [] 0x24 1 ∧
    Claims.formatOk 0x0000800000048920 ∧ ((tiled []).matOp 1024 (fieldsOf mmak0)).recs = [0x0000800000048920] ∧
    Claims.scalesOk ((tiledBy mmak0).drainSpad 1024) 1024 0x0000800000048920 := by
  refine ⟨oldest_tiled _ _ _ (by decide +kernel), by unfold Claims.formatOk; decide, by decide +kernel, ?_⟩
  have h : ∀ r < 64, ∀ j < 4, (((tiledBy mmak0).drainSpad 1024).checkSpad 1024 (0x8000 + BitVec.ofNat 32 (r * 4 + j)) 1 0 .read).toOption.isSome = true := by
    decide +kernel
  intro _ r j h1 h2
  exact padOk_of (h r h1 j h2)

/-- The only core's scratchpad: an address is the one its offset gives. -/
theorem check_one {s : State} {gid : Nat} (h : ∀ m < 4, m ≠ 0 → s.spadTeamNow gid m = none) {a : Word} {n : Nat} {p : Nat × Nat}
    (g : s.checkSpad gid a n 0 .read = .ok p) : s.spadTeamNow gid 0 = some p.1 ∧ a = BitVec.ofNat 32 p.2 := by
  have hm : (a.extractLsb' 19 2).toNat < 4 := (a.extractLsb' 19 2).isLt
  unfold State.checkSpad at g
  simp only at g
  split at g
  · cases g
  split at g
  · cases g
  next k hk =>
  split at g
  · cases g
  next h1 =>
  cases g
  have h0 : (a.extractLsb' 19 2).toNat = 0 := by
    refine Decidable.byContradiction (fun hn => ?_)
    rw [h _ hm hn] at hk; cases hk
  rw [h0] at hk
  refine ⟨hk, ?_⟩
  have h2 : a.extractLsb' 21 11 = 0 := by
    refine Decidable.byContradiction (fun hn => h1 ?_)
    simp; exact Or.inl hn
  have h3 := congrArg BitVec.toNat h2
  apply BitVec.eq_of_toNat_eq
  simp only [BitVec.extractLsb'_toNat, BitVec.toNat_ofNat, Nat.shiftRight_eq_div_pow] at h0 h3 ⊢
  have := a.isLt
  simp at h0 h3
  omega

/-- ACCSP as f32 at 0x4000 with rows of 256 bytes, as bf16 there, as T8 in blocks of 8 with scale bytes at 0x8000. -/
def spill (x : Word) (mod : BitVec 7) : Instr := .accsp (.ext { ex 0 0 18 20 with cb := true, mod := mod, x := x })

theorem word_spill (nw r w : Nat) (hr : r < 64) (hn : 4 * nw ≤ 256) (hw : w < nw) :
    (Claims.rowWord 0x4000 256 0 nw r w).toNat = 0x4000 + 256 * r + 4 * w := by
  unfold Claims.rowWord
  have h1 : ((256 : Word).extractLsb' 28 4).toNat = 0 := by decide
  have h2 : ((256 : Word).extractLsb' 0 16).toNat = 256 := by decide
  rw [h1, h2, Nat.mul_zero, Nat.add_zero, Nat.mod_eq_of_lt hw, BitVec.toNat_add, BitVec.toNat_ofNat]
  show (0x4000 + _) % _ = _
  omega

theorem words_apart (nw : Nat) (hn : 4 * nw ≤ 256) (r w r' w' : Nat) (hr : r < 64) (hw : w < nw) (hr' : r' < 64) (hw' : w' < nw)
    (h : Claims.rowWord 0x4000 256 0 nw r w = Claims.rowWord 0x4000 256 0 nw r' w') : r = r' ∧ w = w' := by
  have := congrArg BitVec.toNat h
  rw [word_spill nw r w hr hn hw, word_spill nw r' w' hr' hn hw'] at this
  omega

theorem scales_apart (r w r' b : Nat) (hr : r < 64) (hw : w < 16) (hr' : r' < 64) (hb : b < 8) :
    (0x8000 : Word) + BitVec.ofNat 32 (r' * 8 + b) - Claims.rowWord 0x4000 256 0 16 r w ≥ 4 := by
  have h := word_spill 16 r w hr (by decide) hw
  show (4 : Word).toNat ≤ _
  rw [BitVec.toNat_sub, h, BitVec.toNat_add, BitVec.toNat_ofNat]
  show 4 ≤ (2 ^ 32 - _ + (0x8000 + _) % _) % _
  omega

/-- The state ACCSP finds, its formats with the words of a row, and the operands it read. -/
theorem witness_accsp : ∀ p ∈ ([(spill 0 0x20, 4, 64), (spill 0 0x30, 6, 32), (spill 0x100 0x48, 9, 16)] : List (Instr × Nat × Nat)),
    let s := tiledBy p.1
    let o := (tiled []).matOp 1024 (fieldsOf p.1)
    let u := s.drainSpad 1024
    Claims.Oldest s 1024 (s.group 1024) o [] 0x25 3 ∧ o.f.ty = p.2.1 ∧ o.scal = [0x4000, 256, 0x8000] ∧ (o.f.x.extractLsb' 0 8).toNat = 0 ∧
      (o.f.ty = 9 ↔ o.f.x.extractLsb' 8 2 ≠ 0) ∧
      (∀ r w, r < 64 → w < p.2.2 → Claims.padOk u 1024 (Claims.rowWord 0x4000 256 0 p.2.2 r w) 4) ∧
      (∀ r b, r < 64 → b < 8 → Claims.padOk u 1024 (0x8000 + BitVec.ofNat 32 (r * 8 + b)) 1) ∧
      (∀ a q, u.checkSpad 1024 a 1 0 .read = .ok q → (u.teams.get? q.1).isSome) ∧
      (∀ a b q, u.checkSpad 1024 a 1 0 .read = .ok q → u.checkSpad 1024 b 1 0 .read = .ok q → a = b) := by
  intro p hp
  have h : let o := (tiled []).matOp 1024 (fieldsOf p.1)
      let u := (tiledBy p.1).drainSpad 1024
      (o.f.maj = 0x25 ∧ o.f.mn = 3) ∧ o.f.ty = p.2.1 ∧ o.scal = [0x4000, 256, 0x8000] ∧ (o.f.x.extractLsb' 0 8).toNat = 0 ∧
      (o.f.ty = 9 ↔ o.f.x.extractLsb' 8 2 ≠ 0) ∧
      (∀ r < 64, ∀ w < p.2.2, (u.checkSpad 1024 (Claims.rowWord 0x4000 256 0 p.2.2 r w) 4 0 .read).toOption.isSome = true) ∧
      (∀ r < 64, ∀ b < 8, (u.checkSpad 1024 (0x8000 + BitVec.ofNat 32 (r * 8 + b)) 1 0 .read).toOption.isSome = true) ∧
      (∀ m < 4, m ≠ 0 → u.spadTeamNow 1024 m = none) ∧ u.spadTeamNow 1024 0 = some 1 ∧ (u.teams.get? 1).isSome := by
    revert p; decide +kernel
  obtain ⟨h1, h2, h3, h4, h5, h6, h7, h8, h9, h10⟩ := h
  refine ⟨oldest_tiled _ _ _ h1, h2, h3, h4, h5, fun r w hr hw => padOk_of (h6 r hr w hw), fun r b hr hb => padOk_of (h7 r hr b hb), ?_, ?_⟩
  · intro a q hq
    have := (check_one h8 hq).1
    rw [h9] at this
    rw [← Option.some.inj this]; exact h10
  · intro a b q ha hb
    rw [(check_one h8 ha).2, (check_one h8 hb).2]

/-! Queues and node records. -/

/-- An instruction whose guarded threads are all of one group and meet no fault. -/
def alonely (s : State) (gid : Nat) (own : Fields → Nat → Option Flt) : Instr → Bool :=
  meets s own (fun F => decide s.issue.threads.Nodup && (s.guarded F).all (fun t => gidOf t == gid))

theorem alone_of {s : State} {gid : Nat} {g : Group} {own : Fields → Nat → Option Flt} {i : Instr} (h : alonely s gid own i = true)
    (l : s.groups.get? gid = some g) : Claims.Alone s i (fieldsOf i) gid g (own (fieldsOf i)) := by
  have h' : meets s own (fun F => decide (s.issue.threads.Nodup ∧ ∀ t ∈ s.guarded F, gidOf t = gid)) i = true := by
    simpa [alonely, meets, List.all_eq_true] using h
  have := of_meets (is := [i]) (p := fun F => s.issue.threads.Nodup ∧ ∀ t ∈ s.guarded F, gidOf t = gid)
    (List.all_eq_true.mpr (fun j hj => by rw [List.mem_singleton.mp hj]; exact h')) i (List.mem_singleton.mpr rfl)
  obtain ⟨f, h1, h2, h3, h4, h5⟩ := this
  have e : f = fieldsOf i := by simp [fieldsOf, h2]
  subst e
  exact ⟨h1, h2, h4, h3.1, h3.2, h5, l⟩

/-- Queue 0 takes launches; s32 to s47 hold a LAUNCH without a node and s48 to s63 one of node 5 with two predecessors. -/
def pushes (pool : Nat) : State := { base with
  groups := [(1024, scalars [(32, 0x01000000), (33, 0x30000), (48, 0x01000005), (49, 0x30002)])]
  contexts := [(1, { context0 with queues := [(0, 0x8000000000000000)], pool := pool })] }
def pushRow (a : BitVec 8) : Instr := .push (.ext { ex 1 a 0 0 with ca := true, xb := true, x := 0 })

theorem witness_push : (∀ i ∈ [pushRow 32, pushRow 48], ∀ n ∈ [0, 4096], ∃ g, (pushes n).groups.get? 1024 = some g ∧
      Claims.Alone (pushes n) i (fieldsOf i) 1024 g ((pushes n).pushFault (fieldsOf i)) ∧ (fieldsOf i).maj = 0x30 ∧ (fieldsOf i).mn = 0 ∧
      ((pushes n).contexts.get? ((pushes n).ctxOf 1024)).isSome = true) ∧
    (let s := pushes 0
     let c := s.pushed (fieldsOf (pushRow 32)) 1024
     Claims.refusal (s.publish 1024 3) c = 0) ∧
    (let s := pushes 4096
     Claims.refusal (s.publish 1024 3) (s.pushed (fieldsOf (pushRow 48)) 1024) = 2) := by
  refine ⟨?_, by decide +kernel, by decide +kernel⟩
  intro i hi n hn
  refine ⟨scalars [(32, 0x01000000), (33, 0x30000), (48, 0x01000005), (49, 0x30002)], rfl, ?_⟩
  have h : alonely (pushes n) 1024 (pushes n).pushFault i = true ∧ (fieldsOf i).maj = 0x30 ∧ (fieldsOf i).mn = 0 ∧
      ((pushes n).contexts.get? ((pushes n).ctxOf 1024)).isSome = true := by
    revert n; revert i; decide +kernel
  exact ⟨alone_of h.1 rfl, h.2⟩

theorem witness_qstat : ∀ i ∈ ([.qstat (.ext { ex 40 0 0 0 with cd := true })] : List Instr), Fits base calmOwn (fun F => F.maj = 0x30 ∧ F.mn = 2) i :=
  of_meets (by decide +kernel)

def cmd0 : Command := newCommand [0x01000005, 0x30002] 1 0 0 1 (some 1024) false none

/-- Node 5 counts one and holds a waiting command; node 6 counts two and is cancelled. -/
def noded : State := { pushes 0 with
  contexts := [(1, { context0 with nodes := [(5, ⟨1, some 7, false⟩), (6, ⟨1, some 8, true⟩), (7, ⟨2, none, false⟩)] })]
  commands := [(7, cmd0), (8, cmd0)] }
theorem witness_gnode : (∀ i ∈ ([.gnodeQ (.ext { ex 40 0 0 0 with cd := true, xb := true, x := 65535 }), .gnodeQ (.ext { ex 40 0 0 0 with cd := true, xb := true, x := 0 })] : List Instr),
      Fits noded calmOwn (fun F => F.maj = 0x30 ∧ F.mn = 4 ∧ F.mod.getLsbD 0 = false ∧ ∀ tid ∈ noded.guarded F,
        (if F.xb then F.x.toNat else ((noded.group (gidOf tid)).sreg F.b).toNat) < 65536) i) ∧
    (∀ n ∈ ([0, 5, 6, 7] : List Word), let i := Instr.gnodeSig (.ext { ex 0 0 0 0 with mod := 1, xb := true, x := n })
      ∃ g, Claims.Alone noded i (fieldsOf i) 1024 g State.noFault ∧ (fieldsOf i).maj = 0x30 ∧ (fieldsOf i).mn = 4 ∧ (fieldsOf i).mod.getLsbD 0 = true ∧
        noded.contexts.get? (noded.ctxOf 1024) = noded.contexts.get? 1 ∧ (noded.contexts.get? 1).isSome = true) := by
  refine ⟨of_meets (by decide +kernel), ?_⟩
  intro n hn
  simp only [List.mem_cons, List.not_mem_nil, or_false] at hn
  rcases hn with rfl | rfl | rfl | rfl <;> exact ⟨_, alone_of (own := calmOwn) (by decide +kernel) rfl, by decide +kernel⟩

/-- A launch of one group, which triggers it; and one that has triggered already. -/
def triggers (done : Bool) : State := { base with launches := [(1, { launch0 with triggered := done })] }
theorem witness_trigger : ∀ b ∈ [true, false], let i := Instr.trigger (.ext (ex 0 0 0 0))
    Claims.Alone (triggers b) i (fieldsOf i) 1024 group0 State.noFault ∧ (fieldsOf i).maj = 0x30 ∧ (fieldsOf i).mn = 3 ∧
    (triggers b).launches.get? ((triggers b).teamAt 1024).launch = some { launch0 with triggered := b } ∧
    { launch0 with triggered := b }.teams ≤ ((triggers b).teamsOf 1).length ∧
    ∀ k ∈ (triggers b).teamsOf 1, ((triggers b).team k).place ≠ .pending ∧ ∀ j ∈ (triggers b).groupsOf k, j = 1024 := by
  intro b hb i
  have h : alonely (triggers b) 1024 calmOwn i = true ∧ (fieldsOf i).maj = 0x30 ∧ (fieldsOf i).mn = 3 ∧
      (triggers b).launches.get? ((triggers b).teamAt 1024).launch = some { launch0 with triggered := b } ∧
      { launch0 with triggered := b }.teams ≤ ((triggers b).teamsOf 1).length ∧
      ∀ k ∈ (triggers b).teamsOf 1, ((triggers b).team k).place ≠ .pending ∧ ∀ j ∈ (triggers b).groupsOf k, j = 1024 := by
    revert i; revert b; decide +kernel
  exact ⟨alone_of h.1 rfl, h.2⟩

/-- A group with one copy outstanding; with limits 0 for copies, 1 for copies, and 0 for the tile unit, whose queue is empty. -/
def copying : State := { base with groups := [(1024, { group0 with copies := 1, mflags := 3 })] }
theorem witness_waitc : ∀ x ∈ ([0x00FFF03F, 0x00FFF07F, 0x00FFFFC0] : List Word), let i := Instr.waitc (.ext { ex 0 0 0 0 with x := x })
    Claims.Alone copying i (fieldsOf i) 1024 { group0 with copies := 1, mflags := 3 } State.noFault ∧ (fieldsOf i).maj = 0x30 ∧ (fieldsOf i).mn = 1 := by
  intro x hx
  simp only [List.mem_cons, List.not_mem_nil, or_false] at hx
  rcases hx with rfl | rfl | rfl <;> exact ⟨alone_of (own := calmOwn) (by decide +kernel) rfl, by decide +kernel⟩
theorem witness_limits : (∀ k < 4, Claims.limit 0x00FFF07F k = 63 ∨ copying.waitCount 1024 k ≤ Claims.limit 0x00FFF07F k) ∧
    ¬ (∀ k < 4, Claims.limit 0x00FFF03F k = 63 ∨ copying.waitCount 1024 k ≤ Claims.limit 0x00FFF03F k) := by decide +kernel

/-! Calls of services, handlers, parking, levels and the privileged instructions. -/

/-- Words at their addresses, as cells of memory. -/
def cellsOf (l : List (Nat × DWord)) : Tab Byte :=
  l.flatMap (fun e => (List.range 8).filterMap (fun k => let b := e.2.extractLsb' (8 * k) 8; if b = 0 then none else some (e.1 + k, b)))

/-- The descriptors and page tables of context 1 as memory holds them: segments 2, 3, 5 and 6, pages 0 to 2. -/
def tables : List (Nat × DWord) :=
  [(0x100040, 0xBC00000000000002), (0x100048, 0x10000), (0x100060, 0xAC00000000000000), (0x100068, 0x10000), (0x1000A0, 0x9A00000000000000),
    (0x1000A8, 0x10000), (0x1000B0, 0x400000000), (0x1000C0, 0x8C00000000000001), (0x1000C8, 0x10000), (0x200000, 0x8000000000201000),
    (0x201000, 0x8000000000202000), (0x202000, 0x8000000000203000), (0x203000, 0x8380000000020000), (0x203008, 0x8380000000030000),
    (0x203010, 0x8380000000040000)]

/-- The base machine with those tables and a reply block at segment 6, offset 0x40. -/
def serviced (who : List Nat) : State := { base with
  contexts := [(1, { context0 with segBase := 0x100000, tableBase := 0x200000 })], hbm := cellsOf tables
  groups := [(1024, { group0 with reply := mkPtr 6 0x40, seq := 255 })], issue := { base.issue with threads := who } }
def svcRow (n : BitVec 7) : Instr := .svc (.ext { ex 0 0 0 0 with mod := n, x := 0x40 })

theorem witness_svc : ∀ p ∈ [([ta, tb], svcRow 9), ([ta], svcRow 9), ([ta, tb], svcRow 0), ([tb], svcRow 5)],
    let s := serviced p.1
    Claims.Alone s p.2 (fieldsOf p.2) 1024 { group0 with reply := mkPtr 6 0x40, seq := 255 } (s.svcFault (fieldsOf p.2)) ∧ (fieldsOf p.2).maj = 0x38 ∧ (fieldsOf p.2).mn = 0 ∧
      ((fieldsOf p.2).mod.extractLsb' 1 3).toNat ≤ 4 ∧ (fieldsOf p.2).a = 0 ∧ s.widthOf 1024 = 16 ∧ s.ctxOf 1024 = 1 ∧
      s.flkCtl.getLsbD 31 = false ∧ s.poison = [] ∧ s.badLines = [] ∧
      (s.domain (s.domOf 1024)).overlay = [] ∧ s.pieces (s.ctxOf 1024) (mkPtr 6 0x40) (64 + 16 * s.widthOf 1024) = [(.home 0x30040, 320)] ∧
      ∀ tid ∈ s.guarded (fieldsOf p.2), laneOf tid < s.widthOf 1024 ∧ (s.threads.get? tid).isSome ∧ (s.thread tid).life = .running ∧
        (s.thread tid).inRep = false := by
  intro p hp s
  have h : alonely s 1024 (fun F => s.svcFault F) p.2 = true ∧ (fieldsOf p.2).maj = 0x38 ∧ (fieldsOf p.2).mn = 0 ∧
      ((fieldsOf p.2).mod.extractLsb' 1 3).toNat ≤ 4 ∧ (fieldsOf p.2).a = 0 ∧ s.widthOf 1024 = 16 ∧ s.ctxOf 1024 = 1 ∧
      s.flkCtl.getLsbD 31 = false ∧ s.poison = [] ∧ s.badLines = [] ∧
      (s.domain (s.domOf 1024)).overlay = [] ∧ s.pieces (s.ctxOf 1024) (mkPtr 6 0x40) (64 + 16 * s.widthOf 1024) = [(.home 0x30040, 320)] ∧
      ∀ tid ∈ s.guarded (fieldsOf p.2), laneOf tid < s.widthOf 1024 ∧ (s.threads.get? tid).isSome ∧ (s.thread tid).life = .running ∧
        (s.thread tid).inRep = false := by
    revert s; revert p; decide +kernel
  exact ⟨alone_of (own := fun F => s.svcFault F) h.1 rfl, h.2⟩
theorem witness_sleepRule : ∀ i ∈ [svcRow 9], (match exec i (serviced [ta, tb]) with | .next t => decide (t.agenda.length = 1) | _ => false) = true ∧
    (match exec i (serviced [ta]) with | .next t => decide (t.agenda = []) | _ => false) = true := by decide +kernel

/-- R365 with a sleep that stands in a trap slot: the group sleeps and the launch is to be pre-empted; with SVCTHR 0 it is not. -/
theorem witness_tooManySleep : ∀ p ∈ ([(0, 1), (0, 128), (1, 0)] : List (Nat × Word)),
    let t : Thread := { thread0 with slotF := some { thread0.toSlot 0 pc0 with wait := .svc } }
    let s : State := { base with threads := [(ta, { thread0 with wait := .svc }), (tb, t)], svcthr := [(1, p.2)] }
    Claims.tooManySleep s 1 0 ↔ p.1 = 0 := by
  intro p hp
  simp only [List.mem_cons, List.not_mem_nil, or_false] at hp
  rcases hp with rfl | rfl | rfl <;> (unfold Claims.tooManySleep; decide +kernel)
theorem witness_handlerAndLevel : ∀ i ∈ ([.thset (.ext { ex 0 0 0 0 with x := 0x3FFFFFFF }), .thset (.ext { ex 0 0 0 0 with mod := 1 }), .prio (.ext { ex 0 0 0 0 with xb := true, x := 7 }),
      .prio (.ext { ex 0 0 5 0 with cb := true })] : List Instr), Fits base calmOwn (fun F => F.maj = 0x38 ∧ (F.mn = 1 ∨ F.mn = 4)) i := of_meets (by decide +kernel)
def slotted : State := { base with threads := [(ta, { thread0 with slotP := some (thread0.toSlot 0 pc0) }), (tb, { thread0 with slotP := some (thread0.toSlot 0 pc0) })] }
theorem witness_park : ∀ i ∈ ([.park (.ext { ex 0 0 0 0 with x := 0xFFFFFFF0 })] : List Instr), Fits slotted calmOwn (fun F => F.maj = 0x38 ∧ F.mn = 3 ∧
    ∀ tid ∈ slotted.guarded F, (slotted.thread tid).slotP.isSome) i := of_meets (by decide +kernel)

theorem witness_psrd : ∀ i ∈ ([.psrd (.ext (ex 3 0 0x84 0)), .psrd (.ext { ex 3 0 0x8F 0 with cd := true }), .psrd (.ext (ex 3 0 0x80 0))] : List Instr),
    Fits base calmOwn (fun F => F.maj = 0x39 ∧ F.mn = 0 ∧ ∀ tid ∈ base.guarded F, (base.thread tid).psel = 0) i := of_meets (by decide +kernel)
/-- Thread `ta` alone, its PSEL at activity 0x10003 of context 5, and the values each register accepts in v1 to v3. -/
def privileged : State := { base with
  issue := { base.issue with threads := [ta] }, flkCtl := 0xC0000001
  threads := [(ta, { ((thread0.setReg 1 0x40000001).setReg 2 0x40).setReg 3 24 with psel := 0x05010003 }), (tb, thread0)] }
theorem witness_pswr : ∀ i ∈ ([.pswr (.ext (ex 0 2 0x80 0)), .pswr (.ext (ex 0 255 0x81 0)), .flkctlWrite (.ext (ex 0 1 0x82 0)), .pswr (.ext (ex 0 3 0x83 0)),
      .pswr (.ext (ex 0 3 0x84 0)), .pswr (.ext (ex 0 255 0x85 0)), .pswr (.ext (ex 0 3 0x86 0)), .pswr (.ext (ex 0 1 0x89 0))] : List Instr),
    Fits privileged calmOwn (fun F => F.maj = 0x39 ∧ F.mn = 1 ∧ privileged.issue.threads.Nodup ∧ privileged.guarded F = [ta] ∧
      (privileged.threads.get? ta).isSome) i := of_meets (by decide +kernel)
theorem witness_writable : ∀ p ∈ ([(0x80, 0x40), (0x81, 0), (0x82, 0x40000001), (0x83, 24), (0x84, 24), (0x85, 0), (0x86, 24), (0x89, 0x40000001)] : List (Nat × Word)),
    Claims.writable p.1 p.2 := by
  intro p hp
  simp only [List.mem_cons, List.not_mem_nil, or_false] at hp
  rcases hp with rfl | rfl | rfl | rfl | rfl | rfl | rfl | rfl <;> first | (simp only [Claims.writable]; decide) | exact ⟨by decide, (by decide : (0 : Nat) < 4096)⟩
theorem witness_tlbinv : ∀ i ∈ ([.tlbinv (.ext { ex 0 4 0 0 with xb := true, x := 1 }), .tlbinv (.ext { ex 0 4 0 0 with xb := true, x := 1, mod := 1 }),
      .tlbinv (.ext { ex 0 4 0 0 with xb := true, x := 63, mod := 2 })] : List Instr),
    Fits alone calmOwn (fun F => F.maj = 0x39 ∧ F.mn = 2 ∧ alone.guarded F = [ta] ∧ (alone.threads.get? ta).isSome ∧ F.mod.toNat < 3 ∧
      (loWord (F.opB false (alone.group 1024) (alone.thread ta))).toNat < 64) i := of_meets (by decide +kernel)

/-! Events of threads and domains. -/

/-- Thread `u` is one of the two of a machine. -/
theorem two_of {x y z : Thread} {u : Nat} (h : Tab.get? [(ta, x), (tb, y)] u = some z) : (u = ta ∧ z = x) ∨ (u = tb ∧ z = y) := by
  have := get_mem h
  simpa using this

/-- Domain 0 with two bytes in its overlay and a snapshot line. -/
def overlaid (j : Subject) : State := { base with
  domains := [(0, ⟨[(0x30000, 5), (0x30041, 6)], [(0xC00, List.replicate 64 0)]⟩)], subject := j
  groups := [(1024, { group0 with path := [⟨ta, [(0x30001, 1)], 4⟩, ⟨ta, [(0x30001, 2)], 5⟩] })] }
theorem witness_domainEvents : (overlaid (.line 0 0xC00)).subject = .line 0 0xC00 ∧
    ((overlaid (.stores 1024 1)).subject = .stores 1024 1 ∧ ((overlaid (.stores 1024 1)).groups.get? 1024).isSome = true ∧
      (overlaid (.stores 1024 1)).domOf 1024 = 0) ∧
    ((overlaid (.bytes 0 0x30000 64)).subject = .bytes 0 0x30000 64 ∧
      ((overlaid (.bytes 0 0x30000 64)).domain 0).overlay.keys.Pairwise (· < ·)) := by decide +kernel

/-- Thread `ta` waits so; the cycle is 9. -/
def asleep (w : Wait) (x : Thread) : State := { base with threads := [(ta, { thread0 with wait := w }), (tb, x)], subject := .thread ta, cycle := 9 }
theorem witness_sleeps : ∀ w ∈ [Wait.nap 9, Wait.bkoff 0], (asleep w thread0).subject = .thread ta ∧
    (asleep w thread0).threads.get? ta = some { thread0 with wait := w } ∧ ((asleep w thread0).teamAt (gidOf ta)).place = .resident ∧
    (asleep w thread0).cycle = 9 := by decide +kernel

/-- Thread `ta` stands at its meeting; the other member is on its way, or waits. -/
def meeting0 : Meeting := ⟨pc0, 0⟩
def gathering (w : Wait) (pc : Ptr) : State := { base with
  threads := [(ta, { thread0 with meet := some meeting0 }), (tb, { thread0 with meet := some meeting0, wait := w, pc := pc })], subject := .thread ta }
theorem witness_meetingArrival : (∀ s ∈ [gathering .none (ptrAdd pc0 4), gathering .meeting pc0], s.subject = .thread ta ∧
      s.threads.get? ta = some { thread0 with meet := some meeting0 } ∧ (⟨thread0.pc, thread0.depth⟩ : Meeting) = meeting0 ∧
      thread0.life = .running ∧ thread0.wait = .none ∧ thread0.defPark = false ∧ thread0.inHandler = false ∧ thread0.released = false) ∧
    (∃ u z, u ≠ ta ∧ Claims.InSet (gathering .none (ptrAdd pc0 4)) 1024 meeting0 u z ∧ z.atMeeting = false) ∧
    (∀ u z, u ≠ ta → Claims.InSet (gathering .meeting pc0) 1024 meeting0 u z → z.wait = .meeting) := by
  refine ⟨by decide +kernel, ⟨tb, _, by decide, ⟨rfl, by decide, by decide, by decide, by decide⟩, by decide +kernel⟩, ?_⟩
  rintro u z hu ⟨h, -⟩
  rcases two_of h with ⟨rfl, -⟩ | ⟨-, rfl⟩
  · exact absurd rfl hu
  · rfl

/-- Barrier 3 has one arrival, which waits past its limit. -/
def stalled : State := { base with
  teams := [(1, { team0 with bars := [(3, { Barrier.fresh 2 with arrived := [tb], start := 0, limit := 9 })] })]
  threads := [(ta, thread0), (tb, { thread0 with wait := .barrier 3 0 16 false })], subject := .barrier 1 3, cycle := 9 }
theorem witness_barrierStall : (stalled.subject = .barrier 1 3 ∧ (∃ T, stalled.teams.get? 1 = some T ∧ T.place = .resident) ∧ stalled.threads.keys.Nodup ∧
      (stalled.barrier 1 3).limit ≠ 0 ∧ (stalled.barrier 1 3).arrived ≠ [] ∧ (stalled.barrier 1 3).start + (stalled.barrier 1 3).limit ≤ stalled.cycle) ∧
    (∀ u, u ∈ [tb] ↔ ∃ z, stalled.threads.get? u = some z ∧ teamOf (gidOf u) = 1 ∧ Claims.AtBarrier z 3) ∧ ∀ u ∈ [tb], Claims.Catches stalled u := by
  refine ⟨⟨rfl, ⟨_, rfl, rfl⟩, by decide +kernel⟩, fun u => ⟨?_, ?_⟩, by unfold Claims.Catches; decide +kernel⟩
  · intro h
    rw [List.mem_singleton.mp h]
    exact ⟨_, rfl, by decide, 0, 16, false, rfl⟩
  · rintro ⟨z, h, -, p, d, a, hz⟩
    rcases two_of h with ⟨-, rfl⟩ | ⟨rfl, -⟩
    · cases hz
    · exact List.mem_singleton.mpr rfl

/-- R154, R348: of the two threads the one whose wait its trap slot holds gets BARRIER_STALL when its handler returns. -/
theorem test_stallInSlot :
    let t : Thread := { thread0 with slotF := some { thread0.toSlot 0 pc0 with wait := .barrier 3 0 2 true } }
    let s : State := { stalled with threads := [(ta, t), (tb, { thread0 with wait := .barrier 3 0 16 false })] }
    (match exec .barrierStall s with
      | .next u => ((u.thread ta).slotF.map (fun k => (k.wait, k.fault)), (u.thread ta).fcode, (u.thread tb).fcode)
      | _ => (none, 0, 0)) = (some (.none, some (0x13, 0x00010003)), 0, 0x113) := by decide +kernel

theorem witness_regroupingTick : base.groups.filter (fun e => decide ((base.teamAt e.1).place = .resident)) = [(1024, group0)] ∧
    group0.spec = none ∧ group0.gen = none ∧ group0.level ≠ 7 ∧
    ((base.launchOf 1024).regs + 7) / 8 * 8 * (base.launchOf 1024).width * 4 ≤ 65536 ∧ gidOf ta = 1024 ∧ base.threads.get? ta = some thread0 ∧
    thread0.life = .running ∧ thread0.wait = .none ∧ thread0.defPark = false := by decide +kernel

/-- Thread `ta` waits at a WAITC for a copy that is outstanding, and for one that is allowed. -/
def waitcAt (x : Word) : State := { copying with threads := [(ta, { thread0 with wait := .waitc x }), (tb, thread0)], subject := .group 1024 }
theorem witness_waitcComplete : (∀ x, (waitcAt x).subject = .group 1024 ∧ (waitcAt x).groups.get? 1024 = some { group0 with copies := 1, mflags := 3 } ∧
      (waitcAt x).threads.get? ta = some { thread0 with wait := .waitc x } ∧ gidOf ta = 1024 ∧
      ∀ u z, (waitcAt x).threads.get? u = some z → gidOf u = 1024 → z.deferred = [] ∧ ∀ y, z.wait = .waitc y → y = x) ∧
    (∀ k < 4, Claims.limit 0x00FFF07F k = 63 ∨ (waitcAt 0x00FFF07F).waitCount 1024 k ≤ Claims.limit 0x00FFF07F k) ∧
    ¬ ∀ k < 4, Claims.limit 0x00FFF03F k = 63 ∨ (waitcAt 0x00FFF03F).waitCount 1024 k ≤ Claims.limit 0x00FFF03F k := by
  refine ⟨fun x => ⟨rfl, rfl, rfl, by decide, ?_⟩, by decide +kernel, by decide +kernel⟩
  intro u z h _
  rcases two_of h with ⟨-, rfl⟩ | ⟨-, rfl⟩
  · exact ⟨rfl, fun y hy => by cases hy; rfl⟩
  · exact ⟨rfl, fun y hy => by cases hy⟩

/-- Both threads sleep in SVC.h and the reply word holds this STATUS. -/
def answered (status : Byte) : State := { serviced [ta, tb] with
  hbm := (0x30043, status) :: cellsOf tables, subject := .group 1024
  threads := [(ta, { thread0 with wait := .svc }), (tb, { thread0 with wait := .svc })] }
theorem witness_svcWake : (∀ b ∈ ([1, 2] : List Nat), let s := answered (BitVec.ofNat 8 b)
      s.subject = .group 1024 ∧ (s.teamAt 1024).place = .resident ∧ s.flkCtl.getLsbD 31 = false ∧ s.poison = [] ∧ s.badLines = [] ∧ s.pieces (s.ctxOf 1024) (s.group 1024).reply 4 = [(.home 0x30040, 4)] ∧
      s.threads.keys.Nodup ∧ s.homeByte 0x30043 = BitVec.ofNat 8 b) ∧
    (∀ b u, u ∈ [ta, tb] ↔ ∃ z, (answered b).threads.get? u = some z ∧ gidOf u = 1024 ∧ z.life ≠ .exited ∧ z.wait = .svc ∧ z.defPark = false) ∧
    ∀ u ∈ [ta, tb], Claims.Catches (answered 2) u := by
  refine ⟨by decide +kernel, fun b u => ⟨?_, ?_⟩, by unfold Claims.Catches; decide +kernel⟩
  · intro h
    simp only [List.mem_cons, List.not_mem_nil, or_false] at h
    rcases h with rfl | rfl <;> exact ⟨_, rfl, by decide, by decide, rfl, rfl⟩
  · rintro ⟨z, h, -⟩
    rcases two_of h with ⟨rfl, -⟩ | ⟨rfl, -⟩ <;> simp

/-! Replies of remote accesses. -/

/-- A read of thread `ta` into v8:v9, or an atomic add, at a host address or a panel segment. -/
def far0 (f : Far) (k : Kind) (resets : Nat) : Access := ⟨ta, 0, 1, resets, pc0, mkPtr 6 0, f, k, 3, 8, 0, .vec 8 3 false, none, false, 0, 0, .add, false, 0, 5, [], 0, true, none⟩
def reading (f : Far) (k : Kind) (j : Subject) (resets : Nat) : State := { base with accesses := [(3, far0 f k resets)], subject := j, cycle := 14000, hostUp := true }
theorem outstanding_of {s : State} {a : Access} (ha : s.accesses = [(3, a)]) (hp : a.acquire = none ∧ a.cmd = 0 ∧ a.sent = true ∧ a.len = 2 ^ a.size)
    (hd : a.tid = ta ∧ a.dest = .vec 8 a.size false ∧ a.size ≤ 4) (he : (s.context a.ctx).resets = a.resets)
    (ht : s.threads.get? ta = some thread0) (hg : s.groups = [(1024, group0)]) : Claims.Outstanding s 3 a thread0 8 false := by
  refine ⟨by rw [ha]; rfl, he, by rw [hd.1]; exact ht, rfl, ⟨hp.1, hp.2.1⟩, hp.2.2.1, hp.2.2.2, by decide, hd.2.1, hd.2.2, ?_, ?_⟩
  · have : Claims.regsOf a.size ≤ 4 := by
      have := hd.2.2; revert this; generalize a.size = n; revert n; decide
    omega
  · intro g h
    have := get_mem h
    rw [hg] at this
    simp only [List.mem_singleton, Prod.mk.injEq] at this
    rw [this.2]; rfl
theorem outstanding (f : Far) (k : Kind) (j : Subject) : Claims.Outstanding (reading f k j 0) 3 (far0 f k 0) thread0 8 false :=
  outstanding_of rfl ⟨rfl, rfl, rfl, rfl⟩ ⟨rfl, rfl, (by decide : 3 ≤ 4)⟩ rfl rfl rfl
theorem hostIdle (h : Nat) (k : Kind) (j : Subject) : Claims.HostIdle (reading (.host h) k j 0) 3 (far0 (.host h) k 0) := by
  refine ⟨rfl, rfl, ?_⟩
  intro n b h' g hn
  have := get_mem g
  simp only [reading, List.mem_singleton, Prod.mk.injEq] at this
  exact absurd this.1 hn
theorem witness_replies : (reading (.host 64) .read (.access 3 (.data [])) 0).hostUp = true ∧
    (far0 (.host 64) .atomic 0).kind = .atomic ∧ (far0 (.host 64) .atomic 0).op = .add ∧ (far0 (.host 64) .atomic 0).size = 3 ∧
    64 % 65536 + 2 ^ (far0 (.host 64) .atomic 0).size ≤ 65536 ∧
    (far0 (.panel 5 6 0) .read 0).issuedAt + 14000 ≤ (reading (.panel 5 6 0) .read (.access 3 .timeout) 0).cycle := by decide +kernel
/-- A host read the host has performed already. -/
theorem witness_performed : ∃ (s : State) (a : Access) (was : List Byte), Claims.Outstanding s 3 a thread0 8 false ∧ a.done = some was ∧ a.far = .host 64 ∧
    a.kind = .read ∧ s.hostUp = true := by
  let a : Access := { far0 (.host 64) .read 0 with done := some [1, 2, 3, 4, 5, 6, 7, 8] }
  exact ⟨{ reading (.host 64) .read (.access 3 (.data [])) 0 with accesses := [(3, a)] }, a, [1, 2, 3, 4, 5, 6, 7, 8],
    outstanding_of rfl ⟨rfl, rfl, rfl, rfl⟩ ⟨rfl, rfl, (by decide : 3 ≤ 4)⟩ rfl rfl rfl, rfl, rfl, rfl, rfl⟩

/-- A whole response flit, next in sequence at port 2, from module 5 with tag 3. -/
def eight : List Byte := [1, 2, 3, 4, 5, 6, 7, 8]
def flit0 : FlitHead := let h : FlitHead := ⟨2, 1, 0, 0, 7, 0, 5, 0, 1, 8, 3, 0, 0⟩; { h with crc := flitCrc h eight }
def answering (resets : Nat) : State :=
  { reading (.panel 5 6 0) .read (.response 2 flit0 eight (.data eight)) resets with ports := [(2, { Port.reset with trained := true, expect := 7 })] }
theorem witness_response : ∀ r ∈ [0, 1],
    Claims.InTurn (answering r) 2 flit0 eight 2 ∧ (answering r).accesses = [(3, far0 (.panel 5 6 0) .read r)] ∧
    3 % 65536 = flit0.tag.toNat ∧ (far0 (.panel 5 6 0) .read r).ctx = flit0.ctx.toNat ∧ flit0.src.toNat = 5 ∧
    (r = 0 → (far0 (.panel 5 6 0) .read r).resets % 65536 = flit0.epoch.toNat) ∧ (r = 1 → (far0 (.panel 5 6 0) .read r).resets % 65536 ≠ flit0.epoch.toNat) := by
  intro r hr
  have h : ((answering r).port 2).up = true ∧ ((answering r).port 2).trained = true ∧ (flit0.type = BitVec.ofNat 4 2 ∧ 1 ≤ 2 ∧ 2 ≤ 4 ∧ flit0.vc = BitVec.ofNat 2 1) ∧
      flit0.crc = flitCrc { flit0 with crc := 0 } eight ∧ flit0.seq = ((answering r).port 2).expect ∧ flit0.crd = 0 ∧
      ((answering r).port 2).kept = [] ∧ ((answering r).port 2).waiting = [] ∧ (answering r).accesses = [(3, far0 (.panel 5 6 0) .read r)] ∧
      3 % 65536 = flit0.tag.toNat ∧ (far0 (.panel 5 6 0) .read r).ctx = flit0.ctx.toNat ∧ flit0.src.toNat = 5 ∧
      (r = 0 → (far0 (.panel 5 6 0) .read r).resets % 65536 = flit0.epoch.toNat) ∧
      (r = 1 → (far0 (.panel 5 6 0) .read r).resets % 65536 ≠ flit0.epoch.toNat) := by revert r; decide +kernel
  exact ⟨⟨⟨h.1, h.2.1⟩, h.2.2.1, h.2.2.2.1, h.2.2.2.2.1, h.2.2.2.2.2.1, h.2.2.2.2.2.2.1, h.2.2.2.2.2.2.2.1⟩, h.2.2.2.2.2.2.2.2⟩

/-! Collective instances. -/

/-- One member, whose contribution is `v` under a declaration of one group at a level. -/
def decl0 (level : Nat) : Decl := ⟨1, 1, 1, level⟩
def inst0 (kind : Nat) (v : Bool) (level : Nat) : Instance_ := ⟨1, 2, 4, 0, [⟨1024, kind, v, decl0 level⟩], 1, some 0, 9, false, false, decl0 level⟩
def member (level : Nat) (sp : Option Spec) : Group :=
  { group0 with doms := [(2, { DomainUse.none with decl := some (decl0 level), inFlight := true, count := 1 })], spec := sp }
def instanced (i : Instance_) (level : Nat) (sp : Option Spec) (j : Subject) (w : Wait) : State := { base with
  insts := [(6, i)], groups := [(1024, member level sp)], subject := j, cycle := 9
  threads := [(ta, { thread0 with wait := w }), (tb, thread0)]
  ports := [(2, { Port.reset with trained := true, expect := 7 })] }
theorem oneMember (i : Instance_) (kind : Nat) (v : Bool) (level : Nat) (sp : Option Spec) (j : Subject) (w : Wait) (h : i.dom = 2)
    (hg : i.given = [⟨1024, kind, v, decl0 level⟩]) (hd : i.decl = decl0 level) : Claims.OneMember (instanced i level sp j w) 6 i 1024 (member level sp) kind v (decl0 level) := by
  refine ⟨rfl, hg, rfl, ?_, ?_, hd, ⟨by show team0.place ≠ .ended; decide, rfl⟩, rfl⟩ <;> rw [h] <;> rfl

/-- A store of one byte, held; and the flit of an outcome: whole, next in sequence, of the instance's context, number and epoch. -/
def held0 : HeldStore := ⟨ta, none, [(0x30000, 1)], none, 7, 0, 0, [1], 1, true, false⟩
def flit3 : FlitHead := let h : FlitHead := ⟨3, 2, 0, 0, 7, 0, 5, 0, 1, 8, 0, 0, 0⟩; { h with crc := flitCrc h eight }
/-- The group speculates that the branch is taken, with one store held. -/
def spec0 (taken : Bool) : Spec := {
  key := 2, dom := 2, participants := [ta], target := pc0, next := ptrAdd pc0 12, cbr := pc0, taken := taken, issues := 1, held := 1
  regs := [], savedThreads := [(ta, thread0)], savedScalars := [], stores := [held0], faults := [] }
theorem unclashed (v : Bool) (j : Subject) :
    Claims.Unclashed (instanced (inst0 0 true 0) 0 (some (spec0 v)) j .held) 1024 (spec0 v).stores := by
  intro h hh
  have hh : h = held0 := List.mem_singleton.mp hh
  subst hh
  refine ⟨rfl, rfl, rfl, by decide, fun j => ?_⟩
  have of_group : ∀ g : Group, g = member 0 (some (spec0 v)) ∨ g = Group.blank → 
      ∀ sp, g.spec = some sp → ∀ o ∈ sp.stores, o.tag ≠ 7 ∨ gidOf o.tid = 1024 := by
    rintro g (rfl | rfl) sp hs o ho
    · simp only [member, Option.some.injEq] at hs
      subst hs
      have := List.mem_singleton.mp ho
      subst this
      exact .inr (by decide)
    · simp [Group.blank] at hs
  apply of_group
  by_cases hj : j = 1024
  · exact .inl (by rw [hj]; rfl)
  · refine .inr ?_
    show Tab.getD [(1024, _)] j Group.blank = Group.blank
    simp [Tab.getD, Tab.get?, hj]
theorem witness_cbrResolve : ∀ v ∈ [true, false], let i := inst0 0 true 0
    let s := instanced i 0 (some (spec0 v)) (.collective 6) .held
    s.subject = .collective 6 ∧ Claims.OneMember s 6 i 1024 (member 0 (some (spec0 v))) 0 true (decl0 0) ∧ (decl0 0).level < 2 ∧
    (decl0 0).g * (decl0 0).t * (decl0 0).m ≤ 1 + ((s.context i.ctx).gone.filter (fun e => e.1 == i.set && decide (e.2 ≤ i.number))).length ∧
    (spec0 v).key = i.dom ∧ (spec0 v).faults = [] ∧ Claims.Unclashed s 1024 (spec0 v).stores ∧ Claims.NothingSent s 1024 := by
  intro v hv
  cases v <;> exact ⟨rfl, oneMember _ _ _ _ _ _ _ rfl rfl rfl, by decide, by decide +kernel, rfl, rfl, unclashed _ _,
    fun _ h => absurd h List.not_mem_nil, fun _ h => absurd h List.not_mem_nil⟩
theorem outcomeOf (level : Nat) (i : Instance_) (sp : Option Spec) (o : PanelOutcome) (w : Wait) (h : i.ctx = 1 ∧ i.number = 0) :
    Claims.OutcomeOf (instanced i level sp (.outcome 2 flit3 eight 6 o) w) 2 flit3 eight i := by
  refine ⟨⟨⟨rfl, rfl⟩, by decide +kernel, by decide +kernel, rfl, rfl, rfl, rfl⟩, by rw [h.1]; decide +kernel, by rw [h.2]; decide +kernel, ?_⟩
  rw [h.1]
  show (base.context 1).resets % 65536 = _
  decide +kernel
theorem witness_cbrTimeout : (∀ p ∈ [(inst0 2 false 0, 0, Subject.collective 6), ({ inst0 2 false 2 with expired := true }, 2, .outcome 2 flit3 eight 6 .dissolved)],
      let s := instanced p.1 p.2.1 none p.2.2 .sync
      s.subject = p.2.2 ∧ Claims.OneMember s 6 p.1 1024 (member p.2.1 none) 2 false (decl0 p.2.1) ∧ s.threads.keys.Nodup ∧
      p.1.limit ≠ 0 ∧ p.1.start = some 0 ∧ 0 + p.1.limit ≤ s.cycle ∧ p.1.dom < 16 ∧
      (∀ u, u ∈ [ta] ↔ ∃ z, Claims.AtSync s 1024 u z) ∧ ∀ u ∈ [ta], Claims.Catches s u) ∧
    (decl0 0).level < 2 ∧ ({ inst0 2 false 2 with expired := true } : Instance_).expired = true ∧
    Claims.OutcomeOf (instanced { inst0 2 false 2 with expired := true } 2 none (.outcome 2 flit3 eight 6 .dissolved) .sync) 2 flit3 eight
      { inst0 2 false 2 with expired := true } := by
  refine ⟨?_, by decide, by decide, outcomeOf 2 _ none _ _ ⟨by decide, by decide⟩⟩
  intro p hp
  have who (s : State) (h : s.threads = [(ta, { thread0 with wait := .sync }), (tb, thread0)]) (u : Nat) : u ∈ [ta] ↔ ∃ z, Claims.AtSync s 1024 u z := by
    constructor
    · intro hu
      rw [List.mem_singleton.mp hu]
      exact ⟨_, by rw [h]; rfl, by decide, by decide, rfl⟩
    · rintro ⟨z, hz, -, -, hw⟩
      rw [h] at hz
      rcases two_of hz with ⟨rfl, -⟩ | ⟨-, rfl⟩
      · simp
      · cases hw
  simp only [List.mem_cons, List.not_mem_nil, or_false] at hp
  rcases hp with rfl | rfl <;>
    exact ⟨rfl, oneMember _ _ _ _ _ _ _ rfl rfl rfl, by decide +kernel, by decide, rfl, by decide +kernel, by decide, who _ rfl, by unfold Claims.Catches; decide +kernel⟩
/-- Every port marked down. -/
def allDown : Tab Port := (List.range 32).map (fun q => (q, { Port.reset with up := false }))
theorem portTo_one {s : State} (h : s.ports = []) (dst pair : Nat) : s.portTo dst pair = some (Config.portFor dst pair % 32) := by
  simp [State.portTo, State.port, h, Tab.getD, Port.reset]
theorem allDown_up : ∀ q < 32, ((allDown.getD q Port.reset).up) = false := by decide +kernel
theorem portTo_none {s : State} (h : s.ports = allDown) (dst pair : Nat) : s.portTo dst pair = none := by
  have hd : (s.port (Config.portFor dst pair % 32)).up = false := by
    rw [State.port, h]; exact allDown_up _ (Nat.mod_lt _ (by decide))
  have hf : s.firstUp = none := by
    simp only [State.firstUp, State.port, h]; decide +kernel
  simp [State.portTo, hd, hf]
theorem witness_panelInstance : let i := inst0 0 true 2
    let s (ps : Tab Port) := { instanced i 2 none (.collective 6) .none with ports := ps }
    (∀ ps, (s ps).subject = .collective 6 ∧ Claims.OneMember (s ps) 6 i 1024 (member 2 none) 0 true (decl0 2) ∧ i.start = some 0 ∧
      (decl0 2).g * (decl0 2).t ≤ 1 + (((s ps).context i.ctx).gone.filter (fun e => e.1 == i.set && decide (e.2 ≤ i.number))).length ∧
      0 + i.limit ≤ (s ps).cycle) ∧
    (decl0 2).level = 2 ∧ i.reported = false ∧ i.expired = false ∧ i.limit ≠ 0 ∧
    (∃ p, (s []).portTo (s []).dev.toNat i.dom = some p) ∧ (s allDown).portTo (s allDown).dev.toNat i.dom = none := by
  intro i s
  exact ⟨fun ps => ⟨rfl, ⟨rfl, rfl, rfl, rfl, rfl, rfl, ⟨by show team0.place ≠ .ended; decide, rfl⟩, rfl⟩, rfl, (by decide : 1 * 1 ≤ 1), (by decide : 0 + 9 ≤ 9)⟩,
    rfl, rfl, rfl, by decide, ⟨_, portTo_one rfl _ _⟩, portTo_none rfl _ _⟩
theorem witness_broadcast : let i : Instance_ := { inst0 2 false 2 with reported := true }
    let s := instanced i 2 none (.outcome 2 flit3 eight 6 (.resolved true)) .sync
    s.subject = .outcome 2 flit3 eight 6 (.resolved true) ∧ Claims.OutcomeOf s 2 flit3 eight i ∧ Claims.OneMember s 6 i 1024 (member 2 none) 2 false (decl0 2) ∧ (decl0 2).level = 2 ∧ i.reported = true ∧
    s.contexts.keys.Nodup := by
  intro i s
  exact ⟨rfl, outcomeOf 2 i none _ _ ⟨by decide, by decide⟩, oneMember _ _ _ _ _ _ _ rfl rfl rfl, rfl, rfl, by decide +kernel⟩

/-! Engines and commands. -/

/-- A command of context 1 with these words; command 7 running, alone, on the machine with tables in memory. -/
def cmdOf (ws : List Word) (q : Nat) (st : CmdState) : Command := { newCommand ws 1 q 0 1 (some 1024) false none with state := st }
def working (c : Command) (j : Subject) : State := { serviced [ta, tb] with commands := [(7, c)], subject := j, hostUp := true }
def engines (c : Command) : State := working c (.command 7)
def src : Ptr := mkPtr 6 0x400
def dst : Ptr := mkPtr 6 0x800
theorem sound_engines (c : Command) (a n : Nat) : Claims.Sound (engines c) a n := sound_of ⟨by show base.flkCtl.getLsbD 31 = false; decide, rfl, rfl⟩ a n
theorem runs_of {c : Command} {type : Nat} (ht : c.type = type) (hc : c.state = .running ∧ c.run = Progress.none) (hf : (engines c).transferWaits 7 c = false) :
    Claims.Runs (engines c) type 7 c :=
  ⟨rfl, rfl, ht, hc.1, hc.2, hf, ⟨rfl, rfl⟩, fun _ h => absurd h List.not_mem_nil,
    fun e he => by rw [show e = (7, c) from List.mem_singleton.mp he]; show c.run.parts = []; rw [hc.2]; rfl, rfl,
    fun j => all_getD (t := [(1, team0)]) (P := fun t : Team => t.ending = none) (d := Team.blank) rfl (by intro e he; rw [List.mem_singleton.mp he]; rfl) j,
    ⟨by show base.flkCtl.getLsbD 31 = false; decide, rfl, rfl⟩⟩

/-! Ranges of the second data page, whatever is written clear of the tables. -/

def desc6 : Desc := ⟨true, 0, true, true, false, false, false, 0, 0x10000, 0x10000, 0, 0⟩
def Clear (rs : List (Nat × Nat)) : Prop := ∀ r ∈ rs, (0x30000 ≤ r.1 ∧ r.1 + r.2 ≤ 0x40000) ∨ (0x1000E0 ≤ r.1 ∧ r.1 + r.2 ≤ 0x100100)
theorem page_one {off n : Nat} (hn : 0 < n) (h : off + n ≤ 65536) : pagePieces off n = [(off, n)] := by
  unfold pagePieces
  rw [if_neg (by omega), Nat.div_eq_of_lt (by omega), Nat.div_eq_of_lt (by omega)]
  simp
  omega
theorem ptr_six {off : Nat} (h : off ≤ 65536) : segOf (mkPtr 6 off) = 6 ∧ offOf (mkPtr 6 off) = off := by
  have e : (mkPtr 6 off).toNat = 6 * 2 ^ 44 + off := by
    unfold mkPtr
    rw [BitVec.toNat_ofNat]
    omega
  constructor
  · rw [segOf, BitVec.toNat_ushiftRight, e, Nat.shiftRight_eq_div_pow]
    omega
  · rw [offOf, e]
    omega
theorem page_six {u : State} {c : Command} {j : Subject} {rs : List (Nat × Nat)} (e : Claims.SameBut (working c j) u rs) (h : Clear rs) :
    u.context 1 = { context0 with segBase := 0x100000, tableBase := 0x200000 } ∧ u.descHome 1 6 = desc6 ∧
      ∀ d, 0x10000 ≤ d → d < 0x20000 → u.walk 1 d = some 0x8380000000030000 := by
  have hx : u.context 1 = { context0 with segBase := 0x100000, tableBase := 0x200000 } := by
    unfold State.context
    rw [show u.contexts = (working c j).contexts from (congrArg State.contexts e.frame :)]
    rfl
  have hw (a : Nat) (ha : (0x1000C0 ≤ a ∧ a + 8 ≤ 0x1000E0) ∨ 0x200000 ≤ a) : u.homeWord a = (serviced [ta, tb]).homeWord a := by
    unfold State.homeWord State.homeBytes
    refine congrArg (fun l => BitVec.ofNat 64 (leNat l)) (List.map_congr_left fun k hk => ?_)
    rw [e.bytes (a + k) (fun r hr => by have := h r hr; have := List.mem_range.mp hk; omega)]
    rfl
  refine ⟨hx, ?_, fun d h1 h2 => ?_⟩
  · unfold State.descHome
    rw [hx]
    simp only [hw (0x100000 + 32 * 6) (by decide), hw (0x100000 + 32 * 6 + 8) (by decide), hw (0x100000 + 32 * 6 + 16) (by decide),
      hw (0x100000 + 32 * 6 + 24) (by decide)]
    decide +kernel
  · unfold State.walk
    rw [hx]
    have h40 : d / 2 ^ 40 % 256 * 8 = 0 := by omega
    have h32 : d / 2 ^ 32 % 256 * 8 = 0 := by omega
    have h24 : d / 2 ^ 24 % 256 * 8 = 0 := by omega
    have h16 : d / 2 ^ 16 % 256 * 8 = 8 := by omega
    simp only [h40, h32, h24, h16]
    rw [hw (0x200000 + 0) (by decide), show State.nextTable ((serviced [ta, tb]).homeWord (0x200000 + 0)) = some 0x201000 by decide +kernel]
    simp only
    rw [hw (0x201000 + 0) (by decide), show State.nextTable ((serviced [ta, tb]).homeWord (0x201000 + 0)) = some 0x202000 by decide +kernel]
    simp only
    rw [hw (0x202000 + 0) (by decide), show State.nextTable ((serviced [ta, tb]).homeWord (0x202000 + 0)) = some 0x203000 by decide +kernel]
    simp only
    rw [hw (0x203000 + 8) (by decide)]
    decide +kernel
theorem home_six (c : Command) (j : Subject) {off n : Nat} (kind : Kind) (rs : List (Nat × Nat)) (h : off + n ≤ 65536) (hk : kind ≠ .fetch) (hr : Clear rs) :
    Claims.AtHome (working c j) 1 (mkPtr 6 off) n kind (0x30000 + off) rs := by
  intro u e
  obtain ⟨hx, hd, hw⟩ := page_six e hr
  have hf : pageFrame 0x8380000000030000 = 0x30000 := by decide
  obtain ⟨hs, ho⟩ := ptr_six (off := off) (by omega)
  constructor
  · unfold State.engineCheck State.checkRange
    simp only [State.engine, hs, ho, hd]
    rw [if_neg (by simp [desc6]; omega)]
    by_cases hn : n = 0
    · simp [pagePieces, hn]
    · rw [page_one (by omega) h]
      have ha : ∀ k, k ≠ Kind.fetch → desc6.allows k = true ∧ pageAllows 0x8380000000030000 k = true ∧
          pkrAllows context0.pkr (pageKey 0x8380000000030000) k = true := by intro k; cases k <;> decide
      have hp : u.walk 1 (0x10000 + off) = some 0x8380000000030000 := hw _ (by omega) (by omega)
      obtain ⟨a1, a2, a3⟩ := ha kind hk
      have hl : decide (off + n ≤ 65536) = true := by simpa using h
      have hc : (State.checkAl u ⟨1, none, none, none, true⟩ (mkPtr 6 off) n false 0 kind) = .ok desc6 (.home (pageFrame 0x8380000000030000 + (0x10000 + off) % 65536)) := by
        have hd1 : desc6.valid = true ∧ desc6.len = 65536 ∧ desc6.type = 0 ∧ desc6.base = 0x10000 ∧ desc6.sl = false := by decide
        have hb : u.dvaBase none desc6 = 0x10000 := by simp [State.dvaBase, hd1]
        unfold State.checkAl
        simp only [hb, hs, ho, hd, hd1, hl, a1, hx, State.pageOn, State.sealed, State.local_, hp]
        simp [hk, context0, Context.blank]
        exact (if_neg (fun q => Bool.noConfusion (a2.symm.trans q))).trans (if_neg (fun q => Bool.noConfusion (a3.symm.trans q)))
      simp [hc]
  · intro o m h0 hm
    have e2 : mkPtr (segOf (mkPtr 6 off)) (offOf (mkPtr 6 off) + o) = mkPtr 6 (off + o) := by rw [hs, ho]
    obtain ⟨hs2, ho2⟩ := ptr_six (off := off + o) (by omega)
    unfold State.pieces
    rw [e2, hs2, ho2, hd, page_one (by omega) (by omega)]
    have hp : u.walk 1 (desc6.base + (off + o)) = some 0x8380000000030000 := hw _ (by simp [desc6]) (by simp [desc6]; omega)
    simp only [List.filterMap_cons, List.filterMap_nil, hp, Option.map_some, hf]
    have : (desc6.base + (off + o)) % 65536 = off + o := by simp only [desc6]; omega
    rw [this]
    simp [desc6, Nat.add_assoc]
theorem same_refl (s : State) (rs : List (Nat × Nat)) : Claims.SameBut s s rs := ⟨rfl, fun _ _ => rfl⟩
theorem clear_of (rs : List (Nat × Nat)) (h : rs.all (fun r => decide ((0x30000 ≤ r.1 ∧ r.1 + r.2 ≤ 0x40000) ∨ (0x1000E0 ≤ r.1 ∧ r.1 + r.2 ≤ 0x100100))) = true) :
    Clear rs := fun r hr => by simpa using List.all_eq_true.mp h r hr

theorem witness_note : ∀ p ∈ ([(cmdOf [0x08000000, 0x30000] 0 .running, true), (cmdOf [0x08000000, 0x30000, 1] 0 .running, false)] : List (Command × Bool)),
    Claims.Runs (engines p.1) 8 7 p.1 ∧ ((∀ j, 2 ≤ j → j < 12 → p.1.word j = 0) ↔ p.2 = true) := by
  intro p hp
  simp only [List.mem_cons, List.not_mem_nil, or_false] at hp
  rcases hp with rfl | rfl
  · refine ⟨runs_of rfl ⟨rfl, rfl⟩ (by decide +kernel), fun _ => rfl, fun _ j h1 h2 => ?_⟩
    obtain ⟨k, rfl⟩ := Nat.exists_eq_add_of_le h1
    rw [Nat.add_comm]; rfl
  · refine ⟨runs_of rfl ⟨rfl, rfl⟩ (by decide +kernel), fun h => ?_, fun h => by cases h⟩
    exact absurd (h 2 (by decide) (by decide)) (by decide)

/-- A FILL of 48 bytes; a COPY of 48; a GATHER of 16 by the index at `src`, whose value there is 0; a REDADD of four floats. -/
def fill0 : Command := cmdOf [0x03000000, 0x30000, 0xA5A5A5A5, 0, hiWord dst, loWord dst, 48, 1] 32 .running
def copy0 (st : CmdState) : Command := cmdOf [0x02000000, 0x30000, hiWord src, loWord src, hiWord dst, loWord dst, 48, 1, 48, 48] 32 st
def gather0 : Command := cmdOf [0x04000000, 0x30000, hiWord src, loWord src, hiWord dst, loWord dst, 16, 1, 16, 16, hiWord src, loWord src] 32 .running
def redadd0 (z : Word) : Command := cmdOf [0x05000000, 0x30000, hiWord src, loWord src, hiWord dst, loWord dst, 4, z] 32 .running
theorem witness_fill : Claims.Runs (engines fill0) 3 7 fill0 ∧ (fill0.word 7 = 1 ∧ fill0.word 3 = 0 ∧ fill0.word 8 = 0 ∧ fill0.word 10 = 0 ∧
    fill0.word 11 = 0 ∧ fill0.flags.getLsbD 2 = false ∧ fill0.word 6 = 48) ∧
    Claims.AtHome (engines fill0) fill0.ctx (fill0.pair 4) 48 .write 0x30800 [(0x30800, 48)] :=
  ⟨runs_of (by decide) ⟨rfl, rfl⟩ (by decide +kernel), by decide +kernel,
    home_six fill0 (.command 7) (off := 0x800) .write _ (by decide) (by decide) (clear_of _ (by decide))⟩
theorem witness_copy : Claims.Runs (engines (copy0 .running)) 2 7 (copy0 .running) ∧ (let c := copy0 .running
    (c.word 7 = 1 ∧ c.word 10 = 0 ∧ c.word 11 = 0 ∧ c.flags.getLsbD 1 = false ∧ c.flags.getLsbD 2 = false ∧ c.word 6 = 48) ∧
    Claims.AtHome (engines c) c.ctx (c.pair 2) 48 .read 0x30400 [(0x30800, 48)] ∧
    Claims.AtHome (engines c) c.ctx (c.pair 4) 48 .write 0x30800 [(0x30800, 48)] ∧ Claims.Apart 0x30400 48 0x30800 48) :=
  ⟨runs_of (by decide) ⟨rfl, rfl⟩ (by decide +kernel), by decide +kernel,
    home_six _ (.command 7) (off := 0x400) .read _ (by decide) (by decide) (clear_of _ (by decide)),
    home_six _ (.command 7) (off := 0x800) .write _ (by decide) (by decide) (clear_of _ (by decide)), by unfold Claims.Apart; decide⟩
/-- The one block of that COPY, its rows being within one line. -/
def begun0 : Command := { copy0 .running with run := { Progress.none with begun := true } }
theorem witness_block : let c := begun0
    let s := working c (.block 7 0)
    (s.subject = .block 7 0 ∧ s.commands.get? 7 = some c ∧ c.type = 2 ∧ c.state = .running ∧ c.run.begun = true ∧ c.run.index = [] ∧ 0 ∉ c.run.blocks ∧
      (State.blocksOf c)[0]? = some [⟨0, 0, 48⟩] ∧ c.flags.getLsbD 1 = false ∧ c.flags.getLsbD 2 = false ∧
      s.hostUp = true ∧ s.posted = [] ∧ s.budgets = [] ∧ (∀ e ∈ s.accesses, e.2.cmd ≠ 7) ∧ (∀ e ∈ s.commands, e.2.run.parts = []) ∧ c.word 6 = 48) ∧ Claims.Clean s ∧
    Claims.AtHome s c.ctx (c.pair 2) 48 .read 0x30400 [(0x30800, 48)] ∧ Claims.AtHome s c.ctx (c.pair 4) 48 .write 0x30800 [(0x30800, 48)] :=
  ⟨by decide +kernel, ⟨by show base.flkCtl.getLsbD 31 = false; decide, rfl, rfl⟩,
    home_six _ (.block 7 0) (off := 0x400) .read _ (by decide) (by decide) (clear_of _ (by decide)),
    home_six _ (.block 7 0) (off := 0x800) .write _ (by decide) (by decide) (clear_of _ (by decide))⟩
theorem witness_gather : Claims.Runs (engines gather0) 4 7 gather0 ∧ (gather0.word 7 = 1 ∧ gather0.word 6 = 16) ∧
    Claims.word32 (engines gather0) 0x30400 = 0 ∧
    Claims.AtHome (engines gather0) gather0.ctx (gather0.pair 10) 4 .read 0x30400 [] ∧
    Claims.AtHome (engines gather0) gather0.ctx (mkPtr (segOf (gather0.pair 2)) (offOf (gather0.pair 2) + 0 * (gather0.word 8).toNat)) 16 .read 0x30400 [(0x30800, 16)] ∧
    Claims.AtHome (engines gather0) gather0.ctx (gather0.pair 4) 16 .write 0x30800 [(0x30800, 16)] ∧
    offOf (gather0.pair 2) + 0 * (gather0.word 8).toNat < 2 ^ 44 ∧ Claims.Apart 0x30400 16 0x30800 16 :=
  ⟨runs_of (by decide) ⟨rfl, rfl⟩ (by decide +kernel), by decide +kernel, by unfold Claims.word32; decide +kernel,
    home_six _ (.command 7) (off := 0x400) .read _ (by decide) (by decide) (clear_of _ (by decide)),
    home_six _ (.command 7) (off := 0x400) .read _ (by decide) (by decide) (clear_of _ (by decide)),
    home_six _ (.command 7) (off := 0x800) .write _ (by decide) (by decide) (clear_of _ (by decide)), by decide +kernel, by unfold Claims.Apart; decide⟩
theorem witness_redadd : ∀ p ∈ ([(4, 4), (6, 2)] : List (Nat × Nat)), let c := redadd0 (BitVec.ofNat 32 p.1)
    Claims.Runs (engines c) 5 7 c ∧
    (c.word 7 = BitVec.ofNat 32 p.1 ∧ c.word 6 = 4 ∧ c.word 8 = 0 ∧ c.word 9 = 0 ∧ c.word 10 = 0 ∧ c.word 11 = 0 ∧ offOf (c.pair 2) % p.2 = 0 ∧
      offOf (c.pair 4) % p.2 = 0) ∧
    Claims.AtHome (engines c) c.ctx (c.pair 2) (4 * p.2) .read 0x30400 [(0x30800, 4 * p.2)] ∧
    Claims.AtHome (engines c) c.ctx (c.pair 4) (4 * p.2) .atomic 0x30800 [(0x30800, 4 * p.2)] ∧ Claims.Apart 0x30400 (4 * p.2) 0x30800 (4 * p.2) := by
  intro p hp
  simp only [List.mem_cons, List.not_mem_nil, or_false] at hp
  rcases hp with rfl | rfl <;>
    exact ⟨runs_of (by decide) ⟨rfl, rfl⟩ (by decide +kernel), by decide +kernel,
      home_six _ (.command 7) (off := 0x400) .read _ (by decide) (by decide) (clear_of _ (by decide)),
      home_six _ (.command 7) (off := 0x800) .atomic _ (by decide) (by decide) (clear_of _ (by decide)), by unfold Claims.Apart; decide⟩
/-- What a translator may give: eight bytes of code for segment 7, in the second data page. -/
def given0 : Translation := ⟨7, 1, 0, 0, true, [1, 2, 3, 4, 5, 6, 7, 8]⟩
def translate0 : Command := cmdOf [0x09000000, 0x30000, 0, 0x77, 3, 0, 0, 0, hiWord dst, loWord dst] 56 .running
theorem witness_translate : let c := translate0
    let s := engines c
    Claims.Runs s 9 7 c ∧ (c.word 5 = 0 ∧ c.word 6 = 0 ∧ c.word 7 = 0 ∧ c.word 10 = 0 ∧ c.word 11 = 0) ∧
    Claims.AtHome s c.ctx (c.pair 8) 8 .write 0x30800 [] ∧ (s.freeSeg c.ctx given0.seg = some 7 ∧ (s.descHome c.ctx 7).valid = false ∧
      7 < (s.context c.ctx).stl ∧ (s.context c.ctx).segBase + 32 * 7 = 0x1000E0 ∧ given0.code.length = 8) ∧
    (∀ u, Claims.SameBut s u [(0x1000E0, 32)] → u.descHome c.ctx 7 = Claims.newCode given0 → u.pieces c.ctx (mkPtr 7 0) 8 = [(.home 0x30000, 8)]) ∧
    Claims.AtHome s c.ctx (c.pair 8) 8 .write 0x30800 [(0x1000E0, 32), (0x30000, 8)] ∧ Claims.Apart 0x1000E0 32 0x30000 8 ∧
    Claims.Apart 0x1000E0 32 0x30800 8 ∧ Claims.Apart 0x30000 8 0x30800 8 := by
  refine ⟨runs_of (by decide) ⟨rfl, rfl⟩ (by decide +kernel), by decide +kernel,
    home_six _ (.command 7) (off := 0x800) .write _ (by decide) (by decide) (clear_of _ (by decide)), by decide +kernel, ?_,
    home_six _ (.command 7) (off := 0x800) .write _ (by decide) (by decide) (clear_of _ (by decide)), ?_⟩
  · intro u e hd
    have h7 : segOf (mkPtr 7 0) = 7 ∧ offOf (mkPtr 7 0) = 0 := by decide
    have hp : u.walk 1 0x10000 = some 0x8380000000030000 := (page_six e (clear_of _ (by decide))).2.2 _ (by decide) (by decide)
    unfold State.pieces
    rw [h7.1, h7.2, hd, page_one (by decide) (by decide)]
    rw [show translate0.ctx = 1 from rfl, show (Claims.newCode given0) = ⟨true, 1, true, false, true, false, false, 0, 0x10000, 8, 0, 0⟩ by decide]
    simp only [List.filterMap_cons, List.filterMap_nil]
    rw [hp]
    decide
  · unfold Claims.Apart; decide

/-- A grid of 4 × 4 tiles at distance 1: the bitmap at `src`, the header at `dst`, halves of 128 bytes, the change mask at offset 0x600. -/
def lit0 (type : Word) (mask : Word × Word) : Command :=
  cmdOf [type, 0x30000, hiWord src, loWord src, hiWord dst, loWord dst, 0x00040004, 1, 0, 128, mask.1, mask.2] 48 .running
def build0 : Command := lit0 0x06000000 (0, 0)
def delta0 : Command := lit0 0x07000000 (hiWord (mkPtr 6 0x600), loWord (mkPtr 6 0x600))
theorem witness_lit : (Claims.Runs (engines build0) 6 7 build0 ∧ Claims.Runs (engines delta0) 7 7 delta0) ∧
    ∀ c ∈ [build0, delta0], let s := engines c
      (State.litBad c = false ∧ s.litHalf 7 c = 0 ∧ c.ctx = 1 ∧ c.pair 4 = dst ∧ c.word 9 = 128 ∧ c.word 6 = 0x00040004) ∧
      Claims.AtHome s c.ctx (c.pair 2) 2 .read 0x30400 [] ∧
      (c.type = 7 → Claims.AtHome s c.ctx (c.pair 10) 2 .read 0x30600 [] ∧ Claims.AtHome s c.ctx (mkPtr 6 0x8C0) 128 .read 0x308C0 []) ∧
      Claims.AtHome s c.ctx (mkPtr 6 0x840) 128 .write 0x30840 [(0x30840, 128)] ∧ s.engineCheck c.ctx dst 4 false .read = none ∧
      Claims.AtHome s c.ctx dst 4 .write 0x30800 [(0x30840, 128)] ∧ Claims.Apart 0x30800 4 0x30840 128 := by
  refine ⟨⟨runs_of (by decide) ⟨rfl, rfl⟩ (by decide +kernel), runs_of (by decide) ⟨rfl, rfl⟩ (by decide +kernel)⟩, ?_⟩
  intro c hc
  simp only [List.mem_cons, List.not_mem_nil, or_false] at hc
  rcases hc with rfl | rfl
  · exact ⟨by decide +kernel, home_six _ (.command 7) (off := 0x400) .read _ (by decide) (by decide) (clear_of _ (by decide)),
      fun h => absurd h (by decide), home_six _ (.command 7) (off := 0x840) .write _ (by decide) (by decide) (clear_of _ (by decide)), by decide +kernel,
      home_six _ (.command 7) (off := 0x800) .write _ (by decide) (by decide) (clear_of _ (by decide)), by unfold Claims.Apart; decide⟩
  · exact ⟨by decide +kernel, home_six _ (.command 7) (off := 0x400) .read _ (by decide) (by decide) (clear_of _ (by decide)),
      fun _ => ⟨home_six _ (.command 7) (off := 0x600) .read _ (by decide) (by decide) (clear_of _ (by decide)),
        home_six _ (.command 7) (off := 0x8C0) .read _ (by decide) (by decide) (clear_of _ (by decide))⟩,
      home_six _ (.command 7) (off := 0x840) .write _ (by decide) (by decide) (clear_of _ (by decide)), by decide +kernel,
      home_six _ (.command 7) (off := 0x800) .write _ (by decide) (by decide) (clear_of _ (by decide)), by unfold Claims.Apart; decide⟩

/-! The command unit and LAUNCH. -/

def noteCmd (q n : Nat) (entry : DWord) : Command := { cmdOf [0x08000000, 0x30000] q (.ready n) with entry := entry }
/-- Accepted on queue 3 under priority 1 and on queue 4 under priority 6. -/
def queued2 : State := { base with commands := [(7, noteCmd 3 1 0x8000000000000001), (8, noteCmd 4 0 0x8000000000000006)] }
theorem witness_dispatch : (let c := noteCmd 3 1 0x8000000000000001
     let d := noteCmd 4 0 0x8000000000000006
     queued2.commands = [(7, c), (8, d)] ∧ c.type = 8 ∧ d.type = 8 ∧ c.state = .ready 1 ∧ d.state = .ready 0 ∧ queued2.budgets = [] ∧ c.queue < 64 ∧
      d.queue < 64 ∧ c.ctx < 64 ∧ d.ctx < 64 ∧ (c.ctx, c.queue) ≠ (d.ctx, d.queue) ∧ (∀ a ∈ queued2.accesses, a.2.cmd ≠ 7) ∧
      (c.entry.extractLsb' 0 3).toNat < (d.entry.extractLsb' 0 3).toNat) ∧
    (let c := copy0 (.ready 0)
     (engines c).commands = [(7, c)] ∧ c.type = 2 ∧ c.flags.getLsbD 1 = false ∧ c.flags.getLsbD 2 = false ∧ c.state = .ready 0 ∧
     (engines c).budgets = [] ∧ (engines c).absentPages 7 c = [] ∧ (engines c).overlaps c = false ∧
     (∀ a ∈ (engines c).accesses, a.2.cmd ≠ 7)) := by decide +kernel

/-- A NOTE that has failed and halts its successor, node 5, at which command 8 waits. -/
def done0 : Command := { cmdOf [0x08000000, 0x180000, 0, 0, 0, 0, 0, 0, 0, 0, 0, 0, 5, 0, hiWord dst, loWord dst] 3 (.moved 4 7) with entry := 0xC000000500000001 }
def finishing : State := { serviced [ta, tb] with
  commands := [(7, done0), (8, cmd0)], subject := .command 7, hostUp := true
  contexts := [(1, { context0 with segBase := 0x100000, tableBase := 0x200000, nodes := [(5, ⟨1, some 8, false⟩)] })] }
theorem witness_complete : finishing.subject = .command 7 ∧ finishing.commands.get? 7 = some done0 ∧ done0.state = .moved 4 7 ∧ done0.type ≠ 1 ∧
    done0.nodeId = 0 ∧ done0.succs = [5, 0, 0, 0] ∧ (finishing.contexts.get? done0.ctx).any (fun x => x.resets == done0.resets) = true ∧
    (∀ l ∈ finishing.launches, l.2.cmd ≠ 7) ∧ (∀ a ∈ finishing.accesses, a.2.cmd ≠ 7) ∧ finishing.hostUp = true ∧ finishing.posted = [] ∧
    done0.record ≠ 0 ∧ finishing.pieces done0.ctx done0.record 8 = [(.home 0x30800, 8)] ∧ (finishing.node done0.ctx 5).cmd = some 8 ∧
    finishing.commands.get? 8 = some cmd0 ∧ cmd0.state = .waiting := by decide +kernel
theorem sound_finishing : Claims.Sound finishing 0x30800 8 := sound_of (by decide +kernel) _ _

/-- A launch of three teams of 33 threads in groups of 32, eight registers, one tile, at level 2. -/
def launchCmd (n : Word) : Command :=
  cmdOf [0x01100000, 0x30000, hiWord pc0, loWord pc0, n, 0x01080021, 0x00082001, 0, 0, 0, 0, 0] 0 .running
theorem witness_launch : ∀ c ∈ [launchCmd 1, launchCmd 3], Claims.Runs (engines c) 1 7 c ∧
    launchShape c = none ∧ c.pin = none ∧ c.pair 10 = 0 ∧ c.pair 8 = 0 ∧ c.flags.getLsbD 3 = false ∧ c.flags.getLsbD 6 = false ∧ c.flags.getLsbD 7 = false ∧
    c.word 4 ≠ 0 ∧
    (let d := (engines c).descHome c.ctx (segOf (c.pair 2))
     d.valid = true ∧ d.type = 1 ∧ d.exec = true ∧ offOf (c.pair 2) % 4 = 0 ∧ offOf (c.pair 2) + 4 ≤ d.len) := by
  intro c hc
  simp only [List.mem_cons, List.not_mem_nil, or_false] at hc
  rcases hc with rfl | rfl <;> exact ⟨runs_of (by decide) ⟨rfl, rfl⟩ (by decide +kernel), by decide +kernel⟩

/-! Placement, pre-emption, return and the module. -/

/-- The areas of two groups: reply block, save area, slices. -/
def areas2 : List RuntimeArea := [⟨mkPtr 6 0, mkPtr 6 0x1000, 0x400⟩, ⟨mkPtr 6 0x100, mkPtr 6 0x8000, 0x800⟩]
/-- Team 2 of a launch of 20 threads in groups of 16 waits at the head of die 0's order. -/
def pending0 : Team := { Team.blank with launch := 2, place := .pending, tsize := 20, params := List.replicate 16 7 }
def launch2 : Launch := { launch0 with tsize := 20, id := 2, leases := [], handed := 0, restart := false }
def waiting2 : State := { serviced [] with
  hbm := cellsOf (tables.map (fun e => if e.1 = 0x100068 then (e.1, 64) else e))
  launches := [(1, launch0), (2, launch2)], teams := [(1, team0), (2, pending0)], dies := [(0, { Die.empty with pending := [2] })]
  subject := .placing 0 areas2 }
/-- What a walk finds in tables from an address on that hold what they held. -/
theorem walk_same {u s : State} {c : Nat} (hx : u.contexts = s.contexts) (ha : ∀ a, 0x200000 ≤ a → u.homeWord a = s.homeWord a)
    (hb : 0x200000 ≤ (s.context c).tableBase)
    (h : (List.range 256).all (fun i => (State.nextTable (s.homeWord ((s.context c).tableBase + i * 8))).all (fun t => decide (0x200000 ≤ t) &&
      (List.range 256).all (fun j => (State.nextTable (s.homeWord (t + j * 8))).all (fun t' => decide (0x200000 ≤ t') &&
        (List.range 256).all (fun k => (State.nextTable (s.homeWord (t' + k * 8))).all (fun t'' => decide (0x200000 ≤ t''))))))) = true)
    (dva : Nat) : u.walk c dva = s.walk c dva := by
  have idx (n : Nat) : n % 256 ∈ List.range 256 := List.mem_range.mpr (Nat.mod_lt _ (by decide))
  have h := List.all_eq_true.mp h _ (idx (dva / 2 ^ 40))
  have hc : u.context c = s.context c := by simp only [State.context, hx]
  unfold State.walk
  rw [hc]
  simp only
  rw [ha _ (by omega)]
  generalize State.nextTable (s.homeWord ((s.context c).tableBase + dva / 2 ^ 40 % 256 * 8)) = o at h ⊢
  cases o with
  | none => rfl
  | some t =>
    simp only [Option.all_some, Bool.and_eq_true, decide_eq_true_eq] at h
    have h1 := List.all_eq_true.mp h.2 _ (idx (dva / 2 ^ 32))
    simp only
    rw [ha _ (by omega)]
    generalize State.nextTable (s.homeWord (t + dva / 2 ^ 32 % 256 * 8)) = o at h1 ⊢
    cases o with
    | none => rfl
    | some t' =>
      simp only [Option.all_some, Bool.and_eq_true, decide_eq_true_eq] at h1
      have h2 := List.all_eq_true.mp h1.2 _ (idx (dva / 2 ^ 24))
      simp only
      rw [ha _ (by omega)]
      generalize State.nextTable (s.homeWord (t' + dva / 2 ^ 24 % 256 * 8)) = o at h2 ⊢
      cases o with
      | none => rfl
      | some t'' =>
        simp only [Option.all_some, decide_eq_true_eq] at h2
        simp only
        rw [ha _ (by omega)]
/-- The slices of the two groups, 64 bytes a lane, lie from 0x20400 and from 0x20800 on, clear of the tables. -/
theorem waiting2_slices : Claims.SlicesStand waiting2 launch2 areas2 ∧
    Claims.sliceHomes waiting2 launch2 areas2 = [(0x20400, 1024), (0x20800, 1024)] := by
  have hs : Claims.sliceHomes waiting2 launch2 areas2 = [(0x20400, 1024), (0x20800, 1024)] := by decide +kernel
  refine ⟨⟨by decide +kernel, ?_⟩, hs⟩
  intro u hx hy b
  have hw (a : Nat) (ha : 0x100000 ≤ a) : u.homeWord a = waiting2.homeWord a := by
    unfold State.homeWord State.homeBytes
    refine congrArg (fun l => BitVec.ofNat 64 (leNat l)) (List.map_congr_left fun k _ => hy _ ?_)
    rw [hs]
    rintro ⟨r, hr, h1, h2⟩
    simp only [List.mem_cons, List.not_mem_nil, or_false] at hr
    rcases hr with rfl | rfl <;> simp only at h1 h2 <;> omega
  have hc : u.context 1 = waiting2.context 1 := by simp only [State.context, hx]
  have hd : u.descHome 1 3 = waiting2.descHome 1 3 := by
    unfold State.descHome
    rw [hc]
    simp only [hw ((waiting2.context 1).segBase + 32 * 3) (by decide +kernel), hw ((waiting2.context 1).segBase + 32 * 3 + 8) (by decide +kernel),
      hw ((waiting2.context 1).segBase + 32 * 3 + 16) (by decide +kernel), hw ((waiting2.context 1).segBase + 32 * 3 + 24) (by decide +kernel)]
  have hk (v : Nat) : u.walk 1 v = waiting2.walk 1 v :=
    walk_same hx (fun a ha => hw a (by omega)) (by decide +kernel) (by decide +kernel) v
  show u.spanHomes 1 (u.sliceSpan 1 16 b) = waiting2.spanHomes 1 (waiting2.sliceSpan 1 16 b)
  simp only [State.spanHomes, State.sliceSpan, hd, hk]
theorem witness_teamPlace : (waiting2.subject = .placing 0 areas2 ∧ (waiting2.die 0).pending = [2] ∧
      waiting2.teams.get? 2 = some pending0 ∧ waiting2.launches.get? pending0.launch = some launch2 ∧ pending0.gang.length ≤ 1 ∧ pending0.tileId = none ∧
      launch2.leases = [] ∧ launch2.pin = none ∧ launch2.width ∈ [16, 32, 64] ∧ launch2.groups ≤ 192 ∧ ∀ e ∈ waiting2.teams, e.2.place ≠ .parked) ∧
    96 * 0 ≤ 5 ∧ 5 < 96 * 0 + 96 ∧ waiting2.fits launch2 [5] = true := by decide +kernel

/-- Three single teams of one launch pending on die 0. -/
def crowded : State := { base with
  teams := (List.range 3).map (fun j => (j + 2, { pending0 with index := j })), dies := [(0, { Die.empty with pending := [2, 3, 4] })], rebal := 3 }
theorem witness_rebalance : (crowded.die 0).pending = [2, 3, 4] ∧ (∀ d, 1 ≤ d → d < 4 → (crowded.die d).pending = []) ∧ crowded.rebal ≠ 0 ∧
    crowded.rebal ≤ ([2, 3, 4] : List Nat).length ∧ (crowded.launch 2).pin = none ∧ (∀ k ∈ [2, 3, 4], ∃ T, crowded.teams.get? k = some T ∧ T.launch = 2 ∧ T.gang.length ≤ 1) ∧
    ([2, 3, 4] : List Nat).Pairwise (fun a b => (crowded.team a).index < (crowded.team b).index) := by
  refine ⟨by decide +kernel, ?_, by decide +kernel, by decide +kernel, by decide +kernel, ?_, by decide +kernel⟩
  · intro d h1 h2
    have : d = 1 ∨ d = 2 ∨ d = 3 := by omega
    rcases this with rfl | rfl | rfl <;> decide +kernel
  · intro k hk
    simp only [List.mem_cons, List.not_mem_nil, or_false] at hk
    rcases hk with rfl | rfl | rfl <;> exact ⟨_, rfl, by decide +kernel, by decide +kernel⟩

/-- The base team, asked to leave core 0, with a handler and without. -/
def asked (thnd : Word) : State := { base with groups := [(1024, { group0 with thnd := thnd })], subject := .launchOn 1 0 }
theorem witness_preempt : ∀ h ∈ ([0x800, 0] : List Word), let s := asked h
    s.subject = .launchOn 1 0 ∧ s.teamsOf 1 = [1] ∧ s.teams.get? 1 = some team0 ∧ team0.place = .resident ∧ 0 ∈ team0.cores ∧ team0.ending = none ∧
    (∀ gid g, s.groups.get? gid = some g → teamOf gid = 1 → g.spec = none ∧ ∀ e ∈ g.doms, e.2.inFlight = false) ∧
    (∀ u z, s.threads.get? u = some z → teamOf (gidOf u) = 1 → ∀ a, z.wait ≠ .acquire a) := by
  intro h hh
  refine ⟨rfl, by simp only [List.mem_cons, List.not_mem_nil, or_false] at hh; rcases hh with rfl | rfl <;> decide +kernel, rfl, rfl, by decide, rfl, ?_, ?_⟩
  · intro gid g hg _
    have := get_mem hg
    simp only [asked, List.mem_singleton, Prod.mk.injEq] at this
    rw [this.2]
    exact ⟨rfl, by intro e he; cases he⟩
  · intro u z hz _ a
    rcases two_of hz with ⟨-, rfl⟩ | ⟨-, rfl⟩ <;> (intro hw; cases hw)

/-- The team's two threads parked, its save area in segment 6 from the start. -/
def saving (pre : Bool) (p : Place) (j : Subject) : State := { serviced [] with
  groups := [(1024, { group0 with savep := mkPtr 6 0 })], subject := j, cycle := 11200
  threads := [(ta, { thread0 with wait := .park pc0 }), (tb, { thread0 with wait := .park (ptrAdd pc0 4) })]
  teams := [(1, { team0 with place := p, preempting := pre })] }
theorem saving_threads (pre : Bool) (p : Place) (j : Subject) : (∃ u z, (saving pre p j).threads.get? u = some z ∧ gidOf u = 1024 ∧ z.life ≠ .exited) ∧
    ∀ u z, (saving pre p j).threads.get? u = some z → gidOf u = 1024 → z.life ≠ .exited → z.defPark = false ∧ z.deferred = [] ∧ ∃ r, z.wait = .park r := by
  refine ⟨⟨ta, _, rfl, by decide, by decide⟩, ?_⟩
  intro u z hz _ _
  rcases two_of hz with ⟨-, rfl⟩ | ⟨-, rfl⟩ <;> exact ⟨rfl, rfl, _, rfl⟩
theorem witness_parkComplete : let s := saving true .resident (.launchOn 1 0)
    s.subject = .launchOn 1 0 ∧ s.teamsOf 1 = [1] ∧ s.teams.get? 1 = some { team0 with preempting := true } ∧ team0.place = .resident ∧ 0 ∈ team0.cores ∧ team0.ending = none ∧
    s.groupsOf 1 = [1024] ∧ s.groups.get? 1024 = some { group0 with savep := mkPtr 6 0 } ∧ group0.mqueue = [] ∧ group0.parked = false ∧ group0.shadow = none ∧ s.accesses = [] ∧
    (s.launchOf 1024).width = 16 ∧ (s.launchOf 1024).regs < 256 ∧ s.saveCheck 1024 0 17408 = none ∧
    s.pieces (s.ctxOf 1024) (mkPtr 6 0) 17408 = [(.home 0x30000, 17408)] := by decide +kernel
theorem witness_return : let s := saving false .parked (.team 1)
    s.subject = .team 1 ∧ s.teams = [(1, { team0 with place := .parked, preempting := false })] ∧ s.mayReturn 1 = true ∧ team0.lazyOut = false ∧
    s.groupsOf 1 = [1024] ∧ s.groups.get? 1024 = some { group0 with savep := mkPtr 6 0 } ∧ (s.launchOf 1024).width = 16 ∧ Claims.Clean s ∧
    s.pieces (s.ctxOf 1024) (mkPtr 6 0) 17408 = [(.home 0x30000, 17408)] := by unfold Claims.Clean; decide +kernel

/-- A context that nothing runs in: reset, and a page of it reclaimed; its region registered. -/
def quiet0 (j : Subject) (r : List Region) : State :=
  { serviced [] with subject := j, regions := r, teams := [(1, { team0 with place := .ended })], groups := [], threads := [] }
def region0 : Region := ⟨1, 6, 0, 65536⟩
theorem witness_contextReset : (quiet0 (.context 1) [region0]).subject = .context 1 ∧
    (quiet0 (.context 1) [region0]).contexts.get? 1 = some { context0 with segBase := 0x100000, tableBase := 0x200000 } ∧ 0x200000 % 2048 = 0 ∧
    Claims.Quiet (quiet0 (.context 1) [region0]) 1 (fun _ => False) ∧ Claims.Settled (quiet0 (.context 1) [region0]) 1 (fun _ _ => true) ∧
    (quiet0 (.context 1) [region0]).leafAddrs 1 = [0x203000, 0x203008, 0x203010] :=
  ⟨rfl, rfl, by decide, ⟨by decide +kernel, by intro e he; cases he⟩, ⟨(by intro e he; cases he), (by intro e he; cases he)⟩, by decide +kernel⟩
theorem witness_pageReclaim : (quiet0 (.page 1 1) []).subject = .page 1 1 ∧ 1 < 2 ^ 32 ∧ ((quiet0 (.page 1 1) []).context 1).tableBase % 8 = 0 ∧
    Claims.Quiet (quiet0 (.page 1 1) []) 1 (fun c => c.state ≠ .running ∧ c.type ≠ 1) ∧
    Claims.Settled (quiet0 (.page 1 1) []) 1 ((quiet0 (.page 1 1) []).onPage 1 1) ∧ (quiet0 (.page 1 1) []).leafAddr 1 1 = some 0x203008 :=
  ⟨rfl, by decide, by decide +kernel, ⟨by decide +kernel, by intro e he; cases he⟩, ⟨(by intro e he; cases he), (by intro e he; cases he)⟩, by decide +kernel⟩
/-- A page of the code segment while the context's team is there, and while a LAUNCH of it waits. -/
theorem witness_pageStays : ∀ s ∈ [{ serviced [] with subject := .page 1 0 }, { quiet0 (.page 1 0) [] with commands := [(7, cmd0)] }],
    let d := s.descHome 1 5
    s.subject = .page 1 0 ∧ 5 < (s.context 1).stl ∧ d.valid = true ∧ d.type ∈ [1, 2, 3, 4, 7] ∧ d.base < (0 + 1) * 65536 ∧
      0 * 65536 < d.base + d.len ∧
      ((∃ e ∈ s.teams, (s.launch e.2.launch).ctx = 1 ∧ e.2.place ≠ .ended) ∨ (∃ e ∈ s.commands, e.2.ctx = 1 ∧ e.2.type = 1)) := by decide +kernel
/-- A region of one page may be registered; one of half a page may not. -/
theorem witness_register : (quiet0 (.region 1 6 0 65536) []).subject = .region 1 6 0 65536 ∧ Claims.MayRegister (quiet0 (.region 1 6 0 65536) []) 1 6 0 65536 ∧
    ¬ Claims.MayRegister (quiet0 (.region 1 6 0 32768) []) 1 6 0 32768 := by
  refine ⟨rfl, by unfold Claims.MayRegister; decide +kernel, fun h => ?_⟩
  exact absurd h.2.2.2.1 (by decide)
theorem witness_powerFail : let s := quiet0 .nothing [region0]
    s.power = .on ∧ Claims.Sound s 0x30000 65536 ∧ s.groups = [] ∧ s.domains = [] ∧ s.commands = [] ∧ s.regions = [region0] ∧
    s.pieces region0.ctx (mkPtr region0.seg region0.off) region0.len = [(.home 0x30000, 65536)] := by
  intro s
  exact ⟨rfl, sound_of (by decide +kernel) _ _, by decide +kernel⟩
/-- A firmware image for a module of its own carrier, and for module 5 of a panel. -/
def image0 (good : Bool) (carrier : Nat) : FirmwareImage := ⟨good, 4, 4, carrier, 64, 0, List.replicate 8 (96 * 2 ^ 30), [], 5, 0x8000000000, 0, 2 ^ 28⟩
theorem witness_powerUp : ∀ b ∈ [true, false], ∀ c ∈ [0, 1], let im := image0 b c
    let s := { State.reset with subject := .firmware im }
    s.subject = .firmware im ∧ s.power ≠ .on ∧ s.ports = [] ∧ im.minimum ≤ im.version ∧ s.minimum ≤ im.version ∧ im.carrier ≤ 1 ∧ im.rebal ≤ 65535 ∧
    im.windowSize % 2 ^ 28 = 0 ∧ im.windowSize ≤ 2 ^ 39 ∧ im.stackSizes = List.replicate 8 (96 * 2 ^ 30) ∧ im.signatureGood = b := by decide +kernel

/-! Links, the host and firmware. -/

def linkedTo (l : List (Nat × Port)) (j : Subject) : State := { serviced [] with ports := l, subject := j, cycle := 1400 }
def kept0 : FlitHead := ⟨1, 0, 0, 0, 0, 0, 0, 5, 1, 0, 3, 0, 0⟩
def live : Port := { Port.reset with trained := true, credits := [(0, 64), (1, 64), (2, 16), (3, 8)] }
theorem witness_training : (linkedTo [] (.port 31)).subject = .port 31 ∧ 31 < 32 ∧ ((linkedTo [] (.port 31)).port 31).up = true ∧
    ((linkedTo [] (.port 31)).port 31).waiting = [] := by decide +kernel
theorem witness_idle : let s := linkedTo [(2, live)] (.port 2)
    s.subject = .port 2 ∧ (s.port 2).up = true ∧ (s.port 2).trained = true ∧ (s.port 2).kept.length < 256 := by decide +kernel
theorem witness_replay : ∀ n ∈ [7, 8], let s := linkedTo ((2, { live with kept := [kept0], replays := n }) :: allDown) (.port 2)
    s.subject = .port 2 ∧ (s.port 2).up = true ∧ (s.port 2).trained = true ∧ (s.port 2).kept ≠ [] ∧ (s.port 2).ackAt + 1400 ≤ s.cycle ∧
    (∀ q < 32, q ≠ 2 → (s.port q).up = false) ∧ (s.port 2).replays = n := by decide +kernel
/-- A table with one record before that of the ports. -/
def table0 : List Byte := List.replicate 16 0 ++ [((2 : Nat), ([9, 9] : List Byte))].flatMap (fun r => capRecord r.1 r.2) ++ [5, 0, 4, 0] ++
  [0xFF, 0xFF, 0xFF, 0xFF] ++ [0, 0, 0, 0]
/-- Port 2 is live; segment 1 of context 1, if it has one, is at the start of the second data page. -/
def losing (tab : List Byte) : State := { linkedTo [(2, live)] (.port 2) with
  capTable := tab, hbm := cellsOf ((0x100020, 0xF800000000000001) :: (0x100028, 0x10000) :: tables) }
theorem witness_laneLoss : (let s := losing table0
      s.subject = .port 2 ∧ (s.port 2).up = true ∧ (s.port 2).kept = [] ∧ (s.port 2).waiting = [] ∧ table0.length = 36 ∧ s.contexts.keys = [1] ∧ (s.descHome 1 1).valid = true ∧
      (s.descHome 1 1).type = 7 ∧ s.pieces 1 (mkPtr 1 0) 36 = [(.home 0x30000, 36)]) ∧
    (let s := linkedTo ([(2, { live with waiting := [kept0] }), (4, live)] ++ allDown) (.port 2)
     s.subject = .port 2 ∧ (s.port 2).up = true ∧ (s.port 2).kept = [] ∧ (s.port 2).waiting = [kept0] ∧
     (∀ r < 32, r ≠ 2 → (s.port r).up = decide (r = 4)) ∧ (s.port 4).trained = true ∧ (s.port 4).waiting = [] ∧ 1 ≤ kept0.type.toNat ∧ kept0.type.toNat ≤ 4 ∧
     0 < (s.port 4).credits.getD (kept0.type.toNat - 1) 0) := by decide +kernel

/-- A request flit at port 2: a read, and a write of the first four of eight bytes, of a panel segment; and of a segment that is none. -/
def asking0 (k : Kind) (seg off : Nat) : PanelRequest := ⟨1, seg, off, k, 3, 8, 15, [1, 2, 3, 4, 5, 6, 7, 8], .add, false, 0, 0⟩
/-- A load of a ray of 16 lanes. -/
def asking1 : PanelRequest := { asking0 .read 6 0x500 with size := 2, len := 68 }
def flit1 (type : Nat) : FlitHead :=
  let h : FlitHead := ⟨BitVec.ofNat 4 type, BitVec.ofNat 2 (type - 1), 0, 0, 7, 0, 5, 0, 1, 8, 3, 0, 0⟩
  { h with crc := flitCrc h [1, 2, 3, 4, 5, 6, 7, 8] }
theorem inTurn_of {s : State} {type : Nat} {pay : List Byte} {h : FlitHead} (g : (s.port 2).up = true ∧ (s.port 2).trained = true ∧
    (h.type = BitVec.ofNat 4 type ∧ 1 ≤ type ∧ type ≤ 4 ∧ h.vc = BitVec.ofNat 2 (type - 1)) ∧ h.crc = flitCrc { h with crc := 0 } pay ∧
    h.seq = (s.port 2).expect ∧ h.crd = 0 ∧ (s.port 2).kept = [] ∧ (s.port 2).waiting = []) : Claims.InTurn s 2 h pay type :=
  ⟨⟨g.1, g.2.1⟩, g.2.2.1, g.2.2.2.1, g.2.2.2.2.1, g.2.2.2.2.2.1, g.2.2.2.2.2.2⟩
def asked0 (q : PanelRequest) : State := linkedTo [(2, { live with expect := 7 })] (.request 2 (flit1 1) eight q)
/-- What is asked of a request: its flit in turn, its shape, and a free slot for the answer. -/
def Asks (q : PanelRequest) : Prop :=
  let s := asked0 q
  Claims.InTurn s 2 (flit1 1) eight 1 ∧ s.subject = .request 2 (flit1 1) eight q ∧ q.ctx = (flit1 1).ctx.toNat ∧ Claims.Shaped q ∧
    0 < (s.port 2).credits.getD 1 0
/-- A read, a write and an ATOM of bytes of segment 6 pass all tests: they lie in the second data page, each at an address of its own. -/
theorem witness_request : ∀ q ∈ [asking0 .read 6 0x500, asking0 .write 6 0x500, asking0 .atomic 6 0x500, asking1],
    Asks q ∧ (∀ y ∈ Claims.targetTests (asked0 q) q, ¬ y.1) ∧
    (∀ j < Claims.reach q, Claims.targetByte (asked0 q) q j = some (0x30500 + j)) ∧ (q.kind = .write → q.len ≤ q.data.length) ∧ q.op = .add := by
  intro q hq
  simp only [List.mem_cons, List.not_mem_nil, or_false] at hq
  rcases hq with rfl | rfl | rfl | rfl <;>
    exact ⟨⟨inTurn_of (by decide +kernel), rfl, by decide +kernel, by unfold Claims.Shaped; decide +kernel, by decide +kernel⟩,
      by unfold Claims.targetTests; simp only [List.forall_mem_cons, List.not_mem_nil, IsEmpty.forall_iff, implies_true, and_true]; decide +kernel, by decide +kernel, by decide +kernel, rfl⟩
theorem sound_request (q : PanelRequest) (a : Nat) : Claims.Sound (asked0 q) a 1 := sound_of ⟨by show base.flkCtl.getLsbD 31 = false; decide, rfl, rfl⟩ a 1
/-- A read of a segment that is none, one past the end of segment 6, and one at an odd offset each fail one test, the earlier ones passed. -/
theorem witness_refused : ∀ p ∈ [(asking0 .read 9 0, 0, (0x08 : Byte)), (asking0 .read 6 0x10000, 2, 0x09), (asking0 .read 6 0x501, 3, 0x07)],
    Asks p.1 ∧ ∃ before x after, Claims.targetTests (asked0 p.1) p.1 = before ++ x :: after ∧ before.length = p.2.1 ∧ (∀ y ∈ before, ¬ y.1) ∧
      x.1 ∧ x.2 = (p.2.2, false) := by
  intro p hp
  simp only [List.mem_cons, List.not_mem_nil, or_false] at hp
  rcases hp with rfl | rfl | rfl <;>
    refine ⟨⟨inTurn_of (by decide +kernel), rfl, by decide +kernel, by unfold Claims.Shaped; decide +kernel, by decide +kernel⟩, ?_⟩
  · exact ⟨[], _, _, rfl, rfl, by simp, by decide +kernel, rfl⟩
  · exact ⟨[_, _], _, _, rfl, rfl, by simp only [List.forall_mem_cons, List.not_mem_nil, IsEmpty.forall_iff, implies_true, and_true]; decide +kernel, by decide +kernel, rfl⟩
  · exact ⟨[_, _, _], _, _, rfl, rfl, by simp only [List.forall_mem_cons, List.not_mem_nil, IsEmpty.forall_iff, implies_true, and_true]; decide +kernel, by decide +kernel, rfl⟩
theorem sound_ports (l : List (Nat × Port)) (j : Subject) (a n : Nat) : Claims.Sound (linkedTo l j) a n :=
  sound_of ⟨by show base.flkCtl.getLsbD 31 = false; decide, rfl, rfl⟩ a n

/-- A host access: the window of 2^28 bytes lies at 0x1000 of the host, 0x30000 of the module; a sealed range covers its first line. -/
def hosted (hpa : Nat) (data : List Byte) : State := { serviced [] with
  windowHost := 0x1000, windowDevice := 0x30000, windowSize := 2 ^ 28, strayArmed := true, vector2 := true, subject := .host hpa data
  contexts := [(1, { context0 with segBase := 0x100000, tableBase := 0x200000, seals := [⟨6, 0, 64⟩] })] }
theorem witness_window : ∀ p ∈ [(0x1040, false), (0x1008, true), (0xFFF, false)], let s := hosted p.1 [1]
    s.subject = .host p.1 [1] ∧ p.1 % 64 + 1 ≤ 64 ∧ (0x1000 ≤ p.1 → s.sealedHome (s.windowDevice + (p.1 - s.windowHost)) 1 = p.2) ∧
    (p.1 < 0x1000 → ¬ (s.windowHost ≤ p.1)) ∧ s.flkCtl.getLsbD 31 = false ∧ s.poison = [] ∧ s.badLines = [] := by decide +kernel

/-- Queue 3 of context 1 takes the host's slot 0, whose control word is clear, or set; a NOTE stands in it. -/
def slots (ctl type : Word) (j : Subject) : State := { serviced [] with
  contexts := [(1, { context0 with queues := [(3, 0x8000000000000001)] })], subject := j
  slots := (List.range 2).map (fun k => (((1 * 64 + 3) * 32) * 32 + k, [type, 0x30000].getD k 0)) ++ [(((1 * 64 + 3) * 32) * 32 + 31, ctl)] }
theorem witness_slotWrite : ∀ k ∈ [15, 16, 31], let s := slots 0x40000000 0x08000000 (.window (1 * 0x100000 + 3 * 0x4000 + 0 * 0x80 + 4 * k) 0xC0000001)
    s.subject = .window (1 * 0x100000 + 3 * 0x4000 + 0 * 0x80 + 4 * k) 0xC0000001 ∧ s.queueOn 1 3 = true ∧ (Claims.slot s 1 3 0 31).getLsbD 31 = false := by
  decide +kernel
theorem witness_slotTake : ∀ p ∈ [(0x08000000, none), (0x0B000000, some 2)], let s := slots 0x80000000 p.1 (.queue 1 3)
    let c := newCommand ((List.range 16).map (Claims.slot s 1 3 0)) 1 3 0 0 none false none
    s.subject = .queue 1 3 ∧ s.rings.getD (64 * 1 + 3) 0 = 0 ∧ s.queueOn 1 3 = true ∧ (Claims.slot s 1 3 0 31).getLsbD 31 = true ∧
    s.pushReason c false true = p.2 ∧ c.record = 0 ∧ Claims.refusal s c = 0 ∧ c.nodeId = 0 := by decide +kernel
/-- A NOTE in a slot whose RECORD lies past the end of its segment. -/
theorem witness_slotRecord : let s : State := { slots 0x80000000 0x08000000 (.queue 1 3) with
      slots := (List.range 2).map (fun k => (((1 * 64 + 3) * 32) * 32 + k, ([0x08000000, 0x30000] : List Word).getD k 0)) ++
        [(((1 * 64 + 3) * 32) * 32 + 14, hiWord (mkPtr 6 0x10000)), (((1 * 64 + 3) * 32) * 32 + 15, loWord (mkPtr 6 0x10000)),
          (((1 * 64 + 3) * 32) * 32 + 31, 0x80000000)] }
    let c := newCommand ((List.range 16).map (Claims.slot s 1 3 0)) 1 3 0 0 none false none
    s.subject = .queue 1 3 ∧ s.queueOn 1 3 = true ∧ (Claims.slot s 1 3 0 31).getLsbD 31 = true ∧ s.pushReason c false true = none ∧ Claims.recordBad s c := by
  intro s c
  refine ⟨rfl, by decide +kernel, by decide +kernel, by decide +kernel, by decide +kernel, ?_⟩
  have h : (match s.check (State.engine c.ctx) c.record 8 3 .write with | .bad _ _ => true | _ => false) = true := by decide +kernel
  revert h
  cases s.check (State.engine c.ctx) c.record 8 3 .write with
  | bad a b => exact fun _ => ⟨a, b, rfl⟩
  | ok a b => exact fun h => by cases h

/-- A posted store of thread `ta`, and an HST of its group. -/
def posted0 (d : Dest) : Posted := ⟨0, ta, 1024, pc0, mkPtr 6 0, .host 64, 3, 0, [1], 1, d, false⟩
theorem witness_hostLink : (∀ d ∈ [Dest.nothing, .nobody], let s := { base with hostUp := true, posted := [posted0 d] }
      s.hostUp = true ∧ s.posted = [posted0 d] ∧ (posted0 d).size < 8 ∧ ((posted0 d).dest = .nothing ∨ (posted0 d).dest = .nobody) ∧
      (∀ e ∈ s.threads, e.2.deferred = []) ∧ (∀ e ∈ s.groups, e.2.spec = none)) ∧ base.power = .on := by decide +kernel
theorem witness_management : (∀ a ∈ [MgmtAccess.readStray, .readSealedWrites, .readErrors 3, .readPortMask, .enableVectors true false,
      .registerRegion 1 6 0 65536, .readSensors],
      ({ base with subject := .firmwareAccess a }).subject = .firmwareAccess a) ∧
    ∀ a, let s := linkedTo [(2, { live with expect := 7 })] (.management 2 (flit1 4) eight a)
      Claims.InTurn s 2 (flit1 4) eight 4 ∧ 0 < (s.port 2).credits.getD 3 0 :=
  ⟨by decide +kernel, fun a => ⟨inTurn_of ⟨by show live.up = true; decide, by show live.trained = true; decide, by decide +kernel, by decide +kernel, by show (flit1 4).seq = 7; decide +kernel,
    by decide +kernel, rfl, rfl⟩, by show 0 < live.credits.getD 3 0; decide⟩⟩
/-- The setup of a context whose segment 1 lies at the start of the second data page. -/
theorem witness_table : let s : State := { losing table0 with subject := .creating 63 ⟨0x100000, 16, 0x200000, 1, []⟩ }
    let u : State := { s with contexts := [(63, { Context.blank with segBase := 0x100000, stl := 16, tableBase := 0x200000, pkr := 1, pkr0 := 1 })] }
    (u.descHome 63 1).valid = true ∧ (u.descHome 63 1).type = 7 ∧ s.capTable.length = 36 ∧ u.pieces 63 (mkPtr 1 0) 36 = [(.home 0x30000, 36)] := by
  decide +kernel
theorem witness_creation : (∀ n ∈ [5, 2 ^ 20], let r : ContextSetup := ⟨0x100000, n, 0x200000, 1, []⟩
      ({ base with subject := .creating 63 r }).subject = .creating 63 r ∧ 63 < 64 ∧ 5 ≤ r.stl ∧ r.stl ≤ 2 ^ 20) ∧
    (∀ e ∈ ([0xC000000500000001, 0x8] : List DWord), ({ base with subject := .queueEntry 1 63 e }).contexts.get? 1 = some context0) ∧
    (0xC000000500000001 : DWord).extractLsb' 43 19 = 0 ∧ (0xC000000500000001 : DWord).extractLsb' 3 29 = 0 ∧ (0x8 : DWord).extractLsb' 3 29 ≠ 0 := by
  refine ⟨by decide +kernel, ?_, by decide, by decide, by decide⟩
  intro e _; rfl

/-- A step that answers a next state, from a state whose memories are in canonical form. -/
theorem witness_StepKeepsMemory : MemoryOk staged ∧ (∃ t, step staged = .next t) := by
  refine ⟨by unfold MemoryOk; decide +kernel, ?_⟩
  have h : (match step staged with | .next _ => true | _ => false) = true := by decide +kernel
  revert h
  cases step staged with
  | next t => exact fun _ => ⟨t, rfl⟩
  | fault e => exact fun h => by cases h
  | refused r => exact fun h => by cases h

/-! Decoding: words written out field by field from the encodings of the manual (04 R64 to R80 and the encoding tables of each chapter). -/

/-- The instruction that words decode to, where they are one and no more. -/
def reads (ws : List Word) : Option Instr := (decodeWords ws).toOption.bind (fun p => if p.2 = [] then some p.1 else none)

theorem test_decode_iadd : reads [0x02041040] = some (.iadd ⟨1, 1, 1, 0⟩) := by decide
/-- 06: cvtpk with a literal in X; 15: ld.b32.dev.acq, st.b64.dev.rel.bm (its words stand there), atom.add.b32.dev, seal p2. -/
theorem test_decode_float_memory : reads [0x8B090400, 0x047C2049, 0xFFFFFFFD] = some (.cvtpk (.ext (exi 9 4 4 0xFFFFFFFD 0x49))) ∧
    reads [0x8F070400, 0x68780020, 0] = some (.ldX (.ext (ex 7 4 0 0x68 0x20))) ∧
    reads [0x8F08040C, 0x71782030, 3] = some (.stX (.ext (ex 8 4 12 0x71 0x30 3))) ∧
    reads [0xA0080409, 0x60780000, 4] = some (.atom (.ext (ex 8 4 9 0x60 0 4))) ∧
    reads [0xA1020414, 0x70782800, 0] = some (.sealRange (.ext { ex 2 4 20 0x70 with cb := true })) := by decide
/-- 10, 11: cbr.any.pt #2, p3; cbsync #2; cmemb #2, s16; cmq s40, #2; gen s16; (p2) yield v20; gstat s40. -/
theorem test_decode_collective_generator : reads [0x96000300, 0x22780000, 0xFFFFFFF6] = some (.cbr (.ext (ex 0 3 0 0x22 0 0xFFFFFFF6))) ∧
    reads [0x96000000, 0x02782000, 0] = some (.cbsync (.ext (ex 0 0 0 2))) ∧
    reads [0x96001000, 0x02785000, 0] = some (.cmemb (.ext { ex 0 16 0 2 with ca := true })) ∧
    reads [0x96280000, 0x02786400, 0] = some (.cmq (.ext { ex 40 0 0 2 with cd := true })) ∧
    reads [0x97001000, 0x00781000, 0x00220014] = some (.gen (.ext { ex 0 16 0 0 with ca := true, x := 0x00220014 })) ∧
    reads [0x97001400, 0x00102000, 0] = some (.yield (.ext { ex 0 20 0 0 with g := 2 })) ∧
    reads [0x97280000, 0x0078A400, 0] = some (.gstat (.ext { ex 40 0 0 0 with cd := true })) := by decide
/-- 16, 18, 20: tld t2, s24, #1; mma.sb; push p1, #32, s32; svc.h #0x40, v0, #4; psrd v3, ctxlim. -/
theorem test_decode_matrix_system : reads [0xA3021800, 0x00785000, 1] = some (.tld (.ext { ex 2 24 0 0 with ca := true, x := 1 })) ∧
    reads [0xA4010001, 0x00780002, 0x02001800] = some (.mma (.ext (ex 1 0 1 0 2 0x02001800))) ∧
    reads [0xB0012000, 0x007C1000, 0x20] = some (.push (.ext { ex 1 32 0 0 with ca := true, xb := true, x := 0x20 })) ∧
    reads [0xB8000000, 0x00780009, 0x40] = some (.svc (.ext (ex 0 0 0 0 9 0x40))) ∧
    reads [0xB9030084, 0x00780000, 0] = some (.psrd (.ext (ex 3 0 0x84 0))) := by decide

/-! Well-formedness: a term that stands for no encoding of its row, for each check. -/

theorem test_ill_formed : ∀ i ∈ ([.srd ⟨1, 0, 8, 0⟩, .srdX (.ext (ex 1 0 8 0)), .swr ⟨0, 1, 0x18, 0⟩, .swrX (.ext (ex 0 1 0x18 0)), .clkLoRead (.base ⟨1, 0, 9, 0⟩),
    .clkLoRead (.more (.ext (ex 1 0 9 0))), .thndWrite (.base ⟨0, 1, 0x19, 0⟩), .thndWrite (.more (.ext (ex 0 1 0x19 0))), .meet (.ext (ex 0 0 0 0 1)),
    .meetPop (.ext (ex 0 0 0 0 0)), .gnodeQ (.ext (ex 0 0 0 0 1)), .gnodeSig (.ext (ex 0 0 0 0 0)), .pswr (.ext (ex 0 1 0x82 0)),
    .flkctlWrite (.ext (ex 0 1 0x81 0)), .hintLong (.one 0x01000000), .hintLong (.five 0x81000000 0 0 0 0), .illegalOpcode (.one 0x02041040)] : List Instr), i.wf = false := by
  decide

/-! Values the manual works out, each in one step of thread `ta`. -/

def after (x : Thread) (i : Instr) : Thread :=
  match exec i { base with threads := [(ta, x)], issue := { base.issue with threads := [ta] } } with
  | .next t => t.thread ta
  | _ => thread0

/-- The table of R91: 7 ÷ −2 and its remainder, the most negative value by −1, division by zero, the upper half of a product. -/
theorem test_division : (let x := (thread0.setReg 1 7).setReg 2 0xFFFFFFFE
      (after x (.idiv ⟨3, 1, 2, 0⟩)).reg 3 = 0xFFFFFFFD ∧ (after x (.irem ⟨3, 1, 2, 0⟩)).reg 3 = 1) ∧
    (let x := (thread0.setReg 1 0x80000000).setReg 2 0xFFFFFFFF
     (after x (.idiv ⟨3, 1, 2, 0⟩)).reg 3 = 0x80000000 ∧ (after x (.irem ⟨3, 1, 2, 0⟩)).reg 3 = 0) ∧
    (after (thread0.setReg 1 100) (.idiv ⟨3, 1, 63, 0⟩)).reg 3 = 0xFFFFFFFF ∧
    (after (thread0.setReg 1 0x80000000) (.imulh ⟨3, 1, 1, 0⟩)).reg 3 = 0x40000000 := by decide +kernel
/-- The example of BFX, of both signs, and of PPACK (05). -/
theorem test_fields : (let x := thread0.setReg 2 0xF70
      (after x (.bfxX (.ext (exi 3 2 0 0x0804)))).reg 3 = 0xFFFFFFF7 ∧ (after x (.bfxX (.ext (exi 3 2 0 0x0804 4)))).reg 3 = 0xF7) ∧
    (after (((thread0.setPred 1 true).setPred 2 true).setPred 8 true) (.ppackX (.ext (exi 12 0 0 0xFF)))).reg 12 = 6 := by decide +kernel
/-- The pointer of R17 whose carry is dropped. -/
theorem test_lea : (after (thread0.setReg64 4 0x00023FFFFFFFFFF0) (.leaX (.ext (exi 4 4 0 0x20)))).reg64 4 = 0x0002300000000010 := by decide +kernel
/-- The example of ENTER below STKLIM (05), and of a load through the null segment (01), caught here by the group's handler. -/
theorem test_records : (let y := after { thread0.setReg 31 0x40 with stklim := 0x38 } (.enterX (.lit ⟨0, 0, 0, 0⟩ 16))
      y.fcode = 0x106 ∧ y.faux = 0x30 ∧ y.reg 31 = 0x40) ∧
    (let y := after (thread0.setReg64 4 0x100) (.ld ⟨7, 4, 2, false, 0⟩)
     y.fcode = 0x108 ∧ y.fpc = 0x100 ∧ y.faddrHi = 0 ∧ y.faddrLo = 0x100 ∧ y.fmask = 1 ∧ y.faux = 2 ∧ y.reg 7 = thread0.reg 7) := by decide +kernel
/-- T8 (02): 0x50 under scale −3 is 0.25, 0x7F under 127 overflows f32; 1.5, 0.1875 and −0.75 have the codes of the example of R301, and 2^−15 rounds to zero. -/
theorem test_tapered : ((tapValue 8 0x50).scale (-3)).round .f32 ⟨.rn, false, false⟩ = (0x3E800000, 0) ∧
    ((tapValue 8 0x7F).scale 127).round .f32 ⟨.rn, false, false⟩ = (0x7F800000, flagOF ||| flagNX) ∧
    (Machine.Num.fin false 3 (-1)).roundTap 8 = (0x48, 0) ∧ (Machine.Num.fin false 3 (-4)).roundTap 8 = (0x1C, 0) ∧
    (Machine.Num.fin true 3 (-2)).roundTap 8 = (0xB8, 0) ∧ (Machine.Num.fin false 1 (-15)).roundTap 8 = (0, flagUF ||| flagNX) := by decide +kernel
/-- The rows of the example of R279: TB + 384 + 12 for word 0 of row 3, TB + 512 + 16 for row 4. -/
theorem test_descriptor : Claims.rowWord 0x1000 0x10000080 0 16 3 0 = 0x1000 + 384 + 12 ∧ Claims.rowWord 0x1000 0x10000080 0 16 4 0 = 0x1000 + 512 + 16 := by decide
/-- The steps of R116: a divisor 0 sets DZ under an infinite dividend too. -/
theorem test_infinityByZero : (let y := after (thread0.setReg 1 0xFF800000) (.fdiv ⟨3, 1, 63, 0⟩)
      y.reg 3 = 0xFF800000 ∧ y.fpsr = 2) := by decide +kernel
/-- MMA of a tile of role B in field A and of one that is not reserved in field B: reason 2 of field A (R294). -/
theorem test_tileOrder : tileFault (fieldsOf (.mma (.ext (ex 0 0 1 0)))) { group0 with tileRecs := [(0, 0x8480)] } = some ⟨codeTile, 0, 0x20000000⟩ ∧
    tileFault (fieldsOf (.mma (.ext (ex 0 0 1 0)))) { group0 with tileRecs := [(0, 0x8400)] } = some ⟨codeTile, 0, 0x10000001⟩ := by decide +kernel
/-- The end of `mma_demo` (R290): 2^24 with NX, the sums taken one after the other, and 9.75, from rows of 64 numbers in groups of 32. -/
theorem test_orderOfSums : (let n (m : Nat) (e : Int) : Machine.Num := .fin false m e
      let row (l : List (Nat × Machine.Num)) : List Machine.Num := (List.range 64).map (fun j => ((l.find? (·.1 == j)).map (·.2)).getD (n 0 0))
      mmaAll [0x4B800000, 0] [row [(0, n 1 0), (1, n 1 2), (32, n 1 0)]] [row [(0, n 1 0), (32, n 1 0)], row [(0, n 31 (-2)), (1, n 1 (-1))]] 64
        (mmaLen 0x8900 0x8940) = [(0x4B800000, flagNX), (0x411C0000, 0)]) := by decide +kernel
/-- R197, R198: a GEN inside a region is refused with reason 5 and its major. -/
theorem test_nestedGen : genForbids (some ⟨0, 16, 1, 32, 4, 24, 20, 0, 0, false, [], [], [], [], false, 0, [], 0, 0⟩) 16
    (fieldsOf (.gen (.ext { ex 0 16 0 0 with ca := true, x := 0x00220014 }))) = some 0x50000017 := by decide
/-- R209, R219: a scaled ray whose log norm falls below −128 is the zero ray, of the direction it had. -/
theorem test_rayUnderflow : (let a : RayVal := mkRay .normal (-127 * 65536) [1, -2, 3]
      (hscl a (-2 * 65536)).1.cls = .zero ∧ (hscl a (-2 * 65536)).1.d = a.d ∧ (hscl a (-2 * 65536)).2 = flagUF) := by decide +kernel

/-- Entry 1 of the linkage table is BOUND; segment 4 names the export slot at segment 6, offset 0x100; a call of UNLINK with its
block at offset 0x200. -/
def bound1 : State := { serviced [ta, tb] with hbm := cellsOf ([(0x30008, mkPtr 6 0x100), (0x30100, 0x1234), (0x40008, 0x8000CC0000000000)] ++
  tables.take 4 ++ [(0x100080, 0xCC00000000000000), (0x100088, 0x20000)] ++ tables.drop 4) }
def unlinkCall : Batch := ⟨1, 1024, mkPtr 6 0x200, 0x31, 1, false, 1, [1], 0, none⟩
/-- R389: the slot is cleared first; then the entry is UNBOUND with its import index, and the reply is STATUS 1. -/
theorem test_unlink : (let s := bound1.unlink 0 unlinkCall []
    s.homeWord 0x30100 = 0 ∧ s.homeWord 0x40008 = 0x8000CC0000000000 ∧
      (let t := s.unlink 0 { unlinkCall with entry := some 0x8000CC0000000000 } []
       t.homeWord 0x40008 = 1 ∧ t.homeByte 0x30203 = 1)) ∧
    (bound1.unlink 0 { unlinkCall with args := [2] } []).homeByte 0x30200 = 1 ∧
    (bound1.unlink 0 { unlinkCall with args := [2] } []).homeByte 0x30203 = 2 := by decide +kernel

end Sys2Proof.Tests
end

section
/-! PROOFS. The module's own events: budget periods, resets and reclaims, Afterglow, power-up and the thermal limits (14 R232, R235,
R240, R241, 20 R363, R368, 21 R387, R388, 23 R417 to R419). First what the operations on tables, bytes, page tables, ports and capability
records do; then, for each event, the state it leaves and the laws of that state. -/

namespace Sys2Proof

/-! Tables and lists. -/

theorem Tab.mapKV_eq_self {α : Type} (t : Tab α) (f : Nat → α → α) (h : ∀ k v, f k v = v) : t.mapKV f = t := by
  simp [Tab.mapKV, h]

/-- Reading a table of which the numbers that `p` refuses were dropped. -/
theorem Tab.get?_filter_key {α : Type} (t : Tab α) (p : Nat → Bool) (k : Nat) :
    Tab.get? (t.filter (fun e => p e.1)) k = if p k then Tab.get? t k else none := by
  induction t with
  | nil => simp
  | cons e t ih =>
    obtain ⟨j, v⟩ := e
    by_cases hk : k = j
    · subst hk
      cases hp : p k <;> simp [hp, ih, Tab.get?_cons]
    · cases hp : p j <;> simp [hp, ih, Tab.get?_cons, hk]

namespace Machine

theorem foldl_eq_self_of_mem {α β : Type} {f : α → β → α} {x : α} {l : List β} (h : ∀ y ∈ l, f x y = x) : l.foldl f x = x := by
  induction l with
  | nil => rfl
  | cons y l ih =>
    obtain ⟨hy, hl⟩ := List.forall_mem_cons.1 h
    rw [List.foldl_cons, hy, ih hl]

/-- Where nothing is picked, nothing is performed. -/
theorem splitBefore_of_none {α : Type} (first : α → α → Bool) (pick : α → Bool) (l : List α) (h : ∀ x ∈ l, pick x = false) :
    splitBefore first pick l = ([], l) := by
  induction l with
  | nil => rfl
  | cons x l ih =>
    obtain ⟨hx, hl⟩ := List.forall_mem_cons.1 h
    simp [splitBefore, ih hl, hx]

namespace State

/-! Bytes cleared at their homes. -/

theorem foldl_putHome (cells : List Host.Cell) (s : State) : cells.foldl (fun s c => s.putHome c.1 c.2) s =
    { s with hbm := (cells.foldl (fun s c => s.putHome c.1 c.2) s).hbm } := by
  induction cells generalizing s with
  | nil => rfl
  | cons c cells ih => rw [List.foldl_cons, ih]; rfl

/-- Clearing page entries changes HBM, its poison marks and its mirrors alone. -/
theorem clearEntries_frame (s : State) (as : List Nat) : s.clearEntries as =
    { s with hbm := (s.clearEntries as).hbm, poison := (s.clearEntries as).poison, mirrors := (s.clearEntries as).mirrors } := by
  simp only [clearEntries, putCells]
  rw [foldl_putHome]

theorem clearEntries_nil (s : State) : s.clearEntries [] = s := by
  have hall : ((List.range 64).all fun _ => false) = false := rfl
  simp [clearEntries, putCells, hall]

@[simp] theorem clearEntries_contexts (s : State) (as : List Nat) : (s.clearEntries as).contexts = s.contexts := by rw [clearEntries_frame]
@[simp] theorem clearEntries_regions (s : State) (as : List Nat) : (s.clearEntries as).regions = s.regions := by rw [clearEntries_frame]
@[simp] theorem clearEntries_pages (s : State) (as : List Nat) : (s.clearEntries as).pages = s.pages := by rw [clearEntries_frame]
@[simp] theorem clearEntries_descs (s : State) (as : List Nat) : (s.clearEntries as).descs = s.descs := by rw [clearEntries_frame]
@[simp] theorem clearEntries_dies (s : State) (as : List Nat) : (s.clearEntries as).dies = s.dies := by rw [clearEntries_frame]

theorem homeByte_foldl_putHome_zero (cells : List Host.Cell) (h : ∀ c ∈ cells, c.2 = 0) (s : State) (a : Nat) :
    (cells.foldl (fun s c => s.putHome c.1 c.2) s).homeByte a = if ∃ c ∈ cells, c.1 = a then 0 else s.homeByte a := by
  induction cells generalizing s with
  | nil => simp
  | cons c cells ih =>
    obtain ⟨hc, hl⟩ := List.forall_mem_cons.1 h
    rw [List.foldl_cons, ih hl, homeByte_putHome, hc]
    by_cases ha : a = c.1 <;> simp [ha, eq_comm]

/-- A byte after page entries were cleared. -/
theorem homeByte_clearEntries (s : State) (as : List Nat) (a : Nat) :
    (s.clearEntries as).homeByte a = if ∃ b ∈ as, b ≤ a ∧ a < b + 8 then 0 else s.homeByte a := by
  have hcell : (∃ c ∈ as.flatMap (fun b => (List.range 8).map (fun j => ((b + j, 0) : Host.Cell))), c.1 = a) ↔ ∃ b ∈ as, b ≤ a ∧ a < b + 8 := by
    simp only [List.mem_flatMap, List.mem_map, List.mem_range]
    constructor
    · rintro ⟨_, ⟨b, hb, j, hj, rfl⟩, rfl⟩
      exact ⟨b, hb, by simp, by simpa using hj⟩
    · rintro ⟨b, hb, h1, h2⟩
      exact ⟨_, ⟨b, hb, a - b, by omega, rfl⟩, by simp only; omega⟩
  have hzero : ∀ c ∈ as.flatMap (fun b => (List.range 8).map (fun j => ((b + j, 0) : Host.Cell))), c.2 = 0 := by
    simp only [List.mem_flatMap, List.mem_map]
    rintro _ ⟨b, -, j, -, rfl⟩
    rfl
  exact (homeByte_foldl_putHome_zero _ hzero s a).trans (if_congr hcell rfl rfl)

theorem homeWord_congr {s t : State} {a : Nat} (h : ∀ j, j < 8 → t.homeByte (a + j) = s.homeByte (a + j)) : t.homeWord a = s.homeWord a :=
  congrArg (fun l => BitVec.ofNat 64 (leNat l)) (List.map_congr_left fun j hj => h j (List.mem_range.1 hj))

theorem homeWord_eq_zero {s : State} {a : Nat} (h : ∀ j, j < 8 → s.homeByte (a + j) = 0) : s.homeWord a = 0 := by
  have hl : s.homeBytes a 8 = (List.range 8).map (fun _ => 0) := List.map_congr_left fun j hj => h j (List.mem_range.1 hj)
  rw [homeWord, hl]
  rfl

/-- An aligned word after aligned entries were cleared: zero where it was one of them, else what stood. -/
theorem homeWord_clearEntries (s : State) {as : List Nat} (has : ∀ b ∈ as, b % 8 = 0) {a : Nat} (ha : a % 8 = 0) :
    (s.clearEntries as).homeWord a = if a ∈ as then 0 else s.homeWord a := by
  split
  · next hm => exact homeWord_eq_zero fun j hj => by rw [homeByte_clearEntries, if_pos ⟨a, hm, by omega⟩]
  · next hm =>
    refine homeWord_congr fun j hj => ?_
    rw [homeByte_clearEntries, if_neg]
    rintro ⟨b, hb, h1, h2⟩
    have := has b hb
    exact hm ((show b = a by omega) ▸ hb)

/-! The four levels of a page table (R235). -/

theorem nextTable_zero : nextTable 0 = none := rfl
theorem leafEntry_zero : leafEntry 0 = none := rfl

/-- A table lies at a multiple of its 2,048 bytes: bits 10 to 0 of an entry are zero. -/
theorem nextTable_mod {e : DWord} {t : Nat} (h : nextTable e = some t) : t % 2048 = 0 := by
  unfold nextTable at h
  split at h
  · next hc =>
    simp only [Bool.and_eq_true, beq_iff_eq] at hc
    obtain ⟨-, hlow⟩ := hc
    have hlow := congrArg BitVec.toNat hlow
    simp only [BitVec.extractLsb'_toNat] at hlow
    simp at hlow
    cases h
    omega
  · cases h

/-- The home address that the four indices of a page lead to from a table of level 0, if every level is present. -/
def leafAt (s : State) (base i0 i1 i2 i3 : Nat) : Option Nat :=
  (nextTable (s.homeWord (base + 8 * i0))).bind fun t1 =>
    (nextTable (s.homeWord (t1 + 8 * i1))).bind fun t2 =>
      (nextTable (s.homeWord (t2 + 8 * i2))).map fun t3 => t3 + 8 * i3

theorem leafAt_eq_some_iff {s : State} {base i0 i1 i2 i3 a : Nat} : s.leafAt base i0 i1 i2 i3 = some a ↔
    ∃ t1 t2 t3, nextTable (s.homeWord (base + 8 * i0)) = some t1 ∧ nextTable (s.homeWord (t1 + 8 * i1)) = some t2 ∧
      nextTable (s.homeWord (t2 + 8 * i2)) = some t3 ∧ t3 + 8 * i3 = a := by
  simp only [leafAt, Option.bind_eq_some_iff, Option.map_eq_some_iff]
  constructor
  · rintro ⟨t1, h1, t2, h2, t3, h3, h4⟩
    exact ⟨t1, t2, t3, h1, h2, h3, h4⟩
  · rintro ⟨t1, t2, t3, h1, h2, h3, h4⟩
    exact ⟨t1, h1, t2, h2, t3, h3, h4⟩

theorem leafAt_mod {s : State} {base i0 i1 i2 i3 a : Nat} (h : s.leafAt base i0 i1 i2 i3 = some a) : a % 8 = 0 := by
  obtain ⟨t1, t2, t3, -, -, h3, rfl⟩ := leafAt_eq_some_iff.1 h
  have := nextTable_mod h3
  omega

theorem leafAddr_eq_leafAt (s : State) (ctx page : Nat) : s.leafAddr ctx page =
    s.leafAt (s.context ctx).tableBase (page * 65536 / 2 ^ 40 % 256) (page * 65536 / 2 ^ 32 % 256) (page * 65536 / 2 ^ 24 % 256)
      (page * 65536 / 2 ^ 16 % 256) := by
  simp only [leafAddr, leafAt, Nat.mul_comm 8]
  cases nextTable (s.homeWord ((s.context ctx).tableBase + page * 65536 / 2 ^ 40 % 256 * 8)) with
  | none => rfl
  | some t1 =>
    dsimp only [Option.bind_some]
    cases nextTable (s.homeWord (t1 + page * 65536 / 2 ^ 32 % 256 * 8)) <;> rfl

/-- A walk reads the level-3 entry of the address's page. -/
theorem walk_eq_leafAddr (s : State) (ctx dva : Nat) : s.walk ctx dva = (s.leafAddr ctx (dva / 65536)).bind fun a => leafEntry (s.homeWord a) := by
  have index (k : Nat) (hk : 16 ≤ k) : dva / 65536 * 65536 / 2 ^ k = dva / 2 ^ k := by
    obtain ⟨n, rfl⟩ := Nat.exists_eq_add_of_le hk
    rw [Nat.pow_add, ← Nat.div_div_eq_div_mul, ← Nat.div_div_eq_div_mul, show (65536 : Nat) = 2 ^ 16 from rfl, Nat.mul_div_cancel _ (by decide)]
  simp only [leafAddr, walk, index 40 (by decide), index 32 (by decide), index 24 (by decide), index 16 (by decide)]
  cases nextTable (s.homeWord ((s.context ctx).tableBase + dva / 2 ^ 40 % 256 * 8)) with
  | none => rfl
  | some t1 =>
    dsimp only
    cases nextTable (s.homeWord (t1 + dva / 2 ^ 32 % 256 * 8)) with
    | none => rfl
    | some t2 =>
      dsimp only
      cases nextTable (s.homeWord (t2 + dva / 2 ^ 24 % 256 * 8)) <;> rfl

theorem mem_tableEntries {s : State} {t i : Nat} {e : DWord} : (i, e) ∈ s.tableEntries t ↔ i < 256 ∧ s.homeWord (t + 8 * i) = e ∧ e ≠ 0 := by
  simp only [tableEntries, List.mem_filterMap, List.mem_range, Option.ite_none_left_eq_some, Option.some.injEq, Prod.mk.injEq]
  constructor
  · rintro ⟨j, hj, h0, rfl, rfl⟩
    exact ⟨hj, rfl, h0⟩
  · rintro ⟨hi, rfl, h0⟩
    exact ⟨i, hi, h0, rfl, rfl⟩

theorem mem_tableEntries_of_next {s : State} {t i t' : Nat} (hi : i < 256) (h : nextTable (s.homeWord (t + 8 * i)) = some t') :
    (i, s.homeWord (t + 8 * i)) ∈ s.tableEntries t :=
  mem_tableEntries.2 ⟨hi, rfl, fun h0 => by rw [h0, nextTable_zero] at h; cases h⟩

/-- The present level-3 entries of a context are what its indices lead to. -/
theorem mem_leafAddrs {s : State} {ctx a : Nat} : a ∈ s.leafAddrs ctx ↔ (leafEntry (s.homeWord a)).isSome ∧
    ∃ i0 i1 i2 i3, i0 < 256 ∧ i1 < 256 ∧ i2 < 256 ∧ i3 < 256 ∧ s.leafAt (s.context ctx).tableBase i0 i1 i2 i3 = some a := by
  simp only [leafAddrs, List.mem_flatMap, Prod.exists, leafAt_eq_some_iff]
  constructor
  · rintro ⟨i0, e0, he0, ha⟩
    obtain ⟨hi0, rfl, -⟩ := mem_tableEntries.1 he0
    split at ha
    · cases ha
    next t1 h1 =>
    obtain ⟨⟨i1, e1⟩, he1, ha⟩ := List.mem_flatMap.1 ha
    obtain ⟨hi1, rfl, -⟩ := mem_tableEntries.1 he1
    split at ha
    · cases ha
    next t2 h2 =>
    obtain ⟨⟨i2, e2⟩, he2, ha⟩ := List.mem_flatMap.1 ha
    obtain ⟨hi2, rfl, -⟩ := mem_tableEntries.1 he2
    split at ha
    · cases ha
    next t3 h3 =>
    obtain ⟨⟨i3, e3⟩, he3, ha⟩ := List.mem_filterMap.1 ha
    obtain ⟨hi3, rfl, -⟩ := mem_tableEntries.1 he3
    obtain ⟨e, he, rfl⟩ := Option.map_eq_some_iff.1 ha
    exact ⟨Option.isSome_of_eq_some he, i0, i1, i2, i3, hi0, hi1, hi2, hi3, t1, t2, t3, h1, h2, h3, rfl⟩
  · rintro ⟨hleaf, i0, i1, i2, i3, hi0, hi1, hi2, hi3, t1, t2, t3, h1, h2, h3, rfl⟩
    obtain ⟨e, he⟩ := Option.isSome_iff_exists.1 hleaf
    have hpresent : s.homeWord (t3 + 8 * i3) ≠ 0 := fun h0 => by rw [h0, leafEntry_zero] at he; cases he
    refine ⟨i0, _, mem_tableEntries_of_next hi0 h1, ?_⟩
    simp only [h1, List.mem_flatMap, Prod.exists]
    refine ⟨i1, _, mem_tableEntries_of_next hi1 h2, ?_⟩
    simp only [h2, List.mem_flatMap, Prod.exists]
    refine ⟨i2, _, mem_tableEntries_of_next hi2 h3, ?_⟩
    simp only [h3, List.mem_filterMap, Prod.exists]
    exact ⟨i3, _, mem_tableEntries.2 ⟨hi3, rfl, hpresent⟩, by rw [he]; rfl⟩

theorem leafAddrs_mod {s : State} {ctx : Nat} : ∀ b ∈ s.leafAddrs ctx, b % 8 = 0 := by
  intro b hb
  obtain ⟨-, _, _, _, _, -, -, -, -, h⟩ := mem_leafAddrs.1 hb
  exact leafAt_mod h

theorem leafAddr_mod {s : State} {ctx page a : Nat} (h : s.leafAddr ctx page = some a) : a % 8 = 0 :=
  leafAt_mod ((leafAddr_eq_leafAt s ctx page) ▸ h)

/-- What a walk reaches is among the present entries. -/
theorem mem_leafAddrs_of_leafAddr {s : State} {ctx page a : Nat} (h : s.leafAddr ctx page = some a)
    (hp : (leafEntry (s.homeWord a)).isSome) : a ∈ s.leafAddrs ctx := by
  rw [leafAddr_eq_leafAt] at h
  have small (n : Nat) : n % 256 < 256 := Nat.mod_lt _ (by decide)
  exact mem_leafAddrs.2 ⟨hp, _, _, _, _, small _, small _, small _, small _, h⟩

/-! Walks after entries were cleared: a cleared word is present at no level, so a walk that still passes read what stood. -/

theorem nextTable_clearEntries {s : State} {as : List Nat} (has : ∀ b ∈ as, b % 8 = 0) {a t : Nat} (ha : a % 8 = 0)
    (h : nextTable ((s.clearEntries as).homeWord a) = some t) : nextTable (s.homeWord a) = some t := by
  rw [homeWord_clearEntries s has ha] at h
  split at h
  · rw [nextTable_zero] at h; cases h
  · exact h

theorem leafAt_clearEntries {s : State} {as : List Nat} (has : ∀ b ∈ as, b % 8 = 0) {base i0 i1 i2 i3 a : Nat} (hb : base % 8 = 0)
    (h : (s.clearEntries as).leafAt base i0 i1 i2 i3 = some a) : s.leafAt base i0 i1 i2 i3 = some a := by
  obtain ⟨t1, t2, t3, h1, h2, h3, rfl⟩ := leafAt_eq_some_iff.1 h
  have m1 := nextTable_mod h1
  have m2 := nextTable_mod h2
  exact leafAt_eq_some_iff.2 ⟨t1, t2, t3, nextTable_clearEntries has (by omega) h1, nextTable_clearEntries has (by omega) h2,
    nextTable_clearEntries has (by omega) h3, rfl⟩

theorem context_clearEntries (s : State) (as : List Nat) (ctx : Nat) : (s.clearEntries as).context ctx = s.context ctx :=
  by
  rw [clearEntries_frame]; rfl

theorem leafAddr_clearEntries {s : State} {as : List Nat} (has : ∀ b ∈ as, b % 8 = 0) {ctx page a : Nat}
    (hb : (s.context ctx).tableBase % 8 = 0) (h : (s.clearEntries as).leafAddr ctx page = some a) : s.leafAddr ctx page = some a := by
  rw [leafAddr_eq_leafAt] at h ⊢
  rw [context_clearEntries] at h
  exact leafAt_clearEntries has hb h

/-- R241: an address whose present entry is among those cleared is mapped no more. -/
theorem walk_clearEntries {s : State} {as : List Nat} (has : ∀ b ∈ as, b % 8 = 0) {ctx dva : Nat} (hb : (s.context ctx).tableBase % 8 = 0)
    (hin : ∀ a, s.leafAddr ctx (dva / 65536) = some a → (leafEntry (s.homeWord a)).isSome → a ∈ as) :
    (s.clearEntries as).walk ctx dva = none := by
  rw [walk_eq_leafAddr, Option.bind_eq_none_iff]
  intro a h
  have hs := leafAddr_clearEntries has hb h
  rw [homeWord_clearEntries s has (leafAddr_mod hs)]
  split
  · exact leafEntry_zero
  · next hm =>
    by_contra hp
    exact hm (hin a hs (Option.isSome_iff_ne_none.2 hp))

/-! A context in which nothing runs. -/

theorem teamsOfCtx_of_ended {s : State} {ctx : Nat} (h : ∀ e ∈ s.teams, (s.launch e.2.launch).ctx = ctx → e.2.place = .ended) :
    s.teamsOfCtx ctx = [] := by
  rw [teamsOfCtx, List.map_eq_nil_iff, List.filter_eq_nil_iff]
  intro e he
  simpa using h e he

theorem commandsOf_of_none {s : State} {ctx : Nat} (h : ∀ e ∈ s.commands, e.2.ctx ≠ ctx) : s.commandsOf ctx = [] := by
  rw [commandsOf, List.map_eq_nil_iff, List.filter_eq_nil_iff]
  intro e he
  simpa using h e he

theorem commandsOn_of_idle {s : State} {ctx : Nat} (page : Nat) (h : ∀ e ∈ s.commands, e.2.ctx = ctx → e.2.state ≠ .running) :
    s.commandsOn ctx page = [] := by
  rw [commandsOn, List.map_eq_nil_iff, List.filter_eq_nil_iff]
  intro e he
  have := h e he
  simp only [Bool.and_eq_true, beq_iff_eq, decide_eq_true_eq]
  rintro ⟨⟨⟨hc, hr⟩, -⟩, -⟩
  exact this hc hr

theorem dropPending_nil (s : State) : s.dropPending [] = s := by
  have hd : s.dies.mapKV (fun _ d => { d with pending := d.pending.filter (fun k => !([] : List Nat).contains k) }) = s.dies :=
    Tab.mapKV_eq_self _ _ fun k d => by simp
  rw [dropPending, hd]

theorem hostReads_of_none (s : State) (pick : Nat → Access → Bool) (h : ∀ e ∈ s.accesses, pick e.1 e.2 = false) : s.hostReads pick = s := by
  rw [hostReads, splitBefore_of_none _ _ _ fun e he => h e (List.mem_of_mem_filter he)]
  rfl

/-- R411: where nothing of a context is on its way to the host, the host has nothing of it to perform. -/
theorem hostDrain_of_settled {s : State} {ctx : Nat} {on : Ptr → Nat → Bool} (h : Claims.Settled s ctx on) : s.hostDrain ctx on = s := by
  obtain ⟨hposted, haccess⟩ := h
  have hp : s.posted.filter (fun p => s.ctxOf p.gid == ctx && on p.addr p.data.length && !p.done) = [] := by
    rw [List.filter_eq_nil_iff]
    intro p hp
    simp only [Bool.and_eq_true, beq_iff_eq]
    rintro ⟨⟨hc, ho⟩, -⟩
    rw [hposted p hp hc] at ho
    cases ho
  have ha : ∀ e ∈ s.accesses, (e.2.ctx == ctx && on e.2.addr e.2.len) = false := by
    intro e he
    by_cases hc : e.2.ctx = ctx
    · rw [haccess e he hc, Bool.and_false]
    · rw [beq_false_of_ne hc, Bool.false_and]
  unfold hostDrain
  split
  · rw [hp]
    exact hostReads_of_none s _ ha
  · rfl

/-! Dies whose denial entries were filtered. -/

theorem die_congr {s t : State} (h : t.dies = s.dies) (d : Nat) : t.die d = s.die d := by rw [die, h]; rfl

theorem die_filterDenial (s t : State) (keep : Denial → Bool)
    (h : t.dies = s.dies.mapKV (fun _ d => { d with denial := d.denial.filter keep })) (d : Nat) :
    t.die d = { s.die d with denial := (s.die d).denial.filter keep } := by
  simp only [die, Tab.getD, h, Tab.get?_mapKV]
  cases Tab.get? s.dies d <;> rfl

/-! CONTEXT_RESET (R363). -/

theorem context_of_get? {s : State} {c : Nat} {x : Context} (h : s.contexts.get? c = some x) : s.context c = x := by
  rw [context, Tab.getD, h]; rfl

/-- The page tables of a context are read from HBM, from its table base on. -/
theorem leafAddrs_congr {s t : State} {ctx : Nat} (hm : t.hbm = s.hbm) (hc : (t.context ctx).tableBase = (s.context ctx).tableBase) :
    t.leafAddrs ctx = s.leafAddrs ctx := by
  have ht : t.tableEntries = s.tableEntries := by unfold tableEntries homeWord homeBytes homeByte; rw [hm]
  simp only [leafAddrs, ht, hc]

/-- What a reset makes of a context's record (R363). -/
def resetRecord (x : Context) : Context := { x with stopped := true, nodes := [], pool := 0, seals := [], resets := x.resets + 1 }

/-- A context's record reset and its regions dropped, before its pages go (R363, R387). -/
def dropContext (s : State) (ctx : Nat) : State :=
  { s.modContext ctx resetRecord with regions := s.regions.filter (fun r => r.ctx != ctx) }

theorem dropContext_contexts (s : State) (ctx c : Nat) :
    (s.dropContext ctx).contexts.get? c = if c = ctx then (s.contexts.get? c).map resetRecord else s.contexts.get? c :=
  Tab.get?_modify ..

theorem dropContext_tableBase (s : State) (ctx : Nat) : ((s.dropContext ctx).context ctx).tableBase = (s.context ctx).tableBase := by
  rw [context, Tab.getD, dropContext_contexts, if_pos rfl, context, Tab.getD]
  cases s.contexts.get? ctx <;> rfl

theorem dropContext_leafAddrs (s : State) (ctx : Nat) : (s.dropContext ctx).leafAddrs ctx = s.leafAddrs ctx :=
  leafAddrs_congr rfl (dropContext_tableBase s ctx)

/-- A context that nothing runs in, reset: its page entries, its cached translations and its denial entries go too (R232, R363, R413). -/
def resetContext (s : State) (ctx : Nat) : State := ((s.dropContext ctx).clearEntries (s.leafAddrs ctx)).invalidateContext ctx

theorem modContext_modContext (s : State) (c : Nat) (f g : Context → Context) :
    (s.modContext c f).modContext c g = s.modContext c (fun x => g (f x)) := by
  have h : (s.contexts.modify c f).modify c g = s.contexts.modify c (fun x => g (f x)) := by
    simp only [Tab.modify, Tab.mapKV, List.map_map]
    refine List.map_congr_left fun e _ => ?_
    simp only [Function.comp]
    split <;> rfl
  simp only [modContext, h]

/-- R363: of a context that nothing runs in, a reset ends no team, cancels no command and waits for nothing on its way to the host. -/
theorem evContextReset_of_quiet {s : State} {ctx : Nat} (hsub : s.subject = .context ctx) (hq : Claims.Quiet s ctx (fun _ => False))
    (hs : Claims.Settled s ctx (fun _ _ => true)) :
    evContextReset s = s.resetContext ctx := by
  obtain ⟨hteams, hcommands⟩ := hq
  have hk (f : Context → Context) : (s.modContext ctx f).teamsOfCtx ctx = [] := teamsOfCtx_of_ended (s := s.modContext ctx f) hteams
  have hc (f : Context → Context) : (s.modContext ctx f).commandsOf ctx = [] :=
    commandsOf_of_none (s := s.modContext ctx f) fun e he hc => hcommands e he hc
  have hd : (s.dropContext ctx).hostDrain ctx (fun _ _ => true) = s.dropContext ctx := hostDrain_of_settled (s := s.dropContext ctx) hs
  simp only [evContextReset, hsub, hk, List.foldl_nil, dropPending_nil, resetCommands, hc, completeAll, modContext_modContext]
  refine (congrArg (fun u : State => (u.clearEntries (u.leafAddrs ctx)).invalidateContext ctx) hd).trans ?_
  rw [dropContext_leafAddrs, resetContext]

/-! What dropping a context's translations does to each field. -/

@[simp] theorem invalidateContext_contexts (s : State) (ctx : Nat) : (s.invalidateContext ctx).contexts = s.contexts := rfl
@[simp] theorem invalidateContext_regions (s : State) (ctx : Nat) : (s.invalidateContext ctx).regions = s.regions := rfl
theorem invalidateContext_walk (s : State) (ctx c dva : Nat) : (s.invalidateContext ctx).walk c dva = s.walk c dva := rfl
theorem invalidateContext_homeByte (s : State) (ctx a : Nat) : (s.invalidateContext ctx).homeByte a = s.homeByte a := rfl

theorem invalidateContext_pages (s : State) (ctx n : Nat) :
    (s.invalidateContext ctx).pages.get? n = if n / 2 ^ 32 % 64 = ctx then none else s.pages.get? n := by
  refine (Tab.get?_filter_key s.pages (fun k => !(k / 2 ^ 32 % 64 == ctx)) n).trans ?_
  split <;> split <;> simp_all

theorem invalidateContext_descs (s : State) (ctx n : Nat) :
    (s.invalidateContext ctx).descs.get? n = if n / 2 ^ 20 % 64 = ctx then none else s.descs.get? n := by
  refine (Tab.get?_filter_key s.descs (fun k => !(k / 2 ^ 20 % 64 == ctx)) n).trans ?_
  split <;> split <;> simp_all

theorem invalidateContext_die (s : State) (ctx d : Nat) :
    (s.invalidateContext ctx).die d = { s.die d with denial := (s.die d).denial.filter (·.ctx != ctx) } :=
  die_filterDenial s _ _ rfl d

/-! What a reset leaves, field by field. -/

theorem resetContext_frame (s : State) (ctx : Nat) :
    { s.resetContext ctx with contexts := s.contexts, regions := s.regions, hbm := s.hbm, poison := s.poison, pages := s.pages,
                              descs := s.descs, dies := s.dies, mirrors := s.mirrors } = s := by
  rw [resetContext, clearEntries_frame]; rfl

theorem resetContext_contexts (s : State) (ctx c : Nat) :
    (s.resetContext ctx).contexts.get? c = if c = ctx then (s.contexts.get? c).map resetRecord else s.contexts.get? c := by
  rw [resetContext, invalidateContext_contexts, clearEntries_contexts, dropContext_contexts]

theorem mem_resetContext_regions (s : State) (ctx : Nat) (r : Region) : r ∈ (s.resetContext ctx).regions ↔ r ∈ s.regions ∧ r.ctx ≠ ctx := by
  rw [resetContext, invalidateContext_regions, clearEntries_regions, dropContext, List.mem_filter, bne_iff_ne]

/-- R363: no page of a reset context is mapped. -/
theorem resetContext_walk {s : State} {ctx : Nat} (hb : (s.context ctx).tableBase % 8 = 0) (dva : Nat) : (s.resetContext ctx).walk ctx dva = none := by
  rw [resetContext, invalidateContext_walk]
  refine walk_clearEntries leafAddrs_mod (by rwa [dropContext_tableBase]) fun a h hp => ?_
  exact dropContext_leafAddrs s ctx ▸ mem_leafAddrs_of_leafAddr h hp

theorem resetContext_homeByte (s : State) (ctx a : Nat) :
    (s.resetContext ctx).homeByte a = if ∃ b ∈ s.leafAddrs ctx, b ≤ a ∧ a < b + 8 then 0 else s.homeByte a := by
  rw [resetContext, invalidateContext_homeByte, homeByte_clearEntries]; rfl

theorem resetContext_pages (s : State) (ctx n : Nat) :
    (s.resetContext ctx).pages.get? n = if n / 2 ^ 32 % 64 = ctx then none else s.pages.get? n := by
  rw [resetContext, invalidateContext_pages, clearEntries_pages]; rfl

theorem resetContext_descs (s : State) (ctx n : Nat) :
    (s.resetContext ctx).descs.get? n = if n / 2 ^ 20 % 64 = ctx then none else s.descs.get? n := by
  rw [resetContext, invalidateContext_descs, clearEntries_descs]; rfl

theorem resetContext_die (s : State) (ctx d : Nat) :
    (s.resetContext ctx).die d = { s.die d with denial := (s.die d).denial.filter (·.ctx != ctx) } := by
  rw [resetContext, invalidateContext_die, die_congr (clearEntries_dies _ _)]; rfl

/-! PAGE_RECLAIM (R240, R241). -/

theorem pageStays_of_quiet {s : State} {ctx : Nat} (page : Nat) (ht : ∀ e ∈ s.teams, (s.launch e.2.launch).ctx = ctx → e.2.place = .ended)
    (hc : ∀ e ∈ s.commands, e.2.ctx = ctx → e.2.type ≠ 1) : s.pageStays ctx page = false := by
  have h1 : s.teams.any (fun e => (s.launch e.2.launch).ctx == ctx && decide (e.2.place ≠ .ended)) = false := by
    simpa using ht
  have h2 : s.commands.any (fun e => e.2.ctx == ctx && e.2.type == 1) = false := by
    simpa using hc
  rw [pageStays, h1, h2]
  rfl

/-- A page that nothing of its context holds, reclaimed: its cached translations go, and its own entry (R241). -/
def reclaimPage (s : State) (ctx page : Nat) : State := (s.invalidatePage ctx page).clearEntries (s.leafAddr ctx page).toList

/-- R241: of such a context, a reclaim ends no team and cancels no command. -/
theorem evPageReclaim_of_quiet {s : State} {ctx page : Nat} (hsub : s.subject = .page ctx page)
    (hq : Claims.Quiet s ctx (fun c => c.state ≠ .running ∧ c.type ≠ 1)) (hs : Claims.Settled s ctx (s.onPage ctx page)) :
    evPageReclaim s = s.reclaimPage ctx page := by
  obtain ⟨hteams, hcommands⟩ := hq
  have hstay := pageStays_of_quiet page hteams fun e he hc => (hcommands e he hc).2
  have hon := commandsOn_of_idle page fun e he hc => (hcommands e he hc).1
  have haddr : (s.invalidatePage ctx page).leafAddr ctx page = s.leafAddr ctx page := rfl
  simp only [evPageReclaim, hsub, hstay, teamsOfCtx_of_ended hteams, List.filter_nil, List.foldl_nil, dropPending_nil, hon,
    List.any_nil, hostDrain_of_settled hs, haddr, reclaimPage]
  cases s.leafAddr ctx page with
  | none => exact (clearEntries_nil _).symm
  | some a => rfl

theorem invalidatePage_homeByte (s : State) (ctx page a : Nat) : (s.invalidatePage ctx page).homeByte a = s.homeByte a := rfl

theorem invalidatePage_pages (s : State) (ctx page n : Nat) :
    (s.invalidatePage ctx page).pages.get? n = if n / 2 ^ 32 % 64 = ctx ∧ n % 2 ^ 32 = page then none else s.pages.get? n := by
  refine (Tab.get?_filter_key s.pages (fun k => !(k / 2 ^ 32 % 64 == ctx && k % 2 ^ 32 == page)) n).trans ?_
  split <;> split <;> simp_all

theorem invalidatePage_die (s : State) (ctx page d : Nat) : (s.invalidatePage ctx page).die d =
    { s.die d with denial := (s.die d).denial.filter (fun x => !(x.ctx == ctx && x.via.any (fun v => v.2 == page))) } :=
  die_filterDenial s _ _ rfl d

/-! What a reclaim leaves, field by field. -/

theorem reclaimPage_frame (s : State) (ctx page : Nat) :
    { s.reclaimPage ctx page with hbm := s.hbm, poison := s.poison, mirrors := s.mirrors, pages := s.pages, dies := s.dies } = s := by
  rw [reclaimPage, clearEntries_frame]; rfl

/-- R241: a reclaimed page is mapped no more. -/
theorem reclaimPage_walk {s : State} {ctx : Nat} (page : Nat) (hb : (s.context ctx).tableBase % 8 = 0) :
    (s.reclaimPage ctx page).walk ctx (page * 65536) = none := by
  refine walk_clearEntries (fun b h => leafAddr_mod (Option.mem_toList.1 h)) hb fun a h _ => Option.mem_toList.2 ?_
  rwa [Nat.mul_div_cancel _ (by decide)] at h

theorem reclaimPage_homeByte (s : State) (ctx page a : Nat) : (s.reclaimPage ctx page).homeByte a =
    if ∃ b, s.leafAddr ctx page = some b ∧ b ≤ a ∧ a < b + 8 then 0 else s.homeByte a := by
  rw [reclaimPage, homeByte_clearEntries, invalidatePage_homeByte]
  simp only [Option.mem_toList]

theorem reclaimPage_pages (s : State) (ctx page n : Nat) :
    (s.reclaimPage ctx page).pages.get? n = if n / 2 ^ 32 % 64 = ctx ∧ n % 2 ^ 32 = page then none else s.pages.get? n := by
  rw [reclaimPage, clearEntries_pages, invalidatePage_pages]

theorem reclaimPage_die (s : State) (ctx page d : Nat) : (s.reclaimPage ctx page).die d =
    { s.die d with denial := (s.die d).denial.filter (fun x => !(x.ctx == ctx && x.via.any (fun v => v.2 == page))) } := by
  rw [reclaimPage, die_congr (clearEntries_dies _ _), invalidatePage_die]

theorem mem_reclaimPage_denial (s : State) (ctx page d : Nat) (e : Denial) : e ∈ ((s.reclaimPage ctx page).die d).denial ↔
    e ∈ (s.die d).denial ∧ ¬ (e.ctx = ctx ∧ ∃ v ∈ e.via, v.2 = page) := by
  have hvia : (e.ctx == ctx && e.via.any (fun v => v.2 == page)) = true ↔ e.ctx = ctx ∧ ∃ v ∈ e.via, v.2 = page := by
    simp only [Bool.and_eq_true, beq_iff_eq, List.any_eq_true]
  simp only [reclaimPage_die, List.mem_filter, Bool.not_eq_true', ← Bool.not_eq_true, hvia]

/-- A segment begins on a page boundary: BASE counts 64 KiB (R230). -/
theorem descHome_base_mod (s : State) (ctx seg : Nat) : (s.descHome ctx seg).base % 65536 = 0 := by
  unfold descHome
  dsimp only
  split
  · rfl
  · exact Nat.mul_mod_left ..

/-- R240: a page of a context-resident segment stays while a launch of its context is pending or runs. -/
theorem pageReclaim_of_stays {s : State} {ctx page g : Nat} (hsub : s.subject = .page ctx page) (hg : g < (s.context ctx).stl)
    (hvalid : (s.descHome ctx g).valid = true) (htype : (s.descHome ctx g).type ∈ [1, 2, 3, 4, 7])
    (hlo : (s.descHome ctx g).base < (page + 1) * 65536) (hhi : page * 65536 < (s.descHome ctx g).base + (s.descHome ctx g).len)
    (hrun : (∃ e ∈ s.teams, (s.launch e.2.launch).ctx = ctx ∧ e.2.place ≠ .ended) ∨ (∃ e ∈ s.commands, e.2.ctx = ctx ∧ e.2.type = 1)) :
    exec .pageReclaim s = .next s := by
  have hbase := descHome_base_mod s ctx g
  have hover : overlap (s.descHome ctx g).base (s.descHome ctx g).len (page * 65536) 65536 = true := by
    simp only [overlap, Bool.and_eq_true, decide_eq_true_eq]
    omega
  have hres : (!((s.descHome ctx g).type == 0 || (s.descHome ctx g).type == 5 || (s.descHome ctx g).type == 6)) = true := by
    simp only [List.mem_cons, List.not_mem_nil, or_false] at htype
    rcases htype with h | h | h | h | h <;> rw [h] <;> rfl
  have hstay : s.pageStays ctx page = true := by
    simp only [pageStays, Bool.and_eq_true, Bool.or_eq_true, List.any_eq_true, List.mem_range]
    refine ⟨?_, g, hg, ⟨hvalid, hres⟩, hover⟩
    simpa using hrun
  show Host.Outcome.next (evPageReclaim s) = .next s
  rw [evPageReclaim, hsub]
  simp only [hstay, if_true]

/-! AFTERGLOW_REGISTER (R387). -/

theorem foldl_add_len (rs : List Region) (n : Nat) : rs.foldl (fun n r => n + r.len) n = (rs.map (·.len)).sum + n := by
  induction rs generalizing n with
  | nil => simp
  | cons r rs ih =>
    rw [List.foldl_cons, ih, List.map_cons, List.sum_cons]
    omega

/-- R387: a region is registered exactly where no limit is broken. -/
theorem registerRegion_of_may {s : State} {ctx seg off len : Nat} (h : Claims.MayRegister s ctx seg off len) :
    s.registerRegion ctx seg off len = some { s with regions := s.regions ++ [⟨ctx, seg, off, len⟩] } := by
  unfold registerRegion
  simp only [foldl_add_len]
  exact if_pos h

theorem registerRegion_of_not {s : State} {ctx seg off len : Nat} (h : ¬ Claims.MayRegister s ctx seg off len) :
    s.registerRegion ctx seg off len = none := by
  unfold registerRegion
  simp only [foldl_add_len]
  exact if_neg h

theorem afterglowRegister_eq {s : State} {ctx seg off len : Nat} (hsub : s.subject = .region ctx seg off len) :
    exec .afterglowRegister s = .next ((s.registerRegion ctx seg off len).getD s) := by
  show Host.Outcome.next (evAfterglowRegister s) = _
  rw [evAfterglowRegister, hsub]

/-! AFTERGLOW_POWER_FAIL (R388). -/

/-- A line with no error, armed or stored, is met as it stands. -/
theorem meetLine_of_sound {s : State} {line : Nat} (ha : s.flkCtl.getLsbD 31 = false) (hp : line ∉ s.poison)
    (hb : s.badLines.get? line = none) : s.meetLine line = (s, .sound) := by
  have hp : s.poison.contains line = false := by simpa using hp
  simp only [meetLine, ha, Bool.false_and, Bool.false_eq_true, if_false, meetStored, hp, hb]

theorem mem_linesOf {a n l : Nat} (h : l ∈ linesOf a n) : ∃ k, k < n ∧ (a + k) / 64 = l := by
  unfold linesOf at h
  split at h
  · cases h
  · obtain ⟨j, hj, rfl⟩ := List.mem_map.1 h
    have hj := List.mem_range.1 hj
    exact ⟨64 * (a / 64 + j) - a, by omega, by omega⟩

theorem meetLine_of_mem_linesOf {s : State} {a n l : Nat} (h : Claims.Sound s a n) (hl : l ∈ linesOf a n) : s.meetLine l = (s, .sound) := by
  obtain ⟨harmed, hlines⟩ := h
  obtain ⟨k, hk, rfl⟩ := mem_linesOf hl
  obtain ⟨hp, hb⟩ := hlines k hk
  exact meetLine_of_sound harmed hp hb

/-- A sound region that lies in one piece at home is copied as it stands. -/
theorem copyRegion_of_sound {s : State} {r : Region} {a : Nat} (hp : s.pieces r.ctx (mkPtr r.seg r.off) r.len = [(.home a, r.len)])
    (h : Claims.Sound s a r.len) :
    s.copyRegion r = (s, ⟨r, s.homeBytes a r.len, [], Config.sha3 (s.homeBytes a r.len)⟩) := by
  simp only [copyRegion, hp, List.flatMap_cons, List.flatMap_nil, List.append_nil]
  rw [foldl_eq_self_of_mem]
  intro l hl
  simp only [meetLine_of_mem_linesOf h hl]

/-- What is on its way to other homes is dropped (R388). -/
def dropPosted (s : State) : State := { s with posted := [] }

theorem flushAll_of_empty {s : State} (hg : s.groups = []) (hd : s.domains = []) : s.flushAll = s.dropPosted := by
  simp [flushAll, dropPosted, hg, hd, Tab.mapKV, Tab.keys]

/-- R388: what a power failure leaves of a module with one registered region and no work under way. -/
theorem afterglowPowerFail_of_idle {s : State} {r : Region} {a : Nat} (hon : s.power = .on) (hg : s.groups = []) (hd : s.domains = [])
    (hc : s.commands = []) (hr : s.regions = [r]) (hp : s.pieces r.ctx (mkPtr r.seg r.off) r.len = [(.home a, r.len)])
    (h : Claims.Sound s a r.len) :
    exec .afterglowPowerFail s = .next { State.reset with
      flash := some ⟨[⟨r, s.homeBytes a r.len, [], Config.sha3 (s.homeBytes a r.len)⟩], Config.manifestWhole s.turn⟩, minimum := s.minimum,
      hostMem := s.hostMem, outbox := s.outbox, turn := s.turn, cycle := s.cycle } := by
  have hcopy : s.dropPosted.copyRegion r = (s.dropPosted, ⟨r, s.homeBytes a r.len, [], Config.sha3 (s.homeBytes a r.len)⟩) :=
    copyRegion_of_sound (s := s.dropPosted) hp h
  have hregions : s.dropPosted.regions = [r] := hr
  show Host.Outcome.next (evAfterglowPowerFail s) = _
  simp only [evAfterglowPowerFail, hon, hc, List.filter_nil, List.map_nil, List.foldl_nil, flushAll_of_empty hg hd, hregions,
    List.foldl_cons, hcopy, List.nil_append, ne_eq, not_true_eq_false, if_false]

/-! MODULE_POWER_UP (R395, R417, R418): the ports train. -/

/-- A port trained from its reset: every channel has the slots its receiver advertises (R395). -/
def trainedPort (cycle : Nat) : Port :=
  { Port.reset with trained := true, ackAt := cycle, credits := (List.range 4).map (fun c => (c, slotsOf c)) }

theorem trainedPort_credits (cycle c : Nat) (h : c < 4) : (trainedPort cycle).credits.getD c 0 = [64, 64, 16, 8].getD c 0 := by
  match c, h with
  | 0, _ => rfl
  | 1, _ => rfl
  | 2, _ => rfl
  | 3, _ => rfl

theorem trainPort_of_reset {s : State} {p : Nat} (h : s.port p = Port.reset) : s.trainPort p = s.setPort p (trainedPort s.cycle) := by
  simp [trainPort, h, trainedPort, Port.reset, setPort]

theorem port_setPort (s : State) (p q : Nat) (v : Port) : (s.setPort p v).port q = if q = p then v else s.port q := by
  simp only [port, setPort, Tab.getD, Tab.get?_put]
  split <;> rfl

/-- The state with other ports. -/
def withPorts (s : State) (ports : Tab Port) : State := { s with ports := ports }

theorem withPorts_ports (s : State) : s.withPorts s.ports = s := rfl

/-- The first `n` ports trained, one after another, from their reset. -/
theorem foldl_trainPort {s : State} (h : s.ports = []) (n : Nat) : ∃ ports : Tab Port,
    (List.range n).foldl (fun s p => s.trainPort p) s = s.withPorts ports ∧
      ∀ p, (s.withPorts ports).port p = if p < n then trainedPort s.cycle else Port.reset := by
  induction n with
  | zero => exact ⟨[], h ▸ (withPorts_ports s).symm, fun p => rfl⟩
  | succ n ih =>
    obtain ⟨ports, heq, hport⟩ := ih
    rw [List.range_succ, List.foldl_append, heq]
    have hn := hport n
    rw [if_neg (Nat.lt_irrefl n)] at hn
    refine ⟨ports.put n (trainedPort s.cycle), trainPort_of_reset hn, fun p => ?_⟩
    refine (port_setPort (s.withPorts ports) n p (trainedPort s.cycle)).trans ?_
    rw [hport]
    by_cases hp : p = n
    · simp [hp]
    · simp only [hp, if_false, show p < n + 1 ↔ p < n by omega]

/-- Every port of the module trained, as firmware does at power-up (R395). -/
def trainAll (s : State) : State := (List.range 32).foldl (fun s p => s.trainPort p) s

theorem trainAll_of_reset {s : State} (h : s.ports = []) : ∃ ports : Tab Port, s.trainAll = s.withPorts ports ∧
    ∀ p, p < 32 → s.trainAll.port p = trainedPort s.cycle := by
  obtain ⟨ports, hfold, hport⟩ := foldl_trainPort h 32
  refine ⟨ports, hfold, fun p hp => ?_⟩
  rw [trainAll, hfold, hport, if_pos hp]

/-- The mask of a module all of whose ports work. -/
theorem portMask_of_up {s : State} (h : ∀ p, p < 32 → (s.port p).up = true) : s.portMask = 2 ^ 32 - 1 := by
  have hf : (List.range 32).filter (fun p => (s.port p).up) = List.range 32 :=
    List.filter_eq_self.2 fun p hp => h p (List.mem_range.1 hp)
  rw [portMask, hf]
  rfl

end State

/-! The capability table (R417). -/

theorem capRecord_length_mod (type : Nat) (v : List Byte) : (capRecord type v).length % 4 = 0 := by
  simp only [capRecord, List.length_append, leBytes_length, List.length_replicate]
  omega

theorem length_flatMap_mod {α : Type} (l : List α) (f : α → List Byte) (h : ∀ x ∈ l, (f x).length % 4 = 0) :
    (l.flatMap f).length % 4 = 0 := by
  induction l with
  | nil => rfl
  | cons x l ih =>
    obtain ⟨hx, hl⟩ := List.forall_mem_cons.1 h
    have := ih hl
    rw [List.flatMap_cons, List.length_append]
    omega

theorem capSignature_length (earlier : List Byte) : (capSignature earlier).length = 4632 := by
  simp [capSignature, capRecord]

/-- Signed erratum records go after what stands, each with its signature. -/
theorem foldl_errata (errata : List (List Byte)) (t : List Byte) : ∃ r : List Byte,
    errata.foldl (fun t e => let t := t ++ capRecord 9 e; t ++ capSignature t) t = t ++ r ∧
      r.length = (errata.map (fun e => (capRecord 9 e).length + 4632)).sum := by
  induction errata generalizing t with
  | nil => exact ⟨[], by simp, rfl⟩
  | cons e errata ih =>
    obtain ⟨r, hr, hlen⟩ := ih (t ++ capRecord 9 e ++ capSignature (t ++ capRecord 9 e))
    refine ⟨capRecord 9 e ++ (capSignature (t ++ capRecord 9 e) ++ r), ?_, ?_⟩
    · rw [List.foldl_cons]
      exact hr.trans (by simp only [List.append_assoc])
    · simp only [List.length_append, capSignature_length, hlen, List.map_cons, List.sum_cons]
      omega

theorem capHeader_length (total : Nat) : (capHeader total).length = 16 := by simp [capHeader]

/-- The total length of a closed table (R417). -/
def capSize (body : List Byte) (errata : List (List Byte)) : Nat :=
  16 + body.length + 4632 + (errata.map (fun e => (capRecord 9 e).length + 4632)).sum + 4

/-- The part of a closed table that its first signature covers (R417). -/
def capFirst (body : List Byte) (errata : List (List Byte)) : List Byte := capHeader (capSize body errata) ++ body

/-- A closed table: the header, which states its length, the records, what is signed after them, and the end record. -/
theorem capClose_eq (body : List Byte) (errata : List (List Byte)) : ∃ rest : List Byte,
    capClose body errata = capHeader (capClose body errata).length ++ (body ++ (rest ++ leBytes 4 0)) := by
  obtain ⟨r, hr, hlen⟩ := foldl_errata errata (capFirst body errata ++ capSignature (capFirst body errata))
  have hclose : capClose body errata =
      capHeader (capSize body errata) ++ (body ++ ((capSignature (capFirst body errata) ++ r) ++ leBytes 4 0)) := by
    refine (congrArg (· ++ leBytes 4 0) hr).trans ?_
    simp only [capFirst, List.append_assoc]
  have hsize : (capClose body errata).length = capSize body errata := by
    rw [hclose]
    simp only [List.length_append, capHeader_length, capSignature_length, leBytes_length, hlen, capSize]
    omega
  exact ⟨capSignature (capFirst body errata) ++ r, by rw [hsize]; exact hclose⟩

/-- The header reads back: version 1, the total length, two zero words. -/
theorem capHeader_fields (total : Nat) (bs : List Byte) : leNat ((capHeader total ++ bs).take 4) = 0x10000 ∧
    leNat (((capHeader total ++ bs).drop 4).take 4) = total % 2 ^ 32 ∧ ((capHeader total ++ bs).drop 8).take 8 = List.replicate 8 0 := by
  have h0 : capHeader total ++ bs = leBytes 4 0x10000 ++ (leBytes 4 total ++ (List.replicate 8 0 ++ bs)) := by
    simp only [capHeader, List.append_assoc]
  have h4 : (capHeader total ++ bs).drop 4 = leBytes 4 total ++ (List.replicate 8 0 ++ bs) := by
    rw [h0, List.drop_left' (leBytes_length 4 0x10000)]
  have h8 : (capHeader total ++ bs).drop 8 = List.replicate 8 0 ++ bs := by
    have h := congrArg (List.drop 4) h4
    rwa [List.drop_drop, List.drop_left' (leBytes_length 4 total)] at h
  refine ⟨?_, ?_, ?_⟩
  · rw [h0, List.take_left' (leBytes_length 4 0x10000)]
    exact leNat_leBytes 4 0x10000
  · rw [h4, List.take_left' (leBytes_length 4 total)]
    exact leNat_leBytes 4 total
  · rw [h8, List.take_left' List.length_replicate]

/-- What a table says that begins with its header and ends with the end record. -/
theorem capTable_fields {t body rest : List Byte} (h : t = capHeader t.length ++ (body ++ (rest ++ leBytes 4 0))) :
    leNat (t.take 4) = 0x10000 ∧ leNat ((t.drop 4).take 4) = t.length % 2 ^ 32 ∧ (t.drop 8).take 8 = List.replicate 8 0 ∧
      t.drop (t.length - 4) = List.replicate 4 0 := by
  obtain ⟨hversion, htotal, hzero⟩ := capHeader_fields t.length (body ++ (rest ++ leBytes 4 0))
  rw [← h] at hversion htotal hzero
  refine ⟨hversion, htotal, hzero, ?_⟩
  have hend : t = (capHeader t.length ++ (body ++ rest)) ++ leBytes 4 0 := h.trans (by simp only [List.append_assoc])
  have hlen : t.length - 4 = (capHeader t.length ++ (body ++ rest)).length := by
    have := congrArg List.length hend
    rw [List.length_append, leBytes_length] at this
    omega
  generalize capHeader t.length ++ (body ++ rest) = front at hend hlen
  rw [hlen, hend, List.drop_left]
  rfl

namespace State

/-- The record of the ports, all of which work. -/
def allPorts : List Byte := [5, 0, 4, 0, 0xFF, 0xFF, 0xFF, 0xFF]

/-- The records of the table before that of the ports. -/
def recordsBefore (s : State) (im : FirmwareImage) : List Byte := (s.capFields im).flatMap (fun e => capRecord e.1 (Config.capValue e.1 e.2))

/-- The records of the table after that of the ports. -/
def recordsAfter (s : State) (im : FirmwareImage) : List Byte :=
  capRecord 6 (Config.capValue 6 [s.windowHost, s.windowDevice, s.windowSize]) ++
    (capRecord 7 (Config.capValue 7 [s.glowStatus]) ++ capRecord 8 (Config.capValue 8 [im.version, s.minimum]))

theorem recordsBefore_length_mod (s : State) (im : FirmwareImage) : (s.recordsBefore im).length % 4 = 0 :=
  length_flatMap_mod _ _ fun _ _ => capRecord_length_mod _ _

/-- The table that firmware builds for a module all of whose ports work. -/
theorem buildTable_eq {s : State} (im : FirmwareImage) (h : ∀ p, p < 32 → (s.port p).up = true) : ∃ rest : List Byte,
    s.buildTable im = capHeader (s.buildTable im).length ++
      ((s.recordsBefore im ++ (allPorts ++ s.recordsAfter im)) ++ (rest ++ leBytes 4 0)) := by
  have hports : capRecord 5 (leBytes 4 s.portMask) = allPorts := by rw [portMask_of_up h]; rfl
  have htable : s.buildTable im = capClose (s.recordsBefore im ++ (allPorts ++ s.recordsAfter im)) im.errata := by
    simp only [buildTable, hports, recordsBefore, recordsAfter, List.append_assoc]
  rw [htable]
  exact capClose_eq ..

theorem buildTable_ports {s : State} (im : FirmwareImage) (h : ∀ p, p < 32 → (s.port p).up = true) : ∃ before after : List Byte,
    s.buildTable im = before ++ allPorts ++ after ∧ 16 ≤ before.length ∧ before.length % 4 = 0 := by
  obtain ⟨rest, htable⟩ := buildTable_eq im h
  have hmod := recordsBefore_length_mod s im
  refine ⟨capHeader (s.buildTable im).length ++ s.recordsBefore im, s.recordsAfter im ++ (rest ++ leBytes 4 0), ?_, ?_, ?_⟩
  · refine htable.trans ?_
    simp only [List.append_assoc]
  · rw [List.length_append, capHeader_length]; omega
  · rw [List.length_append, capHeader_length]; omega

/-! MODULE_POWER_UP (R1, R3, R334, R418). -/

/-- May an image run: its signature and versions hold, and what it states is in range, eight stacks of 96 GiB among it? -/
def GoodImage (s : State) (im : FirmwareImage) : Prop :=
  im.signatureGood = true ∧ im.minimum ≤ im.version ∧ s.minimum ≤ im.version ∧ im.carrier ≤ 1 ∧ im.rebal ≤ 65535 ∧
    im.windowSize % 2 ^ 28 = 0 ∧ im.windowSize ≤ 2 ^ 39 ∧ im.stackSizes = List.replicate 8 (96 * 2 ^ 30)

/-- What an image that runs sets, before the ports train. -/
def powered (s : State) (im : FirmwareImage) : State :=
  { s with
    power := .on, dev := if im.carrier = 1 then 0 else im.dev, minimum := max s.minimum im.minimum, hostUp := true,
    rebal := im.rebal, windowHost := im.windowHostBase, windowDevice := im.windowDeviceBase, windowSize := im.windowSize }

/-- The capability table built. -/
def withTable (s : State) (im : FirmwareImage) : State := { s with capTable := s.buildTable im }

theorem withTable_frame (s : State) (ports : Tab Port) (im : FirmwareImage) :
    { (s.withPorts ports).withTable im with ports := s.ports, capTable := s.capTable } = s := rfl

theorem withTable_port (s : State) (im : FirmwareImage) (p : Nat) : (s.withTable im).port p = s.port p := rfl

/-- A module that runs an image: its ports trained, its capability table built (R417, R418). -/
def booted (s : State) (im : FirmwareImage) : State := (s.powered im).trainAll.withTable im

theorem booted_frame {s : State} (im : FirmwareImage) (h : s.ports = []) :
    { s.booted im with ports := s.ports, capTable := s.capTable } = s.powered im := by
  obtain ⟨ports, hall, -⟩ := trainAll_of_reset (s := s.powered im) h
  rw [booted, hall]
  exact withTable_frame (s.powered im) ports im

theorem booted_port {s : State} (im : FirmwareImage) (h : s.ports = []) {p : Nat} (hp : p < 32) : (s.booted im).port p = trainedPort s.cycle := by
  obtain ⟨-, -, hport⟩ := trainAll_of_reset (s := s.powered im) h
  rw [booted, withTable_port, hport p hp]; rfl

theorem booted_up {s : State} (im : FirmwareImage) (h : s.ports = []) (p : Nat) (hp : p < 32) : ((s.powered im).trainAll.port p).up = true := by
  obtain ⟨-, -, hport⟩ := trainAll_of_reset (s := s.powered im) h
  rw [hport p hp]; rfl

/-- R418: a good image runs; any other leaves the module in recovery. -/
theorem evModulePowerUp_cases {s : State} {im : FirmwareImage} (hsub : s.subject = .firmware im) (hoff : s.power ≠ .on) :
    (s.GoodImage im → evModulePowerUp s = s.booted im) ∧
      (¬ s.GoodImage im → evModulePowerUp s = { s with power := .recovery }) := by
  unfold evModulePowerUp
  split
  next im' himage =>
    cases hsub.symm.trans himage
    rw [if_neg hoff]
    split
    · next hc =>
      have hgood : s.GoodImage im := by
        simp only [Bool.and_eq_true, decide_eq_true_eq, beq_iff_eq, and_assoc] at hc
        exact hc
      exact ⟨fun _ => by rw [booted, trainAll]; rfl, fun h => absurd hgood h⟩
    · next hc =>
      have hbad : ¬ s.GoodImage im := by
        simp only [Bool.and_eq_true, decide_eq_true_eq, beq_iff_eq, and_assoc] at hc
        exact hc
      exact ⟨fun h => absurd h hbad, fun _ => rfl⟩
  next hother => exact absurd hsub (hother im)

end State

open State in
/-- Settles O58, event by event: the state each event leaves is named, and its laws are cited. -/
theorem moduleEvents : Obligations.ModuleEvents := by
  unfold Obligations.ModuleEvents
  refine ⟨?budget, ?reset, ?reclaim, ?stays, ?register, ?powerFail, ?powerUp, ?throttle, ?stop⟩
  case budget => exact fun s => rfl
  case reset =>
    intro s ctx x hsub hx hb hquiet hsettled
    have hmod : (s.context ctx).tableBase % 8 = 0 := by rw [context_of_get? hx]; omega
    refine ⟨s.resetContext ctx, congrArg Host.Outcome.next (evContextReset_of_quiet hsub hquiet hsettled), resetContext_frame s ctx,
      fun c hc => ?_, ?_, mem_resetContext_regions s ctx, resetContext_walk hmod, resetContext_homeByte s ctx, resetContext_pages s ctx,
      resetContext_descs s ctx, resetContext_die s ctx⟩
    · rw [resetContext_contexts, if_neg hc]
    · rw [resetContext_contexts, if_pos rfl, hx]; rfl
  case reclaim =>
    intro s ctx page hsub _ hb hquiet hsettled
    exact ⟨s.reclaimPage ctx page, congrArg Host.Outcome.next (evPageReclaim_of_quiet hsub hquiet hsettled), reclaimPage_frame s ctx page,
      reclaimPage_walk page hb, reclaimPage_homeByte s ctx page, reclaimPage_pages s ctx page,
      fun d => ⟨by rw [reclaimPage_die], mem_reclaimPage_denial s ctx page d⟩⟩
  case stays =>
    intro s ctx page g hsub hg d hvalid htype hlo hhi hrun
    exact pageReclaim_of_stays hsub hg hvalid htype hlo hhi hrun
  case register =>
    intro s ctx seg off len hsub
    rw [afterglowRegister_eq hsub]
    exact ⟨fun h => by rw [registerRegion_of_may h]; rfl, fun h => by rw [registerRegion_of_not h]; rfl⟩
  case powerFail =>
    intro s r a hon hgroups hdomains hcommands hregions hpieces hsound
    exact afterglowPowerFail_of_idle hon hgroups hdomains hcommands hregions hpieces hsound
  case powerUp =>
    intro s im hsub hoff hports good
    obtain ⟨hrun, hrecover⟩ := evModulePowerUp_cases hsub hoff
    refine ⟨fun h => congrArg Host.Outcome.next (hrecover h), fun h => ?_⟩
    have hup := booted_up im hports
    obtain ⟨rest, htable⟩ := buildTable_eq im hup
    obtain ⟨hversion, htotal, hzero, hend⟩ := capTable_fields htable
    refine ⟨s.booted im, congrArg Host.Outcome.next (hrun h), booted_frame im hports, hversion, htotal, hzero, hend,
      buildTable_ports im hup, fun p hp => ?_⟩
    rw [booted_port im hports hp]
    exact ⟨rfl, rfl, trainedPort_credits s.cycle⟩
  case throttle => exact fun s => rfl
  case stop => exact fun s => rfl

end Machine

end Sys2Proof
end

section
/-! PROOFS. The state after reset (01 R13, R20, 08 R153, 20 R368, R369). -/

namespace Sys2Proof
namespace Machine
open Sys2Proof.Safety
/-- At reset no unit of a budget is used: no partition has issued for an activity (R369). -/
theorem reset_budgetUsed (a k : Nat) : State.reset.budgetUsed a k = 0 := by
  unfold State.budgetUsed
  split <;> rfl

/-- A new thread's predicates are false. -/
theorem start_pred (entry : Ptr) (n : Nat) {k : Nat} (hk : k < 15) : (Thread.start entry n).pred k = false := by
  rw [Thread.pred, if_pos hk]
  exact BitVec.getLsbD_zero

/-- A new thread's v30 and v31 (R20). -/
theorem start_reg (entry : Ptr) (n : Nat) : (Thread.start entry n).reg 30 = 0x3000 ∧ (Thread.start entry n).reg 31 = BitVec.ofNat 32 n := by
  simp [Thread.start, Thread.reg]

/-- Settles O25: the reset values, read off the definitions. -/
theorem resetState : Obligations.ResetState :=
  ⟨⟨rfl, rfl, rfl, rfl, rfl, rfl, rfl, fun _ => ⟨rfl, rfl⟩, rfl, rfl, rfl, fun _ _ => rfl, reset_budgetUsed⟩,
    fun entry n => ⟨rfl, (start_reg entry n).1, (start_reg entry n).2, fun _ hk => start_pred entry n hk, rfl, rfl, rfl, rfl, rfl, rfl, rfl, rfl,
      rfl, rfl⟩, rfl, rfl, rfl, rfl, fun _ => ⟨rfl, rfl, rfl⟩⟩
end Machine
end Sys2Proof
end

section
/-! PROOFS. Special registers (01 R13 to R16, 05 R101): what SRD reads, the clock pair, and what SWR writes. -/

namespace Sys2Proof
namespace Machine
open Sys2Proof.Safety

/-! Special registers: what SRD reads, and the lanes that SRD and SWR of a scalar or a group take. -/

theorem State.thread_of_get? {s : State} {tid : Nat} {x : Thread} (h : s.threads.get? tid = some x) : s.thread tid = x := by
  simp [State.thread, Tab.getD, h]

theorem State.group_of_get? {s : State} {gid : Nat} {g : Group} (h : s.groups.get? gid = some g) : s.group gid = g := by
  simp [State.group, Tab.getD, h]

/-- SRD reads what the table of R13 lists. -/
theorem State.special_of_mem {s : State} {tid n : Nat} {v : Word} (h : (n, v) ∈ Claims.specials s tid (s.thread tid)) :
    s.special tid n = v := by
  have each : ∀ e ∈ Claims.specials s tid (s.thread tid), s.special tid e.1 = e.2 := by
    simp only [Claims.specials, List.forall_mem_cons, List.not_mem_nil, false_implies, implies_true, and_true]
    and_intros <;> rfl
  exact each _ h

theorem mem_ofGroup {ts : List Nat} {gid tid : Nat} : tid ∈ ofGroup ts gid ↔ tid ∈ ts ∧ gidOf tid = gid := by simp [ofGroup]

theorem State.lowest_ofGroup {ts : List Nat} {gid tid : Nat} (h : Claims.IsLowest ts gid tid) : State.lowest (ofGroup ts gid) = tid := by
  obtain ⟨hmem, hgid, hleast⟩ := h
  have hin : tid ∈ ofGroup ts gid := mem_ofGroup.2 ⟨hmem, hgid⟩
  have hmin : (ofGroup ts gid).min? = some tid :=
    List.min?_eq_some_iff.2 ⟨hin, fun u hu => hleast u (mem_ofGroup.1 hu).1 (mem_ofGroup.1 hu).2⟩
  cases hl : ofGroup ts gid with
  | nil => simp [hl] at hin
  | cons a l =>
    rw [hl, List.min?_cons'] at hmin
    simpa [State.lowest] using hmin

theorem State.highest_ofGroup {ts : List Nat} {gid tid : Nat} (h : Claims.IsHighest ts gid tid) : State.highest (ofGroup ts gid) = tid := by
  obtain ⟨hmem, hgid, hmost⟩ := h
  have hmax : (0 :: ofGroup ts gid).max? = some tid := by
    refine List.max?_eq_some_iff.2 ⟨List.mem_cons_of_mem _ (mem_ofGroup.2 ⟨hmem, hgid⟩), fun u hu => ?_⟩
    rcases List.mem_cons.1 hu with rfl | hu
    · exact Nat.zero_le _
    · exact hmost u (mem_ofGroup.1 hu).1 (mem_ofGroup.1 hu).2
  rw [List.max?_cons'] at hmax
  exact Option.some.inj hmax

/-- A group no thread of which acts takes no scalar result. -/
theorem State.runPlain_group_of_none {s : State} {f : Fields} {own : Nat → Option Flt} (h : Calm s f own) (act : Nat → Thread → Thread)
    (scal : Nat → List (Nat × Word)) {gid : Nat} (hn : ∀ tid ∈ s.guarded f, gidOf tid ≠ gid) :
    (s.runPlain f own act scal).groups.get? gid = s.groups.get? gid := by
  have : gid ∉ State.groupsIn (s.guarded f) := fun hm => by
    obtain ⟨tid, ht, he⟩ := mem_groupsIn.1 hm
    exact hn tid ht he
  rw [State.runPlain_group h]
  cases s.groups.get? gid <;> simp [this]

/-- A group with an acting thread takes the scalar results computed for it. -/
theorem State.runPlain_group_of_some {s : State} {f : Fields} {own : Nat → Option Flt} (h : Calm s f own) (act : Nat → Thread → Thread)
    (scal : Nat → List (Nat × Word)) {gid : Nat} {g : Group} (hg : s.groups.get? gid = some g) (hs : ∃ tid ∈ s.guarded f, gidOf tid = gid) :
    (s.runPlain f own act scal).groups.get? gid = some (g.setSregs (scal gid)) := by
  rw [State.runPlain_group h, hg]
  simp [mem_groupsIn.2 hs]

/-- An instruction without scalar results leaves the groups alone. -/
theorem State.runPlain_groups_of_nil {s : State} {f : Fields} {own : Nat → Option Flt} (h : Calm s f own) (act : Nat → Thread → Thread)
    {scal : Nat → List (Nat × Word)} (hn : scal = fun _ => []) : (s.runPlain f own act scal).groups = s.groups := by
  rw [hn, State.runPlain_calm h, State.writeScalars_nil]
  rfl

/-- With a vector D there is no scalar result. -/
theorem toScal_of_vector {f : Fields} (hc : f.cd = false) (wide : Bool) (x : DWord) : f.toScal wide x = [] := by simp [Fields.toScal, hc]

/-- A thread is as it was but for a vector D. -/
theorem toVec_of_scalar {f : Fields} (hc : f.cd = true) (wide : Bool) (x : DWord) (t : Thread) : f.toVec wide x t = t := by
  simp [Fields.toVec, hc]

theorem toVec_of_vector {f : Fields} (hc : f.cd = false) (x : DWord) (t : Thread) : f.toVec false x t = t.setReg f.d (loWord x) := by
  simp [Fields.toVec, hc]

theorem afterSrd_of_ne {idx : Nat} (h : idx ≠ 9) (t : Thread) : afterSrd idx t = t := if_neg h

/-- A thread that acts is one of those whose guard is true. -/
theorem acts_mem {s : State} {f : Fields} {tid : Nat} {x : Thread} (h : Acts s f tid x) : tid ∈ s.guarded f :=
  (State.mem_guarded h.2.1).2 ⟨h.1, h.2.2⟩

theorem meaning_srd {f : Fields} (s : State) (hmaj : f.maj = 0x07) (hmn : f.mn = 4) (hb : f.b ≠ 8) : meaning f s = xSrd f s := by
  simp [meaning, hmaj, hmn, hb]

theorem meaning_clkLo {f : Fields} (s : State) (hmaj : f.maj = 0x07) (hmn : f.mn = 4) (hb : f.b = 8) : meaning f s = xClkLo f s := by
  simp [meaning, hmaj, hmn, hb]

/-- Settles O5: SRD is one register result, read from the table of special registers. -/
theorem specialReads : Obligations.SpecialReads := by
  intro i F s hwf hF hmaj hmn h8 h9 calm
  refine ⟨_, (exec_eq_meaning s hF hwf).trans (congrArg _ (meaning_srd s hmaj hmn h8)), ?_⟩
  unfold xSrd
  rw [State.acting_calm calm]
  refine ⟨State.runPlain_only calm _ _, fun tid x hx => State.runPlain_passes calm _ _ hx, fun hc => ⟨?_, fun tid x hx => ?_⟩,
    fun hc => ⟨fun tid x hx => ?_, fun gid g tid hg hlow => ?_⟩, fun gid hn => State.runPlain_group_of_none calm _ _ hn⟩
  · exact State.runPlain_groups_of_nil calm _ (funext fun _ => toScal_of_vector hc _ _)
  · refine ⟨_, State.runPlain_acts calm _ _ hx, fun v hv => ?_⟩
    rw [← State.thread_of_get? hx.2.1] at hv
    rw [afterSrd_of_ne h9, toVec_of_vector hc, loWord_setWidth, State.special_of_mem hv]
    exact wroteReg_setReg s x F.d v
  · rw [State.runPlain_acts calm _ _ hx, afterSrd_of_ne h9, toVec_of_scalar hc]
  · refine ⟨_, State.runPlain_group_of_some calm _ _ hg ⟨tid, hlow.1, hlow.2.1⟩, fun v hv => ?_⟩
    rw [State.lowest_ofGroup hlow, State.special_of_mem hv]
    simpa using wroteScalar_toScal g F (v.setWidth 64) hc

/-- The low word of the cycle count. -/
theorem ofNat_mod_two_pow (n : Nat) : BitVec.ofNat 64 (n % 2 ^ 32) = (BitVec.ofNat 32 n).setWidth 64 := by
  apply BitVec.eq_of_toNat_eq
  simp only [BitVec.toNat_ofNat, BitVec.toNat_setWidth]

/-- Going on touches neither the registers nor the clock latch. -/
theorem goesOn_withRegsLatch (s : State) (t : Thread) (r : Tab Word) (c : Option Word) :
    goesOn s { t with regs := r, clkLatch := c } = { goesOn s t with regs := r, clkLatch := c } := by
  unfold goesOn Thread.advance
  dsimp only
  split
  · split <;> rfl
  · rfl

/-- What SRD of the clock pair reads in a thread: the count, or the latch (R15). -/
def clockValue (idx : Nat) (s : State) (x : Thread) : Word :=
  if idx = 8 then BitVec.ofNat 32 s.cycle else x.clkLatch.getD (BitVec.ofNat 32 (s.cycle / 2 ^ 32))

/-- The latch that SRD of the clock pair leaves (R15). -/
def clockLatch (idx : Nat) (s : State) : Option Word := if idx = 8 then some (BitVec.ofNat 32 (s.cycle / 2 ^ 32)) else none

/-- SRD of either clock register: one register result with the latch set or cleared. -/
theorem exec_clock {i : Instr} {F : Fields} {s : State} (hwf : i.wf = true) (hF : i.fields? = some F) (hmaj : F.maj = 0x07) (hmn : F.mn = 4)
    (hb : F.b = 8 ∨ F.b = 9) (calm : Calm s F State.noFault) :
    exec i s = .next (s.runPlain F State.noFault
      (fun tid t => { F.toVec false ((clockValue F.b s (s.thread tid)).setWidth 64) t with clkLatch := clockLatch F.b s })
      (fun gid => F.toScal false ((clockValue F.b s (s.thread (State.lowest (ofGroup (s.guarded F) gid)))).setWidth 64))) := by
  rw [exec_eq_meaning s hF hwf]
  rcases hb with hb | hb
  · rw [meaning_clkLo s hmaj hmn hb, xClkLo, ofNat_mod_two_pow, hb]
    rfl
  · rw [meaning_srd s hmaj hmn (by omega), xSrd, State.acting_calm calm, hb]
    rfl

@[simp] theorem goesOn_clkLatch (s : State) (t : Thread) : (goesOn s t).clkLatch = t.clkLatch := by simp [goesOn]

/-- A vector D writes no other register, and registers alone. -/
theorem toVec_frame (f : Fields) (wide : Bool) (x : DWord) (t : Thread) : { f.toVec wide x t with regs := t.regs } = t := by
  unfold Fields.toVec
  split
  · rfl
  · split
    · exact Thread.setReg64_regs t _ _
    · exact Thread.setReg_regs t _ _

theorem toVec_reg_of_ne {f : Fields} (x : DWord) (t : Thread) {n : Nat} (h : n ≠ f.d ∨ f.cd = true) : (f.toVec false x t).reg n = t.reg n := by
  cases hc : f.cd with
  | true => rw [toVec_of_scalar hc]
  | false =>
    have hn : n ≠ f.d := h.resolve_right (by simp [hc])
    rw [toVec_of_vector hc, Thread.reg_setReg, if_neg hn]

/-- A write to the clock latch changes no register. -/
theorem reg_withLatch (t : Thread) (c : Option Word) (n : Nat) : ({ t with clkLatch := c } : Thread).reg n = t.reg n := rfl

/-- Settles O6: both clock registers are one register result with the latch as R15 says. -/
theorem clockReads : Obligations.ClockReads := by
  intro i F s hwf hF hmaj hmn hb calm
  refine ⟨_, exec_clock hwf hF hmaj hmn hb calm, State.runPlain_only calm _ _, fun tid x hx => State.runPlain_passes calm _ _ hx,
    fun tid x hx => ⟨_, State.runPlain_acts calm _ _ hx, ?_, ?_, fun hc => ?_, fun n hn => ?_, fun hc hlow g hg => ?_⟩⟩
  · have frame := toVec_frame F false ((clockValue F.b s (s.thread tid)).setWidth 64) x
    rw [← goesOn_withRegsLatch]
    exact congrArg (fun y : Thread => goesOn s { y with clkLatch := x.clkLatch }) frame
  · rw [goesOn_clkLatch]
    rfl
  · rw [goesOn_reg, reg_withLatch, toVec_of_vector hc, loWord_setWidth, State.thread_of_get? hx.2.1, Thread.reg_setReg, if_pos rfl]
    rfl
  · rw [goesOn_reg, reg_withLatch, toVec_reg_of_ne _ x hn]
  · refine ⟨_, State.runPlain_group_of_some calm _ _ hg ⟨tid, hlow.1, hlow.2.1⟩, ?_⟩
    rw [State.lowest_ofGroup hlow, State.thread_of_get? hx.2.1]
    simpa [clockValue] using wroteScalar_toScal g F ((clockValue F.b s x).setWidth 64) hc

/-! SWR: the values a register takes (R14), and its effect on threads and groups. -/

/-- The bits from `k` on are zero exactly where the mask of them finds none. -/
theorem and_mask_eq_zero_iff {w : Nat} (v : BitVec w) (k n : Nat) (hn : k + n = w) : v &&& (BitVec.allOnes w <<< k) = 0 ↔ v.extractLsb' k n = 0 := by
  constructor
  · intro h
    apply BitVec.eq_of_getLsbD_eq
    intro i hi
    have := congrArg (fun u : BitVec w => u.getLsbD (k + i)) h
    simpa [hi, show k + i < w by omega] using this
  · intro h
    apply BitVec.eq_of_getLsbD_eq
    intro i hi
    by_cases hk : i < k
    · simp [hk]
    · have := congrArg (fun w : BitVec n => w.getLsbD (i - k)) h
      simpa [show i - k < n by omega, show k + (i - k) = i by omega, hk, hi] using this

/-- SWR faults exactly on a bit in the zero bits (R14). -/
theorem swrFault_eq (f : Fields) (v : Word) :
    swrFault f v = if Claims.zeroBits f.b v then none else some ⟨codeReserved, 0, f.w0⟩ := by
  have mask (k n : Nat) (hn : k + n = 32) : (v.extractLsb' k n != 0) = !(v &&& (BitVec.allOnes 32 <<< k) == 0) := by
    rw [bne, beq_eq_beq.2 (and_mask_eq_zero_iff v k n hn)]
  have fault (b : Bool) : (if (!b) = true then some (⟨codeReserved, 0, f.w0⟩ : Flt) else none) =
    if b = true then none else some ⟨codeReserved, 0, f.w0⟩ := by cases b <;> rfl
  by_cases hA : f.b = 0x0A
  · simp only [swrFault, Claims.zeroBits, hA, mask 5 27 rfl]
    exact fault _
  by_cases hB : f.b = 0x0B
  · simp only [swrFault, Claims.zeroBits, hB, mask 3 29 rfl]
    exact fault _
  by_cases hC : f.b = 0x12
  · simp only [swrFault, Claims.zeroBits, hC, mask 9 23 rfl]
    exact fault _
  · simp [swrFault, Claims.zeroBits]

/-- Where every value fits, SWR faults in no thread. -/
theorem calm_swr {s : State} {F : Fields} (calm : Calm s F State.noFault)
    (hz : ∀ tid ∈ s.guarded F, Claims.zeroBits F.b (Claims.valueA F s tid) = true) :
    Calm s F (fun tid => swrFault F (swrVal F s tid)) := by
  refine fun tid ht => ⟨(calm tid ht).1, ?_⟩
  exact (swrFault_eq F _).trans (if_pos (hz tid ht))

theorem meaning_swr {f : Fields} (s : State) (hmaj : f.maj = 0x07) (hmn : f.mn = 5) (hb : f.b ≠ 0x18) : meaning f s = xSwr f s := by
  simp [meaning, hmaj, hmn, hb]

theorem meaning_thnd {f : Fields} (s : State) (hmaj : f.maj = 0x07) (hmn : f.mn = 5) (hb : f.b = 0x18) : meaning f s = xThnd f s := by
  simp [meaning, hmaj, hmn, hb]

/-- The effect of SWR on the threads that act and on their groups; THND is a group's register (R101, R346). -/
def swrEffect (F : Fields) (s : State) : State :=
  { s with
    threads := s.threads.mapKV (fun tid t => if tid ∈ s.guarded F then swrThread F.b (swrVal F s tid) t else t)
    groups := s.groups.mapKV (fun gid g => if gid ∈ State.groupsIn (s.guarded F) then
      (let v := swrVal F s (State.highest (ofGroup (s.guarded F) gid))
       if F.b = 0x18 then { g with thnd := v, thndSeg := segOf s.issue.self } else swrGroup F.b v g) else g) }

theorem swrEffect_of_none {F : Fields} {s : State} (h : s.guarded F = []) : swrEffect F s = s := by
  simp [swrEffect, h, State.groupsIn, Tab.mapKV_eq_self]

/-- SWR without faults: its effect, then the next address for every thread of the bundle. -/
theorem exec_swr {i : Instr} {F : Fields} {s : State} (hwf : i.wf = true) (hF : i.fields? = some F) (hmaj : F.maj = 0x07) (hmn : F.mn = 5)
    (calm : Calm s F State.noFault) (hz : ∀ tid ∈ s.guarded F, Claims.zeroBits F.b (Claims.valueA F s tid) = true) :
    exec i s = .next ((swrEffect F s).advanceAll (s.unguarded F ++ s.guarded F)) := by
  rw [exec_eq_meaning s hF hwf]
  have apply (u : State) (hu : u = swrEffect F s) : (if s.guarded F = [] then s else u) = swrEffect F s := by
    split
    · rw [swrEffect_of_none ‹_›]
    · exact hu
  by_cases hb : F.b = 0x18
  · rw [meaning_thnd s hmaj hmn hb, xThnd, State.runState_calm calm, apply]
    simp [swrEffect, hb, swrThread, Tab.mapKV_eq_self, List.contains_eq_mem]
  · rw [meaning_swr s hmaj hmn hb, xSwr, State.runState_calm (calm_swr calm hz), apply]
    simp [swrEffect, hb, List.contains_eq_mem, State.mapThreads]

/-- A register of R13's table of threads is no register of a group. -/
theorem swrThread_of_mem {idx : Nat} {set : Word → Thread → Thread} (h : (idx, set) ∈ Claims.threadSpecials) :
    swrThread idx = set ∧ idx ≠ 0x18 ∧ swrGroup idx = fun _ g => g := by
  simp only [Claims.threadSpecials, List.mem_cons, Prod.mk.injEq, List.not_mem_nil, or_false] at h
  rcases h with ⟨rfl, rfl⟩ | ⟨rfl, rfl⟩ | ⟨rfl, rfl⟩ | ⟨rfl, rfl⟩ | ⟨rfl, rfl⟩ | ⟨rfl, rfl⟩ | ⟨rfl, rfl⟩ | ⟨rfl, rfl⟩ | ⟨rfl, rfl⟩ <;>
    exact ⟨rfl, by decide, rfl⟩

/-- And the other way round. -/
theorem swrGroup_of_mem {idx seg : Nat} {set : Word → Group → Group} (h : (idx, set) ∈ Claims.groupSpecials seg) :
    swrThread idx = (fun _ t => t) ∧
    ∀ v g, (if idx = 0x18 then { g with thnd := v, thndSeg := seg } else swrGroup idx v g) = set v g := by
  simp only [Claims.groupSpecials, List.mem_cons, Prod.mk.injEq, List.not_mem_nil, or_false] at h
  rcases h with ⟨rfl, rfl⟩ | ⟨rfl, rfl⟩ | ⟨rfl, rfl⟩ | ⟨rfl, rfl⟩ | ⟨rfl, rfl⟩ <;> exact ⟨rfl, fun _ _ => rfl⟩

/-- A thread after SWR. -/
theorem swr_thread (F : Fields) (s : State) {tid : Nat} {x : Thread} (hx : s.threads.get? tid = some x) :
    ((swrEffect F s).advanceAll (s.unguarded F ++ s.guarded F)).threads.get? tid = some (
      if tid ∈ s.issue.threads then goesOn s (if x.guard F then swrThread F.b (swrVal F s tid) x else x) else x) := by
  have hg := State.mem_guarded (f := F) hx
  have hu := State.mem_unguarded (f := F) hx
  rw [State.advanceAll_get?]
  simp only [swrEffect, Tab.get?_mapKV, hx, Option.map_some, List.mem_append, hg, hu]
  by_cases hm : tid ∈ s.issue.threads <;> cases hgd : x.guard F <;> simp [hm] <;> rfl

/-- Settles O7: SWR is its effect on the threads or on the groups, and each thread of the bundle goes on. -/
theorem specialWrites : Obligations.SpecialWrites := by
  intro i F s hwf hF hmaj hmn calm hz
  refine ⟨_, exec_swr hwf hF hmaj hmn calm hz, rfl, fun tid ht => ?_, fun tid x hx => ?_, fun set hset => ?_, fun set hset => ?_⟩
  · cases hx : s.threads.get? tid with
    | none => simp [State.advanceAll_get?, swrEffect, hx]
    | some x => rw [swr_thread F s hx, if_neg ht]
  · rw [swr_thread F s hx.2.1, if_pos hx.1]
    simp [hx.2.2]
  · obtain ⟨hthread, hb, hgroup⟩ := swrThread_of_mem hset
    refine ⟨?_, fun tid x hx => ?_⟩
    · simp [swrEffect, hb, hgroup, Tab.mapKV_eq_self]
    · rw [swr_thread F s hx.2.1, if_pos hx.1, if_pos hx.2.2, hthread]
      rfl
  · obtain ⟨hthread, hgroup⟩ := swrGroup_of_mem hset
    refine ⟨fun tid x hx => ?_, fun gid g hg => ⟨fun tid hhigh => ?_, fun hn => ?_⟩⟩
    · rw [swr_thread F s hx.2.1, if_pos hx.1, hthread, ite_self]
    · have hin : gid ∈ State.groupsIn (s.guarded F) := mem_groupsIn.2 ⟨tid, hhigh.1, hhigh.2.1⟩
      simp only [State.advanceAll_groups, swrEffect, Tab.get?_mapKV, hg, Option.map_some, hin, if_true, hgroup, State.highest_ofGroup hhigh]
      rfl
    · have hout : gid ∉ State.groupsIn (s.guarded F) := fun hm => by
        obtain ⟨tid, ht, he⟩ := mem_groupsIn.1 hm
        exact hn tid ht he
      simp [swrEffect, hg, hout]

end Machine
end Sys2Proof
end

section
/-! PROOFS. Bits, comparisons and predicates (01 R17, 05 R88, R94 to R97): the model's integer values in the terms of bit vectors, row by row, and the rows' results. -/

namespace Sys2Proof
namespace Machine
open Sys2Proof.Safety

/-! The integer values of the model in the terms of bit vectors (05 R88, R95, R96). -/

theorem typeBits_eq_widthOf (ty : Nat) : typeBits ty = Claims.widthOf ty := by
  unfold typeBits Claims.widthOf
  rfl

theorem readInt_eq_intOf (t : Nat) (z : Bool) (x : DWord) : readInt t z x = Claims.intOf t z x := by
  have half : x.toNat % 2 ^ t < 2 ^ (t - 1) ↔ 2 * (x.toNat % 2 ^ t) < 2 ^ t := by
    cases t with
    | zero => simp [Nat.mod_one]
    | succ n => rw [Nat.add_sub_cancel, Nat.pow_succ]; omega
  simp only [readInt, Claims.intOf, BitVec.toInt_eq_toNat_cond, BitVec.toNat_setWidth, Bool.or_eq_true, decide_eq_true_eq, half]
  cases z <;> simp

theorem satInt_eq_clamp (t : Nat) (z : Bool) (x : Int) : satInt t z x = Claims.clamp t z x := by
  have h1 : (1 : Int) ≤ 2 ^ t := by exact_mod_cast Nat.one_le_two_pow
  have h2 : (1 : Int) ≤ 2 ^ (t - 1) := by exact_mod_cast Nat.one_le_two_pow
  cases z <;> simp only [satInt, Claims.clamp, if_true, Bool.false_eq_true, if_false] <;> split_ifs <;> omega

theorem setWidth_ofInt {t : Nat} (h : t ≤ 64) (x : Int) : (BitVec.ofInt 64 x).setWidth t = BitVec.ofInt t x := by
  apply BitVec.eq_of_toInt_eq
  rw [← BitVec.signExtend_eq_setWidth_of_le _ h, BitVec.toInt_signExtend, BitVec.toInt_ofInt, BitVec.toInt_ofInt, Nat.min_eq_left h,
    Int.bmod_bmod_of_dvd (Nat.pow_dvd_pow 2 h)]

theorem loWord_eq_setWidth (x : DWord) : loWord x = x.setWidth 32 := by
  apply BitVec.eq_of_getLsbD_eq
  intro i hi
  simp [loWord, hi]

/-- A value extended to a pair and cut to a register is the value extended to the register. -/
theorem loWord_extend {t : Nat} (r : BitVec t) :
    loWord (r.setWidth 64) = r.setWidth 32 ∧ loWord (r.signExtend 64) = r.signExtend 32 := by
  constructor <;> rw [loWord_eq_setWidth] <;> apply BitVec.eq_of_getLsbD_eq <;> intro i hi
  · simp [hi]
  · simp only [BitVec.getLsbD_setWidth, BitVec.getLsbD_signExtend, hi, show i < 64 by omega, decide_true, Bool.true_and]

/-- A result as a register or a pair holds it (R88). -/
theorem writeInt_eq_held {t : Nat} (h : t = 64 ∨ t ≤ 32) (z : Bool) (x : Int) : writeInt t z x = Claims.held t z x := by
  have extended : BitVec.ofInt 64 (Claims.intOf t z (BitVec.ofInt 64 x)) =
      if z then (BitVec.ofInt t x).setWidth 64 else (BitVec.ofInt t x).signExtend 64 := by
    rw [Claims.intOf, setWidth_ofInt (by omega)]
    cases z
    · rfl
    · exact (BitVec.ofInt_natCast _ _).trans (BitVec.ofNat_toNat ..)
  simp only [writeInt, readInt_eq_intOf, extended, Claims.held]
  rcases h with rfl | h
  · cases z <;> simp
  · have h64 : t ≠ 64 := by omega
    simp only [h64, if_false]
    cases z
    · exact congrArg _ (loWord_extend _).2
    · exact congrArg _ (loWord_extend _).1

/-! Counts, reversal and fields of bits (R95). -/

/-- The low `n + 1` bits of a number are its low `n` bits and bit `n`. -/
theorem mod_two_pow_succ_bit (x : DWord) (n : Nat) : x.toNat % 2 ^ (n + 1) = 2 ^ n * (x.getLsbD n).toNat + x.toNat % 2 ^ n := by
  rw [Nat.mod_pow_succ, BitVec.getLsbD, Nat.toNat_testBit, Nat.add_comm]

theorem leadZeros_eq (x : DWord) (n : Nat) :
    leadZeros x n = if x.toNat % 2 ^ n = 0 then n else n - 1 - Nat.log2 (x.toNat % 2 ^ n) := by
  induction n with
  | zero => simp [leadZeros, Nat.mod_one]
  | succ n ih =>
    have hlt : x.toNat % 2 ^ n < 2 ^ n := Nat.mod_lt _ (Nat.two_pow_pos n)
    rw [leadZeros, mod_two_pow_succ_bit]
    cases hb : x.getLsbD n
    · simp only [Bool.false_eq_true, if_false, ih, Bool.toNat_false, Nat.mul_zero, Nat.zero_add]
      split
      · rfl
      · have : Nat.log2 (x.toNat % 2 ^ n) < n := (Nat.log2_lt ‹_›).2 hlt
        omega
    · have hlog : Nat.log2 (2 ^ n + x.toNat % 2 ^ n) = n := by
        rw [Nat.log2_eq_iff (by omega)]
        omega
      have hpos : 2 ^ n + x.toNat % 2 ^ n ≠ 0 := by omega
      simp only [if_true, Bool.toNat_true, Nat.mul_one, hlog, hpos, if_false]
      omega

theorem leadZeros_eq_clz (x : DWord) (n : Nat) : leadZeros x n = Claims.clz (x.setWidth n) := by
  have zero : x.setWidth n = 0 ↔ x.toNat % 2 ^ n = 0 := by
    rw [← BitVec.toNat_inj, BitVec.toNat_setWidth]
    rfl
  simp only [leadZeros_eq, Claims.clz, BitVec.toNat_setWidth, zero]

theorem popcount_eq_popc (x : DWord) (n : Nat) : popcount x n = Claims.popc (x.setWidth n) := by
  have count (m : Nat) : popcount x m = ((List.range m).filter (fun i => x.getLsbD i)).length := by
    induction m with
    | zero => rfl
    | succ m ih =>
      rw [popcount, ih, List.range_succ, List.filter_append, List.length_append]
      cases hb : x.getLsbD m <;> simp [hb]
  rw [count, Claims.popc]
  congr 1
  apply List.filter_congr
  intro i hi
  simp [List.mem_range.1 hi]

theorem testBit_brev (x : DWord) (n i : Nat) : (brev x n).testBit i = (decide (i < n) && x.getLsbD (n - 1 - i)) := by
  induction n generalizing i with
  | zero => simp [brev]
  | succ n ih =>
    have step : brev x (n + 1) = 2 * brev x n + (x.getLsbD n).toNat := by simp [brev, List.range_succ]
    rw [step]
    cases i with
    | zero => cases hb : x.getLsbD n <;> simp [Nat.testBit_zero, hb]
    | succ i =>
      have half : (2 * brev x n + (x.getLsbD n).toNat) / 2 = brev x n := by cases x.getLsbD n <;> simp; omega
      rw [Nat.testBit_succ, half, ih, show n + 1 - 1 - (i + 1) = n - 1 - i by omega]
      simp

theorem brev_eq_reverse (x : DWord) (n : Nat) : BitVec.ofNat 64 (brev x n) = (x.setWidth n).reverse.setWidth 64 := by
  apply BitVec.eq_of_getLsbD_eq
  intro i hi
  simp only [BitVec.getLsbD_ofNat, BitVec.getLsbD_setWidth, BitVec.getLsbD_reverse, BitVec.getMsbD_eq_getLsbD, testBit_brev]
  by_cases hin : i < n
  · simp [hin, show n - 1 - i < n by omega]
  · simp [hin]

/-- The field of BFX and BFI is empty, or its bits are `len` from `pos` on, within the type. -/
theorem bitField_cases (w : Nat) (b : DWord) :
    (bitField w b = none ∧ Claims.fieldLen w b = 0) ∨
    (bitField w b = some ((b.extractLsb' 0 8).toNat, Claims.fieldLen w b) ∧ 0 < Claims.fieldLen w b ∧
      (b.extractLsb' 0 8).toNat + Claims.fieldLen w b ≤ w) := by
  have hpos : (b.extractLsb' 0 8).toNat = b.toNat % 256 := by simp
  have hlen : (b.extractLsb' 8 8).toNat = b.toNat / 256 % 256 := by simp [BitVec.extractLsb'_toNat, Nat.shiftRight_eq_div_pow]
  simp only [bitField, Claims.fieldLen, hpos, hlen]
  split_ifs <;> simp <;> omega

/-- The bits of a field of a 64-bit pattern as a number (R95). -/
theorem toNat_field (a : DWord) {w pos len : Nat} (h : pos + len ≤ w) (hw : w ≤ 64) :
    (((a.setWidth w >>> pos).setWidth 64).setWidth len).toNat = a.toNat / 2 ^ pos % 2 ^ len := by
  apply Nat.eq_of_testBit_eq
  intro i
  rw [Nat.testBit_mod_two_pow, Nat.testBit_div_two_pow, BitVec.testBit_toNat, BitVec.testBit_toNat]
  simp only [BitVec.getLsbD_setWidth, BitVec.getLsbD_ushiftRight]
  by_cases hi : i < len
  · simp only [hi, show i < 64 by omega, show pos + i < w by omega, decide_true, Bool.true_and, Nat.add_comm]
  · simp only [hi, decide_false, Bool.false_and]

/-- BFX reads its field, signed or not (R95). -/
theorem intOf_field (a : DWord) {w pos len : Nat} (z : Bool) (h : pos + len ≤ w) (hw : w ≤ 64) :
    (if z then ((BitVec.ofNat 64 (a.toNat / 2 ^ pos % 2 ^ len)).toNat : Int)
      else readInt len false (BitVec.ofNat 64 (a.toNat / 2 ^ pos % 2 ^ len))) =
    Claims.intOf len z ((a.setWidth w >>> pos).setWidth 64) := by
  have small : a.toNat / 2 ^ pos % 2 ^ len < 2 ^ len := Nat.mod_lt _ (Nat.two_pow_pos len)
  have wide : 2 ^ len ≤ 2 ^ 64 := Nat.pow_le_pow_right (by omega) (by omega)
  have whole : (BitVec.ofNat 64 (a.toNat / 2 ^ pos % 2 ^ len)).toNat = a.toNat / 2 ^ pos % 2 ^ len :=
    (BitVec.toNat_ofNat _ _).trans (Nat.mod_eq_of_lt (by omega))
  have cut : (BitVec.ofNat 64 (a.toNat / 2 ^ pos % 2 ^ len)).setWidth len = ((a.setWidth w >>> pos).setWidth 64).setWidth len := by
    apply BitVec.eq_of_toNat_eq
    rw [toNat_field a h hw, BitVec.toNat_setWidth, whole, Nat.mod_eq_of_lt small]
  cases z
  · simp only [Bool.false_eq_true, if_false, readInt_eq_intOf, Claims.intOf, cut]
  · simp only [if_true, Claims.intOf, toNat_field a h hw, whole]

/-- BFI's bits, position by position (R95). -/
theorem testBit_insert (c a pos len i : Nat) :
    (c / 2 ^ (pos + len) * 2 ^ (pos + len) + a % 2 ^ len * 2 ^ pos + c % 2 ^ pos).testBit i =
      if i < pos then c.testBit i else if i < pos + len then a.testBit (i - pos) else c.testBit i := by
  have low : c % 2 ^ pos < 2 ^ pos := Nat.mod_lt _ (Nat.two_pow_pos pos)
  have mid : 2 ^ pos * (a % 2 ^ len) + c % 2 ^ pos < 2 ^ (pos + len) := by
    have : a % 2 ^ len < 2 ^ len := Nat.mod_lt _ (Nat.two_pow_pos len)
    have := Nat.mul_le_mul_left (2 ^ pos) (Nat.succ_le_of_lt this)
    rw [Nat.pow_add]
    rw [Nat.mul_succ] at this
    omega
  have shape : c / 2 ^ (pos + len) * 2 ^ (pos + len) + a % 2 ^ len * 2 ^ pos + c % 2 ^ pos =
      2 ^ (pos + len) * (c / 2 ^ (pos + len)) + (2 ^ pos * (a % 2 ^ len) + c % 2 ^ pos) := by ring
  rw [shape, Nat.testBit_two_pow_mul_add _ mid, Nat.testBit_two_pow_mul_add _ low, Nat.testBit_mod_two_pow, Nat.testBit_mod_two_pow,
    Nat.testBit_div_two_pow]
  by_cases h1 : i < pos
  · simp [h1, show i < pos + len by omega]
  · by_cases h2 : i < pos + len
    · simp [h1, h2, show i - pos < len by omega]
    · simp [h1, h2, show i - (pos + len) + (pos + len) = i by omega]

/-- BFI with a field: its bits of `a` under the mask, the others of `c` (R95). -/
theorem insert_eq_mask (a c : DWord) {w pos len : Nat} (h : pos + len ≤ w) (hc : c.toNat < 2 ^ w) :
    BitVec.ofNat 64 (c.toNat / 2 ^ (pos + len) * 2 ^ (pos + len) + a.toNat % 2 ^ len * 2 ^ pos + c.toNat % 2 ^ pos) =
      (let mask : BitVec w := (BitVec.allOnes len).setWidth w <<< pos
       ((c.setWidth w &&& ~~~mask) ||| ((a.setWidth w <<< pos) &&& mask)).setWidth 64) := by
  apply BitVec.eq_of_getLsbD_eq
  intro i hi
  rw [BitVec.getLsbD_ofNat, testBit_insert]
  simp only [BitVec.getLsbD_setWidth, BitVec.getLsbD_or, BitVec.getLsbD_and, BitVec.getLsbD_not, BitVec.getLsbD_shiftLeft,
    BitVec.getLsbD_allOnes, BitVec.testBit_toNat, hi, decide_true, Bool.true_and]
  by_cases hiw : i < w
  · by_cases h1 : i < pos
    · simp [h1, hiw]
    · by_cases h2 : i < pos + len
      · simp [h1, h2, hiw, show i - pos < len by omega, show i - pos < w by omega]
      · simp [h1, h2, hiw, show ¬ i - pos < len by omega]
  · have : c.getLsbD i = false := by
      rw [← BitVec.testBit_toNat]
      exact Nat.testBit_lt_two_pow (hc.trans_le (Nat.pow_le_pow_right (by omega) (by omega)))
    simp [hiw, this, show ¬ i < pos by omega, show ¬ i < pos + len by omega]

/-- BFI without one leaves `c` (R95). -/
theorem empty_mask (a c : DWord) {w pos : Nat} (hc : c.toNat < 2 ^ w) :
    BitVec.ofNat 64 c.toNat =
      (let mask : BitVec w := (BitVec.allOnes 0).setWidth w <<< pos
       ((c.setWidth w &&& ~~~mask) ||| ((a.setWidth w <<< pos) &&& mask)).setWidth 64) := by
  have cut : (c.setWidth w).setWidth 64 = c := by
    apply BitVec.eq_of_toNat_eq
    rw [BitVec.toNat_setWidth, BitVec.toNat_setWidth, Nat.mod_eq_of_lt hc, Nat.mod_eq_of_lt c.isLt]
  simp [cut]

/-- LEA (R17, R95). -/
theorem leaVal_eq (f : Fields) (g : Group) (x : Thread) : leaVal f g x =
    (f.opA true g x).extractLsb' 44 20 ++ ((f.opA true g x).extractLsb' 0 44 + (f.opB true g x).extractLsb' 0 44) := by
  apply BitVec.eq_of_toNat_eq
  have hi : ((f.opA true g x).extractLsb' 44 20).toNat = segOf (f.opA true g x) := by
    have := (f.opA true g x).isLt
    simp only [segOf, BitVec.extractLsb'_toNat, BitVec.toNat_ushiftRight, Nat.shiftRight_eq_div_pow]
    omega
  have lo (b : DWord) : (b.extractLsb' 0 44).toNat = b.toNat % 2 ^ 44 := by simp
  have seg : segOf (f.opA true g x) < 2 ^ 20 := hi ▸ BitVec.isLt _
  rw [leaVal, mkPtr, BitVec.toNat_ofNat, BitVec.toNat_append, hi, BitVec.toNat_add, lo, lo, Nat.shiftLeft_eq, Nat.mul_comm (segOf _),
    ← Nat.two_pow_add_eq_or_of_lt (by omega)]
  omega

/-- An operand that is no pair holds 32 bits. -/
theorem opC_lt (f : Fields) (g : Group) (x : Thread) : (f.opC false g x).toNat < 2 ^ 32 := by
  unfold Fields.opC readOp
  cases f.cs
  · exact (BitVec.toNat_setWidth ..).trans_lt ((Nat.mod_le _ _).trans_lt (BitVec.isLt _))
  · exact (BitVec.toNat_setWidth ..).trans_lt ((Nat.mod_le _ _).trans_lt (BitVec.isLt _))

/-- A type code of the integer instructions has 64 bits or at most 32 (R48). -/
theorem widthOf_cases (ty : Nat) : Claims.widthOf ty = 64 ∨ Claims.widthOf ty ≤ 32 := by
  unfold Claims.widthOf
  split <;> simp

theorem widthOf_le (ty : Nat) : Claims.widthOf ty ≤ 64 := by
  rcases widthOf_cases ty with h | h <;> omega

/-! ICMP (R96). -/

theorem intOf_eq_iff (w : Nat) (z : Bool) (a b : DWord) : Claims.intOf w z a = Claims.intOf w z b ↔ a.setWidth w = b.setWidth w := by
  cases z
  · simp only [Claims.intOf, Bool.false_eq_true, if_false, BitVec.toInt_inj]
  · simp only [Claims.intOf, if_true, Int.natCast_inj, BitVec.toNat_inj]

theorem intOf_lt_iff (w : Nat) (z : Bool) (a b : DWord) : Claims.intOf w z a < Claims.intOf w z b ↔
    (if z then (a.setWidth w).ult (b.setWidth w) else (a.setWidth w).slt (b.setWidth w)) = true := by
  cases z
  · simp only [Claims.intOf, Bool.false_eq_true, if_false, BitVec.slt_iff_toInt_lt]
  · simp only [Claims.intOf, if_true, BitVec.ult_iff_toNat_lt, Int.ofNat_lt]

/-- Two patterns share a bit exactly where their common bits are no zero. -/
theorem both_eq_zero_iff (w : Nat) (a b : DWord) : (a.toNat % 2 ^ w) &&& (b.toNat % 2 ^ w) = 0 ↔ a.setWidth w &&& b.setWidth w = 0 := by
  rw [← BitVec.toNat_inj, BitVec.toNat_and, BitVec.toNat_setWidth, BitVec.toNat_setWidth]
  rfl

/-! What an encoding without a decoding fault keeps (R85, R89, R94), and results by equal values. -/

theorem modOk_of_fieldsOk {w : Nat} {f : Fields} (h : fieldsOk w f = true) : modOk f = true := by
  simp only [fieldsOk, Bool.and_eq_true] at h
  exact h.1.1.1.2

theorem slotD_of_fieldsOk {w : Nat} {f : Fields} (h : fieldsOk w f = true) : slotOk (opnds w f).d f.d f.cd = true := by
  simp only [fieldsOk, Bool.and_eq_true] at h
  exact h.1.1.1.1.1.1.1.1.2

/-- The type codes of BITS (R94). -/
theorem bits_types {f : Fields} (hmaj : f.maj = 0x04) (h : modOk f = true) : f.ty ∈ intTypes 0x04 f.mn := by
  simp only [modOk, hmaj] at h
  simp_all

/-- Two computations that agree for the threads that act give one result. -/
theorem RegResult.congr {s t : State} {f : Fields} {wide : Bool} {v v' : Group → Thread → DWord} (h : RegResult s t f wide v)
    (hv : s.guarded f ≠ [] → ∀ g x, v g x = v' g x) : RegResult s t f wide v' := by
  by_cases he : s.guarded f = []
  · have none {tid : Nat} {x : Thread} (hx : Acts s f tid x) : False := by
      have := (State.mem_guarded hx.2.1).2 ⟨hx.1, hx.2.2⟩
      simp [he] at this
    refine ⟨h.only, h.passes, fun hc => ⟨(h.vector hc).1, fun tid x hx => (none hx).elim⟩, fun hc => ⟨fun tid x hx => (none hx).elim, fun gid g hg => ?_⟩⟩
    obtain ⟨g', h1, h2, -⟩ := (h.scalar hc).2 gid g hg
    exact ⟨g', h1, h2, fun ⟨tid, ht, _⟩ => by simp [he] at ht⟩
  · rw [← show v = v' from funext fun g => funext fun x => hv he g x]
    exact h

theorem PredResult.congr {s t : State} {f : Fields} {d : Nat} {v v' : Group → Thread → Bool} (h : PredResult s t f d v)
    (hv : ∀ g x, v g x = v' g x) : PredResult s t f d v' := by
  rw [← show v = v' from funext fun g => funext fun x => hv g x]
  exact h

/-- A pair D of BITS stops before the end of its file (R12, R94). -/
theorem bits_pair {s : State} {f : Fields} (calm : Calm s f State.noFault) (hmaj : f.maj = 0x04) :
    ∀ tid ∈ s.guarded f, bitsWide f = true ∨ f.mn = 7 → (f.cd = false → f.d + 1 ≠ 255) ∧ (f.cd = true → f.d + 1 ≠ 127) := by
  intro tid ht hw
  have ok := fieldsOk_of_decodeFault (calm tid ht).1
  have typed : f.ty = 1 → typed f.ty = .reg true true 2 2 := fun h => by simp [Sys2Proof.typed, h, Slot.vsPair]
  have pair : (opnds (s.widthOf (gidOf tid)) f).d = .reg true true 2 2 ∨ (opnds (s.widthOf (gidOf tid)) f).d = .zero := by
    rcases hw with hw | hw
    · simp only [bitsWide, Fields.is64, Bool.and_eq_true, beq_iff_eq, Bool.not_eq_true', Bool.or_eq_false_iff, beq_eq_false_iff_ne] at hw
      obtain ⟨hty, hclz, hpopc⟩ := hw
      simp only [opnds, hmaj, typed hty]
      split <;> simp_all [Slot.vsPair]
    · exact Or.inl (by simp only [opnds, hmaj, hw]; rfl)
  rcases pair with h | h
  · exact pair_of_fieldsOk ok h
  · have hd := slotD_of_fieldsOk ok
    rw [h] at hd
    simp only [slotOk, Bool.and_eq_true, beq_iff_eq, Bool.not_eq_true'] at hd
    obtain ⟨hd0, hcd⟩ := hd
    simp [hd0]

theorem bitsWide_eq (f : Fields) : bitsWide f = (f.ty == 1 && decide (2 ≤ f.mn)) := by
  rw [bitsWide, Fields.is64, show (!(f.mn == 0 || f.mn == 1)) = decide (2 ≤ f.mn) by rw [Bool.eq_iff_iff]; simp; omega]

theorem exec_bits {i : Instr} {F : Fields} {s : State} (hwf : i.wf = true) (hF : i.fields? = some F) (hmaj : F.maj = 0x04) (hmn : F.mn ≠ 7) :
    exec i s = .next (xBits F s) := by
  rw [exec_eq_meaning s hF hwf]
  simp [meaning, hmaj]

theorem held_zero (w : Nat) (z : Bool) : Claims.held w z 0 = 0 := by
  cases z <;> simp [Claims.held, BitVec.signExtend]

section
variable (F : Fields) (g : Group) (x : Thread)

theorem bitsVal_clz (h : F.mn = 0) : bitsVal F g x = BitVec.ofNat 64 (Claims.clz ((F.opA (F.ty == 1) g x).setWidth (Claims.widthOf F.ty))) := by
  simp only [bitsVal, h, leadZeros_eq_clz, typeBits_eq_widthOf]
  rfl

theorem bitsVal_popc (h : F.mn = 1) : bitsVal F g x = BitVec.ofNat 64 (Claims.popc ((F.opA (F.ty == 1) g x).setWidth (Claims.widthOf F.ty))) := by
  simp only [bitsVal, h, popcount_eq_popc, typeBits_eq_widthOf]
  rfl

theorem bitsVal_brev (h : F.mn = 2) : bitsVal F g x = ((F.opA (F.ty == 1) g x).setWidth (Claims.widthOf F.ty)).reverse.setWidth 64 := by
  simp only [bitsVal, h, brev_eq_reverse, typeBits_eq_widthOf]
  rfl

theorem bitsVal_bfx (h : F.mn = 3) : bitsVal F g x =
    Claims.held (Claims.widthOf F.ty) F.z (Claims.intOf (Claims.fieldLen (Claims.widthOf F.ty) (F.opB false g x)) F.z
      (((F.opA (F.ty == 1) g x).setWidth (Claims.widthOf F.ty) >>> ((F.opB false g x).extractLsb' 0 8).toNat).setWidth 64)) := by
  have hw := widthOf_cases F.ty
  simp only [bitsVal, h, typeBits_eq_widthOf]
  rcases bitField_cases (Claims.widthOf F.ty) (F.opB false g x) with ⟨hnone, hlen⟩ | ⟨hsome, -, hend⟩
  · rw [hnone, hlen]
    have zero (v : DWord) : Claims.intOf 0 F.z v = 0 := by cases hz : F.z <;> simp [Claims.intOf]
    rw [zero]
    exact (held_zero _ _).symm
  · rw [hsome]
    dsimp only
    rw [intOf_field _ F.z hend (widthOf_le F.ty), writeInt_eq_held hw]
    rfl

theorem bitsVal_bfi (h : F.mn = 4) (ht : F.ty = 0 ∨ F.ty = 1) : bitsVal F g x =
    (let w := Claims.widthOf F.ty
     let mask : BitVec w := (BitVec.allOnes (Claims.fieldLen w (F.opB false g x))).setWidth w <<< ((F.opB false g x).extractLsb' 0 8).toNat
     (((F.opC (F.ty == 1) g x).setWidth w &&& ~~~mask) |||
       (((F.opA (F.ty == 1) g x).setWidth w <<< ((F.opB false g x).extractLsb' 0 8).toNat) &&& mask)).setWidth 64) := by
  have hc : (F.opC (F.ty == 1) g x).toNat < 2 ^ Claims.widthOf F.ty := by
    rcases ht with ht | ht <;> rw [ht]
    · exact opC_lt F g x
    · exact BitVec.isLt _
  simp only [bitsVal, h, typeBits_eq_widthOf]
  rcases bitField_cases (Claims.widthOf F.ty) (F.opB false g x) with ⟨hnone, hlen⟩ | ⟨hsome, -, hend⟩
  · rw [hnone, hlen]
    exact empty_mask _ _ hc
  · rw [hsome]
    exact insert_eq_mask _ _ hend hc

theorem bitsVal_iabs (h : F.mn = 5) : bitsVal F g x =
    (let r : Int := ((F.opA (F.ty == 1) g x).setWidth (Claims.widthOf F.ty)).toInt.natAbs
     Claims.held (Claims.widthOf F.ty) false (if F.sat then Claims.clamp (Claims.widthOf F.ty) false r else r)) := by
  simp only [bitsVal, h, typeBits_eq_widthOf, readInt_eq_intOf, satInt_eq_clamp, writeInt_eq_held (widthOf_cases F.ty)]
  rfl

theorem bitsVal_imad (h : 6 ≤ F.mn) : bitsVal F g x =
    (let v (y : DWord) : Int := Claims.intOf (Claims.widthOf F.ty) F.z y
     let r := v (F.opA (F.ty == 1) g x) * v (F.opB (F.ty == 1) g x) + v (F.opC (F.ty == 1) g x)
     Claims.held (Claims.widthOf F.ty) F.z (if F.sat then Claims.clamp (Claims.widthOf F.ty) F.z r else r)) := by
  obtain ⟨n, hn⟩ : ∃ n, F.mn = n + 6 := ⟨F.mn - 6, by omega⟩
  simp only [bitsVal, hn, typeBits_eq_widthOf, readInt_eq_intOf, satInt_eq_clamp, writeInt_eq_held (widthOf_cases F.ty)]
  rfl

theorem predVal_eq (h : F.mn < 5) : predVal F g x =
    [x.pred F.a && x.pred F.b, x.pred F.a || x.pred F.b, x.pred F.a ^^ x.pred F.b, !x.pred F.a, x.pred F.a].getD F.mn false := by
  have : F.mn = 0 ∨ F.mn = 1 ∨ F.mn = 2 ∨ F.mn = 3 ∨ F.mn = 4 := by omega
  rcases this with hm | hm | hm | hm | hm <;> simp [predVal, hm]

/-- PPACK's register, bit by bit (R97). -/
theorem ppackVal_bit {k : Nat} (hk : k < 32) : (loWord (ppackVal F g x)).getLsbD k =
    (decide (k < 16) && x.pred k && (F.opB false g x).getLsbD k) := by
  have all : (x.preds.toNat + 2 ^ 15).testBit k = if k < 15 then x.preds.getLsbD k else (1 : Nat).testBit (k - 15) := by
    have := Nat.testBit_two_pow_mul_add 1 x.preds.isLt k
    rw [Nat.mul_one, Nat.add_comm] at this
    exact this
  have mask : ((F.opB false g x).toNat % 65536).testBit k = (decide (k < 16) && (F.opB false g x).getLsbD k) :=
    Nat.testBit_mod_two_pow (F.opB false g x).toNat 16 k
  rw [ppackVal, loWord_eq_setWidth, BitVec.getLsbD_setWidth, BitVec.getLsbD_ofNat, Nat.testBit_and, all, mask, Thread.pred]
  by_cases h15 : k < 15
  · simp [hk, h15, show k < 64 by omega, show k < 16 by omega]
  · by_cases h16 : k < 16
    · have : k = 15 := by omega
      simp [this]
    · simp [h15, h16]

/-- PUNPK's predicates (R97). -/
theorem punpk_pred {k : Nat} (hk : k < 15) : (punpkOn F g x).pred k =
    if (F.opB false g x).getLsbD k then (F.opA false g x).getLsbD k else x.pred k := by
  simp only [Thread.pred, punpkOn, hk, if_true, BitVec.getLsbD_or, BitVec.getLsbD_and, BitVec.getLsbD_not, BitVec.getLsbD_extractLsb',
    decide_true, Bool.true_and, Nat.zero_add]
  cases (F.opB false g x).getLsbD k <;> simp

end

/-- The order of two operands as ICMP reads them, and whether they share a bit (R96). -/
theorem icmp_order (w : Nat) (z : Bool) (a b : DWord) :
    let lt := if z then (a.setWidth w).ult (b.setWidth w) else (a.setWidth w).slt (b.setWidth w)
    let eq := a.setWidth w == b.setWidth w
    let x := readInt w z a
    let y := readInt w z b
    decide (x = y) = eq ∧ decide (x < y) = lt ∧ decide (x ≤ y) = (lt || eq) ∧ decide (y < x) = !(lt || eq) ∧ decide (y ≤ x) = !lt := by
  intro lt eq x y
  have heq : decide (x = y) = eq := by
    rw [Bool.eq_iff_iff, decide_eq_true_eq, beq_iff_eq]
    simp only [x, y, readInt_eq_intOf]
    exact intOf_eq_iff w z a b
  have hlt : decide (x < y) = lt := by
    rw [Bool.eq_iff_iff, decide_eq_true_eq]
    simp only [x, y, readInt_eq_intOf]
    exact intOf_lt_iff w z a b
  rw [← heq, ← hlt]
  refine ⟨rfl, rfl, ?_, ?_, ?_⟩ <;> rw [Bool.eq_iff_iff] <;> simp <;> omega

theorem icmpVal_eq (F : Fields) (g : Group) (x : Thread) :
    let w := Claims.widthOf F.ty
    let a := (F.opA (F.ty == 1) g x).setWidth w
    let b := (F.opB (F.ty == 1) g x).setWidth w
    let lt := if F.z then a.ult b else a.slt b
    (F.mn = 0 → icmpVal F g x = (a == b)) ∧ (F.mn = 1 → icmpVal F g x = (a != b)) ∧ (F.mn = 2 → icmpVal F g x = lt) ∧
    (F.mn = 3 → icmpVal F g x = (lt || a == b)) ∧ (F.mn = 4 → icmpVal F g x = !(lt || a == b)) ∧ (F.mn = 5 → icmpVal F g x = !lt) ∧
    (F.mn = 6 → icmpVal F g x = (a &&& b != 0)) ∧ (7 ≤ F.mn → icmpVal F g x = (a &&& b == 0)) := by
  obtain ⟨heq, hlt, hle, hgt, hge⟩ := icmp_order (Claims.widthOf F.ty) F.z (F.opA (F.ty == 1) g x) (F.opB (F.ty == 1) g x)
  have hand := both_eq_zero_iff (Claims.widthOf F.ty) (F.opA (F.ty == 1) g x) (F.opB (F.ty == 1) g x)
  refine ⟨fun h => ?_, fun h => ?_, fun h => ?_, fun h => ?_, fun h => ?_, fun h => ?_, fun h => ?_, fun h => ?_⟩
  · simp only [icmpVal, h, typeBits_eq_widthOf, Fields.is64, heq]
  · simp only [icmpVal, h, typeBits_eq_widthOf, Fields.is64, decide_not, heq, bne]
  · simp only [icmpVal, h, typeBits_eq_widthOf, Fields.is64, hlt]
  · simp only [icmpVal, h, typeBits_eq_widthOf, Fields.is64, hle]
  · simp only [icmpVal, h, typeBits_eq_widthOf, Fields.is64, hgt]
  · simp only [icmpVal, h, typeBits_eq_widthOf, Fields.is64, hge]
  · simp only [icmpVal, h, typeBits_eq_widthOf, Fields.is64, decide_not, hand, bne]
    rfl
  · obtain ⟨n, hn⟩ : ∃ n, F.mn = n + 7 := ⟨F.mn - 7, by omega⟩
    simp only [icmpVal, hn, typeBits_eq_widthOf, Fields.is64, hand]
    rfl

/-- A register result whose acting threads all have a vector D leaves the groups alone. -/
theorem runValue_onlyThreads {s : State} {f : Fields} {own : Nat → Option Flt} (h : Calm s f own) {wide : Bool} {val : Group → Thread → DWord}
    (hv : ∀ tid ∈ s.guarded f, f.cd = false) : OnlyThreads s (s.runValue f own wide val) := by
  have only := State.runPlain_only h (fun tid t => f.toVec wide (val (s.group (gidOf tid)) t) t)
    (fun gid => f.toScal wide (val (s.group gid) (s.thread (s.pick (ofGroup (s.acting f own) gid)))))
  refine ⟨?_, only.outside⟩
  have groups : (s.runValue f own wide val).groups = s.groups := by
    rw [State.runValue, State.runPlain_calm h]
    simp only [State.advanceAll_groups, State.writeScalars, State.mapThreads_groups]
    refine Tab.mapKV_eq_self _ _ fun gid g => ?_
    split
    · obtain ⟨tid, ht, -⟩ := mem_groupsIn.1 (List.contains_iff_mem.1 ‹_›)
      rw [show f.toScal wide _ = [] by simp [Fields.toScal, hv tid ht]]
      rfl
    · rfl
  calc { s.runValue f own wide val with threads := s.threads }
      = { s.runValue f own wide val with threads := s.threads, groups := s.groups } := by rw [← groups]
    _ = s := only.rest

/-- PPACK has a vector D (R97). -/
theorem ppack_vector {s : State} {f : Fields} (calm : Calm s f State.noFault) (hmaj : f.maj = 0x06) (hmn : f.mn = 5) {tid : Nat}
    (ht : tid ∈ s.guarded f) : f.cd = false := by
  have hd := slotD_of_fieldsOk (fieldsOk_of_decodeFault (calm tid ht).1)
  simp only [opnds, hmaj, hmn, Slot.v1, slotOk] at hd
  cases hc : f.cd <;> simp_all

/-- Settles O3. -/
theorem bitAndPredicateResults : Obligations.BitAndPredicateResults := by
  refine ⟨⟨?bits, ?lea⟩, ?icmp, ?pred, ?ppack, ?punpk⟩
  case bits =>
    intro i F s hwf hF hmaj hmn calm
    refine ⟨_, exec_bits hwf hF hmaj hmn, ?_⟩
    rw [← bitsWide_eq]
    refine RegResult.congr (runValue_calm calm _ _ fun tid ht hw => bits_pair calm hmaj tid ht (Or.inl hw)) fun hne g x => ?_
    obtain ⟨tid, ht⟩ := List.exists_mem_of_ne_nil _ hne
    have types := bits_types hmaj (modOk_of_fieldsOk (fieldsOk_of_decodeFault (calm tid ht).1))
    dsimp only
    split
    · exact bitsVal_clz F g x ‹_›
    · exact bitsVal_popc F g x ‹_›
    · exact bitsVal_brev F g x ‹_›
    · exact bitsVal_bfx F g x ‹_›
    · rename_i hm
      exact bitsVal_bfi F g x hm (by simpa [hm, intTypes] using types)
    · exact bitsVal_iabs F g x ‹_›
    · exact bitsVal_imad F g x (by grind)
  case lea =>
    intro i F s hwf hF hmaj hmn calm
    refine ⟨_, (exec_eq_meaning s hF hwf).trans (congrArg _ (show meaning F s = xLea F s by simp [meaning, hmaj, hmn])), ?_⟩
    exact RegResult.congr (runValue_calm calm _ _ fun tid ht _ => bits_pair calm hmaj tid ht (Or.inr hmn)) fun _ g x => leaVal_eq F g x
  case icmp =>
    intro i F s hwf hF hmaj calm
    refine ⟨_, (exec_eq_meaning s hF hwf).trans (congrArg _ (show meaning F s = xIcmp F s by simp [meaning, hmaj])), ?_⟩
    refine PredResult.congr (runPred_calm calm _) fun g x => ?_
    obtain ⟨h0, h1, h2, h3, h4, h5, h6, h7⟩ := icmpVal_eq F g x
    dsimp only
    split
    · exact h0 ‹_›
    · exact h1 ‹_›
    · exact h2 ‹_›
    · exact h3 ‹_›
    · exact h4 ‹_›
    · exact h5 ‹_›
    · exact h6 ‹_›
    · exact h7 (by grind)
  case pred =>
    intro i F s hwf hF hmaj hmn calm
    have hx : meaning F s = xPred F s := by
      have : F.mn ≠ 5 ∧ F.mn ≠ 6 := by omega
      simp [meaning, hmaj, this.1, this.2]
    exact ⟨_, (exec_eq_meaning s hF hwf).trans (congrArg _ hx), PredResult.congr (runPred_calm calm _) fun g x => predVal_eq F g x hmn⟩
  case ppack =>
    intro i F s hwf hF hmaj hmn calm
    refine ⟨_, (exec_eq_meaning s hF hwf).trans (congrArg _ (show meaning F s = xPpack F s by simp [meaning, hmaj, hmn])), ?_⟩
    have res := runValue_calm calm false (ppackVal F) (by simp)
    refine ⟨?_, res.passes, fun tid x hx => ?_⟩
    · exact runValue_onlyThreads calm fun tid ht => ppack_vector calm hmaj hmn ht
    · obtain ⟨y, hy, hv, -⟩ := (res.vector (ppack_vector calm hmaj hmn ((State.mem_guarded hx.2.1).2 ⟨hx.1, hx.2.2⟩))).2 tid x hx
      exact ⟨y, hy, _, hv rfl, fun k hk => ppackVal_bit F _ x hk⟩
  case punpk =>
    intro i F s hwf hF hmaj hmn calm
    refine ⟨_, (exec_eq_meaning s hF hwf).trans (congrArg _ (show meaning F s = xPunpk F s by simp [meaning, hmaj, hmn])), ?_⟩
    refine ⟨State.runPlain_onlyThreads calm _, fun tid x hx => State.runPlain_passes calm _ _ hx, fun tid x hx => ?_⟩
    refine ⟨_, State.runPlain_acts calm _ _ hx, goesOn_framePreds rfl, fun k hk => ?_⟩
    rw [goesOn_pred]
    exact punpk_pred F _ x hk

end Machine
end Sys2Proof
end

section
/-! PROOFS. Exceptions caught by a handler (01 R14, R24, R25, 05 R100, R105, R106, 08 R149, 20 R347): the delivery of exceptions to threads whose handler catches them, the instruction that faults in every guarded thread, and the execution faults of MOVI, RET, JMPI, CALLI, ENTER and SWR. -/

namespace Sys2Proof
namespace Machine
open Sys2Proof.Safety

/-! FMASK: a sum of distinct powers of two has exactly their bits (R25). -/

theorem getLsbD_foldl_two_pow {α : Type} (lane : α → Nat) {l : List α} (hlt : ∀ t ∈ l, lane t < 32) (hne : l.Pairwise (fun a b => lane a ≠ lane b))
    (m : Nat) (hm : ∀ t ∈ l, (BitVec.ofNat 32 m).getLsbD (lane t) = false) (k : Nat) :
    (BitVec.ofNat 32 (l.foldl (fun m t => m + 2 ^ lane t) m)).getLsbD k = ((BitVec.ofNat 32 m).getLsbD k || l.any (fun t => lane t == k)) := by
  induction l generalizing m with
  | nil => simp
  | cons t l ih =>
    obtain ⟨hne1, hne2⟩ := List.pairwise_cons.1 hne
    obtain ⟨hm1, hm2⟩ := List.forall_mem_cons.1 hm
    have ht : lane t < 32 := hlt t List.mem_cons_self
    have step : BitVec.ofNat 32 (m + 2 ^ lane t) = BitVec.ofNat 32 m ||| BitVec.twoPow 32 (lane t) := by
      rw [BitVec.ofNat_add, ← BitVec.add_eq_or_of_and_eq_zero]
      · congr 1
        exact BitVec.eq_of_toNat_eq (by simp [BitVec.toNat_twoPow])
      · simp [BitVec.and_twoPow, hm1]
    have bit (j : Nat) : (BitVec.ofNat 32 (m + 2 ^ lane t)).getLsbD j = ((BitVec.ofNat 32 m).getLsbD j || (lane t == j)) := by
      rw [step, BitVec.getLsbD_or, BitVec.getLsbD_twoPow, Bool.eq_iff_iff]
      simp [ht]
    rw [List.foldl_cons, ih (fun u hu => hlt u (List.mem_cons_of_mem _ hu)) hne2, bit, List.any_cons, Bool.or_assoc]
    intro u hu
    rw [bit, hm2 u hu, Bool.false_or, beq_eq_false_iff_ne]
    exact hne1 u hu

theorem eraseDups_of_nodup {l : List Nat} (h : l.Nodup) : l.eraseDups = l := by
  induction l with
  | nil => rfl
  | cons a l ih =>
    obtain ⟨ha, hl⟩ := List.nodup_cons.1 h
    have : l.filter (fun b => !b == a) = l := List.filter_eq_self.2 fun b hb => by
      have : b ≠ a := fun e => ha (e ▸ hb)
      simp [this]
    rw [List.eraseDups_cons, this, ih hl]

/-- FMASK of faults in distinct threads: the lanes of the thread's half that faulted. -/
theorem faultMask_bit {rs : List Raised} (h : (rs.map (·.tid)).Nodup) (tid l : Nat) :
    (State.faultMask rs tid).getLsbD l = (rs.map (·.tid)).any (fun u => u / 64 == tid / 64 && u % 64 / 32 == tid % 64 / 32 && u % 32 == l) := by
  have small (t : Nat) : laneOf t % 32 = t % 32 := by simp only [laneOf]; omega
  have apart : ((rs.map (·.tid)).filter (fun t => gidOf t == gidOf tid && laneOf t / 32 == laneOf tid / 32)).Pairwise
      (fun a b => laneOf a % 32 ≠ laneOf b % 32) := by
    refine (h.filter _).imp_of_mem fun {a b} ha hb hab he => hab ?_
    simp only [List.mem_filter, Bool.and_eq_true, beq_iff_eq, gidOf, laneOf] at ha hb he
    omega
  rw [State.faultMask, eraseDups_of_nodup (h.filter _),
    getLsbD_foldl_two_pow (fun t => laneOf t % 32) (fun t _ => Nat.mod_lt _ (by omega)) apart 0 (by simp) l]
  simp only [BitVec.getLsbD_zero, Bool.false_or, List.any_filter, small]
  rfl

/-! One exception taken by a handler (R347). -/

/-- The codes of the exceptions that a handler alone takes: they name neither the stub nor the end of a team (R350). -/
abbrev plainCode (c : Byte) : Prop := c ≠ codeUncorrectable ∧ c ≠ codeSdc ∧ c ≠ codeLease ∧ c ≠ codeContextReset ∧ c ≠ codeLinkUnbound

/-- Thread `x` with fault `r` recorded, at the handler. -/
def Thread.caught (x : Thread) (r : Raised) (pc resume : Ptr) (mask : Word) (now : Nat) (handler : Ptr) : Thread :=
  (x.record r pc mask).enter now .fault resume handler

namespace State

theorem mapThreads_mapThreads (s : State) (f g : Nat → Thread → Thread) :
    (s.mapThreads f).mapThreads g = s.mapThreads (fun tid x => g tid (f tid x)) := by
  simp only [mapThreads, Tab.mapKV, List.map_map, Function.comp_def]

theorem modThread_eq_mapThreads (s : State) (tid : Nat) (f : Thread → Thread) :
    s.modThread tid f = s.mapThreads (fun u x => if u = tid then f x else x) := rfl

theorem modThread_modThread (s : State) (tid : Nat) (f g : Thread → Thread) :
    (s.modThread tid f).modThread tid g = s.modThread tid (fun x => g (f x)) := by
  rw [modThread_eq_mapThreads, modThread_eq_mapThreads, modThread_eq_mapThreads, mapThreads_mapThreads]
  congr 1
  funext u x
  split <;> rfl

theorem modThread_thread_of_ne (s : State) (f : Thread → Thread) {tid u : Nat} (h : u ≠ tid) : (s.modThread tid f).thread u = s.thread u := by
  simp [thread, Tab.getD, modThread, h]

theorem modThread_slotF (s : State) (tid : Nat) {f : Thread → Thread} (hf : ∀ x, (f x).slotF = x.slotF) :
    ((s.modThread tid f).thread tid).slotF = (s.thread tid).slotF := by
  simp only [thread, Tab.getD, modThread, Tab.get?_modify, if_true]
  cases s.threads.get? tid
  · rfl
  · exact hf _

theorem deliver_caught {s : State} {r : Raised} (h : Claims.Catches s r.tid) (hc : plainCode r.code) (pc resume : Ptr) (mask : Word) :
    s.deliver r pc resume mask = s.modThread r.tid (fun x => x.caught r pc resume mask s.cycle (s.handler (gidOf r.tid))) := by
  obtain ⟨hplace, hending, hthnd, hslot, hspec⟩ := h
  obtain ⟨h1, h2, h3, h4, h5⟩ := hc
  have slot : ((s.modThread r.tid (fun t => t.record r pc mask)).thread r.tid).slotF = none :=
    (modThread_slotF s r.tid (f := fun t => t.record r pc mask) (fun _ => rfl)).trans hslot
  have hover : (s.modThread r.tid (fun t => t.record r pc mask)).teamOver (teamOf (gidOf r.tid)) = false := by
    simp only [teamOver, Bool.or_eq_false_iff, decide_eq_false_iff_not]
    exact ⟨hplace, by show (s.teamAt (gidOf r.tid)).ending.isSome = false; rw [hending]; rfl⟩
  have thnd : ((s.modThread r.tid (fun t => t.record r pc mask)).group (gidOf r.tid)).thnd ≠ 0 := hthnd
  simp only [deliver, hspec, Bool.false_and, Bool.false_eq_true, if_false, take, hover, h1, h2, h3, h4, h5, or_self, slot, thnd,
    Option.isSome_none]
  exact modThread_modThread s r.tid _ _

/-- Thread `tid` after the faults of `rs` are caught in state `s`: only the thread's own counts. -/
def caughtBy (rs : List Raised) (mask : Nat → Word) (s : State) (tid : Nat) (x : Thread) : Thread :=
  match rs.find? (fun r => r.tid == tid) with
  | none => x
  | some r => x.caught r s.issue.pc (s.resumeOf r) (mask tid) s.cycle (s.handler (gidOf tid))

theorem caughtBy_of_none {rs : List Raised} {tid : Nat} (h : ∀ r ∈ rs, r.tid ≠ tid) (mask : Nat → Word) (s : State) (x : Thread) :
    caughtBy rs mask s tid x = x := by
  rw [caughtBy, List.find?_eq_none.2 fun r hr => by simpa using h r hr]

theorem caughtBy_cons_self (r : Raised) (rs : List Raised) (mask : Nat → Word) (s : State) (x : Thread) :
    caughtBy (r :: rs) mask s r.tid x = x.caught r s.issue.pc (s.resumeOf r) (mask r.tid) s.cycle (s.handler (gidOf r.tid)) := by
  simp [caughtBy]

theorem caughtBy_cons_of_ne {r : Raised} {tid : Nat} (h : tid ≠ r.tid) (rs : List Raised) (mask : Nat → Word) (s : State) (x : Thread) :
    caughtBy (r :: rs) mask s tid x = caughtBy rs mask s tid x := by
  simp [caughtBy, show (r.tid == tid) = false by simpa using h.symm]

theorem caughtBy_of_mem {rs : List Raised} (hnd : (rs.map (·.tid)).Nodup) {r : Raised} (h : r ∈ rs) (mask : Nat → Word) (s : State) (x : Thread) :
    caughtBy rs mask s r.tid x = x.caught r s.issue.pc (s.resumeOf r) (mask r.tid) s.cycle (s.handler (gidOf r.tid)) := by
  induction rs with
  | nil => cases h
  | cons q rs ih =>
    obtain ⟨hnot, hnd⟩ := List.nodup_cons.1 hnd
    rcases List.mem_cons.1 h with rfl | h
    · exact caughtBy_cons_self r rs mask s x
    · have : r.tid ≠ q.tid := fun e => hnot (List.mem_map.2 ⟨r, h, e⟩)
      rw [caughtBy_cons_of_ne this, ih hnd h]

/-- The faults of distinct threads, each caught: every such thread is at its handler with its record. -/
theorem foldl_deliver_caught (mask : Nat → Word) {rs : List Raised} (hnd : (rs.map (·.tid)).Nodup) {s : State}
    (h : ∀ r ∈ rs, Claims.Catches s r.tid ∧ plainCode r.code) :
    rs.foldl (fun s r => s.deliver r s.issue.pc (s.resumeOf r) (mask r.tid)) s = s.mapThreads (caughtBy rs mask s) := by
  induction rs generalizing s with
  | nil =>
    have : s.threads.mapKV (caughtBy [] mask s) = s.threads := Tab.mapKV_eq_self _ _ fun _ _ => rfl
    simp [mapThreads, this]
  | cons r rs ih =>
    obtain ⟨hr, hrs⟩ := List.forall_mem_cons.1 h
    obtain ⟨hnot, hnd⟩ := List.nodup_cons.1 hnd
    have other (q : Raised) (hq : q ∈ rs) : q.tid ≠ r.tid := fun e => hnot (List.mem_map.2 ⟨q, hq, e⟩)
    rw [List.foldl_cons, deliver_caught hr.1 hr.2, ih hnd]
    · rw [modThread_eq_mapThreads, mapThreads_mapThreads]
      congr 1
      funext tid x
      by_cases ht : tid = r.tid
      · subst ht
        rw [caughtBy_of_none other, caughtBy_cons_self, if_pos rfl]
      · rw [caughtBy_cons_of_ne ht, if_neg ht]
        rfl
    · intro q hq
      obtain ⟨⟨hplace, hending, hthnd, hslot, hspec⟩, hcode⟩ := hrs q hq
      exact ⟨⟨hplace, hending, hthnd, by rw [modThread_thread_of_ne s _ (other q hq)]; exact hslot, hspec⟩, hcode⟩

theorem deliverAll_caught {rs : List Raised} (hnd : (rs.map (·.tid)).Nodup) {s : State}
    (h : ∀ r ∈ rs, Claims.Catches s r.tid ∧ plainCode r.code) : s.deliverAll rs = s.mapThreads (caughtBy rs (faultMask rs) s) :=
  foldl_deliver_caught (faultMask rs) hnd h

end State

theorem segOf_mkPtr (seg off : Nat) : segOf (mkPtr seg off) = seg % 2 ^ 20 := by
  simp only [segOf, mkPtr, BitVec.toNat_ushiftRight, BitVec.toNat_ofNat, Nat.shiftRight_eq_div_pow]
  omega

theorem offOf_mkPtr (seg off : Nat) : offOf (mkPtr seg off) = off % 2 ^ 44 := by
  simp only [offOf, mkPtr, BitVec.toNat_ofNat]
  omega

/-- What a caught thread keeps. -/
theorem Thread.caught_frame (x : Thread) (r : Raised) (pc resume handler : Ptr) (mask : Word) (now : Nat) :
    { x.caught r pc resume mask now handler with
      fcode := x.fcode, fpc := x.fpc, faddrHi := x.faddrHi, faddrLo := x.faddrLo, fmask := x.fmask, faux := x.faux, pc := x.pc,
      slotF := x.slotF, rpc := x.rpc, wait := x.wait, inRep := x.inRep, pair := x.pair, released := x.released,
      idleTicks := x.idleTicks } = x := by
  cases x
  rfl

/-- The record, the slot and the handler of a caught thread are as R24, R25 and R347 say. -/
theorem trapped_caught {s : State} {x : Thread} {tid : Nat} {code : Byte} {addr : DWord} {aux : Word} {who : List Nat} {pc resume : Ptr} {mask : Word}
    (hmask : ∀ l, l < 32 → mask.getLsbD l = who.any (fun u => u / 64 == tid / 64 && u % 64 / 32 == tid % 64 / 32 && u % 32 == l)) :
    Claims.Trapped s x (x.caught ⟨tid, code, addr, aux⟩ pc resume mask s.cycle (s.handler (gidOf tid))) tid code addr aux who pc resume where
  fcode := by
    have small : code.toNat < 256 := code.isLt
    apply BitVec.eq_of_toNat_eq
    show (BitVec.ofNat 32 (0x100 + code.toNat)).toNat = _
    have : (0x100 : Nat) + code.toNat = 0x100 ||| code.toNat := Nat.two_pow_add_eq_or_of_lt (i := 8) small 1
    rw [BitVec.toNat_ofNat, BitVec.toNat_or, BitVec.toNat_setWidth, Nat.mod_eq_of_lt (by omega), Nat.mod_eq_of_lt (by omega), this]
    rfl
  fpc := rfl
  faddr := ofWords_hi_lo addr
  fmask := hmask
  faux := rfl
  at_ := by
    have small : (s.group (gidOf tid)).thnd.toNat < 2 ^ 32 := BitVec.isLt _
    show segOf (s.handler (gidOf tid)) = _ ∧ offOf (s.handler (gidOf tid)) = _
    rw [State.handler, segOf_mkPtr, offOf_mkPtr]
    exact ⟨rfl, Nat.mod_eq_of_lt (by omega)⟩
  slot := ⟨_, rfl, rfl, rfl, rfl, rfl, rfl, rfl, fun h => by simp only [Thread.record, h]; rfl⟩
  rpc := ⟨rfl, rfl, rfl, rfl⟩
  frame := Thread.caught_frame x _ pc resume _ mask _

/-! An instruction that every guarded thread faults on: it has no effect, whatever it is (R85, R149). -/

namespace State

/-- The threads whose guard is false go on, and the faults are delivered. -/
def faulted (s : State) (f : Fields) (own : Nat → Option Flt) : State := (s.advanceAll (s.unguarded f)).deliverAll (s.raisedBy f own)

section
variable {s : State} {f : Fields} {own : Nat → Option Flt} (h : ∀ tid ∈ s.guarded f, (s.faultOf f own tid).isSome)
include h

theorem raisedBy_tids : (s.raisedBy f own).map (·.tid) = s.guarded f := by
  unfold raisedBy
  generalize s.guarded f = ts at h
  induction ts with
  | nil => rfl
  | cons t ts ih =>
    obtain ⟨ht, hts⟩ := List.forall_mem_cons.1 h
    obtain ⟨e, he⟩ := Option.isSome_iff_exists.1 ht
    simp [he, ih hts]

theorem acting_faulted : s.acting f own = [] := by
  rw [acting, raisedBy_tids h]
  exact List.filter_eq_nil_iff.2 fun t ht => by simp [ht]

theorem runPlain_faulted (act : Nat → Thread → Thread) (scal : Nat → List (Nat × Word)) : s.runPlain f own act scal = s.faulted f own := by
  have groups : s.groups.mapKV (fun k g => if (groupsIn []).contains k then g.setSregs (scal k) else g) = s.groups :=
    Tab.mapKV_eq_self _ _ fun _ _ => rfl
  have threads : s.threads.mapKV (fun tid t => if ([] : List Nat).contains tid then act tid t else t) = s.threads :=
    Tab.mapKV_eq_self _ _ fun _ _ => rfl
  simp only [runPlain, acting_faulted h, List.append_nil, mapThreads, threads, writeScalars, groups, faulted]

theorem runState_faulted (eff : List Nat → State → State) : s.runState f own eff = s.faulted f own := by
  simp only [runState, acting_faulted h, List.append_nil, if_true, faulted]

theorem runFlow_faulted (eff : List Nat → State → State) : s.runFlow f own eff = s.faulted f own := by
  simp only [runFlow, acting_faulted h, if_true, faulted]

end

theorem catches_advanceAll {s : State} {tid : Nat} (h : Claims.Catches s tid) (ts : List Nat) : Claims.Catches (s.advanceAll ts) tid := by
  obtain ⟨hplace, hending, hthnd, hslot, hspec⟩ := h
  refine ⟨hplace, hending, hthnd, ?_, hspec⟩
  rw [← hslot]
  simp only [thread, Tab.getD, advanceAll_get?]
  cases s.threads.get? tid with
  | none => rfl
  | some x =>
    simp only [Option.map_some, Option.getD_some, goesOn]
    split <;> simp

/-- Where every thread with a true guard faults and is caught, each takes exactly its exception and the others of the bundle go on. -/
theorem faulted_traps {s : State} {F : Fields} {own : Nat → Option Flt} (hnd : s.issue.threads.Nodup)
    (hcatch : ∀ tid ∈ s.guarded F, Claims.Catches s tid) (hf : ∀ tid ∈ s.guarded F, ∃ e, s.faultOf F own tid = some e ∧ plainCode e.code) :
    OnlyThreads s (s.faulted F own) ∧
    (∀ tid x, Passes s F tid x → (s.faulted F own).threads.get? tid = some (goesOn s x)) ∧
    ∀ tid x e, Acts s F tid x → s.faultOf F own tid = some e → ∃ y, (s.faulted F own).threads.get? tid = some y ∧
      Claims.Trapped s x y tid e.code e.addr e.aux (s.guarded F) s.issue.pc (if e.code = codeTrap then s.issue.next else s.issue.pc) := by
  have some_ : ∀ tid ∈ s.guarded F, (s.faultOf F own tid).isSome := fun tid ht => by
    obtain ⟨e, he, -⟩ := hf tid ht
    simp [he]
  have tids := raisedBy_tids some_
  have nodup : ((s.raisedBy F own).map (·.tid)).Nodup := by
    rw [tids]
    exact hnd.filter _
  have shape : s.faulted F own = (s.advanceAll (s.unguarded F)).mapThreads
      (caughtBy (s.raisedBy F own) (faultMask (s.raisedBy F own)) (s.advanceAll (s.unguarded F))) := by
    refine deliverAll_caught nodup fun r hr => ?_
    obtain ⟨tid, ht, hr⟩ := List.mem_filterMap.1 hr
    obtain ⟨e, he, hplain⟩ := hf tid ht
    rw [he, Option.map_some, Option.some.injEq] at hr
    subst hr
    exact ⟨catches_advanceAll (hcatch tid ht) _, hplain⟩
  have thread (tid : Nat) : (s.faulted F own).threads.get? tid = (s.threads.get? tid).map (fun x =>
      caughtBy (s.raisedBy F own) (faultMask (s.raisedBy F own)) (s.advanceAll (s.unguarded F)) tid
        (if tid ∈ s.unguarded F then goesOn s x else x)) := by
    rw [shape, mapThreads_threads, Tab.get?_mapKV, advanceAll_get?, Option.map_map]
    rfl
  have apart (tid : Nat) (h : tid ∉ s.guarded F) : ∀ r ∈ s.raisedBy F own, r.tid ≠ tid := fun r hr e =>
    h (by rw [← tids]; exact List.mem_map.2 ⟨r, hr, e⟩)
  refine ⟨⟨?_, fun tid ht => ?_⟩, fun tid x hx => ?_, fun tid x e hx he => ?_⟩
  · rw [shape]
    rfl
  · have hg : tid ∉ s.guarded F := fun h => ht (List.mem_filter.1 h).1
    have hu : tid ∉ s.unguarded F := fun h => ht (List.mem_filter.1 h).1
    rw [thread]
    simp [caughtBy_of_none (apart tid hg), hu]
  · have hg : tid ∉ s.guarded F := fun h => by simpa [hx.2.2] using ((mem_guarded hx.2.1).1 h).2
    rw [thread, hx.2.1, Option.map_some, caughtBy_of_none (apart tid hg), if_pos ((mem_unguarded hx.2.1).2 ⟨hx.1, hx.2.2⟩)]
  · have hg : tid ∈ s.guarded F := (mem_guarded hx.2.1).2 ⟨hx.1, hx.2.2⟩
    have hu : tid ∉ s.unguarded F := fun h => by simpa [hx.2.2] using ((mem_unguarded hx.2.1).1 h).2
    have hr : (⟨tid, e.code, e.addr, e.aux⟩ : Raised) ∈ s.raisedBy F own :=
      List.mem_filterMap.2 ⟨tid, hg, by rw [he]; rfl⟩
    have caught := caughtBy_of_mem nodup hr (faultMask (s.raisedBy F own)) (s.advanceAll (s.unguarded F)) x
    refine ⟨_, by rw [thread, hx.2.1, Option.map_some, if_neg hu], ?_⟩
    rw [caught]
    refine trapped_caught fun l _ => ?_
    rw [faultMask_bit nodup, tids]

end State

/-! The four instructions' own faults (R14, R100, R105, R106). -/

/-- What an instruction that all its guarded threads fault on of its own leaves. -/
theorem own_traps {s : State} {F : Fields} {own : Nat → Option Flt} {code : Byte} {addr : Nat → DWord} {aux : Nat → Word}
    (calm : Calm s F State.noFault) (hnd : s.issue.threads.Nodup) (hcatch : ∀ tid ∈ s.guarded F, Claims.Catches s tid) (hcode : plainCode code)
    (htrap : code ≠ codeTrap) (hown : ∀ tid ∈ s.guarded F, own tid = some ⟨code, addr tid, aux tid⟩) :
    (∀ tid ∈ s.guarded F, (s.faultOf F own tid).isSome) ∧ OnlyThreads s (s.faulted F own) ∧
    (∀ tid x, Passes s F tid x → (s.faulted F own).threads.get? tid = some (goesOn s x)) ∧
    ∀ tid x, Acts s F tid x → ∃ y, (s.faulted F own).threads.get? tid = some y ∧
      Claims.Trapped s x y tid code (addr tid) (aux tid) (s.guarded F) s.issue.pc s.issue.pc := by
  have fault : ∀ tid ∈ s.guarded F, s.faultOf F own tid = some ⟨code, addr tid, aux tid⟩ := fun tid ht => by
    rw [State.faultOf, (calm tid ht).1]
    exact hown tid ht
  obtain ⟨only, passes, acts⟩ := State.faulted_traps hnd hcatch fun tid ht => ⟨_, fault tid ht, hcode⟩
  refine ⟨fun tid ht => by simp [fault tid ht], only, passes, fun tid x hx => ?_⟩
  obtain ⟨y, hy, trapped⟩ := acts tid x _ hx (fault tid (acts_mem hx))
  exact ⟨y, hy, by simpa [htrap] using trapped⟩

theorem moviFault_of_pastCap {F : Fields} {s : State} {tid : Nat} (h : Claims.PastCap F s tid) :
    moviFault F s tid = some ⟨codeRegBounds, 0, Claims.moviAux F s⟩ := by
  obtain ⟨-, -, hcap⟩ := h
  exact if_pos (by simp only [moviIndex]; omega)

theorem flowFault_of_misaligned {F : Fields} {s : State} {tid : Nat} (h : (Claims.valueA F s tid).extractLsb' 0 2 ≠ 0) :
    flowFault F s tid = some ⟨codeMisaligned, mkPtr (segOf s.issue.self) (Claims.valueA F s tid).toNat, 0x12⟩ :=
  if_pos (bne_iff_ne.2 h)

theorem enterFault_of_low {F : Fields} {s : State} {tid : Nat}
    (h : (s.thread tid).reg 31 < F.x ∨ (s.thread tid).reg 31 - F.x < (s.thread tid).stklim) :
    enterFault F s tid = some ⟨codeStackLimit, 0, (s.thread tid).reg 31 - F.x⟩ :=
  if_pos h

/-- Settles O12: where all guarded threads fault the instruction is its faults, and each is caught. -/
theorem executionFaultsAreTaken : Obligations.ExecutionFaultsAreTaken := by
  intro i F s code addr aux hwf hF calm hnd hcatch hcases
  have exec_of (t : State) (h : meaning F s = t) : exec i s = .next t := (exec_eq_meaning s hF hwf).trans (congrArg _ h)
  have traps (own : Nat → Option Flt) := own_traps (own := own) (code := code) (addr := addr) (aux := aux) calm hnd hcatch
  rcases hcases with ⟨hmaj, hmn, hcode, haddr, hall⟩ | ⟨hmaj, hmn, hcode, haddr, hall⟩ | ⟨hmaj, hmn, hcode, haddr, hall⟩ | ⟨hmaj, hmn, hcode, haddr, hall⟩
  case inl =>
    have hx : meaning F s = xMovi F s := by simp [meaning, hmaj, hmn]
    obtain ⟨all, traps⟩ := traps (moviFault F s) (by rw [hcode]; decide) (by rw [hcode]; decide) fun tid ht => by
      rw [moviFault_of_pastCap (hall tid ht), (haddr tid).1, (haddr tid).2, hcode]
      rfl
    exact ⟨_, exec_of _ (hx.trans (State.runPlain_faulted all _ _)), traps⟩
  case inr.inl =>
    obtain ⟨all, traps⟩ := traps (flowFault F s) (by rw [hcode]; decide) (by rw [hcode]; decide) fun tid ht => by
      rw [flowFault_of_misaligned (hall tid ht), (haddr tid).1, (haddr tid).2, hcode]
      rfl
    have : F.mn = 0 ∨ F.mn = 1 ∨ F.mn = 2 := by omega
    refine ⟨_, exec_of _ ?_, traps⟩
    rcases this with hm | hm | hm
    · rw [show meaning F s = xRet F s by simp [meaning, hmaj, hm]]
      exact State.runFlow_faulted all _
    · rw [show meaning F s = xJmpi F s by simp [meaning, hmaj, hm]]
      exact State.runFlow_faulted all _
    · rw [show meaning F s = xCalli F s by simp [meaning, hmaj, hm]]
      exact State.runFlow_faulted all _
  case inr.inr.inl =>
    have hx : meaning F s = xEnter F s := by simp [meaning, hmaj, hmn]
    obtain ⟨all, traps⟩ := traps (enterFault F s) (by rw [hcode]; decide) (by rw [hcode]; decide) fun tid ht => by
      rw [enterFault_of_low (hall tid ht), (haddr tid).1, (haddr tid).2, hcode]
      rfl
    exact ⟨_, exec_of _ (hx.trans (State.runPlain_faulted all _ _)), traps⟩
  case inr.inr.inr =>
    have plain : plainCode code ∧ code ≠ codeTrap := by rw [hcode]; decide
    by_cases hb : F.b = 0x18
    · have none (tid : Nat) (ht : tid ∈ s.guarded F) : False := by
        have := hall tid ht
        simp [Claims.zeroBits, hb] at this
      obtain ⟨all, traps⟩ := traps State.noFault plain.1 plain.2 fun tid ht => (none tid ht).elim
      exact ⟨_, exec_of _ ((meaning_thnd s hmaj hmn hb).trans (State.runState_faulted all _)), traps⟩
    · obtain ⟨all, traps⟩ := traps (fun tid => swrFault F (swrVal F s tid)) plain.1 plain.2 fun tid ht => by
        have hz : Claims.zeroBits F.b (swrVal F s tid) = false := hall tid ht
        rw [swrFault_eq, hz, (haddr tid).1, (haddr tid).2, hcode]
        rfl
      refine ⟨_, exec_of _ ?_, traps⟩
      rw [meaning_swr s hmaj hmn hb, xSwr]
      exact State.runState_faulted all _

end Machine
end Sys2Proof
end

section
/-! PROOFS. Decoding faults (01 R24, R25, 04 R85, 08 R149, R150, 11 R198, 20 R347): the faults of its own that each row has are never a REG_BOUNDS but for MOVI and YIELD, and where every guarded thread meets a decoding fault the row is the delivery of the faults. -/

namespace Sys2Proof
namespace Machine
open Sys2Proof.Safety

/-! The faults of their own that leave GEN_CONFIG before them: all but MOVI's and YIELD's REG_BOUNDS (R198). -/

/-- A fault, if there is one, that is not REG_BOUNDS. -/
def Mild (o : Option Flt) : Prop := ∀ x ∈ o, x.code ≠ codeRegBounds

theorem mild_none : Mild none := nofun

theorem mild_some {x : Flt} (h : x.code ≠ codeRegBounds) : Mild (some x) := by simpa [Mild] using h

theorem mild_flt {code : Byte} {addr : DWord} {aux : Word} (h : code ≠ codeRegBounds) : Mild (some ⟨code, addr, aux⟩) := mild_some h

theorem mild_ite {c : Prop} [Decidable c] {a b : Option Flt} (ha : Mild a) (hb : Mild b) : Mild (if c then a else b) := by
  split
  · exact ha
  · exact hb

theorem mild_map {α : Type} {o : Option α} {code : Byte} {addr : DWord} {aux : α → Word} (h : code ≠ codeRegBounds) :
    Mild (o.map (fun a => ⟨code, addr, aux a⟩)) := by
  intro x hx
  obtain ⟨a, -, rfl⟩ := Option.map_eq_some_iff.1 hx
  exact h

theorem mild_orElse {a : Option Flt} {b : Unit → Option Flt} (ha : Mild a) (hb : Mild (b ())) : Mild (a.orElse b) := by
  cases a with
  | none => exact hb
  | some x => exact ha

/-- What an access check answers, where it is not REG_BOUNDS. -/
def Checked.NoBounds : Checked → Prop
  | .ok _ _ => True
  | .bad c _ => c ≠ codeRegBounds

theorem noBounds_ite {p : Prop} [Decidable p] {a b : Checked} (ha : a.NoBounds) (hb : b.NoBounds) : (if p then a else b).NoBounds := by
  split
  · exact ha
  · exact hb

/-- An access check never answers REG_BOUNDS (R233). -/
theorem checkAl_noBounds (s : State) (a : Agent) (ea : Ptr) (n : Nat) (mis : Bool) (size : Nat) (kind : Kind) :
    (s.checkAl a ea n mis size kind).NoBounds := by
  have bad (c : Byte) (x : Word) (h : c ≠ codeRegBounds) : (Checked.bad c x).NoBounds := h
  unfold State.checkAl
  refine noBounds_ite (bad _ _ (by decide)) (noBounds_ite (bad _ _ (by decide)) (noBounds_ite (bad _ _ (by decide))
    (noBounds_ite (bad _ _ (by decide)) (noBounds_ite (bad _ _ (by decide)) ?_))))
  dsimp only
  split
  · exact bad _ _ (by decide)
  · exact noBounds_ite trivial (noBounds_ite (bad _ _ (by decide)) (noBounds_ite (bad _ _ (by decide))
      (noBounds_ite (bad _ _ (by decide)) (noBounds_ite (bad _ _ (by decide)) trivial))))

theorem checkAl_code {s : State} {a : Agent} {ea : Ptr} {n size : Nat} {mis : Bool} {kind : Kind} {c : Byte} {x : Word}
    (h : s.checkAl a ea n mis size kind = .bad c x) : c ≠ codeRegBounds := by
  have := checkAl_noBounds s a ea n mis size kind
  rwa [h] at this

/-- Choosing among answers keeps to them. -/
theorem noBounds_foldl {pick : Checked → Checked → Checked} (hpick : ∀ r q, r.NoBounds → q.NoBounds → (pick r q).NoBounds) {l : List Checked}
    (hl : ∀ q ∈ l, q.NoBounds) {r : Checked} (hr : r.NoBounds) : (l.foldl pick r).NoBounds := by
  induction l generalizing r with
  | nil => exact hr
  | cons q l ih =>
    obtain ⟨hq, hl⟩ := List.forall_mem_cons.1 hl
    exact ih hl (hpick r q hr hq)

/-- Nor does the check of an access that may cross a page (R225). -/
theorem checkSpan_noBounds (s : State) (a : Agent) (ea : Ptr) (n : Nat) (mis : Bool) (size : Nat) (kind : Kind) :
    (s.checkSpan a ea n mis size kind).1.NoBounds := by
  have whole := checkAl_noBounds s a ea n mis size kind
  have pages : ∀ q ∈ (pagePieces (offOf ea) n).map (fun q => s.checkAl a (mkPtr (segOf ea) q.1) q.2 mis size kind), q.NoBounds := by
    simp only [List.mem_map]
    rintro _ ⟨q, -, rfl⟩
    exact checkAl_noBounds ..
  have worse (rank : Byte → Nat) (r q : Checked) (hr : r.NoBounds) (hq : q.NoBounds) : (match r, q with
      | .bad c _, .bad e _ => if rank e < rank c then q else r
      | .ok _ _, .bad _ _ => q
      | _, _ => r).NoBounds := by
    split
    · exact noBounds_ite hq hr
    · exact hq
    · exact hr
  have worst := noBounds_foldl (worse fun c => if c = codeSegRights then 0 else c.toNat) pages whole
  unfold State.checkSpan
  dsimp only
  split
  · exact noBounds_ite whole worst
  · exact worst

/-- Nor does the check of a range (R273). -/
theorem checkRange_code {s : State} {a : Agent} {p : Ptr} {n : Nat} {mis : Bool} {kind : Kind} :
    ∀ e ∈ s.checkRange a p n mis kind, e.1 ≠ codeRegBounds := by
  have one (p : Ptr) (n : Nat) (mis : Bool) (off : Nat) : ∀ e ∈ (match s.checkAl a p n mis 0 kind with
      | .bad c x => some (c, x, off)
      | .ok _ _ => none : Option (Byte × Word × Nat)), e.1 ≠ codeRegBounds := by
    split
    · next hc => simpa using checkAl_code hc
    · simp
  intro e he
  rw [State.checkRange, Option.mem_def, ite_eq_iff] at he
  obtain ⟨-, he⟩ | ⟨-, he⟩ := he
  · exact one _ _ _ _ e he
  · obtain ⟨q, -, hq⟩ := List.exists_of_findSome?_eq_some he
    exact one _ _ _ _ e hq

theorem mild_globalFault (s : State) (tid : Nat) (ea : Ptr) (n size : Nat) (kind : Kind) : Mild (s.globalFault tid ea n size kind) := by
  unfold State.globalFault
  split
  · next hc => exact mild_some (checkAl_code hc)
  · exact mild_none

theorem mild_shadowFault (s : State) (tid : Nat) (out : State → Output) : Mild (s.shadowFault tid out) :=
  mild_ite mild_none (mild_map (by decide))

theorem mild_storeFault (s : State) (f : Fields) (tid : Nat) : Mild (s.storeFault f tid) :=
  mild_orElse (mild_ite (mild_globalFault _ _ _ _ _ _) (mild_globalFault _ _ _ _ _ _)) (mild_ite (mild_shadowFault _ _ _) mild_none)

theorem checkSpad_code {s : State} {gid n size : Nat} {sa : Word} {kind : Kind} {e : Flt} (h : s.checkSpad gid sa n size kind = .error e) :
    e.code ≠ codeRegBounds := by
  simp only [State.checkSpad] at h
  grind [codeRegBounds, codeMisaligned, codeSpad]

theorem mild_spadFault (f : Fields) (s : State) (tid : Nat) (none_ : Bool) (kind : Kind) : Mild (spadFault f s tid none_ kind) := by
  unfold spadFault
  dsimp only
  generalize (if none_ = true then 1 else f.sizeBytes) = n
  generalize (if none_ = true then 0 else f.size) = size
  split
  · next hc => exact mild_some (checkSpad_code hc)
  · exact mild_none

theorem mild_checkSpads (s : State) (gid n size : Nat) (kind : Kind) (as : List Word) : Mild (s.checkSpads gid n size kind as) := by
  unfold State.checkSpads
  generalize hb : (none : Option Flt) = b
  have mild : Mild b := hb ▸ mild_none
  clear hb
  induction as generalizing b with
  | nil => exact mild
  | cons a as ih =>
    refine ih _ ?_
    dsimp only
    split
    · exact mild
    · next hc =>
      split
      · exact mild_some (checkSpad_code hc)
      · exact mild_ite (mild_some (checkSpad_code hc)) mild

theorem mild_linkFault (f : Fields) (s : State) (tid : Nat) : Mild (linkFault f s tid) := by
  unfold linkFault
  refine mild_ite (mild_flt (by decide)) ?_
  split
  · next hc => exact mild_some (checkAl_code hc)
  · split
    · exact mild_none
    · exact mild_ite mild_none (mild_ite (mild_flt (by decide)) (mild_ite (mild_flt (by decide)) (mild_ite (mild_flt (by decide)) mild_none)))

theorem mild_matFault (f : Fields) (s : State) (tid : Nat) : Mild (s.matFault f tid) := by
  have tile (n : Nat × Option Bool) : Mild (tileBad (s.group (gidOf tid)) n) :=
    mild_ite (mild_flt (by decide)) (mild_ite (mild_flt (by decide)) mild_none)
  have record : Mild (tileFault f (s.group (gidOf tid))) := by
    refine mild_orElse (fun x hx => ?_) (mild_ite (mild_flt (by decide)) mild_none)
    obtain ⟨n, -, hn⟩ := List.exists_of_findSome?_eq_some hx
    exact tile n x hn
  exact mild_orElse record (mild_orElse (mild_checkSpads _ _ _ _ _ _) (mild_checkSpads _ _ _ _ _ _))

theorem mild_rayFault (s : State) (f : Fields) (kind : Kind) (tid : Nat) : Mild (rayFault s f kind tid) := by
  unfold rayFault
  have := checkSpan_noBounds s (s.agent tid) (rayEa s (gidOf tid) f) (4 * s.widthOf (gidOf tid) + 4)
    (offOf (rayEa s (gidOf tid) f) % 4 != 0) 2 kind
  split
  · next hc => exact mild_some (by rwa [show (s.checkSpan _ _ _ _ _ _).1 = _ from hc] at this)
  · exact mild_ite (mild_shadowFault _ _ _) mild_none

theorem mild_sealFault (s : State) (f : Fields) (tid : Nat) : Mild (s.sealFault f tid) := fun x hx => by
  obtain ⟨e, he, rfl⟩ := Option.map_eq_some_iff.1 hx
  exact checkRange_code e he

theorem mild_entryFault (s : State) (f : Fields) (tid : Nat) : Mild (s.entryFault f tid) := mild_map (by decide)

theorem mild_swrFault (f : Fields) (x : Word) : Mild (swrFault f x) := mild_ite (mild_flt (by decide)) mild_none

theorem mild_pswrFault (f : Fields) (x : Word) : Mild (pswrFault f x) := mild_ite mild_none (mild_flt (by decide))

/-! The state an instruction leaves where every guarded thread meets a decoding fault: only the faults are delivered (R85, R149). -/

/-- The instruction had no effect: its guarded threads take their decoding faults, which no fault of its own precedes. -/
def Undone (F : Fields) (s t : State) : Prop := ∃ own, (∀ tid, Mild (own tid)) ∧ t = s.faulted F own

section
variable {s : State} {F : Fields} (h : ∀ tid ∈ s.guarded F, (s.decodeFault F tid).isSome)
include h

theorem faultOf_isSome (own : Nat → Option Flt) : ∀ tid ∈ s.guarded F, (s.faultOf F own tid).isSome := fun tid ht => by
  obtain ⟨e, he⟩ := Option.isSome_iff_exists.1 (h tid ht)
  simp [State.faultOf, he]

theorem runPlain_undone {own : Nat → Option Flt} (mild : ∀ tid, Mild (own tid)) (act : Nat → Thread → Thread) (scal : Nat → List (Nat × Word)) :
    Undone F s (s.runPlain F own act scal) := ⟨own, mild, State.runPlain_faulted (faultOf_isSome h own) act scal⟩

theorem runState_undone {own : Nat → Option Flt} (mild : ∀ tid, Mild (own tid)) (eff : List Nat → State → State) :
    Undone F s (s.runState F own eff) := ⟨own, mild, State.runState_faulted (faultOf_isSome h own) eff⟩

theorem runFlow_undone {own : Nat → Option Flt} (mild : ∀ tid, Mild (own tid)) (eff : List Nat → State → State) :
    Undone F s (s.runFlow F own eff) := ⟨own, mild, State.runFlow_faulted (faultOf_isSome h own) eff⟩

theorem plain_undone (act : Nat → Thread → Thread) (scal : Nat → List (Nat × Word)) : Undone F s (s.runPlain F State.noFault act scal) :=
  runPlain_undone h (fun _ => mild_none) act scal

theorem state_undone (eff : List Nat → State → State) : Undone F s (s.runState F State.noFault eff) :=
  runState_undone h (fun _ => mild_none) eff

theorem flow_undone (eff : List Nat → State → State) : Undone F s (s.runFlow F State.noFault eff) :=
  runFlow_undone h (fun _ => mild_none) eff

/-- No thread acts, so the generator decides nothing. -/
theorem thenDecide_eq (x : Fields → State → State) : thenDecide s x F = x F s := by
  simp [thenDecide, State.acting_faulted (faultOf_isSome h State.noFault), State.groupsIn]

/-- No thread reads its linkage entry, so the acquire is of no group. -/
theorem link_undone : Undone F s (xLink F s) := by
  have : linkReaders F s = [] := List.filter_eq_nil_iff.2 fun tid ht => by
    obtain ⟨e, he⟩ := Option.isSome_iff_exists.1 (h tid ht)
    simp [he]
  rw [xLink, this]
  exact runFlow_undone h (mild_linkFault F s) _

end

/-- The majors of the encoded instructions; of those of which rows act group by group, the minors. -/
theorem row_of_fields {i : Instr} {F : Fields} (h : i.fields? = some F) :
    F.maj ∈ [0x00, 0x02, 0x03, 0x04, 0x05, 0x06, 0x07, 0x08, 0x09, 0x0A, 0x0B, 0x0C, 0x0D, 0x0E, 0x0F, 0x14, 0x15, 0x16, 0x17, 0x18, 0x19,
      0x20, 0x21, 0x22, 0x23, 0x24, 0x25, 0x30, 0x38, 0x39] ∧ ((F.maj = 0x30 ∨ F.maj = 0x38) → F.mn ≤ 4) := by
  cases i
  case clkLoRead g => cases g <;> cases h <;> simp [opFields]
  case thndWrite g => cases g <;> cases h <;> simp [opFields]
  case hint => cases (show none = some F from h)
  case hintLong => cases (show none = some F from h)
  case illegalOpcode => cases (show none = some F from h)
  case icmp => cases h; simp [opFields]
  case icmpX => cases h; simp
  all_goals cases h
  all_goals simp [opFields, memFields, brFields]

theorem eq_four {n : Nat} (h : n ≤ 4) (h0 : n ≠ 0) (h1 : n ≠ 1) (h2 : n ≠ 2) (h3 : n ≠ 3) : n = 4 := by omega

/-- Every row that runs over its bundle as one is undone by its decoding faults; MOVI, whose own fault may come first, stands apart. -/
theorem meaning_undone {i : Instr} {F : Fields} (hF : i.fields? = some F) (hone : Claims.runsAsOne F = true) (hmovi : ¬(F.maj = 0x07 ∧ F.mn = 1))
    {s : State} (h : ∀ tid ∈ s.guarded F, (s.decodeFault F tid).isSome) : Undone F s (meaning F s) := by
  obtain ⟨hmaj, hmn⟩ := row_of_fields hF
  unfold meaning
  split
  -- rows without a fault of their own
  case h_1 | h_2 | h_3 | h_4 | h_5 | h_6 | h_7 | h_8 | h_9 | h_10 | h_12 | h_13 | h_16 | h_17 | h_18 | h_19 | h_20 | h_21 | h_22 | h_29 |
    h_37 | h_38 | h_39 | h_40 | h_41 | h_42 | h_43 | h_44 | h_55 | h_61 | h_62 | h_63 | h_65 | h_66 | h_74 | h_76 | h_77 | h_86 | h_94 =>
    exact plain_undone h _ _
  case h_46 | h_48 | h_64 | h_69 | h_71 | h_75 | h_79 => exact state_undone h _
  case h_23 | h_24 | h_32 | h_45 | h_47 | h_50 | h_56 | h_59 | h_85 => exact flow_undone h _
  case h_51 =>
    unfold xBkoff
    exact flow_undone h _
  -- two instructions under one minor
  case h_14 =>
    split
    · exact plain_undone h _ _
    · exact plain_undone h _ _
  case h_15 =>
    split
    · exact state_undone h _
    · unfold xSwr
      exact runState_undone h (fun tid => mild_swrFault F (swrVal F s tid)) _
  case h_49 =>
    split
    · exact state_undone h _
    · exact runState_undone h (fun _ => mild_ite (mild_flt (by decide)) mild_none) _
  case h_95 =>
    split
    · exact runState_undone h (fun _ => mild_pswrFault F _) _
    · exact runState_undone h (fun _ => mild_pswrFault F _) _
  -- the flow of control
  case h_25 | h_26 | h_27 => exact runFlow_undone h (fun _ => mild_ite (mild_flt (by decide)) mild_none) _
  case h_28 => exact runPlain_undone h (fun _ => mild_ite (mild_flt (by decide)) mild_none) _ _
  case h_31 => exact runPlain_undone h (fun _ => mild_flt (by decide)) _ _
  -- memory
  case h_33 => exact runState_undone h (fun _ => mild_globalFault _ _ _ _ _ _) _
  case h_34 => exact runState_undone h (mild_storeFault s F) _
  case h_35 => exact runState_undone h (fun tid => mild_spadFault F s tid false .read) _
  case h_36 => exact runState_undone h (fun tid => mild_orElse (mild_spadFault F s tid _ .write) (mild_ite (mild_shadowFault _ _ _) mild_none)) _
  case h_67 => exact runState_undone h (mild_rayFault s F .read) _
  case h_68 => exact runState_undone h (mild_rayFault s F .write) _
  case h_70 => exact runState_undone h (fun _ => mild_orElse (mild_globalFault _ _ _ _ _ _) (mild_shadowFault _ _ _)) _
  case h_72 | h_73 => exact runState_undone h (mild_sealFault s F) _
  case h_78 => exact link_undone h
  -- collective domains, the generator, the matrix queue
  case h_52 | h_53 => exact runFlow_undone h (mild_entryFault s F) _
  case h_54 => exact runState_undone h (fun _ => mild_map (by decide)) _
  case h_58 =>
    rw [xGend, thenDecide_eq h]
    exact flow_undone h _
  case h_60 =>
    rw [xGdrain, thenDecide_eq h]
    exact state_undone h _
  case h_80 => exact runState_undone h (mild_matFault F s) _
  case h_81 | h_82 | h_83 =>
    exact runState_undone h (fun tid => mild_orElse (mild_matFault F s tid) (mild_ite (mild_shadowFault _ _ _) mild_none)) _
  -- traps and the privileged instructions
  case h_91 | h_92 => exact runFlow_undone h (fun _ => mild_ite (mild_flt (by decide)) mild_none) _
  case h_96 => exact runState_undone h (fun _ => mild_ite (mild_flt (by decide)) mild_none) _
  -- what does not run over its bundle as one, MOVI, and what is no row
  case h_11 hma hmi => exact absurd ⟨hma, hmi⟩ hmovi
  case h_30 hma hmi => simp [Claims.runsAsOne, hma, hmi] at hone
  case h_57 hma hmi => simp [Claims.runsAsOne, hma, hmi] at hone
  case h_84 hma hmi => simp [Claims.runsAsOne, hma, hmi] at hone
  case h_87 hma hmi => simp [Claims.runsAsOne, hma, hmi] at hone
  case h_89 hma hmi => simp [Claims.runsAsOne, hma, hmi] at hone
  case h_90 hma hmi => simp [Claims.runsAsOne, hma, hmi] at hone
  case h_88 hma h0 h1 h2 h3 =>
    have := hmn (by simp [hma])
    have := eq_four this h0 h1 h2 h3
    simp [Claims.runsAsOne, hma, this] at hone
  case h_93 hma h0 h1 h2 h3 =>
    have := hmn (by simp [hma])
    have := eq_four this h0 h1 h2 h3
    simp [Claims.runsAsOne, hma, this] at hone
  case h_97 =>
    simp only [List.mem_cons, List.not_mem_nil, or_false] at hmaj
    grind

theorem meaning_movi {F : Fields} (s : State) (hmaj : F.maj = 0x07) (hmn : F.mn = 1) : meaning F s = xMovi F s := by simp [meaning, hmaj, hmn]

theorem moviFault_of_not_pastCap {F : Fields} {s : State} {tid : Nat} (hmaj : F.maj = 0x07) (hmn : F.mn = 1) (h : ¬Claims.PastCap F s tid) :
    moviFault F s tid = none := by
  refine if_neg fun past => h ⟨hmaj, hmn, ?_⟩
  simp only [moviIndex] at past
  omega

/-- What a decoding fault is: none of these names the stub or ends a team, and none resumes behind the instruction. -/
theorem decodeFault_code {s : State} {F : Fields} {tid : Nat} {e : Flt} (h : s.decodeFault F tid = some e) : plainCode e.code ∧ e.code ≠ codeTrap := by
  have listed : e.code ∈ [codeReserved, codeRegBounds, codePrivileged, codePartialMask, codeGen] := by
    simp only [State.decodeFault] at h
    split at h
    · cases h; simp
    · split at h
      · cases h; simp
      · split at h
        · cases h; simp
        · split at h
          · cases h; simp
          · obtain ⟨a, -, rfl⟩ := Option.map_eq_some_iff.1 h
            simp
  exact (by decide : ∀ c ∈ [codeReserved, codeRegBounds, codePrivileged, codePartialMask, codeGen], plainCode c ∧ c ≠ codeTrap) _ listed

theorem faultOf_of_mild {s : State} {F : Fields} {own : Nat → Option Flt} {tid : Nat} {e : Flt} (mild : Mild (own tid))
    (h : s.decodeFault F tid = some e) : s.faultOf F own tid = some e := by
  have : (own tid).filter (fun x => x.code == codeRegBounds) = none := Option.filter_eq_none_iff.2 fun x hx => by simpa using mild x hx
  simp [State.faultOf, h, this]

/-- The instruction is its faults, and each thread's is its decoding fault, but that MOVI's REG_BOUNDS comes before GEN_CONFIG (R198). -/
theorem meaning_faulted {i : Instr} {F : Fields} (hF : i.fields? = some F) (hone : Claims.runsAsOne F = true)
    {s : State} (h : ∀ tid ∈ s.guarded F, (s.decodeFault F tid).isSome) :
    ∃ own, meaning F s = s.faulted F own ∧ ∀ tid e, s.decodeFault F tid = some e →
      (¬(e.code = 0x17 ∧ Claims.PastCap F s tid) → s.faultOf F own tid = some e) ∧
      (e.code = 0x17 → Claims.PastCap F s tid → s.faultOf F own tid = some ⟨codeRegBounds, 0, Claims.moviAux F s⟩) := by
  by_cases hmovi : F.maj = 0x07 ∧ F.mn = 1
  · obtain ⟨hmaj, hmn⟩ := hmovi
    refine ⟨moviFault F s, (meaning_movi s hmaj hmn).trans (State.runPlain_faulted (faultOf_isSome h _) _ _), fun tid e he => ⟨fun hno => ?_, fun hgen hcap => ?_⟩⟩
    · by_cases hgen : e.code = codeGen
      · have := moviFault_of_not_pastCap hmaj hmn fun hcap => hno ⟨hgen, hcap⟩
        simp [State.faultOf, he, this]
      · simp [State.faultOf, he, hgen]
    · have : e.code = codeGen := hgen
      rw [State.faultOf, he, moviFault_of_pastCap hcap]
      simp [this, Option.filter]
  · obtain ⟨own, mild, hown⟩ := meaning_undone hF hone hmovi h
    refine ⟨own, hown, fun tid e he => ⟨fun _ => faultOf_of_mild (mild tid) he, fun _ hcap => absurd ?_ hmovi⟩⟩
    exact ⟨hcap.1, hcap.2.1⟩

/-- Settles O10: where every guarded thread meets a decoding fault the instruction is the delivery of its faults, and each is caught. -/
theorem decodingFaultsAreTaken : Obligations.DecodingFaultsAreTaken := by
  intro i F s hwf hF hone hnd hall
  obtain ⟨own, hown, hfault⟩ := meaning_faulted hF hone fun tid ht => (hall tid ht).2
  have plain : plainCode codeRegBounds ∧ codeRegBounds ≠ codeTrap := by decide
  obtain ⟨only, passes, acts⟩ := State.faulted_traps (own := own) hnd (fun tid ht => (hall tid ht).1) fun tid ht => by
    obtain ⟨e, he⟩ := Option.isSome_iff_exists.1 (hall tid ht).2
    by_cases hc : e.code = 0x17 ∧ Claims.PastCap F s tid
    · exact ⟨_, (hfault tid e he).2 hc.1 hc.2, plain.1⟩
    · exact ⟨_, (hfault tid e he).1 hc, (decodeFault_code he).1⟩
  refine ⟨_, (exec_eq_meaning s hF hwf).trans (congrArg _ hown), only, passes, fun tid x e hx he => ?_⟩
  by_cases hc : e.code = 0x17 ∧ Claims.PastCap F s tid
  · obtain ⟨y, hy, trapped⟩ := acts tid x _ hx ((hfault tid e he).2 hc.1 hc.2)
    exact ⟨y, hy, fun hno => absurd hc hno, fun _ _ => by rwa [if_neg plain.2] at trapped⟩
  · obtain ⟨y, hy, trapped⟩ := acts tid x _ hx ((hfault tid e he).1 hc)
    exact ⟨y, hy, fun _ => by simpa [(decodeFault_code he).2] using trapped, fun hgen hcap => absurd ⟨hgen, hcap⟩ hc⟩

end Machine
end Sys2Proof
end

section
/-! PROOFS. The floating-point rows (01 R8, 02 R30 to R50, 06 R114 to R128): one register result with flags, FCMP and CVTXP, and each value by the elements of its operands. -/

namespace Sys2Proof
namespace Machine
open Sys2Proof.Safety

/-! Threads that wrote registers and FPSR (R8, R34). -/

theorem goesOn_withFpsr (s : State) (t : Thread) (w : Word) : goesOn s { t with fpsr := w } = { goesOn s t with fpsr := w } := by
  unfold goesOn Thread.advance
  dsimp only
  split
  · split <;> rfl
  · rfl

theorem goesOn_fpsr (s : State) (t : Thread) : (goesOn s t).fpsr = t.fpsr := by simp [goesOn]

theorem orFlags_fpsr (t : Thread) (fl : Flags) : (t.orFlags fl).fpsr = t.fpsr ||| fl.setWidth 32 := rfl

/-- The flags of a thread taken back. -/
theorem goesOn_orFlags (s : State) (t : Thread) (fl : Flags) {w : Word} (h : t.fpsr = w) : { goesOn s (t.orFlags fl) with fpsr := w } = goesOn s t := by
  subst h
  rw [← goesOn_withFpsr]
  rfl

theorem toVec_fpsr (f : Fields) (wide : Bool) (v : DWord) (t : Thread) : (f.toVec wide v t).fpsr = t.fpsr := by
  unfold Fields.toVec
  split
  · rfl
  · split <;> simp

theorem goesOn_frameRegsFpsr {s : State} {x y : Thread} (fl : Flags) (hregs : { y with regs := x.regs } = x) :
    { goesOn s (y.orFlags fl) with regs := x.regs, fpsr := x.fpsr } = goesOn s x ∧ (goesOn s (y.orFlags fl)).fpsr = x.fpsr ||| fl.setWidth 32 := by
  have fpsr : y.fpsr = x.fpsr := (congrArg Thread.fpsr hregs :)
  refine ⟨?_, by rw [goesOn_fpsr, orFlags_fpsr, fpsr]⟩
  have := goesOn_orFlags s y fl fpsr
  rw [← goesOn_frame hregs, ← this]

/-- AN INSTRUCTION WITH ONE REGISTER RESULT AND FLAGS, without faults (R8, R34, R143). -/
theorem runFloat_calm {s : State} {f : Fields} (h : Calm s f State.noFault) (wide : Bool) (val : Group → Thread → DWord × Flags)
    (hd : ∀ tid ∈ s.guarded f, wide = true → (f.cd = false → f.d + 1 ≠ 255) ∧ (f.cd = true → f.d + 1 ≠ 127)) :
    FloatResult s (s.runFloat f wide val) f wide val := by
  have value := runValue_calm h wide (fun g t => (val g t).1) hd
  have acts (tid : Nat) (x : Thread) (hx : Acts s f tid x) : (s.runFloat f wide val).threads.get? tid =
      some (goesOn s ((f.toVec wide (val (s.group (gidOf tid)) x).1 x).orFlags (val (s.group (gidOf tid)) x).2)) := State.runPlain_acts h _ _ hx
  have actsValue (tid : Nat) (x : Thread) (hx : Acts s f tid x) : (s.runValue f State.noFault wide (fun g t => (val g t).1)).threads.get? tid =
      some (goesOn s (f.toVec wide (val (s.group (gidOf tid)) x).1 x)) := State.runPlain_acts h _ _ hx
  have groups : (s.runFloat f wide val).groups = (s.runValue f State.noFault wide (fun g t => (val g t).1)).groups := by
    simp only [State.runFloat, State.runValue, State.runPlain_calm h]
    rfl
  refine ⟨State.runPlain_only h _ _, fun tid x hx => State.runPlain_passes h _ _ hx, fun tid x hx => ?_, fun hc => ⟨?_, fun tid x hx => ?_⟩,
    fun hc => ⟨fun tid x hx => ?_, ?_⟩⟩
  · exact ⟨_, acts tid x hx, goesOn_frameRegsFpsr _ (toVec_frame f wide _ x)⟩
  · rw [groups]
    exact (value.vector hc).1
  · obtain ⟨y, hy, wrote⟩ := (value.vector hc).2 tid x hx
    rw [actsValue tid x hx, Option.some.injEq] at hy
    refine ⟨_, acts tid x hx, ?_⟩
    rw [goesOn_orFlags s _ _ (toVec_fpsr f wide _ x), hy]
    exact wrote
  · exact ⟨_, acts tid x hx, by simp [Fields.toVec, hc]⟩
  · rw [groups]
    exact (value.scalar hc).2

/-- A row's result in the claims' terms. -/
theorem floatResult_congr {s t : State} {f : Fields} {wide : Bool} {v v' : Group → Thread → DWord × Flags} (h : FloatResult s t f wide v) (e : v = v') :
    FloatResult s t f wide v' := e ▸ h

/-- CVT to a 64-bit integer alone writes a pair, which does not run over the end of its register file (R12, R125). -/
theorem cvt_pair {s : State} {F : Fields} (calm : Calm s F State.noFault) (hmaj : F.maj = 0x0B) (hmn : F.mn = 0) (hty : F.ty = 1) :
    ∀ tid ∈ s.guarded F, (F.cd = false → F.d + 1 ≠ 255) ∧ (F.cd = true → F.d + 1 ≠ 127) := fun tid ht =>
  pair_of_fieldsOk (fieldsOk_of_decodeFault (calm tid ht).1) (v := true) (sc := true) (by simp [opnds, typed, Slot.vsPair, hmaj, hmn, hty])

/-- R8, R34, R114, R143: the rows with one register result. -/
theorem float_row {i : Instr} {F : Fields} {s : State} (hwf : i.wf = true) (hF : i.fields? = some F)
    (hrow : F.maj = 0x08 ∨ F.maj = 0x09 ∨ (F.maj = 0x0A ∧ F.mn ≠ 2) ∨ (F.maj = 0x0B ∧ F.mn < 2)) (calm : Calm s F State.noFault) :
    ∃ t, exec i s = .next t ∧ FloatResult s t F (F.maj == 0x0B && F.mn == 0 && F.ty == 1) (Claims.floatValue F) := by
  have narrow (v : Group → Thread → DWord × Flags) : FloatResult s (s.runFloat F false v) F false v := runFloat_calm calm false v (by simp)
  refine ⟨_, exec_eq_meaning s hF hwf, ?_⟩
  rcases hrow with hmaj | hmaj | ⟨hmaj, hmn⟩ | ⟨hmaj, hmn⟩
  · have hm : meaning F s = s.runFloat F false (farithVal F) := by simp [meaning, hmaj, xFarith]
    rw [hm, hmaj]
    exact floatResult_congr (narrow _) (by funext g x; simp [Claims.floatValue, hmaj])
  · have hm : meaning F s = s.runFloat F false (funaryVal F) := by simp [meaning, hmaj, xFunary]
    rw [hm, hmaj]
    exact floatResult_congr (narrow _) (by funext g x; simp [Claims.floatValue, hmaj])
  · have hm : meaning F s = s.runFloat F false (fmiscVal F) := by simp [meaning, hmaj, xFmisc]
    rw [hm, hmaj]
    exact floatResult_congr (narrow _) (by funext g x; simp [Claims.floatValue, hmaj])
  · obtain hmn | hmn : F.mn = 0 ∨ F.mn = 1 := by omega
    · have hm : meaning F s = s.runFloat F (F.ty == 1) (cvtVal F) := by simp [meaning, hmaj, hmn, xCvt]
      rw [hm, hmaj, hmn]
      refine floatResult_congr (runFloat_calm calm (F.ty == 1) _ fun tid ht hw => cvt_pair calm hmaj hmn (beq_iff_eq.1 hw) tid ht) ?_
      funext g x
      simp [Claims.floatValue, hmaj, hmn]
    · have hm : meaning F s = s.runFloat F false (cvtpkVal F) := by simp [meaning, hmaj, hmn, xCvtpk]
      rw [hm, hmaj, hmn]
      exact floatResult_congr (narrow _) (by funext g x; simp [Claims.floatValue, hmaj, hmn])

/-! FCMP: a predicate and flags (R123). -/

theorem goesOn_framePredsFpsr {s : State} {x y : Thread} (fl : Flags) (hpreds : { y with preds := x.preds } = x) :
    { goesOn s (y.orFlags fl) with preds := x.preds, fpsr := x.fpsr } = goesOn s x ∧ (goesOn s (y.orFlags fl)).fpsr = x.fpsr ||| fl.setWidth 32 := by
  have fpsr : y.fpsr = x.fpsr := (congrArg Thread.fpsr hpreds :)
  refine ⟨?_, by rw [goesOn_fpsr, orFlags_fpsr, fpsr]⟩
  have := goesOn_orFlags s y fl fpsr
  rw [← goesOn_framePreds hpreds, ← this]

theorem fcmp_row {i : Instr} {F : Fields} {s : State} (hwf : i.wf = true) (hF : i.fields? = some F) (hmaj : F.maj = 0x0A) (hmn : F.mn = 2)
    (calm : Calm s F State.noFault) :
    ∃ t, exec i s = .next t ∧ OnlyThreads s t ∧ (∀ tid x, Passes s F tid x → t.threads.get? tid = some (goesOn s x)) ∧
      ∀ tid x, Acts s F tid x → ∃ y, t.threads.get? tid = some y ∧ { y with preds := x.preds, fpsr := x.fpsr } = goesOn s x ∧
        (let r := fcmpVal F (s.group (gidOf tid)) x
         y.fpsr = x.fpsr ||| r.2.setWidth 32 ∧ (F.d < 15 → y.pred F.d = r.1) ∧ ∀ n, n ≠ F.d → y.pred n = x.pred n) := by
  have hm : meaning F s = xFcmp F s := by simp [meaning, hmaj, hmn]
  refine ⟨_, exec_eq_meaning s hF hwf, ?_⟩
  rw [hm]
  refine ⟨State.runPlain_onlyThreads calm _, fun tid x hx => State.runPlain_passes calm _ _ hx, fun tid x hx => ?_⟩
  obtain ⟨frame, fpsr⟩ := goesOn_framePredsFpsr (s := s) (fcmpVal F (s.group (gidOf tid)) x).2
    (Thread.setPred_preds x F.d (fcmpVal F (s.group (gidOf tid)) x).1)
  refine ⟨_, State.runPlain_acts calm _ _ hx, frame, fpsr, fun hd => ?_, fun n hn => ?_⟩
  · rw [goesOn_pred]
    exact (Thread.pred_setPred ..).trans (by simp [hd])
  · rw [goesOn_pred]
    exact (Thread.pred_setPred ..).trans (by simp [hn])

/-! CVTXP: the registers from D on (R128). -/

theorem setReg_frame {t x : Thread} (h : { t with regs := x.regs } = x) (n : Nat) (v : Word) : { t.setReg n v with regs := x.regs } = x := by
  rw [← h]
  unfold Thread.setReg
  split <;> rfl

theorem setFrom_frame (x : Thread) (d : Nat) (ws : List Word) : { x.setFrom d ws with regs := x.regs } = x := by
  unfold Thread.setFrom
  split
  · rfl
  · generalize ws.length = m
    induction m with
    | zero => rfl
    | succ m ih =>
      rw [List.range_succ, List.foldl_append]
      exact setReg_frame ih _ _

theorem setFrom_reg (x : Thread) {d : Nat} (hd : d ≠ 255) (ws : List Word) (n : Nat) :
    (x.setFrom d ws).reg n = if d ≤ n ∧ n < d + ws.length then (if n = 255 then 0 else ws.getD (n - d) 0) else x.reg n := by
  rw [Thread.setFrom, if_neg hd]
  generalize ws.length = m
  induction m with
  | zero => simp
  | succ m ih =>
    rw [List.range_succ, List.foldl_append, List.foldl_cons, List.foldl_nil, Thread.reg_setReg, ih]
    by_cases h : n = d + m
    · subst h
      simp
    · have : (d ≤ n ∧ n < d + (m + 1)) ↔ (d ≤ n ∧ n < d + m) := by omega
      simp [h, this]

/-- A scalar that one entry of a list writes. -/
theorem Group.sreg_setSregs_of_mem {l : List (Nat × Word)} (hl : (l.map (·.1)).Nodup) {n : Nat} {v : Word} (h : (n, v) ∈ l) (hn : n ≠ 127) (g : Group) :
    (g.setSregs l).sreg n = v := by
  induction l generalizing g with
  | nil => cases h
  | cons e l ih =>
    obtain ⟨hnot, hl⟩ := List.nodup_cons.1 hl
    rw [Group.setSregs]
    rcases List.mem_cons.1 h with rfl | h
    · rw [Group.sreg_setSregs_of_notMem, Group.sreg_setSreg, if_pos rfl, if_neg hn]
      exact fun e he heq => hnot (List.mem_map.2 ⟨e, he, heq.symm⟩)
    · exact ih hl h _

theorem scalFrom_sreg (g : Group) {d : Nat} (hd : d ≠ 127) {ws : List Word} {k : Nat} {v : Word} (h : ws[k]? = some v) (hk : d + k ≠ 127) :
    (g.setSregs (scalFrom d ws)).sreg (d + k) = v := by
  obtain ⟨hlt, rfl⟩ := List.getElem?_eq_some_iff.1 h
  rw [scalFrom, if_neg hd]
  refine Group.sreg_setSregs_of_mem ?_ (List.mem_map.2 ⟨k, by simpa using hlt, by simp [hlt]⟩) hk g
  rw [List.map_map]
  exact List.nodup_range.map fun a b h => by simpa using h

theorem cvtxpVals_length (F : Fields) (g : Group) (x : Thread) : (cvtxpVals F g x).length = if F.srcTy = 9 ∨ F.srcTy = 10 then 4 else 2 := by
  unfold cvtxpVals
  dsimp only
  split <;> simp

/-- A scalar group of CVTXP's results ends before sz (R72). -/
theorem cvtxp_scalars {w : Nat} {F : Fields} (h : fieldsOk w F = true) (hmaj : F.maj = 0x0B) (hmn : F.mn = 2) (hcd : F.cd = true) (hd : F.d ≠ 127) :
    F.d < 96 := by
  obtain ⟨span, align, hslot⟩ : ∃ span align, (opnds w F).d = .reg true true span align := by
    by_cases hty : F.srcTy = 9 ∨ F.srcTy = 10
    · exact ⟨4, 4, by simp [opnds, hmaj, hmn, hty]⟩
    · exact ⟨2, 2, by simp [opnds, hmaj, hmn, hty, Slot.vsPair]⟩
  have hs := slotD_of_fieldsOk h
  simp [hslot, hcd, slotOk, regOk, hd] at hs
  exact hs.1

theorem cvtxp_row {i : Instr} {F : Fields} {s : State} (hwf : i.wf = true) (hF : i.fields? = some F) (hmaj : F.maj = 0x0B) (hmn : F.mn = 2)
    (calm : Calm s F State.noFault) :
    ∃ t, exec i s = .next t ∧ OnlyRegisters s t ∧ (∀ tid x, Passes s F tid x → t.threads.get? tid = some (goesOn s x)) ∧
      (∀ tid x, Acts s F tid x → ∃ y, t.threads.get? tid = some y ∧ { y with regs := x.regs, fpsr := x.fpsr } = goesOn s x ∧
        (let rs := cvtxpVals F (s.group (gidOf tid)) x
         rs.length = (if F.srcTy = 9 ∨ F.srcTy = 10 then 4 else 2) ∧
         y.fpsr = x.fpsr ||| (rs.foldl (fun (fl : Flags) (r : Word × Flags) => fl ||| r.2) 0).setWidth 32 ∧
         (F.cd = false → F.d ≠ 255 → (∀ k v, rs[k]? = some v → F.d + k ≠ 255 → y.reg (F.d + k) = v.1) ∧
           ∀ n, n < F.d ∨ F.d + rs.length ≤ n → y.reg n = x.reg n) ∧
         (F.cd = true ∨ F.d = 255 → y.regs = x.regs))) ∧
      ∀ gid g, s.groups.get? gid = some g → ∃ g', t.groups.get? gid = some g' ∧
        (F.cd = false ∨ F.d = 127 ∨ (∀ tid ∈ s.guarded F, gidOf tid ≠ gid) → g' = g) ∧
        (F.cd = true → F.d ≠ 127 → (∃ tid ∈ s.guarded F, gidOf tid = gid) → ∃ tid ∈ s.guarded F, gidOf tid = gid ∧
          ∀ k v, (cvtxpVals F g (s.thread tid))[k]? = some v → g'.sreg (F.d + k) = v.1) := by
  have hm : meaning F s = xCvtxp F s := by simp [meaning, hmaj, hmn]
  refine ⟨_, exec_eq_meaning s hF hwf, ?_⟩
  rw [hm, xCvtxp, State.acting_calm calm]
  refine ⟨State.runPlain_only calm _ _, fun tid x hx => State.runPlain_passes calm _ _ hx, fun tid x hx => ?_, fun gid g hg => ?_⟩
  · generalize hrs : cvtxpVals F (s.group (gidOf tid)) x = rs
    have length : rs.length = _ := hrs ▸ cvtxpVals_length F (s.group (gidOf tid)) x
    have frame : { (if F.cd then x else x.setFrom F.d (rs.map (·.1))) with regs := x.regs } = x := by
      split
      · rfl
      · exact setFrom_frame x _ _
    obtain ⟨frame, fpsr⟩ := goesOn_frameRegsFpsr (s := s) (rs.foldl (fun (fl : Flags) (r : Word × Flags) => fl ||| r.2) 0) frame
    refine ⟨_, (State.runPlain_acts calm _ _ hx).trans (by rw [hrs]), frame, length, fpsr, fun hcd hd => ⟨fun k v hv hk => ?_, fun n hn => ?_⟩, fun hno => ?_⟩
    · obtain ⟨hlt, rfl⟩ := List.getElem?_eq_some_iff.1 hv
      rw [goesOn_reg, hcd, if_neg Bool.false_ne_true]
      exact (setFrom_reg x hd _ _).trans (by simp [hk, hlt])
    · rw [goesOn_reg, hcd, if_neg Bool.false_ne_true]
      refine (setFrom_reg x hd _ _).trans (if_neg ?_)
      rw [List.length_map]
      omega
    · rw [goesOn_regs]
      rcases hno with hcd | hd
      · simp [hcd]
      · simp [hd, Thread.setFrom]
  · by_cases hact : ∃ tid ∈ s.guarded F, gidOf tid = gid
    · obtain ⟨hp, hpg⟩ := pick_mem s hact
      refine ⟨_, State.runPlain_group_of_some calm _ _ hg hact, fun hno => ?_, fun hcd hd _ => ⟨_, hp, hpg, fun k v hv => ?_⟩⟩
      · rcases hno with hcd | hd | hno
        · simp [hcd, Group.setSregs]
        · simp [hd, scalFrom, Group.setSregs]
        · obtain ⟨tid, ht, he⟩ := hact
          exact absurd he (hno tid ht)
      · have small := cvtxp_scalars (fieldsOk_of_decodeFault (calm _ hp).1) hmaj hmn hcd hd
        have short : k < 4 := by
          have := (List.getElem?_eq_some_iff.1 hv).1
          have := cvtxpVals_length F g (s.thread (s.pick (ofGroup (s.guarded F) gid)))
          split at this <;> omega
        rw [if_pos hcd, State.group_of_get? hg]
        exact scalFrom_sreg g hd (by rw [List.getElem?_map, hv]; rfl) (by omega)
    · refine ⟨g, (State.runPlain_group_of_none calm _ _ fun tid ht he => hact ⟨tid, ht, he⟩).trans hg, fun _ => rfl, fun _ _ h => absurd h hact⟩

/-! The element formats, elements and modes of the claims (R33, R48). -/

theorem elemFmt_eq_fmtOf (ty : Nat) : elemFmt ty = Claims.fmtOf ty := by
  unfold elemFmt Claims.fmtOf
  split
  · rfl
  · rfl
  · rfl
  · next h4 h5 h7 => simp [show ty ≠ 4 from h4, show ty ≠ 5 from h5, show ty ≠ 7 from h7]

theorem extractLsb'_toNat_eq_div (w k : Nat) (x : DWord) : (x.extractLsb' k w).toNat = x.toNat / 2 ^ k % 2 ^ w := by
  rw [BitVec.extractLsb'_toNat, Nat.shiftRight_eq_div_pow]

theorem elem_eq_elemOf (ty j : Nat) (x : DWord) : elem ty j x = Claims.elemOf ty j x := by
  unfold elem Claims.elemOf
  split
  · rw [extractLsb'_toNat_eq_div, Nat.pow_zero, Nat.div_one]
  · rw [extractLsb'_toNat_eq_div, Nat.pow_mul]
    rfl

theorem rnd_eq_modeOf (x : Thread) (code : Nat) : x.rnd code = Claims.modeOf x code := by
  have dyn : x.dynRnd = [Rnd.rn, .rz, .rp, .rm].getD (x.fpcr.extractLsb' 0 2).toNat .rn := by
    have small : (x.fpcr.extractLsb' 0 2).toNat < 4 := BitVec.isLt _
    unfold Thread.dynRnd
    generalize (x.fpcr.extractLsb' 0 2).toNat = n at small
    interval_cases n <;> rfl
  unfold Thread.rnd Claims.modeOf
  rw [dyn]
  match code with
  | 0 | 1 | 2 | 3 | 4 => rfl
  | _ + 5 => rfl

theorem byElement_overElems {ty : Nat} {op op' : Nat → Nat × Flags} (h : ∀ j, op j = op' j) :
    Claims.byElement ty (BitVec.ofNat 64 (overElems ty op).1, (overElems ty op).2) op' := by
  rw [funext h]
  by_cases hp : ty = 7 ∨ ty = 8
  · have packed : isPacked ty = true := by simpa [isPacked] using hp
    simp only [Claims.byElement, hp, if_true, overElems, packed, Nat.mul_comm]
    rfl
  · have packed : ¬isPacked ty = true := by simpa [isPacked] using hp
    simp [Claims.byElement, hp, overElems, packed]

/-! Integers of a word, and as a register holds them (R29, R48, R88). -/

theorem sint_eq_intOf (w : Nat) (x : DWord) : sint w x.toNat = Claims.intOf w false x := by
  rw [← readInt_eq_intOf]
  simp [sint, readInt]

theorem sint_eq_toInt (x : DWord) : sint 32 x.toNat = (loWord x).toInt := by
  rw [sint_eq_intOf, loWord_eq_setWidth]
  rfl

/-- An integer that fits its type is what its low bits say. -/
theorem intOf_ofInt {w : Nat} (hw : 0 < w) (h : w ≤ 64) (z : Bool) {x : Int} (hlo : (if z then 0 else -(2 ^ (w - 1))) ≤ x)
    (hhi : x ≤ if z then 2 ^ w - 1 else 2 ^ (w - 1) - 1) : Claims.intOf w z (BitVec.ofInt 64 x) = x := by
  rw [Claims.intOf, setWidth_ofInt h]
  cases z with
  | true =>
    simp only [if_true] at hlo hhi ⊢
    rw [BitVec.toNat_ofInt, Int.toNat_of_nonneg (Int.emod_nonneg _ (by positivity))]
    exact Int.emod_eq_of_lt hlo (by push_cast; omega)
  | false =>
    simp only [Bool.false_eq_true, if_false] at hlo hhi ⊢
    exact BitVec.toInt_ofInt_eq_self hw hlo (by omega)

/-- A conversion to an integer stays within its range (R49). -/
theorem clampInt_range (x : Num) (rnd : Rnd) {lo hi : Int} (h0 : lo ≤ 0) (h1 : 0 ≤ hi) : lo ≤ (x.clampInt rnd lo hi).1 ∧ (x.clampInt rnd lo hi).1 ≤ hi := by
  unfold Num.clampInt
  split
  · exact ⟨h0, h1⟩
  · split <;> exact ⟨by omega, by omega⟩
  · dsimp only
    split_ifs <;> constructor <;> simp <;> omega

/-- What a conversion to an integer type leaves in D (R48, R49, R88). -/
theorem int_result_eq_held {w : Nat} (h : w = 64 ∨ w = 32 ∨ w = 16 ∨ w = 8) (z : Bool) {x : Int} (hlo : (if z then 0 else -(2 ^ (w - 1))) ≤ x)
    (hhi : x ≤ if z then 2 ^ w - 1 else 2 ^ (w - 1) - 1) :
    (if w = 64 then BitVec.ofInt 64 x else (BitVec.ofInt 32 x).setWidth 64) = Claims.held w z x := by
  rw [← writeInt_eq_held (by omega), writeInt, readInt_eq_intOf, intOf_ofInt (by omega) (by omega) z hlo hhi, loWord_eq_setWidth,
    setWidth_ofInt (by omega)]

section
variable (F : Fields) (g : Group) (x : Thread)

/-! FARITH, FUNARY and FMISC by elements (R114 to R124). -/

theorem farithVal_byElement : Claims.byElement F.ty (farithVal F g x) (fun j => match F.mn with
    | 4 => fMinMax (Claims.fmtOf F.ty) x.ftz false (Claims.elemOf F.ty j (F.opA false g x)) (Claims.elemOf F.ty j (F.opB false g x))
    | 5 => fMinMax (Claims.fmtOf F.ty) x.ftz true (Claims.elemOf F.ty j (F.opA false g x)) (Claims.elemOf F.ty j (F.opB false g x))
    | 6 => fCopySign (Claims.fmtOf F.ty) (Claims.elemOf F.ty j (F.opA false g x)) (Claims.elemOf F.ty j (F.opB false g x))
    | mn => fArith (Claims.fmtOf F.ty) ⟨Claims.modeOf x F.low3, x.ftz, false⟩ mn
        ((Claims.fmtOf F.ty).decode x.ftz (Claims.elemOf F.ty j (F.opA false g x)))
        ((Claims.fmtOf F.ty).decode x.ftz (Claims.elemOf F.ty j (F.opB false g x)))
        ((Claims.fmtOf F.ty).decode x.ftz (Claims.elemOf F.ty j (F.opC false g x)))) := by
  refine byElement_overElems fun j => ?_
  simp only [elemFmt_eq_fmtOf, elem_eq_elemOf, rnd_eq_modeOf] <;> rfl

theorem funaryVal_byElement : Claims.byElement F.ty (funaryVal F g x) (fun j => fUnary (Claims.fmtOf F.ty) ⟨Claims.modeOf x F.low3, x.ftz, false⟩ F.mn
    ((Claims.fmtOf F.ty).decode x.ftz (Claims.elemOf F.ty j (F.opA false g x)))) := by
  refine byElement_overElems fun j => ?_
  simp only [elemFmt_eq_fmtOf, elem_eq_elemOf, rnd_eq_modeOf]

theorem fmiscVal_frnd (h : F.mn = 0) : Claims.byElement F.ty (fmiscVal F g x) (fun j => fRound (Claims.fmtOf F.ty) (Claims.modeOf x F.low3)
    ((Claims.fmtOf F.ty).decode x.ftz (Claims.elemOf F.ty j (F.opA false g x)))) := by
  simp only [fmiscVal, h, elemFmt_eq_fmtOf, elem_eq_elemOf, rnd_eq_modeOf]
  exact byElement_overElems fun _ => rfl

theorem fmiscVal_fclass (h : F.mn = 1) : fmiscVal F g x = (BitVec.ofNat 64 (fClass (Claims.fmtOf F.ty) (Claims.elemOf F.ty 0 (F.opA false g x))), 0) := by
  simp only [fmiscVal, h, elemFmt_eq_fmtOf, elem_eq_elemOf]

theorem fmiscVal_fldexp (h : F.mn = 3) : Claims.byElement F.ty (fmiscVal F g x) (fun j => fLdexp (Claims.fmtOf F.ty)
    ⟨Claims.modeOf x F.low3, x.ftz, false⟩ ((Claims.fmtOf F.ty).decode x.ftz (Claims.elemOf F.ty j (F.opA false g x)))
    (loWord (F.opB false g x)).toInt) := by
  simp only [fmiscVal, h, elemFmt_eq_fmtOf, elem_eq_elemOf, rnd_eq_modeOf, sint_eq_toInt]
  exact byElement_overElems fun _ => rfl

theorem fmiscVal_fgetexp (h : F.mn = 4) : fmiscVal F g x =
    (BitVec.ofNat 64 (fGetExp ((Claims.fmtOf F.ty).decode x.ftz (Claims.elemOf F.ty 0 (F.opA false g x)))).1,
      (fGetExp ((Claims.fmtOf F.ty).decode x.ftz (Claims.elemOf F.ty 0 (F.opA false g x)))).2) := by
  simp only [fmiscVal, h, elemFmt_eq_fmtOf, elem_eq_elemOf]

theorem fmiscVal_fgetman (h : F.mn = 5) : Claims.byElement F.ty (fmiscVal F g x) (fun j => fGetMan (Claims.fmtOf F.ty)
    ((Claims.fmtOf F.ty).decode x.ftz (Claims.elemOf F.ty j (F.opA false g x)))) := by
  simp only [fmiscVal, h, elemFmt_eq_fmtOf, elem_eq_elemOf]
  exact byElement_overElems fun _ => rfl

end

/-! CVT (R49, R126). -/

theorem num_ofInt_intOf (w : Nat) (z : Bool) (a : DWord) (e : Int) :
    Num.ofInt (if z then ((a.toNat % 2 ^ w : Nat) : Int) else sint w a.toNat) e = Num.ofInt (Claims.intOf w z a) e := by
  congr 1
  cases z with
  | true => simp [Claims.intOf]
  | false => simp [sint_eq_intOf]

theorem sourceNum_eq_cvtSource {F : Fields} (h : F.srcTy ∈ [0, 1, 2, 3, 4, 5, 6, 9, 10, 11]) (ftz : Bool) (a : DWord) :
    sourceNum F.srcTy F.zs ftz a = Claims.cvtSource F ftz a := by
  simp only [List.mem_cons, List.not_mem_nil, or_false] at h
  unfold sourceNum Claims.cvtSource
  have low (w : Nat) : (a.extractLsb' 0 w).toNat = a.toNat % 2 ^ w := by rw [extractLsb'_toNat_eq_div, Nat.pow_zero, Nat.div_one]
  rcases h with h | h | h | h | h | h | h | h | h | h
  · simp only [h]
    exact num_ofInt_intOf 32 F.zs a 0
  · simp only [h]
    exact num_ofInt_intOf 64 F.zs a 0
  · simp only [h]
    exact num_ofInt_intOf 16 F.zs a 0
  · simp only [h]
    exact num_ofInt_intOf 8 F.zs a 0
  · simp [h, Claims.fmtOf, Claims.elemOf, low]
  · simp [h, Claims.fmtOf, Claims.elemOf, low]
  · simp [h, Claims.fmtOf, Claims.elemOf, low]
  · simp [h]
  · simp [h]
  · simp only [h]
    exact num_ofInt_intOf 16 false a (-15)

section
variable {F : Fields} (g : Group) (x : Thread)

theorem cvtVal_eq (hsrc : F.srcTy ∈ [0, 1, 2, 3, 4, 5, 6, 9, 10, 11]) : cvtVal F g x =
    convertTo F.ty F.zd ⟨Claims.modeOf x F.low3, x.ftz && ftzApplies F.ty, F.cvtSat⟩
      (Claims.cvtSource F (x.ftz && ftzApplies F.ty) (F.opA (F.srcTy == 1) g x)) := by
  simp only [cvtVal, rnd_eq_modeOf, sourceNum_eq_cvtSource hsrc]

end

/-- The integer types of a conversion. -/
theorem convertTo_int {ty : Nat} (h : ty < 4) (z : Bool) (how : How) (v : Num) : convertTo ty z how v =
    (Claims.held (Claims.widthOf ty) z (v.clampInt how.rnd (if z then 0 else -(2 ^ (Claims.widthOf ty - 1)))
        (if z then 2 ^ Claims.widthOf ty - 1 else 2 ^ (Claims.widthOf ty - 1) - 1)).1,
      (v.clampInt how.rnd (if z then 0 else -(2 ^ (Claims.widthOf ty - 1)))
        (if z then 2 ^ Claims.widthOf ty - 1 else 2 ^ (Claims.widthOf ty - 1) - 1)).2) := by
  have one (w : Nat) (hw : w = 64 ∨ w = 32 ∨ w = 16 ∨ w = 8) := by
    have range := clampInt_range v how.rnd (lo := if z then 0 else -(2 ^ (w - 1))) (hi := if z then 2 ^ w - 1 else 2 ^ (w - 1) - 1)
      (by split <;> simp) (by
        have h1 : (1 : Int) ≤ 2 ^ w := by exact_mod_cast Nat.one_le_two_pow
        have h2 : (1 : Int) ≤ 2 ^ (w - 1) := by exact_mod_cast Nat.one_le_two_pow
        split <;> omega)
    exact int_result_eq_held hw z range.1 range.2
  interval_cases ty
  · rw [show Claims.widthOf 0 = 32 from rfl, ← one 32 (by omega)]
    rfl
  · rw [show Claims.widthOf 1 = 64 from rfl, ← one 64 (by omega)]
    rfl
  · rw [show Claims.widthOf 2 = 16 from rfl, ← one 16 (by omega)]
    rfl
  · rw [show Claims.widthOf 3 = 8 from rfl, ← one 8 (by omega)]
    rfl

/-! A code of 16 bits (R30, R127). -/

/-- A magnitude rounded at or above the place of its p-th bit has at most p bits, or is the power of two above them. -/
theorem mag_at_le {x : Mag} {lsb : Int} {p : Nat} (h : x.e + Nat.log2 x.q - (p - 1) ≤ lsb) (rnd : Rnd) (neg : Bool) :
    (x.at lsb rnd neg).1 ≤ 2 ^ p := by
  have top : x.q < 2 ^ (Nat.log2 x.q + 1) := Nat.lt_log2_self
  unfold Mag.at
  split
  · calc x.q * 2 ^ (x.e - lsb).toNat ≤ 2 ^ (Nat.log2 x.q + 1) * 2 ^ (x.e - lsb).toNat := Nat.mul_le_mul_right _ top.le
      _ = 2 ^ (Nat.log2 x.q + 1 + (x.e - lsb).toNat) := (Nat.pow_add ..).symm
      _ ≤ 2 ^ p := Nat.pow_le_pow_right (by omega) (by omega)
  · have whole : x.q / 2 ^ (lsb - x.e).toNat < 2 ^ p := by
      rw [Nat.div_lt_iff_lt_mul (Nat.two_pow_pos _), ← Nat.pow_add]
      exact top.trans_le (Nat.pow_le_pow_right (by omega) (by omega))
    have up (c : Bool) : (if c then x.q / 2 ^ (lsb - x.e).toNat + 1 else x.q / 2 ^ (lsb - x.e).toNat) ≤ 2 ^ p := by
      split
      · exact whole
      · exact whole.le
    exact up _

/-- The half formats' codes have 16 bits, whatever is rounded into them. -/
theorem round_lt {k : Fmt} (hk : k = Fmt.f16 ∨ k = Fmt.bf16) (v : Num) (h : How) : (v.round k h).1 < 2 ^ 16 := by
  have signed (neg : Bool) (c : Nat) (hc : c ≤ k.infCode) : k.signed neg c < 2 ^ 16 := by
    rcases hk with rfl | rfl <;> cases neg <;> simp [Fmt.signed, Fmt.signBit, Fmt.infCode, Fmt.f16, Fmt.bf16] at hc ⊢ <;> omega
  cases v with
  | nan sig =>
    show k.nanCode < 2 ^ 16
    rcases hk with rfl | rfl <;> decide
  | inf neg => exact signed neg _ le_rfl
  | fin neg m e =>
    unfold Num.round Mag.round
    dsimp only
    split
    · exact signed neg 0 (Nat.zero_le _)
    · have le : e + Nat.log2 m ≤ if (Mag.at ⟨m, e, false⟩ (e + Nat.log2 m - (k.p - 1)) h.rnd neg).1 = 2 ^ k.p then e + Nat.log2 m + 1
          else e + Nat.log2 m := by split <;> omega
      revert le
      generalize (if (Mag.at ⟨m, e, false⟩ (e + Nat.log2 m - (k.p - 1)) h.rnd neg).1 = 2 ^ k.p then e + Nat.log2 m + 1
          else e + Nat.log2 m) = e1
      intro le
      split
      · refine signed neg _ ?_
        split
        · exact le_rfl
        · exact Nat.sub_le _ _
      · next hmax =>
        split
        · exact signed neg 0 (Nat.zero_le _)
        · refine signed neg _ ?_
          have normal := mag_at_le (x := ⟨m, e, false⟩) (lsb := e + Nat.log2 m - (k.p - 1)) (p := k.p) le_rfl h.rnd neg
          split
          · next hlow =>
            have tiny := mag_at_le (x := ⟨m, e, false⟩) (lsb := k.low) (p := k.p) (by dsimp only; omega) h.rnd neg
            rcases hk with rfl | rfl <;> simp [Fmt.infCode, Fmt.f16, Fmt.bf16] at tiny ⊢ <;> omega
          · next hlow =>
            rcases hk with rfl | rfl <;> simp [Fmt.infCode, Fmt.f16, Fmt.bf16, Fmt.emax, Fmt.low, Fmt.emin] at normal hlow hmax ⊢ <;> omega

/-! CVTPK and CVTXP by elements (R127, R128). -/

section
variable {F : Fields} (g : Group) (x : Thread)

theorem elemOf_f32 (a : DWord) : Claims.elemOf 4 0 a = a.toNat % 2 ^ 32 := (elem_eq_elemOf 4 0 a).symm

/-- One half of a packed CVTPK, as the model converts it. -/
def packHalf (F : Fields) (x : Thread) (a : DWord) : DWord × Flags :=
  convertTo (match F.ty with | 7 => 5 | 8 => 6 | _ => 11) false ⟨x.rnd F.low3, x.ftz && ftzApplies F.ty, F.cvtSat⟩
    (Fmt.f32.decode (x.ftz && ftzApplies F.ty) (a.toNat % 2 ^ 32))

theorem cvtpkVal_eq_packHalf (h : ¬(F.ty = 9 ∨ F.ty = 10)) : cvtpkVal F g x =
    (BitVec.ofNat 64 ((packHalf F x (F.opA false g x)).1.toNat % 65536 + (packHalf F x (F.opB false g x)).1.toNat % 65536 * 65536),
      (packHalf F x (F.opA false g x)).2 ||| (packHalf F x (F.opB false g x)).2) := by
  unfold cvtpkVal
  dsimp only
  rw [if_neg h]
  rfl

theorem packed_eq_packHalf (h : F.ty ∈ [7, 8, 11]) (j : Nat) : Claims.packed F g x j =
    ((packHalf F x (if j = 0 then F.opA false g x else F.opB false g x)).1.toNat % 65536,
      (packHalf F x (if j = 0 then F.opA false g x else F.opB false g x)).2) := by
  generalize ha : (if j = 0 then F.opA false g x else F.opB false g x) = a
  have f16 (v : Num) (how : How) : (v.round Fmt.f16 how).1 % 65536 = (v.round Fmt.f16 how).1 := Nat.mod_eq_of_lt (round_lt (.inl rfl) v how)
  have bf16 (v : Num) (how : How) : (v.round Fmt.bf16 how).1 % 65536 = (v.round Fmt.bf16 how).1 := Nat.mod_eq_of_lt (round_lt (.inr rfl) v how)
  have q15 (v : Int) : (BitVec.ofInt 16 v).toNat % 65536 = (BitVec.ofInt 16 v).toNat := Nat.mod_eq_of_lt (BitVec.isLt _)
  simp only [List.mem_cons, List.not_mem_nil, or_false] at h
  simp only [Claims.packed, ha, elemOf_f32, ← rnd_eq_modeOf]
  rcases h with h | h | h
  · simp [h, packHalf, convertTo, ftzApplies, Claims.fmtOf, f16, Thread.ftz]
  · simp [h, packHalf, convertTo, ftzApplies, Claims.fmtOf, bf16, Thread.ftz]
  · simp [h, packHalf, convertTo, ftzApplies, q15, -BitVec.toNat_ofInt]

theorem cvtpk_halves (h : F.ty ∈ [7, 8, 11]) : cvtpkVal F g x =
    (BitVec.ofNat 64 ((Claims.packed F g x 0).1 + 2 ^ 16 * (Claims.packed F g x 1).1), (Claims.packed F g x 0).2 ||| (Claims.packed F g x 1).2) := by
  rw [cvtpkVal_eq_packHalf g x (by rintro (h9 | h10) <;> simp_all), packed_eq_packHalf g x h, packed_eq_packHalf g x h, Nat.mul_comm]
  rfl

/-- One tapered element of CVTPK, as the model converts it. -/
def packTap (F : Fields) (g : Group) (x : Thread) (j : Nat) : Nat × Flags :=
  if sint 8 (F.opB false g x).toNat = -128 then
    (2 ^ ((if F.ty = 9 then 8 else 6) - 1), Claims.nv (Fmt.f32.decode false (operandWord F g x j).toNat).isSig)
  else ((Fmt.f32.decode false (operandWord F g x j).toNat).scale (-sint 8 (F.opB false g x).toNat)).roundTap (if F.ty = 9 then 8 else 6)

theorem packed_eq_packTap (h : F.ty = 9 ∨ F.ty = 10) : Claims.packed F g x = packTap F g x := by
  funext j
  have word : ((Claims.packWord F g x j).setWidth 64).toNat % 2 ^ 32 = (operandWord F g x j).toNat := by
    have : (Claims.packWord F g x j).toNat < 2 ^ 32 := BitVec.isLt _
    rw [BitVec.toNat_setWidth, show operandWord F g x j = Claims.packWord F g x j from rfl]
    omega
  have narrow : ¬(F.ty = 7 ∨ F.ty = 8) ∧ F.ty ≠ 11 := by omega
  simp only [Claims.packed, narrow, if_false, elemOf_f32, packTap, sint_eq_intOf, word]

/-- Four elements packed, and their flags (R127). -/
theorem pack_four (w : Nat) (e : Nat → Nat × Flags) :
    (BitVec.ofNat 64 ((List.range 4).foldl (fun x k => x + (((List.range 4).map e).getD k (0, 0)).1 * 2 ^ (w * k)) 0),
      ((List.range 4).map e).foldl (fun fl r => fl ||| r.2) 0) =
    ((BitVec.ofNat 64 ((e 0).1 + 2 ^ w * (e 1).1 + 2 ^ (2 * w) * (e 2).1 + 2 ^ (3 * w) * (e 3).1) : DWord),
      ((e 0).2 ||| (e 1).2 ||| (e 2).2 ||| (e 3).2 : Flags)) := by
  have four : List.range 4 = [0, 1, 2, 3] := rfl
  simp [four, Nat.mul_comm]

theorem cvtpk_taps (h : F.ty = 9 ∨ F.ty = 10) : cvtpkVal F g x =
    (BitVec.ofNat 64 ((Claims.packed F g x 0).1 + 2 ^ (if F.ty = 9 then 8 else 6) * (Claims.packed F g x 1).1
        + 2 ^ (2 * (if F.ty = 9 then 8 else 6)) * (Claims.packed F g x 2).1 + 2 ^ (3 * (if F.ty = 9 then 8 else 6)) * (Claims.packed F g x 3).1),
      (Claims.packed F g x 0).2 ||| (Claims.packed F g x 1).2 ||| (Claims.packed F g x 2).2 ||| (Claims.packed F g x 3).2) := by
  have nv (v : Num) : Claims.nv v.isSig = match v with | .nan sig => (if sig then flagNV else 0) | _ => 0 := by cases v <;> rfl
  rw [← pack_four, packed_eq_packTap g x h]
  unfold cvtpkVal packTap
  dsimp only
  rw [if_pos h]
  simp only [nv] <;> rfl

theorem cvtxp_element (h : F.srcTy ∈ [7, 8, 9, 10, 11]) (j : Nat) (hj : j < if F.srcTy = 9 ∨ F.srcTy = 10 then 4 else 2) :
    (cvtxpVals F g x)[j]? = some (BitVec.ofNat 32 (Claims.expanded F g x j).1, (Claims.expanded F g x j).2) := by
  simp only [List.mem_cons, List.not_mem_nil, or_false] at h
  unfold cvtxpVals
  dsimp only
  by_cases htap : F.srcTy = 9 ∨ F.srcTy = 10
  · have narrow : ¬(F.srcTy = 7 ∨ F.srcTy = 8) ∧ F.srcTy ≠ 11 := by omega
    rw [if_pos htap] at hj
    rw [if_pos htap, List.getElem?_map, List.getElem?_range hj]
    simp only [Claims.expanded, narrow, if_false, Option.map_some, sint_eq_intOf, extractLsb'_toNat_eq_div, rnd_eq_modeOf]
    split <;> rfl
  · rw [if_neg htap] at hj
    rw [if_neg htap, List.getElem?_map, List.getElem?_range hj, Option.map_some, Option.some.injEq]
    have small : (F.opA false g x).toNat / 65536 ^ j % 65536 < 2 ^ 64 := by omega
    have source : (BitVec.ofNat 64 ((F.opA false g x).toNat / 65536 ^ j % 65536)).toNat = (F.opA false g x).toNat / 65536 ^ j % 65536 :=
      Nat.mod_eq_of_lt small
    have loWord (n : Nat) : loWord (BitVec.ofNat 64 n) = BitVec.ofNat 32 n := by rw [loWord_eq_setWidth, BitVec.setWidth_ofNat_of_le (by omega)]
    have ftz : x.ftz = x.fpcr.getLsbD 2 := rfl
    have field : (F.opA false g x).toNat / 65536 ^ j % 65536 = Claims.elemOf F.srcTy j (F.opA false g x) := by
      rw [← elem_eq_elemOf, elem, if_neg (by omega)]
    obtain h | h | h : F.srcTy = 7 ∨ F.srcTy = 8 ∨ F.srcTy = 11 := by omega
    · rw [h] at field
      simp [h, convertTo, sourceNum, loWord, Claims.expanded, rnd_eq_modeOf, ← field, Claims.fmtOf, ftz]
    · rw [h] at field
      simp [h, convertTo, sourceNum, loWord, Claims.expanded, rnd_eq_modeOf, ← field, Claims.fmtOf, ftz]
    · have low : (BitVec.ofNat 64 ((F.opA false g x).toNat / 65536 ^ j % 65536)).setWidth 16 = ((F.opA false g x).extractLsb' (16 * j) 64).setWidth 16 := by
        apply BitVec.eq_of_toNat_eq
        rw [BitVec.toNat_setWidth, BitVec.toNat_setWidth, source, extractLsb'_toNat_eq_div, Nat.pow_mul]
        exact (Nat.mod_mod_of_dvd _ (by decide)).trans (Nat.mod_mod_of_dvd _ (by decide)).symm
      have q15 : sint 16 ((F.opA false g x).toNat / 65536 ^ j % 65536) = Claims.intOf 16 false ((F.opA false g x).extractLsb' (16 * j) 64) := by
        rw [← source, sint_eq_intOf, Claims.intOf, Claims.intOf, low]
      simp [h, convertTo, sourceNum, source, loWord, Claims.expanded, rnd_eq_modeOf, q15, Num.ofInt, ftz]

end

/-- CVT by its types (R49, R126). -/
theorem cvtVal_by_type {F : Fields} (g : Group) (x : Thread) (hsrc : F.srcTy ∈ [0, 1, 2, 3, 4, 5, 6, 9, 10, 11]) :
    let mode := Claims.modeOf x F.low3
    let ftz := x.fpcr.getLsbD 2 && decide (F.ty = 4 ∨ F.ty = 5 ∨ F.ty = 6)
    let src := Claims.cvtSource F ftz (F.opA (F.srcTy == 1) g x)
    let code (r : Nat × Flags) : DWord × Flags := (BitVec.ofNat 64 r.1, r.2)
    (F.ty < 4 → let w := Claims.widthOf F.ty
      let r := src.clampInt mode (if F.zd then 0 else -(2 ^ (w - 1))) (if F.zd then 2 ^ w - 1 else 2 ^ (w - 1) - 1)
      cvtVal F g x = (Claims.held w F.zd r.1, r.2)) ∧
    (F.ty = 4 ∨ F.ty = 5 ∨ F.ty = 6 → cvtVal F g x = code (src.round (Claims.fmtOf F.ty) ⟨mode, ftz, F.cvtSat⟩)) ∧
    (F.ty = 9 → cvtVal F g x = code (src.roundTap 8)) ∧ (F.ty = 10 → cvtVal F g x = code (src.roundTap 6)) ∧
    (F.ty = 11 → let r := (src.scale 15).clampInt mode (-(2 ^ 15)) (2 ^ 15 - 1)
      cvtVal F g x = ((BitVec.ofInt 16 r.1).setWidth 64, r.2)) := by
  intro mode ftz src code
  have eq (h : F.ty ≠ 7 ∧ F.ty ≠ 8) : cvtVal F g x = convertTo F.ty F.zd ⟨mode, ftz, F.cvtSat⟩ src := by
    have : (x.ftz && ftzApplies F.ty) = ftz := congrArg (x.ftz && ·) (by rw [Bool.eq_iff_iff]; simp [ftzApplies, h, or_assoc])
    rw [cvtVal_eq g x hsrc, this]
  refine ⟨fun h => ?_, fun h => ?_, fun h => ?_, fun h => ?_, fun h => ?_⟩
  · rw [eq (by omega), convertTo_int h]
  · rw [eq (by omega)]
    obtain h | h | h := h
    · rw [h]
      rfl
    · rw [h]
      rfl
    · rw [h]
      rfl
  · rw [eq (by omega), h]
    rfl
  · rw [eq (by omega), h]
    rfl
  · rw [eq (by omega), h]
    rfl

/-- Settles O15: the three shapes of row, and the value of each. -/
theorem floatInstructionsWrite : Obligations.FloatInstructionsWrite := by
  refine ⟨fun i F s hwf hF hrow calm => float_row hwf hF hrow calm,
    ⟨fun i F s hwf hF hmaj hmn calm => fcmp_row hwf hF hmaj hmn calm, fun i F s hwf hF hmaj hmn calm => cvtxp_row hwf hF hmaj hmn calm⟩,
    fun F g x => ⟨fun _ _ => ⟨fun hmaj => ?_, fun hmaj => ?_, fun hmaj hmn => ?_, fun hmaj hmn => ?_, fun hmaj hmn => ?_, fun hmaj hmn => ?_, fun hmaj hmn => ?_⟩,
      fun hmaj hmn hsrc => ?_, fun hmaj hmn => ⟨fun hty => ?_, fun hty => ?_⟩, fun hmaj hmn hsrc j hj => cvtxp_element g x hsrc j hj⟩⟩
  · rw [show Claims.floatValue F g x = farithVal F g x by simp [Claims.floatValue, hmaj]]
    exact farithVal_byElement F g x
  · rw [show Claims.floatValue F g x = funaryVal F g x by simp [Claims.floatValue, hmaj]]
    exact funaryVal_byElement F g x
  · rw [show Claims.floatValue F g x = fmiscVal F g x by simp [Claims.floatValue, hmaj]]
    exact fmiscVal_frnd F g x hmn
  · rw [show Claims.floatValue F g x = fmiscVal F g x by simp [Claims.floatValue, hmaj]]
    exact fmiscVal_fclass F g x hmn
  · rw [show Claims.floatValue F g x = fmiscVal F g x by simp [Claims.floatValue, hmaj]]
    exact fmiscVal_fldexp F g x hmn
  · rw [show Claims.floatValue F g x = fmiscVal F g x by simp [Claims.floatValue, hmaj]]
    exact fmiscVal_fgetexp F g x hmn
  · rw [show Claims.floatValue F g x = fmiscVal F g x by simp [Claims.floatValue, hmaj]]
    exact fmiscVal_fgetman F g x hmn
  · rw [show Claims.floatValue F g x = cvtVal F g x by simp [Claims.floatValue, hmaj, hmn]]
    exact cvtVal_by_type g x hsrc
  · rw [show Claims.floatValue F g x = cvtpkVal F g x by simp [Claims.floatValue, hmaj, hmn]]
    exact cvtpk_halves g x hty
  · rw [show Claims.floatValue F g x = cvtpkVal F g x by simp [Claims.floatValue, hmaj, hmn]]
    exact cvtpk_taps g x hty

end Machine
end Sys2Proof
end

section
/-! PROOFS. Rebalancing (18 R334): first tables, groups and threads as the later parts read them, then the teams that move and their order. -/

namespace Sys2Proof

/-! Tables. -/

theorem Tab.mem_keys_iff {α : Type} {t : Tab α} {k : Nat} : k ∈ t.keys ↔ ∃ v, t.get? k = some v := by
  induction t with
  | nil => simp [Tab.keys]
  | cons e t ih =>
    obtain ⟨j, w⟩ := e
    simp only [Tab.keys, List.map_cons, List.mem_cons, Tab.get?_cons] at ih ⊢
    by_cases h : k = j <;> simp [h, ih]

/-- What a change of one entry does not touch reads as before. -/
theorem Tab.getD_modify_congr {α β : Type} (r : α → β) {f : α → α} (hr : ∀ v, r (f v) = r v) (t : Tab α) (i k : Nat) (d : α) :
    r ((t.modify i f).getD k d) = r (t.getD k d) := by
  simp only [Tab.getD, Tab.get?_modify]
  split
  · cases t.get? k with
    | none => rfl
    | some v => exact hr v
  · rfl

@[simp] theorem Tab.keys_modify {α : Type} (t : Tab α) (i : Nat) (f : α → α) : (t.modify i f).keys = t.keys := by
  simp [Tab.modify, Tab.mapKV, Tab.keys]

namespace Machine

namespace State

theorem team_of_get? {s : State} {k : Nat} {T : Team} (h : s.teams.get? k = some T) : s.team k = T := by
  rw [team, Tab.getD, h]; rfl

theorem mem_groupsOf {s : State} {k gid : Nat} : gid ∈ s.groupsOf k ↔ teamOf gid = k ∧ ∃ g, s.groups.get? gid = some g := by
  simp [groupsOf, Tab.mem_keys_iff, and_comm]

theorem mem_threadsOf {s : State} {gid u : Nat} : u ∈ s.threadsOf gid ↔ gidOf u = gid ∧ ∃ z, s.threads.get? u = some z := by
  simp [threadsOf, Tab.mem_keys_iff, and_comm]

theorem mem_presentOf {s : State} {gid u : Nat} :
    u ∈ s.presentOf gid ↔ gidOf u = gid ∧ ∃ z, s.threads.get? u = some z ∧ z.life ≠ .exited := by
  simp only [presentOf, List.mem_filter, mem_threadsOf, decide_eq_true_eq]
  constructor
  · rintro ⟨⟨h, z, hz⟩, hlife⟩
    exact ⟨h, z, hz, State.thread_of_get? hz ▸ hlife⟩
  · rintro ⟨h, z, hz, hlife⟩
    exact ⟨⟨h, z, hz⟩, (State.thread_of_get? hz).symm ▸ hlife⟩

theorem groupEnded_of_live {s : State} {gid : Nat} (h : ∃ u z, s.threads.get? u = some z ∧ gidOf u = gid ∧ z.life ≠ .exited) :
    s.groupEnded gid = false := by
  obtain ⟨u, z, hz, hu, hlife⟩ := h
  rw [groupEnded, List.all_eq_false]
  exact ⟨u, mem_threadsOf.2 ⟨hu, z, hz⟩, by rw [thread_of_get? hz]; simpa using hlife⟩

theorem defaultParked_of_none {s : State} {gid : Nat}
    (h : ∀ u z, s.threads.get? u = some z → gidOf u = gid → z.life ≠ .exited → z.defPark = false) : s.defaultParked gid = false := by
  rw [defaultParked, List.any_eq_false]
  intro u hu
  obtain ⟨hugid, z, hz, hlife⟩ := mem_presentOf.1 hu
  rw [thread_of_get? hz, h u z hz hugid hlife]
  exact Bool.false_ne_true

/-- The teams that run on a core, of a launch of one team. -/
theorem teamsOf_filter_of_one {s : State} {l k : Nat} (h : s.teamsOf l = [k]) {p : Nat → Bool} (hp : p k = true) :
    (s.teamsOf l).filter p = [k] := by
  rw [h, List.filter_cons_of_pos hp, List.filter_nil]

end State

/-! REBALANCE (18 R334). -/

namespace State

@[simp] theorem die_modDie (s : State) (i : Nat) (f : Die → Die) (d : Nat) :
    (s.modDie i f).die d = if d = i then f (s.die i) else s.die d := Tab.getD_putD ..

theorem die_modTeam (s : State) (i : Nat) (f : Team → Team) (d : Nat) : (s.modTeam i f).die d = s.die d := rfl

theorem modDie_congr {s : State} {d : Nat} {f g : Die → Die} (h : f (s.die d) = g (s.die d)) : s.modDie d f = s.modDie d g := by
  rw [modDie, modDie, h]

theorem byTeamDesc_concat (s : State) (ks : List Nat) (k : Nat) : s.byTeamDesc (ks ++ [k]) =
    (s.byTeamDesc ks).takeWhile (fun x => decide ((s.team k).index < (s.team x).index)) ++
      k :: (s.byTeamDesc ks).dropWhile (fun x => decide ((s.team k).index < (s.team x).index)) := by
  simp only [byTeamDesc, List.foldl_append, List.foldl_cons, List.foldl_nil]

/-- Teams in ascending order of their numbers are turned round. -/
theorem byTeamDesc_of_ascending {s : State} {ks : List Nat} (h : ks.Pairwise (fun a b => (s.team a).index < (s.team b).index)) :
    s.byTeamDesc ks = ks.reverse := by
  induction ks using List.reverseRecOn with
  | nil => rfl
  | append_singleton l k ih =>
    obtain ⟨hl, -, hk⟩ := List.pairwise_append.1 h
    have hnone : ∀ x ∈ l.reverse, decide ((s.team k).index < (s.team x).index) = false := fun x hx => by
      have := hk x (List.mem_reverse.1 hx) k List.mem_cons_self
      simp only [decide_eq_false_iff_not]
      omega
    rw [byTeamDesc_concat, ih hl, List.reverse_append]
    cases hr : l.reverse with
    | nil => rfl
    | cons x r =>
      have hx := hnone x (hr ▸ List.mem_cons_self)
      simp only [List.takeWhile_cons, List.dropWhile_cons, hx]
      rfl

/-- Teams in descending order of their numbers stand as they are. -/
theorem byTeamDesc_of_descending {s : State} {ks : List Nat} (h : ks.Pairwise (fun a b => (s.team b).index < (s.team a).index)) :
    s.byTeamDesc ks = ks := by
  induction ks using List.reverseRecOn with
  | nil => rfl
  | append_singleton l k ih =>
    obtain ⟨hl, -, hk⟩ := List.pairwise_append.1 h
    have hall : ∀ x ∈ l, decide ((s.team k).index < (s.team x).index) = true := fun x hx =>
      decide_eq_true (hk x hx k List.mem_cons_self)
    rw [byTeamDesc_concat, ih hl, List.takeWhile_eq_self_iff.2 hall, List.dropWhile_eq_nil_iff.2 hall]

/-- Of teams in no gang and of no pinned launch, the first ones move. -/
theorem movers_of_single {s : State} {ks : List Nat}
    (h : ∀ k ∈ ks, (s.team k).gang.length ≤ 1 ∧ (s.launch (s.team k).launch).pin = none) (n : Nat) : s.movers ks n = ks.take n := by
  induction ks generalizing n with
  | nil => simp [movers]
  | cons k ks ih =>
    obtain ⟨⟨hgang, hpin⟩, hks⟩ := List.forall_mem_cons.1 h
    cases n with
    | zero => simp [movers, hgang, hpin, ih hks]
    | succ n => simp [movers, hgang, hpin, ih hks]

/-- A team of a higher number than every team of the order goes behind them. -/
theorem insertPending_of_highest {s : State} {ps : List Nat} {k : Nat} (h : ∀ x ∈ ps, (s.team x).index < (s.team k).index) :
    s.insertPending ps k = ps ++ [k] := by
  have hall : ∀ x ∈ ps, (!((s.team x).launch == (s.team k).launch && decide ((s.team k).index < (s.team x).index))) = true := fun x hx => by
    have := h x hx
    have hn : ¬ (s.team k).index < (s.team x).index := by omega
    simp [hn]
  rw [insertPending, List.takeWhile_eq_self_iff.2 hall, List.dropWhile_eq_nil_iff.2 hall]

/-- A team moved to the pending order of a die (R334). -/
def moveTo (b : Nat) (s : State) (k : Nat) : State :=
  (s.modDie b (fun d => { d with pending := s.insertPending d.pending k })).modTeam k (fun t => { t with die := b })

theorem moveTo_die_of_ne {b d : Nat} (h : d ≠ b) (s : State) (k : Nat) : (s.moveTo b k).die d = s.die d := by
  rw [moveTo, die_modTeam, die_modDie, if_neg h]

theorem moveTo_die (b : Nat) (s : State) (k : Nat) :
    (s.moveTo b k).die b = { s.die b with pending := s.insertPending (s.die b).pending k } := by
  rw [moveTo, die_modTeam, die_modDie, if_pos rfl]

theorem moveTo_teams (b : Nat) (s : State) (k j : Nat) : (s.moveTo b k).teams.get? j =
    if j = k then (s.teams.get? j).map (fun t => { t with die := b }) else s.teams.get? j := by
  rw [moveTo, modTeam_teams, Tab.get?_modify, modDie_teams]

theorem moveTo_index (b : Nat) (s : State) (k x : Nat) : ((s.moveTo b k).team x).index = (s.team x).index :=
  Tab.getD_modify_congr (f := fun t => { t with die := b }) Team.index (fun _ => rfl) s.teams k x Team.blank

/-- Teams moved in ascending order of their numbers, each higher than all that are pending there: they go behind, in that order. -/
theorem foldl_moveTo (b : Nat) (l : List Nat) (s : State)
    (h : ((s.die b).pending ++ l).Pairwise (fun x y => (s.team x).index < (s.team y).index)) :
    { l.foldl (moveTo b) s with dies := s.dies, teams := s.teams } = s ∧
      (l.foldl (moveTo b) s).die b = { s.die b with pending := (s.die b).pending ++ l } ∧
      (∀ d, d ≠ b → (l.foldl (moveTo b) s).die d = s.die d) ∧
      ∀ j, (l.foldl (moveTo b) s).teams.get? j = if j ∈ l then (s.teams.get? j).map (fun t => { t with die := b }) else s.teams.get? j := by
  induction l generalizing s with
  | nil => simp
  | cons k l ih =>
    have hins : s.insertPending (s.die b).pending k = (s.die b).pending ++ [k] := insertPending_of_highest fun x hx =>
      (List.pairwise_append.1 h).2.2 x hx k List.mem_cons_self
    have hpending : ((s.moveTo b k).die b).pending = (s.die b).pending ++ [k] := by rw [moveTo_die, hins]
    obtain ⟨hframe, hb, hd, hteams⟩ := ih (s.moveTo b k) (by
      simpa only [hpending, List.append_assoc, List.singleton_append, moveTo_index] using h)
    refine ⟨?_, ?_, fun d hdb => ?_, fun j => ?_⟩
    · exact (congrArg (fun u : State => { u with dies := s.dies, teams := s.teams }) hframe)
    · rw [List.foldl_cons, hb, hpending, moveTo_die, List.append_assoc, List.singleton_append]
    · rw [List.foldl_cons, hd d hdb, moveTo_die_of_ne hdb]
    · rw [List.foldl_cons, hteams, moveTo_teams]
      by_cases hjk : j = k <;> by_cases hjl : j ∈ l <;> simp [hjk, hjl, Option.map_map, Function.comp_def]

end State

open State

/-- A list of distinct items without those from a place on is what stands before that place. -/
theorem filter_notMem_drop {ks : List Nat} (h : ks.Nodup) (m : Nat) :
    ks.filter (fun k => !(ks.drop m).reverse.contains k) = ks.take m := by
  have hdisj : ∀ a ∈ ks.take m, a ∉ ks.drop m := fun a ha hb => by
    rw [← List.take_append_drop m ks, List.nodup_append] at h
    exact h.2.2 a ha a hb rfl
  conv_lhs => rw [← List.take_append_drop m ks, List.filter_append]
  rw [List.filter_eq_self.2, List.filter_eq_nil_iff.2, List.append_nil]
  · intro a ha
    simpa using ha
  · intro a ha
    simpa using hdisj a ha

/-- What a rebalance does where teams are pending on die 0 alone, as many as it looks for: half of them go to die 1. -/
theorem evRebalance_of_one {s : State} {n : Nat} (hn : (s.die 0).pending.length = n) (hpos : 0 < n)
    (h : ∀ d, 1 ≤ d → d < 4 → (s.die d).pending = []) (hr : s.rebal ≠ 0) (hle : s.rebal ≤ n) :
    evRebalance s = ((s.byTeamDesc (s.movers (s.byTeamDesc (s.die 0).pending) (n / 2))).reverse).foldl (moveTo 1)
      (s.modDie 0 (fun d => { d with pending := d.pending.filter (fun k =>
        !(s.movers (s.byTeamDesc (s.die 0).pending) (n / 2)).contains k) })) := by
  have hp (d : Nat) (h1 : 1 ≤ d) (h4 : d < 4) : (s.die d).pending.length = 0 := by rw [h d h1 h4]; rfl
  have hfrom : (List.range 4).foldl (fun b d => if (s.die b).pending.length < (s.die d).pending.length then d else b) 0 = 0 :=
    foldl_eq_self_of_mem fun d hd => by
      rcases Nat.eq_zero_or_pos d with rfl | h1
      · simp
      · simp [hp d h1 (List.mem_range.1 hd)]
  have hto : (List.range 4).foldl (fun b d => if (s.die d).pending.length < (s.die b).pending.length then d else b) 0 = 1 := by
    have hrange : List.range 4 = [0, 1, 2, 3] := rfl
    simp [hrange, hp, hn, hpos]
  have hgo : ¬(s.rebal = 0 ∨ n < 0 + s.rebal) := by omega
  simp only [evRebalance, hfrom, hto, hn, hp 1 (le_refl 1) (by decide), if_neg hgo, Nat.sub_zero]
  rfl

/-- R334, of teams of one launch in ascending order: the upper half moves, in its order. -/
theorem evRebalance_of_ascending {s : State} {ks : List Nat} (h0 : (s.die 0).pending = ks) (h : ∀ d, 1 ≤ d → d < 4 → (s.die d).pending = [])
    (hr : s.rebal ≠ 0) (hle : s.rebal ≤ ks.length) (hsingle : ∀ k ∈ ks, (s.team k).gang.length ≤ 1 ∧ (s.launch (s.team k).launch).pin = none)
    (hasc : ks.Pairwise (fun a b => (s.team a).index < (s.team b).index)) :
    evRebalance s = (ks.drop (ks.length - ks.length / 2)).foldl (moveTo 1)
      (s.modDie 0 (fun d => { d with pending := ks.take (ks.length - ks.length / 2) })) := by
  have hms : s.movers (s.byTeamDesc ks) (ks.length / 2) = (ks.drop (ks.length - ks.length / 2)).reverse := by
    rw [byTeamDesc_of_ascending hasc, movers_of_single fun k hk => hsingle k (List.mem_reverse.1 hk), List.take_reverse]
  have hdesc : s.byTeamDesc (ks.drop (ks.length - ks.length / 2)).reverse = (ks.drop (ks.length - ks.length / 2)).reverse :=
    byTeamDesc_of_descending (List.pairwise_reverse.2 (hasc.sublist (List.drop_sublist ..)))
  have hnodup : ks.Nodup := hasc.imp fun hlt heq => by subst heq; exact Nat.lt_irrefl _ hlt
  rw [evRebalance_of_one (n := ks.length) (by rw [h0]) (by omega) h hr hle, h0, hms, hdesc, List.reverse_reverse]
  congr 1
  exact modDie_congr (by rw [h0, filter_notMem_drop hnodup])

/-- REBALANCE, of teams of one launch that stand in ascending order on die 0 (R334). -/
theorem exec_rebalance (s : State) (l : Nat) (ks : List Nat) (h0 : (s.die 0).pending = ks)
    (h : ∀ d, 1 ≤ d → d < 4 → (s.die d).pending = []) (hr : s.rebal ≠ 0) (hle : s.rebal ≤ ks.length) (hpin : (s.launch l).pin = none)
    (hteams : ∀ k ∈ ks, ∃ T, s.teams.get? k = some T ∧ T.launch = l ∧ T.gang.length ≤ 1)
    (hasc : ks.Pairwise (fun a b => (s.team a).index < (s.team b).index)) :
    let n := ks.length / 2
    ∃ t, exec .rebalance s = .next t ∧ { t with dies := s.dies, teams := s.teams } = s ∧
      t.die 0 = { s.die 0 with pending := ks.take (ks.length - n) } ∧ t.die 1 = { s.die 1 with pending := ks.drop (ks.length - n) } ∧
      (∀ d, 1 < d → t.die d = s.die d) ∧
      ∀ k T, s.teams.get? k = some T → t.teams.get? k = some (if k ∈ ks.drop (ks.length - n) then { T with die := 1 } else T) := by
  intro n
  have hsingle : ∀ k ∈ ks, (s.team k).gang.length ≤ 1 ∧ (s.launch (s.team k).launch).pin = none := fun k hk => by
    obtain ⟨T, hT, rfl, hgang⟩ := hteams k hk
    rw [team_of_get? hT]
    exact ⟨hgang, hpin⟩
  have hev := evRebalance_of_ascending h0 h hr hle hsingle hasc
  generalize hs1 : s.modDie 0 (fun d => { d with pending := ks.take (ks.length - ks.length / 2) }) = s1 at hev
  have hdie (d : Nat) : s1.die d = if d = 0 then { s.die 0 with pending := ks.take (ks.length - n) } else s.die d := by
    rw [← hs1, die_modDie]
  have h1 : s1.die 1 = s.die 1 := hdie 1
  obtain ⟨hframe, hto, hother, hteam⟩ := foldl_moveTo 1 (ks.drop (ks.length - n)) s1 (by
    rw [h1, h 1 (le_refl 1) (by decide), List.nil_append, ← hs1]
    exact hasc.sublist (List.drop_sublist ..))
  refine ⟨_, congrArg Host.Outcome.next hev, ?_, ?_, ?_, fun d hd => ?_, fun k T hk => ?_⟩
  · have h := congrArg (fun u : State => { u with dies := s.dies, teams := s.teams }) hframe
    rw [← hs1] at h ⊢
    exact h
  · rw [hother 0 (by decide), hdie, if_pos rfl]
  · rw [hto, h1, h 1 (le_refl 1) (by decide), List.nil_append]
  · rw [hother d (by omega), hdie, if_neg (by omega)]
  · have hk1 : s1.teams.get? k = some T := by rw [← hs1]; exact hk
    rw [hteam, hk1]
    split <;> rfl

end Machine

end Sys2Proof
end

section
/-! PROOFS. Pre-emption of a launch on a core (20 R347, R348, R353, R358): what PREEMPT does to a thread, a group and a team. -/

namespace Sys2Proof.Machine

/-! PREEMPT (20 R353, R347, R348, R358). -/

/-- What PREEMPT does to a thread of a group whose handler pointer is `h` (R347, R353): it enters slot P at the handler plus 16, and where the
handler's offset is zero the default handler parks it (R358). -/
def Thread.preempted (now : Nat) (thnd : Word) (h : Ptr) (t : Thread) : Thread :=
  if t.life ≠ .running ∨ t.slotP.isSome then t
  else if thnd = 0 then { t.dropWaitc with defPark := true }
  else t.dropWaitc.enter now .preempt t.dropWaitc.waitResume (mkPtr (segOf h) (offOf h + 16))

theorem Thread.preempted_of_not {now : Nat} {thnd : Word} {h : Ptr} {t : Thread} (ht : t.life ≠ .running ∨ t.slotP.isSome) :
    t.preempted now thnd h = t := if_pos ht

theorem Thread.dropWaitc_life (t : Thread) : t.dropWaitc.life = t.life := by
  cases hw : t.wait <;> simp only [dropWaitc, hw]

theorem Thread.dropWaitc_slotP (t : Thread) : t.dropWaitc.slotP = t.slotP := by
  cases hw : t.wait <;> simp only [dropWaitc, hw]

theorem Thread.dropWaitc_of_parked (t : Thread) :
    ({ t.dropWaitc with defPark := true } : Thread).dropWaitc = { t.dropWaitc with defPark := true } := by
  cases hw : t.wait <;> simp [dropWaitc, hw]

theorem Thread.dropWaitc_wait {t : Thread} (h : ∀ a, t.wait ≠ .acquire a) (a : Nat) : t.dropWaitc.wait ≠ .acquire a := by
  cases hw : t.wait with
  | acquire b => exact absurd hw (h b)
  | _ => simp [dropWaitc, hw]

/-- A thread that PREEMPT has reached receives no second one. -/
theorem Thread.preempted_preempted (now : Nat) (thnd : Word) (h : Ptr) (t : Thread) :
    (t.preempted now thnd h).preempted now thnd h = t.preempted now thnd h := by
  by_cases ht : t.life ≠ .running ∨ t.slotP.isSome
  · rw [preempted_of_not ht, preempted_of_not ht]
  · by_cases hz : thnd = 0
    · have hp : t.preempted now thnd h = { t.dropWaitc with defPark := true } := by rw [preempted, if_neg ht, if_pos hz]
      rw [hp, preempted, if_neg (by simpa only [dropWaitc_life, dropWaitc_slotP] using ht), if_pos hz, dropWaitc_of_parked]
    · rw [preempted_of_not]
      right
      rw [preempted, if_neg ht, if_neg hz]
      rfl

theorem Thread.preempted_wait {now : Nat} {thnd : Word} {h : Ptr} {t : Thread} (ht : ∀ a, t.wait ≠ .acquire a) (a : Nat) :
    (t.preempted now thnd h).wait ≠ .acquire a := by
  unfold preempted
  split
  · exact ht a
  · split
    · exact dropWaitc_wait ht a
    · exact nofun

namespace State

/-- What PREEMPT does to thread `u` as its group stands. -/
def preemptOf (s : State) (u : Nat) : Thread → Thread := Thread.preempted s.cycle (s.group (gidOf u)).thnd (s.handler (gidOf u))

theorem preemptOf_congr {s t : State} (hc : t.cycle = s.cycle) {u : Nat} (hh : (t.group (gidOf u)).thnd = (s.group (gidOf u)).thnd)
    (hs : (t.group (gidOf u)).thndSeg = (s.group (gidOf u)).thndSeg) : t.preemptOf u = s.preemptOf u := by
  simp only [preemptOf, handler, hc, hh, hs]

theorem preemptThread_frame (s : State) (u : Nat) : { s.preemptThread u with threads := s.threads } = s := by
  simp only [preemptThread]
  repeat' split
  all_goals rfl

theorem preemptThread_get? (s : State) (u j : Nat) : (s.preemptThread u).threads.get? j =
    if j = u then (s.threads.get? j).map (s.preemptOf u) else s.threads.get? j := by
  by_cases hj : j = u
  · subst hj
    rw [if_pos rfl]
    cases hz : s.threads.get? j with
    | none => 
      simp only [preemptThread]
      repeat' split
      all_goals simp [hz]
    | some z =>
      simp only [preemptThread, thread_of_get? hz, preemptOf, Option.map_some, Thread.preempted]
      repeat' split
      all_goals simp [hz]
  · rw [if_neg hj]
    simp only [preemptThread]
    repeat' split
    all_goals simp [hj]

/-- PREEMPT for several threads. -/
theorem foldl_preemptThread (l : List Nat) (s : State) : { l.foldl preemptThread s with threads := s.threads } = s ∧
    ∀ u, (l.foldl preemptThread s).threads.get? u = if u ∈ l then (s.threads.get? u).map (s.preemptOf u) else s.threads.get? u := by
  induction l generalizing s with
  | nil => simp
  | cons v l ih =>
    obtain ⟨hframe, hget⟩ := ih (s.preemptThread v)
    have hf := preemptThread_frame s v
    refine ⟨(congrArg (fun u : State => { u with threads := s.threads }) hframe).trans hf, fun u => ?_⟩
    have hof : (s.preemptThread v).preemptOf u = s.preemptOf u := by
      have h := congrArg (fun t : State => t.preemptOf u) hf
      exact h
    rw [List.foldl_cons, hget, preemptThread_get?, hof]
    by_cases huv : u = v
    · subst huv
      cases s.threads.get? u with
      | none => simp
      | some z => simp [preemptOf, Thread.preempted_preempted]
    · simp [huv]

/-- No group of a team is in a speculation or waits on a collective domain, and none of its threads is in an acquire. -/
def Calm (s : State) (k : Nat) : Prop :=
  (∀ gid g, s.groups.get? gid = some g → teamOf gid = k → g.spec = none ∧ ∀ e ∈ g.doms, e.2.inFlight = false) ∧
    ∀ u z, s.threads.get? u = some z → teamOf (gidOf u) = k → ∀ a, z.wait ≠ .acquire a

/-- A group at an instruction boundary receives PREEMPT in all its threads. -/
theorem preemptGroup_of_calm {s : State} {k gid : Nat} (hcalm : s.Calm k) (hk : teamOf gid = k) (hgid : gid ∈ s.groupsOf k) :
    s.preemptGroup gid = (s.presentOf gid).foldl preemptThread (s.modGroup gid (fun g => { g with preempt := false })) := by
  obtain ⟨hgroups, hthreads⟩ := hcalm
  obtain ⟨-, g, hg⟩ := mem_groupsOf.1 hgid
  obtain ⟨hspec, hdoms⟩ := hgroups gid g hg hk
  have hd : g.doms.any (fun e => e.2.inFlight) = false := by simpa using hdoms
  have hw : (s.presentOf gid).any (fun t => match (s.thread t).wait with | .acquire _ => true | _ => false) = false := by
    rw [List.any_eq_false]
    intro u hu
    obtain ⟨hugid, z, hz, -⟩ := mem_presentOf.1 hu
    rw [thread_of_get? hz]
    split
    · next a ha => exact absurd ha (hthreads u z hz (by rw [hugid, hk]) a)
    · exact Bool.false_ne_true
  simp only [preemptGroup, group_of_get? hg, hspec, hd, Option.isSome_none, Bool.or_false, Bool.false_or]
  exact if_neg fun h => absurd (h.symm.trans hw) (by decide)

theorem preemptOf_exited {s : State} {u : Nat} {z : Thread} (h : z.life = .exited) : s.preemptOf u z = z :=
  Thread.preempted_of_not (.inl (by rw [h]; decide))

theorem preemptOf_modGroup_preempt (s : State) (gid u : Nat) : (s.modGroup gid (fun g => { g with preempt := false })).preemptOf u = s.preemptOf u :=
  preemptOf_congr (s := s) (t := s.modGroup gid (fun g => { g with preempt := false })) rfl
    (Tab.getD_modify_congr (f := fun g => { g with preempt := false }) Group.thnd (fun _ => rfl) s.groups ..)
    (Tab.getD_modify_congr (f := fun g => { g with preempt := false }) Group.thndSeg (fun _ => rfl) s.groups ..)

/-- PREEMPT of a group: nothing changes but its flag and what its threads do. -/
theorem preemptGroup_spec {s : State} {k gid : Nat} (hcalm : s.Calm k) (hgid : gid ∈ s.groupsOf k) :
    { s.preemptGroup gid with threads := s.threads } = s.modGroup gid (fun g => { g with preempt := false }) ∧
      ∀ u, (s.preemptGroup gid).threads.get? u = if gidOf u = gid then (s.threads.get? u).map (s.preemptOf u) else s.threads.get? u := by
  rw [preemptGroup_of_calm hcalm (mem_groupsOf.1 hgid).1 hgid]
  obtain ⟨hframe, hget⟩ := foldl_preemptThread (s.presentOf gid) (s.modGroup gid (fun g => { g with preempt := false }))
  refine ⟨hframe, fun u => ?_⟩
  rw [hget, modGroup_threads, preemptOf_modGroup_preempt]
  by_cases hu : gidOf u = gid
  · rw [if_pos hu]
    split
    · rfl
    · next hnot =>
      cases hz : s.threads.get? u with
      | none => rfl
      | some z =>
        have hexit : z.life = .exited := by
          by_contra hlife
          exact hnot (mem_presentOf.2 ⟨hu, z, hz, hlife⟩)
        rw [Option.map_some, preemptOf_exited hexit]
  · rw [if_neg hu, if_neg fun h => hu (mem_presentOf.1 h).1]

theorem Calm.preemptGroup {s : State} {k gid : Nat} (hcalm : s.Calm k) (hgid : gid ∈ s.groupsOf k) : (s.preemptGroup gid).Calm k := by
  obtain ⟨hframe, hget⟩ := preemptGroup_spec hcalm hgid
  have hgroups := congrArg State.groups hframe
  replace hgroups : (s.preemptGroup gid).groups = s.groups.modify gid (fun g => { g with preempt := false }) := hgroups
  refine ⟨fun j g hg hj => ?_, fun u z hz hu a => ?_⟩
  · rw [hgroups, Tab.get?_modify] at hg
    split at hg
    · obtain ⟨g', hg', rfl⟩ := Option.map_eq_some_iff.1 hg
      exact hcalm.1 j g' hg' hj
    · exact hcalm.1 j g hg hj
  · rw [hget] at hz
    split at hz
    · obtain ⟨z', hz', rfl⟩ := Option.map_eq_some_iff.1 hz
      exact Thread.preempted_wait (hcalm.2 u z' hz' hu) a
    · exact hcalm.2 u z hz hu a

/-- PREEMPT of several groups of a team. -/
theorem foldl_preemptGroup {k : Nat} (l : List Nat) (s : State) (hcalm : s.Calm k) (hl : ∀ gid ∈ l, gid ∈ s.groupsOf k) :
    { l.foldl preemptGroup s with threads := s.threads, groups := s.groups } = s ∧
      (∀ j, (l.foldl preemptGroup s).groups.get? j =
        if j ∈ l then (s.groups.get? j).map (fun g => { g with preempt := false }) else s.groups.get? j) ∧
      ∀ u, (l.foldl preemptGroup s).threads.get? u = if gidOf u ∈ l then (s.threads.get? u).map (s.preemptOf u) else s.threads.get? u := by
  induction l generalizing s with
  | nil => simp
  | cons gid l ih =>
    obtain ⟨hgid, hrest⟩ := List.forall_mem_cons.1 hl
    obtain ⟨hframe, hget⟩ := preemptGroup_spec hcalm hgid
    have hgroups : (s.preemptGroup gid).groups = s.groups.modify gid (fun g => { g with preempt := false }) := by
      have h := congrArg State.groups hframe
      exact h
    have hof (u : Nat) : (s.preemptGroup gid).preemptOf u = s.preemptOf u := by
      have h := congrArg (fun t : State => t.preemptOf u) hframe
      rw [preemptOf_modGroup_preempt] at h
      exact h
    obtain ⟨ihframe, ihgroups, ihthreads⟩ := ih (s.preemptGroup gid) (hcalm.preemptGroup hgid) (fun j hj => by
      rw [groupsOf, hgroups, Tab.keys_modify]
      exact hrest j hj)
    refine ⟨?_, fun j => ?_, fun u => ?_⟩
    · have h1 := congrArg (fun u : State => { u with threads := s.threads, groups := s.groups }) ihframe
      have h2 := congrArg (fun u : State => { u with groups := s.groups }) hframe
      exact h1.trans h2
    · rw [List.foldl_cons, ihgroups, hgroups, Tab.get?_modify]
      by_cases hj : j = gid
      · subst hj
        cases s.groups.get? j <;> simp
      · simp [hj]
    · rw [List.foldl_cons, ihthreads, hget, hof]
      by_cases hu : gidOf u = gid
      · cases s.threads.get? u with
        | none => simp
        | some z => simp [hu, preemptOf, Thread.preempted_preempted]
      · simp [hu]

/-- A thread that enters slot P: what the slot holds and where it goes on (R347, R353). -/
theorem preemptOf_of_handler {s : State} {u : Nat} {z : Thread} {g : Group} (hg : s.groups.get? (gidOf u) = some g) (hlife : z.life = .running)
    (hslot : z.slotP = none) (hwait : z.wait = .none) (hthnd : g.thnd ≠ 0) : s.preemptOf u z =
      z.enter s.cycle .preempt z.pc (mkPtr (g.thndSeg % 2 ^ 20) (g.thnd.toNat + 16)) := by
  have hdrop : z.dropWaitc = z := by simp [Thread.dropWaitc, hwait]
  have hres : z.waitResume = z.pc := by simp [Thread.waitResume, hwait]
  have hsmall : g.thnd.toNat % 2 ^ 44 = g.thnd.toNat := Nat.mod_eq_of_lt (by have := g.thnd.isLt; omega)
  rw [preemptOf, Thread.preempted, if_neg (by simp [hlife, hslot]), group_of_get? hg, if_neg hthnd, hdrop, hres, handler, group_of_get? hg]
  simp only [segOf_mkPtr, offOf_mkPtr, hsmall]

theorem preemptOf_of_default {s : State} {u : Nat} {z : Thread} {g : Group} (hg : s.groups.get? (gidOf u) = some g) (hlife : z.life = .running)
    (hslot : z.slotP = none) (hwait : z.wait = .none) (hthnd : g.thnd = 0) : s.preemptOf u z = { z with defPark := true } := by
  have hdrop : z.dropWaitc = z := by simp [Thread.dropWaitc, hwait]
  rw [preemptOf, Thread.preempted, if_neg (by simp [hlife, hslot]), group_of_get? hg, if_pos hthnd, hdrop]

end State

open State

/-- PREEMPT_REQUEST of a launch whose one team runs on the core. -/
theorem evPreemptRequest_of_one {s : State} {l core k : Nat} {T : Team} (hsub : s.subject = .launchOn l core) (hteams : s.teamsOf l = [k])
    (hT : s.teams.get? k = some T) (hplace : T.place = .resident) (hcore : core ∈ T.cores) (hending : T.ending = none) :
    evPreemptRequest s = (s.groupsOf k).foldl preemptGroup (s.modTeam k (fun t => { t with preempting := true })) := by
  unfold evPreemptRequest
  split
  next l' core' hl =>
    obtain ⟨rfl, rfl⟩ : l' = l ∧ core' = core := by
      have := hl.symm.trans hsub
      simpa using this
    have hk : (decide ((s.team k).place = .resident) && !s.teamOver k && (s.team k).cores.contains core') = true := by
      simp [teamOver, team_of_get? hT, hplace, hcore, hending]
    rw [preemptLaunch, teamsOf_filter_of_one hteams hk]
    rfl
  next hother => exact absurd hsub (hother l core)

/-- PREEMPT_REQUEST (R353, R347, R358). -/
theorem exec_preemptRequest (s : State) (l core k : Nat) (T : Team) (hsub : s.subject = .launchOn l core) (hteams : s.teamsOf l = [k])
    (hT : s.teams.get? k = some T) (hplace : T.place = .resident) (hcore : core ∈ T.cores) (hending : T.ending = none)
    (hgroups : ∀ gid g, s.groups.get? gid = some g → teamOf gid = k → g.spec = none ∧ ∀ e ∈ g.doms, e.2.inFlight = false)
    (hthreads : ∀ u z, s.threads.get? u = some z → teamOf (gidOf u) = k → ∀ a, z.wait ≠ .acquire a) :
    ∃ t, exec .preemptRequest s = .next t ∧ { t with threads := s.threads, groups := s.groups, teams := s.teams } = s ∧
      t.teams.get? k = some { T with preempting := true } ∧ (∀ j, j ≠ k → t.teams.get? j = s.teams.get? j) ∧
      (∀ gid g, s.groups.get? gid = some g → t.groups.get? gid = some (if teamOf gid = k then { g with preempt := false } else g)) ∧
      (∀ u z, s.threads.get? u = some z → teamOf (gidOf u) ≠ k ∨ z.life ≠ .running ∨ z.slotP.isSome → t.threads.get? u = some z) ∧
      ∀ u z g, Claims.InTeam s k u z g → z.life = .running → z.slotP = none → z.wait = .none →
        (g.thnd = 0 → t.threads.get? u = some { z with defPark := true }) ∧
        (g.thnd ≠ 0 → ∃ y sl, t.threads.get? u = some y ∧ y.slotP = some sl ∧ sl.resume = z.pc ∧ sl.depth = z.depth ∧ sl.rpc = z.rpc ∧
          sl.crossings = z.cross.length ∧ segOf y.pc = g.thndSeg % 2 ^ 20 ∧ offOf y.pc = g.thnd.toNat + 16 ∧ y.rpc = 0 ∧ y.inRep = false ∧
          { y with slotP := z.slotP, pc := z.pc, rpc := z.rpc, inRep := z.inRep, pair := z.pair, released := z.released,
                   idleTicks := z.idleTicks } = z) := by
  generalize hs1 : s.modTeam k (fun t => { t with preempting := true }) = s1
  have hev : evPreemptRequest s = (s.groupsOf k).foldl preemptGroup s1 := hs1 ▸ evPreemptRequest_of_one hsub hteams hT hplace hcore hending
  have hgr : s1.groups = s.groups := by rw [← hs1, modTeam_groups]
  have hth : s1.threads = s.threads := by rw [← hs1, modTeam_threads]
  have hte (j : Nat) : s1.teams.get? j = if j = k then (s.teams.get? j).map (fun t => { t with preempting := true }) else s.teams.get? j := by
    rw [← hs1, modTeam_teams, Tab.get?_modify]
  have hgs : s1.groupsOf k = s.groupsOf k := by rw [groupsOf, groupsOf, hgr]
  have hof (u : Nat) : s1.preemptOf u = s.preemptOf u := by rw [← hs1]; rfl
  obtain ⟨hframe, hg, ht⟩ := foldl_preemptGroup (k := k) (s.groupsOf k) s1 ⟨by rw [hgr]; exact hgroups, by rw [hth]; exact hthreads⟩
    (by rw [hgs]; exact fun _ h => h)
  generalize (s.groupsOf k).foldl preemptGroup s1 = t at hev hframe hg ht
  rw [hgr] at hg
  rw [hth] at ht
  have htt : t.teams = s1.teams := by
    have h := congrArg State.teams hframe
    exact h
  refine ⟨t, congrArg Host.Outcome.next hev, ?_, ?_, fun j hj => ?_, fun gid g hgid => ?_, fun u z hz hu => ?_, fun u z g hin hlife hslot hwait => ?_⟩
  · have h := congrArg (fun u : State => { u with threads := s.threads, groups := s.groups, teams := s.teams }) hframe
    rw [← hs1] at h
    exact h
  · rw [htt, hte, if_pos rfl, hT, Option.map_some]
  · rw [htt, hte, if_neg hj]
  · rw [hg, hgid]
    by_cases hk : teamOf gid = k
    · rw [if_pos hk, if_pos (mem_groupsOf.2 ⟨hk, g, hgid⟩), Option.map_some]
    · rw [if_neg hk, if_neg fun h => hk (mem_groupsOf.1 h).1]
  · rw [ht, hz]
    split
    · next hm =>
      have hteam := (mem_groupsOf.1 hm).1
      have hsame : s.preemptOf u z = z := Thread.preempted_of_not (hu.resolve_left (fun h => h hteam))
      rw [hof, Option.map_some, hsame]
    · rfl
  · obtain ⟨hz, hk, hgu⟩ := hin
    have htu : t.threads.get? u = some (s.preemptOf u z) := by
      rw [ht, hz, if_pos (mem_groupsOf.2 ⟨hk, g, hgu⟩), hof, Option.map_some]
    refine ⟨fun h0 => ?_, fun h0 => ⟨_, _, htu.trans (congrArg some (preemptOf_of_handler hgu hlife hslot hwait h0)), rfl, rfl, rfl, rfl, rfl, ?_, ?_, rfl,
      rfl, ?_⟩⟩
    · rw [htu, preemptOf_of_default hgu hlife hslot hwait h0]
    · exact (segOf_mkPtr ..).trans (Nat.mod_mod ..)
    · exact (offOf_mkPtr ..).trans (Nat.mod_eq_of_lt (by have := g.thnd.isLt; omega))
    · cases z
      subst hwait
      rfl

end Sys2Proof.Machine
end

section
/-! PROOFS. Placement (01 R19, R23, 06 R136, 08 R141, R146, R155, 18 R327): the choice of the core, the groups and threads of a team as they start, and its slices zeroed. -/

namespace Sys2Proof

/-! TEAM_PLACE (01 R19, R23, 06 R136, 08 R146, R155, 18 R327). Entries put into a table one after another. -/

theorem Tab.get?_foldl_put_of_notMem {α : Type} (l : List (Nat × α)) (t : Tab α) {k : Nat} (h : ∀ e ∈ l, e.1 ≠ k) :
    (l.foldl (fun (m : Tab α) (e : Nat × α) => m.put e.1 e.2) t).get? k = t.get? k := by
  induction l generalizing t with
  | nil => rfl
  | cons e l ih =>
    obtain ⟨he, hl⟩ := List.forall_mem_cons.1 h
    rw [List.foldl_cons, ih _ hl, Tab.get?_put, if_neg (Ne.symm he)]

theorem Tab.get?_foldl_put_of_mem {α : Type} (l : List (Nat × α)) (t : Tab α) {k : Nat} {v : α} (hmem : (k, v) ∈ l)
    (h : ∀ e ∈ l, e.1 = k → e.2 = v) : (l.foldl (fun (m : Tab α) (e : Nat × α) => m.put e.1 e.2) t).get? k = some v := by
  induction l using List.reverseRecOn with
  | nil => cases hmem
  | append_singleton l e ih =>
    rw [List.foldl_append, List.foldl_cons, List.foldl_nil, Tab.get?_put]
    split
    · next hk => rw [h e (List.mem_append_right _ List.mem_cons_self) hk.symm]
    · next hk =>
      refine ih ?_ fun e he => h e (List.mem_append_left _ he)
      rcases List.mem_append.1 hmem with hm | hm
      · exact hm
      · exact absurd (congrArg Prod.fst (List.mem_singleton.1 hm)) hk

/-- Entries of ascending numbers written one after another, of a table with a default. -/
theorem Tab.getD_foldl_putD {α : Type} [DecidableEq α] (f : Nat → α) (d : α) (t : Tab α) (n k : Nat) :
    ((List.range n).foldl (fun (t : Tab α) j => t.putD j (f j) d) t).getD k d = if k < n then f k else t.getD k d := by
  induction n with
  | zero => simp
  | succ n ih =>
    rw [List.range_succ, List.foldl_append, List.foldl_cons, List.foldl_nil, Tab.getD_putD, ih]
    by_cases hk : k = n
    · simp [hk]
    · rw [if_neg hk]
      exact if_congr (by omega) rfl rfl

namespace Machine

/-! The slots of the groups (R146). -/

theorem takeSlots_some {k n : Nat} {used ps : List Nat} (h : takeSlots k n used = some ps) : ps.length = n ∧ ∀ p ∈ ps, p < 4 := by
  induction n generalizing used ps with
  | zero => cases h; simp
  | succ n ih =>
    have hfree : (List.range 4).foldl (fun b q => if used.getD q 0 < used.getD b 0 then q else b) 0 < 4 :=
      List.foldlRecOn (List.range 4) _ (motive := fun b => b < 4) (by decide) fun b hb q hq => by
        split
        · exact List.mem_range.1 hq
        · exact hb
    simp only [takeSlots] at h
    split at h
    · cases h
    · obtain ⟨rs, hrs, rfl⟩ := Option.map_eq_some_iff.1 h
      obtain ⟨hlen, hall⟩ := ih hrs
      exact ⟨by rw [List.length_cons, hlen], List.forall_mem_cons.2 ⟨hfree, hall⟩⟩

namespace State

/-- Where a launch fits a core, its groups have their partitions there. -/
theorem partsAt_of_fits {s : State} {la : Launch} {c : Nat} (h : s.fits la [c] = true) :
    ∃ ps, s.partsAt la [c] 0 = some ps ∧ ps.length = la.groups ∧ ∀ p ∈ ps, p < 4 := by
  have hall := List.all_eq_true.1 h 0 (List.mem_range.2 Nat.one_pos)
  simp only [Bool.and_eq_true] at hall
  obtain ⟨⟨-, hparts⟩, -⟩ := hall
  obtain ⟨ps, hps⟩ := Option.isSome_iff_exists.1 hparts
  exact ⟨ps, hps, takeSlots_some hps⟩

/-! The best spot of a die (R155). -/

/-- The spot of a team on one core. -/
def spotOf (k c : Nat) : Spot := ⟨[(k, [c])], [c]⟩

/-- The choice that `bestSpot` makes at each spot. -/
def better (s : State) (b : Option Spot) (p : Spot) : Option Spot :=
  match b with
  | none => some p
  | some q => if s.spotScore p < s.spotScore q then some p else b

/-- Of cores in ascending order the choice is one of least score, the lowest on a tie. -/
theorem foldl_better (s : State) (k : Nat) {l : List Nat} (hl : l.Pairwise (· < ·)) (hne : l ≠ []) :
    ∃ c ∈ l, (l.map (spotOf k)).foldl s.better none = some (spotOf k c) ∧
      ∀ d ∈ l, s.spotScore (spotOf k c) ≤ s.spotScore (spotOf k d) ∧ (d < c → s.spotScore (spotOf k c) < s.spotScore (spotOf k d)) := by
  induction l using List.reverseRecOn with
  | nil => exact absurd rfl hne
  | append_singleton l x ih =>
    obtain ⟨hl', -, hx⟩ := List.pairwise_append.1 hl
    rw [List.map_append, List.foldl_append, List.map_cons, List.map_nil, List.foldl_cons, List.foldl_nil]
    by_cases hnil : l = []
    · subst hnil
      exact ⟨x, by simp, rfl, by simp⟩
    · obtain ⟨c, hc, hfold, hleast⟩ := ih hl' hnil
      rw [hfold]
      by_cases hlt : s.spotScore (spotOf k x) < s.spotScore (spotOf k c)
      · refine ⟨x, by simp, if_pos hlt, fun d hd => ?_⟩
        rcases List.mem_append.1 hd with hd | hd
        · have := (hleast d hd).1
          exact ⟨by omega, fun _ => by omega⟩
        · obtain rfl := List.mem_singleton.1 hd
          exact ⟨le_refl _, fun h => absurd h (Nat.lt_irrefl _)⟩
      · refine ⟨c, List.mem_append_left _ hc, if_neg hlt, fun d hd => ?_⟩
        rcases List.mem_append.1 hd with hd | hd
        · exact hleast d hd
        · obtain rfl := List.mem_singleton.1 hd
          have := hx c hc d List.mem_cons_self
          exact ⟨by omega, fun h => by omega⟩

/-- The best spot of a team of one core (R155). -/
theorem bestSpot_of_one {s : State} {die k : Nat} {la : Launch} (hla : s.launch (s.team k).launch = la) (hpin : la.pin = none)
    (hgroups : la.groups ≤ 192) (hfit : ∃ c, 96 * die ≤ c ∧ c < 96 * die + 96 ∧ s.fits la [c] = true) :
    ∃ core, s.bestSpot die [k] = some (spotOf k core) ∧ (96 * die ≤ core ∧ core < 96 * die + 96 ∧ s.fits la [core] = true) ∧
      ∀ c, 96 * die ≤ c ∧ c < 96 * die + 96 ∧ s.fits la [c] = true →
        s.spotScore (spotOf k core) ≤ s.spotScore (spotOf k c) ∧ (c < core → s.spotScore (spotOf k core) < s.spotScore (spotOf k c)) := by
  have hspots : s.spots die [k] = ((List.range 96).map (fun c => 96 * die + c)).map (spotOf k) := by
    have hsmall : ¬ 192 < la.groups := by omega
    simp only [spots, List.getD_cons_zero, hla, hpin, Option.isSome_none, Bool.false_eq_true, if_false, List.length_singleton,
      Nat.lt_irrefl, if_neg hsmall, List.map_map]
    rfl
  have hfits (c : Nat) : s.spotFits (spotOf k c) = s.fits la [c] := by simp [spotFits, spotOf, hla]
  have hmem (c : Nat) : c ∈ ((List.range 96).map (fun c => 96 * die + c)).filter (fun c => s.fits la [c]) ↔
      96 * die ≤ c ∧ c < 96 * die + 96 ∧ s.fits la [c] = true := by
    simp only [List.mem_filter, List.mem_map, List.mem_range, and_assoc.symm]
    refine and_congr_left fun _ => ⟨?_, fun ⟨h1, h2⟩ => ⟨c - 96 * die, by omega, by omega⟩⟩
    rintro ⟨j, hj, rfl⟩
    omega
  have hasc : (((List.range 96).map (fun c => 96 * die + c)).filter (fun c => s.fits la [c])).Pairwise (· < ·) :=
    List.Pairwise.filter _ (List.pairwise_map.2 (List.pairwise_lt_range.imp fun h => by omega))
  obtain ⟨c₀, hc₀⟩ := hfit
  obtain ⟨core, hcore, hfold, hleast⟩ := foldl_better s k hasc (List.ne_nil_of_mem ((hmem c₀).2 hc₀))
  refine ⟨core, ?_, (hmem core).1 hcore, fun c hc => hleast c ((hmem c).2 hc)⟩
  rw [bestSpot, hspots, List.filter_map, show s.spotFits ∘ spotOf k = fun c => s.fits la [c] from funext hfits]
  exact hfold

/-- Where no team is parked, no storage is claimed. -/
theorem claimOn_of_unparked {s : State} (h : ∀ e ∈ s.teams, e.2.place ≠ .parked) (core : Nat) (n : Need) : s.claimOn core n = s := by
  have hnone : s.teams.filter (fun e => decide (e.2.place = .parked) && !e.2.lazyOut && e.2.cores.contains core) = [] :=
    List.filter_eq_nil_iff.2 fun e he => by simp [h e he]
  rw [claimOn, victimsOn, hnone]
  rfl

/-! Homes zeroed (R136). -/

theorem hit_iff {rs : List (Nat × Nat)} {a : Nat} :
    rs.any (fun r => decide (r.1 ≤ a) && decide (a < r.1 + r.2)) = true ↔ Claims.Within rs a := by
  simp [Claims.Within]

theorem homeByte_zeroHomes (s : State) (d : Nat) (rs : List (Nat × Nat)) (a : Nat) :
    (Claims.Within rs a → (s.zeroHomes d rs).homeByte a = 0) ∧ (¬ Claims.Within rs a → (s.zeroHomes d rs).homeByte a = s.homeByte a) := by
  have hget : (s.zeroHomes d rs).hbm.get? a = if !(rs.any (fun r => decide (r.1 ≤ a) && decide (a < r.1 + r.2))) then s.hbm.get? a else none :=
    Tab.get?_filter_key s.hbm (fun a => !(rs.any (fun r => decide (r.1 ≤ a) && decide (a < r.1 + r.2)))) a
  simp only [homeByte, Tab.getD, hget, ← hit_iff]
  cases rs.any (fun r => decide (r.1 ≤ a) && decide (a < r.1 + r.2)) <;> simp

theorem overlay_zeroHomes (s : State) (d : Nat) (rs : List (Nat × Nat)) (a : Nat) :
    ((s.zeroHomes d rs).domain d).overlay.get? a =
      if !(rs.any (fun r => decide (r.1 ≤ a) && decide (a < r.1 + r.2))) then (s.domain d).overlay.get? a else none := by
  have hdom : (s.zeroHomes d rs).domain d = _ := (Tab.getD_putD ..).trans (if_pos rfl)
  rw [hdom]
  exact Tab.get?_filter_key (s.domain d).overlay (fun a => !(rs.any (fun r => decide (r.1 ≤ a) && decide (a < r.1 + r.2)))) a

/-- One slice of a launch zeroed. -/
def zeroSlice (la : Launch) (d : Nat) (s : State) (b : Nat) : State :=
  s.zeroHomes d (s.spanHomes la.ctx (s.sliceSpan la.ctx la.width b))

/-- A byte that reads zero and that domain `d` holds no copy of. -/
def ZeroAt (s : State) (d a : Nat) : Prop := s.homeByte a = 0 ∧ (s.domain d).overlay.get? a = none

theorem zeroAt_zeroHomes {s : State} {d : Nat} {rs : List (Nat × Nat)} {a : Nat} (h : Claims.Within rs a ∨ s.ZeroAt d a) :
    (s.zeroHomes d rs).ZeroAt d a := by
  obtain ⟨hin, hout⟩ := homeByte_zeroHomes s d rs a
  by_cases hw : Claims.Within rs a
  · refine ⟨hin hw, ?_⟩
    rw [overlay_zeroHomes, hit_iff.2 hw]
    rfl
  · obtain ⟨h0, hnone⟩ := h.resolve_left hw
    refine ⟨(hout hw).trans h0, ?_⟩
    rw [overlay_zeroHomes, hnone, ite_self]

/-- Slices zeroed one after another, none of which holds a table of the context. -/
theorem foldl_zeroSlice {s : State} {la : Launch} {areas : List RuntimeArea} (hstand : Claims.SlicesStand s la areas) (d : Nat) (bs : List Nat)
    (hbs : ∀ b ∈ bs, ∀ a, Claims.Within (s.spanHomes la.ctx (s.sliceSpan la.ctx la.width b)) a → Claims.Within (Claims.sliceHomes s la areas) a)
    (u : State) (hctx : u.contexts = s.contexts) (hsame : ∀ a, ¬ Claims.Within (Claims.sliceHomes s la areas) a → u.homeByte a = s.homeByte a) :
    { bs.foldl (zeroSlice la d) u with domains := u.domains, hbm := u.hbm, poison := u.poison, mirrors := u.mirrors } = u ∧
      (∀ a, u.ZeroAt d a ∨ (∃ b ∈ bs, Claims.Within (s.spanHomes la.ctx (s.sliceSpan la.ctx la.width b)) a) →
        (bs.foldl (zeroSlice la d) u).ZeroAt d a) ∧
      ∀ a, ¬ Claims.Within (Claims.sliceHomes s la areas) a → (bs.foldl (zeroSlice la d) u).homeByte a = s.homeByte a := by
  induction bs generalizing u with
  | nil => exact ⟨rfl, fun a ha => ha.resolve_right (by simp), hsame⟩
  | cons b bs ih =>
    obtain ⟨hb, hrest⟩ := List.forall_mem_cons.1 hbs
    have hspan := hstand.clear u hctx hsame b
    have hz : zeroSlice la d u b = u.zeroHomes d (s.spanHomes la.ctx (s.sliceSpan la.ctx la.width b)) := by rw [zeroSlice, hspan]
    obtain ⟨hframe, hzero, hout⟩ := ih hrest (zeroSlice la d u b) (by rw [hz]; exact hctx) (fun a ha => by
      rw [hz, (homeByte_zeroHomes u d _ a).2 fun h => ha (hb a h), hsame a ha])
    refine ⟨?_, fun a ha => hzero a ?_, hout⟩
    · have h := congrArg (fun v : State => { v with domains := u.domains, hbm := u.hbm, poison := u.poison, mirrors := u.mirrors }) hframe
      exact h
    · rw [hz]
      rcases ha with ha | ⟨c, hc, hca⟩
      · exact .inl (zeroAt_zeroHomes (.inr ha))
      · rcases List.mem_cons.1 hc with rfl | hc
        · exact .inl (zeroAt_zeroHomes (.inl hca))
        · exact .inr ⟨c, hc, hca⟩

/-! Shadows paired (R383). -/

theorem pairShadow_groups (s : State) (gid j : Nat) : (s.pairShadow gid).groups.get? j =
    if j = gid then (s.groups.get? j).map (fun g => { g with shadow := some ⟨[], none, [], [], s.twinOf gid⟩ }) else s.groups.get? j := by
  rw [pairShadow, modGroup_groups, Tab.get?_modify]

theorem foldl_pairShadow (l : List Nat) (s : State) : { l.foldl pairShadow s with groups := s.groups } = s ∧
    (∀ j, j ∉ l → (l.foldl pairShadow s).groups.get? j = s.groups.get? j) ∧
    ∀ j ∈ l, ∀ g, s.groups.get? j = some g → ∃ sh, (l.foldl pairShadow s).groups.get? j = some { g with shadow := some sh } := by
  induction l generalizing s with
  | nil => exact ⟨rfl, fun _ _ => rfl, by simp⟩
  | cons gid l ih =>
    obtain ⟨hframe, hout, hin⟩ := ih (s.pairShadow gid)
    refine ⟨?_, fun j hj => ?_, fun j hj g hg => ?_⟩
    · have h := congrArg (fun v : State => { v with groups := s.groups }) hframe
      exact h
    · obtain ⟨hne, hl⟩ := not_or.1 (mt List.mem_cons.2 hj)
      rw [List.foldl_cons, hout j hl, pairShadow_groups, if_neg hne]
    · have h1 := pairShadow_groups s gid j
      rw [hg, Option.map_some] at h1
      by_cases hl : j ∈ l
      · split at h1
        · obtain ⟨sh, hsh⟩ := hin j hl _ h1
          exact ⟨sh, hsh⟩
        · exact hin j hl g h1
      · rw [if_pos ((List.mem_cons.1 hj).resolve_right hl)] at h1
        exact ⟨_, (hout j hl).trans h1⟩

/-- The groups of a team paired with their shadows where its launch has them. -/
theorem paired_spec (b : Bool) (l : List Nat) (s : State) : { (if b then l.foldl pairShadow s else s) with groups := s.groups } = s ∧
    (∀ j, j ∉ l → (if b then l.foldl pairShadow s else s).groups.get? j = s.groups.get? j) ∧
    ∀ j ∈ l, ∀ g, s.groups.get? j = some g → g.shadow = none → ∃ sh : Option Shadow, sh.isSome = b ∧
      (if b then l.foldl pairShadow s else s).groups.get? j = some { g with shadow := sh } := by
  cases b with
  | true =>
    obtain ⟨hframe, hout, hin⟩ := foldl_pairShadow l s
    refine ⟨hframe, hout, fun j hj g hg _ => ?_⟩
    obtain ⟨sh, hsh⟩ := hin j hj g hg
    exact ⟨some sh, rfl, hsh⟩
  | false => exact ⟨rfl, fun _ _ => rfl, fun j _ g hg hnone => ⟨none, rfl, by rw [← hnone]; exact hg⟩⟩

theorem acquire_overlay (s : State) (gid d : Nat) : ((s.acquire gid 3).domain d).overlay = (s.domain d).overlay := by
  have h : (s.acquire gid 3).domain d = if d = s.domOf gid then _ else s.domain d := Tab.getD_putD ..
  rw [h]
  split
  · next hd => rw [hd]
  · rfl

theorem acquireAll_frame (l : List Nat) (s : State) : { s.acquireAll l 3 with domains := s.domains, pkrCopies := s.pkrCopies } = s := by
  induction l generalizing s with
  | nil => rfl
  | cons gid l ih =>
    have h := congrArg (fun v : State => { v with domains := s.domains, pkrCopies := s.pkrCopies }) (ih (s.acquire gid 3))
    exact h

theorem acquireAll_overlay (l : List Nat) (s : State) (d : Nat) : ((s.acquireAll l 3).domain d).overlay = (s.domain d).overlay := by
  induction l generalizing s with
  | nil => rfl
  | cons gid l ih => exact (ih (s.acquire gid 3)).trans (acquire_overlay s gid d)

/-! A team started on one core (R23, R140, R146, R153, R327). -/

/-- The groups of a team as they start on a core, in the partitions given. -/
def startGroups (la : Launch) (k core : Nat) (parts : List Nat) (params : List Word) (areas : List RuntimeArea) : List (Nat × Group) :=
  (List.range la.groups).map (fun j => (gidAt k j, freshGroup la core (parts.getD j 0) params none (areas.getD j ⟨0, 0, 0⟩)))

/-- The threads of a team as they start. -/
def startThreads (la : Launch) (k slice : Nat) : List (Nat × Thread) :=
  (List.range la.tsize).map (fun i => (tidAt (gidAt k (i / la.width)) (i % la.width), Thread.start la.entry slice))

/-- A team with its groups and threads on a core. -/
def seated (s : State) (k core : Nat) (gs : List (Nat × Group)) (ts : List (Nat × Thread)) : State :=
  ({ s with
      groups := gs.foldl (fun (m : Tab Group) (e : Nat × Group) => m.put e.1 e.2) s.groups
      threads := ts.foldl (fun (m : Tab Thread) (e : Nat × Thread) => m.put e.1 e.2) s.threads } : State).modTeam k
    (fun t => { t with place := .resident, cores := [core], age := s.cycle, spad := [], bars := [] })

theorem teamOf_gidAt {k j : Nat} (h : j < 1024) : teamOf (gidAt k j) = k := by rw [teamOf, gidAt]; omega
theorem gidAt_inj {k i j : Nat} (h : gidAt k i = gidAt k j) : i = j := by rw [gidAt, gidAt] at h; omega

theorem startTeam_of_one {s : State} {k core : Nat} {T : Team} {la : Launch} {parts : List Nat} (areas : List RuntimeArea)
    (hT : s.team k = T) (hla : s.launch T.launch = la) (htile : T.tileId = none) (hplace : ∀ e ∈ s.teams, e.2.place ≠ .parked)
    (hparts : s.partsAt la [core] 0 = some parts) (hlen : parts.length = la.groups) :
    let gs := startGroups la k core parts T.params areas
    let s1 := (gs.map (·.2.slice)).foldl (zeroSlice la (domOfCore core)) (s.seated k core gs (startThreads la k (s.descHome la.ctx 3).len))
    s.startTeam k [core] areas = (if la.shadow then (gs.map (·.1)).foldl pairShadow s1 else s1).acquireAll (gs.map (·.1)) 3 := by
  have hslots : (List.range [core].length).flatMap (fun i => ((s.partsAt la [core] i).getD []).map (fun p => ([core].getD i 0, p))) =
      parts.map (fun p => (core, p)) := by
    simp [hparts]
  have hslot (j : Nat) (hj : j < la.groups) : (parts.map (fun p => (core, p))).getD j (0, 0) = (core, parts.getD j 0) := by
    have hj' : j < parts.length := hlen.symm ▸ hj
    simp [List.getD_eq_getElem?_getD, hj']
  have hgs : (List.range la.groups).map (fun g => (gidAt k g, freshGroup la ((parts.map (fun p => (core, p))).getD g (0, 0)).1
      ((parts.map (fun p => (core, p))).getD g (0, 0)).2 T.params none (areas.getD g ⟨0, 0, 0⟩))) = startGroups la k core parts T.params areas :=
    List.map_congr_left fun j hj => by rw [hslot j (List.mem_range.1 hj)]
  have hclaim : (List.range [core].length).foldl (fun s i => s.claimOn ([core].getD i 0) (needAt la [core] i)) s = s :=
    foldl_eq_self_of_mem fun i _ => claimOn_of_unparked hplace _ _
  have hzero (u : State) : (startGroups la k core parts T.params areas).foldl
      (fun s e => s.zeroHomes (domOfCore e.2.core) (s.spanHomes la.ctx (s.sliceSpan la.ctx la.width e.2.slice))) u =
      ((startGroups la k core parts T.params areas).map (·.2.slice)).foldl (zeroSlice la (domOfCore core)) u := by
    rw [List.foldl_map]
    refine List.foldl_ext _ _ _ fun v e he => ?_
    obtain ⟨j, -, rfl⟩ := List.mem_map.1 he
    rfl
  have hpair (u : State) : (startGroups la k core parts T.params areas).foldl (fun s e => s.pairShadow e.1) u =
      ((startGroups la k core parts T.params areas).map (·.1)).foldl pairShadow u := List.foldl_map.symm
  simp only [startTeam, hT, hla, htile, hslots, hgs, hclaim, hzero, hpair]
  rfl

theorem startGroups_take (la : Launch) (k core : Nat) (parts : List Nat) (params : List Word) (areas : List RuntimeArea) :
    startGroups la k core parts params (areas.take la.groups) = startGroups la k core parts params areas :=
  List.map_congr_left fun j hj => by
    have hj' := List.mem_range.1 hj
    simp [List.getD_eq_getElem?_getD, hj']

theorem startGroups_slices (la : Launch) (k core : Nat) (parts : List Nat) (params : List Word) (areas : List RuntimeArea) :
    (startGroups la k core parts params areas).map (·.2.slice) = (List.range la.groups).map (fun j => (areas.getD j ⟨0, 0, 0⟩).slice) := by
  rw [startGroups, List.map_map]
  rfl

theorem mem_startGroups_gid {la : Launch} {k core : Nat} {parts : List Nat} {params : List Word} {areas : List RuntimeArea} {gid : Nat} :
    gid ∈ (startGroups la k core parts params areas).map (·.1) ↔ ∃ j, j < la.groups ∧ gidAt k j = gid := by
  simp [startGroups]

theorem within_sliceHomes {s : State} {la : Launch} {areas : List RuntimeArea} {a : Nat} : Claims.Within (Claims.sliceHomes s la areas) a ↔
    ∃ b ∈ (List.range la.groups).map (fun j => (areas.getD j ⟨0, 0, 0⟩).slice),
      Claims.Within (s.spanHomes la.ctx (s.sliceSpan la.ctx la.width b)) a := by
  simp only [Claims.Within, Claims.sliceHomes, List.mem_flatMap, List.mem_map, List.mem_range]
  constructor
  · rintro ⟨r, ⟨j, hj, hr⟩, ha⟩
    exact ⟨_, ⟨j, hj, rfl⟩, r, hr, ha⟩
  · rintro ⟨_, ⟨j, hj, rfl⟩, r, hr, ha⟩
    exact ⟨r, ⟨j, hj, hr⟩, ha⟩

/-- Thread `i` of a team stands in group `i / width` at lane `i mod width`. -/
theorem gidOf_tidAt {gid lane : Nat} (h : lane < 64) : gidOf (tidAt gid lane) = gid := by rw [gidOf, tidAt]; omega

theorem groups_of_tsize {la : Launch} {i : Nat} (hw : 0 < la.width) (h : i < la.tsize) : i / la.width < la.groups := by
  rw [Launch.groups, Nat.div_lt_iff_lt_mul hw]
  have := Nat.lt_div_mul_add (a := la.tsize + la.width - 1) hw
  omega

theorem seated_groups_of_other (s : State) (la : Launch) (k core : Nat) (parts : List Nat) (params : List Word) (areas : List RuntimeArea)
    (ts : List (Nat × Thread)) (hgroups : la.groups ≤ 1024) {j : Nat} (hj : teamOf j ≠ k) :
    (s.seated k core (startGroups la k core parts params areas) ts).groups.get? j = s.groups.get? j :=
  Tab.get?_foldl_put_of_notMem _ _ fun e he h => by
    obtain ⟨i, hi, rfl⟩ := List.mem_map.1 he
    exact hj (h ▸ teamOf_gidAt (by have := List.mem_range.1 hi; omega))

theorem seated_groups (s : State) (la : Launch) (k core : Nat) (parts : List Nat) (params : List Word) (areas : List RuntimeArea)
    (ts : List (Nat × Thread)) {j : Nat} (hj : j < la.groups) :
    (s.seated k core (startGroups la k core parts params areas) ts).groups.get? (gidAt k j) =
      some (freshGroup la core (parts.getD j 0) params none (areas.getD j ⟨0, 0, 0⟩)) :=
  Tab.get?_foldl_put_of_mem _ _ (List.mem_map.2 ⟨j, List.mem_range.2 hj, rfl⟩) fun e he h => by
    obtain ⟨i, -, rfl⟩ := List.mem_map.1 he
    rw [gidAt_inj h]

theorem seated_threads_of_other (s : State) (la : Launch) (k core : Nat) (gs : List (Nat × Group)) (slice : Nat)
    (hw : 0 < la.width ∧ la.width ≤ 64) (hgroups : la.groups ≤ 1024) {u : Nat} (hu : teamOf (gidOf u) ≠ k) :
    (s.seated k core gs (startThreads la k slice)).threads.get? u = s.threads.get? u :=
  Tab.get?_foldl_put_of_notMem _ _ fun e he h => by
    obtain ⟨i, hi, rfl⟩ := List.mem_map.1 he
    have hlane := Nat.mod_lt i hw.1
    have hgroup := groups_of_tsize hw.1 (List.mem_range.1 hi)
    refine hu ?_
    rw [← h]
    dsimp only
    rw [gidOf_tidAt (by omega), teamOf_gidAt (by omega)]

theorem seated_threads (s : State) (la : Launch) (k core : Nat) (gs : List (Nat × Group)) (slice : Nat) {i : Nat} (hi : i < la.tsize) :
    (s.seated k core gs (startThreads la k slice)).threads.get? (tidAt (gidAt k (i / la.width)) (i % la.width)) =
      some (Thread.start la.entry slice) :=
  Tab.get?_foldl_put_of_mem _ _ (List.mem_map.2 ⟨i, List.mem_range.2 hi, rfl⟩) fun e he _ => by
    obtain ⟨i, -, rfl⟩ := List.mem_map.1 he
    rfl

theorem freshGroup_sreg (la : Launch) (core part : Nat) (ps : List Word) (a : RuntimeArea) (n : Nat) :
    (freshGroup la core part ps none a).sreg n = if n < 16 then ps.getD n 0 else 0 := by
  have h : (freshGroup la core part ps none a).sregs.getD n 0 = if n < 16 then ps.getD n 0 else 0 :=
    Tab.getD_foldl_putD (fun k => ps.getD k 0) 0 [] 16 n
  rw [Group.sreg, h]
  split
  · next hn => subst hn; rfl
  · rfl

theorem startThread_reg (entry : Ptr) (slice n : Nat) : (Thread.start entry slice).reg n =
    if n = 30 then 0x3000 else if n = 31 then BitVec.ofNat 32 slice else 0 := by
  have h : (Thread.start entry slice).regs.getD n 0 = if n = 31 then BitVec.ofNat 32 slice else if n = 30 then 0x3000 else 0 := by
    rw [Thread.start, Tab.getD_putD, Tab.getD_putD]; rfl
  rw [Thread.reg, h]
  by_cases h30 : n = 30
  · subst h30; rfl
  · by_cases h31 : n = 31
    · subst h31; rfl
    · simp [h30, h31]

/-- State `v` with all that a placement changes as `u` has it. -/
def withPlaced (u v : State) : State :=
  { v with
    threads := u.threads, groups := u.groups, teams := u.teams, domains := u.domains, pkrCopies := u.pkrCopies, hbm := u.hbm
    poison := u.poison, mirrors := u.mirrors }

/-- A team started on one core: what it holds, and that nothing else changes. `s` is the state whose slices the runtime's areas name. -/
theorem startTeam_spec {s u : State} {la : Launch} {areas : List RuntimeArea} {k core : Nat} {T : Team} {parts : List Nat}
    (hstand : Claims.SlicesStand s la areas) (hctx : u.contexts = s.contexts) (hhbm : u.hbm = s.hbm) (hT : u.team k = T)
    (hla : u.launch T.launch = la) (htile : T.tileId = none) (hplace : ∀ e ∈ u.teams, e.2.place ≠ .parked)
    (hparts : u.partsAt la [core] 0 = some parts) (hlen : parts.length = la.groups) (hw : 0 < la.width ∧ la.width ≤ 64)
    (hgroups : la.groups ≤ 1024) :
    ∃ t, u.startTeam k [core] (areas.take la.groups) = t ∧
      withPlaced u t = u ∧
      (∀ a, (Claims.Within (Claims.sliceHomes s la areas) a → t.ZeroAt (domOfCore core) a) ∧
        (¬ Claims.Within (Claims.sliceHomes s la areas) a → t.homeByte a = s.homeByte a)) ∧
      t.teams = u.teams.modify k (fun t => { t with place := .resident, cores := [core], age := u.cycle, spad := [], bars := [] }) ∧
      (∀ j, teamOf j ≠ k → t.groups.get? j = u.groups.get? j) ∧
      (∀ j, j < la.groups → ∃ sh, sh.isSome = la.shadow ∧ t.groups.get? (gidAt k j) =
        some { freshGroup la core (parts.getD j 0) T.params none (areas.getD j ⟨0, 0, 0⟩) with shadow := sh }) ∧
      (∀ v, teamOf (gidOf v) ≠ k → t.threads.get? v = u.threads.get? v) ∧
      ∀ i, i < la.tsize → t.threads.get? (tidAt (gidAt k (i / la.width)) (i % la.width)) =
        some (Thread.start la.entry (u.descHome la.ctx 3).len) := by
  have hstart := startTeam_of_one (areas.take la.groups) hT hla htile hplace hparts hlen
  simp only [startGroups_take, startGroups_slices] at hstart
  generalize hu0 : u.seated k core (startGroups la k core parts T.params areas) (startThreads la k (u.descHome la.ctx 3).len) = u0 at hstart
  generalize hbs : (List.range la.groups).map (fun j => (areas.getD j ⟨0, 0, 0⟩).slice) = bs at hstart
  have hu0ctx : u0.contexts = s.contexts := by rw [← hu0]; exact hctx
  have hu0hbm : u0.hbm = s.hbm := by rw [← hu0]; exact hhbm
  obtain ⟨hzframe, hzin, hzout⟩ := foldl_zeroSlice hstand (domOfCore core) bs (fun b hb a ha => within_sliceHomes.2 ⟨b, hbs ▸ hb, ha⟩) u0
    hu0ctx (fun a _ => by rw [homeByte, homeByte, hu0hbm])
  generalize bs.foldl (zeroSlice la (domOfCore core)) u0 = u1 at hstart hzframe hzin hzout
  have hu1groups : u1.groups = u0.groups := by
    have h := congrArg State.groups hzframe
    exact h
  obtain ⟨hsframe, hsout, hsin⟩ := paired_spec la.shadow ((startGroups la k core parts T.params areas).map (·.1)) u1
  generalize (if la.shadow then ((startGroups la k core parts T.params areas).map (·.1)).foldl pairShadow u1 else u1) = u2
    at hstart hsframe hsout hsin
  have hacq := acquireAll_frame ((startGroups la k core parts T.params areas).map (·.1)) u2
  have hover := acquireAll_overlay ((startGroups la k core parts T.params areas).map (·.1)) u2 (domOfCore core)
  refine ⟨_, hstart, ?_⟩
  generalize u2.acquireAll ((startGroups la k core parts T.params areas).map (·.1)) 3 = t at hacq hover
  have hhome (a : Nat) : t.homeByte a = u1.homeByte a := by
    have h2 := congrArg (fun v : State => v.homeByte a) hacq
    have h1 := congrArg (fun v : State => v.homeByte a) hsframe
    exact h2.trans h1
  have hover1 : (t.domain (domOfCore core)).overlay = (u1.domain (domOfCore core)).overlay := by
    have h1 := congrArg (fun v : State => (v.domain (domOfCore core)).overlay) hsframe
    exact hover.trans h1
  have hteams : t.teams = u0.teams := by
    have h2 := congrArg State.teams hacq
    have h1 := congrArg State.teams hsframe
    have h0 := congrArg State.teams hzframe
    exact h2.trans (h1.trans h0)
  have hthreads : t.threads = u0.threads := by
    have h2 := congrArg State.threads hacq
    have h1 := congrArg State.threads hsframe
    have h0 := congrArg State.threads hzframe
    exact h2.trans (h1.trans h0)
  have hgr : t.groups = u2.groups := by
    have h := congrArg State.groups hacq
    exact h
  rw [hu1groups] at hsout hsin
  refine ⟨?_, fun a => ⟨fun ha => ?_, fun ha => (hhome a).trans (hzout a ha)⟩, ?_, fun j hj => ?_, fun j hj => ?_, fun v hv => ?_, fun i hi => ?_⟩
  · have h2 := congrArg (withPlaced u) hacq
    have h1 := congrArg (withPlaced u) hsframe
    have h0 := congrArg (withPlaced u) hzframe
    rw [← hu0] at h0
    exact h2.trans (h1.trans h0)
  · obtain ⟨h0, hnone⟩ := hzin a (.inr (hbs ▸ within_sliceHomes.1 ha))
    exact ⟨(hhome a).trans h0, hover1.symm ▸ hnone⟩
  · rw [hteams, ← hu0]; rfl
  · rw [hgr, hsout j, ← hu0, seated_groups_of_other _ _ _ _ _ _ _ _ hgroups hj]
    intro hmem
    obtain ⟨i, hi, rfl⟩ := mem_startGroups_gid.1 hmem
    exact hj (teamOf_gidAt (by omega))
  · rw [hgr]
    exact hsin _ (mem_startGroups_gid.2 ⟨j, hj, rfl⟩) _ (hu0 ▸ seated_groups u la k core parts T.params areas _ hj) rfl
  · rw [hthreads, ← hu0, seated_threads_of_other _ _ _ _ _ _ hw hgroups hv]
  · rw [hthreads, ← hu0, seated_threads _ _ _ _ _ _ hi]

/-- The head of a die's pending order, a team of no gang. -/
theorem headUnit_of_one {s : State} {die k : Nat} {rest : List Nat} (h : (s.die die).pending = k :: rest) (hgang : (s.team k).gang.length ≤ 1) :
    s.headUnit die = [k] := by
  rw [headUnit, h]
  exact if_pos hgang

end State

open State

/-- TEAM_PLACE of a team on one core, with no lease to be present. -/
theorem evTeamPlace_of_one {s : State} {die k core : Nat} {rest : List Nat} {areas : List RuntimeArea} {T : Team} {la : Launch}
    (hsub : s.subject = .placing die areas) (hpending : (s.die die).pending = k :: rest) (hT : s.team k = T) (hla : s.launch T.launch = la)
    (hgang : T.gang.length ≤ 1) (hlease : la.leases = [])
    (hfit : s.slicesFit la ((List.range la.groups).map (fun j => (areas.getD j ⟨0, 0, 0⟩).slice)) = true)
    (hbest : s.bestSpot die [k] = some (spotOf k core)) :
    evTeamPlace s = (s.modDie die (fun d => { d with pending := rest.filter (· != k) })).startTeam k [core] (areas.take la.groups) := by
  unfold evTeamPlace
  split
  next die' areas' hplacing =>
    cases hsub.symm.trans hplacing
    have hhead : s.headUnit die = [k] := headUnit_of_one hpending (hT ▸ hgang)
    have hpresent : s.leasesPresent la = true := by rw [leasesPresent, hlease]; rfl
    have hdie : s.modDie die (fun d => { d with pending := d.pending.filter (fun j => !([k] : List Nat).contains j) }) =
        s.modDie die (fun d => { d with pending := rest.filter (· != k) }) := by
      refine modDie_congr ?_
      have hk : (k :: rest).filter (fun j => !([k] : List Nat).contains j) = rest.filter (· != k) := by
        rw [List.filter_cons_of_neg (by simp)]
        exact List.filter_congr fun j _ => by simp [bne, beq_eq_decide]
      rw [hpending, hk]
    have hgo : ¬ ([k] = [] ∨ (!([k].all (fun k => s.leasesPresent (s.launch (s.team k).launch)))) = true ∨
        (!s.slicesFit la ((List.range la.groups).map (fun j => (areas.getD j ⟨0, 0, 0⟩).slice))) = true) := by
      rw [hfit]
      simp [hpresent, hT, hla]
    simp only [hhead, List.headD_cons, hT, hla, List.length_singleton, Nat.one_mul, hbest, hdie, if_neg hgo]
    have hlaunch : s.launch (s.team k).launch = la := by rw [hT, hla]
    exact congrArg (fun l : Launch => (s.modDie die (fun d => { d with pending := rest.filter (· != k) })).startTeam k [core]
      (areas.take l.groups)) hlaunch
  next hother => exact absurd hsub (hother die areas)

/-- TEAM_PLACE (R19, R23, R136, R141, R146, R155, R327). -/
theorem exec_teamPlace (s : State) (die k : Nat) (rest : List Nat) (areas : List RuntimeArea) (T : Team) (la : Launch)
    (hsub : s.subject = .placing die areas) (hpending : (s.die die).pending = k :: rest) (hT : s.teams.get? k = some T)
    (hla : s.launches.get? T.launch = some la) (hgang : T.gang.length ≤ 1) (htile : T.tileId = none) (hlease : la.leases = [])
    (hpin : la.pin = none) (hwidth : la.width ∈ [16, 32, 64]) (hgroups : la.groups ≤ 192) (hplace : ∀ e ∈ s.teams, e.2.place ≠ .parked)
    (hstand : Claims.SlicesStand s la areas) :
    let fits (c : Nat) : Prop := 96 * die ≤ c ∧ c < 96 * die + 96 ∧ s.fits la [c] = true
    let score (c : Nat) : Nat := s.spotScore ⟨[(k, [c])], [c]⟩
    (∃ c, fits c) →
    ∃ t core, exec .teamPlace s = .next t ∧ fits core ∧ (∀ c, fits c → score core ≤ score c ∧ (c < core → score core < score c)) ∧
      { t with threads := s.threads, groups := s.groups, teams := s.teams, dies := s.dies, domains := s.domains, pkrCopies := s.pkrCopies,
               hbm := s.hbm, poison := s.poison, mirrors := s.mirrors } = s ∧
      (∀ a, (Claims.Within (Claims.sliceHomes s la areas) a → t.homeByte a = 0 ∧ (t.domain (State.domOfCore core)).overlay.get? a = none) ∧
        (¬ Claims.Within (Claims.sliceHomes s la areas) a → t.homeByte a = s.homeByte a)) ∧
      (∀ d, d ≠ die → t.die d = s.die d) ∧ t.die die = { s.die die with pending := rest.filter (· != k) } ∧
      (∀ j, j ≠ k → t.teams.get? j = s.teams.get? j) ∧
      t.teams.get? k = some { T with place := .resident, cores := [core], age := s.cycle, spad := [], bars := [] } ∧
      (∀ j, teamOf j ≠ k → t.groups.get? j = s.groups.get? j) ∧ (∀ u, teamOf (gidOf u) ≠ k → t.threads.get? u = s.threads.get? u) ∧
      (∀ j, j < la.groups → ∃ g, t.groups.get? (gidAt k j) = some g ∧ g.core = core ∧ g.part < 4 ∧ g.level = la.prio ∧ g.thnd = 0 ∧
        g.shadow.isSome = la.shadow ∧ (∀ n, g.sreg n = if n < 16 then T.params.getD n 0 else 0) ∧
        ∀ a, areas[j]? = some a → g.reply = a.reply ∧ g.savep = a.savep ∧ g.slice = a.slice) ∧
      ∀ i, i < la.tsize → ∃ y, t.threads.get? (tidAt (gidAt k (i / la.width)) (i % la.width)) = some y ∧ y.pc = la.entry ∧ y.depth = 0 ∧
        y.preds = 0 ∧ y.life = .running ∧ y.wait = .none ∧
        ∀ n, y.reg n = if n = 30 then 0x3000 else if n = 31 then BitVec.ofNat 32 (s.descHome la.ctx 3).len else 0 := by
  intro fits score hfit
  have hteam : s.team k = T := team_of_get? hT
  have hlaunch : s.launch T.launch = la := by rw [launch, Tab.getD, hla]; rfl
  obtain ⟨core, hbest, hcore, hleast⟩ := bestSpot_of_one (by rw [hteam, hlaunch]) hpin hgroups hfit
  obtain ⟨parts, hparts, hlen, hpart⟩ := partsAt_of_fits hcore.2.2
  have hw : 0 < la.width ∧ la.width ≤ 64 := by
    simp only [List.mem_cons, List.not_mem_nil, or_false] at hwidth
    omega
  have hev := evTeamPlace_of_one hsub hpending hteam hlaunch hgang hlease hstand.fit hbest
  generalize hu : s.modDie die (fun d => { d with pending := rest.filter (· != k) }) = u at hev
  have hdie (d : Nat) : u.die d = if d = die then { s.die die with pending := rest.filter (· != k) } else s.die d := by
    rw [← hu, die_modDie]
  obtain ⟨t, ht, hframe, hzero, hteams, hgrOther, hgr, hthOther, hth⟩ := startTeam_spec (u := u) (k := k) (core := core) (T := T) (parts := parts)
    hstand (by rw [← hu]; rfl) (by rw [← hu]; rfl) (by rw [← hu]; exact hteam) (by rw [← hu]; exact hlaunch) htile (by rw [← hu]; exact hplace)
    (by rw [← hu]; exact hparts) hlen hw (by omega)
  have htdie (d : Nat) : t.die d = u.die d := by
    have h := congrArg (fun v : State => v.die d) hframe
    exact h
  have hut : u.teams = s.teams := by rw [← hu]; rfl
  have huc : u.cycle = s.cycle := by rw [← hu]; rfl
  have hug : u.groups = s.groups := by rw [← hu]; rfl
  have huth : u.threads = s.threads := by rw [← hu]; rfl
  have hdesc : u.descHome la.ctx 3 = s.descHome la.ctx 3 := by rw [← hu]; rfl
  rw [hut, huc] at hteams
  rw [hug] at hgrOther
  rw [huth] at hthOther
  rw [hdesc] at hth
  refine ⟨t, core, congrArg Host.Outcome.next (hev.trans ht), hcore, hleast, ?_, hzero, fun d hd => ?_, ?_, fun j hj => ?_, ?_, hgrOther, hthOther,
    fun j hj => ?_, fun i hi => ⟨_, hth i hi, rfl, rfl, rfl, rfl, rfl, startThread_reg _ _⟩⟩
  · have h := congrArg (fun v : State => { v with dies := s.dies }) hframe
    rw [← hu] at h
    exact h
  · rw [htdie, hdie, if_neg hd]
  · rw [htdie, hdie, if_pos rfl]
  · rw [hteams, Tab.get?_modify, if_neg hj]
  · rw [hteams, Tab.get?_modify, if_pos rfl, hT]; rfl
  · obtain ⟨sh, hsh, hg⟩ := hgr j hj
    refine ⟨_, hg, rfl, ?_, rfl, rfl, hsh, freshGroup_sreg la core (parts.getD j 0) T.params (areas.getD j ⟨0, 0, 0⟩), fun a ha => ?_⟩
    · have hj' : j < parts.length := hlen.symm ▸ hj
      have hget : parts.getD j 0 = parts[j] := by simp [List.getD_eq_getElem?_getD, hj']
      rw [hget]
      exact hpart _ (List.getElem_mem hj')
    · have harea : areas.getD j ⟨0, 0, 0⟩ = a := by rw [List.getD_eq_getElem?_getD, ha]; rfl
      rw [harea]
      exact ⟨rfl, rfl, rfl⟩

end Machine

end Sys2Proof
end

section
/-! PROOFS. The return of a parked team (20 R355 to R361): the bytes of a save area and what is restored from them. -/

namespace Sys2Proof.Machine

/-! PARKED_TEAM_RETURN (20 R355 to R361). Bytes of a save area. -/

theorem mkPtr_segOf_offOf (p : Ptr) : mkPtr (segOf p) (offOf p) = p := by
  apply BitVec.eq_of_toNat_eq
  have hp := p.isLt
  simp only [mkPtr, segOf, offOf, BitVec.toNat_ofNat, BitVec.toNat_ushiftRight, Nat.shiftRight_eq_div_pow]
  omega

namespace State

theorem homeBytes_length (s : State) (a n : Nat) : (s.homeBytes a n).length = n := by simp [homeBytes]

theorem getElem_homeBytes (s : State) (a n i : Nat) (h : i < (s.homeBytes a n).length) : (s.homeBytes a n)[i] = s.homeByte (a + i) := by
  simp [homeBytes]

/-- A part of a range of bytes. -/
theorem homeBytes_slice (s : State) (a : Nat) {len n m : Nat} (h : n + m ≤ len) : ((s.homeBytes a len).drop n).take m = s.homeBytes (a + n) m := by
  apply List.ext_getElem
  · simp only [List.length_take, List.length_drop, homeBytes_length]; omega
  · intro i h1 h2
    simp only [List.getElem_take, List.getElem_drop, getElem_homeBytes, Nat.add_assoc]

theorem savedWord_homeBytes (s : State) (a : Nat) {len n : Nat} (h : n + 4 ≤ len) : savedWord (s.homeBytes a len) n = Claims.wordOf s (a + n) := by
  rw [savedWord, homeBytes_slice s a h, Claims.wordOf]

theorem savedPtr_homeBytes (s : State) (a : Nat) {len n : Nat} (h : n + 8 ≤ len) : savedPtr (s.homeBytes a len) n = Claims.dwordOf s (a + n) := by
  rw [savedPtr, homeBytes_slice s a h, Claims.dwordOf]

theorem meetLine_of_clean {s : State} (h : Claims.Clean s) (l : Nat) : s.meetLine l = (s, .sound) := by
  obtain ⟨harmed, hpoison, hbad⟩ := h
  exact meetLine_of_sound harmed (by rw [hpoison]; simp) (by rw [hbad]; simp)

/-- A range at one place of a memory without errors reads as its bytes, and nothing changes. -/
theorem fetch_of_home {s : State} (hclean : Claims.Clean s) (k : Nat) {ctx : Nat} {p : Ptr} {n b : Nat}
    (hp : s.pieces ctx p n = [(.home b, n)]) : (s.fetch k ctx p n).st = s ∧ (s.fetch k ctx p n).bytes = s.homeBytes b n := by
  have hread : s.readLines (s.spanLines ctx p n) = s := by
    obtain ⟨harmed, hpoison, hbad⟩ := hclean
    have herr : s.anyError = false := by rw [anyError, harmed, hpoison, hbad]; rfl
    rw [readLines, herr]
    exact if_neg Bool.false_ne_true
  have hmet : (linesOf b n).foldl (fun (m : State × List Nat × Option Byte) l =>
      let x := m.1.meetLine l
      match x.2 with
      | .sound => (x.1, m.2.1, m.2.2)
      | .uncorrectable => (x.1, l :: m.2.1, m.2.2.orElse (fun _ => some codeUncorrectable))
      | .poisoned => (x.1, l :: m.2.1, m.2.2.orElse (fun _ => some codePoison))) (s, [], none) = (s, [], none) :=
    foldl_eq_self_of_mem fun l _ => by simp only [meetLine_of_clean hclean]
  have hf : s.fetch k ctx p n = fetchPiece ⟨k, s, [], [], none⟩ (.home b, n) := by rw [fetch, hp, hread]; rfl
  rw [hf]
  exact ⟨congrArg Prod.fst hmet, congrArg (fun m : State × List Nat × Option Byte => m.1.homeBytes b n) hmet⟩

/-- The group as its small state in a save area gives it (R357). -/
def readGroup (bs : List Byte) (width : Nat) (g : Group) : Group :=
  { g with
    level := ((savedWord bs 0xC).extractLsb' 16 3).toNat, thnd := BitVec.ofNat 32 (offOf (savedPtr bs 0x10)), thndSeg := segOf (savedPtr bs 0x10),
    barto := savedWord bs 0x18, cbrto := savedWord bs 0x1C, phs := savedWord bs 0x20, mflags := (savedWord bs 0x24).extractLsb' 0 5,
    gen := readGen bs width g.gen,
    doms := (List.range 16).foldl (fun t d => t.putD d (readDom bs d (g.domain d)) DomainUse.none) g.doms,
    sregs := (List.range 96).foldl (fun t r => t.putD r (savedWord bs (0x180 + 4 * r)) 0) [], rays := [], parked := false }

theorem readGroup_sreg (bs : List Byte) (width : Nat) (g : Group) {n : Nat} (hn : n < 96) :
    (readGroup bs width g).sreg n = savedWord bs (0x180 + 4 * n) := by
  have h : (readGroup bs width g).sregs.getD n 0 = if n < 96 then savedWord bs (0x180 + 4 * n) else 0 :=
    Tab.getD_foldl_putD (fun r => savedWord bs (0x180 + 4 * r)) 0 [] 96 n
  rw [Group.sreg, if_neg (by omega), h, if_pos hn]

/-- A thread as its record gives it, which the default handler has not parked: its vector registers are zero (R357, R361). -/
theorem restoreThread_record (s : State) {now b len w regs lane : Nat} {z : Thread} (hdef : z.defPark = false)
    (hlen : 0x400 + 1024 * lane + 1024 ≤ len) :
    let y := restoreThread now (s.homeBytes b len) [] w regs lane z
    let p := b + 0x400 + 1024 * lane
    y.pc = Claims.dwordOf s p ∧ y.depth = (Claims.wordOf s (p + 8)).extractLsb' 0 16 ∧ y.preds = (Claims.wordOf s (p + 12)).extractLsb' 0 15 ∧
      y.fpsr = Claims.wordOf s (p + 0x10) ∧ y.stklim = Claims.wordOf s (p + 0x1C) ∧
      ((Claims.wordOf s (p + 0x38)).extractLsb' 0 4 = 0 → y.wait = .none) ∧ y.life = z.life ∧ ∀ n, y.reg n = 0 := by
  intro y p
  have hslice : ((s.homeBytes b len).drop (0x400 + 1024 * lane)).take 1024 = s.homeBytes p 1024 := by
    rw [homeBytes_slice s b hlen]
    exact congrArg (fun a => s.homeBytes a 1024) (Nat.add_assoc ..).symm
  have hword (n : Nat) (hn : n + 4 ≤ 1024) : savedWord (((s.homeBytes b len).drop (0x400 + 1024 * lane)).take 1024) n = Claims.wordOf s (p + n) := by
    rw [hslice, savedWord_homeBytes s p hn]
  have hwait : y.wait = readWait ((savedWord (((s.homeBytes b len).drop (0x400 + 1024 * lane)).take 1024) 0x38).extractLsb' 0 4).toNat
      (some ((savedWord (((s.homeBytes b len).drop (0x400 + 1024 * lane)).take 1024) 0x38).extractLsb' 4 4).toNat)
      (some (now + (savedWord (((s.homeBytes b len).drop (0x400 + 1024 * lane)).take 1024) 0x3C).toNat)) (if z.defPark then z.wait else .none) := rfl
  refine ⟨?_, congrArg (BitVec.extractLsb' 0 16) (hword 8 (by decide)), congrArg (BitVec.extractLsb' 0 15) (hword 12 (by decide)),
    hword 0x10 (by decide), hword 0x1C (by decide), fun h0 => ?_, rfl, fun n => ?_⟩
  · exact (congrArg (fun bs => savedPtr bs 0) hslice).trans (savedPtr_homeBytes s p (by decide))
  · rw [hwait, hword 0x38 (by decide), h0, hdef]
    rfl
  · have hregs : y.regs = [] := by
      have h : y.regs = if z.defPark then (List.range regs).foldl (fun (m : Tab Word) r => m.putD r (savedWord [] (4 * (w * r + lane))) 0) [] else [] := rfl
      rw [h, hdef]
      rfl
    rw [Thread.reg, hregs]
    exact ite_self 0

/-- A thread of a returning group, from its record. -/
def readThread (s : State) (gid : Nat) (bs : List Byte) (u : Nat) (t : Thread) : Thread :=
  if gidOf u = gid ∧ t.life ≠ .exited then
    restoreThread s.cycle bs [] (s.launchOf gid).width (s.launchOf gid).regs (laneOf u) t
  else t

/-- The small state read back, where no error stands and no vector image was written (R357, R358). -/
theorem restoreGroup_of_clean {s : State} {gid b : Nat} {g : Group} (hclean : Claims.Clean s) (hg : s.groups.get? gid = some g)
    (hdef : s.defaultParked gid = false)
    (hp : s.pieces (s.ctxOf gid) g.savep (imageAt (s.launchOf gid).width) = [(.home b, imageAt (s.launchOf gid).width)]) :
    let bs := s.homeBytes b (imageAt (s.launchOf gid).width)
    s.restoreGroup gid false = (s.modGroup gid (readGroup bs (s.launchOf gid).width)).mapThreads (s.readThread gid bs) := by
  obtain ⟨hst, hbytes⟩ := fetch_of_home hclean 0 hp
  have hr : s.savedBytes gid 0 (imageAt (s.launchOf gid).width) = (s, s.homeBytes b (imageAt (s.launchOf gid).width)) := by
    simp only [savedBytes, group_of_get? hg, Nat.add_zero, mkPtr_segOf_offOf, hst, hbytes]
  simp only [restoreGroup, hr, hdef]
  rfl

/-! The storage of the only team, which is parked, stands (R356). -/

theorem usedOn_of_parked {s : State} {k : Nat} {T : Team} (hteams : s.teams = [(k, T)]) (hplace : T.place = .parked) (core : Nat) :
    s.usedOn core = Need.zero := by
  have hnone : s.teams.filter (fun e => decide (e.2.place = .resident)) = [] := by simp [hteams, hplace]
  rw [usedOn, hnone]
  rfl

theorem keptOn_of_parked {s : State} {k : Nat} {T : Team} (hteams : s.teams = [(k, T)]) (hplace : T.place = .parked) (hlazy : T.lazyOut = false)
    (core : Nat) : s.keptOn core = Need.zero.plus (s.heldBy k core) := by
  have hone : s.teams.filter (fun e => decide (e.2.place = .parked) && !e.2.lazyOut) = [(k, T)] := by simp [hteams, hplace, hlazy]
  rw [keptOn, hone]
  rfl

theorem zero_plus (n : Need) : Need.zero.plus n = n := by simp [Need.zero, Need.plus]

/-- What a team that may return holds of a core is within the core's capacities. -/
theorem heldBy_within {s : State} {k core : Nat} {T : Team} (hteams : s.teams = [(k, T)]) (hmay : s.mayReturn k = true)
    (hplace : T.place = .parked) (hcore : core ∈ T.cores) : (s.heldBy k core).within = true := by
  have hT : s.team k = T := by rw [team, Tab.getD, hteams, Tab.get?_cons, if_pos rfl]; rfl
  have hsome : (T.cores.findIdx? (· == core)).isSome := by
    rw [List.findIdx?_isSome, List.any_eq_true]
    exact ⟨core, hcore, beq_self_eq_true core⟩
  obtain ⟨i, hi⟩ := Option.isSome_iff_exists.1 hsome
  obtain ⟨hlt, hat, -⟩ := List.findIdx?_eq_some_iff_getElem.1 hi
  simp only [mayReturn, Bool.and_eq_true, List.all_eq_true, hT] at hmay
  obtain ⟨⟨-, hwithin⟩, -⟩ := hmay
  have hw := hwithin i (List.mem_range.2 hlt)
  rw [usedOn_of_parked hteams hplace, zero_plus] at hw
  rw [heldBy, hT]
  simp only [hi]
  exact hw

/-- Nothing is claimed for a team that returns to its own storage. -/
theorem claimOn_of_mayReturn {s : State} {k : Nat} {T : Team} (hteams : s.teams = [(k, T)]) (hmay : s.mayReturn k = true)
    (hplace : T.place = .parked) (hlazy : T.lazyOut = false) {core : Nat} (hcore : core ∈ T.cores) : s.claimOn core Need.zero = s := by
  have hwithin := heldBy_within hteams hmay hplace hcore
  simp only [Need.within, Bool.and_eq_true, decide_eq_true_eq] at hwithin
  obtain ⟨⟨⟨⟨⟨hslots, -⟩, hspad⟩, htiles⟩, haccs⟩, hrays⟩ := hwithin
  refine foldl_eq_self_of_mem fun v _ => ?_
  simp only [usedOn_of_parked hteams hplace, keptOn_of_parked hteams hplace hlazy, zero_plus]
  exact if_pos ⟨hspad, htiles, haccs, hslots, hrays⟩

/-- The shadow of a returning group renewed changes its shadow alone. -/
theorem renewShadow_groups (s : State) (gid : Nat) : ∃ sh : Option Shadow → Option Shadow, ∀ j, (s.renewShadow gid).groups.get? j =
    if j = gid then (s.groups.get? j).map (fun g => { g with shadow := sh g.shadow }) else s.groups.get? j :=
  ⟨fun o => o.map (fun sh => { sh with twin := s.twinOf gid }), fun j => by rw [renewShadow, modGroup_groups, Tab.get?_modify]⟩

/-- A team whose barrier timers go on (R357). -/
def timed (now : Nat) (T : Team) : Team :=
  { T with bars := T.bars.mapKV (fun _ b => if b.arrived = [] then b else { b with start := b.start + (now - T.parkedAt) }) }

/-- A team back on its cores (R357). -/
def returned (now : Nat) (T : Team) : Team := { T with place := .resident, returnedAt := now, preempting := false, lazyOut := false }

theorem resumeTimers_eq (s : State) (k : Nat) : s.resumeTimers k = s.modTeam k (timed s.cycle) := rfl

theorem resumeTimers_launchOf (s : State) (k gid : Nat) : (s.resumeTimers k).launchOf gid = s.launchOf gid :=
  congrArg s.launch (Tab.getD_modify_congr (f := timed s.cycle) Team.launch (fun _ => rfl) s.teams k (teamOf gid) Team.blank)

end State

open State

/-- PARKED_TEAM_RETURN of a team of one group whose regions are still in place. -/
theorem evParkedTeamReturn_of_one {s : State} {k gid : Nat} {T : Team} (hsub : s.subject = .team k) (hteams : s.teams = [(k, T)])
    (hmay : s.mayReturn k = true) (hlazy : T.lazyOut = false) (hgroups : s.groupsOf k = [gid]) (hlive : s.groupEnded gid = false) :
    evParkedTeamReturn s = (((s.resumeTimers k).restoreGroup gid false).renewShadow gid).modTeam k
      (returned (((s.resumeTimers k).restoreGroup gid false).renewShadow gid).cycle) := by
  have hT : s.team k = T := by rw [team, Tab.getD, hteams, Tab.get?_cons, if_pos rfl]; rfl
  have hplace : T.place = .parked := by
    have hdue : s.due k = true := by
      simp only [mayReturn, Bool.and_eq_true] at hmay
      obtain ⟨⟨⟨h, -⟩, -⟩, -⟩ := hmay
      exact h
    simp only [due, Bool.and_eq_true, decide_eq_true_eq, hT] at hdue
    obtain ⟨⟨h, -⟩, -⟩ := hdue
    exact h
  have hclaim : (List.range T.cores.length).foldl (fun s i => s.claimOn (T.cores.getD i 0) Need.zero) s = s :=
    foldl_eq_self_of_mem fun i hi => claimOn_of_mayReturn hteams hmay hplace hlazy (by
      have hi := List.mem_range.1 hi
      simp [List.getD_eq_getElem?_getD, hi])
  have hone : ((s.resumeTimers k).groupsOf k).filter (fun g => !(s.resumeTimers k).groupEnded g) = [gid] := by
    have h : (s.groupsOf k).filter (fun g => !s.groupEnded g) = [gid] := by simp [hgroups, hlive]
    exact h
  unfold evParkedTeamReturn
  split
  next k' hk =>
    obtain rfl : k' = k := by
      have := hk.symm.trans hsub
      simpa using this
    simp only [hmay, hT, hlazy, Bool.false_eq_true, if_false, if_true, hclaim, hone, List.foldl_cons, List.foldl_nil]
    rfl
  next hother => exact absurd hsub (hother k)

/-- PARKED_TEAM_RETURN (R357). -/
theorem exec_parkedTeamReturn (s : State) (k gid b : Nat) (T : Team) (g : Group) (hsub : s.subject = .team k) (hteams : s.teams = [(k, T)])
    (hmay : s.mayReturn k = true) (hlazy : T.lazyOut = false) (hgroups : s.groupsOf k = [gid]) (hg : s.groups.get? gid = some g) :
    let la := s.launchOf gid
    let len := 1024 + 1024 * la.width
    (∃ u z, s.threads.get? u = some z ∧ gidOf u = gid ∧ z.life ≠ .exited) →
    (∀ u z, s.threads.get? u = some z → gidOf u = gid → z.defPark = false) → Claims.Clean s →
    s.pieces (s.ctxOf gid) g.savep len = [(.home b, len)] →
    ∃ t g', exec .parkedTeamReturn s = .next t ∧ { t with threads := s.threads, groups := s.groups, teams := s.teams } = s ∧
      (∃ U, t.teams = [(k, U)] ∧ { U with bars := T.bars } =
          { T with place := .resident, returnedAt := s.cycle, preempting := false, lazyOut := false } ∧
        ∀ n x, T.bars.get? n = some x → U.bars.get? n =
          some (if x.arrived = [] then x else { x with start := x.start + (s.cycle - T.parkedAt) })) ∧
      (∀ j, j ≠ gid → t.groups.get? j = s.groups.get? j) ∧ t.groups.get? gid = some g' ∧ g'.parked = false ∧ g'.rays = [] ∧
      g'.tiles = g.tiles ∧ g'.accs = g.accs ∧ g'.barto = Claims.wordOf s (b + 0x18) ∧ g'.cbrto = Claims.wordOf s (b + 0x1C) ∧
      (∀ n, n < 96 → g'.sreg n = Claims.wordOf s (b + 0x180 + 4 * n)) ∧
      (∀ u z, s.threads.get? u = some z → gidOf u ≠ gid ∨ z.life = .exited → t.threads.get? u = some z) ∧
      ∀ u z, s.threads.get? u = some z → gidOf u = gid → laneOf u < la.width → z.life ≠ .exited → ∃ y, t.threads.get? u = some y ∧
        let p := b + 0x400 + 1024 * laneOf u
        y.pc = Claims.dwordOf s p ∧ y.depth = (Claims.wordOf s (p + 8)).extractLsb' 0 16 ∧ y.preds = (Claims.wordOf s (p + 12)).extractLsb' 0 15 ∧
        y.fpsr = Claims.wordOf s (p + 0x10) ∧ y.stklim = Claims.wordOf s (p + 0x1C) ∧
        ((Claims.wordOf s (p + 0x38)).extractLsb' 0 4 = 0 → y.wait = .none) ∧ y.life = z.life ∧ ∀ n, y.reg n = 0 := by
  intro la len hlive hdef hclean hpieces
  have hlen : len = 1024 + 1024 * la.width := rfl
  have hended : s.groupEnded gid = false := groupEnded_of_live hlive
  have hpark : s.defaultParked gid = false := defaultParked_of_none fun u z hz hu _ => hdef u z hz hu
  have hev := evParkedTeamReturn_of_one hsub hteams hmay hlazy hgroups hended
  generalize hs1 : s.resumeTimers k = s1 at hev
  have hs1clean : Claims.Clean s1 := by rw [← hs1]; exact hclean
  have hs1groups : s1.groups = s.groups := by rw [← hs1]; rfl
  have hs1threads : s1.threads = s.threads := by rw [← hs1]; rfl
  have hs1launch : s1.launchOf gid = la := by rw [← hs1, resumeTimers_launchOf]
  have hrestore := restoreGroup_of_clean (s := s1) (gid := gid) (b := b) (g := g) hs1clean (by rw [hs1groups]; exact hg)
    (by rw [← hs1]; exact hpark) (by rw [ctxOf, hs1launch, ← hs1]; exact hpieces)
  simp only [hs1launch] at hrestore
  have hbs : s1.homeBytes b (imageAt la.width) = s.homeBytes b len := by rw [← hs1]; rfl
  rw [hbs] at hrestore
  generalize hs2 : s1.restoreGroup gid false = s2 at hev hrestore
  obtain ⟨sh, hsh⟩ := renewShadow_groups s2 gid
  have hs2threads (u : Nat) : s2.threads.get? u = (s.threads.get? u).map (s1.readThread gid (s.homeBytes b len) u) := by
    rw [hrestore, mapThreads_threads, modGroup_threads, Tab.get?_mapKV, hs1threads]
  have hs2groups (j : Nat) : s2.groups.get? j =
      if j = gid then (s.groups.get? j).map (readGroup (s.homeBytes b len) la.width) else s.groups.get? j := by
    rw [hrestore, mapThreads_groups, modGroup_groups, Tab.get?_modify, hs1groups]
  have hs2teams : s2.teams = s1.teams := by rw [hrestore]; rfl
  have hs2cycle : s2.cycle = s.cycle := by rw [hrestore, ← hs1]; rfl
  generalize hs3 : s2.renewShadow gid = s3 at hev hsh
  have hs3threads : s3.threads = s2.threads := by rw [← hs3]; rfl
  have hs3teams : s3.teams = [(k, timed s.cycle T)] := by
    have h : s3.teams = s1.teams := by rw [← hs3, ← hs2teams]; rfl
    rw [h, ← hs1, resumeTimers_eq, modTeam_teams, hteams]
    simp [Tab.modify, Tab.mapKV]
  have hs3cycle : s3.cycle = s.cycle := by rw [← hs3, ← hs2cycle]; rfl
  rw [hs3cycle] at hev
  have hs3groups : (s3.modTeam k (returned s.cycle)).groups = s3.groups := rfl
  have htthreads : (s3.modTeam k (returned s.cycle)).threads = s2.threads := hs3threads
  have htteams : (s3.modTeam k (returned s.cycle)).teams = [(k, returned s.cycle (timed s.cycle T))] := by
    rw [modTeam_teams, hs3teams]
    simp [Tab.modify, Tab.mapKV]
  have htframe : { s3.modTeam k (returned s.cycle) with threads := s.threads, groups := s.groups, teams := s.teams } = s := by
    rw [← hs3, hrestore, ← hs1]
    rfl
  generalize s3.modTeam k (returned s.cycle) = t at hev hs3groups htthreads htteams htframe
  have htgroups (j : Nat) : t.groups.get? j =
      if j = gid then (s.groups.get? j).map (fun g => { readGroup (s.homeBytes b len) la.width g with shadow := sh g.shadow })
      else s.groups.get? j := by
    rw [hs3groups, hsh, hs2groups]
    split <;> simp [Option.map_map, Function.comp_def, readGroup]
  have htgid : t.groups.get? gid = some { readGroup (s.homeBytes b len) la.width g with shadow := sh g.shadow } := by
    rw [htgroups, if_pos rfl, hg]; rfl
  refine ⟨t, _, congrArg Host.Outcome.next hev, htframe, ⟨_, htteams, rfl, fun n x hx => ?_⟩, fun j hj => ?_, htgid, rfl, rfl, rfl, rfl, ?_, ?_,
    fun n hn => ?_, fun u z hz hout => ?_, fun u z hz hu hlane hlife => ?_⟩
  · have h : (timed s.cycle T).bars.get? n = some (if x.arrived = [] then x else { x with start := x.start + (s.cycle - T.parkedAt) }) := by
      rw [timed, Tab.get?_mapKV, hx]; rfl
    exact h
  · rw [htgroups, if_neg hj]
  · exact savedWord_homeBytes s b (by omega)
  · exact savedWord_homeBytes s b (by omega)
  · exact (readGroup_sreg _ la.width g hn).trans ((savedWord_homeBytes s b (by omega)).trans (by rw [Nat.add_assoc]))
  · have hkeep : s1.readThread gid (s.homeBytes b len) u z = z :=
      if_neg fun h => hout.elim (fun hne => hne h.1) (fun hex => h.2 hex)
    rw [htthreads, hs2threads, hz, Option.map_some, hkeep]
  · have hread : s1.readThread gid (s.homeBytes b len) u z =
        restoreThread s1.cycle (s.homeBytes b len) [] la.width la.regs (laneOf u) z := by
      rw [readThread, if_pos ⟨hu, hlife⟩, hs1launch]
    refine ⟨_, (by rw [htthreads, hs2threads, hz, Option.map_some, hread]), ?_⟩
    have hrecord := restoreThread_record s (now := s1.cycle) (b := b) (len := len) (w := la.width) (regs := la.regs) (hdef u z hz hu)
      (lane := laneOf u) (by omega)
    exact hrecord

end Sys2Proof.Machine
end

section
/-! PROOFS. Parking (20 R353 to R361): the layout of the small state in a save area, its write, and the five moves of teams together. -/

namespace Sys2Proof.Machine

/-! PARK_COMPLETE (20 R353 to R361). Where a list of bytes stands in a longer one. -/

/-- The bytes `xs` stand at place `n` of `bs`. -/
def StandsAt (xs : List Byte) (n : Nat) (bs : List Byte) : Prop := ∃ pre post, bs = pre ++ (xs ++ post) ∧ pre.length = n

namespace StandsAt

theorem here (xs post : List Byte) : StandsAt xs 0 (xs ++ post) := ⟨[], post, rfl, rfl⟩

theorem skip {pre ys xs : List Byte} {m n k : Nat} (hpre : pre.length = m) (h : StandsAt xs n ys) (hk : k = m + n) :
    StandsAt xs k (pre ++ ys) := by
  obtain ⟨p, q, rfl, rfl⟩ := h
  exact ⟨pre ++ p, q, by rw [List.append_assoc], by rw [List.length_append, hpre, hk]⟩

theorem append_right {xs ys : List Byte} {n : Nat} (h : StandsAt xs n ys) (post : List Byte) : StandsAt xs n (ys ++ post) := by
  obtain ⟨p, q, rfl, rfl⟩ := h
  exact ⟨p, q ++ post, by simp only [List.append_assoc], rfl⟩

theorem trans {xs ys zs : List Byte} {m n k : Nat} (h1 : StandsAt xs m ys) (h2 : StandsAt ys n zs) (hk : k = n + m) : StandsAt xs k zs := by
  obtain ⟨p, q, rfl, rfl⟩ := h1
  obtain ⟨p', q', rfl, rfl⟩ := h2
  exact ⟨p' ++ p, q ++ q', by simp only [List.append_assoc], by rw [List.length_append, hk]⟩

theorem self (xs : List Byte) : StandsAt xs 0 xs := ⟨[], [], (List.append_nil xs).symm, rfl⟩

theorem take_drop {xs bs : List Byte} {n : Nat} (h : StandsAt xs n bs) : (bs.drop n).take xs.length = xs := by
  obtain ⟨p, q, rfl, rfl⟩ := h
  rw [List.drop_left, List.take_left]

end StandsAt

theorem length_flatMap_const {α : Type} {l : List α} {f : α → List Byte} {c : Nat} (h : ∀ x ∈ l, (f x).length = c) :
    (l.flatMap f).length = l.length * c := by
  induction l with
  | nil => simp
  | cons x l ih =>
    obtain ⟨hx, hl⟩ := List.forall_mem_cons.1 h
    rw [List.flatMap_cons, List.length_append, hx, ih hl, List.length_cons, Nat.succ_mul, Nat.add_comm]

/-- Of parts of one length each stands at its multiple. -/
theorem standsAt_flatMap_range {f : Nat → List Byte} {c : Nat} (h : ∀ i, (f i).length = c) {m i : Nat} (hi : i < m) :
    StandsAt (f i) (c * i) ((List.range m).flatMap f) := by
  induction m with
  | zero => omega
  | succ m ih =>
    rw [List.range_succ, List.flatMap_append, List.flatMap_cons, List.flatMap_nil]
    rcases Nat.lt_or_eq_of_le (Nat.le_of_lt_succ hi) with hlt | rfl
    · exact (ih hlt).append_right _
    · refine .skip (length_flatMap_const fun j _ => h j) (.here _ _) ?_
      rw [List.length_range, Nat.mul_comm, Nat.add_zero]

namespace State

theorem savedWord_of_standsAt {x n : Nat} {bs : List Byte} (h : StandsAt (leBytes 4 x) n bs) : savedWord bs n = BitVec.ofNat 32 x := by
  have ht := h.take_drop
  rw [leBytes_length] at ht
  rw [savedWord, ht, leNat_leBytes]
  apply BitVec.eq_of_toNat_eq
  simp

theorem savedPtr_of_standsAt {x n : Nat} {bs : List Byte} (h : StandsAt (leBytes 8 x) n bs) : savedPtr bs n = BitVec.ofNat 64 x := by
  have ht := h.take_drop
  rw [leBytes_length] at ht
  rw [savedPtr, ht, leNat_leBytes]
  apply BitVec.eq_of_toNat_eq
  simp

/-! The lengths of the parts of a save area (R360, R361). -/

theorem openBytes_length (s : State) (gid at_ n : Nat) : (s.openBytes gid at_ n).length = n := by simp [openBytes]

theorem waitBytes_length (s : State) (w : Wait) : (s.waitBytes w).length = 8 := by
  simp only [waitBytes, List.length_append, leBytes_length]

theorem slotBytes_length (s : State) (gid at_ : Nat) (k : Option TrapSlot) : (s.slotBytes gid at_ k).length = 32 := by
  cases k <;> simp only [slotBytes, List.length_append, leBytes_length, openBytes_length, List.length_replicate]

theorem meetBytes_length (ms : List Meeting) : (meetBytes ms).length = 144 := by
  refine (length_flatMap_const (c := 16) fun j _ => ?_).trans (by rw [List.length_range])
  cases ms[j]? <;> simp only [List.length_append, leBytes_length, List.length_replicate]

theorem genLane_length (g : Group) (lane : Nat) : (genLane g lane).length = 304 := by
  rw [genLane, List.length_append]
  cases g.gen.bind (fun x => x.saved.get? lane) <;> cases g.gen.bind (fun x => x.entry.get? lane) <;>
    simp only [List.length_append, leBytes_length, meetBytes_length, List.length_replicate]

theorem genBytes_length (g : Option Gen) : (genBytes g).length = 40 := by
  cases g with
  | none => rfl
  | some g =>
    rw [genBytes, List.length_append, leBytes_length, length_flatMap_const fun x _ => leBytes_length 4 x]
    rfl

theorem domBytes_length (u : DomainUse) : (domBytes u).length = 16 := by
  rw [domBytes, length_flatMap_const fun x _ => leBytes_length 4 x]
  rfl

theorem recordBytes_length (s : State) (gid lane : Nat) : (s.recordBytes gid lane).length = 1024 := by
  rw [recordBytes]
  cases s.threads.get? (tidAt gid lane) with
  | none => simp only [List.length_append, leBytes_length, List.length_replicate]
  | some t =>
    have hw (l : List Word) : (l.flatMap (fun x => leBytes 4 x.toNat)).length = l.length * 4 :=
      length_flatMap_const fun x _ => leBytes_length 4 x.toNat
    simp only [List.length_append, leBytes_length, List.length_replicate, hw, waitBytes_length, slotBytes_length, meetBytes_length,
      genLane_length, openBytes_length]
    rw [length_flatMap_const (l := List.range 16) (c := 8)]
    · rfl
    · intro j _
      cases t.cross[j]? <;> simp only [leBytes_length, List.length_replicate]

/-! The parts of the small state (R360). -/

/-- The header of a save area, up to its open bytes. -/
def headerBytes (s : State) (gid : Nat) (default_ : Bool) : List Byte :=
  leBytes 4 (2 ^ 24 + (s.launchOf gid).width * 2 ^ 16 + (s.launchOf gid).regs * 2 ^ 8 + default_.toNat * 8 +
      (if gidxOf gid = 0 then 4 else 0) + 2 + 1) ++
    (leBytes 4 (s.launchOf gid).id.toNat ++ (leBytes 4 (s.teamAt gid).index ++ (leBytes 4 (gidxOf gid + (s.group gid).level * 2 ^ 16) ++
      (leBytes 8 (s.handler gid).toNat ++ (leBytes 4 (s.group gid).barto.toNat ++ (leBytes 4 (s.group gid).cbrto.toNat ++
        (leBytes 4 (s.group gid).phs.toNat ++ leBytes 4 (s.group gid).mflags.toNat)))))))

/-- The collective domains, the scalars and the thread records of a save area. -/
def domainBytes (g : Group) : List Byte := (List.range 16).flatMap (fun d => domBytes (g.domain d))
def scalarBytes (g : Group) : List Byte := (List.range 96).flatMap (fun k => leBytes 4 (g.sreg k).toNat)
def recordsBytes (s : State) (gid : Nat) : List Byte := (List.range (s.launchOf gid).width).flatMap (fun i => s.recordBytes gid i)

theorem smallBytes_eq (s : State) (gid : Nat) (default_ : Bool) : s.smallBytes gid default_ =
    s.headerBytes gid default_ ++ (s.openBytes gid 0x28 24 ++ (genBytes (s.group gid).gen ++ (s.openBytes gid 0x68 24 ++
      (domainBytes (s.group gid) ++ (scalarBytes (s.group gid) ++ (s.openBytes gid 0x300 256 ++ s.recordsBytes gid)))))) := by
  simp only [smallBytes, headerBytes, domainBytes, scalarBytes, recordsBytes, List.append_assoc]

theorem headerBytes_length (s : State) (gid : Nat) (default_ : Bool) : (s.headerBytes gid default_).length = 0x28 := by
  simp only [headerBytes, List.length_append, leBytes_length]

theorem domainBytes_length (g : Group) : (domainBytes g).length = 0x100 := by
  rw [domainBytes, length_flatMap_const fun d _ => domBytes_length (g.domain d), List.length_range]

theorem scalarBytes_length (g : Group) : (scalarBytes g).length = 0x180 := by
  rw [scalarBytes, length_flatMap_const fun k _ => leBytes_length 4 (g.sreg k).toNat, List.length_range]

theorem recordsBytes_length (s : State) (gid : Nat) : (s.recordsBytes gid).length = 1024 * (s.launchOf gid).width := by
  rw [recordsBytes, length_flatMap_const fun i _ => recordBytes_length s gid i, List.length_range, Nat.mul_comm]

theorem smallBytes_length (s : State) (gid : Nat) (default_ : Bool) :
    (s.smallBytes gid default_).length = 1024 + 1024 * (s.launchOf gid).width := by
  simp only [smallBytes_eq, List.length_append, headerBytes_length, openBytes_length, genBytes_length, domainBytes_length, scalarBytes_length,
    recordsBytes_length]
  omega

theorem standsAt_header (s : State) (gid : Nat) (default_ : Bool) : StandsAt (s.headerBytes gid default_) 0 (s.smallBytes gid default_) := by
  rw [smallBytes_eq]
  exact .here _ _

theorem standsAt_gen (s : State) (gid : Nat) (default_ : Bool) : StandsAt (genBytes (s.group gid).gen) 0x40 (s.smallBytes gid default_) := by
  rw [smallBytes_eq]
  exact .skip (headerBytes_length ..) (.skip (openBytes_length ..) (.here _ _) rfl) rfl

theorem standsAt_domains (s : State) (gid : Nat) (default_ : Bool) : StandsAt (domainBytes (s.group gid)) 0x80 (s.smallBytes gid default_) := by
  rw [smallBytes_eq]
  exact .skip (headerBytes_length ..) (.skip (openBytes_length ..) (.skip (genBytes_length _) (.skip (openBytes_length ..) (.here _ _) rfl) rfl) rfl)
    rfl

theorem standsAt_scalars (s : State) (gid : Nat) (default_ : Bool) : StandsAt (scalarBytes (s.group gid)) 0x180 (s.smallBytes gid default_) := by
  rw [smallBytes_eq]
  exact .skip (headerBytes_length ..) (.skip (openBytes_length ..) (.skip (genBytes_length _) (.skip (openBytes_length ..)
    (.skip (domainBytes_length _) (.here _ _) rfl) rfl) rfl) rfl) rfl

theorem standsAt_records (s : State) (gid : Nat) (default_ : Bool) : StandsAt (s.recordsBytes gid) 0x400 (s.smallBytes gid default_) := by
  rw [smallBytes_eq]
  exact .skip (headerBytes_length ..) (.skip (openBytes_length ..) (.skip (genBytes_length _) (.skip (openBytes_length ..)
    (.skip (domainBytes_length _) (.skip (scalarBytes_length _) (.skip (openBytes_length ..) (.self _) rfl) rfl) rfl) rfl) rfl) rfl) rfl

/-- What the words of a small state say, of a group whose threads the default handler has not parked. -/
theorem smallBytes_header (s : State) (gid : Nat) : let bs := s.smallBytes gid false
    let la := s.launchOf gid
    savedWord bs 0 = BitVec.ofNat 32 (2 ^ 24 + la.width * 2 ^ 16 + la.regs * 2 ^ 8 + (if gidxOf gid = 0 then 4 else 0) + 3) ∧
      savedWord bs 4 = la.id ∧ savedWord bs 8 = BitVec.ofNat 32 (s.teamAt gid).index := by
  intro bs la
  have hword {x n : Nat} (h : StandsAt (leBytes 4 x) n (s.headerBytes gid false)) : savedWord bs n = BitVec.ofNat 32 x :=
    savedWord_of_standsAt (h.trans (standsAt_header s gid false) (Nat.zero_add n).symm)
  refine ⟨hword (.here _ _), (hword (.skip (leBytes_length ..) (.here _ _) rfl)).trans (BitVec.ofNat_toNat ..) |>.trans (BitVec.setWidth_eq _),
    hword (.skip (leBytes_length ..) (.skip (leBytes_length ..) (.here _ _) rfl) rfl)⟩

theorem smallBytes_gen_none {s : State} {gid : Nat} (h : (s.group gid).gen = none) {n : Nat} (hn : n < 10) :
    savedWord (s.smallBytes gid false) (0x40 + 4 * n) = 0 := by
  have hz : StandsAt (leBytes 4 0) (4 * n) (genBytes (s.group gid).gen) := by
    have hr : genBytes (s.group gid).gen = (List.range 10).flatMap (fun _ => leBytes 4 0) := by rw [h]; rfl
    rw [hr]
    exact standsAt_flatMap_range (fun _ => leBytes_length 4 0) hn
  exact savedWord_of_standsAt (hz.trans (standsAt_gen s gid false) rfl)

theorem smallBytes_gen_some {s : State} {gid : Nat} {x : Gen} (h : (s.group gid).gen = some x) : let bs := s.smallBytes gid false
    savedWord bs 0x40 = x.buf ∧ savedWord bs 0x50 = BitVec.ofNat 32 x.head ∧ savedWord bs 0x54 = BitVec.ofNat 32 x.cnt ∧
      savedWord bs 0x58 = BitVec.ofNat 32 x.frc.toNat ∧ savedWord bs 0x5C = if x.consumer then 2 else 1 := by
  intro bs
  have hgen : genBytes (s.group gid).gen = leBytes 4 x.buf.toNat ++ (leBytes 4 (x.t * 2 ^ 20 + x.e * 2 ^ 16 + x.c) ++
      (leBytes 4 (x.f * 2 ^ 16 + x.qb * 2 ^ 8 + x.pb) ++ (leBytes 4 0 ++ (leBytes 4 x.head ++ (leBytes 4 x.cnt ++ (leBytes 4 x.frc.toNat ++
        (leBytes 4 (x.consumer.toNat + 1) ++ leBytes 8 (x.prd.foldl (fun m l => m + 2 ^ l) 0)))))))) := by
    rw [h]
    simp only [genBytes, List.flatMap_cons, List.flatMap_nil, List.append_nil, List.append_assoc]
  have hword {v n k : Nat} (hs : StandsAt (leBytes 4 v) n (genBytes (s.group gid).gen)) (hk : k = 0x40 + n) :
      savedWord bs k = BitVec.ofNat 32 v := savedWord_of_standsAt (hs.trans (standsAt_gen s gid false) hk)
  rw [hgen] at hword
  have skip {v w n k : Nat} {r : List Byte} (hs : StandsAt (leBytes 4 v) n r) (hk : k = 4 + n) :
      StandsAt (leBytes 4 v) k (leBytes 4 w ++ r) := .skip (leBytes_length ..) hs hk
  refine ⟨(hword (.here _ _) rfl).trans (by simp), hword (skip (skip (skip (skip (.here _ _) rfl) rfl) rfl) rfl) rfl,
    hword (skip (skip (skip (skip (skip (.here _ _) rfl) rfl) rfl) rfl) rfl) rfl,
    hword (skip (skip (skip (skip (skip (skip (.here _ _) rfl) rfl) rfl) rfl) rfl) rfl) rfl,
    (hword (skip (skip (skip (skip (skip (skip (skip (.here _ _) rfl) rfl) rfl) rfl) rfl) rfl) rfl) rfl).trans ?_⟩
  cases x.consumer <;> rfl

theorem smallBytes_domain (s : State) (gid : Nat) {d : Nat} (hd : d < 16) :
    savedWord (s.smallBytes gid false) (0x80 + 16 * d) = BitVec.ofNat 32 ((s.group gid).domain d).count := by
  have hcount (u : DomainUse) : StandsAt (leBytes 4 u.count) 0 (domBytes u) := by
    simp only [domBytes, List.flatMap_cons]
    exact .here _ _
  have hdom : StandsAt (domBytes ((s.group gid).domain d)) (16 * d) (domainBytes (s.group gid)) :=
    standsAt_flatMap_range (f := fun d => domBytes ((s.group gid).domain d)) (fun _ => domBytes_length _) hd
  exact savedWord_of_standsAt ((hcount _).trans (hdom.trans (standsAt_domains s gid false) rfl) rfl)

theorem smallBytes_scalar (s : State) (gid : Nat) {n : Nat} (hn : n < 96) :
    savedWord (s.smallBytes gid false) (0x180 + 4 * n) = (s.group gid).sreg n := by
  have hs : StandsAt (leBytes 4 ((s.group gid).sreg n).toNat) (4 * n) (scalarBytes (s.group gid)) :=
    standsAt_flatMap_range (f := fun k => leBytes 4 ((s.group gid).sreg k).toNat) (fun _ => leBytes_length ..) hn
  rw [savedWord_of_standsAt (hs.trans (standsAt_scalars s gid false) rfl)]
  simp

/-- How the record of a thread begins (R361): its second word holds the depth, then counts and flags from bit 16 on. -/
theorem recordBytes_front {s : State} {gid lane : Nat} {t : Thread} (h : s.threads.get? (tidAt gid lane) = some t) :
    ∃ flags rest, s.recordBytes gid lane = leBytes 8 (parkLabel t).toNat ++ (leBytes 4 flags ++ (leBytes 4 t.preds.toNat ++
      (leBytes 4 t.fpsr.toNat ++ (leBytes 4 t.fpcr.toNat ++ (leBytes 4 t.rpc.toNat ++ (leBytes 4 t.stklim.toNat ++
        (leBytes 4 t.fcode.toNat ++ rest))))))) ∧ flags % 2 ^ 16 = t.depth.toNat := by
  rw [recordBytes, h]
  simp only [List.append_assoc, List.flatMap_cons]
  refine ⟨_, _, rfl, ?_⟩
  have hd := t.depth.isLt
  split <;> split <;> split <;> split <;> omega

theorem extract_depth {flags : Nat} {d : BitVec 16} (h : flags % 2 ^ 16 = d.toNat) : (BitVec.ofNat 32 flags).extractLsb' 0 16 = d := by
  apply BitVec.eq_of_toNat_eq
  simp only [BitVec.extractLsb'_toNat, BitVec.toNat_ofNat, Nat.shiftRight_zero]
  omega

/-- What the record of a thread that waits at PARK says (R354, R361). -/
theorem smallBytes_record {s : State} {gid lane : Nat} {z : Thread} {r : Ptr} (hz : s.threads.get? (tidAt gid lane) = some z)
    (hlane : lane < (s.launchOf gid).width) (hwait : z.wait = .park r) : let bs := s.smallBytes gid false
    let p := 0x400 + 1024 * lane
    savedPtr bs p = r ∧ (savedWord bs (p + 8)).extractLsb' 0 16 = z.depth ∧ savedWord bs (p + 12) = z.preds.setWidth 32 ∧
      savedWord bs (p + 0x10) = z.fpsr ∧ savedWord bs (p + 0x1C) = z.stklim ∧ savedWord bs (p + 0x20) = z.fcode := by
  intro bs p
  obtain ⟨flags, rest, hfront, hflags⟩ := recordBytes_front hz
  have hlabel : parkLabel z = r := by rw [parkLabel, hwait]
  rw [hlabel] at hfront
  have hrecord {xs : List Byte} {n : Nat} (hs : StandsAt xs n (s.recordBytes gid lane)) : StandsAt xs (p + n) bs :=
    hs.trans ((standsAt_flatMap_range (f := fun i => s.recordBytes gid i) (fun _ => recordBytes_length ..) hlane).trans
      (standsAt_records s gid false) rfl) rfl
  have hword {v n : Nat} (hs : StandsAt (leBytes 4 v) n (s.recordBytes gid lane)) : savedWord bs (p + n) = BitVec.ofNat 32 v :=
    savedWord_of_standsAt (hrecord hs)
  rw [hfront] at hrecord hword
  have label {v w n k : Nat} {r : List Byte} (hs : StandsAt (leBytes 4 v) n r) (hk : k = 8 + n) :
      StandsAt (leBytes 4 v) k (leBytes 8 w ++ r) := .skip (leBytes_length ..) hs hk
  have skip {v w n k : Nat} {r : List Byte} (hs : StandsAt (leBytes 4 v) n r) (hk : k = 4 + n) :
      StandsAt (leBytes 4 v) k (leBytes 4 w ++ r) := .skip (leBytes_length ..) hs hk
  refine ⟨?_, ?_, ?_, ?_, ?_, ?_⟩
  · exact (savedPtr_of_standsAt (hrecord (.here _ _))).trans (by simp)
  · rw [hword (label (.here _ _) rfl), extract_depth hflags]
  · exact (hword (label (skip (.here _ _) rfl) rfl)).trans (BitVec.ofNat_toNat ..)
  · exact (hword (label (skip (skip (.here _ _) rfl) rfl) rfl)).trans (by simp)
  · exact (hword (label (skip (skip (skip (skip (skip (.here _ _) rfl) rfl) rfl) rfl) rfl) rfl)).trans (by simp)
  · exact (hword (label (skip (skip (skip (skip (skip (skip (.here _ _) rfl) rfl) rfl) rfl) rfl) rfl) rfl)).trans (by simp)

/-! Bytes written at home. -/

/-- Bytes at consecutive home addresses. -/
def cellsAt (b : Nat) (bs : List Byte) : List Host.Cell := (List.range bs.length).map (fun k => (b + k, bs.getD k 0))

theorem putCells_frame (s : State) (cells : List Host.Cell) : { s.putCells cells with hbm := s.hbm, poison := s.poison, mirrors := s.mirrors } = s := by
  simp only [putCells]
  rw [foldl_putHome]

theorem homeByte_putCells_range (s : State) (b n : Nat) (f : Nat → Byte) {j : Nat} (hj : j < n) :
    (s.putCells ((List.range n).map (fun k => (b + k, f k)))).homeByte (b + j) = f j := by
  have hp : (s.putCells ((List.range n).map (fun k => (b + k, f k)))).homeByte (b + j) =
      (((List.range n).map (fun k => ((b + k, f k) : Host.Cell))).foldl (fun s c => s.putHome c.1 c.2) s).homeByte (b + j) := rfl
  rw [hp]
  clear hp
  induction n with
  | zero => omega
  | succ n ih =>
    rw [List.range_succ, List.map_append, List.foldl_append, List.map_cons, List.map_nil, List.foldl_cons, List.foldl_nil, homeByte_putHome]
    by_cases h : j = n
    · rw [h, if_pos rfl]
    · rw [if_neg (by omega)]
      exact ih (by omega)

theorem homeBytes_putCells (s : State) (b : Nat) (bs : List Byte) : (s.putCells (cellsAt b bs)).homeBytes b bs.length = bs := by
  apply List.ext_getElem
  · rw [homeBytes_length]
  · intro i h1 h2
    rw [getElem_homeBytes, cellsAt, homeByte_putCells_range s b bs.length (fun k => bs.getD k 0) h2]
    simp [List.getD_eq_getElem?_getD, h2]

theorem homeByte_putCells_outside (s : State) (b : Nat) (bs : List Byte) {a : Nat} (h : a < b ∨ b + bs.length ≤ a) :
    (s.putCells (cellsAt b bs)).homeByte a = s.homeByte a := by
  refine homeByte_putCells_of_notMem s _ a fun c hc => ?_
  obtain ⟨k, hk, rfl⟩ := List.mem_map.1 hc
  have hk := List.mem_range.1 hk
  dsimp only
  omega

/-- A store to one place at home. -/
theorem store_of_home {s : State} {ctx k b : Nat} {p : Ptr} {bs : List Byte} (h : s.pieces ctx p bs.length = [(.home b, bs.length)]) :
    s.store ctx k p bs [] = s.putCells (cellsAt b bs) := by
  have hbad : (List.range bs.length).filterMap (fun j => if (([] : List Bool).take bs.length).getD j false then some ((b + j) / 64) else none) = [] := by
    simp
  simp only [store, h, List.foldl_cons, List.foldl_nil, List.drop_zero, List.take_length, hbad]
  rfl

/-! A group of which every thread waits at PARK (R354). -/

/-- The small state of a group goes to its save area, which lies at one place at home (R355). -/
theorem saveGroup_of_home {s : State} {gid b : Nat} {g : Group} (hg : s.groups.get? gid = some g) (hover : s.teamOver (teamOf gid) = false)
    (hdef : s.defaultParked gid = false) (hcheck : s.saveCheck gid 0 (1024 + 1024 * (s.launchOf gid).width) = none)
    (hp : s.pieces (s.ctxOf gid) g.savep (1024 + 1024 * (s.launchOf gid).width) = [(.home b, 1024 + 1024 * (s.launchOf gid).width)]) :
    s.saveGroup gid = (s.putCells (cellsAt b (s.smallBytes gid false))).modGroup gid (fun g => { g with parked := true }) := by
  rw [← smallBytes_length s gid false] at hcheck hp
  have hsave : s.saveTo gid 0 (s.smallBytes gid false) = s.putCells (cellsAt b (s.smallBytes gid false)) := by
    rw [saveTo, if_neg (by rw [hover]; exact Bool.false_ne_true), hcheck, group_of_get? hg]
    simp only [Nat.add_zero, mkPtr_segOf_offOf]
    exact store_of_home hp
  simp only [saveGroup, hdef, Bool.false_eq_true, if_false, List.append_nil, hsave]

/-- A team of one group leaves its cores (R354). -/
theorem leaveCores_of_one {s : State} {k gid : Nat} (hplace : (s.team k).place = .resident) (hover : s.teamOver k = false)
    (hgroups : s.groupsOf k = [gid]) : s.leaveCores k =
      ({ s.modGroup gid (fun x => { x with active := false, ready := 0 }) with
        ahead := s.ahead.filter (fun e => teamOf (gidOf e.tid) != k) } : State).modTeam k (fun t =>
          { t with place := .parked, parkedAt := s.cycle, preempting := false, lazyOut := false }) := by
  rw [leaveCores, if_pos ⟨hplace, by rw [hover]; rfl⟩, hgroups]
  rfl

end State

open State

/-- PARK_COMPLETE of a launch whose one team is of one group, every thread of which waits at PARK. -/
theorem evParkComplete_of_one {s : State} {l core k gid : Nat} {T : Team} {g : Group} (hsub : s.subject = .launchOn l core)
    (hteams : s.teamsOf l = [k]) (hT : s.teams.get? k = some T) (hplace : T.place = .resident) (hcore : core ∈ T.cores)
    (hpre : T.preempting = true) (hending : T.ending = none) (hgroups : s.groupsOf k = [gid]) (hg : s.groups.get? gid = some g)
    (hqueue : g.mqueue = []) (hparked : g.parked = false) (hshadow : g.shadow = none) (hacc : s.accesses = [])
    (hlive : ∃ u z, s.threads.get? u = some z ∧ gidOf u = gid ∧ z.life ≠ .exited)
    (hpark : ∀ u z, s.threads.get? u = some z → gidOf u = gid → z.life ≠ .exited →
      z.defPark = false ∧ z.deferred = [] ∧ ∃ r, z.wait = .park r) (hset : ((s.saveGroup gid).group gid).parked = true) :
    evParkComplete s = (s.saveGroup gid).leaveCores k := by
  have hover : s.teamOver k = false := by simp [teamOver, team_of_get? hT, hplace, hending]
  have haff : s.affected l core = [k] := teamsOf_filter_of_one hteams (by simp [team_of_get? hT, hplace, hcore, hpre, hover])
  have hthread : ∀ u ∈ s.presentOf gid, (s.thread u).defPark = false ∧ (s.thread u).deferred = [] ∧ atPark (s.thread u) = true := fun u hu => by
    obtain ⟨hugid, z, hz, hlife⟩ := mem_presentOf.1 hu
    obtain ⟨hd, hf, r, hw⟩ := hpark u z hz hugid hlife
    rw [thread_of_get? hz]
    exact ⟨hd, hf, by rw [atPark, hw, Bool.or_true]⟩
  have hended : s.groupEnded gid = false := groupEnded_of_live hlive
  have hgs : ([k].flatMap s.groupsOf).filter (fun g => !s.groupEnded g) = [gid] := by simp [hgroups, hended]
  have hfaults : s.faultsAtPark gid = s := foldl_eq_self_of_mem fun u hu => by
    obtain ⟨-, hf, -⟩ := hthread u hu
    simp [hf]
  have hdeferred : (s.presentOf gid).any (fun t => !(s.thread t).deferred.isEmpty) = false := by
    rw [List.any_eq_false]
    intro u hu
    obtain ⟨-, hf, -⟩ := hthread u hu
    simp [hf]
  have hgp : s.groupParked gid = true := by
    have hall : (s.presentOf gid).all (fun t => atPark (s.thread t)) = true := List.all_eq_true.2 fun u hu => (hthread u hu).2.2
    have hload : s.loadCount gid = 0 := by rw [loadCount, hacc]; rfl
    rw [groupParked, hall, hload, group_of_get? hg, hqueue, hshadow]
    rfl
  have hsave : [gid].filter (fun g => (!(s.group g).parked || s.defaultParked g) && s.groupParked g && !(s.presentOf g).any (fun t =>
      !(s.thread t).deferred.isEmpty)) = [gid] := by
    simp [group_of_get? hg, hparked, hgp, hdeferred]
  unfold evParkComplete
  split
  next l' core' hl =>
    obtain ⟨rfl, rfl⟩ : l' = l ∧ core' = core := by
      have := hl.symm.trans hsub
      simpa using this
    have hall : [gid].all (fun g => ((s.saveGroup gid).group g).parked || (s.saveGroup gid).teamOver (teamOf g)) = true := by simp [hset]
    simp only [haff, hgs, List.foldl_cons, List.foldl_nil, hfaults, hsave, hall, if_true]
  next hother => exact absurd hsub (hother l core)

theorem toNat_append_eq {m n : Nat} (x : BitVec m) (y : BitVec n) : (x ++ y).toNat = x.toNat * 2 ^ n + y.toNat := by
  rw [BitVec.toNat_append, ← Nat.shiftLeft_add_eq_or_of_lt y.isLt, Nat.shiftLeft_eq]

/-- The first word of a save area by its fields (R360). -/
theorem headerWord_eq {w r : Nat} (hw : w < 256) (hr : r < 256) (p : Prop) [Decidable p] :
    BitVec.ofNat 32 (2 ^ 24 + w * 2 ^ 16 + r * 2 ^ 8 + (if p then 4 else 0) + 3) =
      1#8 ++ BitVec.ofNat 8 w ++ BitVec.ofNat 8 r ++ (0 : BitVec 5) ++ BitVec.ofBool (decide p) ++ 3#2 := by
  apply BitVec.eq_of_toNat_eq
  simp only [toNat_append_eq, BitVec.toNat_ofNat, BitVec.toNat_ofBool]
  by_cases hp : p <;> simp [hp] <;> omega

/-- PARK_COMPLETE (R354, R355, R360, R361). -/
theorem exec_parkComplete (s : State) (l core k gid b : Nat) (T : Team) (g : Group) (hsub : s.subject = .launchOn l core)
    (hteams : s.teamsOf l = [k]) (hT : s.teams.get? k = some T) (hplace : T.place = .resident) (hcore : core ∈ T.cores)
    (hpre : T.preempting = true) (hending : T.ending = none) (hgroups : s.groupsOf k = [gid]) (hg : s.groups.get? gid = some g)
    (hqueue : g.mqueue = []) (hparked : g.parked = false) (hshadow : g.shadow = none) (hacc : s.accesses = []) :
    let la := s.launchOf gid
    let len := 1024 + 1024 * la.width
    la.width ∈ [16, 32, 64] → la.regs < 256 → (∃ u z, s.threads.get? u = some z ∧ gidOf u = gid ∧ z.life ≠ .exited) →
    (∀ u z, s.threads.get? u = some z → gidOf u = gid → z.life ≠ .exited → z.defPark = false ∧ z.deferred = [] ∧ ∃ r, z.wait = .park r) →
    s.saveCheck gid 0 len = none → s.pieces (s.ctxOf gid) g.savep len = [(.home b, len)] →
    ∃ t, exec .parkComplete s = .next t ∧
      { t with groups := s.groups, teams := s.teams, hbm := s.hbm, poison := s.poison, mirrors := s.mirrors,
               ahead := s.ahead } = s ∧
      t.teams.get? k = some { T with place := .parked, parkedAt := s.cycle, preempting := false, lazyOut := false } ∧
      (∀ j, j ≠ k → t.teams.get? j = s.teams.get? j) ∧ (∀ j, j ≠ gid → t.groups.get? j = s.groups.get? j) ∧
      t.groups.get? gid = some { g with active := false, ready := 0, parked := true } ∧
      (∀ a, a < b ∨ b + len ≤ a → t.homeByte a = s.homeByte a) ∧
      Claims.wordOf t b = 1#8 ++ BitVec.ofNat 8 la.width ++ BitVec.ofNat 8 la.regs ++ (0 : BitVec 5) ++ BitVec.ofBool (decide (gidxOf gid = 0)) ++ 3#2 ∧
      Claims.wordOf t (b + 4) = la.id ∧ Claims.wordOf t (b + 8) = BitVec.ofNat 32 T.index ∧
      (g.gen = none → ∀ n, n < 10 → Claims.wordOf t (b + 0x40 + 4 * n) = 0) ∧
      (∀ x, g.gen = some x → Claims.wordOf t (b + 0x40) = x.buf ∧ Claims.wordOf t (b + 0x50) = BitVec.ofNat 32 x.head ∧
        Claims.wordOf t (b + 0x54) = BitVec.ofNat 32 x.cnt ∧ Claims.wordOf t (b + 0x58) = BitVec.ofNat 32 x.frc.toNat ∧
        Claims.wordOf t (b + 0x5C) = if x.consumer then 2 else 1) ∧
      (∀ d, d < 16 → Claims.wordOf t (b + 0x80 + 16 * d) = BitVec.ofNat 32 (g.domain d).count) ∧
      (∀ n, n < 96 → Claims.wordOf t (b + 0x180 + 4 * n) = g.sreg n) ∧
      ∀ u z r, s.threads.get? u = some z → gidOf u = gid → laneOf u < la.width → z.life ≠ .exited → z.wait = .park r →
        let p := b + 0x400 + 1024 * laneOf u
        Claims.dwordOf t p = r ∧ (Claims.wordOf t (p + 8)).extractLsb' 0 16 = z.depth ∧ Claims.wordOf t (p + 12) = z.preds.setWidth 32 ∧
        Claims.wordOf t (p + 0x10) = z.fpsr ∧ Claims.wordOf t (p + 0x1C) = z.stklim ∧ Claims.wordOf t (p + 0x20) = z.fcode := by
  intro la len hwidth hregs hlive hpark hcheck hpieces
  have hlen : len = 1024 + 1024 * la.width := rfl
  have hk : teamOf gid = k := (mem_groupsOf.1 (hgroups ▸ List.mem_cons_self)).1
  have hover : s.teamOver k = false := by simp [teamOver, team_of_get? hT, hplace, hending]
  have hdef : s.defaultParked gid = false := defaultParked_of_none fun u z hz hu hlife => (hpark u z hz hu hlife).1
  have hsave := saveGroup_of_home hg (hk.symm ▸ hover) hdef hcheck hpieces
  generalize hbs : s.smallBytes gid false = bs at hsave
  have hbslen : bs.length = len := by rw [← hbs, smallBytes_length]
  have hframe := putCells_frame s (cellsAt b bs)
  have hhome := homeBytes_putCells s b bs
  have hout (a : Nat) := homeByte_putCells_outside s b bs (a := a)
  generalize s.putCells (cellsAt b bs) = s1 at hsave hframe hhome hout
  have hs1groups : s1.groups = s.groups := by
    have h := congrArg State.groups hframe
    exact h
  have hs1teams : s1.teams = s.teams := by
    have h := congrArg State.teams hframe
    exact h
  have hs2groups : (s.saveGroup gid).groups.get? gid = some { g with parked := true } := by
    rw [hsave, modGroup_groups, Tab.get?_modify, if_pos rfl, hs1groups, hg]; rfl
  have hev := evParkComplete_of_one hsub hteams hT hplace hcore hpre hending hgroups hg hqueue hparked hshadow hacc hlive hpark
    (by rw [group_of_get? hs2groups])
  rw [hsave] at hev
  have hs2teams : (s1.modGroup gid (fun g => { g with parked := true })).teams = s.teams := hs1teams
  generalize hs2 : s1.modGroup gid (fun g => { g with parked := true }) = s2 at hev hs2teams
  have hs2frame : { s2 with groups := s.groups, hbm := s.hbm, poison := s.poison, mirrors := s.mirrors } = s := by
    have h := congrArg (fun v : State => { v with groups := s.groups }) hframe
    rw [← hs2]
    exact h
  have hs2over : s2.teamOver k = false := by
    have h := congrArg (fun v : State => v.teamOver k) hs2frame
    exact h.trans hover
  have hs2team : s2.team k = T := team_of_get? (by rw [hs2teams, hT])
  have hs2cycle : s2.cycle = s.cycle := by
    have h := congrArg State.cycle hs2frame
    exact h
  have hs2of : s2.groupsOf k = [gid] := by rw [← hgroups, groupsOf, groupsOf, ← hs2, modGroup_groups, Tab.keys_modify, hs1groups]
  rw [leaveCores_of_one (by rw [hs2team, hplace]) hs2over hs2of, hs2cycle] at hev
  have hhome2 (a : Nat) : s2.homeByte a = s1.homeByte a := by rw [← hs2]; rfl
  have hgroups2 : s2.groups = s1.groups.modify gid (fun g => { g with parked := true }) := by rw [← hs2, modGroup_groups]
  generalize ht : ({ s2.modGroup gid (fun x => { x with active := false, ready := 0 }) with
    ahead := s2.ahead.filter (fun e => teamOf (gidOf e.tid) != k) } : State).modTeam k (fun t =>
      { t with place := .parked, parkedAt := s.cycle, preempting := false, lazyOut := false }) = t at hev
  have htgroups (j : Nat) : t.groups.get? j = if j = gid then
      (s.groups.get? j).map (fun g => { g with active := false, ready := 0, parked := true }) else s.groups.get? j := by
    have h : t.groups = s2.groups.modify gid (fun x => { x with active := false, ready := 0 }) := by rw [← ht]; rfl
    rw [h, hgroups2, Tab.get?_modify, Tab.get?_modify, hs1groups]
    split <;> simp [Option.map_map, Function.comp_def]
  have htteams (j : Nat) : t.teams.get? j = if j = k then
      (s.teams.get? j).map (fun t => { t with place := .parked, parkedAt := s.cycle, preempting := false, lazyOut := false })
      else s.teams.get? j := by
    rw [← ht, modTeam_teams, Tab.get?_modify]
    exact hs2teams ▸ rfl
  have hthome (a : Nat) : t.homeByte a = s1.homeByte a := by rw [← hhome2, ← ht]; rfl
  have htbytes : t.homeBytes b len = bs := by
    rw [← hbslen]
    exact (List.map_congr_left fun j _ => hthome (b + j)).trans hhome
  have hword {n : Nat} (hn : n + 4 ≤ len) : Claims.wordOf t (b + n) = savedWord bs n := by rw [← savedWord_homeBytes t b hn, htbytes]
  have hdword {n : Nat} (hn : n + 8 ≤ len) : Claims.dwordOf t (b + n) = savedPtr bs n := by rw [← savedPtr_homeBytes t b hn, htbytes]
  obtain ⟨h0, h4, h8⟩ := smallBytes_header s gid
  have hteam : s.teamAt gid = T := by rw [teamAt, hk, team_of_get? hT]
  have hgrp : s.group gid = g := group_of_get? hg
  rw [hteam] at h8
  rw [hbs] at h0 h4 h8
  have hw : la.width < 256 := by
    simp only [List.mem_cons, List.not_mem_nil, or_false] at hwidth
    omega
  refine ⟨t, congrArg Host.Outcome.next hev, ?_, ?_, fun j hj => ?_, fun j hj => ?_, ?_, fun a ha => ?_, ?_, ?_, ?_, fun hgen n hn => ?_,
    fun x hgen => ?_, fun d hd => ?_, fun n hn => ?_, fun u z r hz hu hlane _ hwait => ?_⟩
  · have h := congrArg (fun v : State => { v with teams := s.teams, ahead := s.ahead }) hs2frame
    rw [← ht]
    exact h
  · rw [htteams, if_pos rfl, hT]; rfl
  · rw [htteams, if_neg hj]
  · rw [htgroups, if_neg hj]
  · rw [htgroups, if_pos rfl, hg]; rfl
  · rw [hthome, hout a (hbslen.symm ▸ ha)]
  · exact (hword (n := 0) (by omega)).trans (h0.trans (headerWord_eq hw hregs _))
  · exact (hword (by omega)).trans h4
  · exact (hword (by omega)).trans h8
  · rw [Nat.add_assoc, hword (by omega), ← hbs, smallBytes_gen_none (by rw [hgrp, hgen]) hn]
  · obtain ⟨hbuf, hhead, hcnt, hfrc, hmode⟩ := smallBytes_gen_some (s := s) (gid := gid) (by rw [hgrp, hgen])
    rw [hbs] at hbuf hhead hcnt hfrc hmode
    exact ⟨(hword (by omega)).trans hbuf, (hword (by omega)).trans hhead, (hword (by omega)).trans hcnt, (hword (by omega)).trans hfrc,
      (hword (by omega)).trans hmode⟩
  · rw [Nat.add_assoc, hword (by omega), ← hbs, smallBytes_domain s gid hd, hgrp]
  · rw [Nat.add_assoc, hword (by omega), ← hbs, smallBytes_scalar s gid hn, hgrp]
  · have htid : tidAt gid (laneOf u) = u := by rw [← hu, tidAt, gidOf, laneOf]; omega
    obtain ⟨hpc, hdepth, hpreds, hfpsr, hstk, hfcode⟩ := smallBytes_record (s := s) (gid := gid) (lane := laneOf u) (by rw [htid, hz]) hlane hwait
    rw [hbs] at hpc hdepth hpreds hfpsr hstk hfcode
    have hrecord (n : Nat) (hn : n + 4 ≤ 1024) : Claims.wordOf t (b + 0x400 + 1024 * laneOf u + n) = savedWord bs (0x400 + 1024 * laneOf u + n) := by
      rw [← hword (by omega)]
      exact congrArg (Claims.wordOf t) (by omega)
    refine ⟨?_, ?_, (hrecord 12 (by decide)).trans hpreds, (hrecord 0x10 (by decide)).trans hfpsr, (hrecord 0x1C (by decide)).trans hstk,
      (hrecord 0x20 (by decide)).trans hfcode⟩
    · rw [Nat.add_assoc, hdword (by omega), hpc]
    · rw [hrecord 8 (by decide), hdepth]

/-- Settles O57, event by event. -/
theorem teamMoves : Obligations.TeamMoves := by
  unfold Obligations.TeamMoves
  exact ⟨exec_teamPlace, exec_rebalance, exec_preemptRequest, exec_parkComplete, exec_parkedTeamReturn⟩

end Sys2Proof.Machine
end

section
/-! PROOFS. The number formats (02 R30 to R50, 06 R116): values as rationals, rounding to an integer in a mode, conversions to integers and
into the tapered formats, the arithmetic of FARITH, the codes of a binary format as values, and the rounding step put together from them. -/

namespace Sys2Proof
namespace Machine

/-! Dyadic values as rationals. -/

/-- The rational m × 2^e. -/
def dyadic (m : Nat) (e : Int) : ℚ := m * 2 ^ e

theorem two_zpow_pos (e : Int) : (0 : ℚ) < 2 ^ e := zpow_pos two_pos e

theorem dyadic_nonneg (m : Nat) (e : Int) : 0 ≤ dyadic m e := mul_nonneg m.cast_nonneg (two_zpow_pos e).le

/-- Its digits over a lower exponent. -/
theorem dyadic_eq_shift (m : Nat) {e lo : Int} (h : lo ≤ e) : dyadic m e = (m * 2 ^ (e - lo).toNat : Nat) * 2 ^ lo := by
  have power : (2 : ℚ) ^ e = 2 ^ (e - lo).toNat * 2 ^ lo := by
    rw [← zpow_natCast, Int.toNat_of_nonneg (by omega), ← zpow_add₀ two_ne_zero, Int.sub_add_cancel]
  rw [dyadic, power]
  push_cast
  ring

theorem dyadic_zero_exp (n : Nat) : dyadic n 0 = n := by simp [dyadic]

theorem dyadic_add (m n : Nat) (e : Int) : dyadic (m + n) e = dyadic m e + dyadic n e := by
  simp only [dyadic, Nat.cast_add, add_mul]

theorem dyadic_mul_two (m : Nat) (e : Int) : dyadic (2 * m) e = 2 * dyadic m e := by
  simp only [dyadic, Nat.cast_mul, Nat.cast_ofNat, mul_assoc]

/-- A unit taken out of the exponent. -/
theorem dyadic_eq_mul (m : Nat) (e lsb : Int) : dyadic m e = dyadic m (e - lsb) * 2 ^ lsb := by
  rw [dyadic, dyadic, mul_assoc, ← zpow_add₀ two_ne_zero, Int.sub_add_cancel]

theorem leVal_iff {m n : Nat} {e f : Int} : Claims.LeVal m e n f ↔ dyadic m e ≤ dyadic n f := by
  rw [dyadic_eq_shift m (min_le_left e f), dyadic_eq_shift n (min_le_right e f), mul_le_mul_iff_of_pos_right (two_zpow_pos _), Nat.cast_le]

theorem ltVal_iff {m n : Nat} {e f : Int} : Claims.LtVal m e n f ↔ dyadic m e < dyadic n f := by
  rw [dyadic_eq_shift m (min_le_left e f), dyadic_eq_shift n (min_le_right e f), mul_lt_mul_iff_of_pos_right (two_zpow_pos _), Nat.cast_lt]

/-! The three kinds of mode (R33). -/

theorem rounds_kind (r : Rnd) (neg : Bool) : Claims.RoundsDown r neg ∨ Claims.RoundsUp r neg ∨ r = .rn := by
  cases r <;> cases neg <;> simp [Claims.RoundsDown, Claims.RoundsUp]

theorem not_roundsUp_of_down {r : Rnd} {neg : Bool} (h : Claims.RoundsDown r neg) : ¬Claims.RoundsUp r neg := by
  cases r <;> cases neg <;> simp [Claims.RoundsDown, Claims.RoundsUp] at h ⊢

theorem not_rn_of_down {r : Rnd} {neg : Bool} (h : Claims.RoundsDown r neg) : r ≠ .rn := by
  rintro rfl
  simp [Claims.RoundsDown] at h

theorem not_rn_of_up {r : Rnd} {neg : Bool} (h : Claims.RoundsUp r neg) : r ≠ .rn := by
  rintro rfl
  simp [Claims.RoundsUp] at h

/-! Rounding to an integer (R33). -/

/-- `n` is the magnitude `u` rounded to an integer in a mode, for a sign. -/
structure IsRounding (r : Rnd) (neg : Bool) (u : ℚ) (n : Nat) : Prop where
  down : Claims.RoundsDown r neg → n ≤ u ∧ u < n + 1
  up : Claims.RoundsUp r neg → n - 1 < u ∧ u ≤ n
  nearest : r = .rn → 2 * n - 1 ≤ 2 * u ∧ 2 * u ≤ 2 * n + 1
  even : r = .rn → n % 2 = 1 → 2 * n - 1 < 2 * u ∧ 2 * u < 2 * n + 1

namespace IsRounding
variable {r : Rnd} {neg : Bool} {u : ℚ} {n : Nat}

theorem of_down (hr : Claims.RoundsDown r neg) (lo : n ≤ u) (hi : u < n + 1) : IsRounding r neg u n :=
  ⟨fun _ => ⟨lo, hi⟩, fun h => absurd h (not_roundsUp_of_down hr), fun h => absurd h (not_rn_of_down hr), fun h => absurd h (not_rn_of_down hr)⟩

theorem of_up (hr : Claims.RoundsUp r neg) (lo : n - 1 < u) (hi : u ≤ n) : IsRounding r neg u n :=
  ⟨fun h => absurd hr (not_roundsUp_of_down h), fun _ => ⟨lo, hi⟩, fun h => absurd h (not_rn_of_up hr), fun h => absurd h (not_rn_of_up hr)⟩

theorem of_nearest (near : 2 * n - 1 ≤ 2 * u ∧ 2 * u ≤ 2 * n + 1) (tie : n % 2 = 1 → 2 * n - 1 < 2 * u ∧ 2 * u < 2 * n + 1) :
    IsRounding .rn neg u n :=
  ⟨fun h => absurd rfl (not_rn_of_down h), fun h => absurd rfl (not_rn_of_up h), fun _ => near, fun _ => tie⟩

/-- An integer rounds to itself. -/
theorem of_eq (h : u = n) : IsRounding r neg u n := by
  subst h
  exact ⟨fun _ => ⟨le_rfl, by linarith⟩, fun _ => ⟨by linarith, le_rfl⟩, fun _ => ⟨by linarith, by linarith⟩, fun _ _ => ⟨by linarith, by linarith⟩⟩

/-- Less than one unit off, in every mode. -/
theorem bounds (h : IsRounding r neg u n) : n - 1 < u ∧ u < n + 1 := by
  rcases rounds_kind r neg with hr | hr | hr
  · obtain ⟨lo, hi⟩ := h.down hr
    exact ⟨by linarith, hi⟩
  · obtain ⟨lo, hi⟩ := h.up hr
    exact ⟨lo, by linarith⟩
  · obtain ⟨lo, hi⟩ := h.nearest hr
    exact ⟨by linarith, by linarith⟩

theorem le_of_le (h : IsRounding r neg u n) {N : Nat} (hN : N ≤ u) : N ≤ n := by
  have : (N : ℚ) < n + 1 := hN.trans_lt h.bounds.2
  exact Nat.lt_succ_iff.1 (by exact_mod_cast this)

theorem ge_of_ge (h : IsRounding r neg u n) {N : Nat} (hN : u ≤ N) : n ≤ N := by
  have : (n : ℚ) < N + 1 := by linarith [h.bounds.1]
  exact Nat.lt_succ_iff.1 (by exact_mod_cast this)

end IsRounding

/-- What a magnitude must be to round to at least an even integer `N`. -/
def ReachesInt (r : Rnd) (neg : Bool) (u : ℚ) (N : Nat) : Prop :=
  (Claims.RoundsDown r neg → N ≤ u) ∧ (Claims.RoundsUp r neg → N - 1 < u) ∧ (r = .rn → 2 * N - 1 ≤ 2 * u)

theorem IsRounding.le_iff {r : Rnd} {neg : Bool} {u : ℚ} {n N : Nat} (h : IsRounding r neg u n) (hN : N % 2 = 0) :
    N ≤ n ↔ ReachesInt r neg u N := by
  constructor
  · intro le
    have le : (N : ℚ) ≤ n := by exact_mod_cast le
    exact ⟨fun hr => le.trans (h.down hr).1, fun hr => by linarith [h.up hr], fun hr => by linarith [h.nearest hr]⟩
  · rintro ⟨down, up, near⟩
    by_contra lt
    have lt : (n : ℚ) + 1 ≤ N := by exact_mod_cast Nat.lt_of_not_le lt
    rcases rounds_kind r neg with hr | hr | hr
    · linarith [down hr, h.down hr]
    · linarith [up hr, h.up hr]
    · have tie : (n : ℚ) + 1 = N := by linarith [near hr, h.nearest hr]
      have tie : n + 1 = N := by exact_mod_cast tie
      linarith [near hr, h.even hr (by omega)]

/-- Does a mode add one to the whole part `t` of an exact magnitude with remainder `a` of `K` (R33)? -/
def addsOne (r : Rnd) (neg : Bool) (K t a : Nat) : Bool :=
  match r with
  | .rn => decide (K < 2 * a) || (decide (2 * a = K) && t % 2 == 1)
  | .rz => false
  | .rp => a != 0 && !neg
  | .rm => a != 0 && neg

theorem isRounding_addsOne {K t a : Nat} (ha : a < K) (r : Rnd) (neg : Bool) :
    IsRounding r neg (t + a / K) (if addsOne r neg K t a then t + 1 else t) := by
  have hK : (0 : ℚ) < K := by exact_mod_cast (Nat.zero_le a).trans_lt ha
  have below : (a / K : ℚ) < 1 := (div_lt_one hK).2 (by exact_mod_cast ha)
  have nonneg : (0 : ℚ) ≤ a / K := div_nonneg a.cast_nonneg hK.le
  have away (hr : Claims.RoundsUp r neg) : IsRounding r neg (t + a / K) (if a = 0 then t else t + 1) := by
    split
    · next h => exact .of_eq (by simp [h])
    · next h =>
      have pos : (0 : ℚ) < a / K := div_pos (by exact_mod_cast Nat.pos_of_ne_zero h) hK
      exact .of_up hr (by push_cast; linarith) (by push_cast; linarith)
  have down (hr : Claims.RoundsDown r neg) : IsRounding r neg (t + a / K) t := .of_down hr (by linarith) (by linarith)
  unfold addsOne
  cases r with
  | rz => exact down (by simp [Claims.RoundsDown])
  | rp =>
    cases neg with
    | true => simpa using down (by simp [Claims.RoundsDown])
    | false => simpa using away (by simp [Claims.RoundsUp])
  | rm =>
    cases neg with
    | false => simpa using down (by simp [Claims.RoundsDown])
    | true => simpa using away (by simp [Claims.RoundsUp])
  | rn =>
    rcases lt_trichotomy (2 * a) K with h | h | h
    · have half : (2 * (a / K) : ℚ) < 1 := by rw [mul_div_assoc', div_lt_one hK]; exact_mod_cast h
      simp only [h.ne, h.not_gt, decide_false, Bool.false_and, Bool.or_self, Bool.false_eq_true, if_false]
      exact .of_nearest ⟨by linarith, by linarith⟩ fun _ => ⟨by linarith, by linarith⟩
    · have half : (2 * (a / K) : ℚ) = 1 := by rw [mul_div_assoc', div_eq_one_iff_eq hK.ne']; exact_mod_cast h
      simp only [h, lt_irrefl, decide_false, decide_true, Bool.false_or, Bool.true_and, beq_iff_eq]
      split
      · next parity => exact .of_nearest ⟨by push_cast; linarith, by push_cast; linarith⟩ fun odd => by omega
      · next parity => exact .of_nearest ⟨by linarith, by linarith⟩ fun odd => by omega
    · have half : (1 : ℚ) < 2 * (a / K) := by rw [mul_div_assoc', one_lt_div hK]; exact_mod_cast h
      simp only [h, decide_true, Bool.true_or, if_true]
      exact .of_nearest ⟨by push_cast; linarith, by push_cast; linarith⟩ fun _ => ⟨by push_cast; linarith, by push_cast; linarith⟩

/-- The whole part and the remainder of digits below the unit. -/
theorem dyadic_eq_div_add_mod (q k : Nat) : dyadic q (-(k : Int)) = (q / 2 ^ k : Nat) + (q % 2 ^ k : Nat) / (2 ^ k : Nat) := by
  have digits : (q : ℚ) = (2 ^ k : Nat) * (q / 2 ^ k : Nat) + (q % 2 ^ k : Nat) := by exact_mod_cast (Nat.div_add_mod q (2 ^ k)).symm
  have pos : ((2 ^ k : Nat) : ℚ) ≠ 0 := by positivity
  have unit : (2 : ℚ) ^ (-(k : Int)) = 1 / (2 ^ k : Nat) := by simp
  rw [dyadic, unit]
  field_simp
  linarith

theorem dyadic_of_nonneg (q : Nat) {e : Int} (h : 0 ≤ e) : dyadic q e = (q * 2 ^ e.toNat : Nat) := by
  rw [dyadic_eq_shift q h, zpow_zero, mul_one, Int.sub_zero]

theorem mag_at_of_le (q : Nat) {e lsb : Int} (h : lsb ≤ e) (r : Rnd) (neg : Bool) :
    (Mag.mk q e false).at lsb r neg = (q * 2 ^ (e - lsb).toNat, false) := by
  unfold Mag.at
  exact if_pos h

theorem mag_at_of_lt (q : Nat) {e lsb : Int} (h : ¬lsb ≤ e) (r : Rnd) (neg : Bool) : (Mag.mk q e false).at lsb r neg =
    (let K := 2 ^ (lsb - e).toNat
    (if addsOne r neg K (q / K) (q % K) then q / K + 1 else q / K, q % K != 0)) := by
  unfold Mag.at addsOne
  dsimp only
  rw [if_neg h]
  cases r <;> simp only [Bool.or_false, Bool.false_or]

/-- `Mag.at` rounds an exact magnitude to an integer in units of 2^lsb. -/
theorem mag_at_isRounding (q : Nat) (e lsb : Int) (r : Rnd) (neg : Bool) :
    IsRounding r neg (dyadic q (e - lsb)) ((Mag.mk q e false).at lsb r neg).1 := by
  by_cases h : lsb ≤ e
  · rw [mag_at_of_le q h]
    exact .of_eq (dyadic_of_nonneg q (by omega))
  · rw [mag_at_of_lt q h, show e - lsb = -((lsb - e).toNat : Int) by omega, dyadic_eq_div_add_mod]
    exact isRounding_addsOne (Nat.mod_lt _ (Nat.two_pow_pos _)) r neg

/-- The rounding is exact just where the magnitude is that integer: with a remainder it lies strictly between two. -/
theorem mag_at_exact_iff (q : Nat) (e lsb : Int) (r : Rnd) (neg : Bool) :
    ((Mag.mk q e false).at lsb r neg).2 = false ↔ dyadic q (e - lsb) = ((Mag.mk q e false).at lsb r neg).1 := by
  by_cases h : lsb ≤ e
  · rw [mag_at_of_le q h]
    exact iff_of_true rfl (dyadic_of_nonneg q (by omega))
  · rw [mag_at_of_lt q h, show e - lsb = -((lsb - e).toNat : Int) by omega, dyadic_eq_div_add_mod]
    generalize (lsb - e).toNat = k
    have small := Nat.mod_lt q (Nat.two_pow_pos k)
    have rounded := isRounding_addsOne (t := q / 2 ^ k) small r neg
    by_cases whole : q % 2 ^ k = 0
    · have value : ((q / 2 ^ k : Nat) : ℚ) + (q % 2 ^ k : Nat) / (2 ^ k : Nat) = (q / 2 ^ k : Nat) := by simp [whole]
      refine iff_of_true (by simp [whole]) (value.trans ?_)
      exact_mod_cast le_antisymm (rounded.le_of_le value.ge) (rounded.ge_of_ge value.le)
    · refine iff_of_false (by simp [whole]) ?_
      have pos : (0 : ℚ) < (q % 2 ^ k : Nat) / (2 ^ k : Nat) := by positivity
      have below : ((q % 2 ^ k : Nat) : ℚ) / (2 ^ k : Nat) < 1 := (div_lt_one (by positivity)).2 (by exact_mod_cast small)
      dsimp only
      split <;> intro same <;> push_cast at same pos below <;> linarith

/-! Conversion to an integer range (R49, R50). -/

/-- Rounding to an integer, in the comparisons of the claims. -/
theorem IsRounding.vals {r : Rnd} {neg : Bool} {m n : Nat} {e : Int} (h : IsRounding r neg (dyadic m e) n) :
    (Claims.RoundsDown r neg → Claims.LeVal n 0 m e ∧ Claims.LtVal m e (n + 1) 0) ∧
    (Claims.RoundsUp r neg → Claims.LeVal m e n 0 ∧ (0 < n → Claims.LtVal (n - 1) 0 m e)) ∧
    (r = .rn → Claims.LeVal (2 * m) e (2 * n + 1) 0 ∧ (0 < n → Claims.LeVal (2 * n - 1) 0 (2 * m) e) ∧
      (n % 2 = 1 → Claims.LtVal (2 * m) e (2 * n + 1) 0 ∧ Claims.LtVal (2 * n - 1) 0 (2 * m) e)) := by
  simp only [leVal_iff, ltVal_iff, dyadic_zero_exp, dyadic_mul_two]
  push_cast
  refine ⟨h.down, fun hr => ⟨(h.up hr).2, fun pos => ?_⟩, fun hr => ⟨(h.nearest hr).2, fun pos => ?_, fun odd => ⟨(h.even hr odd).2, ?_⟩⟩⟩
  · rw [Nat.cast_pred pos]
    exact (h.up hr).1
  · rw [Nat.cast_pred (by omega)]
    exact_mod_cast (h.nearest hr).1
  · rw [Nat.cast_pred (by omega)]
    exact_mod_cast (h.even hr odd).1

theorem clampInt_fin (neg : Bool) (m : Nat) (e : Int) (rnd : Rnd) (lo hi : Int) : (Num.fin neg m e).clampInt rnd lo hi =
    (let n := ((Mag.mk m e false).at 0 rnd neg).1
    let r : Int := if neg then -(n : Int) else n
    if r < lo then (lo, 0x01) else if hi < r then (hi, 0x01)
    else (r, if Claims.LtVal m e n 0 ∨ Claims.LtVal n 0 m e then 0x10 else 0)) := by
  have exact_iff := mag_at_exact_iff m e 0 rnd neg
  simp only [ltVal_iff, dyadic_zero_exp, ← ne_iff_lt_or_gt]
  rw [Int.sub_zero] at exact_iff
  have flag : (if ((Mag.mk m e false).at 0 rnd neg).2 then flagNX else 0) =
      if dyadic m e ≠ ((Mag.mk m e false).at 0 rnd neg).1 then (0x10 : Flags) else 0 := by
    simp only [ne_eq, ← exact_iff, Bool.not_eq_false]
    rfl
  rw [← flag]
  rfl

/-! Rounding into a tapered format (R37, R43). -/

theorem cmpPow_eq_lt {m n : Nat} {e f : Int} : cmpPow m e n f = .lt ↔ dyadic m e < dyadic n f := by
  rw [← ltVal_iff]
  exact Nat.compare_eq_lt

theorem cmpPow_eq_gt {m n : Nat} {e f : Int} : cmpPow m e n f = .gt ↔ dyadic n f < dyadic m e := by
  rw [← ltVal_iff, Claims.LtVal, min_comm f e]
  exact Nat.compare_eq_gt

theorem cmpPow_eq_eq {m n : Nat} {e f : Int} : cmpPow m e n f = .eq ↔ dyadic m e = dyadic n f := by
  rw [dyadic_eq_shift m (min_le_left e f), dyadic_eq_shift n (min_le_right e f), mul_left_inj' (two_zpow_pos _).ne', Nat.cast_inj]
  exact Nat.compare_eq_eq

/-- A predicate that holds on an initial part of the numbers below `n`, by how often it holds there. -/
theorem iff_lt_length_filter_range {p : Nat → Bool} {n : Nat} (hp : ∀ c, c + 1 < n → p (c + 1) = true → p c = true) :
    ∀ c < n, (p c = true ↔ c < ((List.range n).filter p).length) := by
  induction n with
  | zero => intro c hc; omega
  | succ n ih =>
    have ih := ih fun c hc => hp c (by omega)
    have le : ((List.range n).filter p).length ≤ n := by simpa using List.length_filter_le p (List.range n)
    rw [List.range_succ, List.filter_append, List.length_append]
    intro c hc
    cases last : p n with
    | true =>
      have all (d : Nat) (hd : d ≤ n) : p d = true := Nat.decreasingInduction (motive := fun d _ => p d = true) (fun d hd => hp d (by omega)) last hd
      have full : ((List.range n).filter p).length = n := by
        rw [List.filter_eq_self.2 fun d hd => all d (List.mem_range.1 hd).le, List.length_range]
      simp [last, full, all c (by omega), hc]
    | false =>
      rcases Nat.lt_succ_iff_lt_or_eq.1 hc with hc | rfl
      · simp [last, ih c hc]
      · simp [last, le]

/-- The value of a tapered magnitude code. -/
def tapVal (w c : Nat) : ℚ := dyadic (tapMag w c) (-12)

theorem tapVal_zero (w : Nat) : tapVal w 0 = 0 := by simp [tapVal, tapMag, dyadic]

/-- R38: the magnitude rises strictly with the code. -/
theorem tapVal_lt_succ {w : Nat} (hw : w = 8 ∨ w = 6) {c : Nat} (hc : c < 2 ^ (w - 1) - 1) : tapVal w c < tapVal w (c + 1) := by
  have rises : ∀ w ∈ [8, 6], ∀ c < 2 ^ (w - 1) - 1, tapMag w c < tapMag w (c + 1) := by decide +kernel
  have rise := rises w (by simpa using hw) c hc
  exact mul_lt_mul_of_pos_right (by exact_mod_cast rise) (two_zpow_pos _)

/-- A magnitude code with a sign; −0 has no code (R38). -/
def tapCode (w : Nat) (neg : Bool) (c : Nat) : Nat := if c = 0 then 0 else if neg then 2 ^ (w - 1) + c else c

/-- The largest magnitude code not above a value, and the code `roundTap` chooses. -/
def tapBelow (w m : Nat) (e : Int) : Nat :=
  ((List.range (2 ^ (w - 1) - 1 + 1)).filter (fun c => cmpPow (tapMag w c) (-12) m e != .gt)).length - 1

def tapNearest (w m : Nat) (e : Int) : Nat :=
  let b := tapBelow w m e
  if cmpPow (tapMag w b) (-12) m e = .eq then b
  else match cmpPow (2 * m) e (tapMag w b + tapMag w (b + 1)) (-12) with
    | .lt => b
    | .gt => b + 1
    | .eq => if b % 2 = 0 then b else b + 1

theorem roundTap_of_gt {w m : Nat} {e : Int} (neg : Bool) (h : tapVal w (2 ^ (w - 1) - 1) < dyadic m e) :
    (Num.fin neg m e).roundTap w = (tapCode w neg (2 ^ (w - 1) - 1), 0x14) := by
  have pos : m ≠ 0 := by
    rintro rfl
    have nonneg : 0 ≤ tapVal w (2 ^ (w - 1) - 1) := dyadic_nonneg _ _
    exact nonneg.not_gt (by simpa [dyadic] using h)
  unfold Num.roundTap
  dsimp only
  rw [if_neg pos, if_pos (cmpPow_eq_gt.2 h)]
  rfl

theorem roundTap_of_le {w m : Nat} {e : Int} (neg : Bool) (hm : 0 < m) (h : dyadic m e ≤ tapVal w (2 ^ (w - 1) - 1)) :
    (Num.fin neg m e).roundTap w = (tapCode w neg (tapNearest w m e),
      if tapVal w (tapBelow w m e) = dyadic m e then 0 else flagNX ||| if tapBelow w m e = 0 then flagUF else 0) := by
  unfold Num.roundTap tapNearest
  dsimp only
  rw [if_neg hm.ne', if_neg (fun gt => h.not_gt (cmpPow_eq_gt.1 gt))]
  by_cases eq : cmpPow (tapMag w (tapBelow w m e)) (-12) m e = .eq
  · rw [if_pos eq, if_pos (show tapVal w (tapBelow w m e) = dyadic m e from cmpPow_eq_eq.1 eq)]
    exact if_pos eq
  · rw [if_neg eq, if_neg (show ¬tapVal w (tapBelow w m e) = dyadic m e from mt cmpPow_eq_eq.2 eq)]
    exact if_neg eq

section
variable {w m : Nat} {e : Int} (hw : w = 8 ∨ w = 6)
include hw

/-- `tapBelow` is the largest code whose value is not above the given one. -/
theorem le_tapBelow_iff {c : Nat} (hc : c ≤ 2 ^ (w - 1) - 1) : c ≤ tapBelow w m e ↔ tapVal w c ≤ dyadic m e := by
  have holds (d : Nat) : (cmpPow (tapMag w d) (-12) m e != .gt) = true ↔ tapVal w d ≤ dyadic m e := by
    rw [bne_iff_ne, ne_eq, cmpPow_eq_gt, not_lt, tapVal]
  have count := iff_lt_length_filter_range (n := 2 ^ (w - 1) - 1 + 1) (p := fun d => cmpPow (tapMag w d) (-12) m e != .gt)
    fun d hd h => (holds d).2 ((tapVal_lt_succ hw (by omega)).le.trans ((holds _).1 h))
  have first := (count 0 (by omega)).1 ((holds 0).2 (by rw [tapVal_zero]; exact dyadic_nonneg m e))
  rw [← holds, count c (by omega), tapBelow]
  omega

/-- A value among the codes is one of them, or lies strictly between two neighbours. -/
theorem tapBelow_cases (h : dyadic m e ≤ tapVal w (2 ^ (w - 1) - 1)) :
    (tapVal w (tapBelow w m e) = dyadic m e ∧ tapBelow w m e ≤ 2 ^ (w - 1) - 1) ∨
    (tapVal w (tapBelow w m e) < dyadic m e ∧ dyadic m e < tapVal w (tapBelow w m e + 1) ∧ tapBelow w m e < 2 ^ (w - 1) - 1) := by
  have range : tapBelow w m e ≤ 2 ^ (w - 1) - 1 := by
    have := List.length_filter_le (fun c => cmpPow (tapMag w c) (-12) m e != .gt) (List.range (2 ^ (w - 1) - 1 + 1))
    rw [List.length_range] at this
    unfold tapBelow
    omega
  have le := (le_tapBelow_iff hw range).1 le_rfl
  rcases le.eq_or_lt with eq | lt
  · exact .inl ⟨eq, range⟩
  · have inner : tapBelow w m e < 2 ^ (w - 1) - 1 := range.lt_of_ne fun top => (lt.trans_le h).ne (by rw [top])
    exact .inr ⟨lt, not_le.1 fun up => absurd ((le_tapBelow_iff hw inner).2 up) (by omega), inner⟩

/-- `c` is a code nearest to the value `x`, of two as near the even one (R43). -/
def IsNearestTap (w : Nat) (x : ℚ) (c : Nat) : Prop :=
  (c < 2 ^ (w - 1) - 1 → 2 * x ≤ tapVal w c + tapVal w (c + 1) ∧ (c % 2 = 1 → 2 * x < tapVal w c + tapVal w (c + 1))) ∧
  (0 < c → tapVal w (c - 1) + tapVal w c ≤ 2 * x ∧ (c % 2 = 1 → tapVal w (c - 1) + tapVal w c < 2 * x))

theorem isNearestTap_lower {x : ℚ} {b : Nat} (hb : b ≤ 2 ^ (w - 1) - 1) (lo : tapVal w b ≤ x)
    (hi : b < 2 ^ (w - 1) - 1 → 2 * x ≤ tapVal w b + tapVal w (b + 1) ∧ (b % 2 = 1 → 2 * x < tapVal w b + tapVal w (b + 1))) :
    IsNearestTap w x b := by
  refine ⟨hi, fun pos => ?_⟩
  have rise := tapVal_lt_succ hw (c := b - 1) (by omega)
  rw [Nat.sub_add_cancel pos] at rise
  exact ⟨by linarith, fun _ => by linarith⟩

theorem isNearestTap_upper {x : ℚ} {b : Nat} (hi : x < tapVal w (b + 1))
    (lo : tapVal w b + tapVal w (b + 1) ≤ 2 * x ∧ ((b + 1) % 2 = 1 → tapVal w b + tapVal w (b + 1) < 2 * x)) : IsNearestTap w x (b + 1) := by
  refine ⟨fun inner => ?_, fun _ => lo⟩
  have rise := tapVal_lt_succ hw inner
  exact ⟨by linarith, fun _ => by linarith⟩

/-- The code `roundTap` chooses is a nearest one, and it is exact just where the code below is. -/
theorem tapNearest_spec (h : dyadic m e ≤ tapVal w (2 ^ (w - 1) - 1)) :
    tapNearest w m e ≤ 2 ^ (w - 1) - 1 ∧ IsNearestTap w (dyadic m e) (tapNearest w m e) ∧
    (tapVal w (tapNearest w m e) = dyadic m e ↔ tapVal w (tapBelow w m e) = dyadic m e) := by
  unfold tapNearest
  dsimp only
  rcases tapBelow_cases hw h with ⟨eq, range⟩ | ⟨lo, hi, range⟩
  · rw [if_pos (cmpPow_eq_eq.2 eq)]
    refine ⟨range, isNearestTap_lower hw range eq.le fun inner => ?_, Iff.rfl⟩
    have rise := tapVal_lt_succ hw inner
    exact ⟨by linarith, fun _ => by linarith⟩
  · have middle : dyadic (tapMag w (tapBelow w m e) + tapMag w (tapBelow w m e + 1)) (-12) =
      tapVal w (tapBelow w m e) + tapVal w (tapBelow w m e + 1) := dyadic_add _ _ _
    have lower := isNearestTap_lower hw range.le lo.le
    have upper := isNearestTap_upper hw hi
    have below_ne := iff_of_false lo.ne lo.ne
    have above_ne := iff_of_false hi.ne' lo.ne
    rw [if_neg (mt cmpPow_eq_eq.1 lo.ne)]
    split
    · next lt =>
      rw [cmpPow_eq_lt, middle, dyadic_mul_two] at lt
      exact ⟨range.le, lower fun _ => ⟨lt.le, fun _ => lt⟩, below_ne⟩
    · next gt =>
      rw [cmpPow_eq_gt, middle, dyadic_mul_two] at gt
      exact ⟨range, upper ⟨gt.le, fun _ => gt⟩, above_ne⟩
    · next tie =>
      rw [cmpPow_eq_eq, middle, dyadic_mul_two] at tie
      split
      · next even => exact ⟨range.le, lower fun _ => ⟨tie.le, fun odd => by omega⟩, below_ne⟩
      · next odd => exact ⟨range, upper ⟨tie.ge, fun odd' => by omega⟩, above_ne⟩

/-- Rounding a value among the codes, in the comparisons of the claims. -/
theorem roundTap_among (neg : Bool) (hm : 0 < m) (h : dyadic m e ≤ tapVal w (2 ^ (w - 1) - 1)) :
    ∃ c, c ≤ 2 ^ (w - 1) - 1 ∧ ((Num.fin neg m e).roundTap w).1 = tapCode w neg c ∧ IsNearestTap w (dyadic m e) c ∧
      (((Num.fin neg m e).roundTap w).2.getLsbD 4 = true ↔ tapVal w c ≠ dyadic m e) ∧
      (((Num.fin neg m e).roundTap w).2.getLsbD 3 = true ↔ dyadic m e < tapVal w 1) := by
  obtain ⟨range, nearest, exact_iff⟩ := tapNearest_spec hw h
  have smallest := le_tapBelow_iff hw (m := m) (e := e) (c := 1) (by rcases hw with rfl | rfl <;> decide)
  have pos : 0 < dyadic m e := mul_pos (by exact_mod_cast hm) (two_zpow_pos e)
  rw [roundTap_of_le neg hm h]
  refine ⟨_, range, rfl, nearest, ?_, ?_⟩
  · rw [ne_eq, exact_iff]
    split
    · next eq => exact iff_of_false (by simp) (not_not.2 eq)
    · next ne => exact iff_of_true (by split <;> simp [flagNX, flagUF]) ne
  · rw [← not_le, ← smallest, Nat.one_le_iff_ne_zero, not_not]
    split
    · next eq => exact iff_of_false (by simp) fun zero => pos.ne' (by rw [← eq, zero, tapVal_zero])
    · split
      · next zero => exact iff_of_true (by simp [flagNX, flagUF]) zero
      · next pos => exact iff_of_false (by simp [flagNX]) pos

end

/-- Settles O20. -/
theorem conversionRounding : Obligations.ConversionRounding := by
  unfold Obligations.ConversionRounding
  refine ⟨fun rnd lo hi _ _ => ⟨fun _ => rfl, fun _ => rfl, fun neg m e => ?_⟩, fun w hw => ⟨fun _ => rfl, fun neg => ?_, fun neg e => rfl,
    fun neg m e hm => ⟨fun above => ?_, fun among => ?_⟩⟩⟩
  · have rounded := mag_at_isRounding m e 0 rnd neg
    rw [Int.sub_zero] at rounded
    obtain ⟨down, up, nearest⟩ := rounded.vals
    exact ⟨_, _, rfl, down, up, nearest, clampInt_fin neg m e rnd lo hi⟩
  · rcases hw with rfl | rfl <;> cases neg <;> rfl
  · rw [ltVal_iff] at above
    rw [roundTap_of_gt neg above]
    rcases hw with rfl | rfl <;> rfl
  · rw [leVal_iff] at among
    obtain ⟨c, range, code, ⟨upper, lower⟩, inexact, small⟩ := roundTap_among hw neg hm among
    simp only [leVal_iff, ltVal_iff, dyadic_mul_two, dyadic_add, ← ne_iff_lt_or_gt]
    exact ⟨c, range, code, upper, lower, inexact.trans ne_comm, small⟩

/-! FADD, FSUB, FMUL, FFMA and FDIV (R31, R116). -/

theorem round_zero (k : Fmt) (h : How) (neg : Bool) (e : Int) : (Num.fin neg 0 e).round k h = (k.signed neg 0, 0) := rfl

theorem sigFlag_eq_nv (xs : List Num) : sigFlag xs = Claims.nv (xs.any Num.isSig) := rfl

theorem sigFlag_or_flagNV (xs : List Num) : sigFlag xs ||| flagNV = 0x01 := by
  unfold sigFlag
  split <;> decide

/-- Operands that are no NaN are no signalling NaN. -/
theorem sigFlag_of_no_nan {xs : List Num} (h : xs.any Num.isNan = false) : sigFlag xs = 0 := by
  have quiet : xs.any Num.isSig = false := by
    rw [List.any_eq_false] at h ⊢
    intro x hx
    have no_nan := h x hx
    cases x with
    | nan sig => exact absurd rfl no_nan
    | inf neg => exact Bool.false_ne_true
    | fin neg m e => exact Bool.false_ne_true
  rw [sigFlag_eq_nv, quiet]
  rfl

theorem finish_none (k : Fmt) (h : How) : finish k h 0 none = (k.nanCode, 0x01) := rfl

theorem finish_some (k : Fmt) (h : How) (x : Num) : finish k h 0 (some x) = x.round k h := by
  unfold finish
  exact Prod.ext rfl (BitVec.zero_or ..)

theorem finish_inf (k : Fmt) (h : How) (s : Bool) : finish k h 0 (some (.inf s)) = (k.signed s k.infCode, 0) := finish_some k h _

/-- The sum of two finite values, rounded once (R116). -/
theorem round_addFin (k : Fmt) (h : How) (s : Bool) (m : Nat) (e : Int) (t : Bool) (n : Nat) (f : Int) :
    (addFin h.rnd s m e t n f).round k h = Claims.roundedSum k h s m e t n f := by
  have signed (s : Bool) (x : Nat) : (if s then -(x : Int) else x) = (if s then -1 else 1) * x := by cases s <;> simp
  have sum : (if s then -((m * 2 ^ (e - min e f).toNat : Nat) : Int) else (m * 2 ^ (e - min e f).toNat : Nat)) +
      (if t then -((n * 2 ^ (f - min e f).toNat : Nat) : Int) else (n * 2 ^ (f - min e f).toNat : Nat)) = Claims.exactSum s m e t n f := by
    rw [signed, signed]
    rfl
  unfold addFin Claims.roundedSum
  dsimp only
  rw [sum]
  split
  · exact round_zero k h _ _
  · rfl

section
variable (k : Fmt) (h : How) {a b c : Num}

theorem zero_inf_ne (hz : (a.isZero && b.isInf || a.isInf && b.isZero) = false) :
    ¬(3 = 3 ∧ ((a.isZero = true ∧ b.isInf = true) ∨ (a.isInf = true ∧ b.isZero = true))) := by
  rintro ⟨-, zero⟩
  rw [Bool.or_eq_false_iff, Bool.and_eq_false_iff, Bool.and_eq_false_iff] at hz
  rcases zero with ⟨za, zb⟩ | ⟨za, zb⟩
  · simp [za, zb] at hz
  · simp [za, zb] at hz

theorem isNan_of_isZero (h : a.isZero = true) : a.isNan = false := by
  cases a with
  | nan sig => exact absurd h Bool.false_ne_true
  | _ => rfl

theorem isNan_of_isInf (h : a.isInf = true) : a.isNan = false := by
  cases a with
  | nan sig => exact absurd h Bool.false_ne_true
  | _ => rfl

/-- A zero beside an infinity: neither is a NaN, one is an infinity, one a zero. -/
theorem zero_inf_classes (hz : (a.isZero && b.isInf || a.isInf && b.isZero) = true) :
    (a.isNan || b.isNan) = false ∧ (a.isInf || b.isInf) = true ∧ (a.isZero || b.isZero) = true := by
  rw [Bool.or_eq_true, Bool.and_eq_true, Bool.and_eq_true] at hz
  rcases hz with ⟨zero, inf⟩ | ⟨inf, zero⟩
  · simp [isNan_of_isZero zero, isNan_of_isInf inf, zero, inf]
  · simp [isNan_of_isZero zero, isNan_of_isInf inf, zero, inf]

/-- FFMA of a zero times an infinity, whatever is added (R116). -/
theorem fArith_fma_zero_inf (hz : (a.isZero && b.isInf || a.isInf && b.isZero) = true) : fArith k h 3 a b c = (k.nanCode, 0x01) := by
  have zero : (a.isZero = true ∧ b.isInf = true) ∨ (a.isInf = true ∧ b.isZero = true) := by simpa using hz
  unfold fArith
  rw [if_pos ⟨rfl, zero⟩]
  exact Prod.ext rfl (sigFlag_or_flagNV _)

/-- FFMA of operands that are no NaN, its product not of a zero and an infinity. -/
theorem fArith_fma (hz : (a.isZero && b.isInf || a.isInf && b.isZero) = false) (hn : (a.isNan || b.isNan || c.isNan) = false) :
    fArith k h 3 a b c = finish k h 0 ((mulNum a b).bind fun p => addNum h.rnd p c) := by
  have no_nan : [a, b, c].any Num.isNan = false := by simpa [or_assoc, and_assoc] using hn
  unfold fArith
  dsimp only
  rw [if_neg (zero_inf_ne hz), if_pos rfl, sigFlag_of_no_nan no_nan, if_neg (by simp [no_nan])]
  rfl

theorem fArith_fma_nan (hz : (a.isZero && b.isInf || a.isInf && b.isZero) = false) (hn : (a.isNan || b.isNan || c.isNan) = true) :
    fArith k h 3 a b c = (k.nanCode, Claims.nv ([a, b, c].any Num.isSig)) := by
  unfold fArith
  dsimp only
  rw [if_neg (zero_inf_ne hz), if_pos rfl, if_pos (by simpa [or_assoc, and_assoc] using hn), sigFlag_eq_nv]

/-- An operation of two operands that are no NaN. -/
def twoOperands (mn : Nat) (a b : Num) : Nat × Flags :=
  match mn with
  | 0 => finish k h 0 (addNum h.rnd a b)
  | 1 => finish k h 0 (addNum h.rnd a b.negate)
  | 2 => finish k h 0 (mulNum a b)
  | _ => divNum k h a b

theorem fArith_two {mn : Nat} (hmn : mn ≠ 3) (hn : (a.isNan || b.isNan) = false) : fArith k h mn a b c = twoOperands k h mn a b := by
  have no_nan : [a, b].any Num.isNan = false := by simpa using hn
  unfold fArith
  dsimp only
  rw [if_neg fun three => hmn three.1, if_neg hmn, sigFlag_of_no_nan no_nan, if_neg (by simp [no_nan])]
  match mn with
  | 0 | 1 | 2 => rfl
  | 3 => exact absurd rfl hmn
  | _ + 4 => rfl

theorem fArith_two_nan {mn : Nat} (hmn : mn ≠ 3) (hn : (a.isNan || b.isNan) = true) :
    fArith k h mn a b c = (k.nanCode, Claims.nv ([a, b].any Num.isSig)) := by
  unfold fArith
  dsimp only
  rw [if_neg fun three => hmn three.1, if_neg hmn, if_pos (by simpa using hn), sigFlag_eq_nv]

/-- A product with an infinity (R116). -/
theorem mulNum_of_inf (hinf : (a.isInf || b.isInf) = true) :
    mulNum a b = if a.isZero || b.isZero then none else some (.inf (a.neg != b.neg)) := by
  cases a with
  | fin s m e =>
    cases b with
    | fin t n f => exact absurd hinf Bool.false_ne_true
    | _ => rfl
  | _ => rfl

/-- The sum of an infinity and a value that is no NaN (R116). -/
theorem finish_addNum_inf (s : Bool) (hn : b.isNan = false) :
    finish k h 0 (addNum h.rnd (.inf s) b) = if b.isInf && b.neg != s then (k.nanCode, 0x01) else (k.signed s k.infCode, 0) := by
  cases b with
  | nan sig => exact absurd hn (by simp [Num.isNan])
  | inf t =>
    cases s <;> cases t
    · exact finish_inf k h false
    · exact finish_none k h
    · exact finish_none k h
    · exact finish_inf k h true
  | fin t n f => exact finish_inf k h s

theorem finish_addNum_fin (s : Bool) (m : Nat) (e : Int) (t : Bool) (n : Nat) (f : Int) :
    finish k h 0 (addNum h.rnd (.fin s m e) (.fin t n f)) = Claims.roundedSum k h s m e t n f :=
  (finish_some k h _).trans (round_addFin k h s m e t n f)

end

/-- Settles O17: what each operation does with NaNs, and then by the classes of its operands. -/
theorem floatArithmetic : Obligations.FloatArithmetic := by
  unfold Obligations.FloatArithmetic
  intro k _ h a b c
  refine ⟨fun mn hmn hn => ?_, fun hz => ⟨fArith_fma_zero_inf k h hz, ?_⟩, fun hz hn => fArith_fma_nan k h hz hn, ?_, ?_, ?_, ?_, ?_, ?_⟩
  · exact fArith_two_nan k h (by rintro rfl; simp at hmn) hn
  · obtain ⟨no_nan, inf, zero⟩ := zero_inf_classes hz
    rw [fArith_two k h (by decide) no_nan, twoOperands, mulNum_of_inf inf, if_pos zero]
    exact finish_none k h
  · rintro s t rfl rfl
    have two (mn : Nat) (hmn : mn ≠ 3) := fArith_two k h (a := .inf s) (b := .inf t) (c := c) hmn rfl
    rw [two 0 (by decide), two 1 (by decide), two 2 (by decide), two 7 (by decide)]
    refine ⟨(finish_addNum_inf k h s rfl).trans ?_, (finish_addNum_inf k h s rfl).trans ?_, finish_inf k h _, rfl⟩
    · cases s <;> cases t <;> rfl
    · cases s <;> cases t <;> rfl
  · rintro s t m e rfl rfl
    have two (mn : Nat) (hmn : mn ≠ 3) := fArith_two k h (a := .inf s) (b := .fin t m e) (c := c) hmn rfl
    rw [two 0 (by decide), two 1 (by decide), two 2 (by decide), two 7 (by decide)]
    refine ⟨finish_inf k h s, finish_inf k h s, rfl, fun hm => ?_⟩
    rw [twoOperands, mulNum_of_inf rfl, if_neg (by simp [Num.isZero, hm])]
    exact finish_inf k h _
  · rintro s t m e rfl rfl
    have two (mn : Nat) (hmn : mn ≠ 3) := fArith_two k h (a := .fin s m e) (b := .inf t) (c := c) hmn rfl
    rw [two 0 (by decide), two 1 (by decide), two 2 (by decide), two 7 (by decide)]
    refine ⟨finish_inf k h t, finish_inf k h !t, rfl, fun hm => ?_⟩
    rw [twoOperands, mulNum_of_inf rfl, if_neg (by simp [Num.isZero, hm])]
    exact finish_inf k h _
  · intro hn hzero hinf
    have product : mulNum a b = some (.inf (a.neg != b.neg)) := (mulNum_of_inf hinf).trans (if_neg (by simp [hzero]))
    rw [Bool.or_eq_false_iff] at hzero
    rw [fArith_fma k h (by simp [hzero]) hn, product]
    exact finish_addNum_inf k h _ (Bool.or_eq_false_iff.1 hn).2
  · rintro s m e t n f u rfl rfl rfl
    rw [fArith_fma k h (by simp [Num.isInf]) rfl]
    exact finish_inf k h u
  · rintro s m e t n f rfl rfl
    have two (mn : Nat) (hmn : mn ≠ 3) := fArith_two k h (a := .fin s m e) (b := .fin t n f) (c := c) hmn rfl
    rw [two 0 (by decide), two 1 (by decide), two 2 (by decide), two 7 (by decide)]
    refine ⟨finish_addNum_fin .., finish_addNum_fin .., finish_some .., ?_, fun hn => if_pos hn, fun hn hm => (if_neg hn).trans (if_neg hm),
      fun hn hm => (if_neg hn).trans (if_pos hm)⟩
    rintro u p g rfl
    rw [fArith_fma k h (by simp [Num.isInf]) rfl]
    exact finish_addNum_fin ..

/-! The codes of a binary format as values (R30). -/

/-- The value of a finite code of sign 0. -/
def codeVal (k : Fmt) (c : Nat) : ℚ :=
  if c < 2 ^ (k.p - 1) then dyadic c k.low else dyadic (c % 2 ^ (k.p - 1) + 2 ^ (k.p - 1)) (k.low + (c / 2 ^ (k.p - 1) : Nat) - 1)

theorem decode_eq_codeVal {k : Fmt} {c v : Nat} {f : Int} (hc : c < k.infCode) (h : k.decode false c = .fin false v f) : dyadic v f = codeVal k c := by
  have field : c / 2 ^ (k.p - 1) < 2 ^ k.eb - 1 := (Nat.div_lt_iff_lt_mul (Nat.two_pow_pos _)).2 hc
  unfold Fmt.decode at h
  dsimp only at h
  rw [Nat.mod_eq_of_lt (field.trans_le (Nat.sub_le _ _)), if_neg field.ne] at h
  unfold codeVal
  split at h
  · next zero =>
    have small : c < 2 ^ (k.p - 1) := (Nat.div_eq_zero_iff_lt (Nat.two_pow_pos _)).1 zero
    injection h with _ hv hf
    rw [if_pos small, ← hv, ← hf, if_neg Bool.false_ne_true, Nat.mod_eq_of_lt small]
  · next pos =>
    have large : ¬c < 2 ^ (k.p - 1) := fun small => pos ((Nat.div_eq_zero_iff_lt (Nat.two_pow_pos _)).2 small)
    injection h with _ hv hf
    rw [if_neg large, ← hv, ← hf, add_sub_assoc]

/-- A significand doubled, or its exponent raised. -/
theorem dyadic_succ_exp (m : Nat) (e : Int) : dyadic m (e + 1) = dyadic (2 * m) e := by
  rw [dyadic_mul_two, dyadic, dyadic, zpow_add_one₀ two_ne_zero]
  ring

section
variable {k : Fmt} {j q : Nat}

/-- A significand `q` in units of 2^(low + j), up to the power of two where the next units begin. -/
theorem codeVal_of_units (hq : 2 ^ (k.p - 1) ≤ q ∨ j = 0) (hle : q ≤ 2 * 2 ^ (k.p - 1)) : codeVal k (j * 2 ^ (k.p - 1) + q) = dyadic q (k.low + j) := by
  have pos := Nat.two_pow_pos (k.p - 1)
  unfold codeVal
  generalize 2 ^ (k.p - 1) = P at *
  by_cases small : q < P
  · obtain rfl : j = 0 := by omega
    rw [Nat.zero_mul, Nat.zero_add, if_pos small, Nat.cast_zero, add_zero]
  · rw [if_neg (by have := Nat.zero_le (j * P); omega)]
    rcases hle.lt_or_eq with lt | rfl
    · have split : j * P + q = q - P + P * (j + 1) := by rw [Nat.mul_add, Nat.mul_comm]; omega
      rw [split, Nat.add_mul_mod_self_left, Nat.add_mul_div_left _ _ pos, Nat.mod_eq_of_lt (by omega), Nat.div_eq_of_lt (by omega),
        Nat.sub_add_cancel (by omega)]
      congr 1
      push_cast
      ring
    · rw [← Nat.add_mul, Nat.mul_mod_left, Nat.mul_div_cancel _ pos, Nat.zero_add, ← dyadic_succ_exp]
      congr 1
      push_cast
      ring

/-- The next code is at least a unit above. -/
theorem le_codeVal_succ (hq : 2 ^ (k.p - 1) ≤ q ∨ j = 0) (hle : q ≤ 2 * 2 ^ (k.p - 1)) :
    dyadic (q + 1) (k.low + j) ≤ codeVal k (j * 2 ^ (k.p - 1) + q + 1) := by
  rcases hle.lt_or_eq with lt | rfl
  · exact (codeVal_of_units (q := q + 1) (by omega) lt).ge
  · have pos := Nat.two_pow_pos (k.p - 1)
    have next : j * 2 ^ (k.p - 1) + 2 * 2 ^ (k.p - 1) + 1 = (j + 1) * 2 ^ (k.p - 1) + (2 ^ (k.p - 1) + 1) := by ring
    rw [next, codeVal_of_units (.inl (by omega)) (by omega), Nat.cast_succ, ← add_assoc, dyadic_succ_exp]
    exact mul_le_mul_of_nonneg_right (by exact_mod_cast (by omega)) (two_zpow_pos _).le

/-- The code before is a unit below, or the code is the first of its units. -/
theorem codeVal_pred (hq : 2 ^ (k.p - 1) ≤ q ∨ j = 0) (hle : q ≤ 2 * 2 ^ (k.p - 1)) (pos : 0 < j * 2 ^ (k.p - 1) + q) :
    (0 < q ∧ codeVal k (j * 2 ^ (k.p - 1) + q - 1) = dyadic (q - 1) (k.low + j)) ∨
    (q = 2 ^ (k.p - 1) ∧ j ≠ 0 ∧ codeVal k (j * 2 ^ (k.p - 1) + q - 1) < dyadic q (k.low + j)) := by
  have hP := Nat.two_pow_pos (k.p - 1)
  by_cases first : q = 2 ^ (k.p - 1) ∧ j ≠ 0
  · obtain ⟨rfl, hj⟩ := first
    obtain ⟨i, rfl⟩ := Nat.exists_eq_succ_of_ne_zero hj
    have before : (i + 1) * 2 ^ (k.p - 1) + 2 ^ (k.p - 1) - 1 = i * 2 ^ (k.p - 1) + (2 * 2 ^ (k.p - 1) - 1) := by rw [Nat.succ_mul]; omega
    refine .inr ⟨rfl, hj, ?_⟩
    rw [before, codeVal_of_units (.inl (by omega)) (by omega), Nat.cast_succ, ← add_assoc, dyadic_succ_exp]
    exact mul_lt_mul_of_pos_right (by exact_mod_cast (by omega)) (two_zpow_pos _)
  · have hq0 : 0 < q := by
      rcases hq with hq | rfl
      · omega
      · omega
    refine .inl ⟨hq0, ?_⟩
    rw [Nat.add_sub_assoc hq0]
    exact codeVal_of_units (by omega) (by omega)

end

/-- `c` is the code of the value `x` rounded in a mode: the nearest below, above, or of the two the nearer, the even one in a tie (R33). -/
structure IsRoundedCode (k : Fmt) (r : Rnd) (neg : Bool) (x : ℚ) (c : Nat) : Prop where
  down : Claims.RoundsDown r neg → codeVal k c ≤ x ∧ x < codeVal k (c + 1)
  up : Claims.RoundsUp r neg → x ≤ codeVal k c ∧ (0 < c → codeVal k (c - 1) < x)
  nearest_succ : r = .rn → 2 * x ≤ codeVal k c + codeVal k (c + 1) ∧ (c % 2 = 1 → 2 * x < codeVal k c + codeVal k (c + 1))
  nearest_pred : r = .rn → 0 < c → codeVal k c + codeVal k (c - 1) ≤ 2 * x ∧ (c % 2 = 1 → codeVal k c + codeVal k (c - 1) < 2 * x)

/-- An integer rounding of the significand is the rounding to a code. -/
theorem IsRounding.isRoundedCode {k : Fmt} {r : Rnd} {neg : Bool} {m : Nat} {e : Int} {j q : Nat} (hp : 2 ≤ k.p)
    (h : IsRounding r neg (dyadic m (e - (k.low + j))) q) (hq : 2 ^ (k.p - 1) ≤ q ∨ j = 0) (hle : q ≤ 2 * 2 ^ (k.p - 1))
    (hx : j = 0 ∨ (2 ^ (k.p - 1) : Nat) ≤ dyadic m (e - (k.low + j))) : IsRoundedCode k r neg (dyadic m e) (j * 2 ^ (k.p - 1) + q) := by
  have value : codeVal k (j * 2 ^ (k.p - 1) + q) = q * 2 ^ (k.low + j) := codeVal_of_units hq hle
  have succ := le_codeVal_succ hq hle
  have pred (pos : 0 < j * 2 ^ (k.p - 1) + q) : codeVal k (j * 2 ^ (k.p - 1) + q - 1) = (q - 1) * 2 ^ (k.low + j) ∨
      (codeVal k (j * 2 ^ (k.p - 1) + q - 1) < q * 2 ^ (k.low + j) ∧ (q : ℚ) ≤ dyadic m (e - (k.low + j))) := by
    rcases codeVal_pred hq hle pos with ⟨hq0, eq⟩ | ⟨first, hj, lt⟩
    · exact .inl (by rw [eq, dyadic, Nat.cast_pred hq0])
    · exact .inr ⟨lt, first ▸ hx.resolve_left hj⟩
  have parity : (j * 2 ^ (k.p - 1) + q) % 2 = q % 2 := by
    obtain ⟨i, hi⟩ := Nat.exists_eq_add_of_le hp
    rw [show k.p - 1 = i + 1 by omega, Nat.pow_succ, ← Nat.mul_assoc, Nat.mul_add_mod_self_right]
  have unit := two_zpow_pos (k.low + j)
  rw [dyadic_eq_mul m e (k.low + j)]
  rw [dyadic, Nat.cast_succ] at succ
  generalize dyadic m (e - (k.low + j)) = u at *
  generalize (2 : ℚ) ^ (k.low + j) = U at *
  have le {a b : ℚ} (hab : a ≤ b) := mul_le_mul_of_nonneg_right hab unit.le
  have lt {a b : ℚ} (hab : a < b) := mul_lt_mul_of_pos_right hab unit
  constructor
  · intro hr
    obtain ⟨lo, hi⟩ := h.down hr
    exact ⟨by linarith [le lo], by linarith [lt hi]⟩
  · intro hr
    obtain ⟨lo, hi⟩ := h.up hr
    refine ⟨by linarith [le hi], fun pos => ?_⟩
    rcases pred pos with eq | ⟨below, first⟩
    · linarith [lt lo]
    · linarith [le first]
  · intro hr
    rw [parity]
    exact ⟨by linarith [le (h.nearest hr).2], fun odd => by linarith [lt (h.even hr odd).2]⟩
  · intro hr pos
    rw [parity]
    rcases pred pos with eq | ⟨below, first⟩
    · exact ⟨by linarith [le (h.nearest hr).1], fun odd => by linarith [lt (h.even hr odd).1]⟩
    · exact ⟨by linarith [le first], fun _ => by linarith [le first]⟩

/-! The exponent of a rounded magnitude, and what it takes to reach a power of two (R34). -/

/-- The exponent of a magnitude's leading bit, before and after rounding to `p` bits with no bound on the exponent. -/
def leadExp (m : Nat) (e : Int) : Int := e + Nat.log2 m

def roundedExp (k : Fmt) (r : Rnd) (neg : Bool) (m : Nat) (e : Int) : Int :=
  if ((Mag.mk m e false).at (leadExp m e - (k.p - 1)) r neg).1 = 2 ^ k.p then leadExp m e + 1 else leadExp m e

/-- A magnitude rounds to at least 2^E, with no bound on the exponent. -/
def Reaches (k : Fmt) (r : Rnd) (neg : Bool) (m : Nat) (e E : Int) : Prop :=
  (Claims.RoundsDown r neg → Claims.LeVal 1 E m e) ∧ (Claims.RoundsUp r neg → Claims.LtVal (2 ^ k.p - 1) (E - k.p) m e) ∧
    (r = .rn → Claims.LeVal (2 * (2 ^ k.p - 1) + 1) (E - k.p - 1) m e)

theorem dyadic_one (E : Int) : dyadic 1 E = 2 ^ E := by rw [dyadic, Nat.cast_one, one_mul]

section
variable {k : Fmt} {r : Rnd} {neg : Bool} {m : Nat} {e E : Int}

theorem leadExp_bounds (hm : 0 < m) : (2 : ℚ) ^ leadExp m e ≤ dyadic m e ∧ dyadic m e < 2 ^ (leadExp m e + 1) := by
  have lo : 2 ^ Nat.log2 m ≤ m := Nat.log2_self_le hm.ne'
  have hi : m < 2 ^ (Nat.log2 m + 1) := Nat.lt_log2_self
  rw [leadExp, add_assoc, zpow_add₀ two_ne_zero, zpow_add₀ two_ne_zero, mul_comm, mul_comm (2 ^ e), dyadic]
  exact ⟨mul_le_mul_of_nonneg_right (by exact_mod_cast lo) (two_zpow_pos e).le, mul_lt_mul_of_pos_right (by exact_mod_cast hi) (two_zpow_pos e)⟩

/-- In units of 2^(E − p), the power of two is the integer 2^p. -/
theorem zpow_eq_units (k : Fmt) (E : Int) : (2 : ℚ) ^ E = (2 ^ k.p : Nat) * 2 ^ (E - k.p) := by
  rw [Nat.cast_pow, Nat.cast_ofNat, ← zpow_natCast, ← zpow_add₀ two_ne_zero, add_sub_cancel]

theorem reaches_iff_reachesInt : Reaches k r neg m e E ↔ ReachesInt r neg (dyadic m (e - (E - k.p))) (2 ^ k.p) := by
  have half : (2 : ℚ) ^ (E - k.p) = 2 * 2 ^ (E - k.p - 1) := by rw [← zpow_one_add₀ two_ne_zero, add_sub_cancel]
  have pos : 0 < 2 ^ k.p := Nat.two_pow_pos _
  unfold Reaches ReachesInt
  simp only [leVal_iff, ltVal_iff, dyadic_one]
  rw [dyadic_eq_mul m e (E - k.p), zpow_eq_units k E]
  generalize dyadic m (e - (E - k.p)) = u
  refine and_congr (imp_congr_right fun _ => ?_) (and_congr (imp_congr_right fun _ => ?_) (imp_congr_right fun _ => ?_))
  · exact mul_le_mul_iff_of_pos_right (two_zpow_pos _)
  · rw [dyadic, Nat.cast_pred pos]
    exact mul_lt_mul_iff_of_pos_right (two_zpow_pos _)
  · rw [half, ← mul_assoc, mul_comm u 2, dyadic, mul_le_mul_iff_of_pos_right (two_zpow_pos _), Nat.cast_succ, Nat.cast_mul, Nat.cast_pred pos]
    exact iff_of_eq (congrArg (· ≤ 2 * u) (by push_cast; ring))

theorem reachesInt_of_le {u : ℚ} {N : Nat} (h : N ≤ u) : ReachesInt r neg u N :=
  ⟨fun _ => h, fun _ => by linarith, fun _ => by linarith⟩

theorem not_reachesInt_of_lt {u : ℚ} {N : Nat} (hN : 2 ≤ N) (h : 2 * u < N) : ¬ReachesInt r neg u N := by
  have hN : (2 : ℚ) ≤ N := by exact_mod_cast hN
  rintro ⟨down, up, nearest⟩
  rcases rounds_kind r neg with hr | hr | hr
  · linarith [down hr]
  · linarith [up hr]
  · linarith [nearest hr]

/-- The magnitude in the units that give it `p` bits. -/
theorem units_bounds (hm : 0 < m) : ((2 ^ k.p : Nat) : ℚ) ≤ 2 * dyadic m (e - (leadExp m e - (k.p - 1))) ∧
    dyadic m (e - (leadExp m e - (k.p - 1))) < (2 ^ k.p : Nat) := by
  obtain ⟨lo, hi⟩ := leadExp_bounds (e := e) hm
  have unit := two_zpow_pos (leadExp m e - (k.p - 1))
  have upper := zpow_eq_units k (leadExp m e + 1)
  rw [show leadExp m e + 1 - (k.p : Int) = leadExp m e - (k.p - 1) by ring] at upper
  rw [zpow_add_one₀ two_ne_zero] at upper hi
  rw [dyadic_eq_mul m e (leadExp m e - (k.p - 1))] at lo hi
  exact ⟨le_of_mul_le_mul_right (by linarith) unit, lt_of_mul_lt_mul_right (by linarith) unit.le⟩

/-- The exponent of the rounded magnitude, by what the magnitude reaches. -/
theorem le_roundedExp_iff (hp : 2 ≤ k.p) (hm : 0 < m) : E ≤ roundedExp k r neg m e ↔ Reaches k r neg m e E := by
  obtain ⟨lo, hi⟩ := leadExp_bounds (e := e) hm
  have big : 2 ^ 2 ≤ 2 ^ k.p := Nat.pow_le_pow_right (by decide) hp
  have scaled := dyadic_eq_mul m e (E - k.p)
  have unit := two_zpow_pos (E - k.p)
  rw [reaches_iff_reachesInt]
  rcases lt_trichotomy E (leadExp m e + 1) with lt | rfl | gt
  · refine iff_of_true (by unfold roundedExp; split <;> omega) (reachesInt_of_le (le_of_mul_le_mul_right ?_ unit))
    rw [← zpow_eq_units, ← scaled]
    exact (zpow_le_zpow_right₀ one_le_two (by omega)).trans lo
  · have even : 2 ^ k.p % 2 = 0 := Nat.mod_eq_zero_of_dvd (dvd_pow_self 2 (by omega))
    have rounded := mag_at_isRounding m e (leadExp m e - (k.p - 1)) r neg
    have most := rounded.ge_of_ge (units_bounds hm).2.le
    rw [show leadExp m e + 1 - (k.p : Int) = leadExp m e - (k.p - 1) by ring, ← rounded.le_iff even]
    unfold roundedExp
    split <;> omega
  · refine iff_of_false (by unfold roundedExp; split <;> omega) (not_reachesInt_of_lt (by omega) (lt_of_mul_lt_mul_right ?_ unit.le))
    rw [← zpow_eq_units, mul_assoc, ← scaled]
    have next : (2 : ℚ) ^ (leadExp m e + 1 + 1) ≤ 2 ^ E := zpow_le_zpow_right₀ one_le_two (by omega)
    rw [zpow_add_one₀ two_ne_zero] at next
    linarith

end

/-! The rounding step (R33, R34). -/

/-- The unit to which a magnitude is rounded, not below one step of the subnormals, and the code this gives. -/
def roundUnit (k : Fmt) (m : Nat) (e : Int) : Int := if leadExp m e - (k.p - 1) < k.low then k.low else leadExp m e - (k.p - 1)

def roundedSignificand (k : Fmt) (r : Rnd) (neg : Bool) (m : Nat) (e : Int) : Nat × Bool := (Mag.mk m e false).at (roundUnit k m e) r neg

def roundedCode (k : Fmt) (r : Rnd) (neg : Bool) (m : Nat) (e : Int) : Nat :=
  (roundUnit k m e - k.low).toNat * 2 ^ (k.p - 1) + (roundedSignificand k r neg m e).1

/-- The flags of a result that does not overflow. -/
def roundFlags (tiny inexact : Bool) : Flags := (if inexact then flagNX else 0) ||| (if tiny && inexact then flagUF else 0)

theorem round_fin {m : Nat} (hm : 0 < m) (k : Fmt) (h : How) (neg : Bool) (e : Int) : (Num.fin neg m e).round k h =
    if k.emax < roundedExp k h.rnd neg m e then
      (k.signed neg (if overflowsToInf h.rnd neg && !h.sat then k.infCode else k.infCode - 1), 0x14)
    else if decide (roundedExp k h.rnd neg m e < k.emin) && h.ftz then (k.signed neg 0, 0x18)
    else (k.signed neg (roundedCode k h.rnd neg m e),
      roundFlags (decide (roundedExp k h.rnd neg m e < k.emin)) (roundedSignificand k h.rnd neg m e).2) := by
  unfold Num.round Mag.round
  exact if_neg hm.ne'

section
variable {k : Fmt} {r : Rnd} {neg : Bool} {m : Nat} {e : Int}

theorem two_mul_two_pow_pred (hp : 2 ≤ k.p) : 2 * 2 ^ (k.p - 1) = 2 ^ k.p := by rw [← Nat.pow_succ', Nat.succ_eq_add_one, Nat.sub_add_cancel (by omega)]

theorem roundUnit_eq (k : Fmt) (m : Nat) (e : Int) : roundUnit k m e = k.low + (roundUnit k m e - k.low).toNat := by
  unfold roundUnit
  split <;> omega

/-- The magnitude in its unit has at least `p` bits, unless the unit is the subnormals'. -/
theorem units_of_roundUnit (hp : 2 ≤ k.p) (hm : 0 < m) :
    (roundUnit k m e - k.low).toNat = 0 ∨ ((2 ^ (k.p - 1) : Nat) : ℚ) ≤ dyadic m (e - roundUnit k m e) := by
  unfold roundUnit
  split
  · exact .inl (by omega)
  · have bounds := (units_bounds (k := k) (e := e) hm).1
    rw [← two_mul_two_pow_pred hp] at bounds
    push_cast at bounds ⊢
    exact .inr (by linarith)

theorem roundedSignificand_isRounding : IsRounding r neg (dyadic m (e - roundUnit k m e)) (roundedSignificand k r neg m e).1 :=
  mag_at_isRounding m e _ r neg

theorem roundedSignificand_le (hp : 2 ≤ k.p) : (roundedSignificand k r neg m e).1 ≤ 2 * 2 ^ (k.p - 1) := by
  rw [two_mul_two_pow_pred hp]
  refine mag_at_le ?_ r neg
  unfold roundUnit leadExp
  dsimp only
  split <;> omega

theorem le_roundedSignificand (hp : 2 ≤ k.p) (hm : 0 < m) :
    2 ^ (k.p - 1) ≤ (roundedSignificand k r neg m e).1 ∨ (roundUnit k m e - k.low).toNat = 0 :=
  (units_of_roundUnit hp hm).symm.imp_left roundedSignificand_isRounding.le_of_le

theorem isRoundedCode_roundedCode (hp : 2 ≤ k.p) (hm : 0 < m) : IsRoundedCode k r neg (dyadic m e) (roundedCode k r neg m e) := by
  have rounded := roundedSignificand_isRounding (k := k) (r := r) (neg := neg) (m := m) (e := e)
  rw [roundUnit_eq] at rounded
  refine rounded.isRoundedCode hp (le_roundedSignificand hp hm) (roundedSignificand_le hp) ((units_of_roundUnit hp hm).imp_right fun le => ?_)
  rwa [← roundUnit_eq]

/-- The rounding is inexact just where the code's value is another. -/
theorem inexact_iff (hp : 2 ≤ k.p) (hm : 0 < m) :
    (roundedSignificand k r neg m e).2 = true ↔ codeVal k (roundedCode k r neg m e) ≠ dyadic m e := by
  have value : codeVal k (roundedCode k r neg m e) = _ := codeVal_of_units (le_roundedSignificand hp hm) (roundedSignificand_le hp)
  rw [← roundUnit_eq, dyadic] at value
  rw [value, dyadic_eq_mul m e (roundUnit k m e), ne_eq, mul_left_inj' (two_zpow_pos _).ne', eq_comm (b := dyadic m (e - roundUnit k m e)),
    ← Bool.not_eq_false]
  exact not_congr (mag_at_exact_iff m e _ r neg)

/-- OF, and a tiny result, in the comparisons of the claims (R34). -/
theorem emax_lt_roundedExp_iff (hp : 2 ≤ k.p) (hm : 0 < m) : k.emax < roundedExp k r neg m e ↔
    ((Claims.RoundsDown r neg → Claims.LeVal 1 (k.emax + 1) m e) ∧ (Claims.RoundsUp r neg → Claims.LtVal (2 ^ k.p - 1) (k.emax - (k.p - 1)) m e) ∧
      (r = .rn → Claims.LeVal (2 * (2 ^ k.p - 1) + 1) (k.emax - k.p) m e)) := by
  rw [← Int.add_one_le_iff, le_roundedExp_iff hp hm, Reaches, show k.emax + 1 - (k.p : Int) = k.emax - (k.p - 1) by ring,
    show k.emax - ((k.p : Int) - 1) - 1 = k.emax - k.p by ring]

theorem roundedExp_lt_emin_iff (hp : 2 ≤ k.p) (hm : 0 < m) : roundedExp k r neg m e < k.emin ↔
    ((Claims.RoundsDown r neg → Claims.LtVal m e 1 k.emin) ∧ (Claims.RoundsUp r neg → Claims.LeVal m e (2 ^ k.p - 1) (k.emin - k.p)) ∧
      (r = .rn → Claims.LtVal m e (2 * (2 ^ k.p - 1) + 1) (k.emin - k.p - 1))) := by
  rw [← not_le, le_roundedExp_iff hp hm, Reaches]
  simp only [leVal_iff, ltVal_iff]
  rcases rounds_kind r neg with hr | hr | hr
  · simp [hr, not_roundsUp_of_down hr, not_rn_of_down hr]
  · simp [hr, not_rn_of_up hr, show ¬Claims.RoundsDown r neg from fun down => not_roundsUp_of_down down hr]
  · subst hr
    have not_down : ¬Claims.RoundsDown .rn neg := fun down => not_rn_of_down down rfl
    have not_up : ¬Claims.RoundsUp .rn neg := fun up => not_rn_of_up up rfl
    simp only [not_down, not_up, false_imp_iff, true_imp_iff, true_and, not_le]

end

/-- What the three formats have in common: room for the significand, and the exponents between the two reserved fields (R30). -/
theorem formats_spec {k : Fmt} (hk : k ∈ Claims.formats) : 2 ≤ k.p ∧ 4 ≤ 2 ^ k.eb ∧ k.emax - k.emin + 3 = (2 ^ k.eb : Nat) := by
  simp only [Claims.formats, List.mem_cons, List.not_mem_nil, or_false] at hk
  rcases hk with rfl | rfl | rfl <;> decide

section
variable {k : Fmt} {r : Rnd} {neg : Bool} {m : Nat} {e : Int} (hk : k ∈ Claims.formats)
include hk

/-- Without overflow the code is a finite one. -/
theorem roundedCode_lt (fits : roundedExp k r neg m e ≤ k.emax) : roundedCode k r neg m e < k.infCode := by
  obtain ⟨hp, hfield, hspan⟩ := formats_spec hk
  have le := roundedSignificand_le (r := r) (neg := neg) (m := m) (e := e) hp
  have pos := Nat.two_pow_pos (k.p - 1)
  have low : k.low = k.emin - (k.p - 1) := rfl
  have lead : leadExp m e ≤ roundedExp k r neg m e := by unfold roundedExp; split <;> omega
  have field : (roundUnit k m e - k.low).toNat + 3 ≤ 2 ^ k.eb ∧
      ((roundedSignificand k r neg m e).1 = 2 * 2 ^ (k.p - 1) → (roundUnit k m e - k.low).toNat + 4 ≤ 2 ^ k.eb) := by
    by_cases subnormal : leadExp m e - (k.p - 1) < k.low
    · rw [roundUnit, if_pos subnormal, Int.sub_self, Int.toNat_zero]
      omega
    · have unit : roundUnit k m e = leadExp m e - (k.p - 1) := if_neg subnormal
      have carry : (roundedSignificand k r neg m e).1 = 2 * 2 ^ (k.p - 1) → leadExp m e < roundedExp k r neg m e := by
        rw [two_mul_two_pow_pred hp, roundedSignificand, unit]
        intro full
        rw [roundedExp, if_pos full]
        omega
      rw [unit]
      omega
  have code : roundedCode k r neg m e = (roundUnit k m e - k.low).toNat * 2 ^ (k.p - 1) + (roundedSignificand k r neg m e).1 := rfl
  have wide : (roundUnit k m e - k.low).toNat * 2 ^ (k.p - 1) + 2 * 2 ^ (k.p - 1) ≤ (2 ^ k.eb - 1) * 2 ^ (k.p - 1) := by
    rw [← Nat.add_mul]
    exact Nat.mul_le_mul_right _ (by omega)
  rw [code, Fmt.infCode]
  rcases le.lt_or_eq with lt | full
  · omega
  · have wider : (roundUnit k m e - k.low).toNat * 2 ^ (k.p - 1) + 3 * 2 ^ (k.p - 1) ≤ (2 ^ k.eb - 1) * 2 ^ (k.p - 1) := by
      rw [← Nat.add_mul]
      exact Nat.mul_le_mul_right _ (by have := field.2 full; omega)
    omega

end

/-- R32 to R34 for a nonzero finite value, with FTZ and .sat each in its own field: FTZ gives a tiny result's zero, an overflow gives an
infinity or the largest finite value, and any other value gives its rounded code, a finite one, inexact where its value differs.
`emax_lt_roundedExp_iff` and `roundedExp_lt_emin_iff` say overflow and a tiny result in comparisons of the magnitude, `decode_eq_codeVal`
that the model reads a code as `codeVal`. -/
theorem round_fin_spec {k : Fmt} {r : Rnd} {neg : Bool} {m : Nat} {e : Int} (hk : k ∈ Claims.formats) (hm : 0 < m) :
    (roundedExp k r neg m e < k.emin → ∀ sat, (Num.fin neg m e).round k ⟨r, true, sat⟩ = (k.signed neg 0, 0x18)) ∧
    (¬roundedExp k r neg m e < k.emin → ∀ sat, (Num.fin neg m e).round k ⟨r, true, sat⟩ = (Num.fin neg m e).round k ⟨r, false, sat⟩) ∧
    (k.emax < roundedExp k r neg m e → (Num.fin neg m e).round k ⟨r, false, false⟩ =
      (k.signed neg (if overflowsToInf r neg then k.infCode else k.infCode - 1), 0x14)) ∧
    (roundedExp k r neg m e ≤ k.emax → ∃ c < k.infCode, IsRoundedCode k r neg (dyadic m e) c ∧
      (Num.fin neg m e).round k ⟨r, false, false⟩ =
        (k.signed neg c, roundFlags (decide (roundedExp k r neg m e < k.emin)) (decide (codeVal k c ≠ dyadic m e)))) := by
  obtain ⟨hp, hfield, hspan⟩ := formats_spec hk
  simp only [round_fin hm, Bool.and_true, Bool.and_false, Bool.not_false, Bool.false_eq_true, if_false, decide_eq_true_eq]
  refine ⟨fun tiny _ => ?_, fun normal _ => ?_, fun overflow => if_pos overflow, fun fits => ?_⟩
  · rw [if_neg (by omega), if_pos tiny]
  · rw [if_neg normal]
  · refine ⟨_, roundedCode_lt hk fits, isRoundedCode_roundedCode hp hm, ?_⟩
    rw [if_neg (not_lt.2 fits)]
    simp only [← inexact_iff hp hm, Bool.decide_eq_true]

/-- Refutes O16: the fields of `How` are the mode, FTZ and .sat, so the rounding the statement takes for FTZ 1 has FTZ 0 and .sat. The smallest
subnormal of f32 is tiny, and that rounding gives it exactly, code 1 with no flag, where the statement asks for a zero with UF and NX. -/
theorem not_roundingStep : ¬Obligations.RoundingStep := by
  unfold Obligations.RoundingStep
  intro h
  obtain ⟨flushed, -⟩ := h Fmt.f32 (by simp [Claims.formats]) .rn false 1 (-149) one_pos
  have exactly : (Num.fin false 1 (-149)).round Fmt.f32 ⟨.rn, false, true⟩ = (1, 0) := by decide +kernel
  have zero := flushed ⟨fun down => absurd rfl (not_rn_of_down down), fun up => absurd rfl (not_rn_of_up up), fun _ => by decide +kernel⟩
  rw [exactly] at zero
  exact absurd zero (by decide)

end Machine
end Sys2Proof
end

section
/-! PROOFS. Encodings (04 R62 to R86): the words of each layout as numbers, so that packing fields and taking them out again is arithmetic; the
views that the opcode map assigns, one for each encoded instruction; and the decoder on the words of such a view and back. -/

namespace Sys2Proof

/-! Fields of a word, as numbers. -/

/-- A run of bits is known by its value. -/
theorem extractLsb'_eq_of_toNat {w n : Nat} {x : BitVec w} {k : Nat} {y : BitVec n} (h : x.toNat / 2 ^ k % 2 ^ n = y.toNat) :
    x.extractLsb' k n = y :=
  BitVec.eq_of_toNat_eq (by rw [BitVec.extractLsb'_toNat, Nat.shiftRight_eq_div_pow, h])

theorem toNat_extractLsb'_eq {w : Nat} (x : BitVec w) (k n : Nat) : (x.extractLsb' k n).toNat = x.toNat / 2 ^ k % 2 ^ n := by
  rw [BitVec.extractLsb'_toNat, Nat.shiftRight_eq_div_pow]

theorem toNat_getLsbD_eq {w : Nat} (x : BitVec w) (k : Nat) : (x.getLsbD k).toNat = x.toNat / 2 ^ k % 2 := Nat.toNat_testBit x.toNat k

/-- A bit is known by its value. -/
theorem getLsbD_eq_of_toNat {w : Nat} {x : BitVec w} {k : Nat} {b : Bool} (h : x.toNat / 2 ^ k % 2 = b.toNat) : x.getLsbD k = b :=
  by rw [← Bool.ofNat_toNat (x.getLsbD k), toNat_getLsbD_eq, h, Bool.ofNat_toNat]

/-! The value of each first and second word (R62, R64 to R66, R70). -/

theorem opWord_toNat (len : BitVec 2) (maj mn : Nat) (f : OpF) : (opWord len maj mn f).toNat =
    (((((len.toNat * 64 + maj % 64) * 64 + f.d.toNat) * 64 + f.a.toNat) * 64 + f.b.toNat) * 8 + mn % 8) * 8 + f.g.toNat := by
  unfold opWord
  iterate 6 rw [Machine.toNat_append_eq]
  simp only [BitVec.toNat_ofNat, Nat.reducePow]

theorem memWord_toNat (len : BitVec 2) (mn : Nat) (f : MemF) : (memWord len mn f).toNat =
    ((((((len.toNat * 64 + 15) * 64 + f.d.toNat) * 64 + f.a.toNat) * 8 + mn % 8) * 8 + f.size.toNat) * 2 + f.s.toNat) * 32 + f.ofs.toNat := by
  unfold memWord
  iterate 7 rw [Machine.toNat_append_eq]
  simp only [BitVec.toNat_ofNat, BitVec.toNat_ofBool, Nat.reducePow, Nat.reduceMod]

theorem brWord_toNat (len : BitVec 2) (maj : Nat) (f : BrF) : (brWord len maj f).toNat =
    (((len.toNat * 64 + maj % 64) * 8 + f.g.toNat) * 2 + f.n.toNat) * 1048576 + f.ofs.toNat := by
  unfold brWord
  iterate 4 rw [Machine.toNat_append_eq]
  simp only [BitVec.toNat_ofNat, BitVec.toNat_ofBool, Nat.reducePow]

theorem extWord0_toNat (len : BitVec 2) (maj : Nat) (f : ExtF) : (extWord0 len maj f).toNat =
    (((len.toNat * 64 + maj % 64) * 256 + f.d.toNat) * 256 + f.a.toNat) * 256 + f.b.toNat := by
  unfold extWord0
  iterate 4 rw [Machine.toNat_append_eq]
  simp only [BitVec.toNat_ofNat, Nat.reducePow]

theorem extWord1_toNat (mn : Nat) (f : ExtF) : (extWord1 mn f).toNat =
    ((((((((((f.c.toNat * 2 + f.n.toNat) * 16 + f.g.toNat) * 2 + f.xb.toNat) * 4 + f.cs.toNat) * 8 + mn % 8) * 2 + f.ca.toNat) * 2 +
      f.cb.toNat) * 2 + f.cd.toNat) * 8 + f.route.toNat) * 128 + f.mod.toNat) := by
  unfold extWord1
  iterate 11 rw [Machine.toNat_append_eq]
  simp only [BitVec.toNat_ofNat, BitVec.toNat_ofBool, BitVec.ofNat_eq_ofNat, Nat.reducePow, Nat.zero_mod]
  omega

/-! Fields taken out of a word that was put together from them. -/

theorem opOf_opWord (len : BitVec 2) (maj mn : Nat) (f : OpF) : opOf (opWord len maj mn f) = f := by
  have hw := opWord_toNat len maj mn f
  obtain ⟨d, a, b, g⟩ := f
  simp only [opOf, OpF.mk.injEq]
  refine ⟨?_, ?_, ?_, ?_⟩ <;> exact extractLsb'_eq_of_toNat (by rw [hw]; dsimp only; omega)

theorem memOf_memWord (len : BitVec 2) (mn : Nat) (f : MemF) : memOf (memWord len mn f) = f := by
  have hw := memWord_toNat len mn f
  obtain ⟨d, a, size, s, ofs⟩ := f
  have hs := s.toNat_lt
  simp only [memOf, MemF.mk.injEq]
  refine ⟨?_, ?_, ?_, getLsbD_eq_of_toNat (by rw [hw]; dsimp only; omega), ?_⟩ <;>
    exact extractLsb'_eq_of_toNat (by rw [hw]; dsimp only; omega)

theorem brOf_brWord (len : BitVec 2) (maj : Nat) (f : BrF) : brOf (brWord len maj f) = f := by
  have hw := brWord_toNat len maj f
  obtain ⟨g, n, ofs⟩ := f
  have hn := n.toNat_lt
  simp only [brOf, BrF.mk.injEq]
  refine ⟨?_, getLsbD_eq_of_toNat (by rw [hw]; dsimp only; omega), ?_⟩ <;>
    exact extractLsb'_eq_of_toNat (by rw [hw]; dsimp only; omega)

theorem extOf_extWords (len : BitVec 2) (maj mn : Nat) (f : ExtF) : extOf (extWord0 len maj f) (extWord1 mn f) f.x = f := by
  have hw0 := extWord0_toNat len maj f
  have hw1 := extWord1_toNat mn f
  obtain ⟨d, a, b, c, n, g, xb, cs, ca, cb, cd, route, mod, x⟩ := f
  have hn := n.toNat_lt
  have hxb := xb.toNat_lt
  have hcs := cs.toNat_lt
  have hca := ca.toNat_lt
  have hcb := cb.toNat_lt
  have hcd := cd.toNat_lt
  simp only [extOf, ExtF.mk.injEq, and_true]
  refine ⟨?d, ?a, ?b, ?c, ?n, ?g, ?xb, ?cs, ?ca, ?cb, ?cd, ?route, ?mod⟩
  case n | xb | cs | ca | cb | cd => exact getLsbD_eq_of_toNat (by rw [hw1]; dsimp only; omega)
  case c | g | route | mod => exact extractLsb'_eq_of_toNat (by rw [hw1]; dsimp only; omega)
  case d | a | b => exact extractLsb'_eq_of_toNat (by rw [hw0]; dsimp only; omega)

/-! Words put together from the fields taken out of them: no bit is dropped. -/

theorem opWord_opOf (w : Word) : opWord (w.extractLsb' 30 2) (w.extractLsb' 24 6).toNat (w.extractLsb' 3 3).toNat (opOf w) = w := by
  apply BitVec.eq_of_toNat_eq
  simp only [opWord_toNat, opOf, toNat_extractLsb'_eq]
  omega

theorem memWord_memOf (w : Word) (h : (w.extractLsb' 24 6).toNat = 15) :
    memWord (w.extractLsb' 30 2) (w.extractLsb' 9 3).toNat (memOf w) = w := by
  apply BitVec.eq_of_toNat_eq
  rw [toNat_extractLsb'_eq] at h
  simp only [memWord_toNat, memOf, toNat_extractLsb'_eq, toNat_getLsbD_eq]
  omega

theorem brWord_brOf (w : Word) : brWord (w.extractLsb' 30 2) (w.extractLsb' 24 6).toNat (brOf w) = w := by
  apply BitVec.eq_of_toNat_eq
  simp only [brWord_toNat, brOf, toNat_extractLsb'_eq, toNat_getLsbD_eq]
  omega

theorem extWord0_extOf (w0 w1 w2 : Word) : extWord0 (w0.extractLsb' 30 2) (w0.extractLsb' 24 6).toNat (extOf w0 w1 w2) = w0 := by
  apply BitVec.eq_of_toNat_eq
  simp only [extWord0_toNat, extOf, toNat_extractLsb'_eq]
  omega

/-- Bit [4] of the minor field is the one bit of an extended encoding that no field holds (R70). -/
theorem extWord1_extOf (w0 w1 w2 : Word) (h : w1.getLsbD 17 = false) : extWord1 (w1.extractLsb' 13 3).toNat (extOf w0 w1 w2) = w1 := by
  apply BitVec.eq_of_toNat_eq
  have h17 := toNat_getLsbD_eq w1 17
  rw [h] at h17
  simp only [extWord1_toNat, extOf, toNat_extractLsb'_eq, toNat_getLsbD_eq]
  simp only [Bool.toNat_false] at h17
  omega

/-! LEN, MAJ and the minor number of a word that was put together (R62, R70). -/

theorem opWord_len (len : BitVec 2) (maj mn : Nat) (f : OpF) : (opWord len maj mn f).extractLsb' 30 2 = len :=
  extractLsb'_eq_of_toNat (by rw [opWord_toNat]; omega)

theorem opWord_maj (len : BitVec 2) {maj : Nat} (h : maj < 64) (mn : Nat) (f : OpF) : ((opWord len maj mn f).extractLsb' 24 6).toNat = maj := by
  rw [toNat_extractLsb'_eq, opWord_toNat]; omega

theorem opWord_mn (len : BitVec 2) (maj : Nat) {mn : Nat} (h : mn < 8) (f : OpF) : ((opWord len maj mn f).extractLsb' 3 3).toNat = mn := by
  rw [toNat_extractLsb'_eq, opWord_toNat]; omega

theorem memWord_len (len : BitVec 2) (mn : Nat) (f : MemF) : (memWord len mn f).extractLsb' 30 2 = len := by
  have hs := f.s.toNat_lt
  exact extractLsb'_eq_of_toNat (by rw [memWord_toNat]; omega)

theorem memWord_maj (len : BitVec 2) (mn : Nat) (f : MemF) : ((memWord len mn f).extractLsb' 24 6).toNat = 15 := by
  have hs := f.s.toNat_lt
  rw [toNat_extractLsb'_eq, memWord_toNat]; omega

theorem memWord_mn (len : BitVec 2) {mn : Nat} (h : mn < 8) (f : MemF) : ((memWord len mn f).extractLsb' 9 3).toNat = mn := by
  have hs := f.s.toNat_lt
  rw [toNat_extractLsb'_eq, memWord_toNat]; omega

theorem brWord_len (len : BitVec 2) (maj : Nat) (f : BrF) : (brWord len maj f).extractLsb' 30 2 = len := by
  have hn := f.n.toNat_lt
  exact extractLsb'_eq_of_toNat (by rw [brWord_toNat]; omega)

theorem brWord_maj (len : BitVec 2) {maj : Nat} (h : maj < 64) (f : BrF) : ((brWord len maj f).extractLsb' 24 6).toNat = maj := by
  have hn := f.n.toNat_lt
  rw [toNat_extractLsb'_eq, brWord_toNat]; omega

theorem extWord0_len (len : BitVec 2) (maj : Nat) (f : ExtF) : (extWord0 len maj f).extractLsb' 30 2 = len :=
  extractLsb'_eq_of_toNat (by rw [extWord0_toNat]; omega)

theorem extWord0_maj (len : BitVec 2) {maj : Nat} (h : maj < 64) (f : ExtF) : ((extWord0 len maj f).extractLsb' 24 6).toNat = maj := by
  rw [toNat_extractLsb'_eq, extWord0_toNat]; omega

theorem extWord1_mn {mn : Nat} (h : mn < 8) (f : ExtF) : ((extWord1 mn f).extractLsb' 13 3).toNat = mn := by
  have hca := f.ca.toNat_lt
  have hcb := f.cb.toNat_lt
  have hcd := f.cd.toNat_lt
  rw [toNat_extractLsb'_eq, extWord1_toNat]; omega

theorem extWord1_bit17 (mn : Nat) (f : ExtF) : (extWord1 mn f).getLsbD 17 = false := by
  have hcs := f.cs.toNat_lt
  have hca := f.ca.toNat_lt
  have hcb := f.cb.toNat_lt
  have hcd := f.cd.toNat_lt
  exact getLsbD_eq_of_toNat (by rw [extWord1_toNat, Bool.toNat_false]; omega)

/-- Bit 31 of word 0 is the upper bit of LEN: set in the extended formats (R62). -/
theorem getLsbD_31_eq (w : Word) : w.getLsbD 31 = decide (2 ≤ (w.extractLsb' 30 2).toNat) := by
  have hw := w.isLt
  by_cases h : 2 ≤ (w.extractLsb' 30 2).toNat
  all_goals
    simp only [h, decide_true, decide_false]
    rw [toNat_extractLsb'_eq] at h
    exact getLsbD_eq_of_toNat (by simp only [Bool.toNat_true, Bool.toNat_false]; omega)

end Sys2Proof
end

section
/-! PROOFS. Decoding and encoding (04 R62, R83 to R86): the views that the opcode map assigns and the instruction of each, the raw words of a view and the
view of raw words, and the two round trips. -/

namespace Sys2Proof

/-! The rows of the opcode map (R83). -/

/-- The opcode map assigns the numbers of the view, in this layout. -/
def View.Assigned : View → Prop
  | .op maj mn _ | .opX maj mn _ => baseLayout maj = .op ∧ mn < minorCount maj ∧ usesC maj mn = false
  | .mem mn _ | .memX mn _ => mn < 5
  | .br maj _ | .brX maj _ => baseLayout maj = .br
  | .wide maj mn _ => (baseLayout maj = .none ∨ usesC maj mn = true) ∧ mn < minorCount maj
  | .hint _ | .hintLong _ | .illegal _ | .event => False

/-- Three kinds of encoding are of no row: hints and what is no instruction (R84, R86); an event has none. -/
def View.Unassigned : View → Prop
  | .hint _ | .hintLong _ | .illegal _ | .event => True
  | _ => False

/-- Every constructor of Instr has an assigned view, or is of no row. -/
theorem view_assigned (i : Instr) : i.view.Assigned ∨ i.view.Unassigned := by
  cases i
  case icmp c f => exact .inl ⟨rfl, c.isLt, rfl⟩
  case icmpX c f => exact .inl ⟨rfl, c.isLt, rfl⟩
  case clkLoRead f => cases f <;> exact .inl ⟨rfl, by decide, rfl⟩
  case thndWrite f => cases f <;> exact .inl ⟨rfl, by decide, rfl⟩
  all_goals first
    | exact .inr trivial
    | exact .inl ⟨rfl, by decide, rfl⟩
    | exact .inl ⟨.inl rfl, by decide⟩
    | exact .inl ⟨.inr rfl, by decide⟩
    | exact .inl (by decide : (_ : Nat) < 5)
    | exact .inl (rfl : baseLayout _ = .br)

/-- The view of a well-formed instruction, read back, is the instruction. -/
theorem view_instr? (i : Instr) : Laws.View.Statement i := by
  cases i
  case icmp c f => exact Laws.View.icmp c f
  case icmpX c f => exact Laws.View.icmpX c f
  case srd f => exact Laws.View.srd f
  case srdX f => exact Laws.View.srdX f
  case swr f => exact Laws.View.swr f
  case swrX f => exact Laws.View.swrX f
  case clkLoRead f => exact Laws.View.clkLoRead f
  case thndWrite f => exact Laws.View.thndWrite f
  case meet f => exact Laws.View.meet f
  case meetPop f => exact Laws.View.meetPop f
  case gnodeQ f => exact Laws.View.gnodeQ f
  case gnodeSig f => exact Laws.View.gnodeSig f
  case pswr f => exact Laws.View.pswr f
  case flkctlWrite f => exact Laws.View.flkctlWrite f
  all_goals
    intro _
    first | exact .inl rfl | exact .inr rfl

/-- An assigned view is that of a well-formed instruction. -/
def View.HasInstr (v : View) : Prop := ∃ i, v.instr? = some i ∧ i.view = v ∧ i.wf = true

theorem hasInstr_srd (f : OpF) : (View.op 0x07 4 f).HasInstr := by
  by_cases hb : f.b.toNat = 0x08
  · exact ⟨.clkLoRead (.base f), congrArg some (if_pos hb), rfl, beq_iff_eq.mpr hb⟩
  · exact ⟨.srd f, congrArg some (if_neg hb), rfl, bne_iff_ne.mpr hb⟩

theorem hasInstr_swr (f : OpF) : (View.op 0x07 5 f).HasInstr := by
  by_cases hb : f.b.toNat = 0x18
  · exact ⟨.thndWrite (.base f), congrArg some (if_pos hb), rfl, beq_iff_eq.mpr hb⟩
  · exact ⟨.swr f, congrArg some (if_neg hb), rfl, bne_iff_ne.mpr hb⟩

theorem hasInstr_srdX (f : XForm OpF) : (View.opX 0x07 4 f).HasInstr := by
  by_cases hb : f.bIndex = 0x08
  · exact ⟨.clkLoRead (.more f), congrArg some (if_pos hb), rfl, beq_iff_eq.mpr hb⟩
  · exact ⟨.srdX f, congrArg some (if_neg hb), rfl, bne_iff_ne.mpr hb⟩

theorem hasInstr_swrX (f : XForm OpF) : (View.opX 0x07 5 f).HasInstr := by
  by_cases hb : f.bIndex = 0x18
  · exact ⟨.thndWrite (.more f), congrArg some (if_pos hb), rfl, beq_iff_eq.mpr hb⟩
  · exact ⟨.swrX f, congrArg some (if_neg hb), rfl, bne_iff_ne.mpr hb⟩

theorem hasInstr_meet (f : EForm) : (View.wide 0x15 4 f).HasInstr := by
  by_cases hm : f.fields.mod.getLsbD 0 = true
  · exact ⟨.meetPop f, congrArg some (if_pos hm), rfl, hm⟩
  · exact ⟨.meet f, congrArg some (if_neg hm), rfl, by simpa [Instr.wf] using hm⟩

theorem hasInstr_gnode (f : EForm) : (View.wide 0x30 4 f).HasInstr := by
  by_cases hm : f.fields.mod.getLsbD 0 = true
  · exact ⟨.gnodeSig f, congrArg some (if_pos hm), rfl, hm⟩
  · exact ⟨.gnodeQ f, congrArg some (if_neg hm), rfl, by simpa [Instr.wf] using hm⟩

theorem hasInstr_pswr (f : EForm) : (View.wide 0x39 1 f).HasInstr := by
  by_cases hb : f.fields.b.toNat = 0x82
  · exact ⟨.flkctlWrite f, congrArg some (if_pos hb), rfl, beq_iff_eq.mpr hb⟩
  · exact ⟨.pswr f, congrArg some (if_neg hb), rfl, bne_iff_ne.mpr hb⟩

/-- The majors of the OP layout, and of the BR layout (R83). -/
theorem baseLayout_op_iff {maj : Nat} : baseLayout maj = .op ↔ maj ∈ Claims.opMajors := by
  unfold baseLayout
  split <;> simp_all [Claims.opMajors]

theorem baseLayout_br_iff {maj : Nat} : baseLayout maj = .br ↔ maj = 0x0C ∨ maj = 0x0D := by
  unfold baseLayout
  split <;> simp_all

theorem hasInstr_op {maj mn : Nat} (f : OpF) (h : (View.op maj mn f).Assigned) : (View.op maj mn f).HasInstr := by
  obtain ⟨hop, hmn, hc⟩ := h
  simp only [baseLayout_op_iff, Claims.opMajors, List.mem_cons, List.not_mem_nil, or_false] at hop
  rcases hop with rfl | rfl | rfl | rfl | rfl | rfl | rfl | rfl | rfl | rfl | rfl
  all_goals simp only [minorCount] at hmn; interval_cases mn
  all_goals first
    | exact Bool.noConfusion hc
    | exact ⟨_, rfl, rfl, rfl⟩
    | exact hasInstr_srd f
    | exact hasInstr_swr f

theorem hasInstr_opX {maj mn : Nat} (f : XForm OpF) (h : (View.opX maj mn f).Assigned) : (View.opX maj mn f).HasInstr := by
  obtain ⟨hop, hmn, hc⟩ := h
  simp only [baseLayout_op_iff, Claims.opMajors, List.mem_cons, List.not_mem_nil, or_false] at hop
  rcases hop with rfl | rfl | rfl | rfl | rfl | rfl | rfl | rfl | rfl | rfl | rfl
  all_goals simp only [minorCount] at hmn; interval_cases mn
  all_goals first
    | exact Bool.noConfusion hc
    | exact ⟨_, rfl, rfl, rfl⟩
    | exact hasInstr_srdX f
    | exact hasInstr_swrX f

/-- The majors with minor numbers but no base layout (R67, R83). -/
theorem mem_wideMajors {maj mn : Nat} (hb : baseLayout maj = .none) (hm : mn < minorCount maj) :
    maj ∈ [0x0B, 0x14, 0x15, 0x16, 0x17, 0x18, 0x19, 0x20, 0x21, 0x22, 0x23, 0x24, 0x25, 0x30, 0x38, 0x39] := by
  unfold minorCount at hm
  split at hm
  all_goals first | (simp [baseLayout] at hb; done) | decide | exact absurd hm (Nat.not_lt_zero mn)

theorem hasInstr_wide {maj mn : Nat} (f : EForm) (h : (View.wide maj mn f).Assigned) : (View.wide maj mn f).HasInstr := by
  obtain ⟨hb | hc, hmn⟩ := h
  case inl =>
    have hmaj := mem_wideMajors hb hmn
    simp only [List.mem_cons, List.not_mem_nil, or_false] at hmaj
    rcases hmaj with rfl | rfl | rfl | rfl | rfl | rfl | rfl | rfl | rfl | rfl | rfl | rfl | rfl | rfl | rfl | rfl
    all_goals simp only [minorCount] at hmn; interval_cases mn
    all_goals first
      | exact ⟨_, rfl, rfl, rfl⟩
      | exact hasInstr_meet f
      | exact hasInstr_gnode f
      | exact hasInstr_pswr f
  case inr =>
    simp only [usesC, Bool.or_eq_true, Bool.and_eq_true, beq_iff_eq] at hc
    obtain (((⟨rfl, rfl⟩ | ⟨rfl, rfl | rfl⟩) | ⟨rfl, rfl⟩) | ⟨rfl, rfl⟩) := hc <;> exact ⟨_, rfl, rfl, rfl⟩

/-- Every assigned view is that of a well-formed instruction. -/
theorem hasInstr_of_assigned {v : View} (h : v.Assigned) : v.HasInstr := by
  cases v with
  | op maj mn f => exact hasInstr_op f h
  | opX maj mn f => exact hasInstr_opX f h
  | mem mn f =>
    have hmn : mn < 5 := h
    interval_cases mn <;> exact ⟨_, rfl, rfl, rfl⟩
  | memX mn f =>
    have hmn : mn < 5 := h
    interval_cases mn <;> exact ⟨_, rfl, rfl, rfl⟩
  | br maj f => obtain rfl | rfl := baseLayout_br_iff.mp h <;> exact ⟨_, rfl, rfl, rfl⟩
  | brX maj f => obtain rfl | rfl := baseLayout_br_iff.mp h <;> exact ⟨_, rfl, rfl, rfl⟩
  | wide maj mn f => exact hasInstr_wide f h
  | hint _ | hintLong _ | illegal _ | event => exact h.elim

end Sys2Proof
end

section
/-! PROOFS. Decoding and encoding (04 R62, R83 to R86): raw words and their views, and the two round trips. -/

namespace Sys2Proof

theorem minorCount_of_lt {maj mn : Nat} (h : mn < minorCount maj) : maj < 64 ∧ maj ≠ 1 ∧ mn < 8 := by
  unfold minorCount at h
  split at h <;> omega

theorem baseLayout_mem_iff {maj : Nat} : baseLayout maj = .mem ↔ maj = 0x0F := by
  unfold baseLayout
  split <;> simp_all

theorem minorCount_br {maj : Nat} (h : baseLayout maj = .br) : minorCount maj = 1 := by
  obtain rfl | rfl := baseLayout_br_iff.mp h <;> rfl

theorem usesC_op {maj mn : Nat} (h : usesC maj mn = true) : baseLayout maj = .op := by
  simp only [usesC, Bool.or_eq_true, Bool.and_eq_true, beq_iff_eq] at h
  obtain (((⟨rfl, _⟩ | ⟨rfl, _⟩) | ⟨rfl, _⟩) | ⟨rfl, _⟩) := h <;> rfl

/-! A literal and its two words. -/

@[simp] theorem litOf_lo_hi (l : DWord) : litOf (loWord l) (hiWord l) = l := ofWords_hi_lo l

@[simp] theorem loWord_litOf (lo hi : Word) : loWord (litOf lo hi) = lo := BitVec.extractLsb'_append_eq_right

@[simp] theorem hiWord_litOf (lo hi : Word) : hiWord (litOf lo hi) = hi := BitVec.extractLsb'_append_eq_left

/-! Raw words in base form (R62, R69) and in extended form (R62, R70, R74). -/

/-- One word, or three with a literal. -/
def baseRaw (w : Word) : Option DWord → RawWords
  | none => .one w
  | some l => .three w (loWord l) (hiWord l)

/-- LEN of a base form. -/
def baseLen : Option DWord → BitVec 2
  | none => 0
  | some _ => 1

@[simp] theorem baseRaw_first (w : Word) (lit : Option DWord) : (baseRaw w lit).first = w := by cases lit <;> rfl

/-- The words of the literal, which end the encoding. -/
def litWords : Option DWord → List Word
  | none => []
  | some l => [loWord l, hiWord l]

@[simp] theorem baseRaw_words (w : Word) (lit : Option DWord) : (baseRaw w lit).words = w :: litWords lit := by cases lit <;> rfl

/-- Three words, or five with a literal. -/
def extRaw (w0 w1 w2 : Word) : Option DWord → RawWords
  | none => .three w0 w1 w2
  | some l => .five w0 w1 w2 (loWord l) (hiWord l)

/-- LEN of an extended form. -/
def extLen : Option DWord → BitVec 2
  | none => 2
  | some _ => 3

@[simp] theorem extRaw_first (w0 w1 w2 : Word) (lit : Option DWord) : (extRaw w0 w1 w2 lit).first = w0 := by cases lit <;> rfl

@[simp] theorem extRaw_words (w0 w1 w2 : Word) (lit : Option DWord) : (extRaw w0 w1 w2 lit).words = w0 :: w1 :: w2 :: litWords lit := by
  cases lit <;> rfl

theorem getLsbD_31_base {w : Word} {lit : Option DWord} (h : w.extractLsb' 30 2 = baseLen lit) : w.getLsbD 31 = false := by
  rw [getLsbD_31_eq, h]
  cases lit <;> rfl

theorem getLsbD_31_ext {w : Word} {lit : Option DWord} (h : w.extractLsb' 30 2 = extLen lit) : w.getLsbD 31 = true := by
  rw [getLsbD_31_eq, h]
  cases lit <;> rfl

theorem baseRaw_lenOk {w : Word} {lit : Option DWord} (h : w.extractLsb' 30 2 = baseLen lit) : (baseRaw w lit).lenOk = true := by
  cases lit with
  | none => exact beq_iff_eq.mpr h
  | some l => exact Bool.or_eq_true_iff.mpr (.inl (beq_iff_eq.mpr h))

theorem extRaw_lenOk {w0 w1 w2 : Word} {lit : Option DWord} (h : w0.extractLsb' 30 2 = extLen lit) :
    (extRaw w0 w1 w2 lit).lenOk = true := by
  cases lit with
  | none => exact Bool.or_eq_true_iff.mpr (.inr (beq_iff_eq.mpr h))
  | some l => exact beq_iff_eq.mpr h

/-- Raw words that keep LEN are of one of the two forms. -/
theorem raw_forms {r : RawWords} (h : r.lenOk = true) :
    (∃ w lit, w.extractLsb' 30 2 = baseLen lit ∧ r = baseRaw w lit) ∨
      ∃ w0 w1 w2 lit, w0.extractLsb' 30 2 = extLen lit ∧ r = extRaw w0 w1 w2 lit := by
  cases r with
  | one w => exact .inl ⟨w, none, beq_iff_eq.mp h, rfl⟩
  | three w0 w1 w2 =>
    obtain h | h := Bool.or_eq_true_iff.mp h
    · exact .inl ⟨w0, some (litOf w1 w2), beq_iff_eq.mp h, by simp [baseRaw]⟩
    · exact .inr ⟨w0, w1, w2, none, beq_iff_eq.mp h, rfl⟩
  | five w0 w1 w2 w3 w4 => exact .inr ⟨w0, w1, w2, some (litOf w3 w4), beq_iff_eq.mp h, by simp [extRaw]⟩

theorem baseRaw_view {w : Word} {lit : Option DWord} (h : w.extractLsb' 30 2 = baseLen lit) : (baseRaw w lit).view = baseView w lit := by
  cases lit with
  | none => rfl
  | some l => simp only [baseRaw, RawWords.view, getLsbD_31_base h, Bool.false_eq_true, if_false, litOf_lo_hi]

theorem extRaw_view {w0 w1 w2 : Word} {lit : Option DWord} (h : w0.extractLsb' 30 2 = extLen lit) :
    (extRaw w0 w1 w2 lit).view =
      longView (w0.extractLsb' 24 6).toNat (w1.extractLsb' 13 3).toNat (extOf w0 w1 w2) lit := by
  cases lit with
  | none => simp only [extRaw, RawWords.view, getLsbD_31_ext h, if_true, RawWords.maj, RawWords.first]
  | some l => simp only [extRaw, RawWords.view, RawWords.maj, RawWords.first, litOf_lo_hi]

/-- A word in base form of which the layout has none of the numbers (R67, R85). -/
def noBaseForm (w : Word) : Bool :=
  let maj := (w.extractLsb' 24 6).toNat
  let mn := (w.extractLsb' 3 3).toNat
  match baseLayout maj with
  | .none => true
  | .br => false
  | .op => decide (minorCount maj ≤ mn) || usesC maj mn
  | .mem => decide (minorCount maj ≤ (w.extractLsb' 9 3).toNat)

theorem illegal_one (w : Word) : (RawWords.one w).illegal =
    ((w.extractLsb' 24 6).toNat != 1 && (minorCount (w.extractLsb' 24 6).toNat == 0 || noBaseForm w)) := rfl

theorem illegal_three (w0 w1 w2 : Word) : (RawWords.three w0 w1 w2).illegal =
    ((w0.extractLsb' 24 6).toNat != 1 && (minorCount (w0.extractLsb' 24 6).toNat == 0 ||
      if w0.getLsbD 31 then w1.getLsbD 17 || decide (minorCount (w0.extractLsb' 24 6).toNat ≤ (w1.extractLsb' 13 3).toNat)
      else noBaseForm w0)) := rfl

theorem illegal_five (w0 w1 w2 w3 w4 : Word) : (RawWords.five w0 w1 w2 w3 w4).illegal =
    ((w0.extractLsb' 24 6).toNat != 1 && (minorCount (w0.extractLsb' 24 6).toNat == 0 ||
      (w1.getLsbD 17 || decide (minorCount (w0.extractLsb' 24 6).toNat ≤ (w1.extractLsb' 13 3).toNat)))) := rfl

/-- The view of a word in base form is assigned when its layout has its numbers. -/
theorem baseView_assigned_iff (w : Word) (lit : Option DWord) :
    (baseView w lit).Assigned ↔ minorCount (w.extractLsb' 24 6).toNat ≠ 0 ∧ noBaseForm w = false := by
  generalize hmaj : (w.extractLsb' 24 6).toNat = maj
  simp only [baseView, noBaseForm, hmaj]
  cases hb : baseLayout maj with
  | none => cases lit <;> simp [View.Assigned]
  | br =>
    cases lit <;> simp [View.Assigned, hb, minorCount_br hb]
  | op =>
    have hlt {n : Nat} (h : n < minorCount maj) : minorCount maj ≠ 0 := by omega
    cases lit <;> simp only [View.Assigned, hb, true_and, Bool.or_eq_false_iff, decide_eq_false_iff_not, Nat.not_le] <;>
      exact ⟨fun h => ⟨hlt h.1, h⟩, And.right⟩
  | mem =>
    obtain rfl := baseLayout_mem_iff.mp hb
    cases lit <;> simp [View.Assigned, show minorCount 15 = 5 from rfl]

theorem baseRaw_legal_iff {w : Word} {lit : Option DWord} (h : w.extractLsb' 30 2 = baseLen lit) (h1 : (w.extractLsb' 24 6).toNat ≠ 1) :
    (baseRaw w lit).illegal = false ↔ (baseView w lit).Assigned := by
  rw [baseView_assigned_iff]
  cases lit <;> simp only [baseRaw, illegal_one, illegal_three, getLsbD_31_base h, Bool.false_eq_true, if_false, bne_iff_ne.mpr h1,
    Bool.true_and, Bool.or_eq_false_iff, beq_eq_false_iff_ne]

/-- A long view is assigned when its minor number is (R83). -/
theorem longView_assigned_iff (maj mn : Nat) (f : ExtF) (lit : Option DWord) :
    (longView maj mn f lit).Assigned ↔ mn < minorCount maj := by
  unfold longView
  cases hb : baseLayout maj with
  | op =>
    cases hc : usesC maj mn <;> simp [View.Assigned, hb, hc]
  | mem => simp [View.Assigned, baseLayout_mem_iff.mp hb, minorCount]
  | br =>
    by_cases h0 : mn = 0 <;> simp [View.Assigned, h0, hb, minorCount_br hb]
  | none => simp [View.Assigned, hb]

theorem extRaw_legal_iff {w0 w1 w2 : Word} {lit : Option DWord} (h : w0.extractLsb' 30 2 = extLen lit)
    (h1 : (w0.extractLsb' 24 6).toNat ≠ 1) : (extRaw w0 w1 w2 lit).illegal = false ↔
      w1.getLsbD 17 = false ∧ (w1.extractLsb' 13 3).toNat < minorCount (w0.extractLsb' 24 6).toNat := by
  have hlt (h : (w1.extractLsb' 13 3).toNat < minorCount (w0.extractLsb' 24 6).toNat) : minorCount (w0.extractLsb' 24 6).toNat ≠ 0 := by omega
  cases lit <;> simp only [extRaw, illegal_three, illegal_five, getLsbD_31_ext h, if_true, bne_iff_ne.mpr h1, Bool.true_and,
    Bool.or_eq_false_iff, beq_eq_false_iff_ne, decide_eq_false_iff_not, Nat.not_le] <;>
    exact ⟨And.right, fun h => ⟨hlt h.2, h⟩⟩

/-! The words of a view. -/

theorem baseView_words {w : Word} {lit : Option DWord} (h : w.extractLsb' 30 2 = baseLen lit) (ha : (baseView w lit).Assigned) :
    (baseView w lit).words = w :: litWords lit := by
  have hop := opWord_opOf w
  have hmem := memWord_memOf w
  have hbr := brWord_brOf w
  rw [h] at hop hmem hbr
  revert ha
  simp only [baseView]
  cases hb : baseLayout (w.extractLsb' 24 6).toNat with
  | op => cases lit <;> exact fun _ => congrArg (· :: _) hop
  | mem => cases lit <;> exact fun _ => congrArg (· :: _) (hmem (baseLayout_mem_iff.mp hb))
  | br => cases lit <;> exact fun _ => congrArg (· :: _) hbr
  | none => cases lit <;> exact False.elim

/-- The words of a long form (R70, R74). -/
def longWords (maj mn : Nat) (f : ExtF) (lit : Option DWord) : List Word :=
  extWord0 (extLen lit) maj f :: extWord1 mn f :: f.x :: litWords lit

theorem longView_words {maj mn : Nat} (f : ExtF) (lit : Option DWord) (ha : (longView maj mn f lit).Assigned) :
    (longView maj mn f lit).words = longWords maj mn f lit := by
  revert ha
  unfold longView
  cases hb : baseLayout maj with
  | op => cases hc : usesC maj mn <;> cases lit <;> exact fun _ => rfl
  | mem => obtain rfl := baseLayout_mem_iff.mp hb; cases lit <;> exact fun _ => rfl
  | br =>
    by_cases h0 : mn = 0
    · subst h0; cases lit <;> exact fun _ => rfl
    · simp [h0, View.Assigned]
  | none => cases lit <;> exact fun _ => rfl

/-! Raw words of a view. -/

/-- Raw words that keep LEN, are an instruction outside the hint space, and have the view `v`, of which they are the words. -/
structure Encodes (r : RawWords) (v : View) : Prop where
  lenOk : r.lenOk = true
  legal : r.illegal = false
  maj : r.maj ≠ 1
  view : r.view = v
  words : v.words = r.words

theorem encodes_base {w : Word} {lit : Option DWord} (h : w.extractLsb' 30 2 = baseLen lit) (h1 : (w.extractLsb' 24 6).toNat ≠ 1)
    (ha : (baseView w lit).Assigned) : Encodes (baseRaw w lit) (baseView w lit) where
  lenOk := baseRaw_lenOk h
  legal := (baseRaw_legal_iff h h1).mpr ha
  maj := by rwa [RawWords.maj, baseRaw_first]
  view := baseRaw_view h
  words := by rw [baseView_words h ha, baseRaw_words]

theorem encodes_long {w0 w1 w2 : Word} {lit : Option DWord} (h : w0.extractLsb' 30 2 = extLen lit)
    (h1 : (w0.extractLsb' 24 6).toNat ≠ 1) (h17 : w1.getLsbD 17 = false)
    (ha : (longView (w0.extractLsb' 24 6).toNat (w1.extractLsb' 13 3).toNat (extOf w0 w1 w2) lit).Assigned) :
    Encodes (extRaw w0 w1 w2 lit) (longView (w0.extractLsb' 24 6).toNat (w1.extractLsb' 13 3).toNat (extOf w0 w1 w2) lit) where
  lenOk := extRaw_lenOk h
  legal := (extRaw_legal_iff h h1).mpr ⟨h17, (longView_assigned_iff _ _ _ _).mp ha⟩
  maj := by rwa [RawWords.maj, extRaw_first]
  view := extRaw_view h
  words := by
    rw [longView_words _ _ ha, longWords, ← h, extWord0_extOf, extWord1_extOf w0 w1 w2 h17, extRaw_words]
    rfl

/-- Legal raw words have an assigned view, and are its words. -/
theorem encodes_view {r : RawWords} (hlen : r.lenOk = true) (hill : r.illegal = false) (h1 : r.maj ≠ 1) :
    r.view.Assigned ∧ Encodes r r.view := by
  obtain ⟨w, lit, h, rfl⟩ | ⟨w0, w1, w2, lit, h, rfl⟩ := raw_forms hlen
  · rw [RawWords.maj, baseRaw_first] at h1
    have ha := (baseRaw_legal_iff h h1).mp hill
    rw [baseRaw_view h]
    exact ⟨ha, encodes_base h h1 ha⟩
  · rw [RawWords.maj, extRaw_first] at h1
    obtain ⟨h17, hmn⟩ := (extRaw_legal_iff h h1).mp hill
    have ha := (longView_assigned_iff (w0.extractLsb' 24 6).toNat (w1.extractLsb' 13 3).toNat (extOf w0 w1 w2) lit).mpr hmn
    rw [extRaw_view h]
    exact ⟨ha, encodes_long h h1 h17 ha⟩

theorem longView_op {maj mn : Nat} (hop : baseLayout maj = .op) (hc : usesC maj mn = false) (f : ExtF) (lit : Option DWord) :
    longView maj mn f lit = .opX maj mn (lit.elim (.ext f) (.extLit f)) := by
  cases lit <;> simp only [longView, hop, hc, Bool.false_eq_true, if_false, Option.elim_none, Option.elim_some]

theorem longView_br {maj : Nat} (hbr : baseLayout maj = .br) (f : ExtF) (lit : Option DWord) :
    longView maj 0 f lit = .brX maj (lit.elim (.ext f) (.extLit f)) := by
  cases lit <;> simp only [longView, hbr, if_true, Option.elim_none, Option.elim_some]

theorem longView_wide {maj mn : Nat} (hw : baseLayout maj = .none ∨ usesC maj mn = true) (f : ExtF) (lit : Option DWord) :
    longView maj mn f lit = .wide maj mn (lit.elim (.ext f) (.extLit f)) := by
  obtain hb | hc := hw
  · cases lit <;> simp only [longView, hb, Option.elim_none, Option.elim_some]
  · cases lit <;> simp only [longView, usesC_op hc, hc, if_true, Option.elim_none, Option.elim_some]

/-- The raw words of a form of more than one word, when they are its words (R62). -/
theorem encodes_ext {maj mn : Nat} (hmn : mn < minorCount maj) (f : ExtF) (lit : Option DWord) {v : View} (hv : longView maj mn f lit = v) :
    ∃ r, Encodes r v := by
  obtain ⟨h64, h1, h8⟩ := minorCount_of_lt hmn
  have e := encodes_long (w0 := extWord0 (extLen lit) maj f) (w1 := extWord1 mn f) (w2 := f.x) (lit := lit) (extWord0_len _ _ _)
    (by rwa [extWord0_maj _ h64]) (extWord1_bit17 mn f)
  rw [extWord0_maj _ h64, extWord1_mn h8, extOf_extWords, hv] at e
  exact ⟨_, e (hv ▸ (longView_assigned_iff maj mn f lit).mpr hmn)⟩

/-- The same for a form with a base layout, from its word 0. -/
theorem encodes_word {w : Word} {lit : Option DWord} {maj : Nat} (hlen : w.extractLsb' 30 2 = baseLen lit)
    (hmaj : (w.extractLsb' 24 6).toNat = maj) (h1 : maj ≠ 1) {v : View} (hv : baseView w lit = v) (ha : v.Assigned) : ∃ r, Encodes r v := by
  subst hmaj hv
  exact ⟨_, encodes_base hlen h1 ha⟩

theorem baseView_opWord (lit : Option DWord) {maj mn : Nat} (hop : baseLayout maj = .op) (h64 : maj < 64) (h8 : mn < 8) (f : OpF) :
    baseView (opWord (baseLen lit) maj mn f) lit = lit.elim (.op maj mn f) (fun l => .opX maj mn (.lit f l)) := by
  cases lit <;> simp only [baseView, opWord_maj _ h64, opWord_mn _ _ h8, opOf_opWord, hop, Option.elim_none, Option.elim_some]

theorem baseView_memWord (lit : Option DWord) {mn : Nat} (h8 : mn < 8) (f : MemF) :
    baseView (memWord (baseLen lit) mn f) lit = lit.elim (.mem mn f) (fun l => .memX mn (.lit f l)) := by
  cases lit <;> simp only [baseView, memWord_maj, memWord_mn _ h8, memOf_memWord, show baseLayout 15 = .mem from rfl, Option.elim_none, Option.elim_some]

theorem baseView_brWord (lit : Option DWord) {maj : Nat} (hbr : baseLayout maj = .br) (h64 : maj < 64) (f : BrF) :
    baseView (brWord (baseLen lit) maj f) lit = lit.elim (.br maj f) (fun l => .brX maj (.lit f l)) := by
  cases lit <;> simp only [baseView, brWord_maj _ h64, brOf_brWord, hbr, Option.elim_none, Option.elim_some]

/-- Every assigned view has raw words. -/
theorem encodes_of_assigned {v : View} (h : v.Assigned) : ∃ r, Encodes r v := by
  cases v with
  | op maj mn f =>
    obtain ⟨h64, h1, h8⟩ := minorCount_of_lt h.2.1
    exact encodes_word (opWord_len 0 maj mn f) (opWord_maj _ h64 mn f) h1 (baseView_opWord none h.1 h64 h8 f) h
  | opX maj mn g =>
    obtain ⟨hop, hmn, hc⟩ := h
    obtain ⟨h64, h1, h8⟩ := minorCount_of_lt hmn
    cases g with
    | lit f l => exact encodes_word (opWord_len 1 maj mn f) (opWord_maj _ h64 mn f) h1 (baseView_opWord (some l) hop h64 h8 f) ⟨hop, hmn, hc⟩
    | ext f => exact encodes_ext hmn f none (longView_op hop hc f none)
    | extLit f l => exact encodes_ext hmn f (some l) (longView_op hop hc f (some l))
  | mem mn f =>
    have hmn : mn < 5 := h
    exact encodes_word (memWord_len 0 mn f) (memWord_maj _ mn f) (by decide) (baseView_memWord none (by omega) f) h
  | memX mn g =>
    have hmn : mn < minorCount 0x0F := h
    cases g with
    | lit f l => exact encodes_word (memWord_len 1 mn f) (memWord_maj _ mn f) (by decide) (baseView_memWord (some l) (minorCount_of_lt hmn).2.2 f) h
    | ext f => exact encodes_ext hmn f none rfl
    | extLit f l => exact encodes_ext hmn f (some l) rfl
  | br maj f =>
    have hbr : baseLayout maj = .br := h
    obtain ⟨h64, h1, _⟩ := minorCount_of_lt (mn := 0) (minorCount_br hbr ▸ Nat.one_pos)
    exact encodes_word (brWord_len 0 maj f) (brWord_maj _ h64 f) h1 (baseView_brWord none hbr h64 f) h
  | brX maj g =>
    have hbr : baseLayout maj = .br := h
    have hmn : 0 < minorCount maj := minorCount_br hbr ▸ Nat.one_pos
    obtain ⟨h64, h1, _⟩ := minorCount_of_lt hmn
    cases g with
    | lit f l => exact encodes_word (brWord_len 1 maj f) (brWord_maj _ h64 f) h1 (baseView_brWord (some l) hbr h64 f) h
    | ext f => exact encodes_ext hmn f none (longView_br hbr f none)
    | extLit f l => exact encodes_ext hmn f (some l) (longView_br hbr f (some l))
  | wide maj mn g =>
    obtain ⟨hw, hmn⟩ := h
    cases g with
    | lit e _ => exact e.elim
    | ext f => exact encodes_ext hmn f none (longView_wide hw f none)
    | extLit f l => exact encodes_ext hmn f (some l) (longView_wide hw f (some l))
  | hint _ | hintLong _ | illegal _ | event => exact h.elim

/-! Lists of words (R62). -/

theorem len_cases : ∀ l : BitVec 2, l = 0 ∨ l = 1 ∨ l = 2 ∨ l = 3 := by decide

theorem wordsOf_eq {w : Word} {l : BitVec 2} (h : w.extractLsb' 30 2 = l) : wordsOf w = [1, 3, 3, 5].getD l.toNat 0 := by
  rw [wordsOf, h]
  obtain rfl | rfl | rfl | rfl := len_cases l <;> rfl

theorem lenWords_eq (w : Word) : Claims.lenWords w = wordsOf w := (wordsOf_eq rfl).symm

theorem wordsOf_first {r : RawWords} (h : r.lenOk = true) : wordsOf r.first = r.words.length := by
  obtain ⟨w, lit, hl, rfl⟩ | ⟨w0, w1, w2, lit, hl, rfl⟩ := raw_forms h
  · cases lit with
    | none => exact wordsOf_eq (l := 0) hl
    | some l => exact wordsOf_eq (l := 1) hl
  · cases lit with
    | none => exact wordsOf_eq (l := 2) hl
    | some l => exact wordsOf_eq (l := 3) hl

theorem rawOf_words {r : RawWords} (h : r.lenOk = true) (rest : List Word) : rawOf (r.words ++ rest) = .ok (r, rest) := by
  cases r with
  | one w =>
    have hw : wordsOf w = 1 := wordsOf_first (r := .one w) h
    simp only [RawWords.words, List.cons_append, List.nil_append, rawOf, hw]
  | three w0 w1 w2 =>
    have hw : wordsOf w0 = 3 := wordsOf_first (r := .three w0 w1 w2) h
    simp only [RawWords.words, List.cons_append, List.nil_append, rawOf, hw]
  | five w0 w1 w2 w3 w4 =>
    have hw : wordsOf w0 = 5 := wordsOf_first (r := .five w0 w1 w2 w3 w4) h
    simp only [RawWords.words, List.cons_append, List.nil_append, rawOf, hw]

theorem decodeWords_words {r : RawWords} (h : r.lenOk = true) (rest : List Word) : decodeWords (r.words ++ rest) = .ok (decodeRaw r, rest) := by
  rw [decodeWords, rawOf_words h]

theorem rawOf_truncated {w : Word} {ws : List Word} (h : ws.length + 1 < wordsOf w) : rawOf (w :: ws) = .error .truncated := by
  have hw : wordsOf w = 1 ∨ wordsOf w = 3 ∨ wordsOf w = 5 := by
    obtain hl | hl | hl | hl := len_cases (w.extractLsb' 30 2) <;> simp [wordsOf_eq hl]
  obtain hw | hw | hw := hw <;> rw [hw] at h <;> simp only [rawOf, hw]
  · omega
  all_goals
    rcases ws with _ | ⟨_, _ | ⟨_, _ | ⟨_, _ | ⟨_, _⟩⟩⟩⟩ <;> first | rfl | exact absurd h (by simp only [List.length_cons]; omega)

/-- A list that is long enough begins with raw words (R62). -/
theorem exists_raw {w : Word} {ws : List Word} (h : wordsOf w ≤ ws.length + 1) :
    ∃ (r : RawWords) (rest : List Word), r.lenOk = true ∧ r.words ++ rest = w :: ws := by
  have three (hl : w.extractLsb' 30 2 = 1 ∨ w.extractLsb' 30 2 = 2) : ∃ (r : RawWords) (rest : List Word), r.lenOk = true ∧ r.words ++ rest = w :: ws := by
    have hw : wordsOf w = 3 := by obtain hl | hl := hl <;> exact wordsOf_eq hl
    match ws, h with
    | [], h | [_], h => simp [hw] at h
    | w1 :: w2 :: rest, _ => exact ⟨.three w w1 w2, rest, by simpa [RawWords.lenOk] using hl, rfl⟩
  obtain hl | hl | hl | hl := len_cases (w.extractLsb' 30 2)
  · exact ⟨.one w, ws, beq_iff_eq.mpr hl, rfl⟩
  · exact three (.inl hl)
  · exact three (.inr hl)
  · have hw : wordsOf w = 5 := wordsOf_eq hl
    match ws, h with
    | [], h | [_], h | [_, _], h | [_, _, _], h => simp [hw] at h
    | w1 :: w2 :: w3 :: w4 :: rest, _ => exact ⟨.five w w1 w2 w3 w4, rest, beq_iff_eq.mpr hl, rfl⟩

/-! The instruction of raw words (R84 to R86). -/

/-- The hint space: the instruction holds every bit that is not MAJ or LEN (R84). -/
theorem hint_word {w : Word} (hlen : w.extractLsb' 30 2 = 0) (hmaj : (w.extractLsb' 24 6).toNat = 1) : 0x01#8 ++ w.extractLsb' 0 24 = w := by
  have hlen := congrArg BitVec.toNat hlen
  rw [toNat_extractLsb'_eq] at hlen hmaj
  apply BitVec.eq_of_toNat_eq
  rw [Machine.toNat_append_eq, toNat_extractLsb'_eq]
  simp only [BitVec.ofNat_eq_ofNat, BitVec.toNat_ofNat, Nat.zero_mod] at hlen ⊢
  omega

theorem decodeRaw_hint {r : RawWords} (hlen : r.lenOk = true) (h1 : r.maj = 1) :
    (decodeRaw r).wf = true ∧ encode (decodeRaw r) = r.words ∧ ∀ r', decodeRaw r ≠ .illegalOpcode r' := by
  cases r with
  | one w =>
    have hd : decodeRaw (.one w) = .hint (w.extractLsb' 0 24) := if_pos h1
    rw [hd]
    exact ⟨rfl, congrArg (fun w => [w]) (hint_word (beq_iff_eq.mp hlen) h1), nofun⟩
  | three w0 w1 w2 =>
    have hd : decodeRaw (.three w0 w1 w2) = .hintLong (.three w0 w1 w2) := if_pos h1
    rw [hd]
    exact ⟨by simp [Instr.wf, hlen, h1], rfl, nofun⟩
  | five w0 w1 w2 w3 w4 =>
    have hd : decodeRaw (.five w0 w1 w2 w3 w4) = .hintLong (.five w0 w1 w2 w3 w4) := if_pos h1
    rw [hd]
    exact ⟨by simp [Instr.wf, hlen, h1], rfl, nofun⟩

theorem maj_of_illegal {r : RawWords} (h : r.illegal = true) : r.maj ≠ 1 := by
  unfold RawWords.illegal at h
  simp only [Bool.and_eq_true, bne_iff_ne] at h
  exact h.1

theorem decodeRaw_illegal {r : RawWords} (h : r.illegal = true) : decodeRaw r = .illegalOpcode r :=
  (if_neg (maj_of_illegal h)).trans (if_pos h)

theorem decodeRaw_of_encodes {r : RawWords} {v : View} (e : Encodes r v) {i : Instr} (hi : v.instr? = some i) : decodeRaw r = i := by
  have hd : decodeRaw r = r.view.instr?.getD (.illegalOpcode r) := (if_neg e.maj).trans (if_neg (by simp [e.legal]))
  rw [hd, e.view, hi, Option.getD_some]

/-- The instruction of raw words is well formed and stands for exactly these words; it is ILLEGAL_OPCODE where they are no instruction. -/
theorem decodeRaw_spec {r : RawWords} (hlen : r.lenOk = true) : (decodeRaw r).wf = true ∧ encode (decodeRaw r) = r.words ∧
    ((∃ r', decodeRaw r = .illegalOpcode r') ↔ r.illegal = true) := by
  by_cases hill : r.illegal = true
  · rw [decodeRaw_illegal hill]
    exact ⟨by simp [Instr.wf, hlen, hill], rfl, fun _ => hill, fun _ => ⟨r, rfl⟩⟩
  by_cases h1 : r.maj = 1
  · obtain ⟨hwf, henc, hne⟩ := decodeRaw_hint hlen h1
    exact ⟨hwf, henc, fun ⟨r', h⟩ => absurd h (hne r'), fun h => absurd h hill⟩
  obtain ⟨ha, e⟩ := encodes_view hlen (Bool.not_eq_true _ ▸ hill) h1
  obtain ⟨i, hi, hview, hwf⟩ := hasInstr_of_assigned ha
  rw [decodeRaw_of_encodes e hi]
  refine ⟨hwf, by rw [encode, hview, e.words], fun ⟨r', h⟩ => ?_, fun h => absurd h hill⟩
  rw [← hview, h] at ha
  exact ha.elim

/-! R85's own words for an instruction. -/

theorem exists_opcodeMap_iff {maj k : Nat} : (∃ n, (maj, n) ∈ Claims.opcodeMap ∧ k < n) ↔ k < minorCount maj := by
  have hcount : ∀ e ∈ Claims.opcodeMap, e.2 = minorCount e.1 := by decide
  constructor
  · rintro ⟨n, hn, hk⟩
    exact hcount _ hn ▸ hk
  · intro hk
    refine ⟨minorCount maj, ?_, hk⟩
    unfold minorCount at hk ⊢
    split at hk <;> first | decide | exact absurd hk (Nat.not_lt_zero k)

theorem mem_noBase_iff {maj mn : Nat} : (maj, mn) ∈ Claims.noBase ↔ usesC maj mn = true := by
  simp only [Claims.noBase, List.mem_cons, List.not_mem_nil, or_false, Prod.mk.injEq, usesC, Bool.or_eq_true, Bool.and_eq_true, beq_iff_eq]
  tauto

/-- The base forms of R85. -/
theorem baseForm_iff (w : Word) : (minorCount (w.extractLsb' 24 6).toNat ≠ 0 ∧ noBaseForm w = false) ↔
    (((w.extractLsb' 24 6).toNat ∈ Claims.opMajors ∧ ((w.extractLsb' 24 6).toNat, (w.extractLsb' 3 3).toNat) ∉ Claims.noBase ∧
        ∃ n, ((w.extractLsb' 24 6).toNat, n) ∈ Claims.opcodeMap ∧ (w.extractLsb' 3 3).toNat < n) ∨
      (w.extractLsb' 24 6).toNat = 0x0C ∨ (w.extractLsb' 24 6).toNat = 0x0D ∨
        ((w.extractLsb' 24 6).toNat = 0x0F ∧ (w.extractLsb' 9 3).toNat < 5)) := by
  rw [exists_opcodeMap_iff, mem_noBase_iff, ← baseLayout_op_iff, ← or_assoc (a := _ = 12), ← baseLayout_br_iff, ← baseLayout_mem_iff]
  simp only [noBaseForm]
  generalize (w.extractLsb' 24 6).toNat = maj
  cases hb : baseLayout maj with
  | none => simp
  | br => simp [minorCount_br hb]
  | op =>
    have hlt : (w.extractLsb' 3 3).toNat < minorCount maj → minorCount maj ≠ 0 := by omega
    simp only [Bool.or_eq_false_iff, decide_eq_false_iff_not, Nat.not_le, true_and, Bool.not_eq_true, reduceCtorEq, false_and, or_false]
    tauto
  | mem => simp [baseLayout_mem_iff.mp hb, show minorCount 15 = 5 from rfl]

/-- Raw words are an instruction where R85 finds one in their first two. -/
theorem legal_iff_isInstruction {r : RawWords} (hlen : r.lenOk = true) {w : Word} {ws rest : List Word} (hw : r.words ++ rest = w :: ws) :
    r.illegal = false ↔ Claims.isInstruction w (ws.headD 0) := by
  obtain ⟨w, lit, hl, rfl⟩ | ⟨w0, w1, w2, lit, hl, rfl⟩ := raw_forms hlen
  · rw [baseRaw_words, List.cons_append, List.cons.injEq] at hw
    obtain ⟨rfl, -⟩ := hw
    by_cases h1 : (w.extractLsb' 24 6).toNat = 1
    · exact ⟨fun _ => .inl h1, fun _ => by cases lit <;> simp [baseRaw, illegal_one, illegal_three, h1]⟩
    · rw [baseRaw_legal_iff hl h1, baseView_assigned_iff, baseForm_iff]
      simp only [Claims.isInstruction, h1, getLsbD_31_base hl, false_or, true_and, Bool.false_eq_true, false_and, or_false]
  · rw [extRaw_words, List.cons_append, List.cons.injEq] at hw
    obtain ⟨rfl, rfl⟩ := hw
    by_cases h1 : (w0.extractLsb' 24 6).toNat = 1
    · exact ⟨fun _ => .inl h1, fun _ => by cases lit <;> simp [extRaw, illegal_three, illegal_five, h1]⟩
    · rw [extRaw_legal_iff hl h1, ← exists_opcodeMap_iff]
      simp only [Claims.isInstruction, h1, getLsbD_31_ext hl, false_or, true_and, Bool.true_eq_false, false_and, List.cons_append,
        List.headD_cons]

/-- Settles O22: a list that is long enough begins with raw words, which their instruction stands for. -/
theorem encodeOfDecode : Obligations.EncodeOfDecode := by
  intro w ws
  rw [lenWords_eq]
  constructor
  · intro h
    rw [decodeWords, rawOf_truncated h]
  · intro h
    obtain ⟨r, rest, hlen, hw⟩ := exists_raw h
    obtain ⟨hwf, henc, hill⟩ := decodeRaw_spec hlen
    have hfirst : r.first = w := by cases r <;> exact (List.cons.inj hw).1
    refine ⟨decodeRaw r, rest, by rw [← hw, decodeWords_words hlen], hwf, ?_, henc ▸ hw, ?_⟩
    · rw [henc, ← wordsOf_first hlen, hfirst]
    · rw [hill, ← legal_iff_isInstruction hlen hw, Bool.not_eq_false]

/-- The instruction of no row: a hint, an encoding that is no instruction, and an event. -/
theorem unassigned_cases {i : Instr} (h : i.view.Unassigned) :
    (∃ x, i = .hint x) ∨ (∃ r, i = .hintLong r) ∨ (∃ r, i = .illegalOpcode r) ∨ i.view = .event := by
  cases i
  case hint x => exact .inl ⟨x, rfl⟩
  case hintLong r => exact .inr (.inl ⟨r, rfl⟩)
  case illegalOpcode r => exact .inr (.inr (.inl ⟨r, rfl⟩))
  case clkLoRead f => cases f <;> exact h.elim
  case thndWrite f => cases f <;> exact h.elim
  all_goals first | exact .inr (.inr (.inr rfl)) | exact h.elim

theorem decodeRaw_hintWord (x : BitVec 24) : (RawWords.one (0x01#8 ++ x)).lenOk = true ∧ decodeRaw (.one (0x01#8 ++ x)) = .hint x := by
  have hv : (0x01#8 ++ x).toNat = 16777216 + x.toNat := by
    rw [Machine.toNat_append_eq]
    simp only [BitVec.toNat_ofNat]
    omega
  have hlen : (0x01#8 ++ x).extractLsb' 30 2 = 0 := extractLsb'_eq_of_toNat (by rw [hv]; simp only [BitVec.ofNat_eq_ofNat, BitVec.toNat_ofNat, Nat.zero_mod]; omega)
  have hmaj : ((0x01#8 ++ x).extractLsb' 24 6).toNat = 1 := by rw [toNat_extractLsb'_eq, hv]; omega
  have hx : (0x01#8 ++ x).extractLsb' 0 24 = x := BitVec.extractLsb'_append_eq_right
  exact ⟨beq_iff_eq.mpr hlen, (if_pos hmaj).trans (congrArg Instr.hint hx)⟩

/-- Every well-formed instruction that has an encoding is that of raw words. -/
theorem exists_decodeRaw {i : Instr} (hwf : i.wf = true) (henc : encode i ≠ []) : ∃ r : RawWords, r.lenOk = true ∧ decodeRaw r = i := by
  have hev : i.view ≠ .event := fun h => henc (congrArg View.words h)
  obtain ha | hu := view_assigned i
  · obtain ⟨r, e⟩ := encodes_of_assigned ha
    exact ⟨r, e.lenOk, decodeRaw_of_encodes e ((view_instr? i hwf).resolve_left hev)⟩
  obtain ⟨x, rfl⟩ | ⟨r, rfl⟩ | ⟨r, rfl⟩ | h := unassigned_cases hu
  · exact ⟨_, decodeRaw_hintWord x⟩
  · cases r with
    | one w => simp [Instr.wf] at hwf
    | three _ _ _ | five _ _ _ _ _ =>
      simp only [Instr.wf, Bool.and_true, Bool.and_eq_true, beq_iff_eq] at hwf
      exact ⟨_, hwf.1, if_pos hwf.2⟩
  · simp only [Instr.wf, Bool.and_eq_true] at hwf
    exact ⟨r, hwf.1, decodeRaw_illegal hwf.2⟩
  · exact absurd h hev

/-- Settles O21: the instruction is that of raw words, which are its words. -/
theorem decodeOfEncode : Obligations.DecodeOfEncode := by
  intro i rest hwf henc
  obtain ⟨r, hlen, rfl⟩ := exists_decodeRaw hwf henc
  obtain ⟨-, hwords, -⟩ := decodeRaw_spec hlen
  rw [hwords, decodeWords_words hlen]

/-- Settles O23, word by word. -/
theorem workedEncodings : Obligations.WorkedEncodings := by
  unfold Obligations.WorkedEncodings
  simp only [Claims.workedWords, List.forall_mem_cons, List.not_mem_nil, false_implies, implies_true, and_true]
  refine ⟨⟨rfl, rfl⟩, ⟨rfl, rfl⟩, ⟨rfl, rfl⟩, ⟨rfl, rfl⟩, ⟨rfl, rfl⟩, ⟨rfl, rfl⟩, ⟨rfl, rfl⟩, ⟨rfl, rfl⟩, ⟨rfl, rfl⟩, ⟨rfl, rfl⟩, ⟨rfl, rfl⟩,
    ⟨rfl, rfl⟩, ⟨rfl, rfl⟩, ⟨rfl, rfl⟩, ⟨rfl, rfl⟩, ⟨rfl, _, rfl⟩, ⟨rfl, _, rfl⟩, ⟨rfl, _, rfl⟩⟩

end Sys2Proof
end

section
/-! PROOFS. Moves and no-operations (04 R84, 05 R99, R100, R113), and the two exceptions that an instruction raises by itself (04 R85, R86, 05 R107). -/

namespace Sys2Proof
namespace Machine
open Sys2Proof.Safety

/-! MOV, MOVI, SEL and MOVS (R98 to R100). -/

/-- A pair D of a move stops before the end of its file (R12, R98). -/
theorem move_pair {s : State} {f : Fields} (calm : Calm s f State.noFault) (hmaj : f.maj = 0x07) (hmn : f.mn = 0 ∨ f.mn = 2 ∨ f.mn = 3) :
    ∀ tid ∈ s.guarded f, (if f.mn = 3 then f.ty == 0 else f.ty == 1) = true →
      (f.cd = false → f.d + 1 ≠ 255) ∧ (f.cd = true → f.d + 1 ≠ 127) := by
  intro tid ht hw
  refine pair_of_fieldsOk (fieldsOk_of_decodeFault (calm tid ht).1) (v := true) (sc := true) ?_
  rcases hmn with hm | hm | hm <;> simp [hm] at hw <;> simp [opnds, hmaj, hm, hw, typed, Slot.vsPair]

/-- The type codes of MOVS (R98). -/
theorem movs_types {f : Fields} (hmaj : f.maj = 0x07) (hmn : f.mn = 3) (h : modOk f = true) : f.ty = 0 ∨ f.ty = 2 ∨ f.ty = 3 := by
  simp only [modOk, hmaj, hmn, intTypes] at h
  simp_all

/-- An integer operand held in a pair is its low bits extended (R88). -/
theorem ofInt_readInt (w : Nat) (z : Bool) (y : DWord) :
    BitVec.ofInt 64 (readInt w z y) = if z then (y.setWidth w).setWidth 64 else (y.setWidth w).signExtend 64 := by
  rw [readInt_eq_intOf, Claims.intOf]
  cases z
  · rfl
  · exact (BitVec.ofInt_natCast _ _).trans (BitVec.ofNat_toNat ..)

/-- Cut to a register no narrower than it, a value extends to the same pair. -/
theorem setWidth_64_of_le {w : Nat} (h : w ≤ 32) (b : BitVec w) : (b.setWidth 32).setWidth 64 = b.setWidth 64 := by
  apply BitVec.eq_of_toNat_eq
  have hb : b.toNat < 2 ^ 32 := lt_of_lt_of_le b.isLt (Nat.pow_le_pow_right (by decide) h)
  rw [BitVec.toNat_setWidth, BitVec.toNat_setWidth, BitVec.toNat_setWidth, Nat.mod_eq_of_lt hb]

/-- MOVS of the types it accepts (R99). -/
theorem movsVal_eq {f : Fields} (ht : f.ty = 0 ∨ f.ty = 2 ∨ f.ty = 3) (g : Group) (x : Thread) : movsVal f g x =
    (let b := (f.opB false g x).setWidth (Claims.widthOf f.ty)
     if f.z then b.setWidth 64 else if f.ty = 0 then b.signExtend 64 else (b.signExtend 32).setWidth 64) := by
  simp only [movsVal, typeBits_eq_widthOf, ofInt_readInt]
  generalize f.opB false g x = y
  by_cases h0 : f.ty = 0
  · cases f.z <;> simp [h0]
  · have hw : Claims.widthOf f.ty ≤ 32 := by rcases ht with h | h | h <;> simp [Claims.widthOf, h]
    cases f.z
    · simp only [h0, if_false, Bool.false_eq_true, (loWord_extend _).2]
    · simp only [h0, if_false, if_true, (loWord_extend _).1]
      exact setWidth_64_of_le hw _

theorem moviFault_of_lt {F : Fields} {s : State} {tid : Nat}
    (h : F.a + (F.opB false (s.group (gidOf tid)) (s.thread tid)).toNat < min 255 (s.launchOf (gidOf tid)).regs) : moviFault F s tid = none :=
  if_neg (by simp only [moviIndex]; omega)

/-- Settles O4: the three moves and MOVI are one register result, and a no-operation only lets its threads go on. -/
theorem movesAndNop : Obligations.MovesAndNop := by
  refine ⟨⟨?moves, ?movi⟩, ?nop, ?hint⟩
  case moves =>
    intro i F s hwf hF hmaj hmn calm
    have exec_of {wide : Bool} {val : Group → Thread → DWord} (hx : meaning F s = s.runValue F State.noFault wide val) :
        exec i s = .next (s.runValue F State.noFault wide val) := (exec_eq_meaning s hF hwf).trans (congrArg _ hx)
    have pair := move_pair calm hmaj hmn
    rcases hmn with hm | hm | hm
    · refine ⟨_, exec_of (show meaning F s = xMov F s by simp [meaning, hmaj, hm]), ?_⟩
      simp only [hm] at pair ⊢
      exact runValue_calm calm _ _ pair
    · refine ⟨_, exec_of (show meaning F s = xSel F s by simp [meaning, hmaj, hm]), ?_⟩
      simp only [hm] at pair ⊢
      exact runValue_calm calm _ _ pair
    · refine ⟨_, exec_of (show meaning F s = xMovs F s by simp [meaning, hmaj, hm]), ?_⟩
      rw [if_pos hm]
      refine RegResult.congr (runValue_calm calm _ _ (by simpa [hm] using pair)) fun hne g x => ?_
      obtain ⟨tid, ht⟩ := List.exists_mem_of_ne_nil _ hne
      simp only [hm]
      exact movsVal_eq (movs_types hmaj hm (modOk_of_fieldsOk (fieldsOk_of_decodeFault (calm tid ht).1))) g x
  case movi =>
    intro i F s hwf hF hmaj hmn calm hcap
    have calm' : Calm s F (moviFault F s) := fun tid ht => ⟨(calm tid ht).1, moviFault_of_lt (hcap tid ht)⟩
    exact ⟨_, (exec_eq_meaning s hF hwf).trans (congrArg _ (show meaning F s = xMovi F s by simp [meaning, hmaj, hmn])),
      runValue_calm calm' _ _ (by simp)⟩
  case nop =>
    intro i F s hwf hF hmaj calm
    refine ⟨_, (exec_eq_meaning s hF hwf).trans (congrArg _ (show meaning F s = xNop F s by simp [meaning, hmaj])),
      State.runPlain_onlyThreads calm _, fun tid x ht hx => ?_⟩
    rw [xNop, State.runPlain_thread calm, hx]
    simp [ht]
  case hint =>
    intro s w r
    refine ⟨xHint s, rfl, rfl, ⟨rfl, fun tid ht => ?_⟩, fun tid x ht hx => ?_⟩
    · rw [xHint, State.advanceAll_get?]
      simp [ht]
    · rw [xHint, State.advanceAll_get?, hx]
      simp [ht]

/-! ILLEGAL_OPCODE and SW_TRAP (R85, R86, R107). -/

/-- The faults of an encoding that is no instruction. -/
def illegalFaults (w : Word) (s : State) : List Raised := s.issue.threads.map (fun t => ⟨t, codeIllegal, 0, w⟩)

theorem illegalFaults_tids (w : Word) (s : State) : (illegalFaults w s).map (·.tid) = s.issue.threads := by
  simp [illegalFaults, Function.comp_def]

/-- Every thread of the bundle takes the exception of an encoding that is no instruction. -/
theorem illegal_traps {s : State} (w : Word) (hnd : s.issue.threads.Nodup) (hcatch : ∀ tid ∈ s.issue.threads, Claims.Catches s tid) :
    OnlyThreads s (xIllegal w s) ∧ ∀ tid x, tid ∈ s.issue.threads → s.threads.get? tid = some x → ∃ y,
      (xIllegal w s).threads.get? tid = some y ∧ Claims.Trapped s x y tid codeIllegal 0 w s.issue.threads s.issue.pc s.issue.pc := by
  have tids := illegalFaults_tids w s
  have nodup : ((illegalFaults w s).map (·.tid)).Nodup := by rwa [tids]
  have shape : xIllegal w s = s.mapThreads (State.caughtBy (illegalFaults w s) (State.faultMask (illegalFaults w s)) s) := by
    refine State.deliverAll_caught nodup fun r hr => ?_
    obtain ⟨tid, ht, rfl⟩ := List.mem_map.1 hr
    exact ⟨hcatch tid ht, show plainCode codeIllegal by decide⟩
  have thread (tid : Nat) : (xIllegal w s).threads.get? tid =
      (s.threads.get? tid).map (State.caughtBy (illegalFaults w s) (State.faultMask (illegalFaults w s)) s tid) := by
    rw [shape, State.mapThreads_threads, Tab.get?_mapKV]
  refine ⟨⟨by rw [shape]; rfl, fun tid ht => ?_⟩, fun tid x ht hx => ⟨_, by rw [thread, hx, Option.map_some], ?_⟩⟩
  · have none : ∀ r ∈ illegalFaults w s, r.tid ≠ tid := fun r hr e => ht (by rw [← tids]; exact List.mem_map.2 ⟨r, hr, e⟩)
    rw [thread]
    cases s.threads.get? tid with
    | none => rfl
    | some x => rw [Option.map_some, State.caughtBy_of_none none]
  · have hr : (⟨tid, codeIllegal, 0, w⟩ : Raised) ∈ illegalFaults w s := List.mem_map.2 ⟨tid, ht, rfl⟩
    rw [State.caughtBy_of_mem nodup hr]
    refine trapped_caught fun l _ => ?_
    rw [faultMask_bit nodup, tids]

/-- Settles O11: each is the delivery of its faults, and each fault is caught. -/
theorem opcodeAndTrapFaults : Obligations.OpcodeAndTrapFaults := by
  refine ⟨fun r s hnd hcatch => ⟨_, rfl, illegal_traps r.first hnd hcatch⟩, ?trap⟩
  intro i F s hwf hF hmaj hmn calm hnd hcatch
  have fault : ∀ tid ∈ s.guarded F, s.faultOf F (fun _ => some ⟨codeTrap, 0, F.x⟩) tid = some ⟨codeTrap, 0, F.x⟩ := fun tid ht => by
    rw [State.faultOf, (calm tid ht).1]
  obtain ⟨only, passes, acts⟩ := State.faulted_traps hnd hcatch fun tid ht => ⟨_, fault tid ht, show plainCode codeTrap by decide⟩
  have hx : meaning F s = xTrap F s := by simp [meaning, hmaj, hmn]
  refine ⟨_, (exec_eq_meaning s hF hwf).trans (congrArg _ (hx.trans (State.runPlain_faulted (fun tid ht => by rw [fault tid ht]; rfl) _ _))),
    only, passes, fun tid x hx => ?_⟩
  exact acts tid x _ hx (fault tid (acts_mem hx))

end Machine
end Sys2Proof
end

section
/-! PROOFS. REP (04 R84, 05 R109 to R111): the pair without faults, one iteration of it, and its target as exec performs it alone. -/

namespace Sys2Proof
namespace Machine
open Sys2Proof.Safety

/-! What an instruction that REP accepts does (R110). -/

/-- The numbers of an encoded instruction are assigned by the opcode map (R83). -/
theorem fields_assigned {i : Instr} {F : Fields} (h : i.fields? = some F) : F.mn < minorCount F.maj := by
  unfold Instr.fields? at h
  obtain ha | hu := view_assigned i
  · revert h ha
    cases i.view with
    | op maj mn f => rintro ⟨⟩ ⟨-, hmn, -⟩; exact hmn
    | opX maj mn f => rintro ⟨⟩ ⟨-, hmn, -⟩; rwa [opXFields_mn, opXFields_maj]
    | mem mn f => rintro ⟨⟩ hmn; exact hmn
    | memX mn f => rintro ⟨⟩ hmn; rw [memXFields_mn, memXFields_maj]; exact hmn
    | br maj f => rintro ⟨⟩ hbr; exact minorCount_br hbr ▸ Nat.one_pos
    | brX maj f => rintro ⟨⟩ hbr; rw [brXFields_mn, brXFields_maj, minorCount_br hbr]; exact Nat.one_pos
    | wide maj mn f => rintro ⟨⟩ ⟨-, hmn⟩; rwa [wideFields_mn, wideFields_maj]
    | hint _ | hintLong _ | illegal _ | event => rintro ⟨⟩
  · revert h hu
    cases i.view with
    | hint _ | hintLong _ | illegal _ | event => rintro ⟨⟩
    | op _ _ _ | opX _ _ _ | mem _ _ | memX _ _ | br _ _ | brX _ _ | wide _ _ _ => exact fun _ hu => hu.elim

/-- The majors with minor numbers that REP does not bar (R83, R110). -/
theorem mem_repMajors {maj mn : Nat} (hm : mn < minorCount maj) (hbar : repBars maj = false) :
    maj ∈ [0x00, 0x02, 0x03, 0x04, 0x05, 0x06, 0x07, 0x08, 0x09, 0x0A, 0x0B, 0x0F, 0x15, 0x20, 0x21, 0x30] := by
  unfold minorCount at hm
  split at hm
  all_goals first | decide | exact Bool.noConfusion hbar | exact absurd hm (Nat.not_lt_zero mn)

/-- For these the meaning of the fields is what REP performs. -/
theorem meaning_eq_targetOn {F : Fields} (s : State) (hm : F.mn < minorCount F.maj) (hbar : repBars F.maj = false) :
    meaning F s = targetOn F s := by
  obtain ⟨form, maj, mn, d, a, b, c, n, g, xb, cs, ca, cb, cd, mod, x, lit, w0⟩ := F
  dsimp only at hm hbar
  have hmaj := mem_repMajors hm hbar
  simp only [List.mem_cons, List.not_mem_nil, or_false] at hmaj
  rcases hmaj with rfl | rfl | rfl | rfl | rfl | rfl | rfl | rfl | rfl | rfl | rfl | rfl | rfl | rfl | rfl | rfl
  all_goals
    simp only [minorCount] at hm
    interval_cases mn <;> rfl

/-! The fetch reads no thread (R63). -/

namespace State

theorem check_mapThreads (s : State) (f : Nat → Thread → Thread) : (s.mapThreads f).check = s.check := rfl

theorem agent_mapThreads (s : State) (f : Nat → Thread → Thread) (tid : Nat) : (s.mapThreads f).agent tid = s.agent tid := rfl

theorem homeBytes_mapThreads (s : State) (f : Nat → Thread → Thread) : (s.mapThreads f).homeBytes = s.homeBytes := rfl

theorem codeWord_mapThreads (s : State) (f : Nat → Thread → Thread) (tid : Nat) : (s.mapThreads f).codeWord tid = s.codeWord tid := by
  funext p
  rw [codeWord, codeWord, check_mapThreads, agent_mapThreads, homeBytes_mapThreads]

theorem codeAt_mapThreads (s : State) (f : Nat → Thread → Thread) (tid : Nat) (p : Ptr) : (s.mapThreads f).codeAt tid p = s.codeAt tid p := by
  unfold codeAt
  rw [check_mapThreads, agent_mapThreads, codeWord_mapThreads]

end State

/-! Threads that leave a pair (R111). -/

theorem leavePair_get? (ts : List Nat) (after : Ptr) (s : State) (tid : Nat) :
    (leavePair ts after s).threads.get? tid = (s.threads.get? tid).map (fun x => if tid ∈ ts then Claims.left x after else x) := by
  simp [leavePair, Claims.left]

theorem leavePair_nil (after : Ptr) (s : State) : leavePair [] after s = s := by
  have : s.threads.mapKV (fun tid t => if ([] : List Nat).contains tid then
      { t with inRep := false, pair := none, pc := after, issued := true } else t) = s.threads := Tab.mapKV_eq_self _ _ fun _ _ => rfl
  rw [leavePair, State.mapThreads, this]

theorem leavePair_thread {ts : List Nat} {tid : Nat} (h : tid ∉ ts) (after : Ptr) (s : State) : (leavePair ts after s).thread tid = s.thread tid := by
  rw [State.thread, Tab.getD, leavePair_get?, State.thread, Tab.getD]
  simp [h]

/-- The threads of the bundle that take no part in the next iteration. -/
def passing (s : State) (F : Fields) : List Nat := s.issue.threads.filter (fun t => !(Claims.pairThreads s F).contains t)

theorem mem_passing {s : State} {F : Fields} {tid : Nat} : tid ∈ passing s F ↔ tid ∈ s.issue.threads ∧ tid ∉ Claims.pairThreads s F := by
  simp [passing]

theorem pairThreads_subset {s : State} {F : Fields} {tid : Nat} (h : tid ∈ Claims.pairThreads s F) : tid ∈ s.issue.threads :=
  (List.mem_filter.1 h).1

/-! The pair without faults (R109 to R111). -/

/-- The state in which the threads of a pair perform iteration `k` of `n` of its target: the others have left. -/
def iterating (s : State) (F : Fields) (ws : List Word) (p : Nat) (act : List Nat) (n k : Nat) : State :=
  let after := ptrAdd s.issue.next (4 * ws.length)
  { (leavePair (passing s F) after s).mapThreads (fun tid t => if act.contains tid then
      { t with rpc := BitVec.ofNat 32 (n - k), inRep := true, pair := some (s.pairOf p ws) } else t) with
    issue := { s.issue with threads := act, self := s.issue.next, next := after, rep := true, shift := k * F.d } }

/-- What a pair's iteration does with the target's fields. -/
def performs (target : Option Fields) (w k : Nat) (u : State) : State :=
  match target with
  | some G => targetOn (G.shift w k) u
  | none => xHint u

section
variable {s : State} {F : Fields} {t0 : Nat} {ts : List Nat} {ws : List Word} (hth : s.issue.threads = t0 :: ts)
  (hws : s.targetWords t0 s.issue.next = .ok ws)
  (hcalm : ∀ tid ∈ Claims.pairThreads s F, s.repFault F (ws.getD 0 0) (instrOf ws) tid = none)
include hth hws hcalm

/-- REP whose threads meet no fault. -/
theorem xRep_calm : xRep F s =
    let after := ptrAdd s.issue.next (4 * ws.length)
    let s1 := leavePair (passing s F) after s
    if F.x = 0 then leavePair (Claims.pairThreads s F) after s1
    else repIteration F (instrOf ws).fields? ws (Claims.pairThreads s F) after s1 := by
  have none : (Claims.pairThreads s F).filterMap (fun tid => (s.repFault F (ws.getD 0 0) (instrOf ws) tid).map
      (fun e => (⟨tid, e.code, e.addr, e.aux⟩ : Raised))) = [] :=
    List.filterMap_eq_nil_iff.2 fun tid ht => by rw [hcalm tid ht]; rfl
  have on_ : s.issue.threads.filter (fun t => (s.thread t).repOn F) = Claims.pairThreads s F := rfl
  unfold xRep
  split
  · simp_all
  · rename_i u us hu
    obtain rfl : u = t0 := by simp_all
    simp only [hws, on_, none, List.map_nil, List.contains_nil, Bool.not_false, List.filter_true, State.deliverAll_nil]
    rfl

theorem xRep_leaves (h : F.x = 0 ∨ Claims.pairThreads s F = []) : xRep F s =
    let after := ptrAdd s.issue.next (4 * ws.length)
    leavePair (Claims.pairThreads s F) after (leavePair (passing s F) after s) := by
  rw [xRep_calm hth hws hcalm]
  dsimp only
  split
  · rfl
  · rw [h.resolve_left ‹_›, leavePair_nil]
    rfl

theorem xRep_iterates {p : Nat} {ps : List Nat} (hx : F.x ≠ 0) (hact : Claims.pairThreads s F = p :: ps) : xRep F s =
    let k := if (s.thread p).inRep then F.x.toNat - (s.thread p).rpc.toNat else 0
    { performs (instrOf ws).fields? (s.widthOf (gidOf p)) (k * F.d) (iterating s F ws p (p :: ps) F.x.toNat k) with issue := s.issue } := by
  have hp : p ∉ passing s F := fun h => (mem_passing.1 h).2 (hact ▸ List.mem_cons_self)
  have hthread := leavePair_thread hp (ptrAdd s.issue.next (4 * ws.length)) s
  have hpair : (leavePair (passing s F) (ptrAdd s.issue.next (4 * ws.length)) s).pairOf p ws = s.pairOf p ws := by
    have hcode (pc : Ptr) : (leavePair (passing s F) (ptrAdd s.issue.next (4 * ws.length)) s).codeAt p pc = s.codeAt p pc :=
      State.codeAt_mapThreads s _ p pc
    simp only [State.pairOf, State.repWords, hthread, hcode]
  have hissue (ts : List Nat) (after : Ptr) : (leavePair ts after s).issue = s.issue := rfl
  have hwidth (ts : List Nat) (after : Ptr) : (leavePair ts after s).widthOf (gidOf p) = s.widthOf (gidOf p) := rfl
  rw [xRep_calm hth hws hcalm]
  simp only [hx, if_false, hact, repIteration, hthread, hpair, hissue, hwidth, iterating]
  cases (instrOf ws).fields? <;> rfl

end

/-- What REP's iteration has changed before its target is performed. -/
theorem iterating_get? (s : State) (F : Fields) (ws : List Word) {p : Nat} {ps : List Nat} (n k : Nat) (hact : Claims.pairThreads s F = p :: ps)
    {tid : Nat} {x : Thread} (ht : tid ∈ s.issue.threads) (hx : s.threads.get? tid = some x) : (iterating s F ws p (p :: ps) n k).threads.get? tid =
      some (if tid ∈ p :: ps then { x with rpc := BitVec.ofNat 32 (n - k), inRep := true, pair := some (s.pairOf p ws) }
        else Claims.left x (ptrAdd s.issue.next (4 * ws.length))) := by
  have hpass : tid ∈ passing s F ↔ tid ∉ p :: ps := by rw [mem_passing, hact]; simp [ht]
  simp only [iterating, State.mapThreads_threads, Tab.get?_mapKV, leavePair_get?, hx, Option.map_some, List.contains_iff_mem, hpass]
  by_cases h : tid ∈ p :: ps <;> simp only [h, not_true_eq_false, not_false_eq_true, if_true, if_false]

theorem iterating_outside (s : State) (F : Fields) (ws : List Word) {p : Nat} {ps : List Nat} (n k : Nat) (hact : Claims.pairThreads s F = p :: ps)
    {tid : Nat} (ht : tid ∉ s.issue.threads) : (iterating s F ws p (p :: ps) n k).threads.get? tid = s.threads.get? tid := by
  have hpass : tid ∉ passing s F := fun h => ht (mem_passing.1 h).1
  have hact : tid ∉ p :: ps := fun h => ht (pairThreads_subset (hact ▸ h))
  simp only [iterating, State.mapThreads_threads, Tab.get?_mapKV, leavePair_get?, List.contains_iff_mem, hpass, hact, if_false, Option.map_id']

/-- Settles O28: the pair leaves or performs one iteration, and the target alone is what exec does. -/
theorem repIterates : Obligations.RepIterates := by
  refine ⟨?pair, ?target⟩
  case pair =>
    intro i F s t0 ts ws hwf hF hmaj hmn hth hws hcalm
    have hexec : exec i s = .next (xRep F s) :=
      (exec_eq_meaning s hF hwf).trans (congrArg _ (show meaning F s = xRep F s by simp [meaning, hmaj, hmn]))
    refine ⟨fun h => ⟨_, hexec, ?_⟩, fun p ps hx hact => ?_⟩
    · rw [xRep_leaves hth hws hcalm h]
      refine ⟨⟨rfl, fun tid ht => ?_⟩, fun tid x ht hx => ?_⟩
      · have hpass : tid ∉ passing s F := fun h => ht (mem_passing.1 h).1
        have hon : tid ∉ Claims.pairThreads s F := fun h => ht (pairThreads_subset h)
        simp only [leavePair_get?, hpass, hon, if_false, Option.map_id']
      · have hpass : tid ∈ passing s F ↔ tid ∉ Claims.pairThreads s F := by rw [mem_passing]; simp [ht]
        simp only [leavePair_get?, hx, Option.map_some, hpass]
        by_cases h : tid ∈ Claims.pairThreads s F <;> simp only [h, not_true_eq_false, not_false_eq_true, if_true, if_false]
    · refine ⟨iterating s F ws p (p :: ps) F.x.toNat _, rfl, rfl, fun tid ht => iterating_outside s F ws _ _ hact ht,
        fun tid x ht hx => iterating_get? s F ws _ _ hact ht hx, ?_⟩
      rw [hexec, xRep_iterates hth hws hcalm hx hact]
      rfl
  case target =>
    intro j G s hwf hG hbar
    rw [exec_eq_meaning s hG hwf, meaning_eq_targetOn s (fields_assigned hG) hbar]

end Machine
end Sys2Proof
end

section
/-! PROOFS. A step runs the decoded instruction (O24): what the records of an issue leave alone, and the plan of a bundle with nothing
to do first. -/

namespace Sys2Proof.Machine

/-- What every element of a list leaves as it was, a fold over the list does. -/
theorem foldl_issue_eq {α : Type} (f : State → α → State) (hf : ∀ s a, (f s a).issue = s.issue) (l : List α) (s : State) :
    (l.foldl f s).issue = s.issue := by
  induction l generalizing s with
  | nil => rfl
  | cons a l ih => exact (ih (f s a)).trans (hf s a)

namespace State

/-! A line read at its home leaves the bundle in place. -/

theorem meetStored_issue (s : State) (line : Nat) : (s.meetStored line).1.issue = s.issue := by
  unfold meetStored
  split
  · rfl
  · split <;> rfl

theorem meetLine_issue (s : State) (line : Nat) : (s.meetLine line).1.issue = s.issue := by
  simp only [meetLine]
  split
  · split
    · exact meetStored_issue _ line
    · split <;> rfl
  · exact meetStored_issue s line

theorem touchLine_issue (s : State) (line : Nat) : (s.touchLine line).issue = s.issue := by
  unfold touchLine
  split
  · exact meetLine_issue s line
  · rfl

@[simp] theorem touchLines_issue (s : State) (ls : List Nat) : (s.touchLines ls).issue = s.issue := by
  unfold touchLines
  split
  · exact foldl_issue_eq touchLine touchLine_issue ls s
  · rfl

@[simp] theorem readLines_issue (s : State) (ls : List Nat) : (s.readLines ls).issue = s.issue := by
  unfold readLines
  split
  · exact foldl_issue_eq _ meetLine_issue ls s
  · rfl

@[simp] theorem touchIssue_issue (s : State) (len : Nat) (d : Option Doing) : (s.touchIssue len d).issue = s.issue := by
  cases d with
  | none => exact touchLines_issue s _
  | some x => exact (readLines_issue _ _).trans (touchLines_issue s _)

/-! The shadow's queue leaves it in place too. -/

@[simp] theorem fillQueue_issue (s : State) (gid : Nat) : (s.fillQueue gid).issue = s.issue := by
  unfold fillQueue
  split <;> rfl

@[simp] theorem lead_issue (s : State) (i : Instr) (d : Option Doing) : (s.lead i d).issue = s.issue := by
  unfold lead
  refine foldl_issue_eq _ (fun v gid => ?_) _ s
  simp only [modGroup_issue, fillQueue_issue]

/-! The records of an issue leave every thread's program counter. -/

/-- A change of every thread's entry that keeps its PC keeps the PC of every thread, listed or not. -/
theorem mapThreads_thread_pc (s : State) (f : Nat → Thread → Thread) (hf : ∀ k x, (f k x).pc = x.pc) (t : Nat) :
    ((s.mapThreads f).thread t).pc = (s.thread t).pc := by
  simp only [thread, Tab.getD, mapThreads_threads, Tab.get?_mapKV]
  cases s.threads.get? t with
  | none => rfl
  | some x => exact hf t x

theorem dropThreads_thread_pc (s : State) (core part : Nat) (ts : List Nat) (t : Nat) :
    ((s.dropThreads core part ts).thread t).pc = (s.thread t).pc :=
  mapThreads_thread_pc (s.setPartition core part _) _ (fun k x => by split <;> rfl) t

theorem recordIssue_thread_pc (s : State) (core part : Nat) (b : List Nat) (d : Option Doing) (t : Nat) :
    ((s.recordIssue core part b d).thread t).pc = (s.thread t).pc :=
  mapThreads_thread_pc _ _ (fun k x => by split <;> rfl) t

/-- The bundle in place as its instruction is performed. -/
theorem atIssue_issue (u : State) (core part t : Nat) (b : List Nat) (ws : List Word) (i : Instr) :
    (Claims.atIssue u core part (t :: b) ws i).issue =
      ⟨core, part, teamOf (gidOf t), t :: b, (u.thread t).pc, (u.thread t).pc, ptrAdd (u.thread t).pc (4 * ws.length), false, 0⟩ := by
  have hpc : (((u.dropThreads core part []).recordIssue core part (t :: b) (i.fields?.map (u.doing (t :: b) ws))).thread t).pc =
      (u.thread t).pc :=
    (recordIssue_thread_pc _ core part (t :: b) _ t).trans (dropThreads_thread_pc u core part [] t)
  simp only [Claims.atIssue, touchIssue_issue, lead_issue, setIssue, List.getD_cons_zero, hpc]

/-! The plan of a bundle. -/

/-- The instruction a bundle is about to execute, from the words at its first thread's program counter. -/
theorem nextOf_eq_ok (u : State) {t : Nat} {b : List Nat} {ws : List Word} {i : Instr} {rest : List Word}
    (hws : Claims.wordsAt u t = .ok ws) (hi : decodeWords ws = .ok (i, rest)) : u.nextOf (t :: b) = .ok (ws, i) := by
  have hrep : u.repWords t = .ok ws := by
    rw [← hws, repWords, Claims.wordsAt]
    cases (u.thread t).pair <;> rfl
  simp only [nextOf, hrep, instrOf, hi]

/-- A bundle with nothing to do first goes, whole. -/
theorem plan_eq_go (u : State) {t : Nat} {b : List Nat} {ws : List Word} {i : Instr} (hnext : u.nextOf (t :: b) = .ok (ws, i))
    (hfree : Claims.Free u (t :: b) ws i) :
    u.plan (t :: b) = .go i (4 * ws.length) (t :: b) (i.fields?.map (u.doing (t :: b) ws)) [] := by
  obtain ⟨hdue, hshadow, hfields⟩ := hfree
  have hfull : (groupsIn (t :: b)).any u.shadowFull = false := by simpa using hshadow
  simp only [plan, hnext, hdue, hfull, bne_self_eq_false, Bool.false_eq_true, if_false]
  cases hf : i.fields? with
  | none => rfl
  | some f =>
    obtain ⟨hstall, hheld, hwaits, hflush⟩ := hfields f hf
    have hstalls : (groupsIn (t :: b)).filter (fun g => u.stallsAt g (u.doing (t :: b) ws f)) = [] := by
      simpa [List.filter_eq_nil_iff] using hstall
    have hpend : (u.doing (t :: b) ws f).threads.map (fun k => (k, u.heldUp (u.doing (t :: b) ws f).act k)) =
        (u.doing (t :: b) ws f).threads.map (fun k => (k, [])) :=
      List.map_congr_left (fun k hk => by rw [hheld k hk])
    have hlate : (((u.doing (t :: b) ws f).threads.map (fun k => (k, ([] : List Access)))).filter (fun e => !e.2.isEmpty)).map (·.1) = [] := by
      simp
    have hnone : ((u.doing (t :: b) ws f).threads.map (fun k => (k, ([] : List Access)))).any (fun e => e.2.any (fun a => !a.spl)) = false := by
      simp
    have hall : ∀ l : List Nat, l.filter (fun k => !([] : List Nat).contains k) = l := fun l => by simp
    simp only [Option.map_some, hstalls, hpend, hlate, hnone, hall, hwaits, hflush, bne_self_eq_false, Bool.false_eq_true, if_false,
      or_false, reduceCtorEq]

/-- What a partition prepares for the bundle it chooses, where nothing comes first. -/
theorem prepare_eq_of_plan (s : State) {core part n len : Nat} {ready m b : List Nat} {i : Instr} {d : Option Doing}
    (hstop : s.stopped = false) (hlast : (s.partition core part).lastAt ≠ s.cycle + 1)
    (hn : orderBy ((s.settled core part).chooseKey ((s.settled core part).partition core part))
      ((s.settled core part).choices core part ready) = n :: m)
    (hplan : (s.settled core part).plan (((s.settled core part).partition core part).bundles.getD n []) = .go i len b d []) :
    s.prepare core part ready =
      ((((((s.settled core part).dropThreads core part []).recordIssue core part b d).setIssue core part b len).lead i d).touchIssue len d,
        some i) := by
  simp only [prepare, hstop, hlast, hn, hplan, decide_false, Bool.or_self, Bool.false_eq_true, if_false]

end State

/-- The turn at the head of the agenda is performed, with the power on. -/
theorem step_eq_perform {s : State} {a : Turn} {r : List Turn} (hpower : s.power = .on) (hagenda : s.agenda = a :: r) :
    step s = perform a { s with agenda := r, turn := s.turn + 1 } := by
  simp only [step, hagenda, hpower, if_true]

/-- A turn of a partition that has prepared an instruction performs it. -/
theorem perform_issue_eq {s s1 : State} {core part : Nat} {ready : List Nat} {i : Instr}
    (h : s.prepare core part ready = (s1, some i)) : perform (.issue core part ready) s = afterIssue core part (exec i s1) := by
  simp only [perform, h]

/-- Settles O24: the turn's preparation comes to the plan of the chosen bundle, which `Claims.Free` makes its whole instruction. -/
theorem stepRunsInstruction : Obligations.StepRunsInstruction := by
  refine ⟨fun s i on r hpower hagenda => step_eq_perform hpower hagenda, ?_⟩
  intro s core part n ready r m hpower hagenda hstop hlast u p hn t b ws i hb hws hi hfree
  refine ⟨?_, State.atIssue_issue u core part t b ws i⟩
  have hplan : u.plan (p.bundles.getD n []) = .go i (4 * ws.length) (t :: b) (i.fields?.map (u.doing (t :: b) ws)) [] := by
    rw [hb]
    exact State.plan_eq_go u (State.nextOf_eq_ok u hws hi) hfree
  have hprep := State.prepare_eq_of_plan { s with agenda := r, turn := s.turn + 1 } hstop hlast hn hplan
  exact (step_eq_perform hpower hagenda).trans (perform_issue_eq hprep)

end Sys2Proof.Machine
end

section
/-! PROOFS. Integer arithmetic and logic (05 R87 to R93): each row of the model in the terms of bit vectors, and the rows' results. -/

namespace Sys2Proof
namespace Machine
open Sys2Proof.Safety

/-! IARITH (R90, R91). -/

theorem intArith_eq_exact (mn w : Nat) (a b : Int) : intArith mn w a b = Claims.exact mn w a b :=
  match mn with
  | 0 | 1 | 2 | 6 => rfl
  | 3 => Int.fdiv_eq_ediv_of_nonneg _ (by positivity)
  | 4 => (min_def a b).symm
  | 5 => (max_def a b).symm
  | _ + 7 => by simp only [intArith, Claims.exact, Int.tmod_def]

theorem iarithVal_eq (F : Fields) (g : Group) (x : Thread) : iarithVal F g x =
    (let w := Claims.widthOf F.ty
     let r := Claims.exact F.mn w (Claims.intOf w F.z (F.opA (F.ty == 1) g x)) (Claims.intOf w F.z (F.opB (F.ty == 1) g x))
     Claims.held w F.z (if F.sat then Claims.clamp w F.z r else r)) := by
  simp only [iarithVal, typeBits_eq_widthOf, readInt_eq_intOf, intArith_eq_exact, satInt_eq_clamp, writeInt_eq_held (widthOf_cases F.ty)]
  rfl

/-- D of IARITH and LOGIC is typed, so a pair D stops before the end of its file (R12, R90, R92). -/
theorem typed_pair {s : State} {f : Fields} (calm : Calm s f State.noFault) (hmaj : f.maj = 0x02 ∨ f.maj = 0x03) :
    ∀ tid ∈ s.guarded f, (f.ty == 1) = true → (f.cd = false → f.d + 1 ≠ 255) ∧ (f.cd = true → f.d + 1 ≠ 127) := by
  intro tid ht hw
  have d : (opnds (s.widthOf (gidOf tid)) f).d = typed f.ty := by
    rcases hmaj with h | h
    · simp only [opnds, h]
    · simp only [opnds, h]
      split <;> rfl
  have pair : typed f.ty = .reg true true 2 2 := by
    rw [beq_iff_eq.1 hw]
    rfl
  exact pair_of_fieldsOk (fieldsOk_of_decodeFault (calm tid ht).1) (d.trans pair)

/-- Settles O1: IARITH is one register result, and its exact results are the claim's. -/
theorem integerArithmetic : Obligations.IntegerArithmetic := by
  intro i F s hwf hF hmaj calm
  have hx : meaning F s = xIarith F s := by simp [meaning, hmaj]
  exact ⟨_, (exec_eq_meaning s hF hwf).trans (congrArg _ hx),
    RegResult.congr (runValue_calm calm _ _ (typed_pair calm (.inl hmaj))) fun _ => iarithVal_eq F⟩

/-! LOGIC (R92, R93): each row as the number of its pattern. -/

section
variable {w : Nat} (a b : BitVec w) (k : Nat)

theorem toNat_andn : (a &&& ~~~b).toNat = a.toNat &&& (2 ^ w - 1 - b.toNat) := by rw [BitVec.toNat_and, BitVec.toNat_not]

theorem toNat_shl : (a <<< k).toNat = if w ≤ k then 0 else a.toNat * 2 ^ k % 2 ^ w := by
  rw [BitVec.toNat_shiftLeft, Nat.shiftLeft_eq]
  split
  · exact Nat.mod_eq_zero_of_dvd (Dvd.dvd.mul_left (Nat.pow_dvd_pow 2 ‹_›) _)
  · rfl

theorem toNat_shr : (a >>> k).toNat = if w ≤ k then 0 else a.toNat / 2 ^ k := by
  rw [BitVec.toNat_ushiftRight, Nat.shiftRight_eq_div_pow]
  split
  · exact Nat.div_eq_of_lt (a.isLt.trans_le (Nat.pow_le_pow_right two_pos ‹_›))
  · rfl

/-- A count beyond the width shifts in the sign alone, as the width itself does. -/
theorem toNat_asr (h : 0 < w) : (a.sshiftRight k).toNat =
    (let j := if w ≤ k then w else k
     if a.toNat < 2 ^ w / 2 then a.toNat / 2 ^ j else 2 ^ w - 1 - (2 ^ w - 1 - a.toNat) / 2 ^ j) := by
  have div (n : Nat) (h : n < 2 ^ w) : n / 2 ^ k = n / 2 ^ (if w ≤ k then w else k) := by
    split
    · rw [Nat.div_eq_of_lt h, Nat.div_eq_of_lt (h.trans_le (Nat.pow_le_pow_right two_pos ‹_›))]
    · rfl
  have ha := a.isLt
  have sign : a.msb = decide (2 ^ w / 2 ≤ a.toNat) := by
    rw [BitVec.msb_eq_decide, Nat.pow_sub_one two_ne_zero h.ne']
  rw [BitVec.toNat_sshiftRight, Nat.shiftRight_eq_div_pow, Nat.shiftRight_eq_div_pow, sign, div _ ha, div _ (by omega)]
  by_cases h : a.toNat < 2 ^ w / 2
  · simp [h]
  · simp [h, not_lt.1 h]

/-- The two parts of a rotated pattern share no bit. -/
theorem toNat_rot (h : 0 < w) : (a.rotateLeft (k % w)).toNat = a.toNat * 2 ^ (k % w) % 2 ^ w + a.toNat / 2 ^ (w - k % w) := by
  have hk : k % w < w := Nat.mod_lt _ h
  have split : 2 ^ w = 2 ^ (k % w) * 2 ^ (w - k % w) := by rw [← Nat.pow_add]; congr 1; omega
  have low : a.toNat / 2 ^ (w - k % w) < 2 ^ (k % w) := by
    rw [Nat.div_lt_iff_lt_mul (Nat.two_pow_pos _), ← split]
    exact a.isLt
  have high : a.toNat * 2 ^ (k % w) % 2 ^ w = 2 ^ (k % w) * (a.toNat % 2 ^ (w - k % w)) := by
    rw [split, Nat.mul_comm, Nat.mul_mod_mul_left]
  rw [BitVec.toNat_rotateLeft, Nat.mod_mod, Nat.shiftLeft_eq, Nat.shiftRight_eq_div_pow, high, Nat.two_pow_add_eq_or_of_lt low]

end

/-- An operand that is no pair holds 32 bits. -/
theorem opA_lt (F : Fields) (g : Group) (x : Thread) : (F.opA false g x).toNat < 2 ^ 32 :=
  opC_lt { F with cs := F.ca, c := F.a } g x

theorem opB_lt (F : Fields) (g : Group) (x : Thread) : (F.opB false g x).toNat < 2 ^ 32 := by
  unfold Fields.opB
  split
  · exact (BitVec.toNat_setWidth ..).trans_lt ((Nat.mod_le _ _).trans_lt (BitVec.isLt _))
  · exact opC_lt { F with cs := F.cb, c := F.b } g x

/-- The operands of LOGIC hold no bit beyond the type, and a count no bit beyond 32 (R92, R93). -/
theorem logic_operands (F : Fields) (g : Group) (x : Thread) (ht : F.ty = 0 ∨ F.ty = 1) :
    (F.opA (F.ty == 1) g x).toNat < 2 ^ Claims.widthOf F.ty ∧
    (F.mn < 4 → (F.opB (F.ty == 1 && decide (F.mn < 4)) g x).toNat < 2 ^ Claims.widthOf F.ty) ∧
    (¬F.mn < 4 → (loWord (F.opB (F.ty == 1 && decide (F.mn < 4)) g x)).toNat = (F.opB (F.ty == 1 && decide (F.mn < 4)) g x).toNat) := by
  rcases ht with ht | ht
  · exact ⟨by rw [ht]; exact opA_lt F g x, fun _ => by rw [ht]; exact opB_lt F g x, fun _ => by
      rw [ht, loWord_eq_setWidth, BitVec.toNat_setWidth]; exact Nat.mod_eq_of_lt (opB_lt F g x)⟩
  · refine ⟨by rw [ht]; exact BitVec.isLt _, fun _ => by rw [ht]; exact BitVec.isLt _, fun h => ?_⟩
    rw [decide_eq_false h, Bool.and_false, loWord_eq_setWidth, BitVec.toNat_setWidth]
    exact Nat.mod_eq_of_lt (opB_lt F g x)

theorem logicVal_eq (F : Fields) (g : Group) (x : Thread) (ht : F.ty = 0 ∨ F.ty = 1) : logicVal F g x =
    (let w := Claims.widthOf F.ty
     let b := F.opB (F.ty == 1 && decide (F.mn < 4)) g x
     (Claims.logic F.mn w ((F.opA (F.ty == 1) g x).setWidth w) (b.setWidth w) (loWord b).toNat).setWidth 64) := by
  obtain ⟨ha, hb, hk⟩ := logic_operands F g x ht
  have hw : 0 < Claims.widthOf F.ty := by rcases ht with h | h <;> simp [h, Claims.widthOf]
  simp only [logicVal, typeBits_eq_widthOf, Fields.is64]
  generalize F.opA (F.ty == 1) g x = a at *
  generalize F.opB (F.ty == 1 && decide (F.mn < 4)) g x = b at *
  generalize Claims.widthOf F.ty = w at *
  have va : (a.setWidth w).toNat = a.toNat := by rw [BitVec.toNat_setWidth, Nat.mod_eq_of_lt ha]
  have vb (h : F.mn < 4) : (b.setWidth w).toNat = b.toNat := by rw [BitVec.toNat_setWidth, Nat.mod_eq_of_lt (hb h)]
  rw [← BitVec.ofNat_toNat]
  congr 1
  match hm : F.mn with
  | 0 => simp only [Claims.logic, BitVec.toNat_and, va, vb (by omega)]
  | 1 => simp only [Claims.logic, BitVec.toNat_or, va, vb (by omega)]
  | 2 => simp only [Claims.logic, BitVec.toNat_xor, va, vb (by omega)]
  | 3 => simp only [Claims.logic, toNat_andn, va, vb (by omega)]
  | 4 => simp only [Claims.logic, toNat_shl, va, hk (by omega)]
  | 5 => simp only [Claims.logic, toNat_shr, va, hk (by omega)]
  | 6 => simp only [Claims.logic, toNat_asr _ _ hw, va, hk (by omega)]
  | _ + 7 => simp only [Claims.logic, toNat_rot _ _ hw, va, hk (by omega)]

/-- The type codes of LOGIC (R92). -/
theorem logic_types {f : Fields} (hmaj : f.maj = 0x03) (h : modOk f = true) : f.ty = 0 ∨ f.ty = 1 := by
  simp only [modOk, hmaj, intTypes] at h
  simp_all

/-- Settles O2: LOGIC is one register result, and each row's number is that of the claim's pattern. -/
theorem logicResults : Obligations.LogicResults := by
  intro i F s hwf hF hmaj calm
  have hx : meaning F s = xLogic F s := by simp [meaning, hmaj]
  refine ⟨_, (exec_eq_meaning s hF hwf).trans (congrArg _ hx), RegResult.congr (runValue_calm calm _ _ (typed_pair calm (.inr hmaj))) fun hne g x => ?_⟩
  obtain ⟨tid, ht⟩ := List.exists_mem_of_ne_nil _ hne
  exact logicVal_eq F g x (logic_types hmaj (modOk_of_fieldsOk (fieldsOk_of_decodeFault (calm tid ht).1)))

end Machine
end Sys2Proof
end

section
/-! PROOFS. Frames and transfers of control (05 R102 to R106, 14 R252): ENTER and LEAVE, then the instruction that says itself where its
acting threads go on, and the five that are such. -/

namespace Sys2Proof
namespace Machine
open Sys2Proof.Safety

/-! ENTER and LEAVE (R106). -/

/-- A vector register of each acting thread written, without faults (R8). -/
theorem runPlain_vectorResult {s : State} {f : Fields} {own : Nat → Option Flt} (h : Calm s f own) (d : Nat) (v : Thread → Word) :
    VectorResult s (s.runPlain f own (fun _ x => x.setReg d (v x)) (fun _ => [])) f d (fun _ => v) where
  only := State.runPlain_onlyThreads h _
  acts := fun _ x hx => ⟨_, State.runPlain_acts h _ _ hx, wroteReg_setReg s x d (v x)⟩
  passes := fun _ _ hx => State.runPlain_passes h _ _ hx

theorem enterFault_of_room {F : Fields} {s : State} {tid : Nat}
    (h : F.x ≤ (s.thread tid).reg 31 ∧ (s.thread tid).stklim ≤ (s.thread tid).reg 31 - F.x) : enterFault F s tid = none :=
  if_neg (not_or.2 ⟨not_lt.2 h.1, not_lt.2 h.2⟩)

/-- Settles O9: with room above STKLIM neither faults, and both write v31 alone. -/
theorem frameMoves : Obligations.FrameMoves := by
  intro i F s hwf hF hmaj hmn calm hroom
  have exec_of {t : State} (hx : meaning F s = t) : exec i s = .next t := (exec_eq_meaning s hF hwf).trans (congrArg _ hx)
  rcases hmn with hm | hm
  · have calm' : Calm s F (enterFault F s) := fun tid ht => ⟨(calm tid ht).1, enterFault_of_room (hroom hm tid ht)⟩
    refine ⟨_, exec_of (show meaning F s = xEnter F s by simp [meaning, hmaj, hm]), ?_⟩
    simp only [if_pos hm]
    exact runPlain_vectorResult calm' 31 _
  · refine ⟨_, exec_of (show meaning F s = xLeave F s by simp [meaning, hmaj, hm]), ?_⟩
    simp only [if_neg (show ¬F.mn = 3 by omega)]
    exact runPlain_vectorResult calm 31 _

/-! Transfers of control (R102 to R105, R252). -/

/-- An instruction that changes each acting thread, and says itself where it goes on, without faults (R75, R149). -/
theorem runFlow_transfers {s : State} {f : Fields} {own : Nat → Option Flt} (h : Calm s f own) (act : Nat → Thread → Thread) :
    let t := s.runFlow f own (fun ok s1 => s1.mapThreads fun tid x => if ok.contains tid then act tid x else x)
    OnlyThreads s t ∧ (∀ tid x, Passes s f tid x → t.threads.get? tid = some (goesOn s x)) ∧
      ∀ tid x, Acts s f tid x → t.threads.get? tid = some (act tid x) := by
  intro t
  have shape : t = (s.mapThreads fun tid x => if (s.guarded f).contains tid then act tid x else x).advanceAll (s.unguarded f) := by
    refine (State.runFlow_calm h _).trans ?_
    split
    · have none : (s.mapThreads fun tid x => if (s.guarded f).contains tid then act tid x else x) = s := by
        rw [‹s.guarded f = []›]
        exact congrArg (fun ts => { s with threads := ts }) (Tab.mapKV_eq_self _ _ fun _ _ => rfl)
      rw [none]
    · rfl
  have thread (tid : Nat) : t.threads.get? tid = (s.threads.get? tid).map (fun x =>
      if tid ∈ s.unguarded f then goesOn s (if tid ∈ s.guarded f then act tid x else x) else if tid ∈ s.guarded f then act tid x else x) := by
    rw [shape, State.advanceAll_get?, State.mapThreads_threads, Tab.get?_mapKV, Option.map_map]
    simp only [List.contains_eq_mem, decide_eq_true_eq]
    rfl
  refine ⟨⟨by rw [shape]; rfl, fun tid ht => ?_⟩, fun tid x ⟨ht, hx, hg⟩ => ?_, fun tid x ⟨ht, hx, hg⟩ => ?_⟩
  · have hg : tid ∉ s.guarded f := fun hm => ht (List.mem_filter.1 hm).1
    have hu : tid ∉ s.unguarded f := fun hm => ht (List.mem_filter.1 hm).1
    rw [thread]
    cases s.threads.get? tid <;> simp [hg, hu]
  · rw [thread, hx]
    simp [State.mem_guarded hx, State.mem_unguarded hx, ht, hg]
  · rw [thread, hx]
    simp [State.mem_guarded hx, State.mem_unguarded hx, ht, hg]

theorem segOf_lt (p : Ptr) : segOf p < 2 ^ 20 := by
  have := p.isLt
  rw [segOf, BitVec.toNat_ushiftRight, Nat.shiftRight_eq_div_pow]
  omega

/-- A pointer in a pointer's own segment, at an offset that fits. -/
theorem mkPtr_segOf {p : Ptr} {n : Nat} (h : n < 2 ^ 44) : segOf (mkPtr (segOf p) n) = segOf p ∧ offOf (mkPtr (segOf p) n) = n :=
  ⟨by rw [segOf_mkPtr, Nat.mod_eq_of_lt (segOf_lt p)], by rw [offOf_mkPtr, Nat.mod_eq_of_lt h]⟩

/-- A branch's target lies in the current segment at the offset modulo 2^32 (R102). -/
theorem landsAt_codeTarget (s : State) (x : Word) : Claims.LandsAt s (codeTarget s.issue.self x.toInt) x := by
  obtain ⟨seg, off⟩ := mkPtr_segOf (p := s.issue.self) (n := (((offOf s.issue.self : Int) + 4 * x.toInt) % 2 ^ 32).toNat) (by omega)
  refine ⟨seg, ?_⟩
  rw [codeTarget, off]
  omega

/-- The offset that a register holds, in a pointer's own segment (R105). -/
theorem mkPtr_word (p : Ptr) (v : Word) : segOf (mkPtr (segOf p) v.toNat) = segOf p ∧ offOf (mkPtr (segOf p) v.toNat) = v.toNat :=
  mkPtr_segOf (v.isLt.trans (by decide))

theorem jumped_to (x : Thread) (p : Ptr) : Claims.Jumped x { x with pc := p, issued := true } := ⟨rfl, rfl⟩

/-- The link register written, the depth raised, and gone elsewhere (R103). -/
theorem called_link (s : State) (x : Thread) (p : Ptr) : Claims.Called s x { x.link s.issue.next with pc := p, issued := true } :=
  ⟨rfl, rfl, rfl, Thread.reg_setReg .., fun _ hn => (Thread.reg_setReg ..).trans (if_neg hn)⟩

theorem flowFault_of_aligned {F : Fields} {s : State} {tid : Nat} (h : (Claims.valueA F s tid).extractLsb' 0 2 = 0) : flowFault F s tid = none :=
  if_neg (ne_of_eq_of_ne (bne_eq_false_iff_eq.2 h) Bool.false_ne_true)

theorem retOn_pops {seg : Nat} {v : Word} {x : Thread} {c : Crossing} {r : List Crossing} (hc : x.cross = c :: r) (hd : c.depth = x.depth) :
    retOn seg v x = { x with depth := x.depth - 1, cross := r, pc := mkPtr c.seg v.toNat, issued := true } := by
  simp only [retOn, hc, if_pos hd]

theorem retOn_stays {seg : Nat} {v : Word} {x : Thread} (h : ∀ c r, x.cross = c :: r → c.depth ≠ x.depth) :
    retOn seg v x = { x with depth := x.depth - 1, pc := mkPtr seg v.toNat, issued := true } := by
  unfold retOn
  split
  · exact if_neg (h _ _ ‹_›)
  · rfl

/-- RET as R105 and R252 say, whether the newest crossing record is at the thread's depth or not. -/
theorem retOn_spec (p : Ptr) (v : Word) (x : Thread) :
    let y := retOn (segOf p) v x
    offOf y.pc = v.toNat ∧ { y with pc := x.pc, issued := x.issued, depth := x.depth, cross := x.cross } = x ∧ y.issued = true ∧
      y.depth = x.depth - 1 ∧
      (∀ c r, x.cross = c :: r → c.depth = x.depth → segOf y.pc = c.seg % 2 ^ 20 ∧ y.cross = r) ∧
      ((∀ c r, x.cross = c :: r → c.depth ≠ x.depth) → segOf y.pc = segOf p ∧ y.cross = x.cross) := by
  have stays := mkPtr_word p v
  intro y
  by_cases h : ∀ c r, x.cross = c :: r → c.depth ≠ x.depth
  · rw [show y = _ from retOn_stays h]
    exact ⟨stays.2, rfl, rfl, rfl, fun c r hc hd => (h c r hc hd).elim, fun _ => ⟨stays.1, rfl⟩⟩
  · push Not at h
    obtain ⟨c, r, hc, hd⟩ := h
    rw [show y = _ from retOn_pops hc hd]
    refine ⟨(offOf_mkPtr ..).trans (Nat.mod_eq_of_lt (v.isLt.trans (by decide))), rfl, rfl, rfl, fun c' r' hc' _ => ?_, fun h => (h c r hc hd).elim⟩
    obtain ⟨rfl, rfl⟩ := List.cons_eq_cons.1 (hc.symm.trans hc')
    exact ⟨segOf_mkPtr .., rfl⟩

/-- Settles O8: each row is one change of its acting threads, which says where they go on. -/
theorem controlTransfers : Obligations.ControlTransfers := by
  refine ⟨?direct, ?indirect⟩
  case direct =>
    intro i F s hwf hF hmaj calm
    have exec_of {t : State} (hx : meaning F s = t) : exec i s = .next t := (exec_eq_meaning s hF hwf).trans (congrArg _ hx)
    have lands := landsAt_codeTarget s F.x
    rcases hmaj with hm | hm
    · obtain ⟨only, passes, acts⟩ := runFlow_transfers calm fun _ x => { x with pc := codeTarget s.issue.self F.x.toInt, issued := true }
      refine ⟨_, exec_of (show meaning F s = xBra F s by simp [meaning, hm]), only, passes, fun tid x hx => ⟨_, acts tid x hx, lands, ?_⟩⟩
      rw [if_pos hm]
      exact jumped_to x _
    · obtain ⟨only, passes, acts⟩ := runFlow_transfers calm fun _ x =>
        { x.link s.issue.next with pc := codeTarget s.issue.self F.x.toInt, issued := true }
      refine ⟨_, exec_of (show meaning F s = xCall F s by simp [meaning, hm]), only, passes, fun tid x hx => ⟨_, acts tid x hx, lands, ?_⟩⟩
      rw [if_neg (by omega)]
      exact called_link s x _
  case indirect =>
    intro i F s hwf hF hmaj hmn calm haligned
    have exec_of {t : State} (hx : meaning F s = t) : exec i s = .next t := (exec_eq_meaning s hF hwf).trans (congrArg _ hx)
    have calm' : Calm s F (flowFault F s) := fun tid ht => ⟨(calm tid ht).1, flowFault_of_aligned (haligned tid ht)⟩
    have lands (tid : Nat) := mkPtr_word s.issue.self (Claims.valueA F s tid)
    obtain hm | hm | hm : F.mn = 0 ∨ F.mn = 1 ∨ F.mn = 2 := by omega
    · obtain ⟨only, passes, acts⟩ := runFlow_transfers calm' fun tid x => retOn (segOf s.issue.self) (Claims.valueA F s tid) x
      refine ⟨_, exec_of (show meaning F s = xRet F s by simp [meaning, hmaj, hm]), only, passes, fun tid x hx => ⟨_, acts tid x hx, ?_⟩⟩
      obtain ⟨off, rest⟩ := retOn_spec s.issue.self (Claims.valueA F s tid) x
      exact ⟨off, by omega, by omega, fun _ => rest⟩
    · obtain ⟨only, passes, acts⟩ := runFlow_transfers calm' fun tid x =>
        { x with pc := mkPtr (segOf s.issue.self) (Claims.valueA F s tid).toNat, issued := true }
      refine ⟨_, exec_of (show meaning F s = xJmpi F s by simp [meaning, hmaj, hm]), only, passes, fun tid x hx => ⟨_, acts tid x hx, (lands tid).2, ?_⟩⟩
      exact ⟨fun _ => ⟨(lands tid).1, jumped_to x _⟩, by omega, by omega⟩
    · obtain ⟨only, passes, acts⟩ := runFlow_transfers calm' fun tid x =>
        { x.link s.issue.next with pc := mkPtr (segOf s.issue.self) (Claims.valueA F s tid).toNat, issued := true }
      refine ⟨_, exec_of (show meaning F s = xCalli F s by simp [meaning, hmaj, hm]), only, passes, fun tid x hx => ⟨_, acts tid x hx, (lands tid).2, ?_⟩⟩
      exact ⟨by omega, fun _ => ⟨(lands tid).1, called_link s x _⟩, by omega⟩

end Machine
end Sys2Proof
end

section
/-! PROOFS. The end of threads and of their team (05 R108, 08 R144, R153, 09 R166): what EXIT of one thread does where no thread of the
team waits or handles a trap, the end of a team, and the threads of a bundle that exit one after another. -/

namespace Sys2Proof

theorem Tab.modify_of_notMem {α : Type} {t : Tab α} {k : Nat} (h : k ∉ t.keys) (f : α → α) : t.modify k f = t :=
  (List.map_congr_left fun e he => congrArg (Prod.mk e.1) (if_neg fun hk => h (List.mem_map.2 ⟨e, he, hk⟩))).trans (List.map_id t)

/-- In a table that lists each number once, a change of an entry that `p` leaves out before and after changes none of those it takes. -/
theorem Tab.filter_modify {α : Type} {t : Tab α} (hnd : t.keys.Nodup) {k : Nat} {v : α} (h : t.get? k = some v) {f : α → α} {p : α → Bool}
    (hv : p v = false) (hf : p (f v) = false) : (t.modify k f).filter (fun e => p e.2) = t.filter (fun e => p e.2) := by
  induction t with
  | nil => rfl
  | cons e t ih =>
    obtain ⟨j, w⟩ := e
    obtain ⟨hnot, hnd⟩ := List.nodup_cons.1 hnd
    have cons : Tab.modify ((j, w) :: t) k f = (j, if j = k then f w else w) :: Tab.modify t k f := rfl
    rw [Tab.get?_cons] at h
    rw [cons, List.filter_cons, List.filter_cons]
    by_cases hj : k = j
    · subst hj
      rw [if_pos rfl, Option.some.injEq] at h
      subst h
      simp only [if_true, hf, hv, Tab.modify_of_notMem hnot, Bool.false_eq_true, if_false]
    · rw [if_neg hj] at h
      rw [if_neg (Ne.symm hj), ih hnd h]

namespace Machine
open Sys2Proof.Safety

/-! A thread without a wait or a trap slot is left alone by the release of a barrier and the failure of a GEN. -/

/-- A thread that neither waits nor handles a trap. -/
structure Thread.Free (x : Thread) : Prop where
  wait : x.wait = .none
  inHandler : x.inHandler = false

theorem Thread.Free.slots {x : Thread} (h : x.Free) : x.slotS = none ∧ x.slotF = none ∧ x.slotP = none := by
  simpa [Thread.inHandler, and_assoc] using h.inHandler

theorem Thread.Free.releaseBarrier {x : Thread} (h : x.Free) (b : Barrier) (bar : Nat) : releaseBarrier b bar x = x := by
  obtain ⟨hS, hF, hP⟩ := h.slots
  have hw := h.wait
  cases x
  simp_all [Machine.releaseBarrier]

theorem Thread.Free.failHeld {x : Thread} (h : x.Free) (p : Wait → Bool) (code : Byte) (aux : Word) : x.failHeld p code aux = x := by
  obtain ⟨hS, hF, hP⟩ := h.slots
  cases x
  simp_all [Thread.failHeld, Thread.mapSlots]

theorem Thread.Free.atMeeting {x : Thread} (h : x.Free) : x.atMeeting = false := by
  obtain ⟨hS, hF, hP⟩ := h.slots
  simp [Thread.atMeeting, h.wait, hS, hF, hP]

/-- A thread that has exited (R108). -/
def Thread.exit (x : Thread) : Thread := { x with life := .exited, regs := [], wait := .none, meet := none, meets := [], issued := true }

theorem Thread.Free.exit {x : Thread} (h : x.Free) : x.exit.Free := ⟨rfl, h.inHandler⟩

namespace State

/-- What each step of a fold keeps, the fold keeps. -/
theorem foldl_keeps {α β : Type} (r : State → β) {f : State → α → State} (hf : ∀ s a, r (f s a) = r s) (l : List α) (s : State) :
    r (l.foldl f s) = r s := by
  induction l generalizing s with
  | nil => rfl
  | cons a l ih => exact (ih (f s a)).trans (hf s a)

/-- No thread of a team waits or handles a trap. -/
def AllFree (s : State) (k : Nat) : Prop := ∀ u y, s.threads.get? u = some y → teamOf (gidOf u) = k → y.Free

/-! The barriers of one team, and the bundles, are all that the exit of a thread changes but for the thread and the end of its team. -/

/-- From `s` to `t` only the barriers of team `k` and the bundles change. -/
structure BarsChange (k : Nat) (s t : State) : Prop where
  rest : { t with threads := s.threads, teams := s.teams, parts := s.parts } = s
  threads : ∀ u, t.threads.get? u = s.threads.get? u
  teams : ∀ j, j ≠ k → t.teams.get? j = s.teams.get? j
  team : ∀ T, s.teams.get? k = some T → ∃ bars, t.teams.get? k = some { T with bars := bars }

theorem BarsChange.refl (k : Nat) (s : State) : BarsChange k s s := ⟨rfl, fun _ => rfl, fun _ _ => rfl, fun T h => ⟨T.bars, h⟩⟩

theorem BarsChange.trans {k : Nat} {s t u : State} (h : BarsChange k s t) (h' : BarsChange k t u) : BarsChange k s u where
  rest := (congrArg (fun x : State => { x with threads := s.threads, teams := s.teams, parts := s.parts }) h'.rest).trans h.rest
  threads := fun v => (h'.threads v).trans (h.threads v)
  teams := fun j hj => (h'.teams j hj).trans (h.teams j hj)
  team := fun T hT => by
    obtain ⟨bars, ht⟩ := h.team T hT
    exact h'.team { T with bars := bars } ht

theorem BarsChange.allFree {k j : Nat} {s t : State} (h : BarsChange k s t) (hs : s.AllFree j) : t.AllFree j :=
  fun u y hy => hs u y (h.threads u ▸ hy)

/-- Threads that read as before are a change of no barrier. -/
theorem barsChange_mapThreads {s : State} (k : Nat) {f : Nat → Thread → Thread} (h : ∀ u y, s.threads.get? u = some y → f u y = y) :
    BarsChange k s (s.mapThreads f) where
  rest := rfl
  threads := fun u => by
    rw [mapThreads_threads, Tab.get?_mapKV]
    cases hu : s.threads.get? u with
    | none => rfl
    | some y => rw [Option.map_some, h u y hu]
  teams := fun _ _ => rfl
  team := fun T hT => ⟨T.bars, hT⟩

theorem barsChange_unbundle (s : State) (k : Nat) (ts : List Nat) : BarsChange k s (s.unbundle ts) :=
  ⟨rfl, fun _ => rfl, fun _ _ => rfl, fun T h => ⟨T.bars, h⟩⟩

theorem barsChange_setBarrier (s : State) (k bar : Nat) (b : Barrier) : BarsChange k s (s.setBarrier k bar b) where
  rest := rfl
  threads := fun _ => rfl
  teams := fun j hj => by simp [setBarrier, hj]
  team := fun T hT => ⟨T.bars.put bar b, by simp [setBarrier, hT]⟩

/-! Barriers (R153, R166). -/

theorem waitersAt_of_free {s : State} {k : Nat} (h : s.AllFree k) (bar phase : Nat) : s.waitersAt k bar phase = [] := by
  refine List.filter_eq_nil_iff.2 fun u hu => ?_
  obtain ⟨hk, hteam⟩ := List.mem_filter.1 hu
  obtain ⟨y, hy⟩ := Tab.mem_keys_iff.1 hk
  rw [thread_of_get? hy, (h u y hy (by simpa using hteam)).wait]
  exact Bool.false_ne_true

theorem forgetOf_nil (s : State) : s.forgetOf [] = s := by simp [forgetOf]

theorem settleBarrier_barsChange {s : State} {k : Nat} (h : s.AllFree k) (bar : Nat) : BarsChange k s (s.settleBarrier k bar) := by
  simp only [settleBarrier, waitersAt_of_free h, forgetOf_nil]
  split
  · refine ((barsChange_unbundle s k []).trans (barsChange_mapThreads k fun u y hy => ?_)).trans (barsChange_setBarrier _ k bar _)
    split
    · exact (h u y hy ‹_›).releaseBarrier _ bar
    · rfl
  · exact BarsChange.refl k s

theorem deductBarrier_barsChange {s : State} {tid : Nat} (h : s.AllFree (teamOf (gidOf tid))) (bar : Nat) :
    BarsChange (teamOf (gidOf tid)) s (s.deductBarrier tid bar) := by
  have set (b : Barrier) := barsChange_setBarrier s (teamOf (gidOf tid)) bar b
  exact (set _).trans (settleBarrier_barsChange ((set _).allFree h) bar)

theorem foldl_deductBarrier_barsChange {s : State} {tid : Nat} (h : s.AllFree (teamOf (gidOf tid))) (l : List Nat) :
    BarsChange (teamOf (gidOf tid)) s (l.foldl (fun s b => s.deductBarrier tid b) s) := by
  induction l generalizing s with
  | nil => exact BarsChange.refl _ s
  | cons b l ih =>
    have hb := deductBarrier_barsChange h b
    exact hb.trans (ih (hb.allFree h))

/-- Nobody waits at a meeting of the group, so none is complete (R151). -/
theorem settleMeetings_of_free {s : State} {gid : Nat} (h : s.AllFree (teamOf gid)) : s.settleMeetings gid = s := by
  have settle (m : Meeting) : s.settleMeeting gid m = s := by
    refine if_neg fun ⟨hne, hall⟩ => ?_
    obtain ⟨u, hu⟩ := List.exists_mem_of_ne_nil _ hne
    obtain ⟨hgid, y, hy, -⟩ := mem_presentOf.1 (List.mem_filter.1 hu).1
    have := List.all_eq_true.1 hall u hu
    rw [thread_of_get? hy, (h u y hy (by rw [hgid])).atMeeting] at this
    cases this
  exact foldl_eq_self_of_mem fun m _ => settle m

/-- Nobody waits at a GEN, so none fails (R200). -/
theorem failGen_of_free {s : State} {gid : Nat} (h : s.AllFree (teamOf gid)) (reason : Nat) :
    s.failGen gid reason = (s.mapThreads (fun tid t => if gidOf tid = gid then
      t.failHeld Wait.atGen codeGen (genAux reason (if reason = 5 then 0x17 else 0)) else t)).unbundle [] := by
  have none : (s.presentOf gid).filter (fun t => decide ((s.thread t).wait = .gen)) = [] := by
    refine List.filter_eq_nil_iff.2 fun u hu => ?_
    obtain ⟨hgid, y, hy, -⟩ := mem_presentOf.1 hu
    rw [thread_of_get? hy, (h u y hy (by rw [hgid])).wait]
    decide
  simp only [failGen, none, List.map_nil, List.foldl_nil]

theorem failGen_barrier {s : State} {gid : Nat} (h : s.AllFree (teamOf gid)) (reason k b : Nat) :
    (s.failGen gid reason).barrier k b = s.barrier k b := by
  rw [failGen_of_free h]
  rfl

theorem failGen_barsChange {s : State} {gid : Nat} (h : s.AllFree (teamOf gid)) (reason : Nat) :
    BarsChange (teamOf gid) s (s.failGen gid reason) := by
  rw [failGen_of_free h]
  refine (barsChange_mapThreads _ fun u y hy => ?_).trans (barsChange_unbundle _ _ [])
  split
  · exact (h u y hy (by rw [‹gidOf u = gid›])).failHeld ..
  · rfl

/-! What the exit of threads leaves of a barrier without arrivals (R153, R166). -/

end State

/-- A barrier without arrivals after some threads have exited. -/
def Barrier.without (b : Barrier) (ts : List Nat) : Barrier :=
  { b with e := b.e - ts.length, pendingE := b.pendingE.map (· - ts.length), votes := b.votes.filter (fun v => !ts.contains v.1) }

@[simp] theorem Barrier.without_nil (b : Barrier) : b.without [] = b := by
  obtain ⟨_, _, pendingE, _⟩ := b
  cases pendingE <;> simp [without]

theorem Barrier.without_cons (b : Barrier) (t : Nat) (ts : List Nat) : b.without (t :: ts) = (b.without [t]).without ts := by
  simp [without, Nat.sub_sub, Nat.add_comm, Option.map_map, Function.comp_def, List.filter_filter, Bool.and_comm]

namespace State

section
variable {s : State} {k : Nat} {T : Team} (hT : s.teams.get? k = some T)
include hT

theorem barrier_setBarrier (bar j : Nat) (b : Barrier) : (s.setBarrier k bar b).barrier k j = if j = bar then b else s.barrier k j := by
  have team : (s.setBarrier k bar b).team k = { T with bars := T.bars.put bar b } := team_of_get? (by simp [setBarrier, hT])
  simp only [barrier, team, team_of_get? hT, Tab.getD, Tab.get?_put]
  split <;> rfl

theorem barrier_settleBarrier_of_ne {bar j : Nat} (h : j ≠ bar) : (s.settleBarrier k bar).barrier k j = s.barrier k j := by
  unfold settleBarrier
  dsimp only
  split
  · refine (barrier_setBarrier (T := T) ?_ bar j _).trans (if_neg h)
    exact hT
  · rfl

end

section
variable {s : State} {tid : Nat} {T : Team} (hT : s.teams.get? (teamOf (gidOf tid)) = some T)
include hT

theorem barrier_deductBarrier_of_ne {bar j : Nat} (h : j ≠ bar) :
    (s.deductBarrier tid bar).barrier (teamOf (gidOf tid)) j = s.barrier (teamOf (gidOf tid)) j := by
  have set (b : Barrier) : (s.setBarrier (teamOf (gidOf tid)) bar b).teams.get? (teamOf (gidOf tid)) = some { T with bars := T.bars.put bar b } := by
    simp [setBarrier, hT]
  exact (barrier_settleBarrier_of_ne (set _) h).trans ((barrier_setBarrier hT bar j _).trans (if_neg h))

theorem barrier_deductBarrier_of_empty {bar : Nat} (h : (s.barrier (teamOf (gidOf tid)) bar).arrived = []) :
    (s.deductBarrier tid bar).barrier (teamOf (gidOf tid)) bar = (s.barrier (teamOf (gidOf tid)) bar).without [tid] := by
  have none : (s.barrier (teamOf (gidOf tid)) bar).arrived.contains tid = false := by rw [h]; rfl
  have set : s.deductBarrier tid bar = s.setBarrier (teamOf (gidOf tid)) bar ((s.barrier (teamOf (gidOf tid)) bar).without [tid]) := by
    simp only [deductBarrier, none, Bool.false_eq_true, if_false, settleBarrier]
    rw [if_neg]
    · congr 1
      simp [Barrier.without]
      rfl
    · rw [barrier_setBarrier hT, if_pos rfl]
      exact fun hne => hne.1 h
  rw [set, barrier_setBarrier hT, if_pos rfl]

end

/-- Each barrier of a list without arrivals is deducted from once. -/
theorem barrier_foldl_deductBarrier {tid bar : Nat} {l : List Nat} (hnd : l.Nodup) {s : State} (hfree : s.AllFree (teamOf (gidOf tid))) {T : Team}
    (hT : s.teams.get? (teamOf (gidOf tid)) = some T) (h : (s.barrier (teamOf (gidOf tid)) bar).arrived = []) :
    (l.foldl (fun s b => s.deductBarrier tid b) s).barrier (teamOf (gidOf tid)) bar =
      if bar ∈ l then (s.barrier (teamOf (gidOf tid)) bar).without [tid] else s.barrier (teamOf (gidOf tid)) bar := by
  induction l generalizing s T with
  | nil => rfl
  | cons b l ih =>
    obtain ⟨hnot, hnd⟩ := List.nodup_cons.1 hnd
    have change := deductBarrier_barsChange hfree b
    obtain ⟨bars, hT'⟩ := change.team T hT
    have rest := ih hnd (change.allFree hfree) hT'
    by_cases hb : bar = b
    · subst hb
      have hd := barrier_deductBarrier_of_empty hT h
      rw [List.foldl_cons, rest (by rw [hd]; exact h), hd, if_neg hnot, if_pos List.mem_cons_self]
    · have hd := barrier_deductBarrier_of_ne hT hb
      rw [List.foldl_cons, rest (by rw [hd]; exact h), hd]
      simp [hb]

/-! What becomes of the running commands. -/

/-- The commands that run. -/
def runningCommands (s : State) : Tab Command := s.commands.filter (fun e => decide (e.2.state = .running))

/-- Does a command name the scratchpad of a team (R316)? -/
def namesSpad (s : State) (team : Nat) (c : Command) : Bool :=
  let names (k : Nat) : Bool :=
    match c.pusher with
    | some g => decide (s.spadTeam g ((loWord (c.pair k)).extractLsb' 19 2).toNat = some team)
    | none => false
  (c.ssp && names 2) || (c.dsp && names 4)

theorem copying_eq (s : State) (k : Nat) : s.copying k = s.runningCommands.any (fun e => s.namesSpad k e.2) := by
  rw [runningCommands, List.any_filter]
  rfl

/-- Whether a COPY or FILL that names a team's scratchpad runs is said by the running commands and the gangs. -/
theorem copying_congr {s t : State} (hr : t.runningCommands = s.runningCommands) (hg : ∀ j, (t.team j).gang = (s.team j).gang) (k : Nat) :
    t.copying k = s.copying k := by
  have spad : t.spadTeam = s.spadTeam := by
    funext gid mem
    simp only [spadTeam, hg]
  simp only [copying_eq, hr, namesSpad, spad]

end State

namespace State

theorem releaseNode_frame (s : State) (ctx n : Nat) :
    { s.releaseNode ctx n with commands := s.commands, nextReady := s.nextReady } = s := by
  unfold releaseNode
  dsimp only
  repeat' split
  all_goals rfl

theorem signal_frame (s : State) (ctx n : Nat) (cancel : Bool) :
    { s.signal ctx n cancel with contexts := s.contexts, commands := s.commands, nextReady := s.nextReady } = s := by
  unfold signal
  dsimp only
  split
  · rfl
  · exact congrArg (fun u : State => { u with contexts := s.contexts }) (releaseNode_frame (s.setNode ctx n _) ctx n)

theorem settleTrigger_frame (s : State) (l : Nat) : { s.settleTrigger l with
    launches := s.launches, contexts := s.contexts, commands := s.commands, nextReady := s.nextReady } = s := by
  unfold settleTrigger
  dsimp only
  split
  · rfl
  · split
    · rfl
    · refine (foldl_keeps (fun u : State => { u with
        launches := s.launches, contexts := s.contexts, commands := s.commands, nextReady := s.nextReady }) (fun u j => ?_) _ _).trans rfl
      exact congrArg (fun v : State => { v with
        launches := s.launches, contexts := s.contexts, commands := s.commands, nextReady := s.nextReady }) (signal_frame u _ _ false)

@[simp] theorem settleTrigger_threads (s : State) (l : Nat) : (s.settleTrigger l).threads = s.threads := by
  have := congrArg State.threads (settleTrigger_frame s l)
  exact this

@[simp] theorem settleTrigger_teams (s : State) (l : Nat) : (s.settleTrigger l).teams = s.teams := by
  have := congrArg State.teams (settleTrigger_frame s l)
  exact this

/-- A command that a record releases waited, so no running command changes where each number is listed once. -/
theorem releaseNode_running {s : State} (hnd : s.commands.keys.Nodup) (ctx n : Nat) :
    (s.releaseNode ctx n).commands.keys = s.commands.keys ∧ (s.releaseNode ctx n).runningCommands = s.runningCommands := by
  unfold releaseNode
  dsimp only
  split
  · exact ⟨rfl, rfl⟩
  · next c _ =>
    split
    · exact ⟨rfl, rfl⟩
    · next k hk =>
      split
      · next hw =>
        have running (st : CmdState) (hst : decide (st = .running) = false) :
            (s.commands.modify c (fun k => { k with state := st })).filter (fun e => decide (e.2.state = .running)) = s.runningCommands :=
          Tab.filter_modify (p := fun k : Command => decide (k.state = .running)) hnd hk (by rw [hw.2]; rfl) hst
        have keys (f : Command → Command) : (s.modCommand c f).commands.keys = s.commands.keys := by rw [modCommand_commands, Tab.keys_modify]
        split
        · exact ⟨keys _, running _ rfl⟩
        · exact ⟨keys (fun k => { k with state := .ready s.nextReady }), running _ rfl⟩
      · exact ⟨rfl, rfl⟩

theorem signal_running {s : State} (hnd : s.commands.keys.Nodup) (ctx n : Nat) (cancel : Bool) :
    (s.signal ctx n cancel).commands.keys = s.commands.keys ∧ (s.signal ctx n cancel).runningCommands = s.runningCommands := by
  unfold signal
  dsimp only
  split
  · exact ⟨rfl, rfl⟩
  · exact releaseNode_running (s := s.setNode ctx n _) hnd ctx n

theorem settleTrigger_running {s : State} (hnd : s.commands.keys.Nodup) (l : Nat) :
    (s.settleTrigger l).commands.keys = s.commands.keys ∧ (s.settleTrigger l).runningCommands = s.runningCommands := by
  unfold settleTrigger
  dsimp only
  split
  · exact ⟨rfl, rfl⟩
  · split
    · exact ⟨rfl, rfl⟩
    · refine List.foldlRecOn (motive := fun u : State => u.commands.keys = s.commands.keys ∧ u.runningCommands = s.runningCommands) _ _ ⟨rfl, rfl⟩
        fun u ⟨hkeys, hrun⟩ j _ => ?_
      obtain ⟨hkeys', hrun'⟩ := signal_running (s := u) (hkeys ▸ hnd) _ _ false
      exact ⟨hkeys'.trans hkeys, hrun'.trans hrun⟩

end State

/-! The end of a team (R144, R145). -/

/-- Thread `u` as the end of team `k` leaves it: a running thread of the team stops (R145). -/
def Thread.stopIn (k u : Nat) (x : Thread) : Thread :=
  if teamOf (gidOf u) = k ∧ x.life = .running then { x with life := .stopped, wait := .none, defPark := false } else x

namespace State

@[simp] theorem stopTeam_threads (s : State) (k : Nat) : (s.stopTeam k).threads = s.threads.mapKV (Thread.stopIn k) := by
  unfold stopTeam
  refine (foldl_keeps State.threads (by intros; rfl) _ _).trans ?_
  exact congrArg (fun ts : Tab Thread => ts.mapKV (Thread.stopIn k)) (foldl_keeps State.threads (f := deductGroup) (by intros; rfl) _ s)

@[simp] theorem stopTeam_teams (s : State) (k : Nat) : (s.stopTeam k).teams = s.teams := by
  unfold stopTeam
  exact (foldl_keeps State.teams (by intros; rfl) _ _).trans (foldl_keeps State.teams (f := deductGroup) (by intros; rfl) _ s)

@[simp] theorem stopTeam_commands (s : State) (k : Nat) : (s.stopTeam k).commands = s.commands := by
  unfold stopTeam
  exact (foldl_keeps State.commands (by intros; rfl) _ _).trans (foldl_keeps State.commands (f := deductGroup) (by intros; rfl) _ s)

/-! What a publication and the settling of a launch leave alone. -/

@[simp] theorem writeBack_threads (s : State) (d : Nat) : (s.writeBack d).threads = s.threads := by
  have := congrArg State.threads (putCells_frame s (s.domain d).overlay)
  exact this

@[simp] theorem writeBack_teams (s : State) (d : Nat) : (s.writeBack d).teams = s.teams := by
  have := congrArg State.teams (putCells_frame s (s.domain d).overlay)
  exact this

@[simp] theorem countLines_threads (s : State) (gid : Nat) (cells : List Host.Cell) : (s.countLines gid cells).threads = s.threads := by
  unfold countLines countUse
  split <;> rfl

@[simp] theorem countLines_teams (s : State) (gid : Nat) (cells : List Host.Cell) : (s.countLines gid cells).teams = s.teams := by
  unfold countLines countUse
  split <;> rfl

@[simp] theorem drainSpad_threads (s : State) (gid : Nat) : (s.drainSpad gid).threads = s.threads := by
  unfold drainSpad
  exact foldl_keeps State.threads (by intros; rfl) _ s

@[simp] theorem drainSpad_teams_keys (s : State) (gid : Nat) : (s.drainSpad gid).teams.keys = s.teams.keys := by
  unfold drainSpad
  exact foldl_keeps (fun u => u.teams.keys) (by intro u p; rw [spadCells, modTeam_teams, Tab.keys_modify]) _ s

@[simp] theorem publish_threads (s : State) (gid scope : Nat) : (s.publish gid scope).threads = s.threads := by
  unfold publish
  dsimp only
  split
  · rw [writeBack_threads, countLines_threads, drainSpad_threads]
    rfl
  · exact drainSpad_threads ..

@[simp] theorem publish_teams_keys (s : State) (gid scope : Nat) : (s.publish gid scope).teams.keys = s.teams.keys := by
  unfold publish
  dsimp only
  split
  · rw [writeBack_teams, countLines_teams, drainSpad_teams_keys]
    rfl
  · exact drainSpad_teams_keys ..

@[simp] theorem settleLaunch_threads (s : State) (l : Nat) : (s.settleLaunch l).threads = s.threads := by
  unfold settleLaunch
  dsimp only
  split <;> rfl

@[simp] theorem settleLaunch_teams (s : State) (l : Nat) : (s.settleLaunch l).teams = s.teams := by
  unfold settleLaunch
  dsimp only
  split <;> rfl

@[simp] theorem closeTeam_threads (s : State) (k : Nat) (code : Option Byte) (counted : Bool) : (s.closeTeam k code counted).threads = s.threads := by
  have published : (s.publishAll (s.groupsOf k) 3).threads = s.threads := foldl_keeps State.threads (fun s g => publish_threads s g 3) _ s
  unfold closeTeam
  dsimp only
  split
  · rw [settleTrigger_threads, settleLaunch_threads]
    exact published
  · exact published

/-- Team `k` has ended with a code, or will when the copy of its scratchpad is over (R144, R316). -/
def Ended (s : State) (k : Nat) (code : Option Byte) (counted copying : Bool) : Prop :=
  ∃ T, s.teams.get? k = some T ∧ if copying then T.ending = some (code, counted) else T.place = .ended ∧ T.endCode = code

theorem closeTeam_ended {s : State} {k : Nat} {T : Team} (hT : s.teams.get? k = some T) (code : Option Byte) (counted : Bool) :
    (s.closeTeam k code counted).Ended k code counted false := by
  have keys : (s.publishAll (s.groupsOf k) 3).teams.keys = s.teams.keys :=
    foldl_keeps (fun u => u.teams.keys) (fun s g => publish_teams_keys s g 3) _ s
  obtain ⟨T', hT'⟩ := Tab.mem_keys_iff.1 (keys ▸ Tab.mem_keys_iff.2 ⟨T, hT⟩)
  have teams : (s.closeTeam k code counted).teams = ((s.publishAll (s.groupsOf k) 3).modTeam k
      (fun t => { t with place := .ended, endCode := code, ending := none })).teams := by
    unfold closeTeam
    dsimp only
    split
    · rw [settleTrigger_teams, settleLaunch_teams]
      rfl
    · rfl
  exact ⟨{ T' with place := .ended, endCode := code, ending := none }, by rw [teams, modTeam_teams, Tab.get?_modify, if_pos rfl, hT']; rfl, rfl, rfl⟩

/-- The end of a team stops its running threads or, where it has ended, changes no thread. -/
theorem endTeam_threads (s : State) (k : Nat) (code : Option Byte) (counted : Bool) :
    (s.endTeam k code counted).threads = s.threads ∨ (s.endTeam k code counted).threads = s.threads.mapKV (Thread.stopIn k) := by
  unfold endTeam
  split
  · exact .inl rfl
  · split
    · exact .inl rfl
    · right
      dsimp only
      split
      · exact stopTeam_threads s k
      · rw [closeTeam_threads, stopTeam_threads]

theorem copying_stopTeam (s : State) (k j : Nat) : (s.stopTeam k).copying j = s.copying j :=
  copying_congr (by rw [runningCommands, stopTeam_commands, runningCommands]) (fun i => by rw [team, stopTeam_teams, team]) j

/-- A team that has not ended ends now, or when the copy that names its scratchpad is over (R144, R316). -/
theorem endTeam_ended {s : State} {k : Nat} {T : Team} (hT : s.teams.get? k = some T) (hplace : T.place ≠ .ended) (hending : T.ending = none)
    (code : Option Byte) (counted : Bool) : (s.endTeam k code counted).Ended k code counted (s.copying k) := by
  have hT' : (s.stopTeam k).teams.get? k = some T := by rw [stopTeam_teams, hT]
  have ends : s.endTeam k code counted = if s.copying k then (s.stopTeam k).modTeam k (fun t => { t with ending := some (code, counted) })
      else (s.stopTeam k).closeTeam k code counted := by
    unfold endTeam
    rw [team_of_get? hT, if_neg hplace, hending]
    simp only [Option.isSome_none, Bool.false_eq_true, if_false, copying_stopTeam]
  rw [ends]
  cases s.copying k
  · exact closeTeam_ended hT' code counted
  · exact ⟨{ T with ending := some (code, counted) }, by rw [if_pos rfl, modTeam_teams, Tab.get?_modify, if_pos rfl, hT']; rfl, rfl⟩

/-- The end of a team that has ended, or will, changes nothing of that. -/
theorem Ended.endTeam {s : State} {k : Nat} {code : Option Byte} {copying : Bool} (h : s.Ended k code true copying) :
    (s.endTeam k code true).Ended k code true copying := by
  obtain ⟨T, hT, h⟩ := h
  unfold State.endTeam
  rw [team_of_get? hT]
  split
  · exact ⟨T, hT, h⟩
  · next hplace =>
    cases copying
    · exact absurd h.1 hplace
    · replace h : T.ending = some (code, true) := h
      rw [if_pos (by rw [h]; rfl)]
      exact ⟨{ T with ending := some (code, true) }, by rw [modTeam_teams, Tab.get?_modify, if_pos rfl, hT, Option.map_some, h]; rfl, rfl⟩

/-! EXIT of one thread (R108). -/

/-- Every barrier of its team deducts a thread (R153). -/
@[irreducible] def deductBarriers (s : State) (tid : Nat) : State := (List.range 16).foldl (fun s b => s.deductBarrier tid b) s

/-- A thread ends, and its barriers, meetings and the GEN of its group are settled; its group and team are not yet looked at. -/
@[irreducible] def exitAlone (s : State) (tid : Nat) : State :=
  (((s.modThread tid Thread.exit).deductBarriers tid).settleMeetings (gidOf tid)).failGen (gidOf tid) 4

theorem deductBarriers_barsChange {s : State} {tid : Nat} (h : s.AllFree (teamOf (gidOf tid))) :
    BarsChange (teamOf (gidOf tid)) s (s.deductBarriers tid) := by
  unfold deductBarriers
  exact foldl_deductBarrier_barsChange h _

theorem deductBarriers_barrier {s : State} {tid b : Nat} (h : s.AllFree (teamOf (gidOf tid))) {T : Team}
    (hT : s.teams.get? (teamOf (gidOf tid)) = some T) (hb : b < 16) (harr : (s.barrier (teamOf (gidOf tid)) b).arrived = []) :
    (s.deductBarriers tid).barrier (teamOf (gidOf tid)) b = (s.barrier (teamOf (gidOf tid)) b).without [tid] := by
  unfold deductBarriers
  rw [barrier_foldl_deductBarrier List.nodup_range h hT harr, if_pos (List.mem_range.2 hb)]

/-- A group all of whose threads have exited ends, and with the last group its team (R144). -/
def settleEnd (s : State) (gid : Nat) : State :=
  if s.groupEnded gid then
    let s := s.deductGroup gid
    if (s.groupsOf (teamOf gid)).all (s.groupEnded ·) then s.endTeam (teamOf gid) none true else s.settleTrigger (s.team (teamOf gid)).launch
  else s

theorem exitThread_eq (s : State) (tid : Nat) : s.exitThread tid = (s.exitAlone tid).settleEnd (gidOf tid) := by
  unfold exitAlone deductBarriers
  exact rfl

/-- The group stays, or ends alone, or its team ends with it. -/
theorem settleEnd_cases (s : State) (gid : Nat) :
    (s.groupEnded gid = false ∧ s.settleEnd gid = s) ∨
    ((s.groupsOf (teamOf gid)).all s.groupEnded = false ∧ s.settleEnd gid = (s.deductGroup gid).settleTrigger (s.team (teamOf gid)).launch) ∨
    ((s.groupsOf (teamOf gid)).all s.groupEnded = true ∧ s.settleEnd gid = (s.deductGroup gid).endTeam (teamOf gid) none true) := by
  have settles : s.settleEnd gid = if s.groupEnded gid then
      if (s.groupsOf (teamOf gid)).all s.groupEnded then (s.deductGroup gid).endTeam (teamOf gid) none true
      else (s.deductGroup gid).settleTrigger (s.team (teamOf gid)).launch
      else s := rfl
  rw [settles]
  cases s.groupEnded gid
  · exact .inl ⟨rfl, rfl⟩
  · cases (s.groupsOf (teamOf gid)).all s.groupEnded
    · exact .inr (.inl ⟨rfl, rfl⟩)
    · exact .inr (.inr ⟨rfl, rfl⟩)

/-- The end of a group changes no thread but where its team ends. -/
theorem settleEnd_threads (s : State) (gid u : Nat) : (s.settleEnd gid).threads.get? u = s.threads.get? u ∨
    (s.settleEnd gid).threads.get? u = (s.threads.get? u).map (Thread.stopIn (teamOf gid) u) := by
  obtain ⟨-, e⟩ | ⟨-, e⟩ | ⟨-, e⟩ := settleEnd_cases s gid
  · rw [e]
    exact .inl rfl
  · rw [e, settleTrigger_threads]
    exact .inl rfl
  · rw [e]
    rcases endTeam_threads (s.deductGroup gid) (teamOf gid) none true with e | e
    · exact .inl (by rw [e]; rfl)
    · exact .inr (by rw [e, Tab.get?_mapKV]; rfl)

theorem allFree_modThread_exit {s : State} {k : Nat} (h : s.AllFree k) (tid : Nat) : (s.modThread tid Thread.exit).AllFree k := by
  intro u y hy hk
  rw [modThread_threads, Tab.get?_modify] at hy
  split at hy
  · obtain ⟨x, hx, rfl⟩ := Option.map_eq_some_iff.1 hy
    exact (h u x hx hk).exit
  · exact h u y hy hk

section
variable {s : State} {tid : Nat} (h : s.AllFree (teamOf (gidOf tid)))
include h

theorem exitAlone_barsChange : BarsChange (teamOf (gidOf tid)) (s.modThread tid Thread.exit) (s.exitAlone tid) := by
  have free := allFree_modThread_exit h tid
  have deducted := deductBarriers_barsChange free
  have free' := deducted.allFree free
  rw [exitAlone, settleMeetings_of_free free']
  exact deducted.trans (failGen_barsChange free' 4)

theorem exitAlone_threads (u : Nat) :
    (s.exitAlone tid).threads.get? u = (s.threads.get? u).map (fun x => if u = tid then x.exit else x) := by
  rw [(exitAlone_barsChange h).threads, modThread_threads, Tab.get?_modify]
  split <;> simp

theorem exitAlone_allFree : (s.exitAlone tid).AllFree (teamOf (gidOf tid)) :=
  (exitAlone_barsChange h).allFree (allFree_modThread_exit h tid)

/-- Each barrier without arrivals is deducted from once. -/
theorem exitAlone_barrier {T : Team} (hT : s.teams.get? (teamOf (gidOf tid)) = some T) {b : Nat} (hb : b < 16)
    (harr : (s.barrier (teamOf (gidOf tid)) b).arrived = []) :
    (s.exitAlone tid).barrier (teamOf (gidOf tid)) b = (s.barrier (teamOf (gidOf tid)) b).without [tid] := by
  have free := allFree_modThread_exit h tid
  have free' := (deductBarriers_barsChange free).allFree free
  rw [exitAlone, settleMeetings_of_free free', failGen_barrier free']
  exact deductBarriers_barrier free hT hb harr

end

/-! Threads after the exit of one. -/

/-- Thread `u` has exited: no register and no wait is left (R108). -/
def Gone (s : State) (u : Nat) : Prop := ∃ y, s.threads.get? u = some y ∧ y.life = .exited ∧ y.regs = [] ∧ y.wait = .none

theorem Gone.settleEnd {s : State} {u : Nat} (h : s.Gone u) (gid : Nat) : (s.settleEnd gid).Gone u := by
  obtain ⟨y, hy, gone⟩ := h
  refine ⟨y, ?_, gone⟩
  rcases settleEnd_threads s gid u with e | e
  · rw [e, hy]
  · rw [e, hy, Option.map_some, Thread.stopIn, if_neg fun h => by rw [gone.1] at h; cases h.2]

theorem AllFree.settleEnd {s : State} {k : Nat} (h : s.AllFree k) (gid : Nat) : (s.settleEnd gid).AllFree k := by
  intro u y hy hk
  rcases settleEnd_threads s gid u with e | e
  · exact h u y (e ▸ hy) hk
  · obtain ⟨x, hx, rfl⟩ := Option.map_eq_some_iff.1 (e ▸ hy)
    have free := h u x hx hk
    unfold Thread.stopIn
    split
    · exact ⟨rfl, free.inHandler⟩
    · exact free

section
variable {s : State} {tid : Nat} (h : s.AllFree (teamOf (gidOf tid)))
include h

theorem exitThread_allFree : (s.exitThread tid).AllFree (teamOf (gidOf tid)) := by
  rw [exitThread_eq]
  exact (exitAlone_allFree h).settleEnd _

theorem exitThread_gone {x : Thread} (hx : s.threads.get? tid = some x) : (s.exitThread tid).Gone tid := by
  rw [exitThread_eq]
  exact Gone.settleEnd ⟨x.exit, by rw [exitAlone_threads h, hx, Option.map_some, if_pos rfl], rfl, rfl, rfl⟩ _

theorem Gone.exitThread {u : Nat} (hu : s.Gone u) : (s.exitThread tid).Gone u := by
  obtain ⟨y, hy, hlife, hregs, hwait⟩ := hu
  rw [exitThread_eq]
  refine Gone.settleEnd ⟨if u = tid then y.exit else y, by rw [exitAlone_threads h, hy, Option.map_some], ?_⟩ _
  split
  · exact ⟨rfl, rfl, rfl⟩
  · exact ⟨hlife, hregs, hwait⟩

/-- A thread that was there is there still. -/
theorem exitThread_some {u : Nat} {x : Thread} (hx : s.threads.get? u = some x) : ∃ y, (s.exitThread tid).threads.get? u = some y := by
  rcases settleEnd_threads (s.exitAlone tid) (gidOf tid) u with e | e
  · exact ⟨_, by rw [exitThread_eq, e, exitAlone_threads h, hx]; rfl⟩
  · exact ⟨_, by rw [exitThread_eq, e, exitAlone_threads h, hx]; rfl⟩

end

/-! The threads of a bundle exit one after another. -/

/-- Those that had gone have gone, and each of the list has. -/
theorem foldl_exitThread_gone {k : Nat} {l : List Nat} (hk : ∀ tid ∈ l, teamOf (gidOf tid) = k) {s : State} (h : s.AllFree k) (u : Nat)
    (hu : s.Gone u ∨ u ∈ l ∧ ∃ x, s.threads.get? u = some x) : (l.foldl exitThread s).Gone u := by
  induction l generalizing s with
  | nil => simpa using hu
  | cons tid l ih =>
    obtain ⟨rfl, hk⟩ := List.forall_mem_cons.1 hk
    rw [List.foldl_cons]
    refine ih hk (s := s.exitThread tid) (exitThread_allFree h) ?_
    obtain hu | ⟨hm, x, hx⟩ := hu
    · exact .inl (Gone.exitThread h hu)
    · rcases List.mem_cons.1 hm with rfl | hm
      · exact .inl (exitThread_gone h hx)
      · exact .inr ⟨hm, exitThread_some h hx⟩

/-- From `s` to `t` the threads of a list of team `k` have exited, and their barriers are deducted from (R108, R153, R166). -/
structure Exited (k : Nat) (l : List Nat) (s t : State) : Prop where
  rest : { t with threads := s.threads, teams := s.teams, parts := s.parts } = s
  threads : ∀ u, t.threads.get? u = (s.threads.get? u).map (fun x => if u ∈ l then x.exit else x)
  teams : ∀ j, j ≠ k → t.teams.get? j = s.teams.get? j
  team : ∃ T bars, s.teams.get? k = some T ∧ t.teams.get? k = some { T with bars := bars }
  barriers : ∀ b, b < 16 → (s.barrier k b).arrived = [] → t.barrier k b = (s.barrier k b).without l

theorem exitAlone_exited {s : State} {tid : Nat} (h : s.AllFree (teamOf (gidOf tid))) {T : Team} (hT : s.teams.get? (teamOf (gidOf tid)) = some T) :
    Exited (teamOf (gidOf tid)) [tid] s (s.exitAlone tid) where
  rest := congrArg (fun x : State => { x with threads := s.threads }) (exitAlone_barsChange h).rest
  threads := fun u => by simpa using exitAlone_threads h u
  teams := (exitAlone_barsChange h).teams
  team := by
    obtain ⟨bars, ht⟩ := (exitAlone_barsChange h).team T hT
    exact ⟨T, bars, hT, ht⟩
  barriers := fun _ hb harr => exitAlone_barrier h hT hb harr

theorem Exited.cons {k tid : Nat} {l : List Nat} {s t u : State} (h : Exited k [tid] s t) (h' : Exited k l t u) : Exited k (tid :: l) s u where
  rest := (congrArg (fun x : State => { x with threads := s.threads, teams := s.teams, parts := s.parts }) h'.rest).trans h.rest
  threads := fun v => by
    rw [h'.threads, h.threads, Option.map_map]
    congr 1
    funext x
    by_cases hv : v = tid <;> by_cases hl : v ∈ l <;> simp [hv, hl, Thread.exit]
  teams := fun j hj => (h'.teams j hj).trans (h.teams j hj)
  team := by
    obtain ⟨T, bars, hT, ht⟩ := h.team
    obtain ⟨T', bars', hT', hu⟩ := h'.team
    obtain rfl := Option.some.inj (ht.symm.trans hT')
    exact ⟨T, bars', hT, hu⟩
  barriers := fun b hb harr => by
    have ht := h.barriers b hb harr
    rw [h'.barriers b hb (by rw [ht]; exact harr), ht, ← Barrier.without_cons]

/-- Where each group of the list keeps a thread, no group and no team ends. -/
theorem foldl_exitThread_exited {k : Nat} {l : List Nat} (hk : ∀ tid ∈ l, teamOf (gidOf tid) = k) {s : State} (h : s.AllFree k) {T : Team}
    (hT : s.teams.get? k = some T)
    (hkeep : ∀ tid ∈ l, ∃ u y, s.threads.get? u = some y ∧ gidOf u = gidOf tid ∧ y.life ≠ .exited ∧ u ∉ l) : Exited k l s (l.foldl exitThread s) := by
  induction l generalizing s T with
  | nil => exact ⟨rfl, fun u => by simp, fun _ _ => rfl, ⟨T, T.bars, hT, hT⟩, fun b _ _ => (Barrier.without_nil _).symm⟩
  | cons tid l ih =>
    obtain ⟨rfl, hk⟩ := List.forall_mem_cons.1 hk
    have alone := exitAlone_exited h hT
    have stays {u : Nat} {y : Thread} (hy : s.threads.get? u = some y) (hu : u ∉ tid :: l) : (s.exitAlone tid).threads.get? u = some y := by
      rw [exitAlone_threads h, hy, Option.map_some, if_neg fun e : u = tid => hu (e ▸ List.mem_cons_self)]
    have exits : s.exitThread tid = s.exitAlone tid := by
      obtain ⟨u, y, hy, hgid, hlife, hu⟩ := hkeep tid List.mem_cons_self
      have live := groupEnded_of_live ⟨u, y, stays hy hu, hgid, hlife⟩
      rw [exitThread_eq, settleEnd, if_neg (by rw [live]; exact Bool.false_ne_true)]
    obtain ⟨_, bars, -, hT'⟩ := alone.team
    rw [List.foldl_cons, exits]
    refine alone.cons (ih hk (exitAlone_allFree h) hT' fun v hv => ?_)
    obtain ⟨u, y, hy, hgid, hlife, hu⟩ := hkeep v (List.mem_cons_of_mem _ hv)
    exact ⟨u, y, stays hy hu, hgid, hlife, fun hm => hu (List.mem_cons_of_mem _ hm)⟩

/-! The team ends with the last of its threads (R144). -/

theorem Exited.commands {k : Nat} {l : List Nat} {s t : State} (h : Exited k l s t) : t.commands = s.commands := by
  have := congrArg State.commands h.rest
  exact this

theorem Exited.issue {k : Nat} {l : List Nat} {s t : State} (h : Exited k l s t) : t.issue = s.issue := by
  have := congrArg State.issue h.rest
  exact this

theorem Exited.copying {k : Nat} {l : List Nat} {s t : State} (h : Exited k l s t) (j : Nat) : t.copying j = s.copying j := by
  obtain ⟨T, bars, hT, ht⟩ := h.team
  refine copying_congr (by rw [runningCommands, h.commands, runningCommands]) (fun i => ?_) j
  by_cases hi : i = k
  · rw [hi, team_of_get? ht, team_of_get? hT]
  · rw [State.team, Tab.getD, h.teams i hi]
    rfl

/-- A team that has not ended, and does not wait for a copy of its scratchpad to end. -/
def Open (s : State) (k : Nat) : Prop := ∃ T, s.teams.get? k = some T ∧ T.place ≠ .ended ∧ T.ending = none

theorem live_of_groupEnded {s : State} {gid : Nat} (h : s.groupEnded gid = false) :
    ∃ u y, s.threads.get? u = some y ∧ gidOf u = gid ∧ y.life ≠ .exited := by
  obtain ⟨u, hu, hlife⟩ := List.all_eq_false.1 h
  obtain ⟨hgid, y, hy⟩ := mem_threadsOf.1 hu
  rw [thread_of_get? hy] at hlife
  exact ⟨u, y, hy, hgid, by simpa using hlife⟩

/-- Where the team does not end with a thread, some other thread of it has not exited, and nothing that its end depends on has changed. -/
theorem exitThread_ended_or_open {s : State} {tid : Nat} (h : s.AllFree (teamOf (gidOf tid))) (hopen : s.Open (teamOf (gidOf tid)))
    (hnd : s.commands.keys.Nodup) :
    (s.exitThread tid).Ended (teamOf (gidOf tid)) none true (s.copying (teamOf (gidOf tid))) ∨
    (s.exitThread tid).Open (teamOf (gidOf tid)) ∧ (s.exitThread tid).commands.keys.Nodup ∧
      (s.exitThread tid).copying (teamOf (gidOf tid)) = s.copying (teamOf (gidOf tid)) ∧
      (∀ u, (s.exitThread tid).threads.get? u = (s.threads.get? u).map (fun x => if u = tid then x.exit else x)) ∧
      ∃ u y, s.threads.get? u = some y ∧ teamOf (gidOf u) = teamOf (gidOf tid) ∧ y.life ≠ .exited ∧ u ≠ tid := by
  obtain ⟨T, hT, hplace, hending⟩ := hopen
  have alone := exitAlone_exited h hT
  have threads := exitAlone_threads h
  have commands := alone.commands
  have copying := alone.copying (teamOf (gidOf tid))
  obtain ⟨bars, hT'⟩ := (exitAlone_barsChange h).team T hT
  have live {gid : Nat} (hgid : teamOf gid = teamOf (gidOf tid)) (hg : (s.exitAlone tid).groupEnded gid = false) :
      ∃ u y, s.threads.get? u = some y ∧ teamOf (gidOf u) = teamOf (gidOf tid) ∧ y.life ≠ .exited ∧ u ≠ tid := by
    obtain ⟨u, y, hy, rfl, hlife⟩ := live_of_groupEnded hg
    rw [threads] at hy
    obtain ⟨x, hx, rfl⟩ := Option.map_eq_some_iff.1 hy
    have hu : u ≠ tid := fun e => hlife (by rw [if_pos e]; rfl)
    rw [if_neg hu] at hlife
    exact ⟨u, x, hx, hgid, hlife, hu⟩
  rw [exitThread_eq]
  obtain ⟨hg, e⟩ | ⟨hg, e⟩ | ⟨-, e⟩ := settleEnd_cases (s.exitAlone tid) (gidOf tid)
  · rw [e]
    exact .inr ⟨⟨{ T with bars := bars }, hT', hplace, hending⟩, commands ▸ hnd, copying, threads, live rfl hg⟩
  · obtain ⟨keys, running⟩ := settleTrigger_running (s := (s.exitAlone tid).deductGroup (gidOf tid)) (commands ▸ hnd)
      ((s.exitAlone tid).team (teamOf (gidOf tid))).launch
    obtain ⟨gid, hm, hg⟩ := List.all_eq_false.1 hg
    rw [e]
    refine .inr ⟨⟨{ T with bars := bars }, by rw [settleTrigger_teams]; exact hT', hplace, hending⟩, keys ▸ commands ▸ hnd, ?_, fun u => ?_,
      live (mem_groupsOf.1 hm).1 (by simpa using hg)⟩
    · exact (copying_congr running (fun j => by rw [team, settleTrigger_teams]; rfl) _).trans copying
    · rw [settleTrigger_threads]
      exact threads u
  · rw [e, ← copying]
    exact .inl (endTeam_ended (s := (s.exitAlone tid).deductGroup (gidOf tid)) (T := { T with bars := bars }) hT' hplace hending none true)

/-- The exit of a further thread changes nothing of a team's end. -/
theorem Ended.exitThread {s : State} {tid : Nat} (h : s.AllFree (teamOf (gidOf tid))) {copying : Bool}
    (hend : s.Ended (teamOf (gidOf tid)) none true copying) : (s.exitThread tid).Ended (teamOf (gidOf tid)) none true copying := by
  obtain ⟨T, hT, ended⟩ := hend
  obtain ⟨bars, hT'⟩ := (exitAlone_barsChange h).team T hT
  rw [exitThread_eq]
  obtain ⟨-, e⟩ | ⟨-, e⟩ | ⟨-, e⟩ := settleEnd_cases (s.exitAlone tid) (gidOf tid)
  · rw [e]
    exact ⟨{ T with bars := bars }, hT', ended⟩
  · rw [e]
    exact ⟨{ T with bars := bars }, by rw [settleTrigger_teams]; exact hT', ended⟩
  · rw [e]
    exact Ended.endTeam (s := (s.exitAlone tid).deductGroup (gidOf tid)) ⟨{ T with bars := bars }, hT', ended⟩

theorem foldl_exitThread_keepsEnded {k : Nat} {l : List Nat} (hk : ∀ tid ∈ l, teamOf (gidOf tid) = k) {s : State} (h : s.AllFree k) {copying : Bool}
    (hend : s.Ended k none true copying) : (l.foldl State.exitThread s).Ended k none true copying := by
  induction l generalizing s with
  | nil => exact hend
  | cons tid l ih =>
    obtain ⟨rfl, hk⟩ := List.forall_mem_cons.1 hk
    rw [List.foldl_cons]
    exact ih hk (exitThread_allFree h) (Ended.exitThread h hend)

/-- Threads that are the last of a team to exit end it. -/
theorem foldl_exitThread_ended {k : Nat} {l : List Nat} (hne : l ≠ []) (hk : ∀ tid ∈ l, teamOf (gidOf tid) = k) {s : State} (h : s.AllFree k)
    (hopen : s.Open k) (hnd : s.commands.keys.Nodup)
    (hlast : ∀ u y, s.threads.get? u = some y → teamOf (gidOf u) = k → y.life = .exited ∨ u ∈ l) :
    (l.foldl State.exitThread s).Ended k none true (s.copying k) := by
  induction l generalizing s with
  | nil => exact absurd rfl hne
  | cons tid l ih =>
    obtain ⟨rfl, hk⟩ := List.forall_mem_cons.1 hk
    rw [List.foldl_cons]
    obtain ended | ⟨hopen', hnd', copying, threads, u, y, hy, hu, hlife, hother⟩ := exitThread_ended_or_open h hopen hnd
    · exact foldl_exitThread_keepsEnded hk (exitThread_allFree h) ended
    · have hm : u ∈ l := (List.mem_cons.1 ((hlast u y hy hu).resolve_left hlife)).resolve_left hother
      rw [← copying]
      refine ih (List.ne_nil_of_mem hm) hk (exitThread_allFree h) hopen' hnd' fun v z hz hv => ?_
      rw [threads] at hz
      obtain ⟨x, hx, rfl⟩ := Option.map_eq_some_iff.1 hz
      by_cases hvt : v = tid
      · exact .inl (by rw [if_pos hvt]; rfl)
      · rw [if_neg hvt]
        exact (hlast v x hx hv).imp_right fun hm => (List.mem_cons.1 hm).resolve_left hvt

end State

/-! EXIT over its bundle (R108, R144, R153, R166). -/

theorem exec_exit {i : Instr} {F : Fields} {s : State} (hwf : i.wf = true) (hF : i.fields? = some F) (hmaj : F.maj = 0x0E) (hmn : F.mn = 7) :
    exec i s = .next (xExit F s) := by
  rw [exec_eq_meaning s hF hwf]
  simp [meaning, hmaj, hmn]

section
variable {F : Fields} {s : State} (calm : Calm s F State.noFault) (hteam : ∀ tid ∈ s.issue.threads, teamOf (gidOf tid) = s.issue.team)
  (hfree : s.AllFree s.issue.team)

include calm in
theorem xExit_calm : xExit F s = ((s.guarded F).foldl State.exitThread s).advanceAll (s.unguarded F) := by
  refine (State.runFlow_calm calm _).trans ?_
  split
  · rw [‹s.guarded F = []›, List.foldl_nil]
  · rfl

include hteam

theorem guarded_team : ∀ tid ∈ s.guarded F, teamOf (gidOf tid) = s.issue.team := fun tid ht => hteam tid (List.mem_filter.1 ht).1

include calm hfree

/-- Each acting thread has exited. -/
theorem xExit_gone {tid : Nat} {x : Thread} (hx : Acts s F tid x) : (xExit F s).Gone tid := by
  have hg : tid ∈ s.guarded F := (State.mem_guarded hx.2.1).2 ⟨hx.1, hx.2.2⟩
  have hu : tid ∉ s.unguarded F := fun hm => by simpa [hx.2.2] using ((State.mem_unguarded hx.2.1).1 hm).2
  obtain ⟨y, hy, gone⟩ := State.foldl_exitThread_gone (guarded_team hteam) hfree tid (.inr ⟨hg, x, hx.2.1⟩)
  refine ⟨y, ?_, gone⟩
  rw [xExit_calm calm, State.advanceAll_get?, hy, Option.map_some, if_neg hu]

/-- Where each group keeps a thread, the others of the bundle go on, and nothing else changes but the barriers of the team. -/
theorem xExit_keeps {T : Team} (hT : s.teams.get? s.issue.team = some T)
    (hkeep : ∀ tid ∈ s.guarded F, ∃ u y, s.threads.get? u = some y ∧ gidOf u = gidOf tid ∧ y.life ≠ .exited ∧ u ∉ s.guarded F) :
    { xExit F s with threads := s.threads, teams := s.teams, parts := s.parts } = s ∧
    (∀ tid x, Passes s F tid x → (xExit F s).threads.get? tid = some (goesOn s x)) ∧
    (∀ tid, tid ∉ s.issue.threads → (xExit F s).threads.get? tid = s.threads.get? tid) ∧
    (∀ k, k ≠ s.issue.team → (xExit F s).teams.get? k = s.teams.get? k) ∧
    { (xExit F s).team s.issue.team with bars := (s.team s.issue.team).bars } = s.team s.issue.team ∧
    ∀ b, b < 16 → (s.barrier s.issue.team b).arrived = [] →
      (xExit F s).barrier s.issue.team b = (s.barrier s.issue.team b).without (s.guarded F) := by
  have exited := State.foldl_exitThread_exited (guarded_team hteam) hfree hT hkeep
  obtain ⟨T', bars, hT', ht⟩ := exited.team
  rw [xExit_calm calm]
  refine ⟨exited.rest, fun tid x hx => ?_, fun tid hout => ?_, exited.teams, ?_, exited.barriers⟩
  · have hg : tid ∉ s.guarded F := fun hm => by simpa [hx.2.2] using ((State.mem_guarded hx.2.1).1 hm).2
    have hu : tid ∈ s.unguarded F := (State.mem_unguarded hx.2.1).2 ⟨hx.1, hx.2.2⟩
    rw [State.advanceAll_get?, exited.threads, hx.2.1]
    simp only [Option.map_some, hg, hu, if_true, if_false, goesOn, exited.issue]
  · have hg : tid ∉ s.guarded F := fun hm => hout (List.mem_filter.1 hm).1
    have hu : tid ∉ s.unguarded F := fun hm => hout (List.mem_filter.1 hm).1
    rw [State.advanceAll_get?, exited.threads]
    simp [hg, hu]
  · have team : (((s.guarded F).foldl State.exitThread s).advanceAll (s.unguarded F)).team s.issue.team = { T' with bars := bars } :=
      State.team_of_get? ht
    rw [team, State.team_of_get? hT']

/-- Where no thread of the team is left, the team ends without a fault code, provided that the table of commands lists each number once. -/
theorem xExit_ended (hopen : s.Open s.issue.team) (hnd : s.commands.keys.Nodup) (hne : s.guarded F ≠ [])
    (hlast : ∀ u y, s.threads.get? u = some y → teamOf (gidOf u) = s.issue.team → y.life = .exited ∨ u ∈ s.guarded F) :
    (xExit F s).Ended s.issue.team none true (s.copying s.issue.team) := by
  rw [xExit_calm calm]
  exact State.foldl_exitThread_ended hne (guarded_team hteam) hfree hopen hnd hlast

end

/-! The statement says nothing of the table of commands, and `xExit_ended` needs that it lists each number once. -/

/-- A command of context 0, by its words, its pusher and where it stands. -/
def commandOf (words : List Word) (pusher : Option Nat) (state : CmdState) : Command where
  words := words
  ctx := 0
  queue := 0
  pusher := pusher
  depth := 0
  die := 0
  kernel := false
  pin := none
  activity := 0
  resets := 0
  entry := 0
  since := 0
  run := Progress.none
  state := state

/-- A launch of one team of two groups, each of one thread, both in the bundle; the second group has executed TRIGGER. The launch is command
0, whose first successor is node record 1, where command 1 waits, a LAUNCH of the kind TRIGGERABLE. The table lists number 1 twice, the
second time as a COPY from the team's scratchpad that runs. -/
def commandListedTwice : State := { State.reset with
  contexts := [(0, { Context.blank with nodes := [(1, ⟨1, some 1, false⟩)] })]
  launches := [(0, { Launch.blank with teams := 1 })]
  teams := [(0, { Team.blank with place := .resident })]
  groups := [(0, Group.blank), (1, { Group.blank with triggered := true })]
  threads := [(0, Thread.start 0 0), (64, Thread.start 0 0)]
  commands := [(0, commandOf [0x01000000, 0, 0, 0, 0, 0, 0, 0, 0, 0, 0, 0, 1] none .running), (1, commandOf [0x01040000] none .waiting),
    (1, commandOf [0x02020000] (some 0) .running)]
  issue := { Issue.none with threads := [0, 64] } }

theorem commandListedTwice_threads {u : Nat} {y : Thread} (h : commandListedTwice.threads.get? u = some y) :
    (u = 0 ∨ u = 64) ∧ y = Thread.start 0 0 := by
  simp only [commandListedTwice, Tab.get?_cons, Tab.get?_nil] at h
  split at h
  · exact ⟨.inl ‹_›, (Option.some.inj h).symm⟩
  · split at h
    · exact ⟨.inr ‹_›, (Option.some.inj h).symm⟩
    · cases h

/-- Refutes O29: in `commandListedTwice` the first thread's exit ends its group, so the launch triggers and makes command 1 ready, in both of its
entries. The COPY that named the scratchpad when EXIT issued runs no more when the second thread exits, and the team ends without waiting
for it. What does hold of EXIT: `xExit_gone`, `xExit_keeps`, and `xExit_ended` where the table of commands lists each number once. -/
theorem not_exitEndsThreads : ¬Obligations.ExitEndsThreads := by
  unfold Obligations.ExitEndsThreads
  intro h
  obtain ⟨t, ht, -, -, ends⟩ := h (.exit ⟨0, 0, 0, 0⟩) (opFields .base none 0x0E 7 ⟨0, 0, 0, 0⟩) commandListedTwice (by decide) rfl rfl rfl
    (by unfold Calm; decide +kernel) (by decide) (by decide) ⟨_, rfl, by decide, rfl⟩
    (fun u y hy _ => by rw [(commandListedTwice_threads hy).2]; exact ⟨rfl, rfl⟩)
  have guarded : commandListedTwice.guarded (opFields .base none 0x0E 7 ⟨0, 0, 0, 0⟩) = [0, 64] := by decide +kernel
  obtain ⟨-, waits⟩ := ends (by rw [guarded]; exact List.cons_ne_nil _ _) (fun u y hy _ => .inr (by rw [guarded]; simpa using (commandListedTwice_threads hy).1))
    (by rw [guarded]; decide)
  rw [← Host.Outcome.next.inj ((exec_exit (by decide) rfl rfl rfl).symm.trans ht)] at waits
  exact absurd (waits (by decide +kernel)) (by decide +kernel)

end Machine
end Sys2Proof
end

section
/-! PROOFS. The thread's memory accesses (06 R129 to R135): PREF. -/

namespace Sys2Proof
namespace Machine

open Sys2Proof.Safety

/-- Settles O32: PREF is an instruction without effect, so its threads go on and nothing else changes. -/
theorem prefetchChangesNothing : Obligations.PrefetchChangesNothing := by
  unfold Obligations.PrefetchChangesNothing
  intro i F s hwf hF hmaj hmn hcalm
  have calm : Calm s F State.noFault := fun tid ht => ⟨hcalm tid ht, rfl⟩
  have only := State.runPlain_onlyThreads calm (fun _ t => t)
  refine ⟨xPref F s, (exec_eq_meaning s hF hwf).trans (congrArg _ (by simp [meaning, hmaj, hmn])), only.rest, fun tid x ht hx => ?_, only.outside⟩
  rw [xPref, State.runPlain_thread calm, hx]
  simp [ht]

end Machine
end Sys2Proof
end

section
/-! PROOFS. Codes of either sign and their order (02 R30, 06 R117, R122, R123): FCLASS and FCMP. -/

namespace Sys2Proof
namespace Machine

/-! Codes of either sign. -/

section
variable {k : Fmt} {neg : Bool} {c : Nat}

theorem signBit_eq (hp : 2 ≤ k.p) : k.signBit = 2 ^ k.eb * 2 ^ (k.p - 1) := by
  rw [Fmt.signBit, ← Nat.pow_add]
  congr 1
  omega

theorem infCode_lt_signBit (hp : 2 ≤ k.p) : k.infCode < k.signBit := by
  rw [signBit_eq hp, Fmt.infCode]
  exact Nat.mul_lt_mul_of_pos_right (Nat.sub_lt (Nat.two_pow_pos _) one_pos) (Nat.two_pow_pos _)

theorem signed_eq (k : Fmt) (neg : Bool) (c : Nat) : k.signed neg c = c + neg.toNat * k.signBit := by
  cases neg <;> simp [Fmt.signed, Nat.add_comm]

/-- A code is its magnitude's with a sign. -/
theorem exists_signed {x : Nat} (hx : x < 2 * k.signBit) : ∃ neg c, c < k.signBit ∧ x = k.signed neg c := by
  by_cases h : x < k.signBit
  · exact ⟨false, x, h, rfl⟩
  · exact ⟨true, x - k.signBit, by omega, by rw [Fmt.signed, if_pos rfl]; omega⟩

/-- The three fields of a code (R30). -/
theorem signed_fields (hp : 2 ≤ k.p) (hc : c < k.signBit) :
    k.signed neg c % 2 ^ (k.p - 1) = c % 2 ^ (k.p - 1) ∧ k.signed neg c / 2 ^ (k.p - 1) % 2 ^ k.eb = c / 2 ^ (k.p - 1) ∧
      k.signed neg c / k.signBit = neg.toNat := by
  have sign := signBit_eq hp
  have pos := Nat.two_pow_pos (k.p - 1)
  refine ⟨?_, ?_, ?_⟩
  · rw [signed_eq, sign, ← Nat.mul_assoc, Nat.add_mul_mod_self_right]
  · rw [signed_eq, sign, ← Nat.mul_assoc, Nat.add_mul_div_right _ _ pos, Nat.add_mul_mod_self_right,
      Nat.mod_eq_of_lt ((Nat.div_lt_iff_lt_mul pos).2 (sign ▸ hc))]
  · rw [signed_eq, Nat.add_mul_div_right _ _ (by omega), Nat.div_eq_of_lt hc, Nat.zero_add]

/-- The value of a code of either sign. -/
theorem decode_signed (hp : 2 ≤ k.p) (hc : c < k.signBit) (ftz : Bool) : k.decode ftz (k.signed neg c) =
    if c / 2 ^ (k.p - 1) = 2 ^ k.eb - 1 then
      (if c % 2 ^ (k.p - 1) = 0 then .inf neg else .nan (decide (c % 2 ^ (k.p - 1) < 2 ^ (k.p - 2))))
    else if c / 2 ^ (k.p - 1) = 0 then .fin neg (if ftz then 0 else c % 2 ^ (k.p - 1)) k.low
    else .fin neg (c % 2 ^ (k.p - 1) + 2 ^ (k.p - 1)) (k.low + ((c / 2 ^ (k.p - 1) : Nat) - 1)) := by
  obtain ⟨frac, field, sign⟩ := signed_fields (neg := neg) hp hc
  have hneg : (neg.toNat % 2 == 1) = neg := by cases neg <;> rfl
  simp only [Fmt.decode, frac, field, sign, hneg]

theorem decode_signed_fin (hp : 2 ≤ k.p) (hc : c < k.infCode) :
    ∃ v f, k.decode false (k.signed neg c) = .fin neg v f ∧ dyadic v f = codeVal k c := by
  have lt := hc.trans (infCode_lt_signBit hp)
  have field : c / 2 ^ (k.p - 1) ≠ 2 ^ k.eb - 1 := ((Nat.div_lt_iff_lt_mul (Nat.two_pow_pos _)).2 hc).ne
  have plain := decode_signed (neg := false) hp lt false
  rw [decode_signed hp lt, if_neg field]
  rw [if_neg field] at plain
  split at plain <;> exact ⟨_, _, by simp only [if_true, if_false, *], decode_eq_codeVal hc plain⟩

theorem decode_signed_inf (hp : 2 ≤ k.p) (ftz : Bool) : k.decode ftz (k.signed neg k.infCode) = .inf neg := by
  rw [decode_signed hp (infCode_lt_signBit hp), Fmt.infCode, Nat.mul_div_cancel _ (Nat.two_pow_pos _), if_pos rfl, Nat.mul_mod_left, if_pos rfl]

/-- A code above the infinity's is a NaN's. -/
theorem decode_signed_isNan (hp : 2 ≤ k.p) (hc : c < k.signBit) (ftz : Bool) : (k.decode ftz (k.signed neg c)).isNan = decide (k.infCode < c) := by
  have pos := Nat.two_pow_pos (k.p - 1)
  have digits := Nat.div_add_mod c (2 ^ (k.p - 1))
  have field : c / 2 ^ (k.p - 1) < 2 ^ k.eb := (Nat.div_lt_iff_lt_mul pos).2 (signBit_eq hp ▸ hc)
  have small := Nat.mod_lt c pos
  have inf : k.infCode = 2 ^ (k.p - 1) * (2 ^ k.eb - 1) := Nat.mul_comm ..
  rw [decode_signed hp hc, inf, eq_comm]
  by_cases top : c / 2 ^ (k.p - 1) = 2 ^ k.eb - 1
  · rw [if_pos top]
    rw [top] at digits
    by_cases frac : c % 2 ^ (k.p - 1) = 0
    · rw [if_pos frac]
      exact decide_eq_false (by omega)
    · rw [if_neg frac]
      exact decide_eq_true (by omega)
  · have lt : c < 2 ^ (k.p - 1) * (2 ^ k.eb - 1) := by
      rw [Nat.mul_comm, ← Nat.div_lt_iff_lt_mul pos]
      omega
    rw [if_neg top, decide_eq_false (by omega)]
    split <;> rfl

/-! FCLASS (R122). -/

theorem fClass_eq (hp : 2 ≤ k.p) {x : Nat} (hx : x < 2 * k.signBit) : fClass k x = 2 ^ (match k.decode false x with
    | .nan sig => if sig then 0 else 1
    | .inf neg => if neg then 2 else 9
    | .fin neg m _ =>
      if m = 0 then (if neg then 5 else 6)
      else if m < 2 ^ (k.p - 1) then (if neg then 4 else 7) else if neg then 3 else 8) := by
  obtain ⟨neg, c, hc, rfl⟩ := exists_signed hx
  obtain ⟨frac, field, sign⟩ := signed_fields (neg := neg) hp hc
  have hneg : (neg.toNat % 2 == 1) = neg := by cases neg <;> rfl
  have small := Nat.mod_lt c (Nat.two_pow_pos (k.p - 1))
  simp only [fClass, decode_signed hp hc, frac, field, sign, hneg]
  split
  · split
    · cases neg <;> rfl
    · by_cases sig : c % 2 ^ (k.p - 1) < 2 ^ (k.p - 2) <;> simp [sig]
  · split
    · simp only [Bool.false_eq_true, if_false, small, if_true]
      split <;> cases neg <;> rfl
    · have normal : ¬c % 2 ^ (k.p - 1) + 2 ^ (k.p - 1) = 0 ∧ ¬c % 2 ^ (k.p - 1) + 2 ^ (k.p - 1) < 2 ^ (k.p - 1) := by omega
      simp only [normal.1, normal.2, if_false]
      cases neg <;> rfl

/-! FCMP (R123): the order of codes is that of their values. -/

/-- The value of a finite code of sign 0 rises with the code. -/
theorem codeVal_strictMono (k : Fmt) : StrictMono (codeVal k) := by
  refine strictMono_nat_of_lt_succ fun c => ?_
  have pos := Nat.two_pow_pos (k.p - 1)
  obtain ⟨j, q, rfl, hq, hle⟩ : ∃ j q, c = j * 2 ^ (k.p - 1) + q ∧ (2 ^ (k.p - 1) ≤ q ∨ j = 0) ∧ q ≤ 2 * 2 ^ (k.p - 1) := by
    have digits := Nat.div_add_mod' c (2 ^ (k.p - 1))
    have small := Nat.mod_lt c pos
    rcases Nat.eq_zero_or_pos (c / 2 ^ (k.p - 1)) with zero | large
    · exact ⟨0, c, by omega, .inr rfl, by have := (Nat.div_eq_zero_iff_lt pos).1 zero; omega⟩
    · refine ⟨c / 2 ^ (k.p - 1) - 1, c % 2 ^ (k.p - 1) + 2 ^ (k.p - 1), ?_, .inl (by omega), by omega⟩
      rw [Nat.add_comm (c % _), ← Nat.add_assoc, ← Nat.succ_mul, Nat.succ_eq_add_one, Nat.sub_add_cancel large, digits]
  refine lt_of_lt_of_le ?_ (le_codeVal_succ hq hle)
  rw [codeVal_of_units hq hle]
  exact mul_lt_mul_of_pos_right (by exact_mod_cast Nat.lt_succ_self q) (two_zpow_pos _)

theorem codeVal_zero (k : Fmt) : codeVal k 0 = 0 := by simp [codeVal, dyadic]

/-- A magnitude with a sign. -/
def signedVal (neg : Bool) (x : ℚ) : ℚ := if neg then -x else x

/-- A finite value below another, as rationals. -/
theorem below_fin_iff (s : Bool) (m : Nat) (e : Int) (t : Bool) (n : Nat) (f : Int) :
    Claims.below (.fin s m e) (.fin t n f) = true ↔ signedVal s (dyadic m e) < signedVal t (dyadic n f) := by
  have unit := two_zpow_pos (min e f)
  have sum : (Claims.exactSum s m e (!t) n f : ℚ) * 2 ^ min e f = signedVal s (dyadic m e) - signedVal t (dyadic n f) := by
    rw [dyadic_eq_shift m (min_le_left e f), dyadic_eq_shift n (min_le_right e f)]
    simp only [Claims.exactSum, signedVal]
    push_cast
    cases s <;> cases t <;> simp <;> ring
  rw [Claims.below, decide_eq_true_eq, ← sub_neg (a := signedVal s _), ← sum, mul_neg_iff]
  simp only [unit, unit.not_gt, and_true, and_false, false_or, Int.cast_lt_zero]

/-- A code's number in the order of values, −0 equal to +0. -/
def signedKey (neg : Bool) (c : Nat) : Int := if neg then -(c : Int) else c

theorem valueKey_signed (hc : c < k.signBit) : valueKey k (k.signed neg c) = signedKey neg c := by
  have size : k.signed neg c % (2 * k.signBit) = k.signed neg c := Nat.mod_eq_of_lt (by rw [signed_eq]; cases neg <;> simp <;> omega)
  rw [valueKey, size]
  cases neg <;> simp [Fmt.signed, signedKey, hc]

/-- Of codes that are no NaN, one lies below another where its key does. -/
theorem below_signed (hp : 2 ≤ k.p) (hinf : 0 < k.infCode) {s t : Bool} {d : Nat} (hc : c ≤ k.infCode) (hd : d ≤ k.infCode) :
    Claims.below (k.decode false (k.signed s c)) (k.decode false (k.signed t d)) = decide (signedKey s c < signedKey t d) := by
  rw [Bool.eq_iff_iff, decide_eq_true_eq]
  rcases hc.lt_or_eq with hc | rfl
  · obtain ⟨m, e, hm, valc⟩ := decode_signed_fin (neg := s) hp hc
    rcases hd.lt_or_eq with hd | rfl
    · obtain ⟨n, f, hn, vald⟩ := decode_signed_fin (neg := t) hp hd
      have mono := codeVal_strictMono k
      have nonneg (n : Nat) : 0 ≤ codeVal k n := codeVal_zero k ▸ mono.monotone (Nat.zero_le n)
      have pos (n : Nat) : 0 < codeVal k n ↔ 0 < n := codeVal_zero k ▸ mono.lt_iff_lt
      have lt := mono.lt_iff_lt (a := c) (b := d)
      have gt := mono.lt_iff_lt (a := d) (b := c)
      rw [hm, hn, below_fin_iff, valc, vald]
      cases s <;> cases t <;> simp only [signedVal, signedKey, if_true, if_false, Bool.false_eq_true]
      · rw [lt]; omega
      · have := nonneg c; have := nonneg d
        exact iff_of_false (by linarith) (by omega)
      · have hc := nonneg c; have hd := nonneg d
        rw [← not_le, ← not_le]
        refine not_congr ⟨fun le => ?_, fun le => ?_⟩
        · have := (pos c).not.1 (by linarith); have := (pos d).not.1 (by linarith); omega
        · obtain ⟨rfl, rfl⟩ : c = 0 ∧ d = 0 := by omega
          simp [codeVal_zero]
      · rw [neg_lt_neg_iff, gt]; omega
    · rw [hm, decode_signed_inf hp]
      cases s <;> cases t <;> simp [Claims.below, signedKey] <;> omega
  · rcases hd.lt_or_eq with hd | rfl
    · obtain ⟨n, f, hn, vald⟩ := decode_signed_fin (neg := t) hp hd
      rw [hn, decode_signed_inf hp]
      cases s <;> cases t <;> simp [Claims.below, signedKey] <;> omega
    · rw [decode_signed_inf hp, decode_signed_inf hp]
      cases s <;> cases t <;> simp [Claims.below, signedKey]
      omega

/-- FTZ's input handling: the flushed code's value is the code's with FTZ (R32, R117). -/
theorem decode_flushed (hk : k ∈ Claims.formats) (ftz : Bool) (hc : c < k.signBit) :
    ∃ d, d < k.signBit ∧ k.flushed ftz (k.signed neg c) = k.signed neg d ∧ k.decode false (k.signed neg d) = k.decode ftz (k.signed neg c) := by
  obtain ⟨hp, hfield, -⟩ := formats_spec hk
  obtain ⟨frac, field, sign⟩ := signed_fields (neg := neg) hp hc
  have size : k.signed neg c % (2 * k.signBit) = k.signed neg c := Nat.mod_eq_of_lt (by rw [signed_eq]; cases neg <;> simp <;> omega)
  simp only [Fmt.flushed, size, field, sign]
  cases ftz with
  | false => exact ⟨c, hc, rfl, rfl⟩
  | true =>
    by_cases zero : c / 2 ^ (k.p - 1) = 0
    · have pos : 0 < k.signBit := Nat.two_pow_pos _
      refine ⟨0, pos, by simp [zero, signed_eq], ?_⟩
      rw [decode_signed hp hc, decode_signed hp pos]
      simp [zero, show ¬0 = 2 ^ k.eb - 1 by omega]
    · refine ⟨c, hc, by simp [zero], ?_⟩
      rw [decode_signed hp hc, decode_signed hp hc]
      simp [zero]

/-- FCMP's conditions of two codes, from their keys (R123). -/
theorem fcmpVal_eq {F : Fields} {g : Group} {x : Thread} (h4 : 4 ≤ F.ty) (h7 : F.ty < 7) (h8 : F.c < 8) :
    let a := (Claims.fmtOf F.ty).decode (x.fpcr.getLsbD 2) (Claims.elemOf F.ty 0 (F.opA false g x))
    let b := (Claims.fmtOf F.ty).decode (x.fpcr.getLsbD 2) (Claims.elemOf F.ty 0 (F.opB false g x))
    let nan := a.isNan || b.isNan
    ((fcmpVal F g x).2 = Claims.nv (a.isSig || b.isSig || (nan && decide (2 ≤ F.c) && decide (F.c < 6)))) ∧
    (nan = true → (fcmpVal F g x).1 = decide (F.c = 1 ∨ F.c = 6)) ∧
    (nan = false →
      let lt := Claims.below a b
      let gt := Claims.below b a
      (fcmpVal F g x).1 = [!lt && !gt, lt || gt, lt, !gt, gt, !lt, false, true].getD F.c false) := by
  have hk : Claims.fmtOf F.ty ∈ Claims.formats := by unfold Claims.fmtOf; split <;> [skip; split] <;> simp [Claims.formats]
  have size (v : DWord) : Claims.elemOf F.ty 0 v < 2 * (Claims.fmtOf F.ty).signBit := by
    obtain h | h | h : F.ty = 4 ∨ F.ty = 5 ∨ F.ty = 6 := by omega
    all_goals
      rw [h]
      exact BitVec.isLt _
  obtain ⟨hp, hfield, -⟩ := formats_spec hk
  simp only [fcmpVal, elemFmt_eq_fmtOf, elem_eq_elemOf, Thread.ftz]
  generalize Claims.elemOf F.ty 0 (F.opA false g x) = ca, size (F.opA false g x) = ha
  generalize Claims.elemOf F.ty 0 (F.opB false g x) = cb, size (F.opB false g x) = hb
  obtain ⟨s, c, hc, rfl⟩ := exists_signed ha
  obtain ⟨t, d, hd, rfl⟩ := exists_signed hb
  obtain ⟨c', hc', fc, dc⟩ := decode_flushed (neg := s) hk (x.fpcr.getLsbD 2) hc
  obtain ⟨d', hd', fd, dd⟩ := decode_flushed (neg := t) hk (x.fpcr.getLsbD 2) hd
  rw [fc, fd, ← dc, ← dd, valueKey_signed hc', valueKey_signed hd']
  have five : decide (F.c ≤ 5) = decide (F.c < 6) := decide_eq_decide.2 (by omega)
  refine ⟨by rw [five]; rfl, fun nan => ?_, fun num => ?_⟩
  · rw [nan]
    generalize F.c = n at h8
    interval_cases n <;> rfl
  · rw [Bool.or_eq_false_iff, decode_signed_isNan hp hc', decode_signed_isNan hp hd', decide_eq_false_iff_not, decide_eq_false_iff_not, not_lt, not_lt] at num
    have inf : 0 < (Claims.fmtOf F.ty).infCode := Nat.mul_pos (by omega) (Nat.two_pow_pos _)
    rw [below_signed hp inf num.1 num.2, below_signed hp inf num.2 num.1, decode_signed_isNan hp hc', decode_signed_isNan hp hd',
      decide_eq_false (not_lt.2 num.1), decide_eq_false (not_lt.2 num.2)]
    generalize signedKey s c' = u, signedKey t d' = v
    generalize F.c = n at h8
    rcases lt_trichotomy u v with h | rfl | h
    · interval_cases n <;> simp [h, h.ne, h.le, h.not_gt]
    · interval_cases n <;> simp
    · interval_cases n <;> simp [h, h.ne', h.le, h.not_gt]

end
end Machine
end Sys2Proof
end

section
/-! PROOFS. Parts of a number (06 R121, R124): values that a format holds, magnitudes far outside its range, FRND, FGETEXP, FGETMAN and FLDEXP. -/

namespace Sys2Proof
namespace Machine

/-! Values that a format holds: their rounding is exact (R33). -/

/-- A finite code's significand and exponent (R30). -/
theorem decode_fin_bounds {k : Fmt} (hk : k ∈ Claims.formats) {c : Nat} {neg : Bool} {m : Nat} {e : Int} (h : k.decode false c = .fin neg m e) :
    m < 2 ^ k.p ∧ k.low ≤ e ∧ e ≤ k.emax - (k.p - 1) := by
  obtain ⟨hp, hfield, hspan⟩ := formats_spec hk
  have small := Nat.mod_lt c (Nat.two_pow_pos (k.p - 1))
  have field := Nat.mod_lt (c / 2 ^ (k.p - 1)) (Nat.two_pow_pos k.eb)
  have double := two_mul_two_pow_pred hp
  have low : k.low = k.emin - (k.p - 1) := rfl
  unfold Fmt.decode at h
  dsimp only at h
  split at h
  · split at h <;> cases h
  · split at h <;> injection h with _ hm he
    · rw [if_neg Bool.false_ne_true] at hm
      omega
    · omega

/-- A magnitude with digits at or above the unit is not changed by rounding to it. -/
theorem mag_at_of_digits {m n : Nat} {e f lsb : Int} (same : dyadic m e = dyadic n f) (h : lsb ≤ f) (r : Rnd) (neg : Bool) :
    ((Mag.mk m e false).at lsb r neg).2 = false ∧ dyadic m (e - lsb) = ((Mag.mk m e false).at lsb r neg).1 := by
  have rounded := mag_at_isRounding m e lsb r neg
  have whole : dyadic m (e - lsb) = (n * 2 ^ (f - lsb).toNat : Nat) := by
    rw [← dyadic_of_nonneg n (by omega)]
    exact mul_right_cancel₀ (two_zpow_pos lsb).ne' (by rw [← dyadic_eq_mul, ← dyadic_eq_mul, same])
  have int : dyadic m (e - lsb) = ((Mag.mk m e false).at lsb r neg).1 := by
    rw [whole] at rounded ⊢
    exact_mod_cast le_antisymm (rounded.le_of_le le_rfl) (rounded.ge_of_ge le_rfl)
  exact ⟨(mag_at_exact_iff m e lsb r neg).2 int, int⟩

theorem dyadic_lt_two_zpow {m p : Nat} (h : m < 2 ^ p) (e : Int) : dyadic m e < 2 ^ (p + e) := by
  rw [dyadic, zpow_add₀ two_ne_zero, zpow_natCast]
  exact mul_lt_mul_of_pos_right (by exact_mod_cast h) (two_zpow_pos e)

/-- A value with at most `p` digits, none below the subnormals' unit and within the exponents, is rounded to its own code, with no flag. -/
theorem round_of_held {k : Fmt} (hk : k ∈ Claims.formats) {m n : Nat} {e f : Int} (hm : 0 < m) (same : dyadic m e = dyadic n f) (hn : n < 2 ^ k.p)
    (hlow : k.low ≤ f) (htop : dyadic m e < 2 ^ (k.emax + 1)) (r : Rnd) (neg : Bool) :
    ∃ c < k.infCode, codeVal k c = dyadic m e ∧ (Num.fin neg m e).round k ⟨r, false, false⟩ = (k.signed neg c, 0) := by
  obtain ⟨hp, -, -⟩ := formats_spec hk
  obtain ⟨lo, hi⟩ := leadExp_bounds (e := e) hm
  have lead : leadExp m e ≤ k.emax := by
    have := (zpow_lt_zpow_iff_right₀ one_lt_two).1 (lo.trans_lt htop)
    omega
  have unit : leadExp m e - (k.p - 1) ≤ f := by
    have := (zpow_lt_zpow_iff_right₀ one_lt_two).1 (lo.trans_lt (same ▸ dyadic_lt_two_zpow hn f))
    omega
  have fits : roundedExp k r neg m e ≤ k.emax := by
    have whole := (mag_at_of_digits same unit r neg).2
    have lt := (units_bounds (k := k) (e := e) hm).2
    rw [whole, Nat.cast_lt] at lt
    rw [roundedExp, if_neg lt.ne]
    exact lead
  have exact_ : (roundedSignificand k r neg m e).2 = false :=
    (mag_at_of_digits same (show roundUnit k m e ≤ f by unfold roundUnit; split <;> omega) r neg).1
  refine ⟨_, roundedCode_lt hk fits, ?_, ?_⟩
  · by_contra other
    exact absurd ((inexact_iff hp hm).2 other) (by rw [exact_]; exact Bool.false_ne_true)
  · rw [round_fin hm, if_neg (not_lt.2 fits), Bool.and_false, if_neg Bool.false_ne_true, exact_, roundFlags, Bool.and_false]
    rfl

/-- The same as the value of the code. -/
theorem decode_round_of_held {k : Fmt} (hk : k ∈ Claims.formats) {m n : Nat} {e f : Int} (hm : 0 < m) (same : dyadic m e = dyadic n f) (hn : n < 2 ^ k.p)
    (hlow : k.low ≤ f) (htop : dyadic m e < 2 ^ (k.emax + 1)) (r : Rnd) (neg : Bool) :
    ∃ v g, k.decode false ((Num.fin neg m e).round k ⟨r, false, false⟩).1 = .fin neg v g ∧ dyadic v g = dyadic m e ∧
      ((Num.fin neg m e).round k ⟨r, false, false⟩).2 = 0 := by
  obtain ⟨c, hc, val, eq⟩ := round_of_held hk hm same hn hlow htop r neg
  obtain ⟨v, g, hv, vg⟩ := decode_signed_fin (neg := neg) (formats_spec hk).1 hc
  exact ⟨v, g, by rw [eq, hv], by rw [vg, val], by rw [eq]⟩

/-! FGETEXP, FGETMAN and FRND of a finite code other than zero (R121, R124). -/

section
variable {k : Fmt} {m : Nat} {e : Int} (hk : k ∈ Claims.formats) (hm : 0 < m) (hp : m < 2 ^ k.p)

theorem fGetExp_fin (neg : Bool) {m : Nat} (hm : 0 < m) (e : Int) : fGetExp (.fin neg m e) = ((BitVec.ofInt 32 (leadExp m e)).toNat, 0) := if_neg hm.ne'

theorem leadExp_spec (hm : 0 < m) : Claims.LeVal 1 (leadExp m e) m e ∧ Claims.LtVal m e 1 (leadExp m e + 1) := by
  rw [leVal_iff, ltVal_iff, dyadic_one, dyadic_one]
  exact leadExp_bounds hm

include hk in
/-- What the exponents of the three formats leave room for. -/
theorem formats_room : (k.p : Int) ≤ k.emax ∧ k.low + k.p ≤ 0 := by
  simp only [Claims.formats, List.mem_cons, List.not_mem_nil, or_false] at hk
  rcases hk with rfl | rfl | rfl <;> decide

include hk hm hp in
/-- FGETMAN: the significand with the sign, whose leading bit stands for 1. -/
theorem fGetMan_fin (neg : Bool) (e : Int) : ∃ v f, k.decode false (fGetMan k (.fin neg m e)).1 = .fin neg v f ∧ (fGetMan k (.fin neg m e)).2 = 0 ∧
    Claims.LeVal v (f + leadExp m e) m e ∧ Claims.LeVal m e v (f + leadExp m e) := by
  obtain ⟨two, -, -⟩ := formats_spec hk
  obtain ⟨room, deep⟩ := formats_room hk
  have man : fGetMan k (.fin neg m e) = (Num.fin neg m (-(Nat.log2 m : Int))).round k ⟨.rn, false, false⟩ := if_neg hm.ne'
  have bits : Nat.log2 m < k.p := (Nat.log2_lt hm.ne').2 hp
  have upper := (leadExp_bounds (e := -(Nat.log2 m : Int)) hm).2
  rw [leadExp, neg_add_cancel] at upper
  obtain ⟨v, f, hv, val, flags⟩ := decode_round_of_held hk hm rfl hp (show k.low ≤ -(Nat.log2 m : Int) by omega)
    (upper.trans_le (zpow_le_zpow_right₀ one_le_two (by omega))) .rn neg
  have scaled : dyadic v (f + leadExp m e) = dyadic m e := by
    rw [dyadic_eq_mul v _ (leadExp m e), add_sub_cancel_right, val, dyadic_eq_mul m e (leadExp m e), leadExp, sub_add_cancel_left]
  rw [man]
  exact ⟨v, f, hv, flags, leVal_iff.2 scaled.le, leVal_iff.2 scaled.ge⟩

include hk hp in
/-- FRND: the rounded integer with the sign. -/
theorem fRound_fin (hlow : k.low ≤ e) (htop : e ≤ k.emax - (k.p - 1)) (neg : Bool) (r : Rnd) : ∃ n v f, IsRounding r neg (dyadic m e) n ∧ k.decode false (fRound k r (.fin neg m e)).1 = .fin neg v f ∧
    (fRound k r (.fin neg m e)).2 = 0 ∧ dyadic v f = n := by
  obtain ⟨two, -, -⟩ := formats_spec hk
  obtain ⟨room, deep⟩ := formats_room hk
  have rounded := mag_at_isRounding m e 0 r neg
  rw [Int.sub_zero] at rounded
  have whole : (fRound k r (.fin neg m e)) = (((Num.fin neg ((Mag.mk m e false).at 0 r neg).1 0).round k ⟨.rn, false, false⟩).1, 0) := rfl
  rw [whole]
  generalize hn : ((Mag.mk m e false).at 0 r neg).1 = n at rounded
  rcases Nat.eq_zero_or_pos n with rfl | pos
  · obtain ⟨v, f, hv, val⟩ := decode_signed_fin (k := k) (neg := neg) (c := 0) two (Nat.mul_pos (by have := (formats_spec hk).2.1; omega) (Nat.two_pow_pos _))
    exact ⟨0, v, f, rounded, hv, rfl, by rw [val, codeVal_zero, Nat.cast_zero]⟩
  · have held : ∃ q g, dyadic n 0 = dyadic q g ∧ q < 2 ^ k.p ∧ k.low ≤ g ∧ dyadic n 0 < 2 ^ (k.emax + 1) := by
      have size := dyadic_lt_two_zpow hp e
      by_cases he : 0 ≤ e
      · rw [mag_at_of_le m he] at hn
        have same : dyadic n 0 = dyadic m e := by rw [dyadic_of_nonneg m he, dyadic_zero_exp, ← hn, Int.sub_zero]
        exact ⟨m, e, same, hp, hlow, same ▸ size.trans_le (zpow_le_zpow_right₀ one_le_two (by omega))⟩
      · have half : (2 : ℚ) ^ ((k.p : Int) + e) ≤ (2 ^ (k.p - 1) : Nat) := by
          rw [Nat.cast_pow, Nat.cast_ofNat, ← zpow_natCast]
          exact zpow_le_zpow_right₀ one_le_two (by omega)
        have most := rounded.ge_of_ge (size.le.trans half)
        have digits : n < 2 ^ k.p := most.trans_lt (Nat.pow_lt_pow_right one_lt_two (by omega))
        exact ⟨n, 0, rfl, digits, by omega, (dyadic_lt_two_zpow digits 0).trans_le (zpow_le_zpow_right₀ one_le_two (by omega))⟩
    obtain ⟨q, g, same, hq, hg, top⟩ := held
    obtain ⟨v, f, hv, val, -⟩ := decode_round_of_held hk pos same hq hg top .rn neg
    exact ⟨n, v, f, rounded, hv, rfl, by rw [val, dyadic_zero_exp]⟩

end

/-! Magnitudes far outside a format's range (R33, R34). -/

/-- Does a mode round a magnitude of this sign away from zero? -/
def Rnd.away (r : Rnd) (neg : Bool) : Bool := (r == .rp && !neg) || (r == .rm && neg)

namespace Mag
variable {x : Mag} {k : Fmt}

/-- A magnitude whose leading bit lies above the largest exponent overflows. -/
theorem round_of_high (hq : x.q ≠ 0) (high : k.emax < x.e + Nat.log2 x.q) (h : How) (neg : Bool) : x.round k h neg =
    (k.signed neg (if overflowsToInf h.rnd neg && !h.sat then k.infCode else k.infCode - 1), 0x14) := by
  unfold Mag.round
  dsimp only
  rw [if_neg hq, if_pos (by split <;> omega)]
  rfl

/-- A magnitude below half a unit is rounded to zero, or away from it to one. -/
theorem at_of_low (hq : x.q ≠ 0) {lsb : Int} (low : x.e + Nat.log2 x.q + 2 ≤ lsb) (r : Rnd) (neg : Bool) :
    x.at lsb r neg = ((r.away neg).toNat, true) := by
  have top : x.q < 2 ^ (Nat.log2 x.q + 1) := Nat.lt_log2_self
  have half : 2 * 2 ^ (Nat.log2 x.q + 1) ≤ 2 ^ (lsb - x.e).toNat := by
    rw [← Nat.pow_succ']
    exact Nat.pow_le_pow_right (by decide) (by omega)
  have inexact : (x.q != 0 || x.more) = true := by simp [hq]
  unfold Mag.at
  dsimp only
  rw [if_neg (by omega), Nat.div_eq_of_lt (by omega), Nat.mod_eq_of_lt (by omega), inexact, decide_eq_false (by omega : ¬2 ^ (lsb - x.e).toNat < 2 * x.q),
    decide_eq_false (by omega : ¬2 * x.q = 2 ^ (lsb - x.e).toNat)]
  cases r <;> cases neg <;> rfl

/-- A magnitude below half the subnormals' unit, whatever it is. -/
theorem round_of_low (hk : k ∈ Claims.formats) (hq : x.q ≠ 0) (low : x.e + Nat.log2 x.q + 2 ≤ k.low) (h : How) (neg : Bool) : x.round k h neg =
    (if h.ftz then k.signed neg 0 else k.signed neg (h.rnd.away neg).toNat, 0x18) := by
  obtain ⟨hp, -, -⟩ := formats_spec hk
  obtain ⟨room, deep⟩ := formats_room hk
  have least : k.low = k.emin - (k.p - 1) := rfl
  unfold Mag.round
  dsimp only
  rw [if_neg hq, if_neg (by split <;> omega), if_pos (by omega : x.e + (Nat.log2 x.q : Int) - (k.p - 1) < k.low), at_of_low hq low,
    decide_eq_true (by split <;> omega : _ < k.emin), Int.sub_self]
  cases h.ftz with
  | true => rfl
  | false => simp [flagNX, flagUF]

end Mag

/-! FLDEXP (R124): an exponent beyond ±1000 rounds as ±1000 does. -/

theorem fLdexp_fin {k : Fmt} (hk : k ∈ Claims.formats) {neg : Bool} {m : Nat} {e : Int} (hm : 0 < m) (hp : m < 2 ^ k.p) (hlow : k.low ≤ e)
    (htop : e ≤ k.emax - (k.p - 1)) (h : How) (b : Int) : fLdexp k h (.fin neg m e) b = (Num.fin neg m (e + b)).round k h := by
  have bits : Nat.log2 m < k.p := (Nat.log2_lt hm.ne').2 hp
  have range : -149 ≤ k.low ∧ k.emax ≤ 127 ∧ k.p ≤ 24 := by
    simp only [Claims.formats, List.mem_cons, List.not_mem_nil, or_false] at hk
    rcases hk with rfl | rfl | rfl <;> decide
  have scaled (c : Int) : ((Num.fin neg m e).scale c).round k h = (Mag.mk m (e + c) false).round k h neg := rfl
  have plain : (Num.fin neg m (e + b)).round k h = (Mag.mk m (e + b) false).round k h neg := rfl
  rw [fLdexp, scaled, plain]
  rcases lt_or_ge 1000 b with big | le
  · rw [Mag.round_of_high hm.ne' (by dsimp only; omega), Mag.round_of_high hm.ne' (by dsimp only; omega)]
  · rcases lt_or_ge b (-1000) with small | ge
    · rw [Mag.round_of_low hk hm.ne' (by dsimp only; omega), Mag.round_of_low hk hm.ne' (by dsimp only; omega)]
    · rw [min_eq_right le, max_eq_right ge]

/-- Settles O19. -/
theorem classesAndParts : Obligations.ClassesAndParts := by
  unfold Obligations.ClassesAndParts
  refine ⟨⟨fun k hk x hx => fClass_eq (formats_spec hk).1 hx, fun F g x => fcmpVal_eq⟩, fun k hk c =>
    ⟨fun neg m e hdec hm => ?_, fun neg e => ⟨rfl, rfl, fun r => ?_, fun h b => rfl⟩, fun neg => ⟨fun r => rfl, rfl, rfl, fun h b => rfl⟩,
      fun sig => ⟨fun r => rfl, rfl, rfl, fun h b => rfl⟩⟩⟩
  · obtain ⟨hp, hlow, htop⟩ := decode_fin_bounds hk hdec
    obtain ⟨lead_le, lead_lt⟩ := leadExp_spec (e := e) hm
    refine ⟨⟨leadExp m e, fGetExp_fin neg hm e, lead_le, lead_lt, fGetMan_fin hk hm hp neg e⟩, fun r => ?_, fLdexp_fin hk hm hp hlow htop⟩
    obtain ⟨n, v, f, rounded, hv, flags, val⟩ := fRound_fin hk hp hlow htop neg r
    rw [← dyadic_zero_exp] at val
    exact ⟨n, v, f, hv, flags, leVal_iff.2 val.le, leVal_iff.2 val.ge, rounded.vals⟩
  · have zero : ((Mag.mk 0 e false).at 0 r neg).1 = 0 := by
      have rounded := mag_at_isRounding 0 e 0 r neg
      exact Nat.le_zero.1 (rounded.ge_of_ge (by simp [dyadic]))
    rw [fRound, zero]
    rfl

end Machine
end Sys2Proof
end

section
/-! PROOFS. Replies of remote accesses (20 R351, 23 R411): the bytes the host has kept for a reply are as many as their list, which the
statement does not tie to the length of the access. -/

namespace Sys2Proof
namespace Machine

/-- A load of one byte of host memory into register 0 of thread 0, sent and performed. The host has kept two bytes for it. -/
def keptTooMuch : Access where
  tid := 0
  cmd := 0
  ctx := 0
  resets := 0
  pc := 0
  addr := 0
  far := .host 0
  kind := .read
  size := 0
  len := 1
  next := 0
  dest := .vec 0 0 false
  acquire := none
  spl := false
  issuedAt := 0
  turn := 0
  op := .add
  signed := false
  compare := 0
  operand := 0
  data := []
  mask := 0
  sent := true
  done := some [1, 2]

/-- One running thread, whose load `keptTooMuch` is answered. -/
def replyOfTooMuch : State := { State.reset with
  contexts := [(0, Context.blank)]
  teams := [(0, { Team.blank with place := .resident })]
  groups := [(0, Group.blank)]
  threads := [(0, Thread.start 0 0)]
  accesses := [(0, keptTooMuch)]
  hostUp := true
  subject := .access 0 (.data []) }

theorem replyOfTooMuch_outstanding : Claims.Outstanding replyOfTooMuch 0 keptTooMuch (Thread.start 0 0) 0 false where
  listed := rfl
  epoch := rfl
  thread := rfl
  running := rfl
  plain := ⟨rfl, rfl⟩
  sent := rfl
  len := rfl
  apart := by decide
  dest := rfl
  size := by decide
  room := by decide
  resolved := fun g hg => by
    rw [← Option.some.inj (show some Group.blank = some g from hg)]
    rfl

/-- The register takes all the bytes kept, not the one of the access. -/
theorem replyOfTooMuch_fills : ((replyOfTooMuch.replyTo 0 (.data [])).thread 0).reg 0 = 513 := by decide +kernel

/-- Refutes O53: in `replyOfTooMuch` a load of one byte has been performed at the host, which has kept the bytes 1 and 2 for its reply. LOAD_REPLY
puts both into the register, 513, where the statement has byte 0 alone. Its second claim of host memory asks nothing of the length of the
list kept, `State.performHost` keeps as many bytes as the access has. -/
theorem not_remoteReplies : ¬Obligations.RemoteReplies := by
  unfold Obligations.RemoteReplies
  rintro ⟨replies, -⟩
  obtain ⟨t, ht, answered⟩ := (replies .loadReply replyOfTooMuch 0 keptTooMuch (Thread.start 0 0) 0 0 false [] (.inl rfl) rfl
    replyOfTooMuch_outstanding rfl rfl rfl).2 [1, 2] rfl
  obtain ⟨y, hy, -, filled, -⟩ := answered.now
  have after : replyOfTooMuch.replyTo 0 (.data []) = t := Host.Outcome.next.inj ht
  have reads : y.reg 0 = 513 := by
    rw [← State.thread_of_get? hy, ← after]
    exact replyOfTooMuch_fills
  have byte : y.reg 0 = 1 := filled 0 (by decide)
  exact absurd (reads.symm.trans byte) (by decide)

end Machine
end Sys2Proof
end

section
/-! PROOFS. What a load leaves in registers (01 R9, R12, 06 R131). -/

namespace Sys2Proof
namespace Machine

open Sys2Proof.Safety

/-- Bytes from the number they are, least first. -/
theorem leNat_four (a b c d : Byte) : BitVec.ofNat 32 (leNat [a, b, c, d]) = d ++ c ++ b ++ a := by
  apply BitVec.eq_of_toNat_eq
  have ha := a.isLt
  have hb := b.isLt
  have hc := c.isLt
  have hd := d.isLt
  simp only [leNat, BitVec.toNat_ofNat, BitVec.toNat_append]
  rw [← Nat.shiftLeft_add_eq_or_of_lt ha, ← Nat.shiftLeft_add_eq_or_of_lt hb,
    ← Nat.shiftLeft_add_eq_or_of_lt hc]
  simp only [Nat.shiftLeft_eq]
  omega

theorem leNat_two (a b : Byte) : BitVec.ofNat 16 (leNat [a, b]) = b ++ a := by
  apply BitVec.eq_of_toNat_eq
  have ha := a.isLt
  have hb := b.isLt
  simp only [leNat, BitVec.toNat_ofNat, BitVec.toNat_append]
  rw [← Nat.shiftLeft_add_eq_or_of_lt ha, Nat.shiftLeft_eq]
  omega

/-- A number of `w` bits extended to a word by its sign. -/
theorem ofNat_signExtend {w n : Nat} (hw : w ≤ 32) (hn : n < 2 ^ w) :
    (BitVec.ofNat w n).signExtend 32 = if 2 ^ (w - 1) ≤ n then BitVec.ofNat 32 (n + 2 ^ 32 - 2 ^ w) else BitVec.ofNat 32 n := by
  have hmod : n % 2 ^ w = n := Nat.mod_eq_of_lt hn
  have hle : 2 ^ w ≤ 2 ^ 32 := Nat.pow_le_pow_right (by decide) hw
  apply BitVec.eq_of_toNat_eq
  rw [BitVec.toNat_signExtend, BitVec.toNat_setWidth, BitVec.toNat_ofNat, hmod, Nat.mod_eq_of_lt (by omega), BitVec.msb_eq_decide, BitVec.toNat_ofNat, hmod]
  by_cases h : 2 ^ (w - 1) ≤ n
  · simp only [h, decide_true, if_true, BitVec.toNat_ofNat]
    omega
  · simp only [h, decide_false, if_false, BitVec.toNat_ofNat]
    simp only [Bool.false_eq_true, if_false]
    omega

/-- Four bytes of a list. -/
theorem take_four {bs : List Byte} {i : Nat} (h : i + 4 ≤ bs.length) :
    (bs.drop i).take 4 = [bs.getD i 0, bs.getD (i + 1) 0, bs.getD (i + 2) 0, bs.getD (i + 3) 0] := by
  rw [List.drop_eq_getElem_cons (by omega), List.drop_eq_getElem_cons (by omega), List.drop_eq_getElem_cons (by omega),
    List.drop_eq_getElem_cons (by omega), List.getD_eq_getElem _ _ (by omega), List.getD_eq_getElem _ _ (by omega),
    List.getD_eq_getElem _ _ (by omega), List.getD_eq_getElem _ _ (by omega)]
  rfl

/-- Word `k` of the bytes loaded. -/
theorem word_of_bytes {bs : List Byte} {k : Nat} (h : 4 * k + 4 ≤ bs.length) :
    BitVec.ofNat 32 (leNat ((bs.drop (4 * k)).take 4)) =
      bs.getD (4 * k + 3) 0 ++ bs.getD (4 * k + 2) 0 ++ bs.getD (4 * k + 1) 0 ++ bs.getD (4 * k) 0 := by
  rw [take_four h, leNat_four]

/-- A value of up to 32 bits as its bytes give it (R78, R131). -/
theorem loadWord_eq {size : Nat} {bs : List Byte} (h : size ≤ 2) (hlen : bs.length = 2 ^ size) (sx : Bool) :
    loadWord size sx bs = Claims.loadedWord size sx (fun k => bs.getD k 0) 0 := by
  match size, h with
  | 0, _ =>
    obtain ⟨b, rfl⟩ := List.length_eq_one_iff.1 hlen
    have hb := ofNat_signExtend (w := 8) (by decide) b.isLt
    rw [BitVec.ofNat_toNat, BitVec.setWidth_eq] at hb
    cases sx with
    | false => exact BitVec.ofNat_toNat 32 b
    | true =>
      refine Eq.trans ?_ hb.symm
      have hn : leNat [b] = b.toNat := Nat.add_zero _
      simp only [loadWord, hn, Bool.true_and, decide_eq_true_eq]
      rfl
  | 1, _ =>
    obtain ⟨a, b, rfl⟩ := List.length_eq_two.1 hlen
    have hlt : leNat [a, b] < 2 ^ 16 := by
      have ha := a.isLt
      have hb := b.isLt
      simp only [leNat]
      omega
    have hb := ofNat_signExtend (w := 16) (by decide) hlt
    cases sx with
    | false =>
      simp only [loadWord, Claims.loadedWord, List.getD_cons_zero, List.getD_cons_succ, Bool.false_and, if_false, Bool.false_eq_true, ← leNat_two]
      apply BitVec.eq_of_toNat_eq
      rw [BitVec.toNat_setWidth, BitVec.toNat_ofNat, BitVec.toNat_ofNat, Nat.mod_eq_of_lt hlt]
    | true =>
      simp only [loadWord, Claims.loadedWord, List.getD_cons_zero, List.getD_cons_succ, if_true, Bool.true_and, decide_eq_true_eq, ← leNat_two, hb]
      rfl
  | 2, _ =>
    have hw := word_of_bytes (bs := bs) (k := 0) (by omega)
    have h4 : bs.take 4 = bs := List.take_of_length_le (by omega)
    simpa [loadWord, Claims.loadedWord, h4] using hw

/-- The registers a load fills are the words the claim names. -/
theorem loadedWord_mem_loadRegs {size : Nat} {bs : List Byte} (h : size ≤ 4) (hlen : bs.length = 2 ^ size) (r : Nat) (sx : Bool) {j : Nat}
    (hj : j < Claims.regsOf size) : (r + j, Claims.loadedWord size sx (fun k => bs.getD k 0) j) ∈ loadRegs r size sx bs := by
  by_cases hs : size ≤ 2
  · have h0 : j = 0 := by
      unfold Claims.regsOf at hj
      rw [if_neg (by omega), if_neg (by omega)] at hj
      omega
    subst h0
    rw [← loadWord_eq hs hlen]
    match size, hs with
    | 0, _ | 1, _ | 2, _ => simp [loadRegs]
  · have w0 : 4 ≤ bs.length → BitVec.ofNat 32 (leNat (bs.take 4)) = bs[3]?.getD 0 ++ bs[2]?.getD 0 ++ bs[1]?.getD 0 ++ bs[0]?.getD 0 := by
      simpa using word_of_bytes (bs := bs) (k := 0)
    have w1 := word_of_bytes (bs := bs) (k := 1)
    have w2 := word_of_bytes (bs := bs) (k := 2)
    have w3 := word_of_bytes (bs := bs) (k := 3)
    match size, h, hs with
    | 3, _, _ =>
      match j, hj with
      | 0, _ => simp [loadRegs, Claims.loadedWord, w1 (by omega)]
      | 1, _ => simp [loadRegs, Claims.loadedWord, w0 (by omega)]
    | 4, _, _ =>
      match j, hj with
      | 0, _ => simp [loadRegs, Claims.loadedWord, w1 (by omega)]
      | 1, _ => simp [loadRegs, Claims.loadedWord, w0 (by omega)]
      | 2, _ => simp [loadRegs, Claims.loadedWord, w3 (by omega)]
      | 3, _ => simp [loadRegs, Claims.loadedWord, w2 (by omega)]

theorem loadRegs_nodup (r size : Nat) (sx : Bool) (bs : List Byte) : ((loadRegs r size sx bs).map (·.1)).Nodup := by
  unfold loadRegs
  split <;> simp

theorem loadRegs_range {r size : Nat} {sx : Bool} {bs : List Byte} {e : Nat × Word} (he : e ∈ loadRegs r size sx bs) :
    r ≤ e.1 ∧ e.1 < r + Claims.regsOf size := by
  unfold loadRegs at he
  split at he
  · simp only [List.mem_cons, List.not_mem_nil, or_false] at he
    rcases he with rfl | rfl <;> simp [Claims.regsOf]
  · simp only [List.mem_cons, List.not_mem_nil, or_false] at he
    rcases he with rfl | rfl | rfl | rfl <;> simp [Claims.regsOf]
  · simp only [List.mem_singleton] at he
    subst he
    unfold Claims.regsOf
    constructor
    · exact le_refl r
    · dsimp only
      split <;> omega

/-! Several registers written. -/

theorem Thread.setRegs_regs (t : Thread) (l : List (Nat × Word)) : { t.setRegs l with regs := t.regs } = t := by
  induction l generalizing t with
  | nil => rfl
  | cons e l ih =>
    have h := congrArg (fun x : Thread => { x with regs := t.regs }) (ih (t.setReg e.1 e.2))
    exact h.trans (Thread.setReg_regs t e.1 e.2)

theorem Thread.reg_setRegs_of_notMem {l : List (Nat × Word)} {m : Nat} (h : ∀ e ∈ l, m ≠ e.1) (t : Thread) : (t.setRegs l).reg m = t.reg m := by
  induction l generalizing t with
  | nil => rfl
  | cons e l ih => rw [Thread.setRegs, ih (fun e he => h e (List.mem_cons_of_mem _ he)), Thread.reg_setReg, if_neg (h e List.mem_cons_self)]

theorem Thread.reg_setRegs_of_mem {l : List (Nat × Word)} (hl : (l.map (·.1)).Nodup) {n : Nat} {v : Word} (h : (n, v) ∈ l) (hn : n ≠ 255) (t : Thread) :
    (t.setRegs l).reg n = v := by
  induction l generalizing t with
  | nil => cases h
  | cons e l ih =>
    obtain ⟨hnot, hl⟩ := List.nodup_cons.1 hl
    rw [Thread.setRegs]
    rcases List.mem_cons.1 h with rfl | h
    · rw [Thread.reg_setRegs_of_notMem fun e he heq => hnot (List.mem_map.2 ⟨e, he, heq.symm⟩), Thread.reg_setReg, if_pos rfl, if_neg hn]
    · exact ih hl h _

/-! What arrives for D: the thread's registers, or the group's. -/

/-- A thread, and a group, once bytes have arrived for D. -/
def Thread.arrived (f : Fields) (bs : List Byte) (x : Thread) : Thread :=
  if f.cd = false ∧ f.d ≠ 255 then x.setRegs (loadRegs f.d f.size f.sx bs) else x
def Group.arrived (f : Fields) (bs : List Byte) (g : Group) : Group :=
  if f.cd = true ∧ f.d ≠ 127 then g.setSregs (loadRegs f.d f.size f.sx bs) else g

theorem State.fill_loadDest (s : State) (f : Fields) (tid : Nat) (bs : List Byte) :
    s.fill tid (loadDest f) bs = { s with
      threads := s.threads.modify tid (Thread.arrived f bs), groups := s.groups.modify (gidOf tid) (Group.arrived f bs) } := by
  have stays {α : Type} (t : Tab α) (k : Nat) {h : α → α} (hh : ∀ v, h v = v) : t.modify k h = t :=
    Tab.mapKV_eq_self _ _ fun _ v => by rw [hh v, ite_self]
  cases hc : f.cd with
  | true =>
    have thread : s.threads.modify tid (Thread.arrived f bs) = s.threads := stays _ _ fun x => if_neg (by simp [hc])
    by_cases hd : f.d = 127
    · have group : s.groups.modify (gidOf tid) (Group.arrived f bs) = s.groups := stays _ _ fun g => if_neg (by simp [hd])
      rw [thread, group]
      simp [loadDest, hc, hd, State.fill]
    · have group : Group.arrived f bs = fun g => g.setSregs (loadRegs f.d f.size f.sx bs) := funext fun g => if_pos ⟨hc, hd⟩
      rw [thread, group]
      simp [loadDest, hc, hd, State.fill, State.modGroup]
  | false =>
    have group : s.groups.modify (gidOf tid) (Group.arrived f bs) = s.groups := stays _ _ fun x => if_neg (by simp [hc])
    by_cases hd : f.d = 255
    · have thread : s.threads.modify tid (Thread.arrived f bs) = s.threads := stays _ _ fun g => if_neg (by simp [hd])
      rw [thread, group]
      simp [loadDest, hc, hd, State.fill]
    · have thread : Thread.arrived f bs = fun g => g.setRegs (loadRegs f.d f.size f.sx bs) := funext fun g => if_pos ⟨hc, hd⟩
      rw [thread, group]
      simp [loadDest, hc, hd, State.fill, State.modThread]

@[simp] theorem Group.arrived_sregs (f : Fields) (bs : List Byte) (g : Group) : { g.arrived f bs with sregs := g.sregs } = g := by
  unfold Group.arrived
  split
  · exact Group.setSregs_same g _
  · rfl

@[simp] theorem Thread.arrived_regs (f : Fields) (bs : List Byte) (x : Thread) : { x.arrived f bs with regs := x.regs } = x := by
  unfold Thread.arrived
  split
  · exact Thread.setRegs_regs x _
  · rfl

section

variable {f : Fields} {bs : List Byte} (hsize : f.size ≤ 4) (hlen : bs.length = 2 ^ f.size)

include hsize hlen

theorem Thread.reg_arrived (hc : f.cd = false) (hd : f.d ≠ 255) (x : Thread) {j : Nat} (hj : j < Claims.regsOf f.size) (h : f.d + j ≠ 255) :
    (x.arrived f bs).reg (f.d + j) = Claims.loadedWord f.size f.sx (fun k => bs.getD k 0) j := by
  rw [Thread.arrived, if_pos ⟨hc, hd⟩]
  exact Thread.reg_setRegs_of_mem (loadRegs_nodup ..) (loadedWord_mem_loadRegs hsize hlen _ _ hj) h x

theorem Group.sreg_arrived (hc : f.cd = true) (hd : f.d ≠ 127) (g : Group) {j : Nat} (hj : j < Claims.regsOf f.size) (h : f.d + j ≠ 127) :
    (g.arrived f bs).sreg (f.d + j) = Claims.loadedWord f.size f.sx (fun k => bs.getD k 0) j := by
  rw [Group.arrived, if_pos ⟨hc, hd⟩]
  exact Group.sreg_setSregs_of_mem (loadRegs_nodup ..) (loadedWord_mem_loadRegs hsize hlen _ _ hj) h g

end

theorem Thread.reg_arrived_of_apart {f : Fields} (bs : List Byte) (x : Thread) {n : Nat} (h : f.d = 255 ∨ n < f.d ∨ f.d + Claims.regsOf f.size ≤ n) :
    (x.arrived f bs).reg n = x.reg n := by
  unfold Thread.arrived
  split
  · next hc => exact Thread.reg_setRegs_of_notMem (fun e he hn => by have := loadRegs_range he; omega) x
  · rfl

theorem Group.sreg_arrived_of_apart {f : Fields} (bs : List Byte) (g : Group) {n : Nat} (h : f.d = 127 ∨ n < f.d ∨ f.d + Claims.regsOf f.size ≤ n) :
    (g.arrived f bs).sreg n = g.sreg n := by
  unfold Group.arrived
  split
  · next hc => exact Group.sreg_setSregs_of_notMem g _ _ fun e he hn => by have := loadRegs_range he; omega
  · rfl

/-- With a vector D no scalar changes, with a scalar D no vector register. -/
theorem Thread.arrived_of_scalar {f : Fields} (hc : f.cd = true) (bs : List Byte) (x : Thread) : x.arrived f bs = x := if_neg (by simp [hc])
theorem Group.arrived_of_vector {f : Fields} (hc : f.cd = false) (bs : List Byte) (g : Group) : g.arrived f bs = g := if_neg (by simp [hc])

/-! The registers after the loads of several threads, one after another. -/

/-- A thread, and a group, once the bytes `bytes` gives have arrived for the threads `ts`. -/
def Thread.landed (f : Fields) (bytes : Nat → List Byte) (ts : List Nat) (tid : Nat) (x : Thread) : Thread :=
  if tid ∈ ts then x.arrived f (bytes tid) else x
def Group.landed (f : Fields) (bytes : Nat → List Byte) (ts : List Nat) (gid : Nat) (g : Group) : Group :=
  ts.foldl (fun g tid => if gidOf tid = gid then g.arrived f (bytes tid) else g) g

/-- State `s` is `v` but for the registers that the loads of `ts` have filled; nothing is said of what else a state has. -/
structure Landed (f : Fields) (bytes : Nat → List Byte) (ts : List Nat) (v s : State) : Prop where
  threads : ∀ tid, s.threads.get? tid = (v.threads.get? tid).map (Thread.landed f bytes ts tid)
  groups : ∀ gid, s.groups.get? gid = (v.groups.get? gid).map (Group.landed f bytes ts gid)

theorem Group.landed_sregs (f : Fields) (bytes : Nat → List Byte) (ts : List Nat) (gid : Nat) (g : Group) :
    { g.landed f bytes ts gid with sregs := g.sregs } = g := by
  unfold Group.landed
  induction ts generalizing g with
  | nil => rfl
  | cons tid ts ih =>
    rw [List.foldl_cons]
    split
    · have h := congrArg (fun x : Group => { x with sregs := g.sregs }) (ih (g.arrived f (bytes tid)))
      exact h.trans (g.arrived_sregs f (bytes tid))
    · exact ih g

namespace Landed

variable {f : Fields} {bytes : Nat → List Byte} {ts : List Nat} {v s : State}

theorem nil (f : Fields) (bytes : Nat → List Byte) (s : State) : Landed f bytes [] s s where
  threads := fun tid => by cases s.threads.get? tid <;> simp [Thread.landed]
  groups := fun gid => by cases s.groups.get? gid <;> simp [Group.landed]

/-- One more load. -/
theorem fill (h : Landed f bytes ts v s) {tid : Nat} (ht : tid ∉ ts) :
    Landed f bytes (ts ++ [tid]) v (s.fill tid (loadDest f) (bytes tid)) where
  threads := fun u => by
    rw [State.fill_loadDest]
    simp only [Tab.get?_modify, h.threads u]
    by_cases hu : u = tid
    · subst hu
      cases v.threads.get? u <;> simp [Thread.landed, ht]
    · cases v.threads.get? u <;> simp [Thread.landed, hu]
  groups := fun gid => by
    rw [State.fill_loadDest]
    simp only [Tab.get?_modify, h.groups gid]
    by_cases hg : gid = gidOf tid
    · subst hg
      cases v.groups.get? (gidOf tid) <;> simp [Group.landed]
    · cases v.groups.get? gid <;> simp [Group.landed, hg, Ne.symm hg]

theorem group (h : Landed f bytes ts v s) (gid : Nat) : { s.group gid with sregs := (v.group gid).sregs } = v.group gid := by
  simp only [State.group, Tab.getD, h.groups gid]
  cases v.groups.get? gid with
  | none => rfl
  | some g => exact Group.landed_sregs f bytes ts gid g

theorem thread_of_notMem (h : Landed f bytes ts v s) {tid : Nat} (ht : tid ∉ ts) : s.thread tid = v.thread tid := by
  simp only [State.thread, Tab.getD, h.threads tid]
  cases v.threads.get? tid <;> simp [Thread.landed, ht]

end Landed

/-! The threads that load, and the claim about their registers. -/

theorem nodup_eraseDups (l : List Nat) : l.eraseDups.Nodup := by
  induction h : l.length using Nat.strong_induction_on generalizing l with
  | _ n ih =>
    cases l with
    | nil => exact List.nodup_nil
    | cons a l =>
      rw [List.eraseDups_cons, List.nodup_cons]
      refine ⟨by simp, ih _ ?_ _ rfl⟩
      have := List.length_filter_le (fun b => !b == a) l
      simp only [List.length_cons] at h
      omega

theorem nodup_groupsIn (ts : List Nat) : (State.groupsIn ts).Nodup := nodup_eraseDups _

/-- With a scalar D one thread of each group with guarded threads loads (R143). -/
theorem accessors_gids {s : State} {f : Fields} (hc : f.cd = true) (ok : List Nat) : (accessors s f ok).map gidOf = State.groupsIn ok := by
  rw [accessors, if_pos hc, List.map_map]
  conv => rhs; rw [← List.map_id (State.groupsIn ok)]
  exact List.map_congr_left fun gid hg => (pick_mem s (mem_groupsIn.1 hg)).2

theorem accessors_subset {s : State} {f : Fields} {ok : List Nat} {tid : Nat} (h : tid ∈ accessors s f ok) : tid ∈ ok := by
  unfold accessors at h
  split at h
  · obtain ⟨gid, hg, rfl⟩ := List.mem_map.1 h
    exact (pick_mem s (mem_groupsIn.1 hg)).1
  · exact h

theorem accessors_nodup {s : State} {f : Fields} {ok : List Nat} (h : ok.Nodup) : (accessors s f ok).Nodup := by
  cases hc : f.cd with
  | true => exact List.Nodup.of_map gidOf (accessors_gids hc ok ▸ nodup_groupsIn ok)
  | false => rwa [accessors, hc, if_neg (by decide)]

/-- With a scalar D two different loads are of different groups. -/
theorem accessors_apart {s : State} {f : Fields} {ok : List Nat} (hc : f.cd = true) {u tid : Nat} (hu : u ∈ accessors s f ok)
    (ht : tid ∈ accessors s f ok) (h : gidOf u = gidOf tid) : u = tid :=
  List.inj_on_of_nodup_map (accessors_gids hc ok ▸ nodup_groupsIn ok) hu ht h

theorem guarded_nodup {s : State} (h : s.issue.threads.Nodup) (f : Fields) : (s.guarded f).Nodup := h.filter _

theorem Group.landed_of_vector {f : Fields} (hc : f.cd = false) (bytes : Nat → List Byte) (ts : List Nat) (gid : Nat) (g : Group) :
    g.landed f bytes ts gid = g := by
  unfold Group.landed
  induction ts with
  | nil => rfl
  | cons tid ts ih => rw [List.foldl_cons, Group.arrived_of_vector hc, ite_self, ih]

theorem Group.landed_of_notMem {f : Fields} {bytes : Nat → List Byte} {ts : List Nat} {gid : Nat} (h : gid ∉ ts.map gidOf) (g : Group) :
    g.landed f bytes ts gid = g := by
  unfold Group.landed
  induction ts with
  | nil => rfl
  | cons tid ts ih =>
    obtain ⟨hne, hrest⟩ := not_or.1 (mt List.mem_cons.2 h)
    rw [List.foldl_cons, if_neg fun e => hne e.symm, ih hrest]

/-- A group of which one thread loads takes what that thread loads. -/
theorem Group.landed_of_mem {f : Fields} {bytes : Nat → List Byte} {ts : List Nat} (hnd : (ts.map gidOf).Nodup) {tid : Nat} (h : tid ∈ ts) (g : Group) :
    g.landed f bytes ts (gidOf tid) = g.arrived f (bytes tid) := by
  induction ts with
  | nil => cases h
  | cons u ts ih =>
    obtain ⟨hnot, hnd⟩ := List.nodup_cons.1 hnd
    rcases List.mem_cons.1 h with rfl | h
    · exact (congrArg (List.foldl _ · ts) (if_pos rfl)).trans (Group.landed_of_notMem hnot _)
    · have hne : gidOf u ≠ gidOf tid := fun e => hnot (e ▸ List.mem_map_of_mem h)
      exact (congrArg (List.foldl _ · ts) (if_neg hne)).trans (ih hnd h)

/-- What a load of size code up to 4 leaves in a register depends on its bytes alone. -/
theorem loadedWord_congr {size j : Nat} {sx : Bool} {byte byte' : Nat → Byte} (hsize : size ≤ 4) (hj : j < Claims.regsOf size)
    (h : ∀ k, k < 2 ^ size → byte k = byte' k) : Claims.loadedWord size sx byte j = Claims.loadedWord size sx byte' j := by
  match size, hsize with
  | 0, _ => simp only [Claims.loadedWord, h 0 (by decide)]
  | 1, _ => simp only [Claims.loadedWord, h 0 (by decide), h 1 (by decide)]
  | 2, _ => simp only [Claims.loadedWord, Nat.mul_zero, Nat.zero_add, h 0 (by decide), h 1 (by decide), h 2 (by decide), h 3 (by decide)]
  | 3, _ =>
    have word : [1, 0, 3, 2].getD j 0 < 2 := by
      match j, hj with
      | 0, _ | 1, _ => decide
    simp only [Claims.loadedWord]
    rw [h _ (by omega), h _ (by omega), h _ (by omega), h _ (by omega)]
  | 4, _ =>
    have word : [1, 0, 3, 2].getD j 0 < 4 := by
      match j, hj with
      | 0, _ | 1, _ | 2, _ | 3, _ => decide
    simp only [Claims.loadedWord]
    rw [h _ (by omega), h _ (by omega), h _ (by omega), h _ (by omega)]

/-- What the loads of a bundle leave in registers, once its threads go on: `v` is a state with the registers the instruction met. -/
theorem loaded_of_landed {s v w : State} {F : Fields} {bytes : Nat → List Byte} {byte : Nat → Nat → Byte}
    (h : Landed F bytes (accessors s F (s.guarded F)) v w) (hissue : w.issue = s.issue) (hthreads : v.threads = s.threads)
    (hgroups : ∀ gid, (v.groups.get? gid).map Group.sregs = (s.groups.get? gid).map Group.sregs)
    (hfields : ∀ tid ∈ s.guarded F, F.size ≤ 4 ∧ (F.cd = true → F.d ≠ 127 → F.d + Claims.regsOf F.size ≤ 127)) (hlen : ∀ tid ∈ s.guarded F, (bytes tid).length = 2 ^ F.size)
    (hbyte : ∀ tid ∈ s.guarded F, ∀ k, k < 2 ^ F.size → (bytes tid).getD k 0 = byte tid k) :
    Claims.Loaded s (w.advanceAll (s.unguarded F ++ s.guarded F)) F byte := by
  have goes (y : Thread) : goesOn w y = goesOn s y := by rw [goesOn, goesOn, hissue]
  have thread (tid : Nat) : (w.advanceAll (s.unguarded F ++ s.guarded F)).threads.get? tid =
      (s.threads.get? tid).map (fun x => if tid ∈ s.unguarded F ++ s.guarded F then goesOn s (x.landed F bytes (accessors s F (s.guarded F)) tid)
        else x.landed F bytes (accessors s F (s.guarded F)) tid) := by
    rw [State.advanceAll_get?, h.threads, hthreads, Option.map_map]
    simp only [goes]
    rfl
  have word (tid : Nat) (ht : tid ∈ s.guarded F) {j : Nat} (hj : j < Claims.regsOf F.size) :
      Claims.loadedWord F.size F.sx (fun k => (bytes tid).getD k 0) j = Claims.loadedWord F.size F.sx (byte tid) j :=
    loadedWord_congr (hfields tid ht).1 hj (hbyte tid ht)
  refine ⟨fun tid x hx => ?_, fun tid ht => ?_, fun hc tid x hx => ?_, fun hc => ⟨fun tid x hx => ?_, fun gid hgid => ?_⟩⟩
  · obtain ⟨hm, hget, hguard⟩ := hx
    have hnot : tid ∉ accessors s F (s.guarded F) := fun hacc => by simpa [hguard] using (State.mem_guarded hget).1 (accessors_subset hacc)
    rw [thread, hget]
    simp [Thread.landed, hnot, (State.mem_unguarded hget).2 ⟨hm, hguard⟩]
  · have hnot : tid ∉ s.unguarded F ++ s.guarded F := fun hmem => by
      rcases List.mem_append.1 hmem with hmem | hmem <;> exact ht (List.mem_filter.1 hmem).1
    have hacc : tid ∉ accessors s F (s.guarded F) := fun hacc => hnot (List.mem_append_right _ (accessors_subset hacc))
    rw [thread]
    cases s.threads.get? tid <;> simp [Thread.landed, hnot, hacc]
  · obtain ⟨hm, hget, hguard⟩ := hx
    have hg := (State.mem_guarded hget).2 ⟨hm, hguard⟩
    refine ⟨goesOn s (x.arrived F (bytes tid)), ?_, goesOn_frame (x.arrived_regs F (bytes tid)), fun hd j hj hj' => ?_, fun n hn => ?_⟩
    · rw [thread, hget]
      have hacc : tid ∈ accessors s F (s.guarded F) := by rwa [accessors, hc, if_neg (by decide)]
      simp [Thread.landed, hacc, hg]
    · rw [goesOn_reg, Thread.reg_arrived (hfields tid hg).1 (hlen tid hg) hc hd x hj hj', word tid hg hj]
    · rw [goesOn_reg, Thread.reg_arrived_of_apart _ x hn]
  · obtain ⟨hm, hget, hguard⟩ := hx
    rw [thread, hget]
    simp [Thread.landed, Thread.arrived_of_scalar hc, (State.mem_guarded hget).2 ⟨hm, hguard⟩]
  · have hacc : gid ∈ (accessors s F (s.guarded F)).map gidOf := by rw [accessors_gids hc]; exact mem_groupsIn.2 hgid
    obtain ⟨tid, hmem, rfl⟩ := List.mem_map.1 hacc
    have hg := accessors_subset hmem
    have group (g : Group) := Group.landed_of_mem (f := F) (bytes := bytes) (accessors_gids hc (s.guarded F) ▸ nodup_groupsIn _) hmem g
    have hv : (w.advanceAll (s.unguarded F ++ s.guarded F)).groups.get? (gidOf tid) =
        (v.groups.get? (gidOf tid)).map (Group.arrived F (bytes tid)) := by
      rw [State.advanceAll_groups, h.groups]
      exact congrArg (fun m => (v.groups.get? (gidOf tid)).map m) (funext group)
    have hregs := hgroups (gidOf tid)
    refine ⟨tid, hg, rfl, fun hd hsome j hj => ?_, fun n hn => ?_⟩
    · obtain ⟨g, hg'⟩ := Option.isSome_iff_exists.1 hsome
      rw [hg'] at hregs
      obtain ⟨g', hv', -⟩ := Option.map_eq_some_iff.1 hregs
      rw [hv'] at hv
      rw [State.group_of_get? hv, Group.sreg_arrived (hfields tid hg).1 (hlen tid hg) hc hd g' hj (by have := (hfields tid hg).2 hc hd; omega), word tid hg hj]
    · cases hv' : v.groups.get? (gidOf tid) with
      | none =>
        rw [hv'] at hv hregs
        have hs := Option.map_eq_none_iff.1 hregs.symm
        simp only [State.group, Tab.getD, hv, hs, Option.map_none]
      | some g' =>
        rw [hv'] at hv hregs
        obtain ⟨g, hs, hsregs⟩ := Option.map_eq_some_iff.1 hregs.symm
        rw [State.group_of_get? hv, State.group_of_get? hs, Group.sreg_arrived_of_apart _ g' hn, Group.sreg, Group.sreg, hsregs]

end Machine
end Sys2Proof
end

section
/-! PROOFS. LD from home (06 R130, R131, R137, 15 R260, R264, R269). -/

namespace Sys2Proof
namespace Machine

open Sys2Proof.Safety

/-! An acquire at any scope (R262). -/

theorem acquire_rest (s : State) (gid scope : Nat) : { s.acquire gid scope with domains := s.domains, pkrCopies := s.pkrCopies } = s := by
  unfold State.acquire
  by_cases h2 : 2 ≤ scope <;> by_cases h3 : 3 ≤ scope <;> simp only [h2, h3, if_true, if_false] <;> rfl

theorem acquire_overlays (s : State) (gid scope d : Nat) : ((s.acquire gid scope).domain d).overlay = (s.domain d).overlay := by
  by_cases h2 : 2 ≤ scope
  · have h : (s.acquire gid scope).domain d = if d = s.domOf gid then { s.domain (s.domOf gid) with lines := [] } else s.domain d := by
      have hdom : (s.acquire gid scope).domains = (s.modDomain (s.domOf gid) (fun p => { p with lines := [] })).domains := by
        unfold State.acquire
        by_cases h3 : 3 ≤ scope <;> simp only [h2, h3, if_true, if_false]
      exact (congrArg (fun t => Tab.getD t d PhaseDom.empty) hdom).trans (Tab.getD_putD ..)
    rw [h]
    split
    · next hd => rw [hd]
    · rfl
  · have h3 : ¬ 3 ≤ scope := by omega
    simp only [State.acquire, h2, h3, if_false]

theorem acquireAll_rest (l : List Nat) (scope : Nat) (s : State) :
    { s.acquireAll l scope with domains := s.domains, pkrCopies := s.pkrCopies } = s := by
  induction l generalizing s with
  | nil => rfl
  | cons gid l ih =>
    have h := congrArg (fun v : State => { v with domains := s.domains, pkrCopies := s.pkrCopies }) (ih (s.acquire gid scope))
    exact h.trans (acquire_rest s gid scope)

theorem acquireAll_overlays (l : List Nat) (scope : Nat) (s : State) (d : Nat) :
    ((s.acquireAll l scope).domain d).overlay = (s.domain d).overlay := by
  induction l generalizing s with
  | nil => rfl
  | cons gid l ih => exact (ih (s.acquire gid scope)).trans (acquire_overlays s gid scope d)

/-! What loads leave of a state: the bytes every thread sees. -/

/-- State `s` is `u` but for registers, for what is counted, and for snapshots: a line that was not there may stand in one as home holds it,
and where the accesses are volatile one may be gone. -/
structure ReadsHome (vol : Bool) (u s : State) : Prop where
  rest : { s with threads := u.threads, groups := u.groups, domains := u.domains, used := u.used } = u
  groups : ∀ gid, { s.group gid with sregs := (u.group gid).sregs } = u.group gid
  overlay : ∀ d, (s.domain d).overlay = (u.domain d).overlay
  lines : ∀ d l, (s.domain d).lines.get? l = (u.domain d).lines.get? l ∨
    (vol = false ∧ (u.domain d).lines.get? l = none ∧ (s.domain d).lines.get? l = some (u.homeBytes (64 * l) 64)) ∨
    (vol = true ∧ (s.domain d).lines.get? l = none)

namespace ReadsHome

variable {vol : Bool} {u s t : State}

theorem refl (vol : Bool) (s : State) : ReadsHome vol s s := ⟨rfl, fun _ => rfl, fun _ => rfl, fun _ _ => .inl rfl⟩

theorem hbm (h : ReadsHome vol u s) : s.hbm = u.hbm := (congrArg State.hbm h.rest :)

theorem homeByte (h : ReadsHome vol u s) (a : Nat) : s.homeByte a = u.homeByte a := by rw [State.homeByte, State.homeByte, h.hbm]

theorem homeBytes (h : ReadsHome vol u s) (a n : Nat) : s.homeBytes a n = u.homeBytes a n := by
  simp only [State.homeBytes, h.homeByte]

theorem trans (h : ReadsHome vol u s) (k : ReadsHome vol s t) : ReadsHome vol u t where
  rest := by
    have e := congrArg (fun v : State => { v with threads := u.threads, groups := u.groups, domains := u.domains, used := u.used }) k.rest
    exact e.trans h.rest
  groups := fun gid => by
    have e := congrArg (fun g : Group => { g with sregs := (u.group gid).sregs }) (k.groups gid)
    exact e.trans (h.groups gid)
  overlay := fun d => (k.overlay d).trans (h.overlay d)
  lines := fun d l => by
    have hk := k.lines d l
    rw [h.homeBytes] at hk
    rcases h.lines d l with e | ⟨hv, e, e'⟩ | ⟨hv, e⟩
    · rwa [e] at hk
    · rcases hk with e'' | ⟨-, e'', -⟩ | ⟨hv', -⟩
      · exact .inr (.inl ⟨hv, e, e''.trans e'⟩)
      · rw [e'] at e''; cases e''
      · rw [hv] at hv'; cases hv'
    · rcases hk with e'' | ⟨hv', -⟩ | ⟨-, e''⟩
      · exact .inr (.inr ⟨hv, e''.trans e⟩)
      · rw [hv] at hv'; cases hv'
      · exact .inr (.inr ⟨hv, e''⟩)

end ReadsHome

/-- What a thread forwards depends on its group but for the scalars. -/
theorem forwarded_of_group {s u : State} {tid : Nat} (h : { s.group (gidOf tid) with sregs := (u.group (gidOf tid)).sregs } = u.group (gidOf tid))
    (a : Nat) : s.forwarded tid a = u.forwarded tid a := by
  unfold State.forwarded State.unmatched
  rw [← h]

theorem domOf_of_group {s u : State} {gid : Nat} (h : { s.group gid with sregs := (u.group gid).sregs } = u.group gid) : s.domOf gid = u.domOf gid := by
  unfold State.domOf
  rw [← h]

/-- Byte `j` of a line of home. -/
theorem homeBytes_getD (s : State) (a n j : Nat) (h : j < n) : (s.homeBytes a n).getD j 0 = s.homeByte (a + j) := by
  simp [State.homeBytes, List.getD_eq_getElem?_getD, h]

theorem ReadsHome.sees {vol : Bool} {u s : State} (h : ReadsHome vol u s) (tid a : Nat) : Claims.sees s tid a vol = Claims.sees u tid a vol := by
  have hdom := domOf_of_group (h.groups (gidOf tid))
  unfold Claims.sees
  dsimp only
  rw [forwarded_of_group (h.groups (gidOf tid)), hdom, h.overlay, h.homeByte]
  cases vol with
  | true => rfl
  | false =>
    rcases h.lines (u.domOf (gidOf tid)) (a / 64) with e | ⟨-, e, e'⟩ | ⟨hv, -⟩
    · simp only [e]
    · have byte : (u.homeBytes (64 * (a / 64)) 64).getD (a % 64) 0 = u.homeByte a := by
        rw [homeBytes_getD _ _ _ _ (Nat.mod_lt _ (by decide)), Nat.div_add_mod]
      simp only [e, e', byte]
    · cases hv

/-! One line loaded, and several (R260). -/

/-- A byte not served is read at home. -/
theorem served_getD (s : State) (tid a : Nat) (vol : Bool) : (s.served tid a vol false).getD (s.homeByte a) = Claims.sees s tid a vol := by
  unfold State.served Claims.sees
  cases s.forwarded tid a with
  | some b => rfl
  | none =>
    simp only [Bool.false_eq_true, if_false]
    cases (s.domain (s.domOf (gidOf tid))).overlay.get? a with
    | some b => rfl
    | none =>
      cases vol with
      | true => rfl
      | false =>
        simp only [Bool.false_eq_true, if_false]
        cases (s.domain (s.domOf (gidOf tid))).lines.get? (a / 64) <;> rfl

/-- A line that the snapshot holds serves all its bytes. -/
theorem line_none_of_served {s : State} {tid a : Nat} (h : s.served tid a false false = none) :
    (s.domain (s.domOf (gidOf tid))).lines.get? (a / 64) = none := by
  unfold State.served at h
  split at h
  · cases h
  · simp only [Bool.false_eq_true, if_false] at h
    split at h
    · cases h
    · exact Option.map_eq_none_iff.1 h

/-- A line without an error, with no Flicker error armed, is met sound (R380, R386). -/
theorem meetLine_sound {s : State} {line : Nat} (harm : s.flkCtl.getLsbD 31 = false) (hpoison : line ∉ s.poison) (hbad : s.badLines.get? line = none) :
    s.meetLine line = (s, .sound) := by
  unfold State.meetLine
  simp only [harm, Bool.false_and, Bool.false_eq_true, if_false]
  simp [State.meetStored, hpoison, hbad]

theorem countUse_rest (s : State) (act unit_ n : Nat) : { s.countUse act unit_ n with used := s.used } = s := by
  unfold State.countUse
  split <;> rfl

theorem readsHome_countUse (vol : Bool) (s : State) (act unit_ n : Nat) : ReadsHome vol s (s.countUse act unit_ n) := by
  unfold State.countUse
  split
  · exact .refl vol s
  · exact ⟨rfl, fun _ => rfl, fun _ => rfl, fun _ _ => .inl rfl⟩

/-- One line of a load: its bytes are those the thread sees. -/
theorem loadLine_sound {s : State} {tid line : Nat} {as : List Nat} (vol : Bool) (hline : ∀ a ∈ as, a / 64 = line)
    (harm : s.flkCtl.getLsbD 31 = false) (hpoison : line ∉ s.poison) (hbad : s.badLines.get? line = none) :
    ReadsHome vol s (s.loadLine tid line as vol false).1 ∧ (s.loadLine tid line as vol false).1.threads = s.threads ∧
      (s.loadLine tid line as vol false).1.groups = s.groups ∧
      (s.loadLine tid line as vol false).2 = (as.map (Claims.sees s tid · vol), .sound) := by
  have seen (a : Nat) := served_getD s tid a vol
  unfold State.loadLine
  by_cases hall : (as.map (fun a => s.served tid a vol false)).all Option.isSome = true
  · rw [if_pos hall]
    refine ⟨.refl vol s, rfl, rfl, ?_⟩
    simp only [List.map_map, Prod.mk.injEq, and_true]
    refine List.map_congr_left fun a ha => ?_
    have hsome : (s.served tid a vol false).isSome = true := List.all_eq_true.1 hall _ (List.mem_map_of_mem ha)
    obtain ⟨b, hb⟩ := Option.isSome_iff_exists.1 hsome
    rw [Function.comp_apply, ← seen, hb]
    rfl
  · rw [if_neg hall]
    have used := countUse_rest s (s.activityOfGroup (gidOf tid)) 1 1
    have read := readsHome_countUse vol s (s.activityOfGroup (gidOf tid)) 1 1
    generalize s.countUse (s.activityOfGroup (gidOf tid)) 1 1 = c at used read
    have same : c.flkCtl = s.flkCtl ∧ c.poison = s.poison ∧ c.badLines = s.badLines ∧ c.threads = s.threads ∧ c.groups = s.groups :=
      ⟨(congrArg State.flkCtl used :), (congrArg State.poison used :), (congrArg State.badLines used :), (congrArg State.threads used :), (congrArg State.groups used :)⟩
    obtain ⟨cflk, cpoison, cbad, cthreads, cgroups⟩ := same
    rw [meetLine_sound (by rwa [cflk]) (by rwa [cpoison]) (by rwa [cbad])]
    simp only [seen, Bool.or_false]
    refine ⟨read.trans ?_, cthreads, cgroups, trivial⟩
    have domain (e : Nat) (f : PhaseDom → PhaseDom) :
        (c.modDomain (s.domOf (gidOf tid)) f).domain e = if e = s.domOf (gidOf tid) then f (c.domain (s.domOf (gidOf tid))) else c.domain e := Tab.getD_putD ..
    refine ⟨rfl, fun _ => rfl, fun d => ?_, fun d l => ?_⟩
    · rw [domain]
      split
      · next hd => rw [hd]
      · rfl
    · rw [domain]
      split
      · next hd =>
        subst hd
        by_cases hl : l = line
        · subst hl
          cases vol with
          | true => exact .inr (.inr ⟨rfl, by simp⟩)
          | false =>
            refine .inr (.inl ⟨rfl, ?_, by simp [read.homeBytes]⟩)
            simp only [List.all_map, Bool.not_eq_true, List.all_eq_false, Function.comp_apply, Option.isSome_eq_false_iff, Option.isNone_iff_eq_none] at hall
            obtain ⟨a, ha, hnone⟩ := hall
            rw [← hline a ha, show c.domain = s.domain from funext fun d => congrArg (fun t => Tab.getD t d PhaseDom.empty) (congrArg State.domains used :)]
            exact line_none_of_served hnone
        · exact .inl (by split <;> simp [hl])
      · exact .inl rfl

/-- A list in the order of a key, taken key by key, is the list. -/
theorem flatMap_filter_key (key : Nat → Nat) (b m : Nat) (L : List Nat) (hsorted : L.Pairwise (fun x y => key x ≤ key y))
    (h : ∀ x ∈ L, b ≤ key x ∧ key x < b + m) : (List.range' b m).flatMap (fun k => L.filter (fun x => key x == k)) = L := by
  induction m generalizing b L with
  | zero =>
    cases L with
    | nil => rfl
    | cons x L =>
      have := h x List.mem_cons_self
      omega
  | succ m ih =>
    have split (L : List Nat) (hsorted : L.Pairwise (fun x y => key x ≤ key y)) (h : ∀ x ∈ L, b ≤ key x) :
        L.filter (fun x => key x == b) ++ L.filter (fun x => key x != b) = L := by
      induction L with
      | nil => rfl
      | cons x L ihL =>
        obtain ⟨hx, hsorted⟩ := List.pairwise_cons.1 hsorted
        by_cases hxb : key x = b
        · have e := ihL hsorted (fun y hy => h y (List.mem_cons_of_mem _ hy))
          simp [hxb, e]
        · have above (y : Nat) (hy : y ∈ x :: L) : key y ≠ b := by
            have hb := h x List.mem_cons_self
            rcases List.mem_cons.1 hy with rfl | hy
            · exact hxb
            · have := hx y hy
              omega
          rw [List.filter_eq_nil_iff.2 fun y hy => by simp [above y hy], List.filter_eq_self.2 fun y hy => by simp [above y hy], List.nil_append]
    rw [List.range'_succ, List.flatMap_cons]
    conv => rhs; rw [← split L hsorted fun x hx => (h x hx).1]
    have hrest := ih (b + 1) (L.filter (fun x => key x != b)) (hsorted.filter _) fun x hx => by
      obtain ⟨hx, hne⟩ := List.mem_filter.1 hx
      have := h x hx
      have : key x ≠ b := by simpa using hne
      omega
    refine congrArg (L.filter (fun x => key x == b) ++ ·) (Eq.trans ?_ hrest)
    refine List.flatMap_congr fun k hk => ?_
    rw [List.filter_filter]
    have : k ≠ b := by
      have := List.mem_range'_1.1 hk
      omega
    refine List.filter_congr fun x _ => ?_
    by_cases hxk : key x = k
    · simp [hxk, this]
    · simp [hxk]

/-- The bytes of a range, line by line. -/
theorem flatMap_linesOf (a n : Nat) :
    (linesOf a n).flatMap (fun l => ((List.range n).map (a + ·)).filter (fun b => b / 64 == l)) = (List.range n).map (a + ·) := by
  unfold linesOf
  by_cases hn : n = 0
  · simp [hn]
  · have hlines (m : Nat) : (List.range m).map (a / 64 + ·) = List.range' (a / 64) m := List.range'_eq_map_range.symm
    rw [if_neg hn, hlines]
    refine flatMap_filter_key (· / 64) _ _ _ ?_ fun x hx => ?_
    · rw [List.pairwise_map]
      exact List.pairwise_lt_range.imp fun hij => Nat.div_le_div_right (by omega)
    · obtain ⟨j, hj, rfl⟩ := List.mem_map.1 hx
      have hj := List.mem_range.1 hj
      constructor <;> omega

/-- A line of a range holds one of its bytes. -/
theorem mem_linesOf {a n l : Nat} (h : l ∈ linesOf a n) : ∃ k, k < n ∧ (a + k) / 64 = l := by
  unfold linesOf at h
  split at h
  · cases h
  · next hn =>
    obtain ⟨j, hj, rfl⟩ := List.mem_map.1 h
    have hj := List.mem_range.1 hj
    refine ⟨if j = 0 then 0 else 64 * (a / 64 + j) - a, ?_, ?_⟩ <;> split <;> omega

/-- LD's bytes from a home without errors: those the thread sees, in order (R260). -/
theorem loadBytes_sound {s : State} {tid a n : Nat} (vol : Bool) (h : Claims.Sound s a n) :
    ReadsHome vol s (s.loadBytes tid a n vol false).1 ∧ (s.loadBytes tid a n vol false).1.threads = s.threads ∧
      (s.loadBytes tid a n vol false).1.groups = s.groups ∧
      (s.loadBytes tid a n vol false).2 = ((List.range n).map (fun k => Claims.sees s tid (a + k) vol), .sound) := by
  obtain ⟨harm, hsound⟩ := h
  have lines (ls : List Nat) (hls : ∀ l ∈ ls, l ∈ linesOf a n) (r : State × List Byte × State.Met) (hr : ReadsHome vol s r.1) (hm : r.2.2 = .sound) :
      let f := fun (r : State × List Byte × State.Met) (l : Nat) =>
        let q := r.1.loadLine tid l (((List.range n).map (a + ·)).filter (fun b => b / 64 == l)) vol false
        (q.1, r.2.1 ++ q.2.1, State.firstMet r.2.2 q.2.2)
      ReadsHome vol s (ls.foldl f r).1 ∧ (ls.foldl f r).1.threads = r.1.threads ∧ (ls.foldl f r).1.groups = r.1.groups ∧
        (ls.foldl f r).2 = (r.2.1 ++ (ls.flatMap (fun l => ((List.range n).map (a + ·)).filter (fun b => b / 64 == l))).map
          (Claims.sees s tid · vol), .sound) := by
    induction ls generalizing r with
    | nil => exact ⟨hr, rfl, rfl, by simp [← hm]⟩
    | cons l ls ih =>
      obtain ⟨k, hk, rfl⟩ := mem_linesOf (hls l List.mem_cons_self)
      obtain ⟨hpoison, hbad⟩ := hsound k hk
      have same : r.1.flkCtl = s.flkCtl ∧ r.1.poison = s.poison ∧ r.1.badLines = s.badLines :=
        ⟨(congrArg State.flkCtl hr.rest :), (congrArg State.poison hr.rest :), (congrArg State.badLines hr.rest :)⟩
      obtain ⟨cflk, cpoison, cbad⟩ := same
      have line := loadLine_sound (s := r.1) (tid := tid) vol
        (as := ((List.range n).map (a + ·)).filter (fun b => b / 64 == (a + k) / 64)) (fun b hb => by simpa using (List.mem_filter.1 hb).2)
        (by rwa [cflk]) (by rwa [cpoison]) (by rwa [cbad])
      generalize hq : r.1.loadLine tid ((a + k) / 64) (((List.range n).map (a + ·)).filter (fun b => b / 64 == (a + k) / 64)) vol false = q at line
      obtain ⟨hread, hthreads, hgroups, hbytes⟩ := line
      obtain ⟨ih1, ih2, ih3, ih4⟩ := ih (fun l hl => hls l (List.mem_cons_of_mem _ hl))
        (q.1, r.2.1 ++ q.2.1, State.firstMet r.2.2 q.2.2) (hr.trans hread) (by rw [hm, hbytes]; rfl)
      dsimp only
      rw [List.foldl_cons, hq]
      refine ⟨ih1, ih2.trans hthreads, ih3.trans hgroups, ih4.trans ?_⟩
      rw [hbytes, List.flatMap_cons, List.map_append, List.append_assoc]
      simp only [hr.sees]
  obtain ⟨hread, hthreads, hgroups, hbytes⟩ := lines (linesOf a n) (fun _ hl => hl) (s, [], .sound) (.refl vol s) rfl
  refine ⟨hread, hthreads, hgroups, hbytes.trans ?_⟩
  rw [flatMap_linesOf, List.nil_append, List.map_map]
  rfl

/-! LD of a bundle. -/

/-- Does what an access check answers name a descriptor, where it passes? -/
def Checked.Names (d : Desc) : Checked → Prop
  | .ok e _ => e = d
  | .bad _ _ => True

theorem names_ite {d : Desc} {p : Prop} [Decidable p] {a b : Checked} (ha : a.Names d) (hb : b.Names d) : (if p then a else b).Names d := by
  split
  · exact ha
  · exact hb

/-- A check that passes names the descriptor of the pointer's segment (R233). -/
theorem checkAl_names {s : State} {a : Agent} {c : Nat} (hcore : a.core = some c) (ea : Ptr) (n : Nat) (mis : Bool) (size : Nat) (kind : Kind) :
    (s.checkAl a ea n mis size kind).Names (s.descOn c a.ctx (segOf ea)) := by
  unfold State.checkAl
  rw [hcore]
  refine names_ite trivial (names_ite trivial (names_ite trivial (names_ite trivial (names_ite trivial ?_))))
  dsimp only
  split
  · trivial
  · exact names_ite rfl (names_ite trivial (names_ite trivial (names_ite trivial (names_ite trivial rfl))))

theorem desc_of_check {s : State} {a : Agent} {c n size : Nat} {ea : Ptr} {kind : Kind} {d : Desc} {l : Loc} (hcore : a.core = some c)
    (h : s.check a ea n size kind = .ok d l) : d = s.descOn c a.ctx (segOf ea) := by
  have names := checkAl_names (s := s) hcore ea n (offOf ea % n != 0) size kind
  rwa [show s.checkAl a ea n (offOf ea % n != 0) size kind = .ok d l from h] at names

/-- The check of an access whose home is known. -/
theorem check_of_homeAt {s : State} {F : Fields} {kind : Kind} {tid a : Nat} (h : Claims.homeAt s F kind tid = some a) :
    ∃ d, s.check (s.agent tid) (globalEa F (s.group (gidOf tid)) (s.thread tid))
      (if kind = .write ∧ storeMask F (s.thread tid) = 0 then 1 else F.sizeBytes) F.size kind = .ok d (.home a) := by
  unfold Claims.homeAt at h
  dsimp only at h
  split at h
  · next d b hc =>
    obtain rfl := Option.some.inj h
    exact ⟨d, hc⟩
  · cases h

/-- The bytes a thread loads that sees state `u`. -/
def seenBytes (u s : State) (F : Fields) (tid : Nat) : List Byte :=
  (List.range F.sizeBytes).map (fun k => Claims.sees u tid ((Claims.homeAt s F .read tid).getD 0 + k) F.vol)

/-- One load from home, where no error stands and no seal is touched (R260, R267). -/
theorem loadOne_sound {s w : State} {F : Fields} {tid a : Nat} (hhome : Claims.homeAt s F .read tid = some a) (hsound : Claims.Sound w a F.sizeBytes)
    (hseal : Claims.touchesSeal s F tid = false) (hsame : w.contexts = s.contexts ∧ w.launches = s.launches ∧ w.teams = s.teams) :
    w.loadOne F s tid = (w.loadBytes tid a F.sizeBytes F.vol false).1.fill tid (loadDest F) (seenBytes w s F tid) := by
  obtain ⟨d, hcheck⟩ := check_of_homeAt hhome
  rw [if_neg (by simp)] at hcheck
  obtain ⟨hcontexts, hlaunches, hteams⟩ := hsame
  have hsealed (c seg off n : Nat) : w.sealed c seg off n = s.sealed c seg off n := by simp only [State.sealed, State.context, hcontexts]
  have hctx : w.ctxOf (gidOf tid) = s.ctxOf (gidOf tid) := by simp only [State.ctxOf, State.launchOf, State.launch, State.team, hlaunches, hteams]
  have hdesc : d.sl = (s.descOn (s.group (gidOf tid)).core (s.ctxOf (gidOf tid)) (segOf (globalEa F (s.group (gidOf tid)) (s.thread tid)))).sl :=
    by rw [desc_of_check (c := (s.group (gidOf tid)).core) rfl hcheck]; rfl
  have hnoseal : (d.sl || w.sealed (w.ctxOf (gidOf tid)) (segOf (globalEa F (s.group (gidOf tid)) (s.thread tid)))
      (offOf (globalEa F (s.group (gidOf tid)) (s.thread tid))) F.sizeBytes) = false := by
    rw [hdesc, hsealed, hctx]
    exact hseal
  obtain ⟨-, -, -, hbytes⟩ := loadBytes_sound (tid := tid) F.vol hsound
  unfold State.loadOne
  dsimp only
  rw [hcheck]
  dsimp only
  rw [hnoseal, hbytes]
  unfold seenBytes
  rw [hhome]
  rfl

/-- The loads of several threads, one after another. -/
theorem foldl_loadOne {s u : State} {F : Fields} (hu : { u with domains := s.domains, pkrCopies := s.pkrCopies } = s) (ts : List Nat)
    (hts : ∀ tid ∈ ts, ∃ a, Claims.homeAt s F .read tid = some a ∧ Claims.Sound s a F.sizeBytes ∧ Claims.touchesSeal s F tid = false)
    (before : List Nat) (hnd : (before ++ ts).Nodup) {w : State} (hread : ReadsHome F.vol u w) (hland : Landed F (seenBytes u s F) before u w) :
    ReadsHome F.vol u (ts.foldl (fun w tid => w.loadOne F s tid) w) ∧
      Landed F (seenBytes u s F) (before ++ ts) u (ts.foldl (fun w tid => w.loadOne F s tid) w) := by
  induction ts generalizing before w with
  | nil => exact ⟨hread, by rwa [List.append_nil]⟩
  | cons tid ts ih =>
    obtain ⟨a, hhome, ⟨harm, hlines⟩, hseal⟩ := hts tid List.mem_cons_self
    have hflk : w.flkCtl = s.flkCtl := (congrArg State.flkCtl hread.rest :).trans (congrArg State.flkCtl hu :)
    have hpoison : w.poison = s.poison := (congrArg State.poison hread.rest :).trans (congrArg State.poison hu :)
    have hbad : w.badLines = s.badLines := (congrArg State.badLines hread.rest :).trans (congrArg State.badLines hu :)
    have hsound : Claims.Sound w a F.sizeBytes := ⟨hflk ▸ harm, by rw [hpoison, hbad]; exact hlines⟩
    have hsame : w.contexts = s.contexts ∧ w.launches = s.launches ∧ w.teams = s.teams :=
      ⟨(congrArg State.contexts hread.rest :).trans (congrArg State.contexts hu :), (congrArg State.launches hread.rest :).trans (congrArg State.launches hu :),
        (congrArg State.teams hread.rest :).trans (congrArg State.teams hu :)⟩
    obtain ⟨hstep, hthreads, hgroups, -⟩ := loadBytes_sound (tid := tid) F.vol hsound
    have hbytes : seenBytes w s F tid = seenBytes u s F tid := by simp only [seenBytes, hread.sees]
    have hnot : tid ∉ before := fun hm => (List.disjoint_of_nodup_append hnd) hm List.mem_cons_self
    have hlands : Landed F (seenBytes u s F) before u (w.loadBytes tid a F.sizeBytes F.vol false).1 :=
      ⟨fun v => by rw [hthreads]; exact hland.threads v, fun g => by rw [hgroups]; exact hland.groups g⟩
    have hfilled := hlands.fill hnot
    have hfill : ReadsHome F.vol (w.loadBytes tid a F.sizeBytes F.vol false).1
        ((w.loadBytes tid a F.sizeBytes F.vol false).1.fill tid (loadDest F) (seenBytes u s F tid)) := by
      refine ⟨by rw [State.fill_loadDest], fun gid => ?_, fun _ => by rw [State.fill_loadDest]; rfl, fun _ _ => .inl (by rw [State.fill_loadDest]; rfl)⟩
      have hv := (Landed.nil F (seenBytes u s F) (w.loadBytes tid a F.sizeBytes F.vol false).1).fill (List.not_mem_nil (a := tid))
      exact hv.group gid
    rw [List.foldl_cons, loadOne_sound hhome hsound hseal hsame, hbytes]
    have := ih (fun v hv => hts v (List.mem_cons_of_mem _ hv)) (before ++ [tid]) (by simpa using hnd) ((hread.trans hstep).trans hfill) hfilled
    simpa using this

/-- Where a load decodes without a fault, its size code is up to 4, and a scalar D does not reach sz (R78, R131). -/
theorem load_fields {w : Nat} {F : Fields} (h : fieldsOk w F = true) (hmaj : F.maj = 0x0F) :
    F.size ≤ 4 ∧ (F.mn = 0 ∨ F.mn = 2 → F.cd = true → F.d ≠ 127 → F.d + Claims.regsOf F.size ≤ 127) := by
  have hmod := modOk_of_fieldsOk h
  have hslot := slotD_of_fieldsOk h
  simp only [modOk, hmaj, Bool.and_eq_true, decide_eq_true_eq] at hmod
  obtain ⟨⟨hsize, -⟩, -⟩ := hmod
  refine ⟨by omega, fun hmn hc hd => ?_⟩
  have hregs : Claims.regsOf F.size ≤ 4 := by
    unfold Claims.regsOf
    split <;> [omega; (split <;> omega)]
  have hD : (opnds w F).d = sized F.size := by rcases hmn with hmn | hmn <;> simp [opnds, hmaj, hmn]
  have hlt : F.d < 96 := by
    rw [hD, hc] at hslot
    unfold sized at hslot
    split at hslot <;> simp [Slot.vsPair, Slot.vs, slotOk, regOk, hd] at hslot <;> omega
  omega

/-- LD as the statement says it. -/
theorem loads_home {i : Instr} {F : Fields} {s : State} (hwf : i.wf = true) (hF : i.fields? = some F) (hmaj : F.maj = 0x0F) (hmn : F.mn = 0)
    (hcalm : Calm s F State.noFault) (hnd : s.issue.threads.Nodup)
    (hts : ∀ tid ∈ s.guarded F, ∃ a, Claims.homeAt s F .read tid = some a ∧ Claims.Sound s a F.sizeBytes ∧ Claims.touchesSeal s F tid = false) :
    let u := if F.acquires then s.acquireAll (State.groupsIn (s.guarded F)) F.scope else s
    ∃ t, exec i s = .next t ∧
      { t with threads := s.threads, groups := s.groups, domains := s.domains, pkrCopies := s.pkrCopies, used := s.used } = s ∧
      (∀ d, (t.domain d).overlay = (s.domain d).overlay) ∧ t.pkrCopies = u.pkrCopies ∧
      (∀ d l, (t.domain d).lines.get? l = (u.domain d).lines.get? l ∨ (t.domain d).lines.get? l = some (s.homeBytes (64 * l) 64) ∨
        (F.vol = true ∧ (t.domain d).lines.get? l = none)) ∧
      (∀ gid, { t.group gid with sregs := (s.group gid).sregs } = s.group gid) ∧
      Claims.Loaded s t F (fun tid k => Claims.sees u tid ((Claims.homeAt s F .read tid).getD 0 + k) F.vol) := by
  intro u
  have hu : { u with domains := s.domains, pkrCopies := s.pkrCopies } = s := by
    unfold u
    split
    · exact acquireAll_rest _ _ s
    · rfl
  have hover (d : Nat) : (u.domain d).overlay = (s.domain d).overlay := by
    unfold u
    split
    · exact acquireAll_overlays _ _ s d
    · rfl
  have calm : Calm s F (fun tid => s.globalFault tid (globalEa F (s.group (gidOf tid)) (s.thread tid)) F.sizeBytes F.size .read) := fun tid ht => by
    obtain ⟨a, hhome, -⟩ := hts tid ht
    obtain ⟨d, hcheck⟩ := check_of_homeAt hhome
    rw [if_neg (by simp)] at hcheck
    exact ⟨(hcalm tid ht).1, by unfold State.globalFault; dsimp only; rw [hcheck]⟩
  have fields (tid : Nat) (ht : tid ∈ s.guarded F) := load_fields (fieldsOk_of_decodeFault (hcalm tid ht).1) hmaj
  obtain ⟨hread, hland⟩ := foldl_loadOne hu (accessors s F (s.guarded F)) (fun tid ht => hts tid (accessors_subset ht)) []
    (by simpa using accessors_nodup (guarded_nodup hnd F)) (.refl F.vol u) (.nil F _ u)
  have run : exec i s = .next
      (((accessors s F (s.guarded F)).foldl (fun w tid => w.loadOne F s tid) u).advanceAll (s.unguarded F ++ s.guarded F)) := by
    rw [exec_eq_meaning s hF hwf, show meaning F s = xLd F s by simp [meaning, hmaj, hmn], xLd, State.runState_calm calm]
    split
    · next hg => simp only [u, hg, accessors, State.groupsIn, List.map_nil, List.eraseDups_nil, State.acquireAll, List.foldl_nil, ite_self]
    · rfl
  generalize (accessors s F (s.guarded F)).foldl (fun w tid => w.loadOne F s tid) u = w at hread hland run
  have hregs : u.threads = s.threads ∧ u.groups = s.groups := ⟨(congrArg State.threads hu :), (congrArg State.groups hu :)⟩
  obtain ⟨hthreads, hgroups⟩ := hregs
  have hgroup (gid : Nat) : u.group gid = s.group gid := by rw [State.group, State.group, hgroups]
  have rest : { w with threads := s.threads, groups := s.groups, domains := s.domains, pkrCopies := s.pkrCopies, used := s.used } = s := by
    have h1 := congrArg (fun v : State => { v with threads := s.threads, groups := s.groups, domains := s.domains, pkrCopies := s.pkrCopies, used := s.used }) hread.rest
    have h2 := congrArg (fun v : State => { v with threads := s.threads, groups := s.groups, used := s.used }) hu
    exact h1.trans h2
  refine ⟨_, run, rest, fun d => (hread.overlay d).trans (hover d), (congrArg State.pkrCopies hread.rest :), fun d l => ?_, fun gid => ?_, ?_⟩
  · have hhbm : u.hbm = s.hbm := (congrArg State.hbm hu :)
    have hbytes : u.homeBytes (64 * l) 64 = s.homeBytes (64 * l) 64 := by simp only [State.homeBytes, State.homeByte, hhbm]
    rcases hread.lines d l with e | ⟨-, -, e⟩ | e
    · exact .inl e
    · exact .inr (.inl (e.trans (congrArg some hbytes)))
    · exact .inr (.inr e)
  · have e := hread.groups gid
    rwa [hgroup] at e
  · refine loaded_of_landed hland ((congrArg State.issue hread.rest :).trans (congrArg State.issue hu :)) hthreads (fun gid => by rw [hgroups])
      (fun tid ht => ⟨(fields tid ht).1, (fields tid ht).2 (.inl hmn)⟩) (fun tid _ => by rw [seenBytes, List.length_map, List.length_range]; rfl)
      fun tid _ k hk => ?_
    have hk : k < F.sizeBytes := hk
    simp [seenBytes, List.getD_eq_getElem?_getD, hk]

end Machine
end Sys2Proof
end

section
/-! PROOFS. LDS (06 R131, R135, 15 R265), and the statement of the loads. -/

namespace Sys2Proof
namespace Machine

open Sys2Proof.Safety

/-! Scratchpad stores performed (R265). -/

/-- A team with bytes written to its scratchpad. -/
def Team.stored (cells : List Host.Cell) (t : Team) : Team := { t with spad := cells.foldl (fun m c => m.putD c.1 c.2 0) t.spad }

/-- Relaxed scratchpad stores written to the scratchpads of their teams, in order. -/
def spadWrites (ps : List SpadStore) (teams : Tab Team) : Tab Team :=
  ps.foldl (fun teams p => teams.modify p.team (Team.stored p.bytes)) teams

theorem foldl_spadCells (ps : List SpadStore) (s : State) :
    ps.foldl (fun s p => s.spadCells p.team p.bytes) s = { s with teams := spadWrites ps s.teams } := by
  induction ps generalizing s with
  | nil => rfl
  | cons p ps ih => exact ih (s.spadCells p.team p.bytes)

theorem performSpad_eq (s : State) (gid : Nat) (pick : SpadStore → Bool) :
    s.performSpad gid pick = { s with
      teams := spadWrites (splitBefore SpadStore.before pick (s.group gid).spadPath).1 s.teams
      groups := s.groups.modify gid (fun g => { g with spadPath := (splitBefore SpadStore.before pick (s.group gid).spadPath).2 }) } := by
  unfold State.performSpad
  dsimp only
  rw [foldl_spadCells]
  rfl

/-- A scratchpad store changes nothing of a team but its scratchpad. -/
theorem spadWrites_team (ps : List SpadStore) (teams : Tab Team) (k : Nat) :
    { (spadWrites ps teams).getD k Team.blank with spad := (teams.getD k Team.blank).spad } = teams.getD k Team.blank := by
  induction ps generalizing teams with
  | nil => rfl
  | cons p ps ih =>
    have h := congrArg (fun t : Team => { t with spad := (teams.getD k Team.blank).spad })
      (ih (teams.modify p.team (Team.stored p.bytes)))
    exact h.trans (Tab.getD_modify_congr (f := Team.stored p.bytes) (fun t : Team => { t with spad := (teams.getD k Team.blank).spad }) (fun _ => rfl)
      teams p.team k Team.blank)

/-- State `v` is `u` but for scratchpad stores of groups that have been performed. -/
structure OwnStores (u v : State) : Prop where
  rest : { v with teams := u.teams, groups := u.groups } = u
  teams : ∀ k, { v.team k with spad := (u.team k).spad } = u.team k
  groups : ∀ gid, ∃ path, v.groups.get? gid = (u.groups.get? gid).map (fun g => { g with spadPath := path })

namespace OwnStores

variable {u v w : State}

theorem refl (s : State) : OwnStores s s where
  rest := rfl
  teams := fun _ => rfl
  groups := fun gid => ⟨(s.group gid).spadPath, by
    cases h : s.groups.get? gid with
    | none => rfl
    | some g => rw [State.group_of_get? h]; rfl⟩

theorem performSpad (h : OwnStores u v) (gid : Nat) (pick : SpadStore → Bool) : OwnStores u (v.performSpad gid pick) where
  rest := by rw [performSpad_eq]; exact h.rest
  teams := fun k => by
    rw [performSpad_eq]
    have e := congrArg (fun t : Team => { t with spad := (u.team k).spad })
      (spadWrites_team (splitBefore SpadStore.before pick (v.group gid).spadPath).1 v.teams k)
    exact e.trans (h.teams k)
  groups := fun g => by
    obtain ⟨path, hpath⟩ := h.groups g
    rw [performSpad_eq]
    simp only [Tab.get?_modify, hpath]
    split
    · exact ⟨_, by rw [Option.map_map]; rfl⟩
    · exact ⟨path, rfl⟩

theorem group (h : OwnStores u v) (gid : Nat) : { v.group gid with spadPath := (u.group gid).spadPath } = u.group gid := by
  obtain ⟨path, hpath⟩ := h.groups gid
  simp only [State.group, Tab.getD, hpath]
  cases u.groups.get? gid <;> rfl

theorem thread (h : OwnStores u v) (tid : Nat) : v.thread tid = u.thread tid := by
  have e : v.threads = u.threads := (congrArg State.threads h.rest :)
  rw [State.thread, State.thread, e]

end OwnStores

/-- The check of a scratchpad access looks at no scratchpad byte (R135). -/
theorem checkSpad_of_teams {u v : State} (hteams : ∀ k, { v.team k with spad := (u.team k).spad } = u.team k) (hlaunches : v.launches = u.launches)
    (gid : Nat) (sa : Word) (n size : Nat) (kind : Kind) : v.checkSpad gid sa n size kind = u.checkSpad gid sa n size kind := by
  have hgang (k : Nat) : (v.team k).gang = (u.team k).gang := (congrArg Team.gang (hteams k) :)
  have hplace (k : Nat) : (v.team k).place = (u.team k).place := (congrArg Team.place (hteams k) :)
  have hlaunch (k : Nat) : (v.team k).launch = (u.team k).launch := (congrArg Team.launch (hteams k) :)
  simp only [State.checkSpad, State.spadTeamNow, State.spadTeam, State.launch, hgang, hplace, hlaunch, hlaunches]
  rfl

theorem OwnStores.spadAt {u v : State} (h : OwnStores u v) (F : Fields) (kind : Kind) (tid : Nat) :
    Claims.spadAt v F kind tid = Claims.spadAt u F kind tid := by
  have hea : spadEa F (v.group (gidOf tid)) (u.thread tid) = spadEa F (u.group (gidOf tid)) (u.thread tid) := by
    rw [← h.group (gidOf tid)]
    rfl
  simp only [Claims.spadAt, h.thread, hea, checkSpad_of_teams h.teams (congrArg State.launches h.rest :)]

theorem ownStores_afterOwn (u : State) (F : Fields) (ts : List Nat) : OwnStores u (Claims.afterOwn u F ts) := by
  have step (ts : List Nat) (v : State) (hv : OwnStores u v) : OwnStores u (Claims.afterOwn v F ts) := by
    induction ts generalizing v with
    | nil => exact hv
    | cons tid ts ih =>
      rw [Claims.afterOwn, List.foldl_cons]
      refine ih _ ?_
      split
      · exact hv.performSpad _ _
      · exact hv
  exact step ts u (.refl u)

theorem afterOwn_append (u : State) (F : Fields) (ts : List Nat) {tid : Nat} {p : Nat × Nat} (hp : Claims.spadAt u F .read tid = some p) :
    Claims.afterOwn u F (ts ++ [tid]) =
      (Claims.afterOwn u F ts).performSpad (gidOf tid) (fun q => q.tid == tid && q.team == p.1) := by
  have hat := ((ownStores_afterOwn u F ts).spadAt F .read tid).trans hp
  unfold Claims.afterOwn at hat ⊢
  rw [List.foldl_append, List.foldl_cons, List.foldl_nil, hat]

/-- What a thread reads of a scratchpad depends on its group but for the scalars. -/
theorem spadByte_of_group {s v : State} {tid : Nat} (h : { s.group (gidOf tid) with sregs := (v.group (gidOf tid)).sregs } = v.group (gidOf tid))
    (hteams : s.teams = v.teams) (team o : Nat) : s.spadByte tid team o = v.spadByte tid team o := by
  unfold State.spadByte State.unmatched State.team
  rw [← h, hteams]

/-! The loads of a bundle, one after another. -/

/-- Is an entry read ahead for a load of thread `tid` at `p`? -/
def aheadFor (F : Fields) (tid : Nat) (p : Nat × Nat) (e : SpadRead) : Bool :=
  e.tid == tid && e.team == p.1 && e.off == p.2 && e.bytes.length == F.sizeBytes

/-- The bytes the load of `tid` returns, among the loads of `ts`. -/
def spadBytes (u : State) (F : Fields) (ts : List Nat) (tid : Nat) : List Byte :=
  let p := (Claims.spadAt u F .read tid).getD (0, 0)
  ((u.ahead.find? (aheadFor F tid p)).map (·.bytes)).getD
    ((List.range F.sizeBytes).map (fun k => (Claims.afterOwn u F (ts.takeWhile (· != tid) ++ [tid])).spadByte tid p.1 (p.2 + k)))

theorem spadBytes_length (u : State) (F : Fields) (ts : List Nat) (tid : Nat) : (spadBytes u F ts tid).length = F.sizeBytes := by
  unfold spadBytes
  cases h : u.ahead.find? (aheadFor F tid ((Claims.spadAt u F .read tid).getD (0, 0))) with
  | none => simp [h]
  | some e =>
    have := List.find?_some h
    simp only [aheadFor, Bool.and_eq_true, beq_iff_eq] at this
    simpa [h] using this.2

theorem spadBytes_getD (u : State) (F : Fields) (ts : List Nat) (tid : Nat) {k : Nat} (hk : k < F.sizeBytes) :
    (spadBytes u F ts tid).getD k 0 = Claims.spadLoaded u F ts tid k := by
  unfold spadBytes Claims.spadLoaded
  have same : u.ahead.find? (fun e => e.tid == tid && e.team == ((Claims.spadAt u F .read tid).getD (0, 0)).1 &&
      e.off == ((Claims.spadAt u F .read tid).getD (0, 0)).2 && e.bytes.length == F.sizeBytes) =
    u.ahead.find? (aheadFor F tid ((Claims.spadAt u F .read tid).getD (0, 0))) := rfl
  dsimp only
  rw [same]
  cases u.ahead.find? (aheadFor F tid ((Claims.spadAt u F .read tid).getD (0, 0))) with
  | none => simp [List.getD_eq_getElem?_getD, hk]
  | some e => rfl

/-- A group's registers and its scratchpad path change apart from each other. -/
theorem Group.setSregs_withSpadPath (g : Group) (l : List (Nat × Word)) (path : List SpadStore) :
    ({ g with spadPath := path } : Group).setSregs l = { g.setSregs l with spadPath := path } := by
  induction l generalizing g with
  | nil => rfl
  | cons e l ih =>
    have step : ({ g with spadPath := path } : Group).setSreg e.1 e.2 = { g.setSreg e.1 e.2 with spadPath := path } := by
      unfold Group.setSreg
      split <;> rfl
    rw [Group.setSregs, step, ih]
    rfl

theorem Group.landed_withSpadPath (F : Fields) (bytes : Nat → List Byte) (ts : List Nat) (gid : Nat) (g : Group) (path : List SpadStore) :
    ({ g with spadPath := path } : Group).landed F bytes ts gid = { g.landed F bytes ts gid with spadPath := path } := by
  unfold Group.landed
  induction ts generalizing g with
  | nil => rfl
  | cons tid ts ih =>
    have step : (if gidOf tid = gid then ({ g with spadPath := path } : Group).arrived F (bytes tid) else { g with spadPath := path }) =
        { (if gidOf tid = gid then g.arrived F (bytes tid) else g) with spadPath := path } := by
      split
      · unfold Group.arrived
        split
        · exact Group.setSregs_withSpadPath ..
        · rfl
      · rfl
    rw [List.foldl_cons, step, ih]
    rfl

theorem Landed.performSpad {F : Fields} {bytes : Nat → List Byte} {ts : List Nat} {v s : State} (h : Landed F bytes ts v s) (gid : Nat)
    (pick : SpadStore → Bool) : Landed F bytes ts (v.performSpad gid pick) (s.performSpad gid pick) := by
  have hpath : (s.group gid).spadPath = (v.group gid).spadPath := (congrArg Group.spadPath (h.group gid) :)
  rw [performSpad_eq, performSpad_eq, hpath]
  refine ⟨h.threads, fun g => ?_⟩
  simp only [Tab.get?_modify, h.groups g]
  split
  · simp only [Option.map_map]
    refine congrArg (fun m => (v.groups.get? g).map m) (funext fun x => ?_)
    exact (Group.landed_withSpadPath ..).symm
  · rfl

/-- The group of a thread whose load is still to come, where with a scalar D each group loads once. -/
theorem Landed.group_of_apart {F : Fields} {bytes : Nat → List Byte} {ts : List Nat} {v s : State} (h : Landed F bytes ts v s) {gid : Nat}
    (hapart : F.cd = true → gid ∉ ts.map gidOf) : s.group gid = v.group gid := by
  have same (g : Group) : g.landed F bytes ts gid = g := by
    cases hc : F.cd with
    | true => exact Group.landed_of_notMem (hapart hc) g
    | false => exact Group.landed_of_vector hc bytes ts gid g
  simp only [State.group, Tab.getD, h.groups gid]
  cases v.groups.get? gid with
  | none => rfl
  | some g => exact same g

/-- One scratchpad load. -/
theorem spadLoad_eq {s : State} {F : Fields} {tid : Nat} {p : Nat × Nat} (h : Claims.spadAt s F .read tid = some p) :
    spadLoad F tid s = ((s.performSpad (gidOf tid) (fun q => q.tid == tid && q.team == p.1)).passAhead tid p.1 p.2 F.sizeBytes).fill tid (loadDest F)
      ((s.performSpad (gidOf tid) (fun q => q.tid == tid && q.team == p.1)).spadRead tid p.1 p.2 F.sizeBytes) := by
  unfold Claims.spadAt at h
  rw [if_neg (by simp)] at h
  unfold spadLoad
  dsimp only at h ⊢
  split at h
  · next q hq =>
    obtain rfl := Option.some.inj h
    rw [hq]
  · cases h

/-- The state that the loads of `ts` have made of `u`. -/
structure SpadLoaded (u : State) (F : Fields) (bytes : Nat → List Byte) (ts : List Nat) (w : State) : Prop where
  rest : { w with threads := (Claims.afterOwn u F ts).threads, groups := (Claims.afterOwn u F ts).groups, ahead := (Claims.afterOwn u F ts).ahead } =
    Claims.afterOwn u F ts
  landed : Landed F bytes ts (Claims.afterOwn u F ts) w
  ahead : ∃ keep : SpadRead → Bool, w.ahead = u.ahead.filter keep ∧ ∀ e, e.tid ∉ ts → keep e = true

theorem spadLoaded_step {u w : State} {F : Fields} {all ts : List Nat} {tid : Nat} (h : SpadLoaded u F (spadBytes u F all) ts w)
    (hall : all.takeWhile (· != tid) = ts) (ht : tid ∉ ts) (hapart : F.cd = true → gidOf tid ∉ ts.map gidOf) {p : Nat × Nat}
    (hp : Claims.spadAt u F .read tid = some p) : SpadLoaded u F (spadBytes u F all) (ts ++ [tid]) (spadLoad F tid w) := by
  obtain ⟨hrest, hlanded, keep, hkeep, hfree⟩ := h
  have hown := ownStores_afterOwn u F ts
  have hteams : w.teams = (Claims.afterOwn u F ts).teams := (congrArg State.teams hrest :)
  have hat : Claims.spadAt w F .read tid = some p := by
    rw [← hp, ← hown.spadAt]
    simp only [Claims.spadAt, hlanded.group_of_apart hapart, hlanded.thread_of_notMem ht,
      checkSpad_of_teams (u := Claims.afterOwn u F ts) (v := w) (fun k => by rw [State.team, hteams]; rfl) (congrArg State.launches hrest :)]
  have hnext := afterOwn_append u F ts hp
  have hlands := hlanded.performSpad (gidOf tid) (fun q => q.tid == tid && q.team == p.1)
  rw [← hnext] at hlands
  have hteams' : (w.performSpad (gidOf tid) (fun q => q.tid == tid && q.team == p.1)).teams = (Claims.afterOwn u F (ts ++ [tid])).teams := by
    have hpath : (w.group (gidOf tid)).spadPath = ((Claims.afterOwn u F ts).group (gidOf tid)).spadPath := (congrArg Group.spadPath (hlanded.group _) :)
    rw [hnext, performSpad_eq, performSpad_eq, hpath, hteams]
  have hahead : (w.performSpad (gidOf tid) (fun q => q.tid == tid && q.team == p.1)).ahead = w.ahead := by rw [performSpad_eq]
  have hread : (w.performSpad (gidOf tid) (fun q => q.tid == tid && q.team == p.1)).spadRead tid p.1 p.2 F.sizeBytes = spadBytes u F all tid := by
    have hfind : w.ahead.find? (aheadFor F tid p) = u.ahead.find? (aheadFor F tid p) := by
      rw [hkeep, List.find?_filter]
      refine congrArg (fun q => u.ahead.find? q) (funext fun e => ?_)
      by_cases he : e.tid = tid
      · simp [hfree e (he ▸ ht)]
      · simp [aheadFor, he]
    have hbyte (o : Nat) : (w.performSpad (gidOf tid) (fun q => q.tid == tid && q.team == p.1)).spadByte tid p.1 o =
        (Claims.afterOwn u F (ts ++ [tid])).spadByte tid p.1 o := spadByte_of_group (hlands.group (gidOf tid)) hteams' p.1 o
    have hfind' : w.ahead.find? (fun e => e.tid == tid && e.team == p.1 && e.off == p.2 && e.bytes.length == F.sizeBytes) = u.ahead.find? (aheadFor F tid p) :=
      hfind
    unfold State.spadRead spadBytes
    rw [hp, hall, hahead, hfind']
    cases hfound : u.ahead.find? (aheadFor F tid p) with
    | none => simp only [hbyte, Option.getD_some, hfound]; rfl
    | some e => simp only [Option.getD_some, hfound]; rfl
  rw [spadLoad_eq hat, hread]
  have hlands' : Landed F (spadBytes u F all) ts (Claims.afterOwn u F (ts ++ [tid]))
      ((w.performSpad (gidOf tid) (fun q => q.tid == tid && q.team == p.1)).passAhead tid p.1 p.2 F.sizeBytes) := ⟨hlands.threads, hlands.groups⟩
  refine ⟨?_, hlands'.fill ht, fun e => keep e && !(e.tid == tid && e.team == p.1 && overlap e.off e.bytes.length p.2 F.sizeBytes), ?_, fun e he => ?_⟩
  · rw [State.fill_loadDest, performSpad_eq, hnext, performSpad_eq]
    have hpath : (w.group (gidOf tid)).spadPath = ((Claims.afterOwn u F ts).group (gidOf tid)).spadPath := (congrArg Group.spadPath (hlanded.group _) :)
    have e := congrArg (fun v : State => { v with
      teams := spadWrites (splitBefore SpadStore.before (fun q => q.tid == tid && q.team == p.1) ((Claims.afterOwn u F ts).group (gidOf tid)).spadPath).1
        (Claims.afterOwn u F ts).teams
      groups := (Claims.afterOwn u F ts).groups.modify (gidOf tid) (fun g => { g with spadPath :=
        (splitBefore SpadStore.before (fun q => q.tid == tid && q.team == p.1) ((Claims.afterOwn u F ts).group (gidOf tid)).spadPath).2 }) }) hrest
    rw [hpath, hteams]
    exact e
  · rw [State.fill_loadDest]
    change (State.performSpad w _ _).ahead.filter _ = _
    rw [hahead, hkeep, List.filter_filter]
    refine List.filter_congr fun e _ => ?_
    rw [Bool.and_comm]
  · have hne : e.tid ≠ tid := fun h => he (h ▸ by simp)
    simp [hfree e (fun h => he (List.mem_append_left _ h)), hne]

theorem spadLoaded_foldl {u : State} {F : Fields} {all : List Nat} (hnd : all.Nodup) (hgids : F.cd = true → (all.map gidOf).Nodup)
    (hat : ∀ tid ∈ all, (Claims.spadAt u F .read tid).isSome) (rest ts : List Nat) (hall : all = ts ++ rest) {w : State}
    (h : SpadLoaded u F (spadBytes u F all) ts w) :
    SpadLoaded u F (spadBytes u F all) all (rest.foldl (fun w tid => spadLoad F tid w) w) := by
  induction rest generalizing ts w with
  | nil =>
    rw [List.append_nil] at hall
    rwa [← hall] at h
  | cons tid rest ih =>
    have hnot : tid ∉ ts := fun hm => List.disjoint_of_nodup_append (hall ▸ hnd) hm List.mem_cons_self
    have hwhile : all.takeWhile (· != tid) = ts := by
      rw [hall, List.takeWhile_append_of_pos fun v hv => by simpa using fun e : v = tid => hnot (e ▸ hv), List.takeWhile_cons]
      simp
    have hapart (hc : F.cd = true) : gidOf tid ∉ ts.map gidOf := fun hm => by
      have := hgids hc
      rw [hall, List.map_append] at this
      exact List.disjoint_of_nodup_append this hm List.mem_cons_self
    obtain ⟨p, hp⟩ := Option.isSome_iff_exists.1 (hat tid (by rw [hall]; simp))
    exact ih (ts ++ [tid]) (by rw [hall, List.append_assoc]; rfl) (spadLoaded_step h hwhile hnot hapart hp)

theorem spadLoaded_nil (u : State) (F : Fields) (bytes : Nat → List Byte) : SpadLoaded u F bytes [] u where
  rest := rfl
  landed := .nil F bytes u
  ahead := ⟨fun _ => true, by simp, fun _ _ => rfl⟩

/-- LDS as the statement says it. -/
theorem loads_spad {i : Instr} {F : Fields} {s : State} (hwf : i.wf = true) (hF : i.fields? = some F) (hmaj : F.maj = 0x0F) (hmn : F.mn = 2)
    (hcalm : Calm s F State.noFault) (hnd : s.issue.threads.Nodup) (hts : ∀ tid ∈ s.guarded F, (Claims.spadAt s F .read tid).isSome) :
    let gids := State.groupsIn (s.guarded F)
    let u := if F.acquires then s.acquireAll gids F.scope else s
    let by_ := accessors s F (s.guarded F)
    let v := Claims.afterOwn u F by_
    ∃ t, exec i s = .next t ∧ { t with threads := v.threads, groups := v.groups, ahead := v.ahead } = v ∧
      (∀ gid, { t.group gid with sregs := (s.group gid).sregs } = v.group gid) ∧ (∀ e ∈ t.ahead, e ∈ s.ahead) ∧
      (∀ e ∈ s.ahead, e.tid ∉ by_ → e ∈ t.ahead) ∧ Claims.Loaded s t F (Claims.spadLoaded u F by_) := by
  intro gids u by_ v
  have hu : { u with domains := s.domains, pkrCopies := s.pkrCopies } = s := by
    unfold u
    split
    · exact acquireAll_rest _ _ s
    · rfl
  have hthreads : u.threads = s.threads := (congrArg State.threads hu :)
  have hgroups : u.groups = s.groups := (congrArg State.groups hu :)
  have hahead : u.ahead = s.ahead := (congrArg State.ahead hu :)
  have hteams : u.teams = s.teams := (congrArg State.teams hu :)
  have hgroup (gid : Nat) : u.group gid = s.group gid := by rw [State.group, State.group, hgroups]
  have hat (tid : Nat) : Claims.spadAt u F .read tid = Claims.spadAt s F .read tid := by
    have hthread : u.thread tid = s.thread tid := by rw [State.thread, State.thread, hthreads]
    simp only [Claims.spadAt, hgroup, hthread, checkSpad_of_teams (u := s) (v := u) (fun k => by rw [State.team, hteams]; rfl) (congrArg State.launches hu :)]
  have calm : Calm s F (fun tid => spadFault F s tid false .read) := fun tid ht => by
    refine ⟨(hcalm tid ht).1, ?_⟩
    obtain ⟨p, hp⟩ := Option.isSome_iff_exists.1 (hts tid ht)
    unfold Claims.spadAt at hp
    rw [if_neg (by simp)] at hp
    unfold spadFault
    dsimp only at hp ⊢
    split at hp
    · next q hq =>
      rw [if_neg (by decide), if_neg (by decide), hq]
    · cases hp
  have loaded := spadLoaded_foldl (u := u) (all := by_) (accessors_nodup (guarded_nodup hnd F))
    (fun hc => by rw [accessors_gids hc]; exact nodup_groupsIn _) (fun tid ht => by rw [hat]; exact hts tid (accessors_subset ht)) by_ [] rfl
    (spadLoaded_nil u F _)
  have run : exec i s = .next ((by_.foldl (fun w tid => spadLoad F tid w) u).advanceAll (s.unguarded F ++ s.guarded F)) := by
    rw [exec_eq_meaning s hF hwf, show meaning F s = xLds F s by simp [meaning, hmaj, hmn], xLds, State.runState_calm calm]
    split
    · next hg => simp only [u, by_, gids, hg, accessors, State.groupsIn, List.map_nil, List.eraseDups_nil, State.acquireAll, List.foldl_nil, ite_self]
    · rfl
  generalize by_.foldl (fun w tid => spadLoad F tid w) u = w at loaded run
  obtain ⟨hrest, hland, keep, hkeep, hfree⟩ := loaded
  have hown := ownStores_afterOwn u F by_
  have hsregs (gid : Nat) : (v.groups.get? gid).map Group.sregs = (s.groups.get? gid).map Group.sregs := by
    obtain ⟨path, hpath⟩ := hown.groups gid
    rw [show v.groups.get? gid = _ from hpath, hgroups, Option.map_map]
    rfl
  refine ⟨_, run, hrest, fun gid => ?_, fun e he => ?_, fun e he hne => ?_, ?_⟩
  · have e : (v.group gid).sregs = (s.group gid).sregs := (congrArg Group.sregs (hown.group gid) :).trans (by rw [hgroup])
    have h := hland.group gid
    rwa [show (Claims.afterOwn u F by_).group gid = v.group gid from rfl, e] at h
  · have he : e ∈ w.ahead := he
    rw [hkeep] at he
    exact hahead ▸ (List.mem_filter.1 he).1
  · show e ∈ w.ahead
    rw [hkeep, hahead]
    exact List.mem_filter.2 ⟨he, hfree e hne⟩
  · have hissue : w.issue = s.issue := ((congrArg State.issue hrest :).trans (congrArg State.issue hown.rest :)).trans (congrArg State.issue hu :)
    have hvthreads : v.threads = s.threads := (congrArg State.threads hown.rest :).trans hthreads
    exact loaded_of_landed hland hissue hvthreads hsregs
      (fun tid ht => by
        obtain ⟨hsize, hscal⟩ := load_fields (fieldsOk_of_decodeFault (hcalm tid ht).1) hmaj
        exact ⟨hsize, hscal (.inr hmn)⟩)
      (fun tid _ => spadBytes_length u F by_ tid) fun tid _ k hk => spadBytes_getD u F by_ tid hk

/-- Settles O30: each load of a bundle leaves what every thread sees as it was, so each thread loads what it saw after the acquire; of the
scratchpad each load finds its thread's own stores performed and what was read ahead for it untouched. -/
theorem loadsReadMemory : Obligations.LoadsReadMemory := by
  unfold Obligations.LoadsReadMemory
  exact ⟨fun _ _ _ hwf hF hmaj hmn hcalm hnd hts => loads_home hwf hF hmaj hmn hcalm hnd hts,
    fun _ _ _ hwf hF hmaj hmn hcalm hnd hts => loads_spad hwf hF hmaj hmn hcalm hnd hts⟩

end Machine
end Sys2Proof
end

section
/-! PROOFS. The stores of one issue (06 R130 to R133): their bytes, their order, and what of them clashes. -/

namespace Sys2Proof
namespace Machine

open Sys2Proof.Safety

/-! The newest byte of a list of stores. -/

/-- The newest byte of one store's bytes at an address, where `r` is what older ones hold. -/
def newestOver (a : Nat) (r : Option Byte) (cells : List Host.Cell) : Option Byte := cells.foldl (fun r c => if c.1 = a then some c.2 else r) r

theorem newestOver_eq (a : Nat) (r : Option Byte) (cells : List Host.Cell) : newestOver a r cells = (newestOver a none cells).or r := by
  unfold newestOver
  induction cells generalizing r with
  | nil => rfl
  | cons c cells ih =>
    rw [List.foldl_cons, List.foldl_cons, ih, ih (if c.1 = a then some c.2 else none), Option.or_assoc]
    split <;> rfl

theorem newest_append (l m : List (List Host.Cell)) (a : Nat) : State.newest (l ++ m) a = (State.newest m a).or (State.newest l a) := by
  have older (r : Option Byte) : m.foldl (newestOver a) r = (m.foldl (newestOver a) none).or r := by
    induction m generalizing r with
    | nil => rfl
    | cons cells m ih => rw [List.foldl_cons, List.foldl_cons, ih, ih (newestOver a none cells), newestOver_eq, Option.or_assoc]
  exact (List.foldl_append (f := newestOver a)).trans (older _)

theorem newest_cons (cells : List Host.Cell) (l : List (List Host.Cell)) (a : Nat) :
    State.newest (cells :: l) a = (State.newest l a).or (State.newest [cells] a) := newest_append [cells] l a

@[simp] theorem newest_nil (a : Nat) : State.newest [] a = none := rfl

theorem mem_of_newestOver {a : Nat} {b : Byte} {cells : List Host.Cell} (h : newestOver a none cells = some b) : (a, b) ∈ cells := by
  induction cells with
  | nil => cases h
  | cons c cells ih =>
    have h : newestOver a (if c.1 = a then some c.2 else none) cells = some b := h
    rw [newestOver_eq] at h
    rcases Option.or_eq_some_iff.1 h with h | ⟨-, h⟩
    · exact List.mem_cons_of_mem _ (ih h)
    · split at h
      · next ha =>
        obtain rfl := Option.some.inj h
        exact ha ▸ List.mem_cons_self
      · cases h

theorem newestOver_ne_none {a : Nat} {b : Byte} {cells : List Host.Cell} (h : (a, b) ∈ cells) : newestOver a none cells ≠ none := by
  induction cells with
  | nil => cases h
  | cons c cells ih =>
    show newestOver a (if c.1 = a then some c.2 else none) cells ≠ none
    rw [newestOver_eq, ne_eq, Option.or_eq_none_iff, not_and_or]
    rcases List.mem_cons.1 h with rfl | h
    · exact .inr (by simp)
    · exact .inl (ih h)

theorem mem_of_newest {l : List (List Host.Cell)} {a : Nat} {b : Byte} (h : State.newest l a = some b) : ∃ cells ∈ l, (a, b) ∈ cells := by
  induction l with
  | nil => cases h
  | cons cells l ih =>
    rw [newest_cons] at h
    rcases Option.or_eq_some_iff.1 h with h | ⟨-, h⟩
    · obtain ⟨c, hc, hm⟩ := ih h
      exact ⟨c, List.mem_cons_of_mem _ hc, hm⟩
    · exact ⟨cells, List.mem_cons_self, mem_of_newestOver h⟩

theorem newest_ne_none {l : List (List Host.Cell)} {a : Nat} {b : Byte} {cells : List Host.Cell} (hc : cells ∈ l) (h : (a, b) ∈ cells) :
    State.newest l a ≠ none := by
  induction l with
  | nil => cases hc
  | cons c l ih =>
    rw [newest_cons, ne_eq, Option.or_eq_none_iff, not_and_or]
    rcases List.mem_cons.1 hc with rfl | hc
    · exact .inr (newestOver_ne_none h)
    · exact .inl (ih hc)

/-- Where no store of a list holds the address, it has no newest byte. -/
theorem newest_eq_none {l : List (List Host.Cell)} {a : Nat} (h : ∀ cells ∈ l, ∀ b, (a, b) ∉ cells) : State.newest l a = none := by
  cases hn : State.newest l a with
  | none => rfl
  | some b =>
    obtain ⟨cells, hc, hm⟩ := mem_of_newest hn
    exact absurd hm (h cells hc b)

/-- Where the stores that hold the address agree on its byte, it is the newest. -/
theorem newest_of_agree {l : List (List Host.Cell)} {a : Nat} {b : Byte} {cells : List Host.Cell} (hc : cells ∈ l) (hm : (a, b) ∈ cells)
    (h : ∀ cells ∈ l, ∀ c, (a, c) ∈ cells → c = b) : State.newest l a = some b := by
  cases hn : State.newest l a with
  | none => exact absurd hn (newest_ne_none hc hm)
  | some c =>
    obtain ⟨d, hd, hmd⟩ := mem_of_newest hn
    rw [h d hd c hmd]

/-! The bytes of a store (R131, R132). -/

theorem leBytes_getD {n x j : Nat} (h : j < n) : (leBytes n x).getD j 0 = BitVec.ofNat 8 (x / 2 ^ (8 * j)) := by
  induction n generalizing x j with
  | zero => omega
  | succ n ih =>
    cases j with
    | zero => simp [leBytes]
    | succ j =>
      rw [leBytes, List.getD_cons_succ, ih (by omega), Nat.div_div_eq_div_mul, Nat.mul_succ, Nat.pow_add, Nat.mul_comm]

/-- Byte `j` of a word. -/
theorem leBytes_word {n j : Nat} (w : Word) (h : j < n) : (leBytes n w.toNat).getD j 0 = w.extractLsb' (8 * j) 8 := by
  rw [leBytes_getD h, ← Nat.shiftRight_eq_div_pow]
  rfl

theorem storeData_length {F : Fields} (hsize : F.size ≤ 4) (g : Group) (x : Thread) : (storeData F g x).length = F.sizeBytes := by
  unfold storeData storeBytes Fields.sizeBytes
  match F.size, hsize with
  | 0, _ | 1, _ | 2, _ | 3, _ | 4, _ => simp

/-- The bytes of two lists, one after the other. -/
theorem getD_append_eq (l m : List Byte) (k : Nat) : (l ++ m).getD k 0 = if k < l.length then l.getD k 0 else m.getD (k - l.length) 0 := by
  split
  · next h => exact List.getD_append _ _ _ _ h
  · next h => exact List.getD_append_right _ _ _ _ (by omega)

/-- Byte `k` of registers stored from `r` on (R131). -/
theorem storeBytes_getD {size : Nat} (hsize : size ≤ 4) (rd : Nat → Word) (r : Nat) {k : Nat} (hk : k < 2 ^ size) :
    (storeBytes size rd r).getD k 0 = (rd (r + if size < 3 then 0 else [1, 0, 3, 2].getD (k / 4) 0)).extractLsb' (8 * (k % 4)) 8 := by
  have word (q n : Nat) (hq : k / 4 = q) : (leBytes 4 (rd n).toNat).getD (k - 4 * q) 0 = (rd n).extractLsb' (8 * (k % 4)) 8 := by
    rw [leBytes_word _ (by omega), show k - 4 * q = k % 4 by omega]
  match size, hsize with
  | 0, _ | 1, _ | 2, _ => exact (leBytes_word _ hk).trans (by rw [Nat.mod_eq_of_lt (show k < 4 by omega)]; rfl)
  | 3, _ =>
    have h : k / 4 = 0 ∨ k / 4 = 1 := by omega
    simp only [storeBytes, getD_append_eq, leBytes_length]
    rcases h with h | h
    · rw [if_pos (by omega), h]
      exact word 0 (r + 1) h
    · rw [if_neg (by omega), h]
      exact word 1 r h
  | 4, _ =>
    have h : k / 4 = 0 ∨ k / 4 = 1 ∨ k / 4 = 2 ∨ k / 4 = 3 := by omega
    simp only [storeBytes, getD_append_eq, leBytes_length, List.length_append]
    rcases h with h | h | h | h
    · rw [if_pos (by omega), if_pos (by omega), if_pos (by omega), h]
      exact word 0 (r + 1) h
    · rw [if_pos (by omega), if_pos (by omega), if_neg (by omega), h]
      exact word 1 r h
    · rw [if_pos (by omega), if_neg (by omega), h]
      exact word 2 (r + 3) h
    · rw [if_neg (by omega), h]
      exact word 3 (r + 2) h

/-- Byte `k` of the data of a store (R131). -/
theorem storeData_getD {F : Fields} (hsize : F.size ≤ 4) (g : Group) (x : Thread) {k : Nat} (hk : k < F.sizeBytes) :
    (storeData F g x).getD k 0 = Claims.storedByte F g x k := by
  unfold storeData Claims.storedByte
  dsimp only
  rw [storeBytes_getD hsize _ _ hk]
  cases F.cd <;> simp

/-- Bit `k` of the mask of a store says whether its byte is enabled (R132). -/
theorem maskBit_storeMask (F : Fields) (x : Thread) (k : Nat) : (decide (k < F.sizeBytes) && maskBit (storeMask F x) k) = Claims.enabled F x k := by
  have bit (m : Nat) : maskBit m k = m.testBit k := by
    rw [maskBit, Nat.testBit_eq_decide_div_mod_eq]
    by_cases h : m / 2 ^ k % 2 = 1 <;> simp [h]
  unfold Claims.enabled
  by_cases hk : k < F.sizeBytes
  · rw [bit]
    unfold storeMask
    split
    · next hb => simp [hk, hb, Nat.testBit_mod_two_pow, BitVec.getLsbD]
    · next hb => simp [hk, hb, Nat.testBit_two_pow_sub_one]
  · simp [hk]

theorem mem_maskedCells {a m : Nat} {bs : List Byte} {x : Nat} {b : Byte} :
    (x, b) ∈ maskedCells a m bs ↔ ∃ k, k < bs.length ∧ maskBit m k = true ∧ x = a + k ∧ b = bs.getD k 0 := by
  simp only [maskedCells, List.mem_filterMap, List.mem_range]
  constructor
  · rintro ⟨k, hk, h⟩
    split at h
    · next hm =>
      obtain ⟨rfl, rfl⟩ := Prod.mk.inj (Option.some.inj h)
      exact ⟨k, hk, hm, rfl, rfl⟩
    · cases h
  · rintro ⟨k, hk, hm, rfl, rfl⟩
    exact ⟨k, hk, by rw [if_pos hm]⟩

/-- What thread `x` of group `g` stores from address `a` on: its enabled bytes (R131, R132). -/
def storedCells (F : Fields) (g : Group) (x : Thread) (a : Nat) : List Host.Cell := maskedCells a (storeMask F x) (storeData F g x)

theorem mem_storedCells {F : Fields} (hsize : F.size ≤ 4) {g : Group} {x : Thread} {a c : Nat} {b : Byte} :
    (c, b) ∈ storedCells F g x a ↔ ∃ k, c = a + k ∧ Claims.enabled F x k = true ∧ b = Claims.storedByte F g x k := by
  rw [storedCells, mem_maskedCells, storeData_length hsize]
  refine exists_congr fun k => ?_
  have mask := maskBit_storeMask F x k
  constructor
  · rintro ⟨hk, hm, rfl, rfl⟩
    exact ⟨rfl, by rw [← mask, hm]; simpa using hk, storeData_getD hsize g x hk⟩
  · rintro ⟨rfl, he, rfl⟩
    rw [← mask, Bool.and_eq_true, decide_eq_true_eq] at he
    obtain ⟨hk, hm⟩ := he
    exact ⟨hk, hm, rfl, (storeData_getD hsize g x hk).symm⟩

/-- A store writes one byte at an address. -/
theorem storedCells_unique {F : Fields} (hsize : F.size ≤ 4) {g : Group} {x : Thread} {a c : Nat} {b b' : Byte} (h : (c, b) ∈ storedCells F g x a)
    (h' : (c, b') ∈ storedCells F g x a) : b = b' := by
  obtain ⟨k, rfl, -, rfl⟩ := (mem_storedCells hsize).1 h
  obtain ⟨j, hj, -, rfl⟩ := (mem_storedCells hsize).1 h'
  rw [Nat.add_left_cancel hj]

/-! Home lane order (R133). -/

theorem insertLane_perm (tid : Nat) (l : List Nat) : (insertLane tid l).Perm (tid :: l) := by
  induction l with
  | nil => exact .refl _
  | cons t r ih =>
    unfold insertLane
    split
    · exact .refl _
    · exact (ih.cons t).trans (.swap tid t r)

theorem byLane_perm (tids : List Nat) : (byLane tids).Perm tids := by
  have step (tids l : List Nat) : (tids.foldl (fun l t => insertLane t l) l).Perm (l ++ tids) := by
    induction tids generalizing l with
    | nil => rw [List.append_nil]; exact .refl _
    | cons t tids ih =>
      have moved : (t :: l ++ tids).Perm (l ++ t :: tids) := List.perm_middle.symm
      exact (ih (insertLane t l)).trans (((insertLane_perm t l).append_right tids).trans moved)
  exact step tids []

theorem insertLane_sorted {tid : Nat} {l : List Nat} (h : l.Pairwise (fun x y => laneOf x ≤ laneOf y)) :
    (insertLane tid l).Pairwise (fun x y => laneOf x ≤ laneOf y) := by
  induction l with
  | nil => exact List.pairwise_singleton _ _
  | cons t r ih =>
    obtain ⟨ht, hr⟩ := List.pairwise_cons.1 h
    unfold insertLane
    split
    · next hlt =>
      refine List.pairwise_cons.2 ⟨fun y hy => ?_, h⟩
      rcases List.mem_cons.1 hy with rfl | hy
      · omega
      · have := ht y hy
        omega
    · next hle =>
      refine List.pairwise_cons.2 ⟨fun y hy => ?_, ih hr⟩
      rcases List.mem_cons.1 ((insertLane_perm tid r).mem_iff.1 hy) with rfl | hy
      · omega
      · exact ht y hy

theorem byLane_sorted (tids : List Nat) : (byLane tids).Pairwise (fun x y => laneOf x ≤ laneOf y) := by
  have step (tids l : List Nat) (h : l.Pairwise (fun x y => laneOf x ≤ laneOf y)) :
      (tids.foldl (fun l t => insertLane t l) l).Pairwise (fun x y => laneOf x ≤ laneOf y) := by
    induction tids generalizing l with
    | nil => exact h
    | cons t tids ih => exact ih _ (insertLane_sorted h)
  exact step tids [] .nil

theorem mem_byLane {tids : List Nat} {tid : Nat} : tid ∈ byLane tids ↔ tid ∈ tids := (byLane_perm tids).mem_iff

theorem byLane_nodup {tids : List Nat} (h : tids.Nodup) : (byLane tids).Nodup := (byLane_perm tids).nodup_iff.2 h

end Machine
end Sys2Proof
end

section
/-! PROOFS. The stores of one issue as they take effect (06 R133, 15 R259, R268, R269, 10 R178, 21 R385). -/

namespace Sys2Proof
namespace Machine

open Sys2Proof.Safety

/-! Bytes written, by the newest one at an address. -/

theorem get?_foldl_put_cells (cells : List Host.Cell) (t : Tab Byte) (a : Nat) :
    (cells.foldl (fun o c => o.put c.1 c.2) t).get? a = (newestOver a none cells).or (t.get? a) := by
  induction cells generalizing t with
  | nil => rfl
  | cons c cells ih =>
    have h : newestOver a none (c :: cells) = newestOver a (if c.1 = a then some c.2 else none) cells := rfl
    rw [List.foldl_cons, ih, h, newestOver_eq a (if c.1 = a then some c.2 else none), Option.or_assoc, Tab.get?_put]
    by_cases hc : c.1 = a
    · simp [hc]
    · simp [hc, Ne.symm hc]

theorem getD_foldl_putD_cells (cells : List Host.Cell) (t : Tab Byte) (a : Nat) :
    (cells.foldl (fun m c => m.putD c.1 c.2 0) t).getD a 0 = (newestOver a none cells).getD (t.getD a 0) := by
  induction cells generalizing t with
  | nil => rfl
  | cons c cells ih =>
    have h : newestOver a none (c :: cells) = newestOver a (if c.1 = a then some c.2 else none) cells := rfl
    rw [List.foldl_cons, ih, h, newestOver_eq a (if c.1 = a then some c.2 else none), Option.getD_or, Tab.getD_putD]
    by_cases hc : c.1 = a
    · simp [hc]
    · simp [hc, Ne.symm hc]

theorem homeByte_putCells (s : State) (cells : List Host.Cell) (a : Nat) :
    (s.putCells cells).homeByte a = (newestOver a none cells).getD (s.homeByte a) := by
  have hbm (s : State) : (cells.foldl (fun s c => s.putHome c.1 c.2) s).hbm = cells.foldl (fun m c => m.putD c.1 c.2 0) s.hbm := by
    induction cells generalizing s with
    | nil => rfl
    | cons c cells ih => exact ih (s.putHome c.1 c.2)
  exact (congrArg (fun m => Tab.getD m a 0) (hbm s)).trans (getD_foldl_putD_cells cells s.hbm a)

theorem overlay_overlayCells (s : State) (dom : Nat) (cells : List Host.Cell) (d a : Nat) :
    ((s.overlayCells dom cells).domain d).overlay.get? a =
      if d = dom then (newestOver a none cells).or ((s.domain d).overlay.get? a) else (s.domain d).overlay.get? a := by
  have h : (s.overlayCells dom cells).domain d = if d = dom then { s.domain dom with
    overlay := cells.foldl (fun o c => o.put c.1 c.2) (s.domain dom).overlay } else s.domain d := Tab.getD_putD ..
  rw [h]
  split
  · next hd => rw [hd]; exact get?_foldl_put_cells ..
  · rfl

/-! The stores of a bundle (R130, R133). -/

/-- The store of thread `tid` to home, and to a scratchpad; `now`: compared as it issues (R385). -/
def homeStore (s : State) (F : Fields) (now : Bool) (tid : Nat) : HeldStore where
  tid := tid
  spad := none
  bytes := storedCells F (s.group (gidOf tid)) (s.thread tid) ((Claims.homeAt s F .write tid).getD 0)
  rel := relScope F
  tag := s.turn
  addr := globalEa F (s.group (gidOf tid)) (s.thread tid)
  pc := s.issue.pc
  data := storeData F (s.group (gidOf tid)) (s.thread tid)
  mask := storeMask F (s.thread tid)
  matched := now || (s.group (gidOf tid)).shadow.isNone
  shared := false
def padStore (s : State) (F : Fields) (now : Bool) (tid : Nat) : HeldStore where
  tid := tid
  spad := some ((Claims.spadAt s F .write tid).getD (0, 0)).1
  bytes := storedCells F (s.group (gidOf tid)) (s.thread tid) ((Claims.spadAt s F .write tid).getD (0, 0)).2
  rel := relScope F
  tag := s.turn
  addr := (spadEa F (s.group (gidOf tid)) (s.thread tid)).setWidth 64
  pc := s.issue.pc
  data := storeData F (s.group (gidOf tid)) (s.thread tid)
  mask := storeMask F (s.thread tid)
  matched := now || (s.group (gidOf tid)).shadow.isNone
  shared := false

theorem storeOf_home {s : State} {F : Fields} {tid a : Nat} (h : Claims.homeAt s F .write tid = some a) :
    s.storeOf F tid = .here (storedCells F (s.group (gidOf tid)) (s.thread tid) a) := by
  obtain ⟨d, hcheck⟩ := check_of_homeAt h
  simp only [true_and] at hcheck
  unfold State.storeOf
  dsimp only
  rw [hcheck]
  rfl

theorem spadStoreOf_pad {s : State} {F : Fields} {tid : Nat} {p : Nat × Nat} (h : Claims.spadAt s F .write tid = some p) :
    s.spadStoreOf F tid = some (padStore s F false tid) := by
  unfold padStore
  rw [h]
  unfold Claims.spadAt at h
  simp only [true_and] at h
  unfold State.spadStoreOf
  dsimp only
  split at h
  · next q hq =>
    obtain rfl := Option.some.inj h
    rw [hq]
    rfl
  · cases h

theorem map_of_filterMap {f : Nat → Option HeldStore} {g : Nat → HeldStore} {l : List Nat} (h : ∀ t ∈ l, f t = some (g t)) :
    l.filterMap f = l.map g := by
  rw [List.filterMap_congr h, List.filterMap_eq_map']

theorem storesOf_home {s : State} {F : Fields} (hmn : F.mn = 1) {ts : List Nat} (h : ∀ tid ∈ ts, (Claims.homeAt s F .write tid).isSome) :
    s.storesOf F ts = (byLane ts).map (homeStore s F false) := by
  refine map_of_filterMap fun tid ht => ?_
  obtain ⟨a, ha⟩ := Option.isSome_iff_exists.1 (h tid (mem_byLane.1 ht))
  rw [if_neg (by omega), storeOf_home ha]
  unfold homeStore
  rw [ha]
  rfl

theorem storesOf_pad {s : State} {F : Fields} (hmn : F.mn = 3) {ts : List Nat} (h : ∀ tid ∈ ts, (Claims.spadAt s F .write tid).isSome) :
    s.storesOf F ts = (byLane ts).map (padStore s F false) := by
  refine map_of_filterMap fun tid ht => ?_
  obtain ⟨p, hp⟩ := Option.isSome_iff_exists.1 (h tid (mem_byLane.1 ht))
  rw [if_pos hmn, spadStoreOf_pad hp]

theorem matchedStores_home {s : State} {F : Fields} (hmn : F.mn = 1) {ts : List Nat} (h : ∀ tid ∈ ts, (Claims.homeAt s F .write tid).isSome) :
    s.matchedStores F ts = (byLane ts).map (homeStore s F (s.matchesNow F ts)) := by
  unfold State.matchedStores
  rw [storesOf_home hmn h]
  cases s.matchesNow F ts with
  | true => rw [if_pos rfl, List.map_map]; rfl
  | false => rfl

theorem matchedStores_pad {s : State} {F : Fields} (hmn : F.mn = 3) {ts : List Nat} (h : ∀ tid ∈ ts, (Claims.spadAt s F .write tid).isSome) :
    s.matchedStores F ts = (byLane ts).map (padStore s F (s.matchesNow F ts)) := by
  unfold State.matchedStores
  rw [storesOf_pad hmn h]
  cases s.matchesNow F ts with
  | true => rw [if_pos rfl, List.map_map]; rfl
  | false => rfl

/-- Two stores clash where they go to one memory, are of two groups of one issue, and share a byte (R133). -/
theorem clashes_iff {x y : HeldStore} (htag : x.tag = y.tag) :
    x.clashes y = true ↔ x.spad = y.spad ∧ gidOf x.tid ≠ gidOf y.tid ∧ ∃ a b c, (a, b) ∈ x.bytes ∧ (a, c) ∈ y.bytes := by
  have share : shareByte x.bytes y.bytes = true ↔ ∃ a b c, (a, b) ∈ x.bytes ∧ (a, c) ∈ y.bytes := by
    simp only [shareByte, List.any_eq_true, beq_iff_eq]
    constructor
    · rintro ⟨⟨a, b⟩, hx, ⟨a', c⟩, hy, rfl⟩
      exact ⟨_, b, c, hx, hy⟩
    · rintro ⟨a, b, c, hx, hy⟩
      exact ⟨_, hx, _, hy, rfl⟩
  simp only [HeldStore.clashes, Bool.and_eq_true, beq_iff_eq, bne_iff_ne, htag, share, true_and, and_assoc]

/-! What the stores of an issue do, one after another. -/

theorem storeAll_of_plain {s : State} {all : List HeldStore} (h : ∀ x ∈ all, s.specs x.tid = false) :
    s.storeAll all = all.foldl (fun s x => s.performStore x (all.any x.clashes)) s := by
  have held : all.filter (fun x => s.specs x.tid) = [] := List.filter_eq_nil_iff.2 fun x hx => by simp [h x hx]
  have free : all.filter (fun x => !s.specs x.tid) = all := List.filter_eq_self.2 fun x hx => by simp [h x hx]
  unfold State.storeAll
  dsimp only
  rw [held, free]
  rfl

theorem storeAll_of_specs {s : State} {all : List HeldStore} (h : ∀ x ∈ all, s.specs x.tid = true) : s.storeAll all = all.foldl State.holdStore s := by
  have held : all.filter (fun x => s.specs x.tid) = all := List.filter_eq_self.2 h
  have free : all.filter (fun x => !s.specs x.tid) = [] := List.filter_eq_nil_iff.2 fun x hx => by simp [h x hx]
  unfold State.storeAll
  dsimp only
  rw [held, free]
  rfl

/-- ST of a bundle that meets no fault, all of it to home. -/
theorem exec_store {i : Instr} {F : Fields} {s : State} (hwf : i.wf = true) (hF : i.fields? = some F) (hmaj : F.maj = 0x0F) (hmn : F.mn = 1)
    (hcalm : Calm s F (s.storeFault F)) (h : ∀ tid ∈ s.guarded F, (Claims.homeAt s F .write tid).isSome) :
    exec i s = .next (((s.releaseFor F (s.guarded F)).storeAll (s.matchedStores F (s.guarded F))).advanceAll (s.unguarded F ++ s.guarded F)) := by
  rw [exec_eq_meaning s hF hwf, show meaning F s = xSt F s by simp [meaning, hmaj, hmn], xSt, State.runState_calm hcalm]
  split
  · next hg =>
    have release : s.releaseFor F [] = s := by
      unfold State.releaseFor
      split <;> rfl
    have stores : s.matchedStores F [] = [] := by
      unfold State.matchedStores
      split <;> rfl
    rw [hg, release, stores]
    rfl
  · dsimp only
    rw [(List.filterMap_eq_nil_iff (l := byLane (s.guarded F))).2]
    · rfl
    · intro tid ht
      obtain ⟨a, ha⟩ := Option.isSome_iff_exists.1 (h tid (mem_byLane.1 ht))
      rw [storeOf_home ha]

/-- STS of a bundle that meets no fault. -/
theorem exec_storeSpad {i : Instr} {F : Fields} {s : State} (hwf : i.wf = true) (hF : i.fields? = some F) (hmaj : F.maj = 0x0F) (hmn : F.mn = 3)
    (hcalm : Calm s F (fun tid => (spadFault F s tid (storeMask F (s.thread tid) == 0) .write).orElse (fun _ => s.storeShadow F tid))) :
    exec i s = .next (((s.releaseFor F (s.guarded F)).storeAll (s.matchedStores F (s.guarded F))).advanceAll (s.unguarded F ++ s.guarded F)) := by
  rw [exec_eq_meaning s hF hwf, show meaning F s = xSts F s by simp [meaning, hmaj, hmn], xSts, State.runState_calm hcalm]
  split
  · next hg =>
    have release : s.releaseFor F [] = s := by
      unfold State.releaseFor
      split <;> rfl
    have stores : s.matchedStores F [] = [] := by
      unfold State.matchedStores
      split <;> rfl
    rw [hg, release, stores]
    rfl
  · rfl

/-- Where nothing but the threads' going on touches the threads, they have gone on. -/
theorem wentOn_advanceAll {s w : State} {F : Fields} (hthreads : w.threads = s.threads) (hissue : w.issue = s.issue) :
    Claims.WentOn s (w.advanceAll (s.unguarded F ++ s.guarded F)) := by
  have goes (y : Thread) : goesOn w y = goesOn s y := by rw [goesOn, goesOn, hissue]
  constructor
  · intro tid x ht hx
    rw [State.advanceAll_get?, hthreads, hx]
    have hm : tid ∈ s.unguarded F ++ s.guarded F := by
      rw [List.mem_append, State.mem_unguarded hx, State.mem_guarded hx]
      cases x.guard F <;> simp [ht]
    simp [hm, goes]
  · intro tid ht
    have hm : tid ∉ s.unguarded F ++ s.guarded F := fun hm => by
      rcases List.mem_append.1 hm with hm | hm <;> exact ht (List.mem_filter.1 hm).1
    rw [State.advanceAll_get?, hthreads]
    cases s.threads.get? tid <;> simp [hm]

end Machine
end Sys2Proof
end

section
/-! PROOFS. Relaxed stores on their groups' paths, and the stores of speculating groups (15 R259, R269, 10 R178, 21 R385). -/

namespace Sys2Proof
namespace Machine

open Sys2Proof.Safety

/-! What a thread forwards, by the lists of its group. -/

/-- The stores a group holds while it speculates, and those that await their match (R178, R385). -/
def Group.held (g : Group) : List HeldStore := (g.spec.map Spec.stores).getD []
def Group.waiting (g : Group) : List HeldStore := (g.shadow.map Shadow.buffer).getD []

/-- The bytes that a group's thread `tid` forwards of stores to home that the group does not hold. -/
def Group.ownStores (g : Group) (tid : Nat) : List (List Host.Cell) :=
  (g.path.filter (fun p => p.tid == tid || p.tag == 0)).map PathStore.bytes ++
    (g.waiting.filter (fun h => (h.tid == tid || h.shared) && h.spad.isNone)).map HeldStore.bytes

theorem unmatched_eq (s : State) (gid : Nat) : s.unmatched gid = (s.group gid).waiting := by
  unfold State.unmatched Group.waiting
  cases (s.group gid).shadow <;> rfl

theorem forwarded_eq (s : State) (tid a : Nat) : s.forwarded tid a =
    (State.newest (((s.group (gidOf tid)).held.filter (fun h => h.spad.isNone)).map HeldStore.bytes) a).or
      (State.newest ((s.group (gidOf tid)).ownStores tid) a) := by
  unfold State.forwarded Group.ownStores Group.held
  rw [unmatched_eq]
  dsimp only
  cases (s.group (gidOf tid)).spec with
  | none => rfl
  | some sp =>
    dsimp only [Option.map_some, Option.getD_some]
    cases State.newest ((sp.stores.filter (fun h => h.spad.isNone)).map HeldStore.bytes) a <;> rfl

/-- A group once a relaxed store to home is on its path, or awaits its match (R259, R385). -/
def Group.takes (h : HeldStore) (g : Group) : Group :=
  if h.matched then { g with path := g.path ++ [⟨h.tid, h.bytes, if h.shared then 0 else h.tag⟩] }
  else { g with shadow := g.shadow.map (fun sh => { sh with buffer := sh.buffer ++ [h] }) }

theorem Group.takes_frame (h : HeldStore) (g : Group) : { g.takes h with path := g.path, shadow := g.shadow } = g := by
  unfold Group.takes
  split <;> rfl

/-- A relaxed store on its way (R259). -/
def State.takeStore (u : State) (h : HeldStore) : State := u.modGroup (gidOf h.tid) (Group.takes h)

/-- Is a store one to home that is relaxed or releases at most at team? -/
def HeldStore.toPath (h : HeldStore) : Prop := h.spad = none ∧ ∀ sc, h.rel = some sc → sc < 2

theorem performStore_toPath (u : State) {h : HeldStore} (hpath : h.toPath) : u.performStore h false = u.takeStore h := by
  obtain ⟨hspad, hrel⟩ := hpath
  cases hm : h.matched with
  | false =>
    have takes : Group.takes h = fun g => { g with shadow := g.shadow.map (fun sh => { sh with buffer := sh.buffer ++ [h] }) } :=
      funext fun g => if_neg (by simp [hm])
    rw [State.takeStore, takes, State.performStore, hm]
    rfl
  | true =>
    have takes : Group.takes h = fun g => { g with path := g.path ++ [⟨h.tid, h.bytes, if h.shared then 0 else h.tag⟩] } :=
      funext fun g => if_pos hm
    rw [State.takeStore, takes, State.performStore, hm, hspad]
    dsimp only
    rw [if_neg (by decide), if_neg, if_neg (by decide), State.onPath, hspad]
    cases hr : h.rel with
    | none => decide
    | some sc =>
      have := hrel sc hr
      simp only [decide_eq_true_eq]
      omega

/-- A group can take a store: it is there, does not speculate, and, where it has a shadow, none of its stores awaits its match or this one
does so too. -/
structure State.CanTake (u : State) (h : HeldStore) : Prop where
  there : (u.groups.get? (gidOf h.tid)).isSome
  plain : (u.group (gidOf h.tid)).spec = none
  clear : h.matched = true → (u.group (gidOf h.tid)).waiting = []
  shadowed : h.matched = false → (u.group (gidOf h.tid)).shadow.isSome
  tag : h.tag ≠ 0
  own : h.shared = false

theorem group_modGroup (u : State) (gid : Nat) (f : Group → Group) (hg : (u.groups.get? gid).isSome) (j : Nat) :
    (u.modGroup gid f).group j = if j = gid then f (u.group gid) else u.group j := by
  obtain ⟨g, hg⟩ := Option.isSome_iff_exists.1 hg
  simp only [State.group, Tab.getD, State.modGroup_groups, Tab.get?_modify]
  split
  · next h => subst h; rw [hg]; rfl
  · rfl

/-- A group's thread forwards the bytes of its own newest store. -/
theorem ownStores_takes {g : Group} {h : HeldStore} (hspad : h.spad = none) (htag : h.tag ≠ 0) (hown : h.shared = false)
    (hclear : h.matched = true → g.waiting = []) (hshadow : h.matched = false → g.shadow.isSome) (tid : Nat) :
    (g.takes h).ownStores tid = g.ownStores tid ++ (if h.tid = tid then [h.bytes] else []) := by
  cases hm : h.matched with
  | true =>
    have takes : g.takes h = { g with path := g.path ++ [⟨h.tid, h.bytes, h.tag⟩] } := by
      rw [Group.takes, if_pos hm, hown]
      rfl
    have waiting : (g.takes h).waiting = [] := by rw [takes]; exact hclear hm
    have path : (g.takes h).path = g.path ++ [⟨h.tid, h.bytes, h.tag⟩] := by rw [takes]
    unfold Group.ownStores
    rw [waiting, path, hclear hm]
    by_cases ht : h.tid = tid <;> simp [ht, htag]
  | false =>
    obtain ⟨sh, hsh⟩ := Option.isSome_iff_exists.1 (hshadow hm)
    have takes : g.takes h = { g with shadow := some { sh with buffer := sh.buffer ++ [h] } } := by
      rw [Group.takes, if_neg (by simp [hm]), hsh]
      rfl
    have waiting : (g.takes h).waiting = g.waiting ++ [h] := by rw [takes, Group.waiting, Group.waiting, hsh]; rfl
    have path : (g.takes h).path = g.path := by rw [takes]
    unfold Group.ownStores
    rw [waiting, path]
    by_cases ht : h.tid = tid <;> simp [ht, hown, hspad]

/-- The storing thread sees the bytes of its store, and every other thread what it saw (R137, R260). -/
theorem forwarded_takes {u : State} {h : HeldStore} (hcan : u.CanTake h) (hspad : h.spad = none) (tid a : Nat) :
    (u.takeStore h).forwarded tid a = (if h.tid = tid then newestOver a none h.bytes else none).or (u.forwarded tid a) := by
  obtain ⟨there, plain, clear, shadowed, tag, own⟩ := hcan
  have group : (u.takeStore h).group (gidOf tid) = _ := group_modGroup u (gidOf h.tid) (Group.takes h) there (gidOf tid)
  rw [forwarded_eq, forwarded_eq, group]
  by_cases hgid : gidOf tid = gidOf h.tid
  · have held : (Group.takes h (u.group (gidOf h.tid))).held = (u.group (gidOf h.tid)).held :=
      congrArg (fun sp => (Option.map Spec.stores sp).getD []) (congrArg Group.spec (Group.takes_frame h (u.group (gidOf h.tid))) :)
    have empty : (u.group (gidOf h.tid)).held = [] := by rw [Group.held, plain]; rfl
    rw [if_pos hgid, held, hgid, empty, ownStores_takes hspad tag own clear shadowed, newest_append]
    by_cases ht : h.tid = tid
    · rw [if_pos ht, if_pos ht]
      rfl
    · rw [if_neg ht, if_neg ht]
      rfl
  · have ht : h.tid ≠ tid := fun e => hgid (e ▸ rfl)
    rw [if_neg hgid, if_neg ht, Option.none_or]

/-- Taking a store leaves a group able to take another that is matched alike. -/
theorem State.CanTake.step {u : State} {h x : HeldStore} (hcan : u.CanTake h) (hx : u.CanTake x)
    (halike : gidOf x.tid = gidOf h.tid → x.matched = h.matched) : (u.takeStore h).CanTake x := by
  have group : (u.takeStore h).group (gidOf x.tid) = _ := group_modGroup u (gidOf h.tid) (Group.takes h) hcan.there (gidOf x.tid)
  have there : ((u.takeStore h).groups.get? (gidOf x.tid)).isSome := by
    simp only [State.takeStore, State.modGroup_groups, Tab.get?_modify]
    split
    · simpa using hx.there
    · exact hx.there
  by_cases hgid : gidOf x.tid = gidOf h.tid
  · rw [if_pos hgid, show u.group (gidOf h.tid) = u.group (gidOf x.tid) by rw [hgid]] at group
    refine ⟨there, ?_, fun hm => ?_, fun hm => ?_, hx.tag, hx.own⟩
    · have spec := congrArg Group.spec (Group.takes_frame h (u.group (gidOf x.tid)))
      rw [group]
      exact spec.trans hx.plain
    · have same : (Group.takes h (u.group (gidOf x.tid))).shadow = (u.group (gidOf x.tid)).shadow := by
        rw [Group.takes, if_pos (by rw [← halike hgid, hm])]
      rw [group, Group.waiting, same]
      exact hx.clear hm
    · rw [group, Group.takes, if_neg (by rw [← halike hgid, hm]; decide)]
      simpa using hx.shadowed hm
  · rw [if_neg hgid] at group
    exact ⟨there, by rw [group]; exact hx.plain, fun hm => by rw [group]; exact hx.clear hm, fun hm => by rw [group]; exact hx.shadowed hm, hx.tag, hx.own⟩

/-- What the threads see after several relaxed stores to home that do not clash. -/
theorem forwarded_foldl_takes (hs : List HeldStore) {u : State} (hcan : ∀ h ∈ hs, u.CanTake h) (hspad : ∀ h ∈ hs, h.spad = none)
    (halike : ∀ h ∈ hs, ∀ x ∈ hs, gidOf x.tid = gidOf h.tid → x.matched = h.matched) (tid a : Nat) :
    (hs.foldl State.takeStore u).forwarded tid a =
      (State.newest ((hs.filter (fun h => h.tid == tid)).map HeldStore.bytes) a).or (u.forwarded tid a) := by
  induction hs generalizing u with
  | nil => rfl
  | cons h hs ih =>
    have hh := hcan h List.mem_cons_self
    rw [List.foldl_cons, ih (fun x hx => hh.step (hcan x (List.mem_cons_of_mem _ hx)) (halike h List.mem_cons_self x (List.mem_cons_of_mem _ hx)))
      (fun x hx => hspad x (List.mem_cons_of_mem _ hx)) (fun x hx y hy => halike x (List.mem_cons_of_mem _ hx) y (List.mem_cons_of_mem _ hy)),
      forwarded_takes hh (hspad h List.mem_cons_self), ← Option.or_assoc, List.filter_cons]
    by_cases ht : h.tid = tid
    · rw [if_pos ht, if_pos (by simpa using ht), List.map_cons, newest_cons]
      rfl
    · rw [if_neg ht, if_neg (by simpa using ht), Option.or_none]

theorem foldl_takes_frame (hs : List HeldStore) (u : State) :
    { hs.foldl State.takeStore u with groups := u.groups } = u ∧
      ∀ gid, { (hs.foldl State.takeStore u).group gid with
        path := (u.group gid).path, shadow := (u.group gid).shadow } = u.group gid := by
  refine ⟨State.foldl_keeps (f := State.takeStore) (fun v : State => { v with groups := u.groups }) (fun _ _ => rfl) hs u, fun gid => ?_⟩
  let rest (g : Group) : Group := { g with path := (u.group gid).path, shadow := (u.group gid).shadow }
  have takes (h : HeldStore) (g : Group) : rest (g.takes h) = rest g := (congrArg rest (Group.takes_frame h g) :)
  have step (v : State) (h : HeldStore) : rest ((v.takeStore h).group gid) = rest (v.group gid) :=
    Tab.getD_modify_congr (f := Group.takes h) rest (takes h) v.groups (gidOf h.tid) gid Group.blank
  exact State.foldl_keeps (fun v => rest (v.group gid)) step hs u

/-! The stores of speculating groups (R178). -/

/-- A group that holds one more store. -/
def Group.holds (h : HeldStore) (g : Group) : Group := { g with spec := g.spec.map (fun sp => { sp with stores := sp.stores ++ [h] }) }

theorem holdStore_home (u : State) {h : HeldStore} (hspad : h.spad = none) :
    u.holdStore h = u.modGroup (gidOf h.tid) (Group.holds h) := by
  rw [State.holdStore, hspad]
  rfl

/-- A group's threads see the bytes of the stores it holds. -/
theorem forwarded_holdStore {u : State} {h : HeldStore} (hspad : h.spad = none) (hspec : (u.group (gidOf h.tid)).spec.isSome) (tid a : Nat) :
    (u.holdStore h).forwarded tid a = (if gidOf h.tid = gidOf tid then newestOver a none h.bytes else none).or (u.forwarded tid a) := by
  obtain ⟨sp, hsp⟩ := Option.isSome_iff_exists.1 hspec
  have there : (u.groups.get? (gidOf h.tid)).isSome := by
    cases hg : u.groups.get? (gidOf h.tid) with
    | some g => rfl
    | none =>
      rw [State.group, Tab.getD, hg] at hsp
      cases hsp
  have group := group_modGroup u (gidOf h.tid) (Group.holds h) there (gidOf tid)
  rw [holdStore_home u hspad, forwarded_eq, forwarded_eq, group]
  by_cases hgid : gidOf tid = gidOf h.tid
  · have held : (u.group (gidOf h.tid)).held = sp.stores := by rw [Group.held, hsp]; rfl
    have longer : (Group.holds h (u.group (gidOf h.tid))).held = sp.stores ++ [h] := by rw [Group.held, Group.holds, hsp]; rfl
    have others : (Group.holds h (u.group (gidOf h.tid))).ownStores tid = (u.group (gidOf h.tid)).ownStores tid := rfl
    rw [if_pos hgid, if_pos hgid.symm, longer, others, hgid, held, List.filter_append, List.map_append, newest_append, Option.or_assoc]
    simp only [List.filter_cons, hspad, Option.isNone_none, if_true, List.filter_nil, List.map_cons, List.map_nil]
    rfl
  · rw [if_neg hgid, if_neg (Ne.symm hgid), Option.none_or]

theorem spec_holdStore (u : State) (h : HeldStore) (hspad : h.spad = none) (gid : Nat) :
    ((u.holdStore h).group gid).spec.isSome = (u.group gid).spec.isSome := by
  rw [holdStore_home u hspad]
  exact Tab.getD_modify_congr (f := Group.holds h) (fun g : Group => g.spec.isSome) (fun g => by simp [Group.holds]) u.groups (gidOf h.tid) gid Group.blank

theorem forwarded_foldl_holdStore (hs : List HeldStore) {u : State} (hspad : ∀ h ∈ hs, h.spad = none)
    (hspec : ∀ h ∈ hs, (u.group (gidOf h.tid)).spec.isSome) (tid a : Nat) :
    (hs.foldl State.holdStore u).forwarded tid a =
      (State.newest ((hs.filter (fun h => gidOf h.tid == gidOf tid)).map HeldStore.bytes) a).or (u.forwarded tid a) := by
  induction hs generalizing u with
  | nil => rfl
  | cons h hs ih =>
    have hh := hspad h List.mem_cons_self
    rw [List.foldl_cons, ih (fun x hx => hspad x (List.mem_cons_of_mem _ hx))
      (fun x hx => by rw [spec_holdStore u h hh]; exact hspec x (List.mem_cons_of_mem _ hx)),
      forwarded_holdStore hh (hspec h List.mem_cons_self), ← Option.or_assoc, List.filter_cons]
    by_cases ht : gidOf h.tid = gidOf tid
    · rw [if_pos ht, if_pos (by simpa using ht), List.map_cons, newest_cons]
      rfl
    · rw [if_neg ht, if_neg (by simpa using ht), Option.or_none]

theorem foldl_holdStore_frame (hs : List HeldStore) (hspad : ∀ h ∈ hs, h.spad = none) (u : State) :
    { hs.foldl State.holdStore u with groups := u.groups } = u ∧
      ∀ gid, { (hs.foldl State.holdStore u).group gid with spec := (u.group gid).spec } = u.group gid := by
  induction hs generalizing u with
  | nil => exact ⟨rfl, fun _ => rfl⟩
  | cons h hs ih =>
    have hold := holdStore_home u (hspad h List.mem_cons_self)
    obtain ⟨ih1, ih2⟩ := ih (fun x hx => hspad x (List.mem_cons_of_mem _ hx)) (u.holdStore h)
    refine ⟨?_, fun gid => ?_⟩
    · have e := congrArg (fun v : State => { v with groups := u.groups }) ih1
      exact e.trans (by rw [hold]; rfl)
    · have e := congrArg (fun g : Group => { g with spec := (u.group gid).spec }) (ih2 gid)
      refine e.trans ?_
      rw [hold]
      exact Tab.getD_modify_congr (f := Group.holds h) (fun g : Group => { g with spec := (u.group gid).spec }) (fun _ => rfl) u.groups (gidOf h.tid) gid
        Group.blank

end Machine
end Sys2Proof
end

section
/-! PROOFS. Stores of two groups that clash, and stores with a release at gang or wider (06 R133, 15 R259, R261, R269). -/

namespace Sys2Proof
namespace Machine

open Sys2Proof.Safety

/-! A publication (R261). -/

/-- What a publication leaves of the state, whatever its scope: every group but its paths, the threads, and what the table of teams lists. -/
structure Published (s u : State) : Prop where
  rest : { u with groups := s.groups, teams := s.teams, domains := s.domains, hbm := s.hbm, poison := s.poison, mirrors := s.mirrors, used := s.used } = s
  groups : ∀ gid, ∃ path spadPath, u.groups.get? gid = (s.groups.get? gid).map (fun g => { g with path := path, spadPath := spadPath })
  teams : u.teams.keys = s.teams.keys

namespace Published

variable {s u v : State}

theorem refl (s : State) : Published s s where
  rest := rfl
  groups := fun gid => ⟨(s.group gid).path, (s.group gid).spadPath, by
    cases h : s.groups.get? gid with
    | none => rfl
    | some g => rw [State.group_of_get? h]; rfl⟩
  teams := rfl

theorem trans (h : Published s u) (k : Published u v) : Published s v where
  rest := by
    have e := congrArg (fun w : State => { w with groups := s.groups, teams := s.teams, domains := s.domains, hbm := s.hbm, poison := s.poison,
                                                  mirrors := s.mirrors, used := s.used }) k.rest
    exact e.trans h.rest
  groups := fun gid => by
    obtain ⟨p, q, h⟩ := h.groups gid
    obtain ⟨p', q', k⟩ := k.groups gid
    exact ⟨p', q', by rw [k, h, Option.map_map]; rfl⟩
  teams := k.teams.trans h.teams

/-- A group after a publication. -/
theorem group (h : Published s u) (gid : Nat) : { u.group gid with path := (s.group gid).path, spadPath := (s.group gid).spadPath } = s.group gid := by
  obtain ⟨p, q, h⟩ := h.groups gid
  simp only [State.group, Tab.getD, h]
  cases s.groups.get? gid <;> rfl

end Published

theorem drainSpad_eq (s : State) (gid : Nat) : s.drainSpad gid = { s with
    teams := spadWrites (s.group gid).spadPath s.teams, groups := s.groups.modify gid (fun g => { g with spadPath := [] }) } := by
  unfold State.drainSpad
  dsimp only
  rw [foldl_spadCells]
  rfl

theorem spadWrites_keys (ps : List SpadStore) (teams : Tab Team) : (spadWrites ps teams).keys = teams.keys := by
  induction ps generalizing teams with
  | nil => rfl
  | cons p ps ih => exact (ih _).trans (Tab.keys_modify ..)

theorem published_drain (s : State) (gid n : Nat) : Published s ((s.drainPath gid n).drainSpad gid) where
  rest := by rw [drainSpad_eq]; rfl
  groups := fun j => by
    rw [drainSpad_eq]
    simp only [State.drainPath, State.modGroup_groups, Tab.get?_modify]
    have hgroups : (s.overlayCells (s.domOf gid) (((s.group gid).path.take n).flatMap (·.bytes))).groups = s.groups := rfl
    rw [hgroups]
    split
    · next hj =>
      subst hj
      cases hg : s.groups.get? j with
      | none => exact ⟨[], [], rfl⟩
      | some g => exact ⟨g.path.drop n, [], rfl⟩
    · obtain ⟨p, q, h⟩ := (Published.refl s).groups j
      exact ⟨p, q, h⟩
  teams := by rw [drainSpad_eq]; exact spadWrites_keys _ s.teams

theorem published_writeBack (s : State) (d : Nat) : Published s (s.writeBack d) where
  rest := by
    have h := congrArg (fun v : State => { v with groups := s.groups, teams := s.teams, domains := s.domains, used := s.used }) (State.putCells_frame s (s.domain d).overlay)
    exact h
  groups := (by
    have h : (s.writeBack d).groups = s.groups := (congrArg State.groups (State.putCells_frame s (s.domain d).overlay) :)
    rw [h]
    exact (Published.refl s).groups)
  teams := by rw [State.writeBack_teams]

theorem published_countLines (s : State) (gid : Nat) (cells : List Host.Cell) : Published s (s.countLines gid cells) := by
  unfold State.countLines State.countUse
  split
  · exact .refl s
  · exact ⟨rfl, (Published.refl s).groups, rfl⟩

theorem published_publish (s : State) (gid scope : Nat) : Published s (s.publish gid scope) := by
  have drained := published_drain s gid (s.group gid).path.length
  unfold State.publish
  dsimp only
  split
  · exact (drained.trans (published_countLines _ _ _)).trans (published_writeBack _ _)
  · exact drained

theorem published_publishAll (s : State) (gids : List Nat) (scope : Nat) : Published s (s.publishAll gids scope) := by
  unfold State.publishAll
  induction gids generalizing s with
  | nil => exact .refl s
  | cons gid gids ih => exact (published_publish s gid scope).trans (ih _)

/-! A store with a release at gang or wider stands at home (R261, R269). -/

/-- Is a store one to home with a release at gang or wider, and matched? -/
def HeldStore.toHome (h : HeldStore) : Prop := h.spad = none ∧ h.matched = true ∧ ∃ sc, h.rel = some sc ∧ 2 ≤ sc

theorem performStore_toHome (u : State) {h : HeldStore} (hhome : h.toHome) (clash : Bool) :
    u.performStore h clash = (u.countLines (gidOf h.tid) h.bytes).domainHome (u.domOf (gidOf h.tid)) h.bytes := by
  obtain ⟨hspad, hm, sc, hrel, hsc⟩ := hhome
  have hdom : (u.countLines (gidOf h.tid) h.bytes).domOf (gidOf h.tid) = u.domOf (gidOf h.tid) := by
    unfold State.countLines State.countUse
    split <;> rfl
  rw [State.performStore, hm, hspad, hrel]
  dsimp only
  rw [if_neg (by decide), if_pos (by simpa using hsc)]

theorem domainHome_homeByte (s : State) (d : Nat) (cells : List Host.Cell) (a : Nat) :
    (s.domainHome d cells).homeByte a = (newestOver a none cells).getD (s.homeByte a) := homeByte_putCells s cells a

theorem domainHome_overlay (s : State) (dom : Nat) (cells : List Host.Cell) (d : Nat) :
    ((s.domainHome dom cells).domain d).overlay = (s.domain d).overlay := by
  have hdomains : (s.putCells cells).domains = s.domains := (congrArg State.domains (State.putCells_frame s cells) :)
  have hdomain (e : Nat) : (s.putCells cells).domain e = s.domain e := by rw [State.domain, State.domain, hdomains]
  have h : (s.domainHome dom cells).domain d = if d = dom then { (s.putCells cells).domain dom with
    lines := ((s.putCells cells).domain dom).lines.filter (fun l => !cells.any (fun c => c.1 / 64 == l.1)) } else (s.putCells cells).domain d :=
    Tab.getD_putD ..
  rw [h]
  split
  · next hd => rw [hd, hdomain]
  · rw [hdomain]

theorem foldl_toHome (hs : List HeldStore) (hhome : ∀ h ∈ hs, h.toHome) (clash : HeldStore → Bool) (u : State) :
    let t := hs.foldl (fun u h => u.performStore h (clash h)) u
    { t with hbm := u.hbm, domains := u.domains, poison := u.poison, mirrors := u.mirrors, used := u.used } = u ∧
      (∀ a, t.homeByte a = (State.newest (hs.map HeldStore.bytes) a).getD (u.homeByte a)) ∧
      ∀ d, (t.domain d).overlay = (u.domain d).overlay := by
  induction hs generalizing u with
  | nil => exact ⟨rfl, fun _ => rfl, fun _ => rfl⟩
  | cons h hs ih =>
    intro t
    have step := performStore_toHome u (hhome h List.mem_cons_self) (clash h)
    have counted : { u.countLines (gidOf h.tid) h.bytes with used := u.used } = u := countUse_rest ..
    obtain ⟨rest, home, overlay⟩ := ih (fun x hx => hhome x (List.mem_cons_of_mem _ hx)) (u.performStore h (clash h))
    refine ⟨?_, fun a => ?_, fun d => ?_⟩
    · have e := congrArg (fun v : State => { v with hbm := u.hbm, domains := u.domains, poison := u.poison, mirrors := u.mirrors, used := u.used }) rest
      refine e.trans ?_
      have e' := congrArg (fun v : State => { v with domains := u.domains, used := u.used, hbm := u.hbm, poison := u.poison, mirrors := u.mirrors })
        (State.putCells_frame (u.countLines (gidOf h.tid) h.bytes) h.bytes)
      have e'' := congrArg (fun v : State => { v with domains := u.domains, hbm := u.hbm, poison := u.poison, mirrors := u.mirrors }) counted
      rw [step]
      exact e'.trans e''
    · have counts : (u.countLines (gidOf h.tid) h.bytes).homeByte a = u.homeByte a := by
        rw [State.homeByte, State.homeByte, (congrArg State.hbm counted :)]
      refine (home a).trans ?_
      rw [step, domainHome_homeByte, counts, List.map_cons, newest_cons, Option.getD_or]
      rfl
    · have counts : (u.countLines (gidOf h.tid) h.bytes).domain d = u.domain d := by
        rw [State.domain, State.domain, (congrArg State.domains counted :)]
      refine (overlay d).trans ?_
      rw [step, domainHome_overlay, counts]

end Machine
end Sys2Proof
end

section
/-! PROOFS. Stores of groups that clash (06 R133, 15 R259), and ST as the statement says it. -/

namespace Sys2Proof
namespace Machine

open Sys2Proof.Safety

theorem group_modGroup_cases (u : State) (gid : Nat) (f : Group → Group) (j : Nat) :
    (u.modGroup gid f).group j = u.group j ∨ (j = gid ∧ (u.modGroup gid f).group j = f (u.group j)) := by
  by_cases hj : j = gid
  · subst hj
    cases hg : u.groups.get? j with
    | none => exact .inl (by simp only [State.group, Tab.getD, State.modGroup_groups, Tab.get?_modify, hg, if_true, Option.map_none])
    | some g => exact .inr ⟨rfl, by rw [group_modGroup u j f (by rw [hg]; rfl), if_pos rfl]⟩
  · exact .inl (by simp only [State.group, Tab.getD, State.modGroup_groups, Tab.get?_modify, if_neg hj])

/-- A store that clashes follows its group's earlier ones into the overlay (R133). -/
theorem performStore_clash (u : State) {h : HeldStore} (hpath : h.toPath) (hm : h.matched = true) : u.performStore h true =
    (u.drainPath (gidOf h.tid) (u.group (gidOf h.tid)).path.length).overlayCells (u.domOf (gidOf h.tid)) h.bytes := by
  obtain ⟨hspad, hrel⟩ := hpath
  rw [State.performStore, hm, hspad]
  dsimp only
  rw [if_neg (by decide), if_neg, if_pos rfl]
  cases hr : h.rel with
  | none => decide
  | some sc =>
    have := hrel sc hr
    simp only [decide_eq_true_eq]
    omega

/-- A group whose first stores have left its path. -/
def Group.drained (n : Nat) (g : Group) : Group := { g with path := g.path.drop n }

/-- No store on the path of one of some groups holds an address. -/
def State.PathsFree (u : State) (gids : List Nat) (a : Nat) : Prop := ∀ g ∈ gids, ∀ p ∈ (u.group g).path, ∀ b, (a, b) ∉ p.bytes

/-- What one store of an issue does to the overlay of its domain, at an address that no path of its groups holds. -/
structure ClashStep (u t : State) (gids : List Nat) (d a : Nat) (cells : List Host.Cell) (clash : Bool) : Prop where
  rest : { t with groups := u.groups, domains := u.domains } = u
  core : ∀ g, t.domOf g = u.domOf g
  free : t.PathsFree gids a
  overlay : (t.domain d).overlay.get? a = (if clash then newestOver a none cells else none).or ((u.domain d).overlay.get? a)

theorem clashStep_performStore {u : State} {gids : List Nat} {d a : Nat} {h : HeldStore} {clash : Bool} (hpath : h.toPath)
    (hm : clash = true → h.matched = true) (hgid : gidOf h.tid ∈ gids) (hdom : u.domOf (gidOf h.tid) = d) (hfree : u.PathsFree gids a)
    (hcells : clash = false → ∀ b, (a, b) ∉ h.bytes) : ClashStep u (u.performStore h clash) gids d a h.bytes clash := by
  cases clash with
  | false =>
    rw [performStore_toPath u hpath]
    have group := group_modGroup_cases u (gidOf h.tid) (Group.takes h)
    have core (g : Group) : (g.takes h).core = g.core := (congrArg Group.core (g.takes_frame h) :)
    refine ⟨rfl, fun g => ?_, fun g hg p hp b hb => ?_, rfl⟩
    · unfold State.domOf State.takeStore
      rcases group g with e | ⟨-, e⟩
      · rw [e]
      · rw [e, core]
    · unfold State.takeStore at hp
      rcases group g with e | ⟨-, e⟩
      · exact hfree g hg p (e ▸ hp) b hb
      · rw [e] at hp
        unfold Group.takes at hp
        split at hp
        · rcases List.mem_append.1 hp with hp | hp
          · exact hfree g hg p hp b hb
          · rw [List.mem_singleton.1 hp] at hb
            exact hcells rfl b hb
        · exact hfree g hg p hp b hb
  | true =>
    rw [performStore_clash u hpath (hm rfl)]
    have group (g : Nat) : (u.drainPath (gidOf h.tid) (u.group (gidOf h.tid)).path.length).group g = u.group g ∨
        (g = gidOf h.tid ∧ (u.drainPath (gidOf h.tid) (u.group (gidOf h.tid)).path.length).group g =
          (u.group g).drained (u.group (gidOf h.tid)).path.length) :=
      group_modGroup_cases _ (gidOf h.tid) (Group.drained (u.group (gidOf h.tid)).path.length) g
    refine ⟨rfl, fun g => ?_, fun g hg p hp b hb => ?_, ?_⟩
    · show State.domOfCore ((u.drainPath _ _).group g).core = State.domOfCore (u.group g).core
      rcases group g with e | ⟨-, e⟩
      · rw [e]
      · rw [e]; rfl
    · have hp : p ∈ ((u.drainPath (gidOf h.tid) (u.group (gidOf h.tid)).path.length).group g).path := hp
      rcases group g with e | ⟨-, e⟩
      · exact hfree g hg p (e ▸ hp) b hb
      · rw [e] at hp
        exact hfree g hg p (List.mem_of_mem_drop hp) b hb
    · have drained : newestOver a none (((u.group (gidOf h.tid)).path.take (u.group (gidOf h.tid)).path.length).flatMap (·.bytes)) = none := by
        cases hn : newestOver a none (((u.group (gidOf h.tid)).path.take (u.group (gidOf h.tid)).path.length).flatMap (·.bytes)) with
        | none => rfl
        | some b =>
          obtain ⟨p, hp, hb⟩ := List.mem_flatMap.1 (mem_of_newestOver hn)
          exact absurd hb (hfree _ hgid p (List.mem_of_mem_take hp) b)
      have hdrain : ((u.drainPath (gidOf h.tid) (u.group (gidOf h.tid)).path.length).domain d).overlay.get? a = (u.domain d).overlay.get? a :=
        (overlay_overlayCells u _ _ d a).trans (by rw [drained, Option.none_or, ite_self])
      rw [overlay_overlayCells, if_pos hdom.symm, hdrain, if_pos rfl]

theorem clashStep_foldl (hs : List HeldStore) (clash : HeldStore → Bool) {gids : List Nat} {d a : Nat} (hpath : ∀ h ∈ hs, h.toPath)
    (hm : ∀ h ∈ hs, clash h = true → h.matched = true) (hgid : ∀ h ∈ hs, gidOf h.tid ∈ gids)
    (hcells : ∀ h ∈ hs, clash h = false → ∀ b, (a, b) ∉ h.bytes) {u : State} (hdom : ∀ g ∈ gids, u.domOf g = d) (hfree : u.PathsFree gids a) :
    ((hs.foldl (fun u h => u.performStore h (clash h)) u).domain d).overlay.get? a =
      (State.newest ((hs.filter clash).map HeldStore.bytes) a).or ((u.domain d).overlay.get? a) := by
  induction hs generalizing u with
  | nil => rfl
  | cons h hs ih =>
    have hh := List.mem_cons_self (a := h) (l := hs)
    obtain ⟨-, core, free, overlay⟩ := clashStep_performStore (hpath h hh) (hm h hh) (hgid h hh) (hdom _ (hgid h hh)) hfree (hcells h hh)
    rw [List.foldl_cons, ih (fun x hx => hpath x (List.mem_cons_of_mem _ hx)) (fun x hx => hm x (List.mem_cons_of_mem _ hx))
      (fun x hx => hgid x (List.mem_cons_of_mem _ hx)) (fun x hx => hcells x (List.mem_cons_of_mem _ hx)) (fun g hg => (core g).trans (hdom g hg)) free,
      overlay, ← Option.or_assoc, List.filter_cons]
    cases clash h with
    | true => rw [if_pos rfl, if_pos rfl, List.map_cons, newest_cons]; rfl
    | false => rw [if_neg (by decide), if_neg (by decide), Option.or_none]

/-- Stores that clash or not change the groups' paths and overlays alone. -/
theorem foldl_performStore_toPath_frame (hs : List HeldStore) (clash : HeldStore → Bool) (hpath : ∀ h ∈ hs, h.toPath)
    (hm : ∀ h ∈ hs, clash h = true → h.matched = true) (u : State) :
    { hs.foldl (fun u h => u.performStore h (clash h)) u with groups := u.groups, domains := u.domains } = u := by
  induction hs generalizing u with
  | nil => rfl
  | cons h hs ih =>
    have step : { u.performStore h (clash h) with groups := u.groups, domains := u.domains } = u := by
      cases hc : clash h with
      | false => rw [performStore_toPath u (hpath h List.mem_cons_self)]; rfl
      | true => rw [performStore_clash u (hpath h List.mem_cons_self) (hm h List.mem_cons_self hc)]; rfl
    have e := congrArg (fun v : State => { v with groups := u.groups, domains := u.domains })
      (ih (fun x hx => hpath x (List.mem_cons_of_mem _ hx)) (fun x hx => hm x (List.mem_cons_of_mem _ hx)) (u.performStore h (clash h)))
    exact e.trans step

/-- The newest byte of a list is that of the last store that holds the address. -/
theorem newest_of_last {pre post : List (List Host.Cell)} {cells : List Host.Cell} {a : Nat} {b : Byte} (hm : (a, b) ∈ cells)
    (hone : ∀ c, (a, c) ∈ cells → c = b) (hpost : ∀ cells ∈ post, ∀ c, (a, c) ∉ cells) : State.newest (pre ++ cells :: post) a = some b := by
  have last : State.newest (cells :: post) a = some b := by
    rw [newest_cons, newest_eq_none hpost, Option.none_or]
    exact newest_of_agree (l := [cells]) List.mem_cons_self hm fun c hc d hd => hone d (List.mem_singleton.1 hc ▸ hd)
  rw [newest_append, last]
  rfl

/-! ST of a bundle. -/

/-- Thread `tid` of the bundle stores byte `b` at home address `a` (R131, R132). -/
def HomeWrites (s : State) (F : Fields) (tid a : Nat) (b : Byte) : Prop :=
  tid ∈ s.guarded F ∧ ∃ k, a = (Claims.homeAt s F .write tid).getD 0 + k ∧ Claims.enabled F (s.thread tid) k = true ∧
    b = Claims.storedByte F (s.group (gidOf tid)) (s.thread tid) k

/-- The state that the release of a store's order leaves, where no group speculates (R259, R261). -/
def State.released (s : State) (F : Fields) : State := if F.releases then s.publishAll (State.groupsIn (s.guarded F)) F.scope else s

theorem published_released (s : State) (F : Fields) : Published s (s.released F) := by
  unfold State.released
  split
  · exact published_publishAll ..
  · exact .refl s

theorem releaseFor_plain {s : State} {F : Fields} (h : ∀ g ∈ State.groupsIn (s.guarded F), (s.group g).spec = none) :
    s.releaseFor F (s.guarded F) = s.released F := by
  unfold State.releaseFor State.released
  rw [List.filter_eq_self.2 fun g hg => by rw [h g hg]; rfl]

theorem releaseFor_specs {s : State} {F : Fields} (h : ∀ g ∈ State.groupsIn (s.guarded F), (s.group g).spec.isSome) :
    s.releaseFor F (s.guarded F) = s := by
  unfold State.releaseFor
  rw [List.filter_eq_nil_iff.2 fun g hg => by simpa [Option.isSome_iff_ne_none] using h g hg]
  split <;> rfl

/-- A bundle whose stores all go to home and meet no fault. -/
structure HomeBundle (s : State) (F : Fields) : Prop where
  maj : F.maj = 0x0F
  mn : F.mn = 1
  decodes : Calm s F State.noFault
  nodup : s.issue.threads.Nodup
  turn : s.turn ≠ 0
  faultless : ∀ tid ∈ s.guarded F, s.storeFault F tid = none
  homes : ∀ tid ∈ s.guarded F, (Claims.homeAt s F .write tid).isSome
  groups : ∀ tid ∈ s.guarded F, (s.groups.get? (gidOf tid)).isSome

namespace HomeBundle

variable {s : State} {F : Fields} (hB : HomeBundle s F)

include hB

theorem size {tid : Nat} (ht : tid ∈ s.guarded F) : F.size ≤ 4 := (load_fields (fieldsOk_of_decodeFault (hB.decodes tid ht).1) hB.maj).1

/-- The stores of the bundle as they take effect. -/
theorem stores : s.matchedStores F (s.guarded F) = (byLane (s.guarded F)).map (homeStore s F (s.matchesNow F (s.guarded F))) :=
  matchedStores_home hB.mn hB.homes

theorem mem_bytes {tid : Nat} (ht : tid ∈ s.guarded F) (now : Bool) {a : Nat} {b : Byte} :
    (a, b) ∈ (homeStore s F now tid).bytes ↔ HomeWrites s F tid a b :=
  (mem_storedCells (hB.size ht)).trans ⟨fun h => ⟨ht, h⟩, fun h => h.2⟩

theorem writes_unique {tid a : Nat} {b c : Byte} (hb : HomeWrites s F tid a b) (hc : HomeWrites s F tid a c) : b = c :=
  storedCells_unique (hB.size hb.1) ((hB.mem_bytes hb.1 false).2 hb) ((hB.mem_bytes hb.1 false).2 hc)

theorem exec {i : Instr} (hwf : i.wf = true) (hF : i.fields? = some F) : exec i s = .next
    (((s.releaseFor F (s.guarded F)).storeAll ((byLane (s.guarded F)).map (homeStore s F (s.matchesNow F (s.guarded F))))).advanceAll
      (s.unguarded F ++ s.guarded F)) := by
  rw [exec_store hwf hF hB.maj hB.mn (fun tid ht => ⟨(hB.decodes tid ht).1, hB.faultless tid ht⟩) hB.homes, hB.stores]

/-- Which store of the bundle clashes. -/
theorem clashes {now : Bool} {tid : Nat} (ht : tid ∈ s.guarded F) :
    ((byLane (s.guarded F)).map (homeStore s F now)).any (homeStore s F now tid).clashes = true ↔
      ∃ v, gidOf tid ≠ gidOf v ∧ ∃ a b c, HomeWrites s F tid a b ∧ HomeWrites s F v a c := by
  rw [List.any_map, List.any_eq_true]
  constructor
  · rintro ⟨v, hv, h⟩
    have hv := mem_byLane.1 hv
    obtain ⟨-, hgid, a, b, c, hb, hc⟩ := (clashes_iff (x := homeStore s F now tid) (y := homeStore s F now v) rfl).1 h
    exact ⟨v, hgid, a, b, c, (hB.mem_bytes ht now).1 hb, (hB.mem_bytes hv now).1 hc⟩
  · rintro ⟨v, hgid, a, b, c, hb, hc⟩
    exact ⟨v, mem_byLane.2 hc.1, (clashes_iff (x := homeStore s F now tid) (y := homeStore s F now v) rfl).2
      ⟨rfl, hgid, a, b, c, (hB.mem_bytes ht now).2 hb, (hB.mem_bytes hc.1 now).2 hc⟩⟩

/-- The bundle is compared with its shadows as it issues exactly where it releases or two of its groups clash (R385). -/
theorem matchesNow : s.matchesNow F (s.guarded F) = true ↔
    F.releases = true ∨ ∃ x y, gidOf x ≠ gidOf y ∧ ∃ a b c, HomeWrites s F x a b ∧ HomeWrites s F y a c := by
  have some_clash : ((byLane (s.guarded F)).map (homeStore s F false)).any (fun h => ((byLane (s.guarded F)).map (homeStore s F false)).any h.clashes) = true ↔
      ∃ x y, gidOf x ≠ gidOf y ∧ ∃ a b c, HomeWrites s F x a b ∧ HomeWrites s F y a c := by
    rw [List.any_map, List.any_eq_true]
    constructor
    · rintro ⟨x, hx, h⟩
      exact ⟨x, (hB.clashes (mem_byLane.1 hx)).1 h⟩
    · rintro ⟨x, y, hgid, a, b, c, hb, hc⟩
      exact ⟨x, mem_byLane.2 hb.1, (hB.clashes hb.1).2 ⟨y, hgid, a, b, c, hb, hc⟩⟩
  unfold State.matchesNow
  dsimp only
  rw [storesOf_home hB.mn hB.homes, (List.any_eq_false (l := s.guarded F)).2]
  · simp only [Bool.and_false, Bool.or_false, Bool.or_eq_true, some_clash]
  · intro tid ht
    obtain ⟨a, ha⟩ := Option.isSome_iff_exists.1 (hB.homes tid ht)
    rw [storeOf_home ha]
    exact Bool.false_ne_true

end HomeBundle

/-- The stores of a bundle are those of its threads. -/
theorem mem_stores {s : State} {F : Fields} {now : Bool} {h : HeldStore} (hh : h ∈ (byLane (s.guarded F)).map (homeStore s F now)) :
    ∃ tid ∈ s.guarded F, homeStore s F now tid = h := by
  obtain ⟨tid, ht, rfl⟩ := List.mem_map.1 hh
  exact ⟨tid, mem_byLane.1 ht, rfl⟩

/-- Where no store clashes, each is on its way as if it were alone. -/
theorem foldl_performStore_apart (hs : List HeldStore) (clash : HeldStore → Bool) (hpath : ∀ h ∈ hs, h.toPath) (hapart : ∀ h ∈ hs, clash h = false)
    (u : State) : hs.foldl (fun u h => u.performStore h (clash h)) u = hs.foldl State.takeStore u := by
  induction hs generalizing u with
  | nil => rfl
  | cons h hs ih =>
    rw [List.foldl_cons, List.foldl_cons, hapart h List.mem_cons_self, performStore_toPath u (hpath h List.mem_cons_self)]
    exact ih (fun x hx => hpath x (List.mem_cons_of_mem _ hx)) (fun x hx => hapart x (List.mem_cons_of_mem _ hx)) _

theorem relScope_lt {F : Fields} (h : F.releases = false ∨ F.scope < 2) {sc : Nat} (hsc : relScope F = some sc) : sc < 2 := by
  unfold relScope at hsc
  split at hsc
  · next hr =>
    obtain rfl := Option.some.inj hsc
    rcases h with h | h
    · rw [h] at hr; cases hr
    · exact h
  · cases hsc

/-- Where no group speculates, the stores take effect one after another. -/
theorem storeAll_released {s : State} {F : Fields} {all : List HeldStore} (hplain : ∀ g ∈ State.groupsIn (s.guarded F), (s.group g).spec = none)
    (hall : ∀ h ∈ all, h.tid ∈ s.guarded F) :
    (s.releaseFor F (s.guarded F)).storeAll all = all.foldl (fun u h => u.performStore h (all.any h.clashes)) (s.released F) := by
  rw [releaseFor_plain hplain]
  refine storeAll_of_plain fun h hh => ?_
  have spec : ((s.released F).group (gidOf h.tid)).spec = (s.group (gidOf h.tid)).spec := (congrArg Group.spec ((published_released s F).group (gidOf h.tid)) :)
  rw [State.specs, spec, hplain _ (mem_groupsIn.2 ⟨h.tid, hall h hh, rfl⟩)]
  rfl

namespace HomeBundle

variable {s : State} {F : Fields} (hB : HomeBundle s F)

include hB

/-- The groups of the bundle can take its stores, once they have made the release. -/
theorem canTake {u : State} (published : Published s u) {now : Bool} {tid : Nat} (ht : tid ∈ s.guarded F) (hplain : (s.group (gidOf tid)).spec = none)
    (hclear : now = true → s.unmatched (gidOf tid) = []) : u.CanTake (homeStore s F now tid) := by
  have group := published.group (gidOf tid)
  have shadow : (u.group (gidOf tid)).shadow = (s.group (gidOf tid)).shadow := (congrArg Group.shadow group :)
  obtain ⟨p, q, hget⟩ := published.groups (gidOf tid)
  refine ⟨?_, (congrArg Group.spec group :).trans hplain, fun hm => ?_, fun hm => ?_, hB.turn, rfl⟩
  · show (u.groups.get? (gidOf tid)).isSome = true
    rw [hget, Option.isSome_map]
    exact hB.groups tid ht
  · show (u.group (gidOf tid)).waiting = []
    rw [Group.waiting, shadow]
    rcases Bool.or_eq_true_iff.1 hm with hm | hm
    · exact (unmatched_eq s (gidOf tid)).symm.trans (hclear hm)
    · rw [Option.isNone_iff_eq_none.1 hm]
      rfl
  · show (u.group (gidOf tid)).shadow.isSome = true
    rw [shadow]
    have : (s.group (gidOf tid)).shadow.isNone = false := (Bool.or_eq_false_iff.1 hm).2
    simpa using this

/-- Relaxed stores of groups that do not collide (R137, R259). -/
theorem store_apart {i : Instr} (hwf : i.wf = true) (hF : i.fields? = some F) (hplain : ∀ g ∈ State.groupsIn (s.guarded F), (s.group g).spec = none)
    (hrel : F.releases = false ∨ F.scope < 2) (hapart : ∀ x y a b c, HomeWrites s F x a b → HomeWrites s F y a c → gidOf x = gidOf y)
    (hclear : F.releases = true → ∀ g ∈ State.groupsIn (s.guarded F), s.unmatched g = []) :
    ∃ t, Sys2Proof.Machine.exec i s = .next t ∧ Claims.WentOn s t ∧ { t with threads := (s.released F).threads, groups := (s.released F).groups } = s.released F ∧
      (∀ gid, { t.group gid with path := ((s.released F).group gid).path, shadow := ((s.released F).group gid).shadow } = (s.released F).group gid) ∧
      (∀ tid a b, HomeWrites s F tid a b → t.forwarded tid a = some b) ∧
      ∀ tid a, (∀ b, ¬ HomeWrites s F tid a b) → t.forwarded tid a = (s.released F).forwarded tid a := by
  have published := published_released s F
  have hrun := hB.exec hwf hF
  have hmatch := hB.matchesNow
  generalize hnow : s.matchesNow F (s.guarded F) = now at hrun hmatch
  have mem (h : HeldStore) := mem_stores (s := s) (F := F) (now := now) (h := h)
  rw [storeAll_released hplain fun h hh => by obtain ⟨tid, ht, rfl⟩ := mem h hh; exact ht,
    foldl_performStore_apart _ _ (fun h hh => by obtain ⟨tid, ht, rfl⟩ := mem h hh; exact ⟨rfl, fun sc hsc => relScope_lt hrel hsc⟩)
      (fun h hh => by
        obtain ⟨tid, ht, rfl⟩ := mem h hh
        rw [Bool.eq_false_iff, ne_eq, hB.clashes ht]
        rintro ⟨v, hne, a, b, c, hb, hc⟩
        exact hne (hapart tid v a b c hb hc))] at hrun
  have unmatched (tid : Nat) (ht : tid ∈ s.guarded F) (h : now = true) : s.unmatched (gidOf tid) = [] := by
    rcases hmatch.1 h with h | ⟨x, y, hne, a, b, c, hb, hc⟩
    · exact hclear h _ (mem_groupsIn.2 ⟨tid, ht, rfl⟩)
    · exact absurd (hapart x y a b c hb hc) hne
  have seen := forwarded_foldl_takes ((byLane (s.guarded F)).map (homeStore s F now)) (u := s.released F)
    (fun h hh => by
      obtain ⟨tid, ht, rfl⟩ := mem h hh
      exact hB.canTake published ht (hplain _ (mem_groupsIn.2 ⟨tid, ht, rfl⟩)) (unmatched tid ht))
    (fun h hh => by obtain ⟨tid, ht, rfl⟩ := mem h hh; rfl)
    (fun h hh x hx hgid => by
      obtain ⟨tid, ht, rfl⟩ := mem h hh
      obtain ⟨v, hv, rfl⟩ := mem x hx
      exact congrArg (fun g => now || (s.group g).shadow.isNone) hgid)
  obtain ⟨rest, group⟩ := foldl_takes_frame ((byLane (s.guarded F)).map (homeStore s F now)) (s.released F)
  generalize ((byLane (s.guarded F)).map (homeStore s F now)).foldl State.takeStore (s.released F) = w at hrun seen rest group
  refine ⟨_, hrun, wentOn_advanceAll ?_ ?_, (congrArg (fun v : State => { v with threads := (s.released F).threads }) rest :), group,
    fun tid a b hb => ?_, fun tid a hnot => ?_⟩
  · exact (congrArg State.threads rest :).trans (congrArg State.threads published.rest :)
  · exact (congrArg State.issue rest :).trans (congrArg State.issue published.rest :)
  · refine (seen tid a).trans ?_
    rw [newest_of_agree (cells := (homeStore s F now tid).bytes) (b := b), Option.some_or]
    · exact List.mem_map_of_mem (List.mem_filter.2 ⟨List.mem_map_of_mem (mem_byLane.2 hb.1), by simp [homeStore]⟩)
    · exact (hB.mem_bytes hb.1 now).2 hb
    · intro cells hcells c hc
      obtain ⟨h, hh, rfl⟩ := List.mem_map.1 hcells
      obtain ⟨hh, htid⟩ := List.mem_filter.1 hh
      obtain ⟨v, hv, rfl⟩ := mem h hh
      obtain rfl : v = tid := by simpa [homeStore] using htid
      exact hB.writes_unique ((hB.mem_bytes hv now).1 hc) hb
  · refine (seen tid a).trans ?_
    rw [newest_eq_none, Option.none_or]
    intro cells hcells c hc
    obtain ⟨h, hh, rfl⟩ := List.mem_map.1 hcells
    obtain ⟨hh, htid⟩ := List.mem_filter.1 hh
    obtain ⟨v, hv, rfl⟩ := mem h hh
    obtain rfl : v = tid := by simpa [homeStore] using htid
    exact hnot c ((hB.mem_bytes hv now).1 hc)

/-- Of stores of several groups to one byte, the highest home lane's stands in the overlay (R133). -/
theorem store_clash {i : Instr} (hwf : i.wf = true) (hF : i.fields? = some F) (hplain : ∀ g ∈ State.groupsIn (s.guarded F), (s.group g).spec = none)
    (hrel : F.releases = false ∨ F.scope < 2) {d : Nat} (hd : ∀ g ∈ State.groupsIn (s.guarded F), s.domOf g = d ∧ ((s.released F).group g).path = []) :
    ∃ t, Sys2Proof.Machine.exec i s = .next t ∧ Claims.WentOn s t ∧
      { t with threads := (s.released F).threads, groups := (s.released F).groups, domains := (s.released F).domains } = s.released F ∧
      ∀ tid a b, HomeWrites s F tid a b → (∃ v c, HomeWrites s F v a c ∧ gidOf v ≠ gidOf tid) →
        (∀ v c, HomeWrites s F v a c → v ≠ tid → laneOf v < laneOf tid) → (t.domain d).overlay.get? a = some b := by
  have published := published_released s F
  have hrun := hB.exec hwf hF
  have hmatch := hB.matchesNow
  generalize hnow : s.matchesNow F (s.guarded F) = now at hrun hmatch
  have mem (h : HeldStore) := mem_stores (s := s) (F := F) (now := now) (h := h)
  rw [storeAll_released hplain fun h hh => by obtain ⟨tid, ht, rfl⟩ := mem h hh; exact ht] at hrun
  let clash (h : HeldStore) : Bool := ((byLane (s.guarded F)).map (homeStore s F now)).any h.clashes
  have path (h : HeldStore) (hh : h ∈ (byLane (s.guarded F)).map (homeStore s F now)) : h.toPath := by
    obtain ⟨tid, ht, rfl⟩ := mem h hh
    exact ⟨rfl, fun sc hsc => relScope_lt hrel hsc⟩
  have matched (h : HeldStore) (hh : h ∈ (byLane (s.guarded F)).map (homeStore s F now)) (hc : clash h = true) : h.matched = true := by
    obtain ⟨tid, ht, rfl⟩ := mem h hh
    obtain ⟨v, hne, hbytes⟩ := (hB.clashes ht).1 hc
    have : now = true := hmatch.2 (.inr ⟨tid, v, hne, hbytes⟩)
    show (now || _) = true
    rw [this]
    rfl
  have rest := foldl_performStore_toPath_frame _ clash path matched (s.released F)
  have overlay (a : Nat) := clashStep_foldl (a := a) (u := s.released F) (d := d) (gids := State.groupsIn (s.guarded F)) _ clash path matched
    (fun h hh => by obtain ⟨tid, ht, rfl⟩ := mem h hh; exact mem_groupsIn.2 ⟨tid, ht, rfl⟩)
  generalize hw : ((byLane (s.guarded F)).map (homeStore s F now)).foldl (fun u h => u.performStore h (clash h)) (s.released F) = w at rest overlay
  rw [show _ = w from hw] at hrun
  refine ⟨_, hrun, wentOn_advanceAll ?_ ?_, (congrArg (fun v : State => { v with threads := (s.released F).threads }) rest :), fun tid a b hb hother hlast => ?_⟩
  · exact (congrArg State.threads rest :).trans (congrArg State.threads published.rest :)
  · exact (congrArg State.issue rest :).trans (congrArg State.issue published.rest :)
  · obtain ⟨v, c, hv, hne⟩ := hother
    have clashing {x : Nat} {e : Byte} (hx : HomeWrites s F x a e) : clash (homeStore s F now x) = true := by
      refine (hB.clashes hx.1).2 ?_
      by_cases hxv : gidOf x = gidOf v
      · exact ⟨tid, fun h => hne (hxv.symm.trans h), a, e, b, hx, hb⟩
      · exact ⟨v, hxv, a, e, c, hx, hv⟩
    refine (overlay a (fun h hh hfree e he => ?_) (fun g hg => ?_) fun g hg p hp => ?_).trans ?_
    · obtain ⟨x, hx, rfl⟩ := mem h hh
      rw [clashing ((hB.mem_bytes hx now).1 he)] at hfree
      cases hfree
    · exact ((congrArg (fun x : Group => State.domOfCore x.core) (published.group g) :)).trans (hd g hg).1
    · rw [(hd g hg).2] at hp
      cases hp
    · obtain ⟨pre, post, hsplit⟩ := List.append_of_mem (mem_byLane.2 hb.1)
      have sorted := hsplit ▸ byLane_sorted (s.guarded F)
      have distinct := hsplit ▸ byLane_nodup (guarded_nodup hB.nodup F)
      have after (x : Nat) (hx : x ∈ post) : x ≠ tid ∧ laneOf tid ≤ laneOf x :=
        ⟨fun h => (List.nodup_cons.1 (List.nodup_append.1 distinct).2.1).1 (h ▸ hx), (List.pairwise_cons.1 (List.pairwise_append.1 sorted).2.1).1 x hx⟩
      rw [hsplit, List.map_append, List.map_cons, List.filter_append, List.filter_cons, if_pos (clashing hb), List.map_append, List.map_cons,
        newest_of_last (b := b), Option.some_or]
      · exact (hB.mem_bytes hb.1 now).2 hb
      · exact fun e he => hB.writes_unique ((hB.mem_bytes hb.1 now).1 he) hb
      · intro cells hcells e he
        obtain ⟨h, hh, rfl⟩ := List.mem_map.1 hcells
        obtain ⟨x, hx, rfl⟩ := List.mem_map.1 (List.mem_filter.1 hh).1
        have hxg : x ∈ s.guarded F := mem_byLane.1 (by rw [hsplit]; exact List.mem_append_right _ (List.mem_cons_of_mem _ hx))
        obtain ⟨hne, hle⟩ := after x hx
        have := hlast x e ((hB.mem_bytes hxg now).1 he) hne
        omega

/-- The stores of speculating groups (R178). -/
theorem store_specs {i : Instr} (hwf : i.wf = true) (hF : i.fields? = some F) (hspec : ∀ g ∈ State.groupsIn (s.guarded F), (s.group g).spec.isSome) :
    ∃ t, Sys2Proof.Machine.exec i s = .next t ∧ Claims.WentOn s t ∧ { t with threads := s.threads, groups := s.groups } = s ∧
      (∀ gid, { t.group gid with spec := (s.group gid).spec } = s.group gid) ∧
      (∀ tid v a b, gidOf v = gidOf tid → HomeWrites s F tid a b → (∀ w c, w ≠ tid → ¬ HomeWrites s F w a c) → t.forwarded v a = some b) ∧
      ∀ v a, (∀ w b, gidOf w = gidOf v → ¬ HomeWrites s F w a b) → t.forwarded v a = s.forwarded v a := by
  have hrun := hB.exec hwf hF
  generalize hnow : s.matchesNow F (s.guarded F) = now at hrun
  have mem (h : HeldStore) := mem_stores (s := s) (F := F) (now := now) (h := h)
  have home (h : HeldStore) (hh : h ∈ (byLane (s.guarded F)).map (homeStore s F now)) : h.spad = none := by
    obtain ⟨tid, ht, rfl⟩ := mem h hh
    rfl
  have specs (h : HeldStore) (hh : h ∈ (byLane (s.guarded F)).map (homeStore s F now)) : (s.group (gidOf h.tid)).spec.isSome := by
    obtain ⟨tid, ht, rfl⟩ := mem h hh
    exact hspec _ (mem_groupsIn.2 ⟨tid, ht, rfl⟩)
  rw [releaseFor_specs hspec, storeAll_of_specs specs] at hrun
  have seen := forwarded_foldl_holdStore _ home specs
  obtain ⟨rest, group⟩ := foldl_holdStore_frame _ home s
  generalize ((byLane (s.guarded F)).map (homeStore s F now)).foldl State.holdStore s = w at hrun seen rest group
  refine ⟨_, hrun, wentOn_advanceAll (congrArg State.threads rest :) (congrArg State.issue rest :),
    (congrArg (fun v : State => { v with threads := s.threads }) rest :), group, fun tid v a b hgid hb hone => ?_, fun v a hnot => ?_⟩
  · refine (seen v a).trans ?_
    rw [newest_of_agree (cells := (homeStore s F now tid).bytes) (b := b), Option.some_or]
    · exact List.mem_map_of_mem (List.mem_filter.2 ⟨List.mem_map_of_mem (mem_byLane.2 hb.1), by simp [homeStore, hgid]⟩)
    · exact (hB.mem_bytes hb.1 now).2 hb
    · intro cells hcells c hc
      obtain ⟨h, hh, rfl⟩ := List.mem_map.1 hcells
      obtain ⟨x, hx, rfl⟩ := mem h (List.mem_filter.1 hh).1
      have hc := (hB.mem_bytes hx now).1 hc
      by_cases hxt : x = tid
      · subst hxt
        exact hB.writes_unique hc hb
      · exact absurd hc (hone x c hxt)
  · refine (seen v a).trans ?_
    rw [newest_eq_none, Option.none_or]
    intro cells hcells c hc
    obtain ⟨h, hh, rfl⟩ := List.mem_map.1 hcells
    obtain ⟨hh, hgid⟩ := List.mem_filter.1 hh
    obtain ⟨x, hx, rfl⟩ := mem h hh
    exact hnot x c (by simpa [homeStore] using hgid) ((hB.mem_bytes hx now).1 hc)

/-- A store with a release at gang or wider (R261, R269). -/
theorem store_home {i : Instr} (hwf : i.wf = true) (hF : i.fields? = some F) (hplain : ∀ g ∈ State.groupsIn (s.guarded F), (s.group g).spec = none)
    (hrel : F.releases = true) (hscope : 2 ≤ F.scope) :
    let u := s.publishAll (State.groupsIn (s.guarded F)) F.scope
    ∃ t, Sys2Proof.Machine.exec i s = .next t ∧ Claims.WentOn s t ∧
      { t with threads := u.threads, hbm := u.hbm, domains := u.domains, poison := u.poison, mirrors := u.mirrors, used := u.used } = u ∧
      (∀ tid a b, HomeWrites s F tid a b → (∀ v c, v ≠ tid → ¬ HomeWrites s F v a c) → t.homeByte a = b) ∧
      (∀ a, (∀ v c, ¬ HomeWrites s F v a c) → t.homeByte a = u.homeByte a) ∧
      ∀ d, (t.domain d).overlay = (u.domain d).overlay := by
  intro u
  have published := published_released s F
  have hrun := hB.exec hwf hF
  have hnow : s.matchesNow F (s.guarded F) = true := hB.matchesNow.2 (.inl hrel)
  have hu : s.released F = u := if_pos hrel
  rw [hnow, storeAll_released hplain fun h hh => by obtain ⟨tid, ht, rfl⟩ := mem_stores hh; exact ht, hu] at hrun
  rw [hu] at published
  obtain ⟨rest, home, overlay⟩ := foldl_toHome ((byLane (s.guarded F)).map (homeStore s F true)) (fun h hh => by
      obtain ⟨tid, ht, rfl⟩ := mem_stores hh
      exact ⟨rfl, rfl, F.scope, if_pos hrel, hscope⟩) (fun h => ((byLane (s.guarded F)).map (homeStore s F true)).any h.clashes) u
  generalize ((byLane (s.guarded F)).map (homeStore s F true)).foldl (fun u h =>
    u.performStore h (((byLane (s.guarded F)).map (homeStore s F true)).any h.clashes)) u = w at hrun rest home overlay
  refine ⟨_, hrun, wentOn_advanceAll ?_ ?_, (congrArg (fun v : State => { v with threads := u.threads }) rest :), fun tid a b hb hone => ?_,
    fun a hnot => ?_, overlay⟩
  · exact (congrArg State.threads rest :).trans (congrArg State.threads published.rest :)
  · exact (congrArg State.issue rest :).trans (congrArg State.issue published.rest :)
  · refine (home a).trans ?_
    rw [newest_of_agree (cells := (homeStore s F true tid).bytes) (b := b), Option.getD_some]
    · exact List.mem_map_of_mem (List.mem_map_of_mem (mem_byLane.2 hb.1))
    · exact (hB.mem_bytes hb.1 true).2 hb
    · intro cells hcells c hc
      obtain ⟨h, hh, rfl⟩ := List.mem_map.1 hcells
      obtain ⟨x, hx, rfl⟩ := mem_stores hh
      have hc := (hB.mem_bytes hx true).1 hc
      by_cases hxt : x = tid
      · subst hxt
        exact hB.writes_unique hc hb
      · exact absurd hc (hone x c hxt)
  · refine (home a).trans ?_
    rw [newest_eq_none, Option.getD_none]
    intro cells hcells c hc
    obtain ⟨h, hh, rfl⟩ := List.mem_map.1 hcells
    obtain ⟨x, hx, rfl⟩ := mem_stores hh
    exact hnot x c ((hB.mem_bytes hx true).1 hc)

end HomeBundle

end Machine
end Sys2Proof
end

section
/-! PROOFS. STS (06 R131 to R133, R135, 15 R265, R268, 11 R193, 21 R385), and the statement of the stores. -/

namespace Sys2Proof
namespace Machine

open Sys2Proof.Safety

/-! What a thread reads of a scratchpad, by the lists of its group. -/

/-- The bytes of stores to a team's scratchpad, not held, that a group's thread `tid` reads before the scratchpad (R193, R265). -/
def Group.ownSpad (g : Group) (tid team : Nat) : List (List Host.Cell) :=
  (g.spadPath.filter (fun p => (p.tid == tid || p.tag == 0) && p.team == team)).map SpadStore.bytes ++
    (g.waiting.filter (fun h => (h.tid == tid || h.shared) && decide (h.spad = some team))).map HeldStore.bytes

theorem spadByte_plain {s : State} {tid : Nat} (h : (s.group (gidOf tid)).spec = none) (team o : Nat) : s.spadByte tid team o =
    (State.newest ((s.group (gidOf tid)).ownSpad tid team) o).getD ((s.team team).spad.getD o 0) := by
  unfold State.spadByte Group.ownSpad
  rw [unmatched_eq]
  dsimp only
  rw [h]
  dsimp only
  generalize State.newest _ o = b
  cases b <;> rfl

/-- A group once a relaxed scratchpad store is on its way, or awaits its match; `own`: it goes to the group's compaction buffer (R193, R265, R385). -/
def Group.takesPad (own : Bool) (h : HeldStore) (g : Group) : Group :=
  if h.matched then { g with spadPath := g.spadPath ++ [⟨h.tid, h.spad.getD 0, h.bytes, if own then 0 else h.tag⟩] }
  else { g with shadow := g.shadow.map (fun sh => { sh with buffer := sh.buffer ++ [h] }) }

theorem Group.takesPad_frame (own : Bool) (h : HeldStore) (g : Group) : { g.takesPad own h with spadPath := g.spadPath, shadow := g.shadow } = g := by
  unfold Group.takesPad
  split <;> rfl

/-- Which threads of its group read a store before the scratchpad: the one that stores, and all where it goes to the compaction buffer. -/
def HeldStore.readBy (h : HeldStore) (own : Bool) (tid team : Nat) : Bool := decide (h.spad = some team) && (h.tid == tid || (h.matched && own))

theorem ownSpad_takesPad {g : Group} {h : HeldStore} {own : Bool} (hspad : h.spad.isSome) (htag : h.tag ≠ 0) (hshared : h.shared = false)
    (hclear : h.matched = true → g.waiting = []) (hshadow : h.matched = false → g.shadow.isSome) (tid team : Nat) :
    (g.takesPad own h).ownSpad tid team = g.ownSpad tid team ++ (if h.readBy own tid team then [h.bytes] else []) := by
  obtain ⟨k, hk⟩ := Option.isSome_iff_exists.1 hspad
  cases hm : h.matched with
  | true =>
    have takes : g.takesPad own h = { g with spadPath := g.spadPath ++ [⟨h.tid, k, h.bytes, if own then 0 else h.tag⟩] } := by
      rw [Group.takesPad, if_pos hm, hk]
      rfl
    have waiting : (g.takesPad own h).waiting = [] := by rw [takes]; exact hclear hm
    have path : (g.takesPad own h).spadPath = g.spadPath ++ [⟨h.tid, k, h.bytes, if own then 0 else h.tag⟩] := by rw [takes]
    unfold Group.ownSpad HeldStore.readBy
    rw [waiting, path, hclear hm, hk, hm]
    by_cases ht : h.tid = tid <;> by_cases hkt : k = team <;> cases own <;> simp [ht, hkt, htag]
  | false =>
    obtain ⟨sh, hsh⟩ := Option.isSome_iff_exists.1 (hshadow hm)
    have takes : g.takesPad own h = { g with shadow := some { sh with buffer := sh.buffer ++ [h] } } := by
      rw [Group.takesPad, if_neg (by simp [hm]), hsh]
      rfl
    have waiting : (g.takesPad own h).waiting = g.waiting ++ [h] := by rw [takes, Group.waiting, Group.waiting, hsh]; rfl
    have path : (g.takesPad own h).spadPath = g.spadPath := by rw [takes]
    unfold Group.ownSpad HeldStore.readBy
    rw [waiting, path, hm]
    by_cases ht : h.tid = tid <;> by_cases hkt : h.spad = some team <;> simp [ht, hkt, hshared]

/-- Does a store go to its group's compaction buffer (R193)? -/
def State.toBuffer (u : State) (h : HeldStore) : Bool := u.inBuffer (gidOf h.tid) (h.spad.getD 0) h.bytes

/-- A relaxed scratchpad store that does not clash. -/
def State.takePad (u : State) (h : HeldStore) : State :=
  (if h.matched && u.toBuffer h then u.dropAhead (gidOf h.tid) (h.spad.getD 0) h.bytes else u).modGroup (gidOf h.tid) (Group.takesPad (u.toBuffer h) h)

/-- Is a store relaxed, to a scratchpad, and its thread's own? -/
def HeldStore.toPad (h : HeldStore) : Prop := h.spad.isSome ∧ h.rel = none ∧ h.shared = false

theorem performStore_toPad (u : State) {h : HeldStore} (hpad : h.toPad) : u.performStore h false = u.takePad h := by
  obtain ⟨hspad, hrel, hshared⟩ := hpad
  obtain ⟨k, hk⟩ := Option.isSome_iff_exists.1 hspad
  cases hm : h.matched with
  | false =>
    have takes : Group.takesPad (u.toBuffer h) h = fun g => { g with shadow := g.shadow.map (fun sh => { sh with buffer := sh.buffer ++ [h] }) } :=
      funext fun g => if_neg (by simp [hm])
    rw [State.takePad, takes, State.performStore, hm]
    rfl
  | true =>
    have takes : Group.takesPad (u.toBuffer h) h = fun g => { g with
        spadPath := g.spadPath ++ [⟨h.tid, k, h.bytes, if u.toBuffer h then 0 else h.tag⟩] } :=
      funext fun g => (if_pos hm).trans (by rw [hk]; rfl)
    have buffer : u.toBuffer h = u.inBuffer (gidOf h.tid) k h.bytes := by rw [State.toBuffer, hk]; rfl
    rw [State.takePad, takes, buffer, State.performStore, hm, hk]
    dsimp only
    rw [if_neg (by decide), hrel, if_neg (by decide), if_neg (by decide), State.onPath, hk]
    dsimp only
    rw [hshared, Bool.false_or, Bool.true_and]
    rfl

/-- What relaxed scratchpad stores leave as it was. -/
structure PadStep (u t : State) : Prop where
  rest : { t with groups := u.groups, ahead := u.ahead } = u
  group : ∀ gid, { t.group gid with spadPath := (u.group gid).spadPath, shadow := (u.group gid).shadow } = u.group gid
  fewer : ∀ e ∈ t.ahead, e ∈ u.ahead
  keeps : ∀ e ∈ u.ahead, (u.group (gidOf e.tid)).gen = none → e ∈ t.ahead

namespace PadStep

variable {u v t : State}

theorem refl (u : State) : PadStep u u := ⟨rfl, fun _ => rfl, fun _ h => h, fun _ h _ => h⟩

theorem gen (h : PadStep u t) (gid : Nat) : (t.group gid).gen = (u.group gid).gen := (congrArg Group.gen (h.group gid) :)

theorem trans (h : PadStep u v) (k : PadStep v t) : PadStep u t where
  rest := (congrArg (fun w : State => { w with groups := u.groups, ahead := u.ahead }) k.rest :).trans h.rest
  group := fun gid => (congrArg (fun g : Group => { g with spadPath := (u.group gid).spadPath, shadow := (u.group gid).shadow }) (k.group gid) :).trans
    (h.group gid)
  fewer := fun e he => h.fewer e (k.fewer e he)
  keeps := fun e he hg => k.keeps e (h.keeps e he hg) ((h.gen _).trans hg)

theorem toBuffer (h : PadStep u t) (x : HeldStore) : t.toBuffer x = u.toBuffer x := by
  have teams : t.teams = u.teams := (congrArg State.teams h.rest :)
  simp only [State.toBuffer, State.inBuffer, State.spadTeam, State.team, h.gen, teams]
  rfl

end PadStep

theorem padStep_takePad (u : State) (h : HeldStore) : PadStep u (u.takePad h) := by
  have framed (gid : Nat) : { (u.modGroup (gidOf h.tid) (Group.takesPad (u.toBuffer h) h)).group gid with
      spadPath := (u.group gid).spadPath, shadow := (u.group gid).shadow } = u.group gid := by
    let rest (g : Group) : Group := { g with spadPath := (u.group gid).spadPath, shadow := (u.group gid).shadow }
    have takes (g : Group) : rest (g.takesPad (u.toBuffer h) h) = rest g := (congrArg rest (g.takesPad_frame (u.toBuffer h) h) :)
    exact Tab.getD_modify_congr (f := Group.takesPad (u.toBuffer h) h) rest takes u.groups (gidOf h.tid) gid Group.blank
  unfold State.takePad
  split
  · next hown =>
    refine ⟨rfl, framed, fun e he => (List.mem_filter.1 he).1, fun e he hgen => List.mem_filter.2 ⟨he, ?_⟩⟩
    by_cases hgid : gidOf e.tid = gidOf h.tid
    · have : u.toBuffer h = false := by
        unfold State.toBuffer State.inBuffer
        rw [← hgid, hgen]
      rw [this, Bool.and_false] at hown
      cases hown
    · simp [hgid]
  · exact ⟨rfl, framed, fun e he => he, fun e he _ => he⟩

/-- The storing thread reads the bytes of its store, of the compaction buffer all threads of its group, and every thread what it read else. -/
theorem spadByte_takePad {u : State} {h : HeldStore} (hcan : u.CanTake h) (hspad : h.spad.isSome) {tid : Nat} (hplain : (u.group (gidOf tid)).spec = none)
    (team o : Nat) : (u.takePad h).spadByte tid team o =
      (if gidOf h.tid = gidOf tid ∧ h.readBy (u.toBuffer h) tid team then newestOver o none h.bytes else none).getD (u.spadByte tid team o) := by
  obtain ⟨there, plain, clear, shadowed, tag, own⟩ := hcan
  have group : (u.takePad h).group (gidOf tid) = if gidOf tid = gidOf h.tid then (u.group (gidOf h.tid)).takesPad (u.toBuffer h) h else u.group (gidOf tid) := by
    unfold State.takePad
    split
    · exact group_modGroup (u.dropAhead _ _ _) (gidOf h.tid) _ there (gidOf tid)
    · exact group_modGroup u (gidOf h.tid) _ there (gidOf tid)
  have step := padStep_takePad u h
  have team_ : (u.takePad h).team team = u.team team := by
    rw [State.team, State.team, (congrArg State.teams step.rest :)]
  have plain' : ((u.takePad h).group (gidOf tid)).spec = none := (congrArg Group.spec (step.group (gidOf tid)) :).trans hplain
  rw [spadByte_plain hplain, spadByte_plain plain', team_, group]
  by_cases hgid : gidOf tid = gidOf h.tid
  · rw [if_pos hgid, hgid, ownSpad_takesPad hspad tag own clear shadowed, newest_append, Option.getD_or]
    by_cases hr : h.readBy (u.toBuffer h) tid team
    · rw [if_pos hr, if_pos ⟨rfl, hr⟩]
      rfl
    · rw [if_neg hr, if_neg fun h => hr h.2]
      rfl
  · rw [if_neg hgid, if_neg fun h => hgid h.1.symm]
    rfl

theorem canTake_takePad {u : State} {h x : HeldStore} (hcan : u.CanTake h) (hx : u.CanTake x)
    (halike : gidOf x.tid = gidOf h.tid → x.matched = h.matched) : (u.takePad h).CanTake x := by
  have group : (u.takePad h).group (gidOf x.tid) =
      if gidOf x.tid = gidOf h.tid then (u.group (gidOf h.tid)).takesPad (u.toBuffer h) h else u.group (gidOf x.tid) := by
    unfold State.takePad
    split
    · exact group_modGroup (u.dropAhead _ _ _) (gidOf h.tid) _ hcan.there (gidOf x.tid)
    · exact group_modGroup u (gidOf h.tid) _ hcan.there (gidOf x.tid)
  have there : ((u.takePad h).groups.get? (gidOf x.tid)).isSome := by
    have groups : (u.takePad h).groups = u.groups.modify (gidOf h.tid) (Group.takesPad (u.toBuffer h) h) := by
      unfold State.takePad
      split <;> rfl
    rw [groups, Tab.get?_modify]
    split
    · simpa using hx.there
    · exact hx.there
  by_cases hgid : gidOf x.tid = gidOf h.tid
  · rw [if_pos hgid, show u.group (gidOf h.tid) = u.group (gidOf x.tid) by rw [hgid]] at group
    refine ⟨there, ?_, fun hm => ?_, fun hm => ?_, hx.tag, hx.own⟩
    · exact (congrArg Group.spec ((padStep_takePad u h).group (gidOf x.tid)) :).trans hx.plain
    · have same : ((u.group (gidOf x.tid)).takesPad (u.toBuffer h) h).shadow = (u.group (gidOf x.tid)).shadow := by
        rw [Group.takesPad, if_pos (by rw [← halike hgid, hm])]
      rw [group, Group.waiting, same]
      exact hx.clear hm
    · rw [group, Group.takesPad, if_neg (by rw [← halike hgid, hm]; decide)]
      simpa using hx.shadowed hm
  · rw [if_neg hgid] at group
    exact ⟨there, by rw [group]; exact hx.plain, fun hm => by rw [group]; exact hx.clear hm, fun hm => by rw [group]; exact hx.shadowed hm, hx.tag, hx.own⟩

theorem padStep_foldl (hs : List HeldStore) (u : State) : PadStep u (hs.foldl State.takePad u) := by
  induction hs generalizing u with
  | nil => exact .refl u
  | cons h hs ih => exact (padStep_takePad u h).trans (ih _)

/-- What a thread reads after several relaxed scratchpad stores that do not clash. -/
theorem spadByte_foldl_takePad (hs : List HeldStore) {u s : State} (hsame : ∀ h ∈ hs, u.toBuffer h = s.toBuffer h) (hcan : ∀ h ∈ hs, u.CanTake h)
    (hspad : ∀ h ∈ hs, h.spad.isSome) (halike : ∀ h ∈ hs, ∀ x ∈ hs, gidOf x.tid = gidOf h.tid → x.matched = h.matched) {tid : Nat}
    (hplain : (u.group (gidOf tid)).spec = none) (team o : Nat) : (hs.foldl State.takePad u).spadByte tid team o =
      (State.newest ((hs.filter (fun h => decide (gidOf h.tid = gidOf tid) && h.readBy (s.toBuffer h) tid team)).map HeldStore.bytes) o).getD
        (u.spadByte tid team o) := by
  induction hs generalizing u with
  | nil => rfl
  | cons h hs ih =>
    have hh := hcan h List.mem_cons_self
    have step := padStep_takePad u h
    rw [List.foldl_cons, ih (fun x hx => (step.toBuffer x).trans (hsame x (List.mem_cons_of_mem _ hx)))
      (fun x hx => canTake_takePad hh (hcan x (List.mem_cons_of_mem _ hx)) (halike h List.mem_cons_self x (List.mem_cons_of_mem _ hx)))
      (fun x hx => hspad x (List.mem_cons_of_mem _ hx)) (fun x hx y hy => halike x (List.mem_cons_of_mem _ hx) y (List.mem_cons_of_mem _ hy))
      ((congrArg Group.spec (step.group (gidOf tid)) :).trans hplain),
      spadByte_takePad hh (hspad h List.mem_cons_self) hplain, hsame h List.mem_cons_self, ← Option.getD_or, List.filter_cons]
    by_cases hr : gidOf h.tid = gidOf tid ∧ h.readBy (s.toBuffer h) tid team
    · rw [if_pos hr, if_pos (by simpa using hr), List.map_cons, newest_cons]
      rfl
    · rw [if_neg hr, if_neg (by simpa using hr), Option.or_none]

/-- A group none of whose threads stores stays as it was. -/
theorem group_foldl_takePad (hs : List HeldStore) {gid : Nat} (hnot : ∀ h ∈ hs, gidOf h.tid ≠ gid) (u : State) :
    (hs.foldl State.takePad u).group gid = u.group gid := by
  induction hs generalizing u with
  | nil => rfl
  | cons h hs ih =>
    refine (ih (fun x hx => hnot x (List.mem_cons_of_mem _ hx)) _).trans ?_
    have groups : (u.takePad h).groups = u.groups.modify (gidOf h.tid) (Group.takesPad (u.toBuffer h) h) := by
      unfold State.takePad
      split <;> rfl
    rw [State.group, State.group, Tab.getD, Tab.getD, groups, Tab.get?_modify, if_neg (Ne.symm (hnot h List.mem_cons_self))]

theorem foldl_performPad_apart (hs : List HeldStore) (clash : HeldStore → Bool) (hpad : ∀ h ∈ hs, h.toPad) (hapart : ∀ h ∈ hs, clash h = false)
    (u : State) : hs.foldl (fun u h => u.performStore h (clash h)) u = hs.foldl State.takePad u := by
  induction hs generalizing u with
  | nil => rfl
  | cons h hs ih =>
    rw [List.foldl_cons, List.foldl_cons, hapart h List.mem_cons_self, performStore_toPad u (hpad h List.mem_cons_self)]
    exact ih (fun x hx => hpad x (List.mem_cons_of_mem _ hx)) (fun x hx => hapart x (List.mem_cons_of_mem _ hx)) _

/-! Bytes that stand in a scratchpad. -/

/-- Byte `o` of team `k`'s scratchpad after bytes were written to that of team `j`. -/
theorem spad_modify_stored (teams : Tab Team) (j : Nat) (cells : List Host.Cell) {k : Nat} (hk : (teams.get? k).isSome) (o : Nat) :
    ((teams.modify j (Team.stored cells)).getD k Team.blank).spad.getD o 0 =
      (if j = k then newestOver o none cells else none).getD ((teams.getD k Team.blank).spad.getD o 0) := by
  obtain ⟨t, ht⟩ := Option.isSome_iff_exists.1 hk
  simp only [Tab.getD, Tab.get?_modify]
  by_cases hj : j = k
  · subst hj
    rw [if_pos rfl, if_pos rfl, ht]
    exact getD_foldl_putD_cells cells t.spad o
  · rw [if_neg (Ne.symm hj), if_neg hj]
    rfl

theorem isSome_modify {teams : Tab Team} {k : Nat} (hk : (teams.get? k).isSome) (j : Nat) (f : Team → Team) : ((teams.modify j f).get? k).isSome := by
  rw [Tab.get?_modify]
  split
  · simpa using hk
  · exact hk

theorem spadWrites_free (ps : List SpadStore) {teams : Tab Team} {k o : Nat} (hk : (teams.get? k).isSome)
    (hfree : ∀ p ∈ ps, p.team = k → ∀ b, (o, b) ∉ p.bytes) :
    ((spadWrites ps teams).get? k).isSome ∧
      ((spadWrites ps teams).getD k Team.blank).spad.getD o 0 = (teams.getD k Team.blank).spad.getD o 0 := by
  induction ps generalizing teams with
  | nil => exact ⟨hk, rfl⟩
  | cons p ps ih =>
    obtain ⟨there, same⟩ := ih (isSome_modify hk p.team (Team.stored p.bytes)) fun q hq => hfree q (List.mem_cons_of_mem _ hq)
    refine ⟨there, same.trans ?_⟩
    rw [spad_modify_stored teams p.team p.bytes hk o]
    split
    · next hp =>
      cases hn : newestOver o none p.bytes with
      | none => rfl
      | some b => exact absurd (mem_of_newestOver hn) (hfree p List.mem_cons_self hp b)
    · rfl

/-- A scratchpad store that clashes follows its group's earlier ones (R133). -/
theorem performStore_padClash (u : State) {h : HeldStore} (hpad : h.toPad) (hm : h.matched = true) : u.performStore h true =
    { u with
      teams := (spadWrites (u.group (gidOf h.tid)).spadPath u.teams).modify (h.spad.getD 0) (Team.stored h.bytes)
      groups := u.groups.modify (gidOf h.tid) (fun g => { g with spadPath := [] }) } := by
  obtain ⟨hspad, hrel, -⟩ := hpad
  obtain ⟨k, hk⟩ := Option.isSome_iff_exists.1 hspad
  rw [State.performStore, hm, hk]
  dsimp only
  rw [if_neg (by decide), hrel, if_neg (by decide), if_pos rfl, drainSpad_eq]
  rfl

/-- No relaxed store of one of some groups to team `k`'s scratchpad holds byte `o`. -/
def State.SpadFree (u : State) (gids : List Nat) (k o : Nat) : Prop := ∀ g ∈ gids, ∀ p ∈ (u.group g).spadPath, p.team = k → ∀ b, (o, b) ∉ p.bytes

/-- What one scratchpad store of an issue does to a byte that no relaxed store of its groups holds. -/
structure PadClash (u t : State) (gids : List Nat) (k o : Nat) (cells : List Host.Cell) (hits : Bool) : Prop where
  rest : { t with groups := u.groups, teams := u.teams, ahead := u.ahead } = u
  free : t.SpadFree gids k o
  there : (t.teams.get? k).isSome
  spad : (t.team k).spad.getD o 0 = (if hits then newestOver o none cells else none).getD ((u.team k).spad.getD o 0)

theorem padClash_performStore {u : State} {gids : List Nat} {k o : Nat} {h : HeldStore} {clash : Bool} (hpad : h.toPad)
    (hm : clash = true → h.matched = true) (hgid : gidOf h.tid ∈ gids) (hk : (u.teams.get? k).isSome) (hfree : u.SpadFree gids k o)
    (hcells : clash = false → h.spad = some k → ∀ b, (o, b) ∉ h.bytes) :
    PadClash u (u.performStore h clash) gids k o h.bytes (clash && decide (h.spad = some k)) := by
  obtain ⟨j, hj⟩ := Option.isSome_iff_exists.1 hpad.1
  cases clash with
  | false =>
    rw [performStore_toPad u hpad]
    have step := padStep_takePad u h
    have teams : (u.takePad h).teams = u.teams := (congrArg State.teams step.rest :)
    refine ⟨(congrArg (fun v : State => { v with teams := u.teams }) step.rest :), fun g hg p hp hpk b hb => ?_, by rw [teams]; exact hk, ?_⟩
    · have groups : (u.takePad h).group g = (u.modGroup (gidOf h.tid) (Group.takesPad (u.toBuffer h) h)).group g := by
        unfold State.takePad
        split <;> rfl
      rw [groups] at hp
      rcases group_modGroup_cases u (gidOf h.tid) (Group.takesPad (u.toBuffer h) h) g with e | ⟨-, e⟩
      · rw [e] at hp
        exact hfree g hg p hp hpk b hb
      · rw [e] at hp
        unfold Group.takesPad at hp
        split at hp
        · rcases List.mem_append.1 hp with hp | hp
          · exact hfree g hg p hp hpk b hb
          · obtain rfl := List.mem_singleton.1 hp
            rw [hj] at hpk
            exact hcells rfl (hj.trans (congrArg some hpk)) b hb
        · exact hfree g hg p hp hpk b hb
    · rw [State.team, teams, Bool.false_and]
      rfl
  | true =>
    rw [performStore_padClash u hpad (hm rfl)]
    obtain ⟨there, same⟩ := spadWrites_free (u.group (gidOf h.tid)).spadPath (o := o) hk (hfree _ hgid)
    refine ⟨rfl, fun g hg p hp hpk b hb => ?_, isSome_modify there _ _, ?_⟩
    · rcases group_modGroup_cases u (gidOf h.tid) (fun g => { g with spadPath := [] }) g with e | ⟨-, e⟩
      · exact hfree g hg p (by rw [← e]; exact hp) hpk b hb
      · have hp : p ∈ ((u.modGroup (gidOf h.tid) (fun g => { g with spadPath := [] })).group g).spadPath := hp
        rw [e] at hp
        cases hp
    · refine (spad_modify_stored _ _ _ there o).trans ?_
      rw [same, hj, Bool.true_and]
      by_cases hjk : j = k
      · simp only [Option.getD_some, hjk, if_true, decide_true]
        rfl
      · simp only [Option.getD_some, hjk, if_false, Option.some.injEq, decide_false, Bool.false_eq_true]
        rfl

theorem padClash_foldl (hs : List HeldStore) (clash : HeldStore → Bool) {gids : List Nat} {k o : Nat} (hpad : ∀ h ∈ hs, h.toPad)
    (hm : ∀ h ∈ hs, clash h = true → h.matched = true) (hgid : ∀ h ∈ hs, gidOf h.tid ∈ gids)
    (hcells : ∀ h ∈ hs, clash h = false → h.spad = some k → ∀ b, (o, b) ∉ h.bytes) {u : State} (hk : (u.teams.get? k).isSome)
    (hfree : u.SpadFree gids k o) : ((hs.foldl (fun u h => u.performStore h (clash h)) u).team k).spad.getD o 0 =
      (State.newest ((hs.filter (fun h => clash h && decide (h.spad = some k))).map HeldStore.bytes) o).getD ((u.team k).spad.getD o 0) := by
  induction hs generalizing u with
  | nil => rfl
  | cons h hs ih =>
    have hh := List.mem_cons_self (a := h) (l := hs)
    obtain ⟨-, free, there, spad⟩ := padClash_performStore (hpad h hh) (hm h hh) (hgid h hh) hk hfree (hcells h hh)
    rw [List.foldl_cons, ih (fun x hx => hpad x (List.mem_cons_of_mem _ hx)) (fun x hx => hm x (List.mem_cons_of_mem _ hx))
      (fun x hx => hgid x (List.mem_cons_of_mem _ hx)) (fun x hx => hcells x (List.mem_cons_of_mem _ hx)) there free, spad, ← Option.getD_or,
      List.filter_cons]
    cases clash h && decide (h.spad = some k) with
    | true => rw [if_pos rfl, if_pos rfl, List.map_cons, newest_cons]; rfl
    | false => rw [if_neg (by decide), if_neg (by decide), Option.or_none]

theorem foldl_performPad_frame (hs : List HeldStore) (clash : HeldStore → Bool) (hpad : ∀ h ∈ hs, h.toPad)
    (hm : ∀ h ∈ hs, clash h = true → h.matched = true) (u : State) :
    { hs.foldl (fun u h => u.performStore h (clash h)) u with groups := u.groups, teams := u.teams, ahead := u.ahead } = u := by
  induction hs generalizing u with
  | nil => rfl
  | cons h hs ih =>
    have step : { u.performStore h (clash h) with groups := u.groups, teams := u.teams, ahead := u.ahead } = u := by
      cases hc : clash h with
      | false =>
        rw [performStore_toPad u (hpad h List.mem_cons_self)]
        exact (congrArg (fun v : State => { v with teams := u.teams }) (padStep_takePad u h).rest :)
      | true => rw [performStore_padClash u (hpad h List.mem_cons_self) (hm h List.mem_cons_self hc)]
    have e := congrArg (fun v : State => { v with groups := u.groups, teams := u.teams, ahead := u.ahead })
      (ih (fun x hx => hpad x (List.mem_cons_of_mem _ hx)) (fun x hx => hm x (List.mem_cons_of_mem _ hx)) (u.performStore h (clash h)))
    exact e.trans step

/-- A scratchpad store with a release stands in the scratchpad (R268). -/
theorem performStore_padRelease (u : State) {h : HeldStore} (hspad : h.spad.isSome) (hrel : h.rel.isSome) (hm : h.matched = true) (clash : Bool) :
    u.performStore h clash = { u with teams := u.teams.modify (h.spad.getD 0) (Team.stored h.bytes) } := by
  obtain ⟨k, hk⟩ := Option.isSome_iff_exists.1 hspad
  rw [State.performStore, hm, hk]
  dsimp only
  rw [if_neg (by decide), if_pos hrel]
  rfl

theorem foldl_padRelease (hs : List HeldStore) (clash : HeldStore → Bool) (hh : ∀ h ∈ hs, h.spad.isSome ∧ h.rel.isSome ∧ h.matched = true) (u : State) :
    let t := hs.foldl (fun u h => u.performStore h (clash h)) u
    { t with teams := u.teams } = u ∧ (∀ k, { t.team k with spad := (u.team k).spad } = u.team k) ∧
      ∀ k o, (u.teams.get? k).isSome ∨ (∀ h ∈ hs, h.spad ≠ some k) → (t.team k).spad.getD o 0 =
        (State.newest ((hs.filter (fun h => decide (h.spad = some k))).map HeldStore.bytes) o).getD ((u.team k).spad.getD o 0) := by
  induction hs generalizing u with
  | nil => exact ⟨rfl, fun _ => rfl, fun _ _ _ => rfl⟩
  | cons h hs ih =>
    obtain ⟨hspad, hrel, hm⟩ := hh h List.mem_cons_self
    obtain ⟨j, hj⟩ := Option.isSome_iff_exists.1 hspad
    have step := performStore_padRelease u hspad hrel hm (clash h)
    obtain ⟨rest, team, spad⟩ := ih (fun x hx => hh x (List.mem_cons_of_mem _ hx)) (u.performStore h (clash h))
    refine ⟨?_, fun k => ?_, fun k o hk => ?_⟩
    · exact (congrArg (fun v : State => { v with teams := u.teams }) rest :).trans (by rw [step])
    · refine (congrArg (fun t : Team => { t with spad := (u.team k).spad }) (team k) :).trans ?_
      rw [step]
      exact Tab.getD_modify_congr (f := Team.stored h.bytes) (fun t : Team => { t with spad := (u.team k).spad }) (fun _ => rfl) u.teams _ k Team.blank
    · have there : ((u.performStore h (clash h)).teams.get? k).isSome ∨ (∀ h ∈ hs, h.spad ≠ some k) := by
        rw [step]
        exact hk.imp (fun hk => isSome_modify hk _ _) fun hk x hx => hk x (List.mem_cons_of_mem _ hx)
      refine (spad k o there).trans ?_
      have written : ((u.performStore h (clash h)).team k).spad.getD o 0 =
          (if h.spad = some k then newestOver o none h.bytes else none).getD ((u.team k).spad.getD o 0) := by
        rw [step, hj]
        rcases hk with hk | hk
        · exact (spad_modify_stored u.teams j h.bytes hk o).trans (by simp only [Option.some.injEq]; rfl)
        · have hne : j ≠ k := fun e => hk h List.mem_cons_self (hj.trans (congrArg some e))
          simp only [State.team, Tab.getD, Option.getD_some, Tab.get?_modify, if_neg (Ne.symm hne), Option.some.injEq, if_neg hne, Option.getD_none]
      rw [written, ← Option.getD_or, List.filter_cons]
      by_cases hs : h.spad = some k
      · rw [if_pos hs, if_pos (by simpa using hs), List.map_cons, newest_cons]
        rfl
      · rw [if_neg hs, if_neg (by simpa using hs), Option.or_none]

end Machine
end Sys2Proof
end

section
/-! PROOFS. STS of a bundle, and the statement of the stores (06 R131 to R133, R135, 15 R265, R268). -/

namespace Sys2Proof
namespace Machine

open Sys2Proof.Safety

/-- Thread `tid` of the bundle stores byte `b` at `o` of team `k`'s scratchpad (R131, R132, R135). -/
def PadWrites (s : State) (F : Fields) (tid k o : Nat) (b : Byte) : Prop :=
  tid ∈ s.guarded F ∧ ∃ p j, Claims.spadAt s F .write tid = some p ∧ p.1 = k ∧ o = p.2 + j ∧ Claims.enabled F (s.thread tid) j = true ∧
    b = Claims.storedByte F (s.group (gidOf tid)) (s.thread tid) j

/-- A bundle of stores to scratchpads that meets no fault. -/
structure PadBundle (s : State) (F : Fields) : Prop where
  maj : F.maj = 0x0F
  mn : F.mn = 3
  decodes : Calm s F State.noFault
  nodup : s.issue.threads.Nodup
  turn : s.turn ≠ 0
  pads : ∀ tid ∈ s.guarded F, (Claims.spadAt s F .write tid).isSome
  plain : ∀ tid ∈ s.guarded F, (s.group (gidOf tid)).spec = none
  groups : ∀ tid ∈ s.guarded F, (s.groups.get? (gidOf tid)).isSome
  teams : ∀ tid ∈ s.guarded F, ∀ p, Claims.spadAt s F .write tid = some p → (s.teams.get? p.1).isSome
  faultless : ∀ tid ∈ s.guarded F, spadFault F s tid (storeMask F (s.thread tid) == 0) .write = none ∧ s.storeShadow F tid = none

theorem mem_padStores {s : State} {F : Fields} {now : Bool} {h : HeldStore} (hh : h ∈ (byLane (s.guarded F)).map (padStore s F now)) :
    ∃ tid ∈ s.guarded F, padStore s F now tid = h := by
  obtain ⟨tid, ht, rfl⟩ := List.mem_map.1 hh
  exact ⟨tid, mem_byLane.1 ht, rfl⟩

namespace PadBundle

variable {s : State} {F : Fields} (hB : PadBundle s F)

include hB

theorem size {tid : Nat} (ht : tid ∈ s.guarded F) : F.size ≤ 4 := (load_fields (fieldsOk_of_decodeFault (hB.decodes tid ht).1) hB.maj).1

theorem mem_bytes {tid : Nat} (ht : tid ∈ s.guarded F) (now : Bool) {k o : Nat} {b : Byte} :
    ((padStore s F now tid).spad = some k ∧ (o, b) ∈ (padStore s F now tid).bytes) ↔ PadWrites s F tid k o b := by
  obtain ⟨p, hp⟩ := Option.isSome_iff_exists.1 (hB.pads tid ht)
  have spad : (padStore s F now tid).spad = some p.1 := by rw [padStore, hp]; rfl
  have bytes : (padStore s F now tid).bytes = storedCells F (s.group (gidOf tid)) (s.thread tid) p.2 := by rw [padStore, hp]; rfl
  rw [spad, bytes, mem_storedCells (hB.size ht), Option.some.injEq]
  constructor
  · rintro ⟨hk, j, ho, he, hb⟩
    exact ⟨ht, p, j, hp, hk, ho, he, hb⟩
  · rintro ⟨-, q, j, hq, hk, ho, he, hb⟩
    obtain rfl := Option.some.inj (hp.symm.trans hq)
    exact ⟨hk, j, ho, he, hb⟩

theorem writes_unique {tid k o : Nat} {b c : Byte} (hb : PadWrites s F tid k o b) (hc : PadWrites s F tid k o c) : b = c :=
  storedCells_unique (hB.size hb.1) ((hB.mem_bytes hb.1 false).2 hb).2 ((hB.mem_bytes hb.1 false).2 hc).2

theorem calm : Calm s F (fun tid => (spadFault F s tid (storeMask F (s.thread tid) == 0) .write).orElse (fun _ => s.storeShadow F tid)) := fun tid ht => by
  obtain ⟨hfault, hshadow⟩ := hB.faultless tid ht
  exact ⟨(hB.decodes tid ht).1, by dsimp only; rw [hfault]; exact hshadow⟩

theorem plainGids : ∀ g ∈ State.groupsIn (s.guarded F), (s.group g).spec = none := fun g hg => by
  obtain ⟨tid, ht, rfl⟩ := mem_groupsIn.1 hg
  exact hB.plain tid ht

/-- STS: the stores take effect one after another, after the release. -/
theorem exec {i : Instr} (hwf : i.wf = true) (hF : i.fields? = some F) : Sys2Proof.Machine.exec i s = .next
    ((((byLane (s.guarded F)).map (padStore s F (s.matchesNow F (s.guarded F)))).foldl (fun u h => u.performStore h
      (((byLane (s.guarded F)).map (padStore s F (s.matchesNow F (s.guarded F)))).any h.clashes)) (s.released F)).advanceAll
        (s.unguarded F ++ s.guarded F)) := by
  rw [exec_storeSpad hwf hF hB.maj hB.mn hB.calm, matchedStores_pad hB.mn hB.pads, storeAll_released hB.plainGids]
  intro h hh
  obtain ⟨tid, ht, rfl⟩ := mem_padStores hh
  exact ht

theorem clashes {now : Bool} {tid : Nat} (ht : tid ∈ s.guarded F) :
    ((byLane (s.guarded F)).map (padStore s F now)).any (padStore s F now tid).clashes = true ↔
      ∃ v, gidOf tid ≠ gidOf v ∧ ∃ k o b c, PadWrites s F tid k o b ∧ PadWrites s F v k o c := by
  rw [List.any_map, List.any_eq_true]
  constructor
  · rintro ⟨v, hv, h⟩
    have hv := mem_byLane.1 hv
    obtain ⟨hspad, hgid, o, b, c, hb, hc⟩ := (clashes_iff (x := padStore s F now tid) (y := padStore s F now v) rfl).1 h
    exact ⟨v, hgid, _, o, b, c, (hB.mem_bytes ht now).1 ⟨rfl, hb⟩, (hB.mem_bytes hv now).1 ⟨hspad.symm, hc⟩⟩
  · rintro ⟨v, hgid, k, o, b, c, hb, hc⟩
    obtain ⟨hspad, hbytes⟩ := (hB.mem_bytes ht now).2 hb
    obtain ⟨hspad', hbytes'⟩ := (hB.mem_bytes hc.1 now).2 hc
    exact ⟨v, mem_byLane.2 hc.1, (clashes_iff (x := padStore s F now tid) (y := padStore s F now v) rfl).2
      ⟨hspad.trans hspad'.symm, hgid, o, b, c, hbytes, hbytes'⟩⟩

theorem matchesNow : s.matchesNow F (s.guarded F) = true ↔
    F.releases = true ∨ ∃ x y, gidOf x ≠ gidOf y ∧ ∃ k o b c, PadWrites s F x k o b ∧ PadWrites s F y k o c := by
  have some_clash : ((byLane (s.guarded F)).map (padStore s F false)).any (fun h => ((byLane (s.guarded F)).map (padStore s F false)).any h.clashes) = true ↔
      ∃ x y, gidOf x ≠ gidOf y ∧ ∃ k o b c, PadWrites s F x k o b ∧ PadWrites s F y k o c := by
    rw [List.any_map, List.any_eq_true]
    constructor
    · rintro ⟨x, hx, h⟩
      exact ⟨x, (hB.clashes (mem_byLane.1 hx)).1 h⟩
    · rintro ⟨x, y, hgid, k, o, b, c, hb, hc⟩
      exact ⟨x, mem_byLane.2 hb.1, (hB.clashes hb.1).2 ⟨y, hgid, k, o, b, c, hb, hc⟩⟩
  have global : (F.mn == 1) = false := by simp [hB.mn]
  unfold State.matchesNow
  dsimp only
  rw [storesOf_pad hB.mn hB.pads, global, Bool.false_and, Bool.or_false, Bool.or_eq_true, some_clash]

omit hB in
/-- The store of a thread of a relaxed bundle. -/
theorem toPad {now : Bool} {tid : Nat} (hrel : F.releases = false) : (padStore s F now tid).toPad :=
  ⟨rfl, by unfold padStore relScope; rw [hrel]; rfl, rfl⟩

omit hB in
/-- Where a store writes to a scratchpad, it is to that one. -/
theorem toBuffer_padStore {u : State} {now : Bool} {tid k : Nat} (hk : (padStore s F now tid).spad = some k) :
    u.toBuffer (padStore s F now tid) = u.inBuffer (gidOf tid) k (padStore s F now tid).bytes := by
  unfold State.toBuffer
  rw [hk]
  rfl

/-- Relaxed scratchpad stores of groups that do not collide (R137, R193, R265). -/
theorem store_apart {i : Instr} (hwf : i.wf = true) (hF : i.fields? = some F) (hrel : F.releases = false)
    (hapart : ∀ x y k o b c, PadWrites s F x k o b → PadWrites s F y k o c → gidOf x = gidOf y) :
    ∃ t, Sys2Proof.Machine.exec i s = .next t ∧ Claims.WentOn s t ∧ { t with threads := s.threads, groups := s.groups, ahead := s.ahead } = s ∧
      (∀ gid, { t.group gid with spadPath := (s.group gid).spadPath, shadow := (s.group gid).shadow } = s.group gid) ∧
      (∀ e, e ∈ t.ahead → e ∈ s.ahead) ∧ (∀ e ∈ s.ahead, (s.group (gidOf e.tid)).gen = none → e ∈ t.ahead) ∧
      (∀ tid k o b, PadWrites s F tid k o b → (∀ v c, v ≠ tid → ¬ PadWrites s F v k o c) → t.spadByte tid k o = b) ∧
      (∀ tid k o b, PadWrites s F tid k o b → (s.group (gidOf tid)).gen = none → t.spadByte tid k o = b) ∧
      (∀ v tid k o b, gidOf v = gidOf tid → PadWrites s F tid k o b → (∀ w c, w ≠ tid → ¬ PadWrites s F w k o c) →
        s.inBuffer (gidOf tid) k [(o, b)] = true → (s.group (gidOf tid)).shadow = none → t.spadByte v k o = b) ∧
      ∀ tid k o, ((s.group (gidOf tid)).gen = none ∧ ∀ b, ¬ PadWrites s F tid k o b) ∨ (∀ v b, gidOf v = gidOf tid → ¬ PadWrites s F v k o b) →
        t.spadByte tid k o = s.spadByte tid k o := by
  have hrun := hB.exec hwf hF
  have hmatch := hB.matchesNow
  have hu : s.released F = s := if_neg (by rw [hrel]; decide)
  generalize hnow : s.matchesNow F (s.guarded F) = now at hrun hmatch
  have now_ : now = false := by
    rw [Bool.eq_false_iff, ne_eq, hmatch, hrel]
    rintro (h | ⟨x, y, hne, k, o, b, c, hb, hc⟩)
    · cases h
    · exact hne (hapart x y k o b c hb hc)
  have mem (h : HeldStore) := mem_padStores (s := s) (F := F) (now := now) (h := h)
  rw [hu, foldl_performPad_apart _ _ (fun h hh => by obtain ⟨tid, ht, rfl⟩ := mem h hh; exact toPad hrel)
    (fun h hh => by
      obtain ⟨tid, ht, rfl⟩ := mem h hh
      rw [Bool.eq_false_iff, ne_eq, hB.clashes ht]
      rintro ⟨v, hne, k, o, b, c, hb, hc⟩
      exact hne (hapart tid v k o b c hb hc))] at hrun
  have matched (tid : Nat) : (padStore s F now tid).matched = (s.group (gidOf tid)).shadow.isNone := by
    rw [now_]
    rfl
  have reads {tid : Nat} (hplain : (s.group (gidOf tid)).spec = none) := spadByte_foldl_takePad ((byLane (s.guarded F)).map (padStore s F now)) (u := s) (s := s)
    (fun _ _ => rfl)
    (fun h hh => by
      obtain ⟨v, hv, rfl⟩ := mem h hh
      refine ⟨hB.groups v hv, hB.plain v hv, fun hm => ?_, fun hm => ?_, hB.turn, rfl⟩
      · show (s.group (gidOf v)).waiting = []
        rw [matched, Option.isNone_iff_eq_none] at hm
        rw [Group.waiting, hm]
        rfl
      · show (s.group (gidOf v)).shadow.isSome = true
        rw [matched] at hm
        simpa using hm)
    (fun h hh => by obtain ⟨v, hv, rfl⟩ := mem h hh; rfl)
    (fun h hh x hx hgid => by
      obtain ⟨v, hv, rfl⟩ := mem h hh
      obtain ⟨w, hw, rfl⟩ := mem x hx
      rw [matched, matched]
      exact congrArg (fun g => (s.group g).shadow.isNone) hgid) hplain
  have step := padStep_foldl ((byLane (s.guarded F)).map (padStore s F now)) s
  have others {gid : Nat} := group_foldl_takePad ((byLane (s.guarded F)).map (padStore s F now)) (gid := gid) (u := s)
  generalize ((byLane (s.guarded F)).map (padStore s F now)).foldl State.takePad s = w at hrun reads step others
  -- the stores a thread reads, and what they write
  have readBy {x tid k o : Nat} {c : Byte} (hx : x ∈ s.guarded F) (hgid : gidOf x = gidOf tid)
      (hr : (padStore s F now x).readBy (s.toBuffer (padStore s F now x)) tid k = true) (hc : (o, c) ∈ (padStore s F now x).bytes) :
      PadWrites s F x k o c ∧ (x = tid ∨ (s.group (gidOf tid)).gen ≠ none) := by
    simp only [HeldStore.readBy, Bool.and_eq_true, decide_eq_true_eq, Bool.or_eq_true, beq_iff_eq] at hr
    obtain ⟨hspad, hr⟩ := hr
    refine ⟨(hB.mem_bytes hx now).1 ⟨hspad, hc⟩, hr.imp_right fun ⟨_, hbuf⟩ hgen => ?_⟩
    rw [toBuffer_padStore hspad, State.inBuffer, hgid, hgen] at hbuf
    cases hbuf
  have newest {tid k o x : Nat} {b : Byte} (hplain : (s.group (gidOf tid)).spec = none) (hb : PadWrites s F x k o b) (hgid : gidOf x = gidOf tid)
      (hr : (padStore s F now x).readBy (s.toBuffer (padStore s F now x)) tid k = true)
      (hone : ∀ y c, gidOf y = gidOf tid → (y = tid ∨ (s.group (gidOf tid)).gen ≠ none) → PadWrites s F y k o c → c = b) :
      w.spadByte tid k o = b := by
    rw [reads hplain, newest_of_agree (cells := (padStore s F now x).bytes) (b := b), Option.getD_some]
    · exact List.mem_map_of_mem (List.mem_filter.2 ⟨List.mem_map_of_mem (mem_byLane.2 hb.1), by
        rw [Bool.and_eq_true, decide_eq_true_eq]
        exact ⟨hgid, hr⟩⟩)
    · exact ((hB.mem_bytes hb.1 now).2 hb).2
    · intro cells hcells c hc
      obtain ⟨h, hh, rfl⟩ := List.mem_map.1 hcells
      obtain ⟨hh, hf⟩ := List.mem_filter.1 hh
      obtain ⟨y, hy, rfl⟩ := mem h hh
      rw [Bool.and_eq_true, decide_eq_true_eq] at hf
      obtain ⟨hyw, hyt⟩ := readBy hy hf.1 hf.2 hc
      exact hone y c hf.1 hyt hyw
  have own {tid k o : Nat} {b : Byte} (hb : PadWrites s F tid k o b) : (padStore s F now tid).readBy (s.toBuffer (padStore s F now tid)) tid k = true := by
    rw [HeldStore.readBy, ((hB.mem_bytes hb.1 now).2 hb).1]
    simp [padStore]
  refine ⟨_, hrun, wentOn_advanceAll (congrArg State.threads step.rest :) (congrArg State.issue step.rest :),
    (congrArg (fun v : State => { v with threads := s.threads }) step.rest :), step.group, step.fewer, step.keeps, ?_, ?_, ?_, ?_⟩
  · intro tid k o b hb hone
    refine newest (hB.plain tid hb.1) hb rfl (own hb) fun y c _ _ hc => ?_
    by_cases hy : y = tid
    · subst hy
      exact hB.writes_unique hc hb
    · exact absurd hc (hone y c hy)
  · intro tid k o b hb hgen
    refine newest (hB.plain tid hb.1) hb rfl (own hb) fun y c _ hy hc => ?_
    obtain rfl := hy.resolve_right fun h => h hgen
    exact hB.writes_unique hc hb
  · intro v tid k o b hgid hb hone hbuf hshadow
    obtain ⟨hspad, hbytes⟩ := (hB.mem_bytes hb.1 now).2 hb
    have hr : (padStore s F now tid).readBy (s.toBuffer (padStore s F now tid)) v k = true := by
      have wide : s.inBuffer (gidOf tid) k (padStore s F now tid).bytes = true := by
        unfold State.inBuffer at hbuf ⊢
        split at hbuf
        · cases hbuf
        · next g hg =>
          rw [Bool.and_eq_true] at hbuf
          rw [Bool.and_eq_true]
          exact ⟨hbuf.1, List.any_eq_true.2 ⟨(o, b), hbytes, by simpa using hbuf.2⟩⟩
      rw [HeldStore.readBy, hspad, toBuffer_padStore hspad, wide, matched, hshadow]
      simp
    refine newest (by rw [hgid]; exact hB.plain tid hb.1) hb hgid.symm hr fun y c _ _ hc => ?_
    by_cases hy : y = tid
    · subst hy
      exact hB.writes_unique hc hb
    · exact absurd hc (hone y c hy)
  · intro tid k o hnot
    show w.spadByte tid k o = s.spadByte tid k o
    by_cases hplain : (s.group (gidOf tid)).spec = none
    · rw [reads hplain, newest_eq_none, Option.getD_none]
      intro cells hcells c hc
      obtain ⟨h, hh, rfl⟩ := List.mem_map.1 hcells
      obtain ⟨hh, hf⟩ := List.mem_filter.1 hh
      obtain ⟨y, hy, rfl⟩ := mem h hh
      rw [Bool.and_eq_true, decide_eq_true_eq] at hf
      obtain ⟨hyw, hyt⟩ := readBy hy hf.1 hf.2 hc
      rcases hnot with ⟨hgen, hnot⟩ | hnot
      · obtain rfl := hyt.resolve_right fun h => h hgen
        exact hnot c hyw
      · exact hnot y c hf.1 hyw
    · have group : w.group (gidOf tid) = s.group (gidOf tid) := others fun h hh hgid => by
        obtain ⟨v, hv, rfl⟩ := mem h hh
        exact hplain (hgid ▸ hB.plain v hv)
      have teams : w.teams = s.teams := (congrArg State.teams step.rest :)
      exact spadByte_of_group (by rw [group]) teams k o

/-- Of scratchpad stores of several groups to one byte, the highest home lane's stands (R133). -/
theorem store_clash {i : Instr} (hwf : i.wf = true) (hF : i.fields? = some F) (hrel : F.releases = false)
    (hpath : ∀ g ∈ State.groupsIn (s.guarded F), (s.group g).spadPath = []) :
    ∃ t, Sys2Proof.Machine.exec i s = .next t ∧ Claims.WentOn s t ∧
      { t with threads := s.threads, groups := s.groups, teams := s.teams, ahead := s.ahead } = s ∧
      ∀ tid k o b, PadWrites s F tid k o b → (∃ v c, PadWrites s F v k o c ∧ gidOf v ≠ gidOf tid) →
        (∀ v c, PadWrites s F v k o c → v ≠ tid → laneOf v < laneOf tid) → (t.team k).spad.getD o 0 = b := by
  have hrun := hB.exec hwf hF
  have hmatch := hB.matchesNow
  have hu : s.released F = s := if_neg (by rw [hrel]; decide)
  generalize hnow : s.matchesNow F (s.guarded F) = now at hrun hmatch
  have mem (h : HeldStore) := mem_padStores (s := s) (F := F) (now := now) (h := h)
  let clash (h : HeldStore) : Bool := ((byLane (s.guarded F)).map (padStore s F now)).any h.clashes
  have pad (h : HeldStore) (hh : h ∈ (byLane (s.guarded F)).map (padStore s F now)) : h.toPad := by
    obtain ⟨tid, ht, rfl⟩ := mem h hh
    exact toPad hrel
  have matched (h : HeldStore) (hh : h ∈ (byLane (s.guarded F)).map (padStore s F now)) (hc : clash h = true) : h.matched = true := by
    obtain ⟨tid, ht, rfl⟩ := mem h hh
    obtain ⟨v, hne, hbytes⟩ := (hB.clashes ht).1 hc
    have : now = true := hmatch.2 (.inr ⟨tid, v, hne, hbytes⟩)
    show (now || _) = true
    rw [this]
    rfl
  rw [hu] at hrun
  have rest := foldl_performPad_frame _ clash pad matched s
  have stands (k o : Nat) := padClash_foldl (k := k) (o := o) (u := s) (gids := State.groupsIn (s.guarded F)) _ clash pad matched
    (fun h hh => by obtain ⟨tid, ht, rfl⟩ := mem h hh; exact mem_groupsIn.2 ⟨tid, ht, rfl⟩)
  generalize hw : ((byLane (s.guarded F)).map (padStore s F now)).foldl (fun u h => u.performStore h (clash h)) s = w at rest stands
  rw [show _ = w from hw] at hrun
  refine ⟨_, hrun, wentOn_advanceAll (congrArg State.threads rest :) (congrArg State.issue rest :),
    (congrArg (fun v : State => { v with threads := s.threads }) rest :), fun tid k o b hb hother hlast => ?_⟩
  obtain ⟨v, c, hv, hne⟩ := hother
  have clashing {x : Nat} {e : Byte} (hx : PadWrites s F x k o e) : clash (padStore s F now x) = true := by
    refine (hB.clashes hx.1).2 ?_
    by_cases hxv : gidOf x = gidOf v
    · exact ⟨tid, fun h => hne (hxv.symm.trans h), k, o, e, b, hx, hb⟩
    · exact ⟨v, hxv, k, o, e, c, hx, hv⟩
  have there : (s.teams.get? k).isSome := by
    obtain ⟨ht, p, j, hp, rfl, -⟩ := hb
    exact hB.teams tid ht p hp
  obtain ⟨hspad, hbytes⟩ := (hB.mem_bytes hb.1 now).2 hb
  refine (stands k o (fun h hh hfree hspad e he => ?_) there fun g hg p hp => ?_).trans ?_
  · obtain ⟨x, hx, rfl⟩ := mem h hh
    rw [clashing ((hB.mem_bytes hx now).1 ⟨hspad, he⟩)] at hfree
    cases hfree
  · rw [hpath g hg] at hp
    cases hp
  · obtain ⟨pre, post, hsplit⟩ := List.append_of_mem (mem_byLane.2 hb.1)
    have sorted := hsplit ▸ byLane_sorted (s.guarded F)
    have distinct := hsplit ▸ byLane_nodup (guarded_nodup hB.nodup F)
    have after (x : Nat) (hx : x ∈ post) : x ≠ tid ∧ laneOf tid ≤ laneOf x :=
      ⟨fun h => (List.nodup_cons.1 (List.nodup_append.1 distinct).2.1).1 (h ▸ hx), (List.pairwise_cons.1 (List.pairwise_append.1 sorted).2.1).1 x hx⟩
    rw [hsplit, List.map_append, List.map_cons, List.filter_append, List.filter_cons,
      if_pos (Bool.and_eq_true_iff.2 ⟨clashing hb, decide_eq_true hspad⟩), List.map_append, List.map_cons,
      newest_of_last (b := b) hbytes, Option.getD_some]
    · exact fun e he => hB.writes_unique ((hB.mem_bytes hb.1 now).1 ⟨hspad, he⟩) hb
    · intro cells hcells e he
      obtain ⟨h, hh, rfl⟩ := List.mem_map.1 hcells
      obtain ⟨hh, hf⟩ := List.mem_filter.1 hh
      obtain ⟨x, hx, rfl⟩ := List.mem_map.1 hh
      have hxg : x ∈ s.guarded F := mem_byLane.1 (by rw [hsplit]; exact List.mem_append_right _ (List.mem_cons_of_mem _ hx))
      obtain ⟨hne, hle⟩ := after x hx
      have := hlast x e ((hB.mem_bytes hxg now).1 ⟨of_decide_eq_true (Bool.and_eq_true_iff.1 hf).2, he⟩) hne
      omega

/-- Scratchpad stores with a release stand in the scratchpad (R265, R268). -/
theorem store_release {i : Instr} (hwf : i.wf = true) (hF : i.fields? = some F) (hrel : F.releases = true) :
    ∃ t, Sys2Proof.Machine.exec i s = .next t ∧ Claims.WentOn s t ∧ { t with threads := (s.released F).threads, teams := (s.released F).teams } = s.released F ∧
      (∀ k, { t.team k with spad := ((s.released F).team k).spad } = (s.released F).team k) ∧
      (∀ tid k o b, PadWrites s F tid k o b → (∀ v c, v ≠ tid → ¬ PadWrites s F v k o c) → (t.team k).spad.getD o 0 = b) ∧
      ∀ k o, (∀ v c, ¬ PadWrites s F v k o c) → (t.team k).spad.getD o 0 = ((s.released F).team k).spad.getD o 0 := by
  have published := published_released s F
  have hrun := hB.exec hwf hF
  rw [hB.matchesNow.2 (.inl hrel)] at hrun
  have mem (h : HeldStore) := mem_padStores (s := s) (F := F) (now := true) (h := h)
  obtain ⟨rest, team, spad⟩ := foldl_padRelease ((byLane (s.guarded F)).map (padStore s F true))
    (fun h => ((byLane (s.guarded F)).map (padStore s F true)).any h.clashes)
    (fun h hh => by
      obtain ⟨tid, ht, rfl⟩ := mem h hh
      obtain ⟨p, hp⟩ := Option.isSome_iff_exists.1 (hB.pads tid ht)
      exact ⟨by rw [padStore, hp]; rfl, by show (relScope F).isSome = true; rw [relScope, if_pos hrel]; rfl, rfl⟩) (s.released F)
  generalize ((byLane (s.guarded F)).map (padStore s F true)).foldl _ (s.released F) = w at hrun rest team spad
  have there {k : Nat} (hk : (s.teams.get? k).isSome) : ((s.released F).teams.get? k).isSome := by
    have mem : k ∈ (s.released F).teams.keys := published.teams ▸ Tab.mem_keys_iff.2 (Option.isSome_iff_exists.1 hk)
    exact Option.isSome_iff_exists.2 (Tab.mem_keys_iff.1 mem)
  refine ⟨_, hrun, wentOn_advanceAll ?_ ?_, (congrArg (fun v : State => { v with threads := (s.released F).threads }) rest :), team,
    fun tid k o b hb hone => ?_, fun k o hnot => ?_⟩
  · exact (congrArg State.threads rest :).trans (congrArg State.threads published.rest :)
  · exact (congrArg State.issue rest :).trans (congrArg State.issue published.rest :)
  · obtain ⟨hspad, hbytes⟩ := (hB.mem_bytes hb.1 true).2 hb
    have hk : (s.teams.get? k).isSome := by
      obtain ⟨ht, p, j, hp, rfl, -⟩ := hb
      exact hB.teams tid ht p hp
    refine (spad k o (.inl (there hk))).trans ?_
    rw [newest_of_agree (cells := (padStore s F true tid).bytes) (b := b) _ hbytes, Option.getD_some]
    · intro cells hcells c hc
      obtain ⟨h, hh, rfl⟩ := List.mem_map.1 hcells
      obtain ⟨hh, hf⟩ := List.mem_filter.1 hh
      obtain ⟨v, hv, rfl⟩ := mem h hh
      have hw := (hB.mem_bytes hv true).1 ⟨of_decide_eq_true hf, hc⟩
      by_cases h : v = tid
      · subst h
        exact hB.writes_unique hw hb
      · exact absurd hw (hone v c h)
    · exact List.mem_map_of_mem (List.mem_filter.2 ⟨List.mem_map_of_mem (mem_byLane.2 hb.1), decide_eq_true hspad⟩)
  · show (w.team k).spad.getD o 0 = _
    by_cases hk : ∃ h ∈ (byLane (s.guarded F)).map (padStore s F true), h.spad = some k
    · obtain ⟨h, hh, hspad⟩ := hk
      obtain ⟨tid, ht, rfl⟩ := mem h hh
      obtain ⟨p, hp⟩ := Option.isSome_iff_exists.1 (hB.pads tid ht)
      have hpk : p.1 = k := by
        rw [padStore, hp] at hspad
        exact Option.some.inj hspad
      rw [spad k o (.inl (there (hpk ▸ hB.teams tid ht p hp))), newest_eq_none, Option.getD_none]
      intro cells hcells c hc
      obtain ⟨h, hh, rfl⟩ := List.mem_map.1 hcells
      obtain ⟨hh, hf⟩ := List.mem_filter.1 hh
      obtain ⟨v, hv, rfl⟩ := mem h hh
      exact hnot v c ((hB.mem_bytes hv true).1 ⟨of_decide_eq_true hf, hc⟩)
    · have none_here : ∀ h ∈ (byLane (s.guarded F)).map (padStore s F true), h.spad ≠ some k := fun h hh e => hk ⟨h, hh, e⟩
      rw [spad k o (.inr none_here), List.filter_eq_nil_iff.2 fun h hh => by simpa using none_here h hh]
      rfl

end PadBundle

/-- Settles O31: the stores of a bundle are pushed to the paths of their groups, or follow them where two groups collide, one after another in
home lane order; what a thread reads after is then the newest of the bytes it reads of these stores. -/
theorem storesWriteMemory : Obligations.StoresWriteMemory := by
  unfold Obligations.StoresWriteMemory
  refine ⟨fun i F s hwf hF hmaj hmn hdec hnodup hturn hok => ?_, fun i F s hwf hF hmaj hmn hdec hnodup hturn hok => ?_⟩
  · have hB : HomeBundle s F := ⟨hmaj, hmn, hdec, hnodup, hturn, fun tid ht => (hok tid ht).1, fun tid ht => (hok tid ht).2.1, fun tid ht => (hok tid ht).2.2⟩
    refine ⟨fun hplain hrel => ⟨?_, ?_⟩, ?_, fun hplain hrel hscope => ?_⟩
    · exact hB.store_apart hwf hF hplain hrel
    · exact fun d => hB.store_clash hwf hF hplain hrel
    · exact hB.store_specs hwf hF
    · exact hB.store_home hwf hF hplain hrel hscope
  · have hB : PadBundle s F := ⟨hmaj, hmn, hdec, hnodup, hturn, fun tid ht => (hok tid ht).1, fun tid ht => (hok tid ht).2.1,
      fun tid ht => (hok tid ht).2.2.1, fun tid ht => (hok tid ht).2.2.2.1, fun tid ht => (hok tid ht).2.2.2.2⟩
    refine ⟨?_, ?_, fun hrel => ?_⟩
    · exact hB.store_apart hwf hF
    · exact hB.store_clash hwf hF
    · have hu : s.released F = s.publishAll (State.groupsIn (s.guarded F)) F.scope := if_pos hrel
      exact hu ▸ hB.store_release hwf hF hrel

end Machine
end Sys2Proof
end

section
/-! PROOFS. FMIN, FMAX and FCPYS, the special operands of FUNARY, and the integer roots and quotients it rounds (06 R117 to R119). -/

namespace Sys2Proof
namespace Machine

open Claims (formats order nv)

section
variable {k : Fmt}

/-! FMIN, FMAX and FCPYS (R117). -/

theorem flushed_keep {x : Nat} (hx : x < 2 * k.signBit) : k.flushed false x = x := by
  unfold Fmt.flushed
  simp [Nat.mod_eq_of_lt hx]

theorem codeKey_eq_order {x : Nat} (hx : x < 2 * k.signBit) : codeKey k x = order k x := by
  unfold codeKey
  rw [Nat.mod_eq_of_lt hx]
  rfl

theorem sigFlag_pair (a b : Num) : sigFlag [a, b] = nv (a.isSig || b.isSig) := by
  rw [sigFlag, List.any_cons, List.any_cons, List.any_nil, Bool.or_false]
  rfl

/-- FMIN and FMAX with FTZ 0, case by case. -/
theorem fMinMax_keep {x y : Nat} (hx : x < 2 * k.signBit) (hy : y < 2 * k.signBit) (max : Bool) : fMinMax k false max x y =
    (if (k.decode false x).isNan && (k.decode false y).isNan then k.nanCode
      else if (k.decode false x).isNan then y else if (k.decode false y).isNan then x
      else if max then (if order k x < order k y then y else x) else if order k y < order k x then y else x,
      nv ((k.decode false x).isSig || (k.decode false y).isSig)) := by
  unfold fMinMax
  dsimp only
  rw [flushed_keep hx, flushed_keep hy, codeKey_eq_order hx, codeKey_eq_order hy, sigFlag_pair]
  cases (k.decode false x).isNan <;> cases (k.decode false y).isNan <;> cases max <;> rfl

theorem fCopySign_eq {x y : Nat} (hy : y < 2 * k.signBit) : fCopySign k x y = (x % k.signBit + y / k.signBit * k.signBit, 0) := by
  have sign : y / k.signBit < 2 := (Nat.div_lt_iff_lt_mul (Nat.two_pow_pos _)).2 hy
  unfold fCopySign
  generalize y / k.signBit = s at sign
  interval_cases s <;> simp

/-! The special operands of FUNARY (R119). -/

theorem fUnary_nan (h : How) (sig : Bool) (mn : Nat) : fUnary k h mn (.nan sig) = (k.nanCode, nv sig) := rfl

theorem fUnary_posZero (h : How) (e : Int) {mn : Nat} (hmn : mn < 8) : fUnary k h mn (.fin false 0 e) =
    [(k.infCode, 0x02), (k.infCode, 0x02), (0, 0), (k.emax.toNat * 2 ^ (k.p - 1), 0), (k.signed true k.infCode, 0x02), (0, 0),
      (k.emax.toNat * 2 ^ (k.p - 1), 0), (0, (0 : Flags))].getD mn (k.nanCode, 0x01) := by
  interval_cases mn <;> rfl

theorem fUnary_negZero (h : How) (e : Int) {mn : Nat} (hmn : mn < 8) : fUnary k h mn (.fin true 0 e) =
    [(k.signed true k.infCode, 0x02), (k.signed true k.infCode, 0x02), (k.signBit, 0), (k.emax.toNat * 2 ^ (k.p - 1), 0),
      (k.signed true k.infCode, 0x02), (k.signBit, 0), (k.emax.toNat * 2 ^ (k.p - 1), 0), (k.signBit, (0 : Flags))].getD mn (k.nanCode, 0x01) := by
  interval_cases mn <;> rfl

theorem fUnary_posInf (h : How) {mn : Nat} (hmn : mn < 8) : fUnary k h mn (.inf false) =
    [(0, 0), (0, 0), (k.infCode, 0), (k.infCode, 0), (k.infCode, 0), (k.nanCode, 0x01), (k.nanCode, 0x01),
      (k.emax.toNat * 2 ^ (k.p - 1), (0 : Flags))].getD mn (k.nanCode, 0x01) := by
  interval_cases mn <;> rfl

theorem fUnary_negInf (h : How) {mn : Nat} (hmn : mn < 8) : fUnary k h mn (.inf true) =
    [(k.signBit, 0), (k.nanCode, 0x01), (k.nanCode, 0x01), (0, 0), (k.nanCode, 0x01), (k.nanCode, 0x01), (k.nanCode, 0x01),
      (k.signBit + k.emax.toNat * 2 ^ (k.p - 1), (0 : Flags))].getD mn (k.nanCode, 0x01) := by
  interval_cases mn <;> rfl

/-- FRSQ, FSQRT and FLOG2 of a value below zero are invalid. -/
theorem fUnary_below (h : How) {m : Nat} (hm : 0 < m) (e : Int) {mn : Nat} (hmn : mn ∈ [1, 2, 4]) :
    fUnary k h mn (.fin true m e) = (k.nanCode, 0x01) := by
  simp only [List.mem_cons, List.not_mem_nil, or_false] at hmn
  rcases hmn with rfl | rfl | rfl <;> exact if_neg hm.ne'

end

/-! Integer roots and quotients (R118, R119). -/

/-- The bits of a root, from one between `r` and `r + 2^k`. -/
theorem isqrt_spec {x : Nat} (k : Nat) {r : Nat} (lo : r ^ 2 ≤ x) (hi : x < (r + 2 ^ k) ^ 2) : isqrt x k r ^ 2 ≤ x ∧ x < (isqrt x k r + 1) ^ 2 := by
  induction k generalizing r with
  | zero => exact ⟨lo, hi⟩
  | succ k ih =>
    rw [isqrt]
    split
    · next le => exact ih (by rw [Nat.pow_two]; exact le) (by rw [Nat.add_assoc, ← Nat.two_mul, ← Nat.pow_succ']; exact hi)
    · next lt => exact ih lo (by rw [Nat.pow_two]; exact Nat.lt_of_not_le lt)

theorem isqrt_zero_spec {x k : Nat} (h : x < (2 ^ k) ^ 2) : isqrt x k 0 ^ 2 ≤ x ∧ x < (isqrt x k 0 + 1) ^ 2 :=
  isqrt_spec k (Nat.zero_le x) (by rwa [Nat.zero_add])

/-- FSQRT's magnitude. -/
theorem sqrtMag_spec {m : Nat} {e : Int} (hm : m < 2 ^ 24) : let m' := if e % 2 = 0 then m else 2 * m
    let x := sqrtMag m e
    x.q ^ 2 ≤ m' * 2 ^ 96 ∧ m' * 2 ^ 96 < (x.q + 1) ^ 2 ∧ 2 * x.e + 96 = e - e % 2 ∧ (x.more = true ↔ x.q ^ 2 ≠ m' * 2 ^ 96) := by
  intro m' x
  have small : m' < 2 ^ 25 := by dsimp only [m']; split <;> omega
  obtain ⟨lo, hi⟩ := isqrt_zero_spec (x := m' * 2 ^ 96) (k := 64)
    ((Nat.mul_lt_mul_of_pos_right small (Nat.two_pow_pos 96)).trans (by norm_num))
  simp only [x, sqrtMag, decide_eq_true_eq, ← Nat.pow_two]
  exact ⟨lo, hi, by split <;> omega, Iff.rfl⟩

/-- FRCP's magnitude. -/
theorem rcpMag_spec {m : Nat} (e : Int) (hm : 0 < m) : let x := divMag 1 0 m e
    x.q * m ≤ 2 ^ 64 ∧ 2 ^ 64 < (x.q + 1) * m ∧ x.e = -e - 64 ∧ (x.more = true ↔ x.q * m ≠ 2 ^ 64) := by
  have digits := Nat.div_add_mod' (2 ^ 64) m
  have lt := Nat.mod_lt (2 ^ 64) hm
  simp only [divMag, Nat.one_mul, bne_iff_ne]
  refine ⟨by omega, by rw [Nat.succ_mul]; omega, by omega, by omega⟩

/-- FRSQ's magnitude. -/
theorem rsqMag_spec {m : Nat} {e : Int} (hm : 0 < m) : let m' := if e % 2 = 0 then m else 2 * m
    let x := rsqMag m e
    x.q ^ 2 * m' ≤ 2 ^ 160 ∧ 2 ^ 160 < (x.q + 1) ^ 2 * m' ∧ 2 * x.e + 160 = -(e - e % 2) ∧ (x.more = true ↔ x.q ^ 2 * m' ≠ 2 ^ 160) := by
  intro m' x
  have pos : 0 < m' := by dsimp only [m']; split <;> omega
  obtain ⟨lo, hi⟩ := isqrt_zero_spec (x := 2 ^ 160 / m') (k := 82) ((Nat.div_le_self _ _).trans_lt (by norm_num))
  simp only [x, rsqMag, decide_eq_true_eq, ← Nat.pow_two]
  exact ⟨(Nat.le_div_iff_mul_le pos).1 lo, (Nat.div_lt_iff_lt_mul pos).1 hi, by split <;> omega, Iff.rfl⟩

end Machine
end Sys2Proof
end

section
/-! PROOFS. Fixed point (06 R119): approximations with `b` fraction bits, the leading bits that an enclosure settles, and the sums of series. -/

namespace Sys2Proof
namespace Machine

/-! Approximations. -/

/-- `a` with `b` fraction bits stands for `x`, up to `c` of its units. -/
def Near (b : Nat) (a : Int) (x c : ℝ) : Prop := |(a : ℝ) - x * 2 ^ b| ≤ c

theorem ediv_le_div (x : Int) {y : Int} (hy : 0 < y) : ((x / y : Int) : ℝ) ≤ x / y := by
  rw [le_div_iff₀ (by exact_mod_cast hy)]
  exact_mod_cast Int.ediv_mul_le x hy.ne'

theorem div_lt_ediv_add_one (x : Int) {y : Int} (hy : 0 < y) : (x : ℝ) / y < (x / y : Int) + 1 := by
  rw [div_lt_iff₀ (by exact_mod_cast hy)]
  exact_mod_cast Int.lt_ediv_add_one_mul_self x hy

/-- A quotient rounded down is less than one unit off. -/
theorem abs_ediv_sub_le (x : Int) {y : Int} (hy : 0 < y) : |((x / y : Int) : ℝ) - x / y| ≤ 1 :=
  abs_le.2 ⟨by linarith [div_lt_ediv_add_one x hy], by linarith [ediv_le_div x hy]⟩

namespace Near
variable {b : Nat} {a a' : Int} {x x' c c' : ℝ}

theorem mono (h : Near b a x c) (hc : c ≤ c') : Near b a x c' := le_trans h hc

theorem add (h : Near b a x c) (h' : Near b a' x' c') : Near b (a + a') (x + x') (c + c') := by
  unfold Near
  rw [show ((a + a' : Int) : ℝ) - (x + x') * 2 ^ b = (a - x * 2 ^ b) + (a' - x' * 2 ^ b) by push_cast; ring]
  exact (abs_add_le _ _).trans (add_le_add h h')

theorem mul_int (h : Near b a x c) (n : Int) : Near b (n * a) (n * x) (|(n : ℝ)| * c) := by
  unfold Near
  rw [show ((n * a : Int) : ℝ) - n * x * 2 ^ b = n * (a - x * 2 ^ b) by push_cast; ring, abs_mul]
  exact mul_le_mul_of_nonneg_left h (abs_nonneg _)

theorem sub (h : Near b a x c) (h' : Near b a' x' c') : Near b (a - a') (x - x') (c + c') := by
  have := h.add (h'.mul_int (-1))
  simpa [← sub_eq_add_neg] using this

theorem exact (n : Int) : Near b (n * 2 ^ b) n 0 := by
  unfold Near
  simp

/-- The same for another real nearby. -/
theorem shift (h : Near b a x c) (hx : |x - x'| * 2 ^ b ≤ c') : Near b a x' (c + c') := by
  unfold Near
  rw [show (a : ℝ) - x' * 2 ^ b = (a - x * 2 ^ b) + (x - x') * 2 ^ b by ring]
  refine (abs_add_le _ _).trans (add_le_add h ?_)
  rwa [abs_mul, abs_of_pos (by positivity : (0 : ℝ) < 2 ^ b)]

/-- The magnitude. -/
theorem natAbs (h : Near b a x c) : Near b a.natAbs |x| c := by
  unfold Near
  have hb : |x| * 2 ^ b = |x * 2 ^ b| := by rw [abs_mul, abs_of_pos (by positivity : (0 : ℝ) < 2 ^ b)]
  rw [hb, Int.cast_natCast, Nat.cast_natAbs, Int.cast_abs]
  exact (abs_abs_sub_abs_le_abs_sub _ _).trans h

/-- What is below zero taken as zero, for a real that is not. -/
theorem toNat (h : Near b a x c) (hx : 0 ≤ x) : Near b a.toNat x c := by
  rcases le_total 0 a with ha | ha
  · rwa [Int.toNat_of_nonneg ha]
  · rw [Int.toNat_of_nonpos ha]
    have up : (0 : ℝ) ≤ x * 2 ^ b := by positivity
    have down : (a : ℝ) ≤ 0 := by exact_mod_cast ha
    have := abs_le.1 h
    unfold Near
    rw [Int.cast_natCast, Nat.cast_zero, zero_sub, abs_neg, abs_of_nonneg up]
    linarith

/-- A product with a fixed-point number, divided by an integer and rounded down. -/
theorem mul_ediv (h : Near b a x c) (y : Int) {m : Nat} (hm : 0 < m) : Near b (a * y / (2 ^ b * m)) (x * (y / 2 ^ b / m)) (c * |(y : ℝ) / 2 ^ b / m| + 1) := by
  have floor := abs_ediv_sub_le (a * y) (show (0 : Int) < 2 ^ b * m by positivity)
  have real : ((a * y : Int) : ℝ) / ((2 ^ b * m : Int) : ℝ) - x * (y / 2 ^ b / m) * 2 ^ b = (a - x * 2 ^ b) * (y / 2 ^ b / m) := by
    push_cast
    field_simp
  have scaled : |((a * y : Int) : ℝ) / ((2 ^ b * m : Int) : ℝ) - x * (y / 2 ^ b / m) * 2 ^ b| ≤ c * |(y : ℝ) / 2 ^ b / m| := by
    rw [real, abs_mul]
    exact mul_le_mul_of_nonneg_right h (abs_nonneg _)
  have := abs_sub_le ((a * y / (2 ^ b * m) : Int) : ℝ) (((a * y : Int) : ℝ) / ((2 ^ b * m : Int) : ℝ)) (x * (y / 2 ^ b / m) * 2 ^ b)
  unfold Near
  linarith

/-- The same without the division. -/
theorem mul_ediv_one (h : Near b a x c) (y : Int) : Near b (a * y / 2 ^ b) (x * (y / 2 ^ b)) (c * |(y : ℝ) / 2 ^ b| + 1) := by
  simpa using h.mul_ediv y one_pos

/-- A quotient by an integer. -/
theorem ediv (h : Near b a x c) {m : Nat} (hm : 0 < m) : Near b (a / m) (x / m) (c / m + 1) := by
  have quotient := h.mul_ediv (2 ^ b) hm
  rw [Int.mul_comm a, Int.mul_ediv_mul_of_pos _ _ (by positivity)] at quotient
  have one : ((2 ^ b : Int) : ℝ) / 2 ^ b = 1 := by push_cast; exact div_self (by positivity)
  rwa [one, mul_one_div, abs_of_nonneg (by positivity), mul_one_div] at quotient

/-- The real that a fixed-point number is. -/
theorem abs_div_sub_le (h : Near b a x c) : |(a : ℝ) / 2 ^ b - x| ≤ c / 2 ^ b := by
  have pos : (0 : ℝ) < 2 ^ b := by positivity
  rw [div_sub' pos.ne', mul_comm, abs_div, abs_of_pos pos]
  exact div_le_div_of_nonneg_right h pos.le

end Near

/-! The leading bits of an enclosure. -/

/-- The bits that are certain stand for the value. -/
theorem standsFor_settle {a b : Nat} {v : ℝ} {x : Mag} {j : Int} (h : |(a : ℝ) - v * 2 ^ b| < 2 ^ 20) (hx : settle a b = some x) :
    Claims.StandsFor x v j ∧ x.more = true := by
  unfold settle at hx
  dsimp only at hx
  split at hx
  · next hs =>
    obtain ⟨large, same⟩ := hs
    obtain rfl := Option.some.inj hx
    generalize Nat.log2 (a - 2 ^ 20) - 47 = k at same
    have lo : (((a - 2 ^ 20) / 2 ^ k : Nat) : ℝ) * 2 ^ k ≤ (a : ℝ) - 2 ^ 20 := by
      have := Nat.div_mul_le_self (a - 2 ^ 20) (2 ^ k)
      have : (a - 2 ^ 20) / 2 ^ k * 2 ^ k + 2 ^ 20 ≤ a := by omega
      have : ((((a - 2 ^ 20) / 2 ^ k * 2 ^ k + 2 ^ 20 : Nat)) : ℝ) ≤ a := by exact_mod_cast this
      push_cast at this ⊢
      linarith
    have hi : (a : ℝ) + 2 ^ 20 < (((a - 2 ^ 20) / 2 ^ k : Nat) + 1) * 2 ^ k := by
      rw [same]
      exact_mod_cast (Nat.div_lt_iff_lt_mul (Nat.two_pow_pos k)).1 (Nat.lt_succ_self _)
    have unit : (2 : ℝ) ^ ((k : Int) - b) = 2 ^ k / 2 ^ b := by rw [zpow_sub₀ two_ne_zero, zpow_natCast, zpow_natCast]
    have pos : (0 : ℝ) < 2 ^ b := by positivity
    obtain ⟨h₁, h₂⟩ := abs_lt.1 h
    refine ⟨.inl ⟨?_, ?_, fun h => Bool.noConfusion h⟩, rfl⟩
    · rw [unit, ← mul_div_assoc, div_le_iff₀ pos]
      linarith
    · rw [unit, ← mul_div_assoc, lt_div_iff₀ pos]
      linarith
  · cases hx

/-- The last precision stands in any case. -/
theorem standsFor_last {a b : Nat} {v : ℝ} (hb : b = 1536) (h : |(a : ℝ) - v * 2 ^ b| ≤ 2 ^ 20) : Claims.StandsFor ⟨a, -(b : Int), true⟩ v 0 := by
  have pos : (0 : ℝ) < 2 ^ b := by positivity
  have unit : (2 : ℝ) ^ (-(b : Int)) = 1 / 2 ^ b := by rw [zpow_neg, one_div, zpow_natCast]
  have bound : (2 : ℝ) ^ (20 + 0 - 1536 : Int) = 2 ^ 20 / 2 ^ b := by
    rw [show (20 + 0 - 1536 : Int) = (20 : Nat) - (b : Int) by omega, zpow_sub₀ two_ne_zero, zpow_natCast, zpow_natCast]
  have off : (a : ℝ) * (1 / 2 ^ b) - v = (a - v * 2 ^ b) / 2 ^ b := by field_simp
  refine .inr ⟨rfl, ?_⟩
  dsimp only
  rw [bound, unit, off, abs_div, abs_of_pos pos]
  exact div_le_div_of_nonneg_right h pos.le

/-- What a refinement takes. -/
theorem refine_cases (approx : Nat → Nat) : (∃ b, 192 ≤ b ∧ b ≤ 1536 ∧ settle (approx b) b = some (refine approx)) ∨
    refine approx = ⟨approx 1536, -(1536 : Nat), true⟩ := by
  -- `refine` alone is unfolded: applied, the kernel would evaluate the list's search
  have body : refine = refine := rfl
  conv at body => rhs; delta refine
  rw [body]
  beta_reduce
  cases h : [192, 384, 768, 1536].findSome? (fun b => settle (approx b) b) with
  | some x =>
    obtain ⟨b, hb, hx⟩ := List.exists_of_findSome?_eq_some h
    refine .inl ⟨b, ?_, ?_, hx⟩ <;>
    · simp only [List.mem_cons, List.not_mem_nil, or_false] at hb
      omega
  | none => exact .inr rfl

theorem standsFor_refine {approx : Nat → Nat} {v : ℝ} (h : ∀ b, 192 ≤ b → b ≤ 1536 → |(approx b : ℝ) - v * 2 ^ b| < 2 ^ 20) :
    Claims.StandsFor (refine approx) v 0 ∧ (refine approx).more = true := by
  rcases refine_cases approx with ⟨b, hb, hb', hx⟩ | last
  · exact standsFor_settle (h b hb hb') hx
  · rw [last]
    exact ⟨standsFor_last rfl (h 1536 (by norm_num) le_rfl).le, rfl⟩

/-- The same from a bound that the precisions used leave room for. -/
theorem standsFor_refine_of_near {approx : Nat → Nat} {v c : ℝ} (hc : c < 2 ^ 20) (h : ∀ b, 192 ≤ b → b ≤ 1536 → Near b (approx b) v c) :
    Claims.StandsFor (refine approx) v 0 ∧ (refine approx).more = true := by
  refine standsFor_refine fun b hb hb' => lt_of_le_of_lt ?_ hc
  have := h b hb hb'
  rwa [Near, Int.cast_natCast] at this

/-! The sums of series. -/

/-- What a geometric bound on the terms from one on leaves to the sum. -/
theorem abs_sub_sum_le {f : Nat → ℝ} {S C : ℝ} (hf : HasSum f S) (n : Nat) (bound : ∀ k, |f (k + n)| ≤ C * (1 / 2) ^ k) :
    |S - ∑ k ∈ Finset.range n, f k| ≤ 2 * C := by
  have tail := (hasSum_nat_add_iff' n).2 hf
  have geometric : HasSum (fun k : Nat => C * (1 / 2 : ℝ) ^ k) (C * 2) := hasSum_geometric_two.mul_left C
  rw [mul_comm]
  exact tail.norm_le_of_bounded geometric bound

/-- The sum of terms that are each one unit off at most. -/
theorem near_seriesSum {b : Nat} {term : Nat → Int} {f : Nat → ℝ} (h : ∀ k, Near b (term k) (f k) 1) (n : Nat) :
    Near b (seriesSum term n) (∑ k ∈ Finset.range n, f k) n := by
  induction n with
  | zero => simp [Near, seriesSum]
  | succ n ih =>
    rw [seriesSum, Finset.sum_range_succ, Nat.cast_succ]
    exact ih.add (h n)

end Machine
end Sys2Proof
end

section
/-! PROOFS. The series of FUNARY in fixed point (06 R119): ln 2, π, the exponential, sine and cosine, and the logarithm, with how far each is off. -/

namespace Sys2Proof
namespace Machine

/-! ln 2 and π. -/

/-- The odd powers of 1/n over their exponents. -/
noncomputable def oddTerm (x : ℝ) (k : Nat) : ℝ := x ^ (2 * k + 1) / (2 * k + 1)

theorem oddTerm_nonneg {x : ℝ} (hx : 0 ≤ x) (k : Nat) : 0 ≤ oddTerm x k := by
  unfold oddTerm
  positivity

/-- The terms from one on, up to a third. -/
theorem oddTerm_add_le {x : ℝ} (hx : 0 ≤ x) (hx' : x ≤ 1 / 3) (n k : Nat) : oddTerm x (k + n) ≤ (1 / 3) * (1 / 9) ^ n * (1 / 2) ^ k := by
  have power : x ^ (2 * (k + n) + 1) ≤ (1 / 3) * (1 / 9) ^ n * (1 / 2) ^ k := by
    calc x ^ (2 * (k + n) + 1) = x * (x ^ 2) ^ n * (x ^ 2) ^ k := by ring
      _ ≤ (1 / 3) * (1 / 9) ^ n * (1 / 2) ^ k := by
        have square : x ^ 2 ≤ 1 / 9 := by nlinarith
        gcongr
        linarith
  refine (div_le_self (by positivity) ?_).trans power
  have : (0 : ℝ) ≤ 2 * (k + n : Nat) := by positivity
  linarith

theorem near_oddTerm (b : Nat) {n : Nat} (hn : 0 < n) (k : Nat) :
    Near b ((2 ^ b / (n ^ (2 * k + 1) * (2 * k + 1)) : Nat) : Int) (oddTerm (1 / n) k) 1 := by
  have pos : (0 : Int) < (n ^ (2 * k + 1) * (2 * k + 1) : Nat) := by positivity
  have := abs_ediv_sub_le (2 ^ b) pos
  unfold Near oddTerm
  push_cast at this ⊢
  rwa [show (1 / (n : ℝ)) ^ (2 * k + 1) / (2 * k + 1) * 2 ^ b = 2 ^ b / (n ^ (2 * k + 1) * (2 * k + 1)) by rw [one_div, inv_pow]; field_simp]

/-- A series in 1/n for n from 3 on, its terms with any signs. -/
theorem near_inverseSeries (b : Nat) {n : Nat} (hn : 3 ≤ n) {term : Nat → Int} {sign : Nat → ℝ} {S : ℝ} (hsign : ∀ k, |sign k| = 1)
    (hterm : ∀ k, Near b (term k) (sign k * oddTerm (1 / n) k) 1) (hS : HasSum (fun k => sign k * oddTerm (1 / n) k) S) :
    Near b (seriesSum term (b / 2)) S (b / 2 + 2) := by
  have small : (1 / n : ℝ) ≤ 1 / 3 := one_div_le_one_div_of_le (by norm_num) (by exact_mod_cast hn)
  have nonneg : (0 : ℝ) ≤ 1 / n := by positivity
  have tail := abs_sub_sum_le hS (b / 2) (C := (1 / 3) * (1 / 9) ^ (b / 2)) fun k => by
    rw [abs_mul, hsign, one_mul, abs_of_nonneg (oddTerm_nonneg nonneg _)]
    exact oddTerm_add_le nonneg small _ _
  have room : 2 * ((1 / 3) * (1 / 9) ^ (b / 2)) * 2 ^ b ≤ (2 : ℝ) := by
    have half : b ≤ 2 * (b / 2) + 1 := by omega
    calc 2 * ((1 / 3) * (1 / 9) ^ (b / 2)) * (2 : ℝ) ^ b ≤ 2 * ((1 / 3) * (1 / 9) ^ (b / 2)) * 2 ^ (2 * (b / 2) + 1) := by gcongr; norm_num
      _ = 4 / 3 * (4 / 9) ^ (b / 2) := by rw [pow_succ, pow_mul, div_pow, div_pow]; ring
      _ ≤ 4 / 3 * 1 := by gcongr; exact pow_le_one₀ (by norm_num) (by norm_num)
      _ ≤ 2 := by norm_num
  have terms : ((b / 2 : Nat) : ℝ) ≤ b / 2 := Nat.cast_div_le
  refine ((near_seriesSum hterm (b / 2)).shift (c' := 2) (le_trans ?_ room)).mono (by linarith)
  rw [abs_sub_comm]
  gcongr

theorem near_ln2At (b : Nat) : Near b (ln2At b) (Real.log 2) (b + 4) := by
  have sum : HasSum (fun k => (1 : ℝ) * oddTerm (1 / (3 : Nat)) k) (Real.log 2 / 2) := by
    have h := (Real.hasSum_log_sub_log_of_abs_lt_one (x := 1 / 3) (by norm_num)).div_const 2
    rw [← Real.log_div (by norm_num) (by norm_num), show (1 + 1 / 3 : ℝ) / (1 - 1 / 3) = 2 by norm_num] at h
    refine h.congr_fun fun k => ?_
    unfold oddTerm
    push_cast
    ring
  have := (near_inverseSeries b (n := 3) le_rfl (sign := fun _ => 1) (fun _ => abs_one) (fun k => by rw [one_mul]; exact near_oddTerm b (by decide) k) sum).mul_int 2
  refine Near.mono (c := |((2 : Int) : ℝ)| * (b / 2 + 2)) ?_ (by push_cast; rw [abs_of_pos two_pos]; linarith)
  rw [show Real.log 2 = (2 : Int) * (Real.log 2 / 2) by push_cast; ring]
  exact this

theorem near_atanInv (b : Nat) {n : Nat} (hn : 3 ≤ n) : Near b (atanInv b n) (Real.arctan (1 / n)) (b / 2 + 2) := by
  have small : (1 / n : ℝ) ≤ 1 / 3 := one_div_le_one_div_of_le (by norm_num) (by exact_mod_cast hn)
  have nonneg : (0 : ℝ) ≤ 1 / n := by positivity
  have sum : HasSum (fun k : Nat => (-1 : ℝ) ^ k * oddTerm (1 / n) k) (Real.arctan (1 / n)) := by
    have h := Real.hasSum_arctan (x := 1 / n) (by rw [Real.norm_of_nonneg nonneg]; linarith)
    refine h.congr_fun fun k => ?_
    unfold oddTerm
    push_cast
    ring
  refine near_inverseSeries b hn (fun k => by rw [abs_pow, abs_neg, abs_one, one_pow]) (fun k => ?_) sum
  have term := near_oddTerm b (show 0 < n by omega) k
  dsimp only
  split
  · next even => rw [(Nat.even_iff.2 even).neg_one_pow, one_mul]; exact term
  · next odd =>
    rw [(Nat.odd_iff.2 (Nat.mod_two_ne_zero.1 odd)).neg_one_pow]
    simpa using term.mul_int (-1)

theorem near_piAt (b : Nat) : Near b (piAt b) Real.pi (10 * b + 40) := by
  have machin : Real.pi = (16 : Int) * Real.arctan (1 / (5 : Nat)) - (4 : Int) * Real.arctan (1 / (239 : Nat)) := by
    have := Real.four_mul_arctan_inv_5_sub_arctan_inv_239
    push_cast
    rw [one_div, one_div]
    linarith
  rw [machin]
  refine (((near_atanInv b (show 3 ≤ 5 by decide)).mul_int 16).sub ((near_atanInv b (show 3 ≤ 239 by decide)).mul_int 4)).mono ?_
  norm_num
  linarith

/-! The exponential. -/

/-- Its series from term `k` on. -/
theorem near_expSeries {b : Nat} {y : Int} (h0 : 0 ≤ y) (hy : 4 * y ≤ 3 * 2 ^ b) (n k : Nat) {t : Int}
    (ht : Near b t (((y : ℝ) / 2 ^ b) ^ k / k.factorial) 4) :
    Near b (expSeries b y n k t) (∑ j ∈ Finset.range n, ((y : ℝ) / 2 ^ b) ^ (k + j) / (k + j).factorial) (4 * n) := by
  have pos : (0 : ℝ) < 2 ^ b := by positivity
  have u0 : (0 : ℝ) ≤ (y : ℝ) / 2 ^ b := div_nonneg (by exact_mod_cast h0) pos.le
  have u1 : (y : ℝ) / 2 ^ b ≤ 3 / 4 := by
    rw [div_le_iff₀ pos]
    have : ((4 * y : Int) : ℝ) ≤ ((3 * 2 ^ b : Int) : ℝ) := by exact_mod_cast hy
    push_cast at this
    linarith
  generalize hu : (y : ℝ) / 2 ^ b = u at ht u0 u1
  induction n generalizing k t with
  | zero => simp [Near, expSeries]
  | succ n ih =>
    have next : Near b (t * y / (2 ^ b * (k + 1 : Nat))) (u ^ (k + 1) / (k + 1).factorial) 4 := by
      have step := ht.mul_ediv y (Nat.succ_pos k)
      have ratio : u / (k + 1 : Nat) ≤ 3 / 4 := (div_le_self u0 (by exact_mod_cast Nat.succ_pos k)).trans u1
      have ratio0 : 0 ≤ u / (k + 1 : Nat) := by positivity
      rw [Nat.succ_eq_add_one, hu, abs_of_nonneg ratio0] at step
      rw [show u ^ (k + 1) / (k + 1).factorial = u ^ k / k.factorial * (u / (k + 1 : Nat)) by rw [Nat.factorial_succ]; push_cast; field_simp; ring]
      exact step.mono (by linarith)
    rw [expSeries, Finset.sum_range_succ', add_comm (Finset.sum _ _)]
    simp only [← Nat.add_assoc, Nat.add_right_comm k _ 1]
    exact (ht.add (ih (k + 1) next)).mono (by push_cast; linarith)

/-- Factorials leave the powers of 8 behind. -/
theorem two_pow_le_factorial {a n : Nat} (h : a + 21 ≤ 3 * n) : 2 ^ a ≤ n.factorial := by
  rcases Nat.lt_or_ge n 7 with small | large
  · omega
  · obtain ⟨m, rfl⟩ := Nat.exists_eq_add_of_le large
    calc 2 ^ a ≤ 2 ^ (3 * m) := Nat.pow_le_pow_right two_pos (by omega)
      _ = 1 * (7 + 1) ^ m := by rw [Nat.pow_mul, one_mul]; rfl
      _ ≤ Nat.factorial 7 * (7 + 1) ^ m := Nat.mul_le_mul_right _ (Nat.factorial_pos 7)
      _ ≤ (7 + m).factorial := Nat.factorial_mul_pow_le_factorial

/-- Terms of the exponential from one on, at most 1. -/
theorem exp_term_add_le {u : ℝ} (h0 : 0 ≤ u) (h1 : u ≤ 1) {n : Nat} (hn : 1 ≤ n) (k : Nat) :
    |u ^ (k + n) / (k + n).factorial| ≤ 1 / n.factorial * (1 / 2) ^ k := by
  have grows : (n.factorial : ℝ) * 2 ^ k ≤ (k + n).factorial := by
    rw [Nat.add_comm k]
    exact_mod_cast (Nat.mul_le_mul_left _ (Nat.pow_le_pow_left (by omega) k)).trans (Nat.factorial_mul_pow_le_factorial (m := n) (n := k))
  rw [abs_of_nonneg (by positivity)]
  calc u ^ (k + n) / (k + n).factorial ≤ 1 / (n.factorial * 2 ^ k) := by
        gcongr
        exact pow_le_one₀ h0 h1
    _ = 1 / n.factorial * (1 / 2) ^ k := by rw [one_div_pow, one_div_mul_one_div]

/-- e^y for y up to 3/4. -/
theorem near_expAt {b : Nat} {y : Int} (h0 : 0 ≤ y) (hy : 4 * y ≤ 3 * 2 ^ b) : Near b (expAt b y) (Real.exp (y / 2 ^ b)) (2 * b + 66) := by
  have pos : (0 : ℝ) < 2 ^ b := by positivity
  have u0 : (0 : ℝ) ≤ (y : ℝ) / 2 ^ b := div_nonneg (by exact_mod_cast h0) pos.le
  have u1 : (y : ℝ) / 2 ^ b ≤ 1 := by
    rw [div_le_one pos]
    exact_mod_cast (by omega : y ≤ 2 ^ b)
  have series := near_expSeries h0 hy (b / 3 + 16) 0 (t := 2 ^ b) (by simp [Near])
  simp only [Nat.zero_add] at series
  have sum : HasSum (fun n : Nat => ((y : ℝ) / 2 ^ b) ^ n / n.factorial) (Real.exp (y / 2 ^ b)) := by
    rw [Real.exp_eq_exp_ℝ]
    exact NormedSpace.expSeries_div_hasSum_exp _
  have tail := abs_sub_sum_le sum (b / 3 + 16) (exp_term_add_le u0 u1 (by omega))
  have room : (2 : ℝ) ^ (b + 1) ≤ (b / 3 + 16).factorial := by exact_mod_cast two_pow_le_factorial (by omega)
  have terms : ((b / 3 : Nat) : ℝ) ≤ b / 3 := Nat.cast_div_le
  have nonneg : (0 : ℝ) ≤ b := b.cast_nonneg
  refine (series.shift (c' := 1) ?_).mono (by push_cast; linarith)
  rw [abs_sub_comm]
  calc _ ≤ 2 * (1 / ((b / 3 + 16).factorial : ℝ)) * 2 ^ b := by gcongr
    _ = 2 ^ (b + 1) / (b / 3 + 16).factorial := by ring
    _ ≤ 1 := div_le_one_of_le₀ room (by positivity)

/-! Sine and cosine. -/

/-- The series from order `k` on: of the sine from 1, of the cosine from 0. -/
theorem near_sinSeries {b : Nat} {y : Int} (h0 : 0 ≤ y) (hy : y ≤ 2 * 2 ^ b) (n k : Nat) {t : Int} {s : ℝ}
    (ht : Near b t (s * (((y : ℝ) / 2 ^ b) ^ k / k.factorial)) (if k = 0 then 0 else 6)) :
    Near b (sinSeries b y n k t) (∑ j ∈ Finset.range n, s * ((-1) ^ j * ((y : ℝ) / 2 ^ b) ^ (k + 2 * j) / (k + 2 * j).factorial)) (6 * n) := by
  have pos : (0 : ℝ) < 2 ^ b := by positivity
  have u0 : (0 : ℝ) ≤ (y : ℝ) / 2 ^ b := div_nonneg (by exact_mod_cast h0) pos.le
  have u1 : (y : ℝ) / 2 ^ b ≤ 2 := by
    rw [div_le_iff₀ pos]
    exact_mod_cast hy
  generalize hu : (y : ℝ) / 2 ^ b = u at ht u0 u1
  induction n generalizing k t s with
  | zero => simp [Near, sinSeries]
  | succ n ih =>
    have next : Near b (-(t * y / 2 ^ b * y / (2 ^ b * ((k + 1) * (k + 2) : Nat)))) (-s * (u ^ (k + 2) / (k + 2).factorial)) 6 := by
      have step := (ht.mul_ediv_one y).mul_ediv y (show 0 < (k + 1) * (k + 2) by positivity)
      have ratio0 : 0 ≤ u / ((k + 1) * (k + 2) : Nat) := by positivity
      rw [hu, abs_of_nonneg u0, abs_of_nonneg ratio0] at step
      have value : -s * (u ^ (k + 2) / (k + 2).factorial) = ((-1 : Int) : ℝ) * (s * (u ^ k / k.factorial) * u * (u / ((k + 1) * (k + 2) : Nat))) := by
        rw [Nat.factorial_succ, Nat.factorial_succ]
        push_cast
        field_simp
        ring
      rw [value, ← neg_one_mul]
      refine (step.mul_int (-1)).mono ?_
      rw [Int.cast_neg, Int.cast_one, abs_neg, abs_one, one_mul]
      split
      · next zero =>
        have : u / ((k + 1) * (k + 2) : Nat) ≤ 1 := by
          rw [zero, div_le_one (by norm_num)]
          norm_num
          exact u1
        linarith
      · next large =>
        have : u / ((k + 1) * (k + 2) : Nat) ≤ 1 / 3 := by
          rw [div_le_iff₀ (by positivity)]
          have : (6 : ℝ) ≤ ((k + 1) * (k + 2) : Nat) := by exact_mod_cast Nat.mul_le_mul (by omega : 2 ≤ k + 1) (by omega : 3 ≤ k + 2)
          linarith
        nlinarith
    rw [sinSeries, Finset.sum_range_succ', add_comm (Finset.sum _ _)]
    have rest := ih (k + 2) (s := -s) (by rw [if_neg (by omega)]; exact next)
    refine (Near.add (c := 6) (c' := 6 * n) ?_ ?_).mono (by push_cast; linarith)
    · refine Near.mono ?_ (show (if k = 0 then 0 else 6 : ℝ) ≤ 6 by split <;> norm_num)
      simpa using ht
    · refine (congrArg (fun x => Near b _ x _) (Finset.sum_congr rfl fun j _ => ?_)).mp rest
      rw [show k + 2 + 2 * j = k + 2 * (j + 1) by ring, pow_succ]
      ring

/-- Its terms from one on. -/
theorem trig_term_add_le {u : ℝ} (h0 : 0 ≤ u) (h1 : u ≤ 2) (i : Nat) {n : Nat} (hn : 1 ≤ n) (k : Nat) :
    |(-1) ^ (k + n) * u ^ (i + 2 * (k + n)) / (i + 2 * (k + n)).factorial| ≤ 2 ^ (i + 2 * n) / (i + 2 * n).factorial * (1 / 2) ^ k := by
  have grows : ((i + 2 * n).factorial : ℝ) * 8 ^ k ≤ (i + 2 * (k + n)).factorial := by
    have base : 8 ^ k ≤ (i + 2 * n + 1) ^ (2 * k) := by
      rw [Nat.pow_mul]
      exact Nat.pow_le_pow_left ((by norm_num : 8 ≤ 3 ^ 2).trans (Nat.pow_le_pow_left (by omega) 2)) k
    rw [show i + 2 * (k + n) = i + 2 * n + 2 * k by ring]
    exact_mod_cast (Nat.mul_le_mul_left _ base).trans (Nat.factorial_mul_pow_le_factorial (m := i + 2 * n) (n := 2 * k))
  rw [abs_div, abs_mul, abs_pow, abs_neg, abs_one, one_pow, one_mul, abs_of_nonneg (by positivity), abs_of_nonneg (by positivity)]
  calc u ^ (i + 2 * (k + n)) / (i + 2 * (k + n)).factorial ≤ 2 ^ (i + 2 * (k + n)) / ((i + 2 * n).factorial * 8 ^ k) := by gcongr
    _ = 2 ^ (i + 2 * n) / (i + 2 * n).factorial * (1 / 2) ^ k := by
      rw [show (2 : ℝ) ^ (i + 2 * (k + n)) = 2 ^ (i + 2 * n) * 4 ^ k by rw [show (4 : ℝ) = 2 ^ 2 by norm_num, ← pow_mul, ← pow_add]; congr 1; ring,
        mul_div_mul_comm, ← div_pow]
      norm_num

/-- Sine or cosine, once their series start exactly. -/
theorem near_trigAt {b : Nat} {y : Int} (h0 : 0 ≤ y) (hy : y ≤ 2 * 2 ^ b) (i : Nat) {t : Int} {S : ℝ}
    (ht : Near b t (((y : ℝ) / 2 ^ b) ^ i / i.factorial) 0)
    (hS : HasSum (fun n : Nat => (-1) ^ n * ((y : ℝ) / 2 ^ b) ^ (i + 2 * n) / (i + 2 * n).factorial) S) :
    Near b (sinSeries b y (b / 4 + 16) i t) S (2 * b + 98) := by
  have pos : (0 : ℝ) < 2 ^ b := by positivity
  have u0 : (0 : ℝ) ≤ (y : ℝ) / 2 ^ b := div_nonneg (by exact_mod_cast h0) pos.le
  have u1 : (y : ℝ) / 2 ^ b ≤ 2 := by
    rw [div_le_iff₀ pos]
    exact_mod_cast hy
  have series := near_sinSeries h0 hy (b / 4 + 16) i (t := t) (s := 1)
    (by rw [one_mul]; exact ht.mono (by split <;> norm_num))
  simp only [one_mul] at series
  have tail := abs_sub_sum_le hS (b / 4 + 16) (trig_term_add_le u0 u1 i (by omega))
  have room : (2 : ℝ) ^ (b + 1 + (i + 2 * (b / 4 + 16))) ≤ (i + 2 * (b / 4 + 16)).factorial := by exact_mod_cast two_pow_le_factorial (by omega)
  have terms : ((b / 4 : Nat) : ℝ) ≤ b / 4 := Nat.cast_div_le
  have nonneg : (0 : ℝ) ≤ b := b.cast_nonneg
  refine (series.shift (c' := 1) ?_).mono (by push_cast; linarith)
  rw [abs_sub_comm]
  calc _ ≤ 2 * ((2 : ℝ) ^ (i + 2 * (b / 4 + 16)) / (i + 2 * (b / 4 + 16)).factorial) * 2 ^ b := by gcongr
    _ = 2 ^ (b + 1 + (i + 2 * (b / 4 + 16))) / (i + 2 * (b / 4 + 16)).factorial := by rw [pow_add _ (b + 1)]; ring
    _ ≤ 1 := div_le_one_of_le₀ room (by positivity)

theorem near_sinAt {b : Nat} {y : Int} (h0 : 0 ≤ y) (hy : y ≤ 2 * 2 ^ b) : Near b (sinAt b y) (Real.sin (y / 2 ^ b)) (2 * b + 98) := by
  refine near_trigAt h0 hy 1 (by simp [Near]) ?_
  simp only [Nat.add_comm 1]
  exact Real.hasSum_sin _

theorem near_cosAt {b : Nat} {y : Int} (h0 : 0 ≤ y) (hy : y ≤ 2 * 2 ^ b) : Near b (cosAt b y) (Real.cos (y / 2 ^ b)) (2 * b + 98) := by
  refine near_trigAt h0 hy 0 (by simp [Near]) ?_
  simp only [Nat.zero_add]
  exact Real.hasSum_cos _

/-! The logarithm. -/

/-- One round of the logarithm's series: the sum so far and the next power. -/
def logStep (b : Nat) (z2 : Int) (st : Int × Int) (k : Nat) : Int × Int := (st.1 + st.2 / (2 * k + 1 : Nat), st.2 * z2 / 2 ^ b)

/-- The square of a number up to 1/3. -/
theorem near_square {b : Nat} (hb : 10 ≤ b) {z : Int} {u : ℝ} (hu0 : 0 ≤ u) (hu1 : u ≤ 1 / 3) (hz : Near b z u 1) : Near b (z * z / 2 ^ b) (u ^ 2) 2 := by
  have pos : (0 : ℝ) < 2 ^ b := by positivity
  have unit : 1 / (2 : ℝ) ^ b ≤ 1 / 2 ^ 10 := one_div_le_one_div_of_le (by norm_num) (pow_le_pow_right₀ one_le_two hb)
  have size := abs_le.1 hz.abs_div_sub_le
  have upper : |(z : ℝ) / 2 ^ b| ≤ 1 / 2 := abs_le.2 ⟨by linarith, by linarith⟩
  refine ((hz.mul_ediv_one z).shift (c' := 1 / 3) ?_).mono (by linarith)
  rw [show u * ((z : ℝ) / 2 ^ b) - u ^ 2 = u * ((z : ℝ) / 2 ^ b - u) by ring, abs_mul, abs_of_nonneg hu0, mul_assoc]
  calc u * (|(z : ℝ) / 2 ^ b - u| * 2 ^ b) ≤ 1 / 3 * (1 / 2 ^ b * 2 ^ b) := by gcongr; exact hz.abs_div_sub_le
    _ = 1 / 3 := by field_simp

/-- The series of atanh up to 1/3. -/
theorem near_logSteps {b : Nat} (hb : 10 ≤ b) {z : Int} {u : ℝ} (hu0 : 0 ≤ u) (hu1 : u ≤ 1 / 3) (hz : Near b z u 1) (n : Nat) :
    Near b ((List.range n).foldl (logStep b (z * z / 2 ^ b)) (0, z)).1 (∑ k ∈ Finset.range n, oddTerm u k) (3 * n) ∧
      Near b ((List.range n).foldl (logStep b (z * z / 2 ^ b)) (0, z)).2 (u ^ (2 * n + 1)) 2 := by
  have pos : (0 : ℝ) < 2 ^ b := by positivity
  have unit : 2 / (2 : ℝ) ^ b ≤ 2 / 2 ^ 10 := div_le_div_of_nonneg_left two_pos.le (by norm_num) (pow_le_pow_right₀ one_le_two hb)
  have square := (near_square hb hu0 hu1 hz).abs_div_sub_le
  generalize z * z / 2 ^ b = z2 at square
  have upper : |(z2 : ℝ) / 2 ^ b| ≤ 1 / 8 := by
    have := abs_le.1 square
    exact abs_le.2 ⟨by nlinarith, by nlinarith⟩
  induction n with
  | zero => exact ⟨by simp [Near], by simpa using hz.mono one_le_two⟩
  | succ n ih =>
    obtain ⟨sum, power⟩ := ih
    rw [List.range_succ, List.foldl_append, List.foldl_cons, List.foldl_nil]
    generalize (List.range n).foldl (logStep b z2) (0, z) = st at sum power
    have odd : (1 : ℝ) ≤ (2 * n + 1 : Nat) := by exact_mod_cast Nat.le_add_left 1 (2 * n)
    refine ⟨?_, ?_⟩
    · rw [Finset.sum_range_succ]
      have term := power.ediv (Nat.succ_pos (2 * n))
      have : (2 : ℝ) / (2 * n + 1 : Nat) ≤ 2 := div_le_self two_pos.le odd
      rw [show oddTerm u n = u ^ (2 * n + 1) / (2 * n + 1 : Nat) by unfold oddTerm; push_cast; rfl]
      exact (sum.add term).mono (by push_cast at this ⊢; linarith)
    · have small : u ^ (2 * n + 1) ≤ 1 / 3 := (pow_le_of_le_one hu0 (by linarith) (by omega)).trans hu1
      refine ((power.mul_ediv_one z2).shift (c' := 2 / 3) ?_).mono (by linarith)
      rw [show u ^ (2 * n + 1) * ((z2 : ℝ) / 2 ^ b) - u ^ (2 * (n + 1) + 1) = u ^ (2 * n + 1) * ((z2 : ℝ) / 2 ^ b - u ^ 2) by ring, abs_mul,
        abs_of_nonneg (by positivity), mul_assoc]
      calc u ^ (2 * n + 1) * (|(z2 : ℝ) / 2 ^ b - u ^ 2| * 2 ^ b) ≤ 1 / 3 * (2 / 2 ^ b * 2 ^ b) := by gcongr
        _ = 2 / 3 := by field_simp

end Machine
end Sys2Proof
end

section
/-! PROOFS. FEXP2 (06 R119): the cutoffs, the integers, and the leading bits of every other power of two. -/

namespace Sys2Proof
namespace Machine

/-! Values in fixed point. -/

/-- m × 2^e as a real. -/
theorem fixed_eq {b : Nat} (m : Nat) {e : Int} (h : 0 ≤ e + b) : ((fixed b m e : Int) : ℝ) = (m : ℝ) * 2 ^ e * 2 ^ b := by
  have power : (2 : ℝ) ^ e * 2 ^ b = 2 ^ (e + b).toNat := by
    rw [← zpow_natCast, ← zpow_natCast, ← zpow_add₀ two_ne_zero, Int.toNat_of_nonneg h]
  rw [fixed, if_pos h, mul_assoc, power]
  push_cast
  rfl

theorem below_iff {m : Nat} {e t : Int} : below m e t = true ↔ (m : ℝ) * 2 ^ e < 2 ^ t := by
  unfold below
  rw [beq_iff_eq, cmpPow_eq_lt, dyadic, dyadic, Nat.cast_one, one_mul]
  rw [← Rat.cast_lt (K := ℝ)]
  push_cast
  exact Iff.rfl

/-! Magnitudes beside a number, and scaled ones. -/

/-- A magnitude just below m × 2^e. -/
theorem standsFor_below {m : Nat} (hm : 0 < m) (s : Nat) {e j : Int} {v : ℝ} (lo : (m : ℝ) * 2 ^ e - 2 ^ (e - s) ≤ v) (hi : v < (m : ℝ) * 2 ^ e) :
    Claims.StandsFor ⟨m * 2 ^ s - 1, e - s, true⟩ v j := by
  have unit : (2 : ℝ) ^ e = 2 ^ s * 2 ^ (e - s) := by rw [← zpow_natCast, ← zpow_add₀ two_ne_zero, add_sub_cancel]
  have digits : ((m * 2 ^ s - 1 : Nat) : ℝ) = m * 2 ^ s - 1 := by
    rw [Nat.cast_pred (by positivity)]
    push_cast
    rfl
  refine .inl ⟨?_, ?_, fun h => Bool.noConfusion h⟩
  · dsimp only
    rw [digits]
    calc _ = (m : ℝ) * 2 ^ e - 2 ^ (e - s) := by rw [unit]; ring
      _ ≤ v := lo
  · dsimp only
    rw [digits]
    calc v < (m : ℝ) * 2 ^ e := hi
      _ = _ := by rw [unit]; ring

/-- A magnitude just above m × 2^e. -/
theorem standsFor_above {m s : Nat} {e j : Int} {v : ℝ} (lo : (m : ℝ) * 2 ^ e ≤ v) (hi : v < (m : ℝ) * 2 ^ e + 2 ^ (e - s)) :
    Claims.StandsFor ⟨m * 2 ^ s, e - s, true⟩ v j := by
  have unit : (2 : ℝ) ^ e = 2 ^ s * 2 ^ (e - s) := by rw [← zpow_natCast, ← zpow_add₀ two_ne_zero, add_sub_cancel]
  refine .inl ⟨?_, ?_, fun h => Bool.noConfusion h⟩
  · calc ((m * 2 ^ s : Nat) : ℝ) * 2 ^ (e - s) = (m : ℝ) * 2 ^ e := by rw [unit]; push_cast; ring
      _ ≤ v := lo
  · calc v < (m : ℝ) * 2 ^ e + 2 ^ (e - s) := hi
      _ = (((m * 2 ^ s : Nat) : ℝ) + 1) * 2 ^ (e - s) := by rw [unit]; push_cast; ring

theorem standsFor_scale {x : Mag} {v : ℝ} {n j : Int} (h : Claims.StandsFor x v 0) (hj : n ≤ j) :
    Claims.StandsFor ⟨x.q, x.e + n, true⟩ (v * 2 ^ n) j := by
  have pos : (0 : ℝ) < 2 ^ n := zpow_pos two_pos n
  have unit : (2 : ℝ) ^ (x.e + n) = 2 ^ x.e * 2 ^ n := zpow_add₀ two_ne_zero _ _
  rcases h with ⟨lo, hi, -⟩ | ⟨-, off⟩
  · refine .inl ⟨?_, ?_, fun h => Bool.noConfusion h⟩
    · dsimp only
      rw [unit, ← mul_assoc]
      gcongr
    · dsimp only
      rw [unit, ← mul_assoc]
      gcongr
  · refine .inr ⟨rfl, ?_⟩
    dsimp only
    rw [unit, ← mul_assoc, ← sub_mul, abs_mul, abs_of_pos pos]
    calc _ ≤ (2 : ℝ) ^ (20 + 0 - 1536 : Int) * 2 ^ n := by gcongr
      _ = 2 ^ (20 + 0 - 1536 + n : Int) := (zpow_add₀ two_ne_zero _ _).symm
      _ ≤ 2 ^ (20 + j - 1536) := zpow_le_zpow_right₀ one_le_two (by omega)

/-! The power of a fraction. -/

/-- The precisions used leave room for errors of a few units for each of their bits. -/
theorem units_small {b : Nat} (hb : 192 ≤ b) : 2048 * ((b : ℝ) + 4) ≤ 2 ^ b := by
  obtain ⟨c, rfl⟩ := Nat.exists_eq_add_of_le (show 32 ≤ b by omega)
  have := Nat.lt_two_pow_self (n := c)
  have : 2048 * (32 + c + 4) ≤ 2 ^ 32 * 2 ^ c := by omega
  rw [pow_add]
  exact_mod_cast this

theorem abs_exp_sub_le {x y : ℝ} (hx : x ≤ 1) (hy : y ≤ 1) : |Real.exp x - Real.exp y| ≤ 3 * |x - y| := by
  have lower {x y : ℝ} (hx : x ≤ 1) : Real.exp x - Real.exp y ≤ 3 * |x - y| := by
    have e3 : Real.exp x ≤ 3 := (Real.exp_le_exp.2 hx).trans Real.exp_one_lt_three.le
    have tangent : Real.exp x * (y - x + 1) ≤ Real.exp y := by
      calc Real.exp x * (y - x + 1) ≤ Real.exp x * Real.exp (y - x) := by gcongr; exact Real.add_one_le_exp _
        _ = Real.exp y := by rw [← Real.exp_add, add_sub_cancel]
    calc Real.exp x - Real.exp y ≤ Real.exp x * (x - y) := by linarith
      _ ≤ Real.exp x * |x - y| := by gcongr; exact le_abs_self _
      _ ≤ 3 * |x - y| := by gcongr
  exact abs_sub_le_iff.2 ⟨lower hx, by rw [abs_sub_comm]; exact lower hy⟩

theorem ln2At_bounds {b : Nat} (hb : 192 ≤ b) : (2 : ℝ) ^ b ≤ 2 * ln2At b ∧ 8 * (ln2At b : ℝ) ≤ 6 * 2 ^ b - 8 * (b + 4) := by
  have near := abs_le.1 (near_ln2At b)
  have small := units_small hb
  have lower := Real.log_two_gt_d9
  have upper := Real.log_two_lt_d9
  have pos : (0 : ℝ) < 2 ^ b := by positivity
  constructor <;> nlinarith

/-- 2^f for a fraction of 192 bits. -/
theorem near_exp2Frac {b : Nat} (hb : 192 ≤ b) {F : Int} (h0 : 0 ≤ F) (h1 : F < 2 ^ 192) :
    Near b (expAt b (F * 2 ^ (b - 192) * ln2At b / 2 ^ b)) ((2 : ℝ) ^ ((F : ℝ) / 2 ^ 192)) (5 * b + 81) := by
  have pos : (0 : ℝ) < 2 ^ b := by positivity
  have nonneg : (0 : ℝ) ≤ b := b.cast_nonneg
  have f0 : (0 : ℝ) ≤ (F : ℝ) / 2 ^ 192 := div_nonneg (by exact_mod_cast h0) (by positivity)
  have f1 : (F : ℝ) / 2 ^ 192 ≤ 1 := div_le_one_of_le₀ (by exact_mod_cast h1.le) (by positivity)
  obtain ⟨ln_lo, ln_hi⟩ := ln2At_bounds hb
  have small := units_small hb
  have exact_ : Near b (F * 2 ^ (b - 192)) ((F : ℝ) / 2 ^ 192) 0 := by
    have : (2 : ℝ) ^ b = 2 ^ (b - 192) * 2 ^ 192 := by rw [← pow_add, Nat.sub_add_cancel hb]
    unfold Near
    rw [this]
    push_cast
    rw [show (F : ℝ) * 2 ^ (b - 192) - F / 2 ^ 192 * (2 ^ (b - 192) * 2 ^ 192) = 0 by field_simp; ring, abs_zero]
  generalize (F : ℝ) / 2 ^ 192 = f at f0 f1 exact_
  have ln := near_ln2At b
  have product : (0 : Int) ≤ F * 2 ^ (b - 192) * ln2At b := by
    have : (0 : ℝ) ≤ ln2At b := by linarith
    have : 0 ≤ ln2At b := by exact_mod_cast this
    positivity
  have floor := exact_.mul_ediv_one (ln2At b)
  generalize F * 2 ^ (b - 192) = A at floor product
  have y0 : 0 ≤ A * ln2At b / 2 ^ b := Int.ediv_nonneg product (by positivity)
  generalize A * ln2At b / 2 ^ b = Y at floor y0
  have power : Near b Y (f * Real.log 2) (b + 5) := by
    refine (floor.shift (c' := b + 4) ?_).mono (by linarith)
    rw [← mul_sub, abs_mul, abs_of_nonneg f0, mul_assoc]
    calc f * (|(ln2At b : ℝ) / 2 ^ b - Real.log 2| * 2 ^ b) ≤ 1 * ((b + 4) / 2 ^ b * 2 ^ b) := by gcongr; exact ln.abs_div_sub_le
      _ = b + 4 := by field_simp
  have flog : f * Real.log 2 ≤ 0.7 := by nlinarith [Real.log_two_lt_d9, Real.log_two_gt_d9]
  have y1 : 4 * Y ≤ 3 * 2 ^ b := by
    have := abs_le.1 power
    have : 4 * (Y : ℝ) ≤ 3 * 2 ^ b := by nlinarith
    exact_mod_cast this
  have y2 : (Y : ℝ) / 2 ^ b ≤ 1 := by
    rw [div_le_one pos]
    have : (4 : ℝ) * Y ≤ 3 * 2 ^ b := by exact_mod_cast y1
    linarith
  rw [Real.rpow_def_of_pos two_pos, mul_comm (Real.log 2)]
  refine ((near_expAt y0 y1).shift (c' := 3 * (b + 5)) ?_).mono (by linarith)
  calc |Real.exp (Y / 2 ^ b) - Real.exp (f * Real.log 2)| * 2 ^ b ≤ 3 * |(Y : ℝ) / 2 ^ b - f * Real.log 2| * 2 ^ b := by
        gcongr
        exact abs_exp_sub_le y2 (by linarith)
    _ ≤ 3 * ((b + 5) / 2 ^ b) * 2 ^ b := by gcongr; exact power.abs_div_sub_le
    _ = 3 * (b + 5) := by field_simp

/-! FEXP2. -/

theorem exp2Mag_small {neg : Bool} {m : Nat} {e : Int} (hm : 0 < m) (h : (m : ℝ) * 2 ^ e < 2 ^ (-81 : Int)) :
    exp2Mag neg m e = if neg then justBelow 1 0 else justAbove 1 0 := by
  unfold exp2Mag
  rw [if_neg hm.ne', if_pos (below_iff.2 h)]

theorem exp2Mag_large {neg : Bool} {m : Nat} {e : Int} (hm : 0 < m) (h : 2 ^ (11 : Int) ≤ (m : ℝ) * 2 ^ e) :
    exp2Mag neg m e = ⟨2 ^ 48, if neg then -3000 else 3000, true⟩ := by
  have not_small : ¬below m e (-81) = true := fun hs => absurd (below_iff.1 hs) (not_lt.2 (le_trans (zpow_le_zpow_right₀ one_le_two (by norm_num)) h))
  have not_below : below m e 11 = false := Bool.eq_false_iff.2 fun hs => absurd (below_iff.1 hs) (not_lt.2 h)
  unfold exp2Mag
  rw [if_neg hm.ne', if_neg not_small, not_below, if_pos (by decide)]

/-- The argument with its sign and 192 fraction bits. -/
def exp2Arg (neg : Bool) (m : Nat) (e : Int) : Int := if neg then -fixed 192 m e else fixed 192 m e

theorem exp2Mag_middle {neg : Bool} {m : Nat} {e : Int} (hm : 0 < m) (h : 2 ^ (-81 : Int) ≤ (m : ℝ) * 2 ^ e) (h' : (m : ℝ) * 2 ^ e < 2 ^ (11 : Int)) :
    exp2Mag neg m e =
      if exp2Arg neg m e = exp2Arg neg m e / 2 ^ 192 * 2 ^ 192 then ⟨1, exp2Arg neg m e / 2 ^ 192, false⟩
      else
        let r := refine (fun b => (expAt b ((exp2Arg neg m e - exp2Arg neg m e / 2 ^ 192 * 2 ^ 192) * 2 ^ (b - 192) * ln2At b / 2 ^ b)).toNat)
        ⟨r.q, r.e + exp2Arg neg m e / 2 ^ 192, true⟩ := by
  have not_small : ¬below m e (-81) = true := fun hs => absurd (below_iff.1 hs) (not_lt.2 h)
  have not_large : (!below m e 11) = false := by rw [below_iff.2 h']; rfl
  unfold exp2Mag
  rw [if_neg hm.ne', if_neg not_small, not_large, if_neg Bool.false_ne_true]
  rfl

theorem exp2Arg_eq (neg : Bool) (m : Nat) {e : Int} (h : 0 ≤ e + 192) :
    ((exp2Arg neg m e : Int) : ℝ) = (if neg then -((m : ℝ) * 2 ^ e) else (m : ℝ) * 2 ^ e) * 2 ^ 192 := by
  have value := fixed_eq (b := 192) m (e := e) h
  unfold exp2Arg
  cases neg with
  | false => exact value
  | true =>
    rw [if_pos rfl, if_pos rfl, Int.cast_neg, value, neg_mul]

/-- A whole power. -/
theorem exp2Mag_whole {neg : Bool} {m n : Nat} {e : Int} (hm : 0 < m) (he : 0 ≤ e + 192) (hn : (m : ℝ) * 2 ^ e = n) (h : n < 2048) :
    exp2Mag neg m e = ⟨1, if neg then -(n : Int) else n, false⟩ := by
  have pos : (0 : ℝ) < (m : ℝ) * 2 ^ e := by positivity
  have one : (1 : ℝ) ≤ n := by
    rw [hn] at pos
    exact_mod_cast pos
  have arg : exp2Arg neg m e = (if neg then -(n : Int) else n) * 2 ^ 192 := by
    have := exp2Arg_eq neg m he
    rw [hn] at this
    cases neg <;> exact_mod_cast this
  rw [exp2Mag_middle hm, arg, Int.mul_ediv_cancel _ (by norm_num), if_pos rfl]
  · rw [hn]
    exact le_trans (zpow_le_one_of_nonpos₀ one_le_two (by norm_num)) one
  · rw [hn]
    exact lt_of_lt_of_le (by exact_mod_cast h : (n : ℝ) < 2048) (by norm_num)

theorem two_rpow_sub_le {v : ℝ} (h0 : 0 < v) (h1 : v < 2 ^ (-81 : Int)) :
    ((1 : ℝ) ≤ 2 ^ v ∧ (2 : ℝ) ^ v < 1 + 2 ^ (-80 : Int)) ∧ 1 - 2 ^ (-80 : Int) ≤ (2 : ℝ) ^ (-v) ∧ (2 : ℝ) ^ (-v) < 1 := by
  have tiny : (2 : ℝ) ^ (-81 : Int) ≤ 2 ^ (-80 : Int) := zpow_le_zpow_right₀ one_le_two (by norm_num)
  have v1 : v ≤ 1 := h1.le.trans (zpow_le_one_of_nonpos₀ one_le_two (by norm_num))
  refine ⟨⟨Real.one_le_rpow one_le_two h0.le, ?_⟩, ?_, Real.rpow_lt_one_of_one_lt_of_neg one_lt_two (by linarith)⟩
  · have := rpow_one_add_le_one_add_mul_self (s := 1) (by norm_num) h0.le v1
    rw [one_add_one_eq_two] at this
    linarith
  · have := Real.add_one_le_exp (Real.log 2 * -v)
    rw [← Real.rpow_def_of_pos two_pos] at this
    nlinarith [Real.log_two_lt_d9]

/-- FEXP2 below its cutoff (R119). -/
theorem standsFor_exp2Mag {neg : Bool} {m : Nat} {e : Int} (hm : 0 < m) (he : 0 ≤ e + 192) (h : (m : ℝ) * 2 ^ e < 2048) :
    let σ := if neg then -((m : ℝ) * 2 ^ e) else (m : ℝ) * 2 ^ e
    Claims.StandsFor (exp2Mag neg m e) (2 ^ σ) ⌈σ⌉ := by
  intro σ
  have pos : (0 : ℝ) < (m : ℝ) * 2 ^ e := by positivity
  rcases lt_or_ge ((m : ℝ) * 2 ^ e) (2 ^ (-81 : Int)) with small | large
  · obtain ⟨⟨up_lo, up_hi⟩, down_lo, down_hi⟩ := two_rpow_sub_le pos small
    rw [exp2Mag_small hm small]
    cases neg with
    | true => exact standsFor_below (m := 1) one_pos 80 (by simpa [σ] using down_lo) (by simpa [σ] using down_hi)
    | false => exact standsFor_above (m := 1) (s := 80) (by simpa [σ] using up_lo) (by simpa [σ] using up_hi)
  · rw [exp2Mag_middle hm large (lt_of_lt_of_le h (by norm_num))]
    have arg : ((exp2Arg neg m e : Int) : ℝ) = σ * 2 ^ 192 := exp2Arg_eq neg m he
    generalize exp2Arg neg m e = x at arg
    have unit : (0 : Int) < 2 ^ 192 := by norm_num
    have h0 := Int.emod_nonneg x unit.ne'
    have h1 := Int.emod_lt_of_pos x unit
    have rest : x - x / 2 ^ 192 * 2 ^ 192 = x % 2 ^ 192 := by rw [Int.emod_def, mul_comm]
    have value : σ = ((x % 2 ^ 192 : Int) : ℝ) / 2 ^ 192 + (x / 2 ^ 192 : Int) := by
      rw [div_add' _ _ _ (by positivity), eq_div_iff (by positivity), ← arg]
      have := (congrArg (Int.cast (R := ℝ)) (Int.emod_add_ediv_mul x (2 ^ 192))).symm
      rwa [Int.cast_add, Int.cast_mul, Int.cast_pow, Int.cast_ofNat] at this
    rw [rest]
    generalize x / 2 ^ 192 = n at rest value
    generalize x % 2 ^ 192 = F at rest value h0 h1
    have split : (2 : ℝ) ^ σ = 2 ^ ((F : ℝ) / 2 ^ 192) * 2 ^ n := by rw [value, Real.rpow_add two_pos, Real.rpow_intCast]
    split
    · next whole =>
      have : F = 0 := by omega
      rw [split, this]
      have : (0 : ℝ) < 2 ^ n := zpow_pos two_pos n
      exact .inl ⟨by simp, by simp; linarith, by simp⟩
    · have f0 : (0 : ℝ) ≤ (F : ℝ) / 2 ^ 192 := div_nonneg (by exact_mod_cast h0) (by positivity)
      have settled := standsFor_refine_of_near (c := 5 * 1536 + 81) (v := 2 ^ ((F : ℝ) / 2 ^ 192)) (by norm_num)
        (approx := fun b => (expAt b (F * 2 ^ (b - 192) * ln2At b / 2 ^ b)).toNat) fun b hb hb' => by
          have : (b : ℝ) ≤ 1536 := by exact_mod_cast hb'
          exact ((near_exp2Frac hb h0 h1).mono (by linarith)).toNat (by positivity)
      rw [split]
      refine standsFor_scale settled.1 ?_
      have : (n : ℝ) ≤ ⌈σ⌉ := le_trans (by linarith) (Int.le_ceil σ)
      exact_mod_cast this

/-! Its results beyond the range of every format. -/

theorem formats_range {k : Fmt} (hk : k ∈ Claims.formats) : -149 ≤ k.low ∧ k.emax ≤ 127 ∧ k.p ≤ 24 := by
  simp only [Claims.formats, List.mem_cons, List.not_mem_nil, or_false] at hk
  rcases hk with rfl | rfl | rfl <;> decide

/-- Powers of two from 2048 on round alike. -/
theorem exp2Mag_large_round {k : Fmt} (hk : k ∈ Claims.formats) (h : How) {neg : Bool} {m n : Nat} {e : Int} (hm : 0 < m)
    (hv : 2048 ≤ (m : ℝ) * 2 ^ e) (hn : 2048 ≤ n) :
    (exp2Mag neg m e).round k h false = (Num.fin false 1 (if neg then -(n : Int) else n)).round k h := by
  obtain ⟨low, top, -⟩ := formats_range hk
  have power : (Num.fin false 1 (if neg then -(n : Int) else n)).round k h = (Mag.mk 1 (if neg then -(n : Int) else n) false).round k h false := rfl
  have bits : Nat.log2 (2 ^ 48) = 48 := Nat.log2_two_pow
  have one : Nat.log2 1 = 0 := Nat.log2_two_pow (n := 0)
  rw [exp2Mag_large hm (le_trans (by norm_num) hv), power]
  cases neg with
  | false =>
    rw [Mag.round_of_high (by simp) (by simp only [bits]; norm_num; omega), Mag.round_of_high (by simp) (by simp only [one]; norm_num; omega)]
  | true =>
    rw [Mag.round_of_low hk (by simp) (by simp only [bits]; norm_num; omega), Mag.round_of_low hk (by simp) (by simp only [one]; norm_num; omega)]

end Machine
end Sys2Proof
end

section
/-! PROOFS. FLOG2 and FTANH (06 R119): quotients of approximations, the powers of two, and the cutoffs. -/

namespace Sys2Proof
namespace Machine

/-- A quotient of approximations, at most 1, whose divisor is at least a half. -/
theorem Near.div {b : Nat} {a d : Int} {x l c c' : ℝ} (h : Near b a x c) (h' : Near b d l c') (hl : 0 < l) (hx : |x| ≤ l) (hd : (2 : ℝ) ^ b ≤ 2 * d) :
    Near b (a * 2 ^ b / d) (x / l) (2 * (c + c') + 1) := by
  have pos : (0 : ℝ) < 2 ^ b := by positivity
  have dpos : (0 : ℝ) < d := by linarith
  have floor := abs_ediv_sub_le (a * 2 ^ b) (show (0 : Int) < d by exact_mod_cast dpos)
  have ratio : |x / l| ≤ 1 := by rw [abs_div, abs_of_pos hl]; exact div_le_one_of_le₀ hx hl.le
  have real : ((a * 2 ^ b : Int) : ℝ) / d - x / l * 2 ^ b = ((a - x * 2 ^ b) - x / l * (d - l * 2 ^ b)) * (2 ^ b / d) := by
    push_cast
    field_simp
    ring
  have share : 2 ^ b / (d : ℝ) ≤ 2 := (div_le_iff₀ dpos).2 hd
  have off : |(a - x * 2 ^ b) - x / l * (d - l * 2 ^ b)| ≤ c + c' := by
    refine (abs_sub _ _).trans (add_le_add h ?_)
    rw [abs_mul]
    calc |x / l| * |(d : ℝ) - l * 2 ^ b| ≤ 1 * c' := mul_le_mul ratio h' (abs_nonneg _) zero_le_one
      _ = c' := one_mul _
  have scaled : |((a * 2 ^ b : Int) : ℝ) / d - x / l * 2 ^ b| ≤ (c + c') * 2 := by
    rw [real, abs_mul, abs_of_pos (by positivity : (0 : ℝ) < 2 ^ b / d)]
    exact mul_le_mul off share (by positivity) (le_trans (abs_nonneg _) off)
  have := abs_sub_le ((a * 2 ^ b / d : Int) : ℝ) (((a * 2 ^ b : Int) : ℝ) / d) (x / l * 2 ^ b)
  unfold Near
  linarith

/-! FLOG2. -/

/-- log2 of m × 2^e with `b` fraction bits, where m is no power of two. -/
def log2At (m : Nat) (e : Int) (b : Nat) : Int :=
  let y : Int := (m : Int) * 2 ^ b / 2 ^ Nat.log2 m
  let z := (y - 2 ^ b) * 2 ^ b / (y + 2 ^ b)
  (e + Nat.log2 m) * 2 ^ b + 2 * ((List.range (b / 3 + 8)).foldl (logStep b (z * z / 2 ^ b)) (0, z)).1 * 2 ^ b / ln2At b

theorem log2Mag_pow (l : Nat) (e : Int) : log2Mag (2 ^ l) e = (decide (e + l < 0), ⟨(e + l).natAbs, 0, false⟩) := by
  unfold log2Mag
  rw [Nat.log2_two_pow]
  exact if_pos rfl

theorem log2Mag_other {m : Nat} (e : Int) (h : m ≠ 2 ^ Nat.log2 m) :
    log2Mag m e = (decide (e + Nat.log2 m < 0), refine (fun b => (log2At m e b).natAbs)) := by
  unfold log2Mag
  exact if_neg h

theorem near_log2At {m : Nat} {e : Int} (hm : 0 < m) {b : Nat} (hb : 192 ≤ b) (hl : Nat.log2 m ≤ b) :
    Near b (log2At m e b) (Real.logb 2 ((m : ℝ) * 2 ^ e)) (6 * b + 121) := by
  have pos : (0 : ℝ) < 2 ^ b := by positivity
  have mpos : (0 : ℝ) < m := by exact_mod_cast hm
  have lpos : (0 : ℝ) < 2 ^ Nat.log2 m := by positivity
  have lo : ((2 ^ Nat.log2 m : Nat) : ℝ) ≤ m := by exact_mod_cast Nat.log2_self_le hm.ne'
  have hi : (m : ℝ) < ((2 ^ (Nat.log2 m + 1) : Nat) : ℝ) := by exact_mod_cast Nat.lt_log2_self
  push_cast at lo hi
  have value : Real.logb 2 ((m : ℝ) * 2 ^ e) = ((e + Nat.log2 m : Int) : ℝ) + Real.log (m / 2 ^ Nat.log2 m) / Real.log 2 := by
    have split : (m : ℝ) * 2 ^ e = m / 2 ^ Nat.log2 m * 2 ^ (e + Nat.log2 m) := by
      rw [zpow_add₀ two_ne_zero, zpow_natCast]
      field_simp
    rw [split, Real.logb_mul (by positivity) (by positivity), ← Real.rpow_intCast, Real.logb_rpow two_pos (by norm_num), add_comm]
    rfl
  have exact_ : (((m : Int) * 2 ^ b / 2 ^ Nat.log2 m : Int) : ℝ) = m / 2 ^ Nat.log2 m * 2 ^ b := by
    obtain ⟨c, rfl⟩ := Nat.exists_eq_add_of_le' hl
    rw [pow_add, ← mul_assoc, Int.mul_ediv_cancel _ (by positivity), pow_add]
    push_cast
    field_simp
  rw [value, log2At]
  generalize (m : Int) * 2 ^ b / 2 ^ Nat.log2 m = y at exact_
  have w1 : 1 ≤ (m : ℝ) / 2 ^ Nat.log2 m := (one_le_div lpos).2 lo
  have w2 : (m : ℝ) / 2 ^ Nat.log2 m ≤ 2 := (div_le_iff₀ lpos).2 (by rw [← pow_succ']; exact hi.le)
  generalize (m : ℝ) / 2 ^ Nat.log2 m = w at exact_ w1 w2
  have u0 : 0 ≤ (w - 1) / (w + 1) := by apply div_nonneg <;> linarith
  have u1 : (w - 1) / (w + 1) ≤ 1 / 3 := by rw [div_le_div_iff₀ (by linarith) (by norm_num)]; linarith
  have near : Near b ((y - 2 ^ b) * 2 ^ b / (y + 2 ^ b)) ((w - 1) / (w + 1)) 1 := by
    have ypos : (0 : ℝ) < y := by rw [exact_]; positivity
    have ypos : (0 : Int) < y := by exact_mod_cast ypos
    have floor := abs_ediv_sub_le ((y - 2 ^ b) * 2 ^ b) (show (0 : Int) < y + 2 ^ b by positivity)
    have real : (((y - 2 ^ b) * 2 ^ b : Int) : ℝ) / ((y + 2 ^ b : Int) : ℝ) = (w - 1) / (w + 1) * 2 ^ b := by
      push_cast
      rw [exact_]
      field_simp
    rwa [real] at floor
  generalize (y - 2 ^ b) * 2 ^ b / (y + 2 ^ b) = z at near
  have sum : HasSum (oddTerm ((w - 1) / (w + 1))) (Real.log w / 2) := by
    have inside : |(w - 1) / (w + 1)| < 1 := by rw [abs_of_nonneg u0]; linarith
    have h := (Real.hasSum_log_sub_log_of_abs_lt_one inside).div_const 2
    rw [← Real.log_div (by linarith) (by linarith), show (1 + (w - 1) / (w + 1)) / (1 - (w - 1) / (w + 1)) = w by field_simp; ring] at h
    refine h.congr_fun fun k => ?_
    unfold oddTerm
    ring
  have tail := abs_sub_sum_le sum (b / 3 + 8) (C := (1 / 3) * (1 / 9) ^ (b / 3 + 8)) fun k => by
    rw [abs_of_nonneg (oddTerm_nonneg u0 _)]
    exact oddTerm_add_le u0 u1 _ _
  have room : 2 * ((1 / 3) * (1 / 9) ^ (b / 3 + 8)) * 2 ^ b ≤ (1 : ℝ) := by
    have power : (2 : ℝ) ^ b ≤ 8 ^ (b / 3 + 8) := by
      rw [show (8 : ℝ) = 2 ^ 3 by norm_num, ← pow_mul]
      exact pow_le_pow_right₀ one_le_two (by omega)
    calc 2 * ((1 / 3) * (1 / 9) ^ (b / 3 + 8)) * (2 : ℝ) ^ b ≤ 2 * ((1 / 3) * (1 / 9) ^ (b / 3 + 8)) * 8 ^ (b / 3 + 8) := by gcongr
      _ = 2 / 3 * (8 / 9) ^ (b / 3 + 8) := by rw [div_pow, div_pow]; ring
      _ ≤ 2 / 3 * 1 := by gcongr; exact pow_le_one₀ (by norm_num) (by norm_num)
      _ ≤ 1 := by norm_num
  have terms : ((b / 3 : Nat) : ℝ) ≤ b / 3 := Nat.cast_div_le
  have series : Near b _ (Real.log w / 2) (b + 25) := ((near_logSteps (by omega) u0 u1 near (b / 3 + 8)).1.shift (c' := 1) (by
    rw [abs_sub_comm]
    exact le_trans (by gcongr) room)).mono (by push_cast; linarith)
  have double := series.mul_int 2
  rw [show ((2 : Int) : ℝ) * (Real.log w / 2) = Real.log w by push_cast; ring] at double
  have lw0 : 0 ≤ Real.log w := Real.log_nonneg w1
  have lw1 : Real.log w ≤ Real.log 2 := Real.log_le_log (by linarith) w2
  have quotient := double.div (near_ln2At b) (Real.log_pos one_lt_two) (by rw [abs_of_nonneg lw0]; exact lw1) (ln2At_bounds hb).1
  exact ((Near.exact _).add quotient).mono (by norm_num; linarith)

theorem lead_neg_iff {m : Nat} (hm : 0 < m) (e : Int) : e + Nat.log2 m < 0 ↔ (m : ℝ) * 2 ^ e < 1 := by
  have lo : ((2 ^ Nat.log2 m : Nat) : ℝ) ≤ m := by exact_mod_cast Nat.log2_self_le hm.ne'
  have hi : (m : ℝ) < ((2 ^ (Nat.log2 m + 1) : Nat) : ℝ) := by exact_mod_cast Nat.lt_log2_self
  push_cast at lo hi
  constructor
  · intro h
    calc (m : ℝ) * 2 ^ e < 2 ^ (Nat.log2 m + 1) * 2 ^ e := by gcongr
      _ = 2 ^ (((Nat.log2 m + 1 : Nat) : Int) + e) := by rw [zpow_add₀ two_ne_zero, zpow_natCast]
      _ ≤ 1 := zpow_le_one_of_nonpos₀ one_le_two (by push_cast; omega)
  · intro h
    by_contra high
    have : (1 : ℝ) ≤ 2 ^ Nat.log2 m * 2 ^ e := by
      rw [← zpow_natCast, ← zpow_add₀ two_ne_zero]
      exact one_le_zpow₀ one_le_two (by omega)
    have : (2 : ℝ) ^ Nat.log2 m * 2 ^ e ≤ m * 2 ^ e := by gcongr
    linarith

/-- FLOG2's sign and magnitude. -/
theorem log2Mag_spec {m : Nat} (hm : 0 < m) (hp : m < 2 ^ 24) (e : Int) :
    (log2Mag m e).1 = decide ((m : ℝ) * 2 ^ e < 1) ∧ Claims.StandsFor (log2Mag m e).2 |Real.logb 2 ((m : ℝ) * 2 ^ e)| 0 := by
  have sign : decide (e + Nat.log2 m < 0) = decide ((m : ℝ) * 2 ^ e < 1) := decide_eq_decide.2 (lead_neg_iff hm e)
  have bits : Nat.log2 m < 24 := (Nat.log2_lt hm.ne').2 hp
  by_cases power : m = 2 ^ Nat.log2 m
  · generalize Nat.log2 m = l at power sign
    subst power
    rw [log2Mag_pow]
    refine ⟨sign, .inl ?_⟩
    have value : |Real.logb 2 (((2 ^ l : Nat) : ℝ) * 2 ^ e)| = ((e + l).natAbs : ℝ) := by
      have : ((2 ^ l : Nat) : ℝ) * 2 ^ e = 2 ^ (e + l) := by
        rw [zpow_add₀ two_ne_zero, zpow_natCast, mul_comm]
        push_cast
        rfl
      rw [this, ← Real.rpow_intCast, Real.logb_rpow two_pos (by norm_num), Nat.cast_natAbs, Int.cast_abs]
    rw [value]
    exact ⟨by simp, by simp, by simp⟩
  · rw [log2Mag_other e power]
    have settled := standsFor_refine_of_near (approx := fun b => (log2At m e b).natAbs) (v := |Real.logb 2 ((m : ℝ) * 2 ^ e)|) (c := 6 * 1536 + 121)
      (by norm_num) fun b hb hb' => by
        have : (b : ℝ) ≤ 1536 := by exact_mod_cast hb'
        exact ((near_log2At hm hb (by omega)).natAbs).mono (by linarith)
    refine ⟨sign, ?_⟩
    dsimp only
    exact settled.1

/-! FTANH. -/

theorem expSeries_nonneg {b : Nat} {y : Int} (hy : 0 ≤ y) (n k : Nat) {t : Int} (ht : 0 ≤ t) : 0 ≤ expSeries b y n k t := by
  induction n generalizing k t with
  | zero => exact le_rfl
  | succ n ih => exact Int.add_nonneg ht (ih _ (Int.ediv_nonneg (Int.mul_nonneg ht hy) (by positivity)))

/-- How often ln 2 goes into 2v, and one more. -/
def tanhCount (b m : Nat) (e : Int) : Int := 2 * fixed b m e / ln2At b + 1

/-- e^(−2v) with `b` fraction bits. -/
def tanhExp (b m : Nat) (e : Int) : Int := expAt b (tanhCount b m e * ln2At b - 2 * fixed b m e) / 2 ^ (tanhCount b m e).toNat

theorem tanhMag_small {m : Nat} {e : Int} (h : (m : ℝ) * 2 ^ e < 2 ^ (-44 : Int)) : tanhMag m e = ⟨m * 2 ^ 64 - 1, e - 64, true⟩ := by
  unfold tanhMag
  rw [if_pos (below_iff.2 h)]

theorem tanhMag_large {m : Nat} {e : Int} (h : 2 ^ (6 : Int) ≤ (m : ℝ) * 2 ^ e) : tanhMag m e = justBelow 1 0 := by
  have not_small : ¬below m e (-44) = true := fun hs => absurd (below_iff.1 hs) (not_lt.2 (le_trans (zpow_le_zpow_right₀ one_le_two (by norm_num)) h))
  have not_below : below m e 6 = false := Bool.eq_false_iff.2 fun hs => absurd (below_iff.1 hs) (not_lt.2 h)
  unfold tanhMag
  rw [if_neg not_small, not_below, if_pos (by decide)]

theorem tanhMag_middle {m : Nat} {e : Int} (h : 2 ^ (-44 : Int) ≤ (m : ℝ) * 2 ^ e) (h' : (m : ℝ) * 2 ^ e < 2 ^ (6 : Int)) :
    tanhMag m e = refine (fun b => ((2 ^ b - tanhExp b m e) * 2 ^ b / (2 ^ b + tanhExp b m e)).toNat) := by
  have not_small : ¬below m e (-44) = true := fun hs => absurd (below_iff.1 hs) (not_lt.2 h)
  have not_large : (!below m e 6) = false := by rw [below_iff.2 h']; rfl
  unfold tanhMag
  rw [if_neg not_small, not_large, if_neg Bool.false_ne_true]
  rfl

/-- The power of e, for values below 64. -/
theorem near_tanhExp {b m : Nat} {e : Int} (hb : 192 ≤ b) (he : 0 ≤ e + b) (h : (m : ℝ) * 2 ^ e < 64) :
    0 ≤ tanhExp b m e ∧ Near b (tanhExp b m e) (Real.exp (-(2 * ((m : ℝ) * 2 ^ e)))) (5 * b + 79) := by
  have pos : (0 : ℝ) < 2 ^ b := by positivity
  have nonneg : (0 : ℝ) ≤ b := b.cast_nonneg
  have v0 : 0 ≤ (m : ℝ) * 2 ^ e := by positivity
  have value := fixed_eq (b := b) m he
  generalize (m : ℝ) * 2 ^ e = v at h v0 value
  have whole : Near b (2 * fixed b m e) (2 * v) 0 := by
    unfold Near
    push_cast
    rw [value, mul_assoc, sub_self, abs_zero]
  obtain ⟨ln_lo, ln_hi⟩ := ln2At_bounds hb
  have small := units_small hb
  have ln := near_ln2At b
  unfold tanhExp tanhCount
  have x0 : 0 ≤ 2 * fixed b m e := by
    have : (0 : ℝ) ≤ fixed b m e := by rw [value]; positivity
    have : 0 ≤ fixed b m e := by exact_mod_cast this
    omega
  have x1 : ((2 * fixed b m e : Int) : ℝ) ≤ 128 * 2 ^ b := by
    push_cast
    rw [value]
    nlinarith
  generalize 2 * fixed b m e = X at whole x0 x1
  generalize ln2At b = L at ln ln_lo ln_hi
  have Lpos : (0 : ℝ) < L := by linarith
  have Lpos' : 0 < L := by exact_mod_cast Lpos
  have n0 : 0 ≤ X / L := Int.ediv_nonneg x0 Lpos'.le
  have n1 : ((X / L : Int) : ℝ) ≤ 256 := by
    refine (ediv_le_div X Lpos').trans ?_
    rw [div_le_iff₀ Lpos]
    linarith
  have rest0 := Int.emod_nonneg X Lpos'.ne'
  have rest1 := Int.emod_lt_of_pos X Lpos'
  have digits := Int.emod_add_ediv_mul X L
  generalize X / L = q at n0 n1 digits
  obtain ⟨n, rfl⟩ := Int.eq_ofNat_of_zero_le n0
  have y : ((n : Int) + 1) * L - X = L - X % L := by linarith
  rw [show ((n : Int) + 1).toNat = n + 1 by omega]
  have near := (ln.mul_int (n + 1)).sub whole
  have count : |(((n : Int) + 1 : Int) : ℝ)| = n + 1 := by push_cast; exact abs_of_nonneg (by positivity)
  rw [count, add_zero] at near
  have y0 : 0 ≤ ((n : Int) + 1) * L - X := by omega
  have y1 : ((((n : Int) + 1) * L - X : Int) : ℝ) ≤ L := by
    rw [y]
    exact_mod_cast (by omega : L - X % L ≤ L)
  generalize ((n : Int) + 1) * L - X = Y at near y0 y1
  push_cast at near n1
  refine ⟨Int.ediv_nonneg (expSeries_nonneg y0 _ _ (by positivity)) (by positivity), ?_⟩
  have y2 : 4 * Y ≤ 3 * 2 ^ b := by
    have : 4 * (Y : ℝ) ≤ 3 * 2 ^ b := by linarith
    exact_mod_cast this
  have y3 : (Y : ℝ) / 2 ^ b ≤ 1 := by
    rw [div_le_one pos]
    linarith
  have y4 : (n + 1) * Real.log 2 - 2 * v ≤ 1 := by
    have := (abs_le.1 near).1
    have : ((n + 1) * Real.log 2 - 2 * v) * 2 ^ b ≤ 1 * 2 ^ b := by nlinarith
    exact le_of_mul_le_mul_right this pos
  have power : Near b (expAt b Y) (Real.exp ((n + 1) * Real.log 2 - 2 * v)) (2 * b + 66 + 3 * ((n + 1) * (b + 4))) := by
    refine (near_expAt y0 y2).shift ?_
    calc |Real.exp (Y / 2 ^ b) - Real.exp ((n + 1) * Real.log 2 - 2 * v)| * 2 ^ b ≤ 3 * |(Y : ℝ) / 2 ^ b - ((n + 1) * Real.log 2 - 2 * v)| * 2 ^ b := by
          gcongr
          exact abs_exp_sub_le y3 y4
      _ ≤ 3 * ((n + 1) * (b + 4) / 2 ^ b) * 2 ^ b := by gcongr; exact near.abs_div_sub_le
      _ = 3 * ((n + 1) * (b + 4)) := by field_simp
  have quotient := power.ediv (Nat.two_pow_pos (n + 1))
  push_cast at quotient
  have scaled : Real.exp ((n + 1) * Real.log 2 - 2 * v) / 2 ^ (n + 1) = Real.exp (-(2 * v)) := by
    rw [sub_eq_add_neg, Real.exp_add, mul_comm _ (Real.log 2), ← Nat.cast_succ, ← Real.rpow_def_of_pos two_pos, Real.rpow_natCast, Nat.succ_eq_add_one,
      mul_div_cancel_left₀ _ (by positivity)]
  rw [scaled] at quotient
  refine quotient.mono ?_
  have grows : ((n + 1 : Nat) : ℝ) ≤ 2 ^ (n + 1) := by exact_mod_cast Nat.lt_two_pow_self.le
  have one : (1 : ℝ) ≤ 2 ^ (n + 1) := one_le_pow₀ one_le_two
  push_cast at grows
  have : (2 * b + 66 + 3 * ((n + 1) * (b + 4))) / (2 : ℝ) ^ (n + 1) ≤ 2 * b + 66 + 3 * (b + 4) := by
    rw [div_le_iff₀ (by positivity)]
    nlinarith
  linarith

theorem tanh_eq_quotient (v : ℝ) : Real.tanh v = (1 - Real.exp (-(2 * v))) / (1 + Real.exp (-(2 * v))) := by
  have square : Real.exp (-(2 * v)) = Real.exp (-v) * Real.exp (-v) := by rw [← Real.exp_add]; congr 1; ring
  have inverse : Real.exp v * Real.exp (-v) = 1 := by rw [← Real.exp_add, add_neg_cancel, Real.exp_zero]
  have up := Real.exp_pos v
  have down := Real.exp_pos (-v)
  rw [Real.tanh_eq, square, div_eq_div_iff (by positivity) (by positivity)]
  linear_combination (2 * Real.exp (-v)) * inverse

theorem tanh_lt_self {v : ℝ} (hv : 0 < v) : Real.tanh v < v := by
  rw [Real.tanh_eq_sinh_div_cosh, div_lt_iff₀ (Real.cosh_pos v)]
  have cosh := (Real.hasSum_cosh v).mul_left v
  refine hasSum_lt (fun n => ?_) (i := 1) ?_ (Real.hasSum_sinh v) cosh
  · rw [← mul_div_assoc, ← pow_succ']
    gcongr
    exact Nat.le_succ _
  · norm_num
    nlinarith [pow_pos hv 3]

theorem sub_le_tanh {v : ℝ} (hv : 0 ≤ v) : v - v * v ^ 2 ≤ Real.tanh v := by
  have sinh : v ≤ Real.sinh v := Real.self_le_sinh_iff.2 hv
  have cosh : Real.cosh v * (1 - v ^ 2) ≤ 1 := by
    calc Real.cosh v * (1 - v ^ 2) ≤ Real.exp (v ^ 2 / 2) * Real.exp (-(v ^ 2 / 2)) := by
          have tangent := Real.add_one_le_exp (-(v ^ 2 / 2))
          have := Real.cosh_le_exp_half_sq v
          have c := Real.cosh_pos v
          have p := Real.exp_pos (-(v ^ 2 / 2))
          nlinarith [mul_le_mul_of_nonneg_left tangent c.le, mul_le_mul_of_nonneg_right this p.le, sq_nonneg v]
      _ = 1 := by rw [← Real.exp_add, add_neg_cancel, Real.exp_zero]
  rw [Real.tanh_eq_sinh_div_cosh, le_div_iff₀ (Real.cosh_pos v)]
  nlinarith

/-- A unit of 2^-64 of a significand below 2^24 is above the cubes of values below 2^-44. -/
theorem cube_le {m : Nat} {e : Int} (hp : m < 2 ^ 24) (h : (m : ℝ) * 2 ^ e < 2 ^ (-44 : Int)) :
    (m : ℝ) * 2 ^ e * ((m : ℝ) * 2 ^ e) ^ 2 ≤ 2 ^ (e - 64) := by
  have nonneg : 0 ≤ (m : ℝ) * 2 ^ e := by positivity
  have digits : (m : ℝ) ≤ 2 ^ (24 : Int) := by exact_mod_cast hp.le
  calc (m : ℝ) * 2 ^ e * ((m : ℝ) * 2 ^ e) ^ 2 ≤ 2 ^ (24 : Int) * 2 ^ e * (2 ^ (-44 : Int)) ^ 2 := by gcongr
    _ = 2 ^ (e - 64) := by
      rw [← zpow_natCast, ← zpow_mul, ← zpow_add₀ two_ne_zero, ← zpow_add₀ two_ne_zero]
      congr 1
      push_cast
      ring

/-- FTANH's magnitude. -/
theorem tanhMag_spec {m : Nat} {e : Int} (hm : 0 < m) (hp : m < 2 ^ 24) (he : 0 ≤ e + 192) :
    Claims.StandsFor (tanhMag m e) (Real.tanh ((m : ℝ) * 2 ^ e)) 0 := by
  have pos : 0 < (m : ℝ) * 2 ^ e := by positivity
  rcases lt_or_ge ((m : ℝ) * 2 ^ e) (2 ^ (-44 : Int)) with small | above
  · rw [tanhMag_small small]
    have cube := cube_le hp small
    have lower := sub_le_tanh pos.le
    exact standsFor_below hm 64 (by push_cast; linarith) (tanh_lt_self pos)
  · rcases lt_or_ge ((m : ℝ) * 2 ^ e) (2 ^ (6 : Int)) with below | large
    · rw [tanhMag_middle above below]
      have settled := standsFor_refine_of_near (approx := fun b => ((2 ^ b - tanhExp b m e) * 2 ^ b / (2 ^ b + tanhExp b m e)).toNat)
        (v := Real.tanh ((m : ℝ) * 2 ^ e)) (c := 20 * 1536 + 400) (by norm_num) fun b hb hb' => by
          have : (b : ℝ) ≤ 1536 := by exact_mod_cast hb'
          obtain ⟨d0, near⟩ := near_tanhExp (m := m) (e := e) hb (by omega) (lt_of_lt_of_le below (by norm_num))
          have d0 : (0 : ℝ) ≤ tanhExp b m e := by exact_mod_cast d0
          have one : Near b (2 ^ b) 1 0 := by simp [Near]
          have power : 0 < Real.exp (-(2 * ((m : ℝ) * 2 ^ e))) := Real.exp_pos _
          have nonneg : Real.exp (-(2 * ((m : ℝ) * 2 ^ e))) ≤ 1 := Real.exp_le_one_iff.2 (by linarith)
          have quotient := (one.sub near).div (one.add near) (by positivity) (by rw [abs_of_nonneg (by linarith)]; linarith)
            (by push_cast; have : (0 : ℝ) < 2 ^ b := by positivity
                linarith)
          rw [tanh_eq_quotient]
          exact (quotient.mono (by linarith)).toNat (div_nonneg (by linarith) (by positivity))
      exact settled.1
    · rw [tanhMag_large large]
      have large : 64 ≤ (m : ℝ) * 2 ^ e := le_trans (by norm_num) large
      refine standsFor_below (m := 1) one_pos 80 ?_ (by simpa using Real.tanh_lt_one _)
      have tiny : Real.exp (-(2 * ((m : ℝ) * 2 ^ e))) ≤ 2 ^ (-81 : Int) := by
        have two : (2 : ℝ) ≤ Real.exp 1 := by linarith [Real.add_one_le_exp 1]
        calc Real.exp (-(2 * ((m : ℝ) * 2 ^ e))) ≤ Real.exp (-((81 : Nat) * 1)) := Real.exp_le_exp.2 (by push_cast; linarith)
          _ = (Real.exp 1 ^ 81)⁻¹ := by rw [Real.exp_neg, Real.exp_nat_mul]
          _ ≤ (2 ^ 81)⁻¹ := by gcongr
          _ = 2 ^ (-81 : Int) := by norm_num
      have power := Real.exp_pos (-(2 * ((m : ℝ) * 2 ^ e)))
      rw [tanh_eq_quotient, le_div_iff₀ (by positivity)]
      norm_num at tiny ⊢
      nlinarith

end Machine
end Sys2Proof
end

section
/-! PROOFS. FSIN and FCOS (06 R119): the quadrant, the rest in it, and the sign; and the statement of FUNARY, FMIN, FMAX and FCPYS. -/

namespace Sys2Proof
namespace Machine

open Real (pi)

/-! Quadrants. -/

/-- What sine takes in quadrant `n` of the rest. -/
noncomputable def quadrant (n : Int) (r : ℝ) : ℝ := if n % 2 = 0 then Real.sin r else Real.cos r

theorem sin_add_quarter (n : Int) (r : ℝ) : Real.sin (n * (pi / 2) + r) = (if 2 ≤ n % 4 then -1 else 1) * quadrant n r := by
  obtain ⟨q, t, rfl, h0, h4⟩ : ∃ q t : Int, n = t + q * 4 ∧ 0 ≤ t ∧ t < 4 :=
    ⟨n / 4, n % 4, (Int.emod_add_ediv_mul n 4).symm, Int.emod_nonneg n (by norm_num), Int.emod_lt_of_pos n (by norm_num)⟩
  have turn : ((t + q * 4 : Int) : ℝ) * (pi / 2) + r = t * (pi / 2) + r + q * (2 * pi) := by push_cast; ring
  have half : (t + q * 4) % 2 = t % 2 := by omega
  rw [turn, Real.sin_add_int_mul_two_pi, quadrant, Int.add_mul_emod_self_right, half]
  interval_cases t
  · norm_num
  · norm_num [add_comm, Real.sin_add_pi_div_two]
  · rw [show ((2 : Int) : ℝ) * (pi / 2) + r = r + pi by push_cast; ring, Real.sin_add_pi]
    norm_num
  · rw [show ((3 : Int) : ℝ) * (pi / 2) + r = r + pi / 2 + pi by push_cast; ring, Real.sin_add_pi, Real.sin_add_pi_div_two]
    norm_num

/-- In its own quadrant it is not below zero, but for what the quadrant's ends are off. -/
theorem quadrant_ge {n : Int} {r ε : ℝ} (h0 : 0 ≤ ε) (hε : ε ≤ 1) (lo : -ε ≤ r) (hi : r ≤ pi / 2 + ε) : -ε ≤ quadrant n r := by
  have three := Real.pi_gt_three
  unfold quadrant
  split
  · rcases le_total 0 r with h | h
    · have := Real.sin_nonneg_of_nonneg_of_le_pi h (by linarith)
      linarith
    · linarith [Real.le_sin h]
  · rcases le_total r (pi / 2) with h | h
    · have := Real.cos_nonneg_of_neg_pi_div_two_le_of_le (x := r) (by linarith) h
      linarith
    · have := Real.sin_le (x := r - pi / 2) (by linarith)
      rw [Real.sin_sub_pi_div_two] at this
      linarith

theorem near_quadrant {b : Nat} {y : Int} (h0 : 0 ≤ y) (hy : y ≤ 2 * 2 ^ b) (n : Int) {r c : ℝ} (hr : Near b y r c) :
    Near b (if n % 2 = 0 then sinAt b y else cosAt b y) (quadrant n r) (2 * b + 98 + c) := by
  have pos : (0 : ℝ) < 2 ^ b := by positivity
  have off (f : ℝ → ℝ) (hf : ∀ x y, |f x - f y| ≤ |x - y|) : |f ((y : ℝ) / 2 ^ b) - f r| * 2 ^ b ≤ c := by
    calc |f ((y : ℝ) / 2 ^ b) - f r| * 2 ^ b ≤ c / 2 ^ b * 2 ^ b := by gcongr; exact (hf _ _).trans hr.abs_div_sub_le
      _ = c := by field_simp
  unfold quadrant
  split
  · exact (near_sinAt h0 hy).shift (off Real.sin Real.abs_sin_sub_sin_le)
  · exact (near_cosAt h0 hy).shift (off Real.cos Real.abs_cos_sub_cos_le)

/-! The model's quadrant and rest. -/

/-- How many quarters of a circle go into the value; one more for the cosine. -/
def sinCount (cos : Bool) (b m : Nat) (e : Int) : Int := fixed (b + 192) m e / (piAt (b + 192) / 2) + (if cos then 1 else 0)

/-- The rest, with `b` fraction bits. -/
def sinRest (b m : Nat) (e : Int) : Int := fixed (b + 192) m e % (piAt (b + 192) / 2) / 2 ^ 192

theorem sinCosMag_small {cos : Bool} {m : Nat} {e : Int} (h : (m : ℝ) * 2 ^ e < 2 ^ (-44 : Int)) :
    sinCosMag cos m e = (false, if cos then justBelow 1 0 else ⟨m * 2 ^ 64 - 1, e - 64, true⟩) := by
  unfold sinCosMag
  rw [if_pos (below_iff.2 h)]

theorem sinCosMag_other {cos : Bool} {m : Nat} {e : Int} (h : 2 ^ (-44 : Int) ≤ (m : ℝ) * 2 ^ e) : sinCosMag cos m e =
    (decide (2 ≤ sinCount cos 192 m e % 4),
      refine (fun b => (if sinCount cos b m e % 2 = 0 then sinAt b (sinRest b m e) else cosAt b (sinRest b m e)).natAbs)) := by
  have not_small : ¬below m e (-44) = true := fun hs => absurd (below_iff.1 hs) (not_lt.2 h)
  unfold sinCosMag
  rw [if_neg not_small]
  rfl

theorem near_piHalf {b : Nat} (hb : b ≤ 1728) : Near b (piAt b / 2) (pi / 2) (2 ^ 14) := by
  have quarter := (near_piAt b).ediv two_pos
  push_cast at quarter
  have : (b : ℝ) ≤ 1728 := by exact_mod_cast hb
  exact quarter.mono (by linarith)

/-- A quarter of a circle lies between one and two units. -/
theorem piHalf_bounds {b : Nat} (hb : 384 ≤ b) (hb' : b ≤ 1728) : (2 : ℝ) ^ b ≤ (piAt b / 2 : Int) ∧ ((piAt b / 2 : Int) : ℝ) ≤ 2 * 2 ^ b := by
  have near := abs_le.1 (near_piHalf hb')
  have big : (2 : ℝ) ^ 20 ≤ 2 ^ b := pow_le_pow_right₀ one_le_two (by omega)
  have lower := Real.pi_gt_three
  have upper := Real.pi_lt_d2
  generalize (2 : ℝ) ^ b = B at near big
  constructor <;> nlinarith

/-- How far the error of π has carried the rest of a value. -/
theorem abs_rest_sub_le {B v p q : ℝ} {X Q : Int} (hB : 0 < B) (hX : (X : ℝ) = v * B) (hX0 : 0 ≤ X) (hQ : B ≤ Q) (hp : |(Q : ℝ) - p * B| ≤ q) (hv : v ≤ 2 ^ 128) :
    |(v - (X / Q : Int) * p) * B - (X % Q : Int)| ≤ 2 ^ 128 * q := by
  have Qpos : 0 < Q := by
    have : (0 : ℝ) < Q := by linarith
    exact_mod_cast this
  have n0 : (0 : ℝ) ≤ (X / Q : Int) := by exact_mod_cast Int.ediv_nonneg hX0 Qpos.le
  have digits : ((X % Q : Int) : ℝ) + (X / Q : Int) * Q = v * B := by
    rw [← hX]
    exact_mod_cast Int.emod_add_ediv_mul X Q
  have count : ((X / Q : Int) : ℝ) ≤ 2 ^ 128 := by
    have rest : (0 : ℝ) ≤ (X % Q : Int) := by exact_mod_cast Int.emod_nonneg X Qpos.ne'
    refine le_of_mul_le_mul_right ?_ hB
    calc ((X / Q : Int) : ℝ) * B ≤ (X / Q : Int) * Q := by gcongr
      _ ≤ v * B := by linarith
      _ ≤ 2 ^ 128 * B := by gcongr
  rw [show (v - (X / Q : Int) * p) * B - (X % Q : Int) = (X / Q : Int) * (Q - p * B) by rw [sub_mul, ← digits]; ring, abs_mul, abs_of_nonneg n0]
  exact mul_le_mul count hp (abs_nonneg _) (by positivity)

/-- The value is its quarters and the rest, which 192 bits more keep from the error of π. -/
theorem exists_rest {b m : Nat} {e : Int} (hb : 192 ≤ b) (hb' : b ≤ 1536) (he : 0 ≤ e + 192) (hv : (m : ℝ) * 2 ^ e ≤ 2 ^ 128) :
    ∃ r : ℝ, (m : ℝ) * 2 ^ e = ((sinCount false b m e : Int) : ℝ) * (pi / 2) + r ∧ -(1 / 2 ^ 200) ≤ r ∧ r ≤ pi / 2 + 1 / 2 ^ 200 ∧
      Near b (sinRest b m e) r 2 ∧ 0 ≤ sinRest b m e ∧ sinRest b m e ≤ 2 * 2 ^ b := by
  have value := fixed_eq (b := b + 192) m (e := e) (by push_cast; omega)
  have v0 : 0 ≤ (m : ℝ) * 2 ^ e := by positivity
  have near := near_piHalf (b := b + 192) (by omega)
  obtain ⟨Q1, Q2⟩ := piHalf_bounds (b := b + 192) (by omega) (by omega)
  unfold sinCount sinRest
  rw [if_neg Bool.false_ne_true, add_zero]
  generalize (m : ℝ) * 2 ^ e = v at value hv v0
  generalize piAt (b + 192) / 2 = Q at near Q1 Q2
  generalize fixed (b + 192) m e = X at value
  have big : (2 : ℝ) ^ 200 * 2 ^ 143 ≤ 2 ^ (b + 192) := by
    rw [← pow_add]
    exact pow_le_pow_right₀ one_le_two (by omega)
  have scale : (2 : ℝ) ^ (b + 192) = 2 ^ b * 2 ^ 192 := pow_add _ _ _
  have Bpos : (0 : ℝ) < 2 ^ (b + 192) := by positivity
  unfold Near at near
  generalize (2 : ℝ) ^ (b + 192) = B at value near Q1 Q2 big scale Bpos
  have X0 : 0 ≤ X := by
    have : (0 : ℝ) ≤ X := by rw [value]; positivity
    exact_mod_cast this
  have Qpos : 0 < Q := by
    have : (0 : ℝ) < Q := by linarith
    exact_mod_cast this
  have drift := abs_rest_sub_le Bpos value X0 Q1 near hv
  have R0 := Int.emod_nonneg X Qpos.ne'
  have R1 := Int.emod_lt_of_pos X Qpos
  generalize X / Q = n at drift
  generalize X % Q = R at R0 R1 drift
  have Rr0 : (0 : ℝ) ≤ R := by exact_mod_cast R0
  have Rr1 : (R : ℝ) < Q := by exact_mod_cast R1
  have ends := abs_le.1 drift
  have ends' := abs_le.1 near
  refine ⟨v - n * (pi / 2), by ring, ?_, ?_, ?_, Int.ediv_nonneg R0 (by positivity), ?_⟩
  · refine le_of_mul_le_mul_right ?_ Bpos
    linarith
  · refine le_of_mul_le_mul_right ?_ Bpos
    linarith
  · have floor := abs_ediv_sub_le R (show (0 : Int) < 2 ^ 192 by norm_num)
    have part : |(R : ℝ) / ((2 ^ 192 : Int) : ℝ) - (v - n * (pi / 2)) * 2 ^ b| ≤ 1 := by
      have real : (R : ℝ) / ((2 ^ 192 : Int) : ℝ) - (v - n * (pi / 2)) * 2 ^ b = -(((v - n * (pi / 2)) * B - R) / 2 ^ 192) := by
        rw [Int.cast_pow, Int.cast_ofNat, scale]
        field_simp
        ring
      rw [real, abs_neg, abs_div, abs_of_pos (by positivity : (0 : ℝ) < 2 ^ 192)]
      exact div_le_one_of_le₀ (drift.trans (by norm_num)) (by positivity)
    have := abs_sub_le ((R / 2 ^ 192 : Int) : ℝ) ((R : ℝ) / ((2 ^ 192 : Int) : ℝ)) ((v - n * (pi / 2)) * 2 ^ b)
    unfold Near
    linarith
  · refine Int.ediv_le_of_le_mul (by positivity) ?_
    have : (R : ℝ) ≤ 2 * 2 ^ b * 2 ^ 192 := by
      rw [mul_assoc, ← scale]
      linarith
    exact_mod_cast this

/-- Sine or cosine. -/
noncomputable def sinOrCos (cos : Bool) (v : ℝ) : ℝ := if cos then Real.cos v else Real.sin v

/-- By the quadrant and the rest. -/
theorem sinOrCos_eq (cos : Bool) {b m : Nat} {e : Int} {v r : ℝ} (hv : v = ((sinCount false b m e : Int) : ℝ) * (pi / 2) + r) :
    sinOrCos cos v = (if 2 ≤ sinCount cos b m e % 4 then -1 else 1) * quadrant (sinCount cos b m e) r := by
  rw [← sin_add_quarter]
  cases cos with
  | false => rw [← hv]; rfl
  | true =>
    have count : sinCount true b m e = sinCount false b m e + 1 := by unfold sinCount; rw [if_pos rfl, if_neg Bool.false_ne_true, add_zero]
    rw [count, show ((sinCount false b m e + 1 : Int) : ℝ) * (pi / 2) + r = v + pi / 2 by rw [hv]; push_cast; ring, Real.sin_add_pi_div_two]
    rfl

theorem sinOrCos_small {cos : Bool} {m : Nat} {e : Int} (hm : 0 < m) (hp : m < 2 ^ 24) (h : (m : ℝ) * 2 ^ e < 2 ^ (-44 : Int)) :
    0 < sinOrCos cos ((m : ℝ) * 2 ^ e) ∧ Claims.StandsFor (if cos then justBelow 1 0 else ⟨m * 2 ^ 64 - 1, e - 64, true⟩) (sinOrCos cos ((m : ℝ) * 2 ^ e)) 0 := by
  have pos : 0 < (m : ℝ) * 2 ^ e := by positivity
  have tiny : (m : ℝ) * 2 ^ e < 1 := h.trans (by norm_num)
  have cube := cube_le hp h
  have unit : (2 : ℝ) ^ (-44 : Int) = 1 / 2 ^ 44 := by norm_num
  rw [unit] at h
  generalize hv : (m : ℝ) * 2 ^ e = v at pos tiny cube h
  cases cos with
  | true =>
    have lower := Real.one_sub_sq_div_two_le_cos (x := v)
    have upper : Real.cos v < 1 := by
      rw [← Real.cos_zero]
      exact Real.cos_lt_cos_of_nonneg_of_le_pi le_rfl (by linarith [Real.pi_gt_three]) pos
    have square : v ^ 2 ≤ (1 / 2 ^ 44) ^ 2 := by gcongr
    refine ⟨by simp only [sinOrCos, if_true]; norm_num at square; linarith, ?_⟩
    refine standsFor_below (m := 1) one_pos 80 ?_ (by simpa [sinOrCos] using upper)
    simp only [sinOrCos, if_true]
    norm_num at square ⊢
    linarith
  | false =>
    have lower := Real.sin_gt_sub_cube pos
    have cube : v ^ 3 / 6 ≤ 2 ^ (e - 64) := by
      have : v * v ^ 2 = v ^ 3 := by ring
      have : 0 < v ^ 3 := by positivity
      linarith
    have positive : 0 < Real.sin v := Real.sin_pos_of_pos_of_lt_pi pos (by linarith [Real.pi_gt_three])
    exact ⟨positive, standsFor_below hm 64 (by rw [hv]; push_cast; exact (by linarith : v - 2 ^ (e - 64) ≤ Real.sin v)) (by rw [hv]; exact Real.sin_lt pos)⟩

/-- FSIN's and FCOS's sign and magnitude. -/
theorem sinCosMag_spec (cos : Bool) {m : Nat} {e : Int} (hm : 0 < m) (hp : m < 2 ^ 24) (he : 0 ≤ e + 192) (hv : (m : ℝ) * 2 ^ e ≤ 2 ^ 128) :
    Claims.StandsFor (sinCosMag cos m e).2 |sinOrCos cos ((m : ℝ) * 2 ^ e)| 0 ∧
      (2 ^ (-100 : Int) < |sinOrCos cos ((m : ℝ) * 2 ^ e)| → ((sinCosMag cos m e).1 = true ↔ sinOrCos cos ((m : ℝ) * 2 ^ e) < 0)) := by
  rcases lt_or_ge ((m : ℝ) * 2 ^ e) (2 ^ (-44 : Int)) with small | above
  · obtain ⟨pos, stands⟩ := sinOrCos_small (cos := cos) hm hp small
    rw [sinCosMag_small small, abs_of_pos pos]
    exact ⟨stands, fun _ => ⟨fun h => Bool.noConfusion h, fun h => absurd h (not_lt.2 pos.le)⟩⟩
  · rw [sinCosMag_other above]
    have size (b : Nat) (n : Int) (r : ℝ) : |(if 2 ≤ n % 4 then -1 else 1) * quadrant n r| = |quadrant n r| := by
      rw [abs_mul]
      split <;> simp
    have settled := standsFor_refine_of_near
      (approx := fun b => (if sinCount cos b m e % 2 = 0 then sinAt b (sinRest b m e) else cosAt b (sinRest b m e)).natAbs)
      (v := |sinOrCos cos ((m : ℝ) * 2 ^ e)|) (c := 2 * 1536 + 100) (by norm_num) fun b hb hb' => by
        obtain ⟨r, value, -, -, near, y0, y1⟩ := exists_rest hb hb' he hv
        have : (b : ℝ) ≤ 1536 := by exact_mod_cast hb'
        rw [sinOrCos_eq cos value, size b]
        exact ((near_quadrant y0 y1 _ near).mono (by linarith)).natAbs
    dsimp only
    refine ⟨settled.1, fun large => ?_⟩
    obtain ⟨r, value, lo, hi, -⟩ := exists_rest (b := 192) le_rfl (by norm_num) he hv
    rw [sinOrCos_eq cos value, size 192] at large
    rw [sinOrCos_eq cos value, decide_eq_true_eq]
    have low := quadrant_ge (n := sinCount cos 192 m e) (by positivity) (by norm_num) lo hi
    have positive : 0 < quadrant (sinCount cos 192 m e) r := by
      by_contra neg
      rw [abs_of_nonpos (not_lt.1 neg)] at large
      norm_num at large low
      linarith
    split
    · next second => simpa [second] using positive
    · next first => simpa [first] using positive.le

end Machine
end Sys2Proof
end

section
/-! PROOFS. FUNARY on finite operands, and the statement of FMIN, FMAX, FCPYS and FUNARY (06 R117 to R119). -/

namespace Sys2Proof
namespace Machine

section
variable {k : Fmt} (h : How) (neg : Bool) {m : Nat} (hm : 0 < m) (e : Int)

include hm

theorem fUnary_rcp : fUnary k h 0 (.fin neg m e) = (divMag 1 0 m e).round k h neg := if_neg hm.ne'

theorem fUnary_rsq : fUnary k h 1 (.fin false m e) = (rsqMag m e).round k h false := by
  unfold fUnary
  simp only [if_neg hm.ne', Bool.false_eq_true, if_false]

theorem fUnary_sqrt : fUnary k h 2 (.fin false m e) = (sqrtMag m e).round k h false := by
  unfold fUnary
  simp only [if_neg hm.ne', Bool.false_eq_true, if_false]

theorem fUnary_exp2 : fUnary k h 3 (.fin neg m e) = (exp2Mag neg m e).round k h false := if_neg hm.ne'

theorem fUnary_log2 : fUnary k h 4 (.fin false m e) = (log2Mag m e).2.round k h (log2Mag m e).1 := if_neg hm.ne'

theorem fUnary_sin : fUnary k h 5 (.fin neg m e) = (sinCosMag false m e).2.round k h (neg != (sinCosMag false m e).1) := if_neg hm.ne'

theorem fUnary_cos : fUnary k h 6 (.fin neg m e) = (sinCosMag true m e).2.round k h (sinCosMag true m e).1 := if_neg hm.ne'

theorem fUnary_tanh : fUnary k h 7 (.fin neg m e) = (tanhMag m e).round k h neg := if_neg hm.ne'

end

/-- A finite value of any format is below 2^128, with no bit below 2^-149. -/
theorem formats_value {k : Fmt} (hk : k ∈ Claims.formats) {m : Nat} {e : Int} (hp : m < 2 ^ k.p) (hlow : k.low ≤ e) (htop : e ≤ k.emax - (k.p - 1)) :
    m < 2 ^ 24 ∧ 0 ≤ e + 192 ∧ (m : ℝ) * 2 ^ e ≤ 2 ^ 128 := by
  obtain ⟨low, top, digits⟩ := formats_range hk
  refine ⟨hp.trans_le (Nat.pow_le_pow_right two_pos digits), by omega, ?_⟩
  calc (m : ℝ) * 2 ^ e ≤ 2 ^ k.p * 2 ^ e := by gcongr; exact_mod_cast hp.le
    _ = 2 ^ ((k.p : Int) + e) := by rw [zpow_add₀ two_ne_zero, zpow_natCast]
    _ ≤ 2 ^ ((128 : Nat) : Int) := zpow_le_zpow_right₀ one_le_two (by omega)
    _ = 2 ^ 128 := zpow_natCast _ _

/-- FEXP2 of an integer. -/
theorem fUnary_exp2_whole {k : Fmt} (hk : k ∈ Claims.formats) (h : How) (neg : Bool) {m n : Nat} {e : Int} (hm : 0 < m) (he : 0 ≤ e + 192)
    (hn : (m : ℝ) * 2 ^ e = n) : fUnary k h 3 (.fin neg m e) = (Num.fin false 1 (if neg then -(n : Int) else n)).round k h := by
  rw [fUnary_exp2 h neg hm]
  rcases Nat.lt_or_ge n 2048 with small | large
  · rw [exp2Mag_whole hm he hn small]
    rfl
  · exact exp2Mag_large_round hk h hm (by rw [hn]; exact_mod_cast large) large

/-- Settles O18. The codes of FMIN and FMAX compare as their keys; the roots and quotients are integer arithmetic; of the other functions each
approximation is off by fewer units than `settle` allows for, so that the bits it settles are those of the value. -/
theorem unaryAndMinMax : Obligations.UnaryAndMinMax := by
  unfold Obligations.UnaryAndMinMax
  refine ⟨fun k hk x y hx hy => ?_, ⟨fun k hk h e => ?_, fun m e hm hp => ⟨sqrtMag_spec hp, rcpMag_spec e hm, rsqMag_spec hm⟩⟩,
    fun k hk h neg m e hm hp hlow htop => ?_⟩
  · refine ⟨fun _ => by rw [fMinMax_keep hx hy], fun _ ha hb => ?_, fun _ ha hb => ?_, fun _ ha hb => ?_, fun ha hb => ?_, fCopySign_eq hy⟩
    · rw [fMinMax_keep hx hy, ha, hb]; rfl
    · rw [fMinMax_keep hx hy, ha, hb]; rfl
    · rw [fMinMax_keep hx hy, ha, hb]; rfl
    · have result (max : Bool) : (fMinMax k false max x y).1 = if max then (if Claims.order k x < Claims.order k y then y else x)
          else if Claims.order k y < Claims.order k x then y else x := by
        rw [fMinMax_keep hx hy, ha, hb]
        rfl
      refine ⟨?_, ?_, fun max => ?_⟩
      · rw [result, if_neg Bool.false_ne_true]
        split <;> omega
      · rw [result, if_pos rfl]
        split <;> omega
      · rw [result]
        split <;> split <;> simp
  · exact ⟨fun mn sig _ => fUnary_nan h sig mn, fun mn => fUnary_posZero h e, fun mn => fUnary_negZero h e, fun mn => fUnary_posInf h,
      fun mn => fUnary_negInf h, fun m hm mn => fUnary_below h hm e⟩
  · obtain ⟨digits, he, hv⟩ := formats_value hk hp hlow htop
    dsimp only
    refine ⟨fUnary_rcp h neg hm e, ?_, fun n hn => fUnary_exp2_whole hk h neg hm he hn, fun large => ?_, fun small => ?_, ?_, ?_, ?_, ?_⟩
    · rintro rfl
      exact ⟨fUnary_rsq h hm e, fUnary_sqrt h hm e⟩
    · rw [fUnary_exp2 h neg hm]
      exact exp2Mag_large_round hk h (n := 2048) hm large.le le_rfl
    · exact ⟨exp2Mag neg m e, fUnary_exp2 h neg hm e, standsFor_exp2Mag hm he small⟩
    · rintro rfl
      obtain ⟨sign, stands⟩ := log2Mag_spec hm digits e
      refine ⟨?_, (log2Mag m e).2, by rw [fUnary_log2 h hm, sign], stands⟩
      rintro l rfl
      rw [fUnary_log2 h hm, log2Mag_pow]
      rfl
    · obtain ⟨stands, sign⟩ := sinCosMag_spec false hm digits he hv
      exact ⟨_, _, fUnary_sin h neg hm e, stands, sign⟩
    · obtain ⟨stands, sign⟩ := sinCosMag_spec true hm digits he hv
      exact ⟨_, _, fUnary_cos h neg hm e, stands, sign⟩
    · exact ⟨_, fUnary_tanh h neg hm e, tanhMag_spec hm digits he⟩

end Machine
end Sys2Proof
end
